-- ==== Sys2Proof/Word.lean ====
section
/-! DEFINITION. The word types of the model: bytes, 32-bit and 64-bit words (R8: bit 0 is the least significant bit). -/

namespace Sys2Proof

/-- One byte of SRAM, of a stack, of a frame or of an object. -/
abbrev Byte := BitVec 8

/-- A 32-bit word: an X register, an FP32 word, a status word. -/
abbrev W32 := BitVec 32

/-- A 64-bit word. -/
abbrev W64 := BitVec 64

end Sys2Proof
end

