-- ==== Sys2Proof/Syntax.lean ====
section
/-! DEFINITION. The commands of the DW-1 engine: one constructor of `Instr` for each row of spec/opcode_table.json, with the row's operands. -/

namespace Sys2Proof

/-- A logical core (c, r) (00_scope.md, Notation). -/
structure CoreId where
  col : Nat
  row : Nat
  deriving DecidableEq, Repr

/-- A physical core P(c, r) (00_scope.md, Notation). -/
structure PhysId where
  col : Nat
  row : Nat
  deriving DecidableEq, Repr

/-- A 64-byte flit with its poison bit (R52). -/
structure Flit where
  data : List Byte
  poison : Bool
  deriving DecidableEq, Repr

/-- A mesh packet: the 64-bit route header of R57, its virtual channel (R54) and its flits. -/
structure Packet where
  hdr : W64
  vc : BitVec 2
  flits : List Flit
  deriving DecidableEq, Repr

/-- An SRAM error that a read meets (R81): the address of the 64-bit word, and whether it is correctable. -/
structure SramErr where
  word : Nat
  correctable : Bool
  deriving DecidableEq, Repr

/-- An operand together with the errors that the row's reads meet: of stack lines (R288, R294) or of SRAM words (R81). -/
structure Met (α ε : Type) where
  val : α
  errs : ε
  deriving DecidableEq, Repr

/-- An endpoint of a crescent: the crescent's number and the endpoint's (R58). -/
structure Endpoint where
  crescent : Nat
  number : Nat
  deriving DecidableEq, Repr

/-- What a link brings to a flit: the route header as received with an uncorrectable error, the errors corrected on the link, an
uncorrectable one (R53), and the cycles of the faster half that it waited at a seam FIFO (R75). -/
structure WireErr where
  raw : Option W64
  corrected : Nat
  bad : Bool
  seamWait : Nat
  deriving DecidableEq, Repr

/-- What the links of a flit that a router forwards bring to it: at the output that grants it, and at the other outputs of a fork (R60),
by output. -/
structure WireFlit where
  here : WireErr
  others : List (Nat × WireErr)
  deriving DecidableEq, Repr

/-- The times that a tick shows: the interval since the one before it, 0 at a first tick, and the error of the engine's own boundary
against it, in ns (R348, R396, R399). -/
structure TickTime where
  intervalNs : Nat
  offsetNs : Int
  deriving DecidableEq, Repr

/-- A PTP message as its port takes it (R398): the management port at which it arrives, its domain, and the offset from the grandmaster that it
gives, in ns. -/
structure PtpMessage where
  port : Nat
  domain : Nat
  offsetNs : Int
  deriving DecidableEq, Repr

/-- What surrounds the issue of a tile instruction: the core that issues it, the SRAM errors its reads meet (R81), and the fabric
cycles that passed since the core's lane generators were last advanced (R103). -/
structure Issue where
  core : CoreId
  errs : List SramErr
  cycles : Nat
  deriving DecidableEq, Repr

/-- An error term that a faulty cell adds to its chunk sum: cell (row, col), where row 16-and-up (`none`) names the checksum row or
column, and the term `mant * 2 ^ exp` (Matrix array, worked example of R133). -/
structure CellErr where
  row : Option Nat
  col : Option Nat
  mant : Int
  exp : Int
  deriving DecidableEq, Repr

/-- The faults of one array instruction: the error terms of the first computation and of the retry (R131), and whether the two
adders of a cell disagree in each (R133). A fault-free chunk is `⟨[], [], false, false, false⟩`; `parity` is an accumulator parity
error met when a word is read (R133). -/
structure ArrayFault where
  first : List CellErr
  retry : List CellErr
  addersFirst : Bool
  addersRetry : Bool
  parity : Bool
  deriving DecidableEq, Repr

/-- The fields shared by MMA, MMAS and MMAX (R172). -/
structure MmaFields where
  shape : BitVec 4
  fmt : BitVec 4
  acc : BitVec 2
  asel : Bool
  bsel : Bool
  chunk : BitVec 4
  kcM1 : BitVec 4
  deriving DecidableEq, Repr

/-- The fields of VCVT (R173). -/
structure VcvtFields where
  srcf : BitVec 4
  dstf : BitVec 4
  rnd : BitVec 2
  sat : Bool
  ad : BitVec 3
  aa : BitVec 3
  postD : Bool
  postA : Bool
  key : BitVec 4
  xi : BitVec 5
  stepSrc : Bool
  xs : BitVec 5
  count : BitVec 14
  deriving DecidableEq, Repr

/-- A program engine of an update unit: unit 0 to 15 and engine 0 to 63 (R230). -/
structure EngId where
  unit : Nat
  eng : Nat
  deriving DecidableEq, Repr

/-- The operand fields of an update-program arithmetic instruction (R241). -/
structure UOps where
  vd : BitVec 4
  va : BitVec 4
  vb : BitVec 4
  vc : BitVec 4
  kb : Bool
  kc : Bool
  deriving DecidableEq, Repr

/-- The roles of R419. -/
inductive Role where
  | observer | operator | owner | service
  deriving DecidableEq, Repr

/-- The path a Parealo frame takes (R418, object 1102:00). -/
inductive Path where
  | mailbox | mgmtA | mgmtB
  deriving DecidableEq, Repr

/-- A committed write of a fixed-size object: the role of its session, whether it stood in a transaction, and the value. -/
structure WReq where
  role : Role
  inTxn : Bool
  val : Nat
  deriving DecidableEq, Repr

/-- A committed write of a DOMAIN object: the role of its session, whether it stood in a transaction, and the bytes. -/
structure DReq where
  role : Role
  inTxn : Bool
  bytes : List Byte
  deriving DecidableEq, Repr

/-- The operations of a Parealo request (R425). `txn` is the TXN field: 0 none, 0xFFFF_FFFF the transaction begun in this frame. -/
inductive POp where
  | read (idx sub txn : Nat) (watch : Bool) (length offset change : Nat)
  | write (idx sub txn offset : Nat) (data : List Byte)
  | begin_
  | commit (txn : Nat)
  | rollback (txn : Nat)
  | describe (idx sub : Nat)
  deriving DecidableEq, Repr

/-- The UDP source address and port of a datagram, and the port that it is sent to (R418). -/
structure UdpEnds where
  source : List Byte
  sourcePort : Nat
  destPort : Nat
  deriving DecidableEq, Repr

/-- A Parealo frame as received (R419): its path and, off the mailbox, its datagram's UDP ends, its header fields, the client nonce of an OPEN, the operations of a REQUEST, whether a
reserved value is present, whether LENGTH fits, and its 16-byte MAC. -/
structure PFrame where
  path : Path
  udp : UdpEnds
  kind : Nat
  role : Nat
  engine : Nat
  session : Nat
  epoch : Nat
  frameSeq : Nat
  nonce : List Byte
  ops : List POp
  reserved : Bool
  lengthOk : Bool
  mac : List Byte
  deriving DecidableEq, Repr

/-- An exchange message (R271). `check` is the CHECK field as received. -/
structure XMsg where
  typ : Nat
  version : Nat
  method : Nat
  kcode : Nat
  source : Nat
  step : Nat
  group : Nat
  rank : Nat
  replicas : Nat
  flags : Nat
  firstBlock : Nat
  blockCount : Nat
  included : Nat
  excluded : Nat
  firstSeq : Nat
  lastSeq : Nat
  payload : List Byte
  check : W32
  deriving DecidableEq, Repr

/-- A transport datagram (R355): the header fields, the segment payload, and the two check results (the UDP checksum, and the
CHECK field as received). -/
structure Datagram where
  version : Nat
  kind : Nat
  flags : Nat
  source : Nat
  dest : Nat
  epoch : Nat
  msgSeq : Nat
  segment : Nat
  segments : Nat
  payload : List Byte
  udpOk : Bool
  check : W32
  deriving DecidableEq, Repr

/-- How a datagram arrived (R352, R375): the EP port, the codewords that its FEC corrected and could not correct, and whether the packet
carries an extension header. -/
structure Arrival where
  port : BitVec 3
  fecCorrected : Nat
  fecUncorrectable : Nat
  extHeader : Bool
  deriving DecidableEq, Repr

/-- A datagram with the way in which it arrived. -/
structure Received where
  via : Arrival
  datagram : Datagram
  deriving DecidableEq, Repr

/-- An Aelif frame (R328): header fields and payload flits. `fec` and `fecBad` are what the FEC reports of its codewords, those corrected
and those uncorrectable; `crcOk` says that the CRC holds (R329), and `reserved` is bit [63] as received. In a queue of the engine HEAD tells
the first frame of a packet from the second, in which the wire repeats it. -/
structure AFrame where
  typ : Nat
  vc : BitVec 2
  head : Bool
  tail : Bool
  dateline : Bool
  destX : Nat
  destY : Nat
  landing : Nat
  frameSeq : BitVec 8
  ackSeq : BitVec 8
  nak : Bool
  creditVc : BitVec 2
  creditCount : Nat
  flits : List Flit
  fec : Nat
  fecBad : Nat
  crcOk : Bool
  reserved : Bool
  deriving DecidableEq, Repr

/-- The twelve-port edges and their directions (R326). -/
inductive Dir where
  | north | east | south | west
  deriving DecidableEq, Repr

/-- One block of a shard pull, a reshard or a host image: its components (R284, R386, R509), the group's t and the COMMIT_STEP of the
source (R508), and the source's digest (R278). -/
structure BlockData where
  block : Nat
  t : Nat
  commit : Nat
  fwd : List Byte
  trn : List Byte
  scale : Nat
  states : List (List Byte)
  gacc : List Byte
  due0 : List Byte
  due1 : List Byte
  digest : W64
  deriving DecidableEq, Repr

/-- What meets a ticket read (R365): the 64 bytes of the ring entry, the token data and the targets as copied, and whether the copy
met a completion error or a poisoned line; and the correctable and uncorrectable errors that Advanced Error Reporting reports of the
reads (R362). -/
structure TicketEnv where
  bytes : List Byte
  data : List Byte
  targets : List Byte
  copyFault : Bool
  aerCorrectable : Bool
  aerUncorrectable : Bool
  deriving DecidableEq, Repr

/-- What a stack read meets: the lines with a correctable error and those with an uncorrectable one (R294), and the error reports of the
on-die ECC that it returns (R288). -/
structure StackErrs where
  corrected : List Nat
  uncorrected : List Nat
  onDie : Nat
  deriving DecidableEq, Repr

/-- What the outside supplies to the boundary work: the PTP time of the boundary, whether each journal write reads back right
(R511) and how many errors of its MRAM were corrected (R517), the stack errors that the reads of the milestone meet, and of a
checkpoint dump that begins at it (R294, R509), the SRAM errors met by the cores that go on at it (R81), the units that running jobs have
done (R441), whether the boundary is that of step 7 of a handover away from this engine (R502), and the coolant's inlet
and outlet temperature in 0.1 °C (R467). -/
structure BoundaryEnv where
  ptpTimeNs : Nat
  journalOk : Bool
  logbookCorrected : Nat
  stackErrs : StackErrs
  sramErrs : List (CoreId × List SramErr)
  progress : List (Nat × Nat)
  leaveRun : Bool
  coolantIn : Int
  coolantOut : Int
  deriving DecidableEq, Repr

/-- An entry of a gate's source table (R259): source core number (row * 320 + column), position, group, block, whether the words are
in dWᵀ order, and the block's partial count c. -/
structure SourceEntry where
  gate : Nat
  source : Nat
  pos : Nat
  group : Nat
  block : Nat
  transposed : Bool
  parts : Nat
  deriving DecidableEq, Repr

/-- What a waypoint marks once all its reports of a step are in (R228, R264, R379): kind 0 the end of F, 1 the end of B, 2 the beginning of F
for a layer, 3 the end of B for a layer, 4 the loss and its gradient computed (R227); for the micro-batch of place `k` in the step. -/
structure WpMark where
  waypoint : Nat
  kind : Nat
  k : Nat
  layer : Nat
  deriving DecidableEq, Repr

/-- A core's part of a placement (R84, R88, R89): its configuration record, the bytes of its program window and SRAM-resident state,
the GROUP_RING entries of the groups that its program joins, the virtual channels that its program receives on (a RECV names a ring and
no channel), and the layers of which it holds stored activations (R43; assumption log 20). -/
structure CorePlan where
  core : CoreId
  cfg : List Byte
  image : List (Nat × List Byte)
  joins : List Nat
  receives : List Nat
  holds : List Nat
  deriving DecidableEq, Repr

/-- A trimmed stream's queue and layer entry, its rows and its tiles' rows (R207, R209). -/
structure TrimPlan where
  se : Nat
  queue : Nat
  entry : Nat
  rows : Nat
  rowsPerTile : Nat
  deriving DecidableEq, Repr

/-- What a placement image holds, in the terms of the chapters that name its parts; the manual gives no layout for the image (assumption
log 20). `spills` gives each gate's spill area: gate, stack, first frame and bytes; `feeders` names the rings that streams feed: core,
ring, stream engine and queue; `senders` the cores that send to a mesh-to-stack queue: core, stream engine and queue; `results` the area of the last stage's results: address,
pitch and OUTPUT_BYTES; `groupLayers` the layer of each group (R17); `gradients` the mesh-to-stack queues on which the output-gradient tiles
that arrive are copied to the layby (R222, R227): stream engine, queue, and the descriptors that carry the tiles of one micro-batch. -/
structure Placement where
  hash : List Byte
  columns : Nat
  excluded : Option Nat
  dark : Option Nat
  spare : Bool
  stage : Nat
  stages : Nat
  depthMax : Nat
  contextIndex : Nat
  contextSize : Nat
  prev : Nat
  next : Nat
  microbatches : Nat
  seqOrigin : Nat
  stepOrigin : Nat
  allowance : Nat
  layers : List (Nat × Nat)
  marks : List WpMark
  cores : List CorePlan
  programs : List (Nat × List W32)
  groups : List (List Byte)
  regions : List Byte
  schedule : List Byte
  milestoneOffset : Nat
  landing : List Byte
  departure : List Byte
  replicas : Nat
  rank : Nat
  peers : List Byte
  compression : List Byte
  sources : List SourceEntry
  spills : List (Nat × Nat × Nat × Nat)
  mapSources : List (Nat × List Byte)
  arms : List (Nat × List Byte)
  trims : List TrimPlan
  feeders : List (CoreId × Nat × Nat × Nat)
  senders : List (CoreId × Nat × Nat)
  results : Option (Nat × Nat × Nat)
  groupLayers : List (Nat × Nat)
  gradients : List (Nat × Nat × Nat)
  tokens : Option (Nat × Nat)
  deriving DecidableEq, Repr

/-- What a pull reads of a host image beside its blocks (R509): the SHA-256 and the length of the whole image, its header, and its group
headers. -/
structure HostImage where
  hash : List Byte
  bytes : Nat
  header : List Byte
  groups : List (List Byte)
  deriving DecidableEq, Repr

/-- How a running long operation ends by itself (R442): OK, or the STATUS code of R428 of a failure that its surroundings cause, with the
place bytes of DETAIL (R444); the COMMIT_STEP of a pull's source (R508) or what it read of its host image (R509), the image that a
placement load copied (R445), the rows repaired and frames retired of a memory test (R322), and the units of its progress that a memory
test, a placement load or a dump has done (R441). -/
structure JobOutcome where
  status : Nat
  place : Nat
  index : Nat
  sourceCommit : Nat
  image : Option HostImage
  placement : Option Placement
  rowsRepaired : Nat
  framesRetired : List (Nat × Nat)
  done : Nat
  deriving DecidableEq, Repr

/-- A firmware image offered for staging or found in a bank: the fields of the 256-byte header of R519, the signature and the body. -/
structure FwImage where
  header : List Byte
  signature : List Byte
  body : List Byte
  deriving DecidableEq, Repr

/-- What phase 1 of bring-up meets: which management images verify (by R521), whether the endpoint trains in 600 ms with which width
and rate, whether the logbook reads a valid journal, and the check-value units whose self-test fails (R537). -/
structure MgmtEnv where
  mcaOk : Bool
  mcbOk : Bool
  pcieTrained : Bool
  width : Nat
  rate : Nat
  logbookOk : Bool
  cvuFailed : List Nat
  deriving DecidableEq, Repr

/-- What phase 2 meets: fields whose controller fails at power-up (R487), and the physical cores that fail the core test (R479) or
still fail the microcode CRC (R478). -/
structure ClocksEnv where
  controllerFails : List Nat
  testFails : List PhysId
  microcodeFails : List PhysId
  deriving DecidableEq, Repr

/-- What phase 3 meets: stacks that fail training three times, rows repaired and frames retired by the memory test (R322), and the
crescent check-value units whose self-test fails (R537). -/
structure MemEnv where
  trainFails : List Nat
  rowsRepaired : Nat
  framesRetired : List (Nat × Nat)
  cvuFailed : List Nat
  deriving DecidableEq, Repr

/-- The reports of the regulator of a field (R455, R456). -/
structure RegReport where
  field : Nat
  failed : Bool
  currentA : Nat
  deriving DecidableEq, Repr

/-- A check-value unit (R530): unit 0 to 3 of a management core, or the unit of a stream engine or of an update unit. -/
inductive CvuId where
  | mc (core unit : Nat)
  | se (n : Nat)
  | uu (n : Nat)
  deriving DecidableEq, Repr

/-- An access of a check-value unit: the unit, and the raw writes of CONFIG, SEQ_WORD and MILEPOST that come before it, offset and value
(R532). -/
structure CvuAccess where
  u : CvuId
  writes : List (BitVec 16 × W64)
  deriving DecidableEq, Repr

/-- The commands, one constructor per row of spec/opcode_table.json. -/
inductive Instr where
  -- tile programs (07_tile_programs.md)
  | nop (i : Issue)
  | halt (i : Issue)
  | loop (i : Issue) (ln : BitVec 2) (target : BitVec 13)
  | lset (i : Issue) (ln : BitVec 2) (src : Bool) (xs : BitVec 5) (imm : W32)
  | br (i : Issue) (cond : BitVec 3) (xa xb : BitVec 5) (target : BitVec 13)
  | waitb (i : Issue) (rel : Bool) (xs : BitVec 5) (count : BitVec 16)
  | wp (i : Issue) (report : Bool) (waypoint : W32)
  | syncInit (i : Issue) (barrier : BitVec 4) (xr : BitVec 5) (word : BitVec 19) (expected : BitVec 16)
  | syncWait (i : Issue) (barrier : BitVec 4) (xr : BitVec 5) (word : BitVec 19)
  | xli (i : Issue) (xd : BitVec 5) (imm : W32)
  | xop (i : Issue) (xd xa xb : BitVec 5) (func : BitVec 4) (immb : Bool) (imm : W32)
  | agset (i : Issue) (an : BitVec 3) (field : BitVec 3) (src : Bool) (xs : BitVec 5) (imm : BitVec 20)
  | lda (i : Issue) (dst : BitVec 4) (an : BitVec 3) (post : Bool) (exp rows : BitVec 3) (xs : BitVec 5) (ap : BitVec 3) (ppost : Bool)
  | ldat (i : Issue) (dst : BitVec 4) (an : BitVec 3) (post : Bool) (rows : BitVec 3) (xs : BitVec 5) (width : BitVec 2) (srcRowsM1 : BitVec 6)
  | stv (i : Issue) (src : BitVec 4) (an : BitVec 3) (post : Bool) (xs : BitVec 5)
  | send (i : Issue) (an : BitVec 3) (post : Bool) (flitsM1 : BitVec 6) (vc : BitVec 2) (trailer : Bool) (xq xh : BitVec 5)
  | recv (i : Issue) (ring dst exp rows : BitVec 3) (flitsM1 : BitVec 6)
  | mcjoin (i : Issue) (column : Bool) (group : BitVec 6) (join : Bool)
  | mma (i : Issue) (m : MmaFields) (fault : ArrayFault)
  | mmas (i : Issue) (m : MmaFields) (drop ixsel : Bool) (fault : ArrayFault)
  | mmax (i : Issue) (m : MmaFields) (pass : BitVec 3) (fault : ArrayFault)
  | accz (i : Issue) (acc : BitVec 2)
  | accout (i : Issue) (acc : BitVec 2) (ad : BitVec 3) (post : Bool) (xs : BitVec 5) (parity : Bool)
  | vop (i : Issue) (func : BitVec 6) (ad aa ab ac : BitVec 3) (scalb : Bool) (xb : BitVec 5) (post : BitVec 4) (count : BitVec 14)
  | vred (i : Issue) (func : BitVec 2) (ad aa : BitVec 3) (postD postA : Bool) (count : BitVec 14)
  | vcvt (i : Issue) (f : VcvtFields)
  | index24 (i : Issue) (asel ixsel : Bool)
  | zeroMap (i : Issue) (asel : Bool) (ad : BitVec 3) (post : Bool)
  | rngk (i : Issue) (ad : BitVec 3) (post : Bool) (key : BitVec 4) (stepSrc : Bool) (xs xi : BitVec 5) (form : Bool) (count : BitVec 14)
  | rngf (i : Issue) (ad : BitVec 3) (post form : Bool) (count : BitVec 14)
  | chk (i : Issue) (ringSrc : Bool) (an : BitVec 3) (post : Bool) (flitsM1 : BitVec 6) (xq xd : BitVec 5) (poison : Bool)
  | flg (i : Issue) (unit : BitVec 2) (xd : BitVec 5) (clear : BitVec 4)
  -- update programs (10_update_unit.md)
  | updateNop (e : EngId)
  | updEnd (e : Met EngId StackErrs)
  | phase (e : EngId)
  | ld (e : Met EngId StackErrs) (vd opnd : BitVec 4)
  | st (e : EngId) (va opnd : BitVec 4) (sat : Bool) (rnd : BitVec 2)
  | fadd (e : EngId) (o : UOps)
  | fsub (e : EngId) (o : UOps)
  | fmul (e : EngId) (o : UOps)
  | fma (e : EngId) (o : UOps)
  | fmin (e : EngId) (o : UOps)
  | fmax (e : EngId) (o : UOps)
  | fabs (e : EngId) (vd va : BitVec 4)
  | fneg (e : EngId) (vd va : BitVec 4)
  | fsgn (e : EngId) (vd va : BitVec 4)
  | cmplt (e : EngId) (o : UOps)
  | cmple (e : EngId) (o : UOps)
  | sel (e : EngId) (o : UOps)
  | rcp (e : EngId) (vd va : BitVec 4)
  | rsqrt (e : EngId) (vd va : BitVec 4)
  | div (e : EngId) (o : UOps)
  | sqrt (e : EngId) (vd va : BitVec 4)
  | exp2 (e : EngId) (vd va : BitVec 4)
  | log2 (e : EngId) (vd va : BitVec 4)
  | rsum (e : EngId) (sreg : BitVec 2) (va : BitVec 4)
  | rssq (e : EngId) (sreg : BitVec 2) (va : BitVec 4)
  | rmax (e : EngId) (sreg : BitVec 2) (va : BitVec 4)
  | sbc (e : EngId) (vd : BitVec 4) (sreg : BitVec 2)
  | updateWorkItem (e : Met EngId StackErrs)
  | accumulationPass (unit group : Nat) (block : Met Nat StackErrs)
  | slowSweep (group : Nat)
  -- the boundary and the deadlines (01, 03, 07, 16, 17, 18)
  | beatBoundary (env : BoundaryEnv)
  | fieldShutDrainEnd (field : Nat)
  | wakeProceed (field : Nat)
  | wakeDeferLimitExpiry (field : Nat)
  | hostLeaseExpired
  | txnExpired (handle : Nat)
  | syncTimeout (core : CoreId)
  -- the host's rings and slots (14)
  | subTail (v : W32)
  | ticketRead (t : TicketEnv)
  | acceptanceTokenWrite
  | accHead (v : W32)
  | release (v : W32)
  | ringBaseWrite (reg : BitVec 16) (v : W64)
  | mailboxDoorbell (length : W32) (frame : List Byte)
  | pcieLinkReset
  -- work, gates and the exchange (01, 09, 11)
  | microbatchForwardStart (seq : Nat)
  | backwardStart (seq : Nat)
  | evaluationComplete (acceptId : Nat)
  | partialReceive (ep : Endpoint) (source : CoreId) (flits : Met (List Flit) StackErrs)
  | runningSumApply (gate group block : Nat) (seq : Met Nat StackErrs)
  | settle (group : Nat) (seq : Met Nat StackErrs)
  | settleWaitExpiry (gate seq : Nat)
  | contribReceive (m : Met XMsg StackErrs)
  | gatherReceive (m : XMsg)
  | fingerprintReceive (m : XMsg)
  | peerLate (group : Nat)
  | excuse (w : Met WReq StackErrs)
  | override (w : WReq)
  | setCompression (w : WReq)
  | keySlotWrite (slot : BitVec 4) (high : Bool) (w : WReq)
  | constantSetWrite (set : BitVec 6) (k : Nat) (w : WReq)
  -- Ethernet transport (14)
  | datagramData (d : Met Received StackErrs)
  | datagramAck (d : Received)
  | datagramEncap (d : Received)
  | transportMessageSend (dest : Nat) (encap : Bool)
  | ackDelayExpiry (source : Nat) (encap : Bool)
  | retxTimeout (dest : Nat) (encap : Bool)
  | epPortUp (port : BitVec 3)
  | epPortDown (port : BitVec 3)
  | epEnable (port : BitVec 3) (w : WReq)
  -- Aelif links (13)
  | dataFrameReceive (port : Nat) (f : AFrame)
  | controlFrameReceive (port : Nat) (f : AFrame)
  | signpostReceive (port : Nat) (f : AFrame)
  | signpostSend (port : Nat)
  | aelifReplayTimeout (port : Nat)
  | lossOfLock (port : Nat)
  | portTrained (port : Nat) (delayPs : Met Nat (BitVec 8))
  | portDown (port : Nat) (peerLast : BitVec 8)
  | neighbourAbsent (d : Met Dir Bool)
  | tick (port beat : Nat) (time : TickTime) (runLength runPlace : Nat)
  | tickLost
  | ptpLost
  | stretchRequest (port : Nat)
  | linkPlan (w : DReq)
  | portEnable (port : Nat) (w : WReq)
  | substituteTable (w : DReq)
  | pullEndpointRequest (requester group : Nat) (block : Met Nat StackErrs)
  | pullBlockReceive (group : Nat) (b : Met BlockData StackErrs)
  | reshardBlockReceive (group : Nat) (b : Met BlockData StackErrs)
  -- stacks and streams (08, 12)
  | arm (se : Nat) (w : DReq)
  | armPacket (ep : Endpoint) (p : Packet)
  | cancel (se : Nat) (w : WReq)
  | stackGrant (stack : Nat) (late : Bool) (errs : StackErrs)
  | descriptorComplete (se queue : Nat)
  | inboundPacket (crescent endpoint : Nat) (p : Met Packet Bool)
  | mapPacketReceive (ep : Endpoint) (p : Packet)
  | trimmedTileSend (se queue : Nat) (stallNs : Nat) (errs : StackErrs)
  | mapWaitExpiry (se queue : Nat) (errs : StackErrs)
  | stackScrub (stack : Nat) (errs : StackErrs)
  -- cores and the mesh (02, 03, 04)
  | scrubRowRead (core : CoreId) (row : BitVec 11) (errs : List SramErr)
  | sramCorrectedWriteback (core : CoreId) (word : Nat)
  | ringDelivery (core : CoreId) (vc : BitVec 2)
  | packetRoute (at_ : CoreId) (out pick : Nat) (wire : WireFlit)
  | heartbeatPulse (p : PhysId) (parityOk progress : Bool)
  | coreSilent (p : PhysId)
  | coreDead (p : PhysId) (heartbeat : Bool)
  | detour (p : Met PhysId (List (CoreId × List SramErr)))
  | microbatchReplay
  | coreExceptionReport (core : Met CoreId (List (CoreId × List SramErr)))
  | coreSuspend (core : CoreId)
  | coreResume (core : Met CoreId (List SramErr))
  | syncArrival (root : CoreId) (barrier : BitVec 4) (epoch : Byte) (word : Met (BitVec 19) (List SramErr))
  | syncRelease (core : CoreId) (barrier : BitVec 4) (epoch : Met Byte (List SramErr))
  | waypointReport (waypoint : W32) (core : CoreId) (step : Nat)
  -- power and heat (18)
  | inputSample (mv ma : Nat)
  | powerFail
  | inputRise
  | regulatorStatusReport (r : RegReport)
  | regulatorReportMissed (field : Nat)
  | phaseFailed (field : Nat) (phase : BitVec 4)
  | crackSuspect (field sensor : Nat)
  | thermalSample (field : Nat) (readings : List Int)
  | unparkHoldExpiry (field : Nat)
  | parkRequest (w : WReq)
  | wakeRequest (w : WReq)
  | vcoreMv (w : WReq)
  | clockHalfWrite (east : Bool) (w : WReq)
  | sscWrite (pll : BitVec 3) (rate : Bool) (w : WReq)
  | clkoutWrite (n : Bool) (sub : BitVec 2) (w : WReq)
  | clockEnableWrite (sub : BitVec 3) (w : WReq)
  | beatPeriodUs (w : WReq)
  | hostLease (w : WReq)
  | hostLeaseBeats (w : WReq)
  | refSourceLoss (code : Nat)
  | refEligible (code : Nat)
  | holdoverExpiry
  -- Parealo (17)
  | parealoOpen (f : PFrame)
  | parealoClose (f : PFrame)
  | sessionExpired (session : Nat)
  | parealoRead (f : PFrame) (k : Nat)
  | parealoWrite (f : PFrame) (k : Nat)
  | parealoBegin (f : PFrame) (k : Nat)
  | commitOp (f : PFrame) (k : Nat)
  | parealoRollback (f : PFrame) (k : Nat)
  | describe (f : PFrame) (k : Nat)
  | w1cFlagClear (idx sub : Nat) (w : WReq)
  | captureEmpty (idx sub : Nat) (w : WReq)
  | highWaterReset (idx sub : Nat) (w : WReq)
  | markCoreDefective (w : WReq)
  | releaseFieldLoss (w : WReq)
  | excludeField (w : WReq)
  | jobStart (job : Nat) (w : WReq)
  | jobSuspend (job : Nat) (w : WReq)
  | jobResume (job : Nat) (w : WReq)
  | jobCancel (job : Nat) (w : WReq)
  | jobSuspended (job : Met Nat Nat)
  | jobEnd (job : Nat) (o : JobOutcome)
  | checkpointDump
  | switch (w : Met WReq (List (CoreId × List SramErr)))
  | resume (w : WReq)
  | replayStep (w : Met WReq (List (CoreId × List SramErr)))
  | peerSubstitute (w : DReq)
  -- starts (19)
  | resetRequest (w : WReq)
  | resetNLow
  | resetNRise (lowUs : Nat)
  | management (env : MgmtEnv)
  | clocksNetwork (env : ClocksEnv)
  | microcodeMismatch (p : PhysId)
  | memories (env : MemEnv)
  | links (epTrained aelifTrained : List Nat)
  | compute
  | bringupRestart (field : Nat)
  | failover
  -- security and check-value units (21)
  | mgmtHeartbeat (fromB : Bool) (bytes : List Byte)
  | fwStageRequest (w : DReq) (image : FwImage)
  | rollbackAdvance (w : WReq)
  | quoteNonce (w : DReq) (sinceLastMs : Nat)
  | roleSecret (r : Role) (w : DReq)
  | debugToken (w : DReq)
  | jtagProvision (secrets : List (List Byte)) (address : BitVec 18)
  | lock
  | idcode
  | bypass (tdi : Bool)
  | cvuStart (u : CvuAccess)
  | cvuFinalise (u : CvuId)
  | data8 (u : CvuId) (v : Byte)
  | data16 (u : CvuId) (v : BitVec 16)
  | data32 (u : CvuId) (v : W32)
  | value (u : CvuAccess) (v : W64)
  -- added rows
  | ptpMessageReceive (m : PtpMessage) (locked : Bool)
  | neighborDiscoveryReceive (port : BitVec 3) (advert : Bool) (target linkAddr : List Byte)
  | holdUpRunOut
  | bottomTreeGenerated
  | lastFrameSeqRequest (lostPort viaPort : Nat)
  | regulatorLoopSample (field : Nat) (droopMv : List Nat) (outputMv : Nat)
  | pcieLinkTrained (width rate : Nat)
  deriving DecidableEq, Repr

end Sys2Proof
end

