-- ==== Sys2Proof/Config.lean ====
section
/-! DEFINITION. What an implementation fixes and what the manual leaves open: opaque constants, so that no proof sees a value. -/

namespace Sys2Proof

/-- Which of the FP32 values within its bound of the exact result a reciprocal-class or transcendental function gives (R100, R101): a
fixed function of the operation and its operand bits (free value; assumption log 10). -/
opaque Config.ulpChoice : Nat → W32 → W32 → Nat

/-- The result of a transcendental function at an infinity, for which the manual states none (R100, R101): a fixed function of the
operation and its operand bits (free value; assumption log 11). -/
opaque Config.transcendental : Nat → W32 → W32

/-- The FP32 word that a weight code and scale give where code × 2^(SCALE − 127) lies beyond FP32's finite values (R242 states an exact
value; free value; assumption log 11). -/
opaque Config.weightBeyond : Nat → Nat → W32

/-- The frequency in kHz of the service-clock sources 6 and 7, the recovered Aelif clock and the stack interface clock, which the manual
does not state (R413; free value; assumption log 31). -/
opaque Config.clkoutKHz : Nat → Nat

/-- Whether an HSS signature verifies under a public key over a message (R521; RFC 8554, which the manual names and does not
restate; assumption log 12). -/
opaque Config.hssVerify : List Byte → List Byte → List Byte → Bool

/-- The HSS signature that the identity key of a seed gives over a message at a leaf (R524; assumption log 12). -/
opaque Config.hssSign : List Byte → Nat → List Byte → List Byte

/-- The manufacturer identity code of IDCODE, which the manual does not state (R550; free value; assumption log 12). -/
opaque Config.manufacturerCode : Nat

/-- The public key that derives from IDENTITY_SEED (R524; assumption log 12). -/
opaque Config.identityKey : List Byte → List Byte

/-- The vendor's certificate signature over a certificate body (R524; per module; assumption log 12). -/
opaque Config.certSignature : List Byte → List Byte

/-- The key derived from WRAP_KEY under which DEBUG_NONCE is formed (R528; the derivation is not given; assumption log 12). -/
opaque Config.debugKey : List Byte → List Byte

/-- A byte that the manual leaves open, fresh at each use through the state's counter (assumption log 9). -/
opaque Config.freeByte : Nat → Byte

/-- A number that the manual leaves open, fresh at each use through the state's counter (assumption log 9). -/
opaque Config.freeNat : Nat → Nat

end Sys2Proof
end

