-- ==== Sys2Proof/Machine/State.lean ====
section
/-! DEFINITION. The state of one DW-1 engine as plain data: the object dictionary's values, the cores, the grid, the mesh, the stacks
and streams, the update units, the gates and the exchange, the links, the host's rings and slots, Parealo, power, the logbook and
the security state; and its reset. -/

namespace Sys2Proof.Machine

/-- Sparse numbers by key: keys strictly rising. -/
abbrev Store := List (Nat × Nat)

/-- Memory: address and byte, addresses strictly rising, no entry equal to zero (an unlisted byte reads as zero). -/
abbrev Mem := List Host.Cell

/-- The ordering codes of R1. -/
inductive Variant where
  | x | l
  deriving DecidableEq, Repr

/-- The states of a core (R91). -/
inductive CoreState where
  | reset | loading | running | waiting | suspended | halted | faulted | parked | dead
  deriving DecidableEq, Repr

/-- An address generator (R163). -/
structure Ag where
  base : BitVec 19
  innerCount : BitVec 13
  cursor : BitVec 19
  innerLeft : BitVec 13
  innerStep : BitVec 20
  outerStep : BitVec 20
  deriving DecidableEq, Repr

/-- An accumulator tile: 256 FP32 words in row-major order, the parity bit of each (R133; bit k of word k) and its poison bit (R93,
R134). -/
structure AccTile where
  words : Vector W32 256
  parity : BitVec 256
  poison : Bool
  deriving DecidableEq, Repr

/-- A staging tile: 1,024 bytes, a poison bit per 64-byte segment (R134), a scale store of 32 E8M0 bytes (R152) and a fill count
(R200). -/
structure Staging where
  bytes : Vector Byte 1024
  poison : Vector Bool 16
  scales : Vector Byte 32
  fill : Nat
  deriving DecidableEq, Repr

/-- An index set of the compaction engine (R198): a class for each byte of a tile, and the tag of R199 (source tile and fill count). -/
structure IndexSet where
  classes : List Nat
  tag : Option (Bool × Nat)
  deriving DecidableEq, Repr

/-- An open EX32 chunk (R126): its fields and the next pass. -/
structure OpenChunk where
  fields : MmaFields
  next : Nat
  deriving DecidableEq, Repr

/-- What a WAITING core waits for (R177). -/
inductive Wait where
  | beat (target : W32)
  | sync (barrier : BitVec 4) (epoch : Byte) (word : BitVec 19)
  | ring (ring need : Nat)
  deriving DecidableEq, Repr

/-- A waypoint report queued by WP (R195). -/
structure WpReport where
  waypoint : W32
  beat : Nat
  deriving DecidableEq, Repr

/-- The leg a packet travels (R59, R60). -/
inductive Leg where
  | unicast | rowFork (west : Bool) | colFork (north : Bool) | spread | slip
  deriving DecidableEq, Repr

/-- A flit in the mesh (R52, R57): its packet's route header and channel, the leg it travels, whether it is its packet's head or tail,
the flit, for a head whose route header met an uncorrectable error the header as it was received (R72), and for a head the outputs that
its packet takes at the router that holds it, each with its next leg (R60, R61). -/
structure MFlit where
  hdr : W64
  vc : BitVec 2
  leg : Leg
  head : Bool
  tail : Bool
  flit : Flit
  raw : Option W64
  outs : List (Nat × Leg)
  deriving DecidableEq, Repr

/-- A core: its configuration registers (R88), program-visible registers (R161), rings (R87), lanes (R102), flag words (R156),
compaction engine (R198), SRAM with poison bits (R78, R82), its wait, its status bits (R106), its router's membership bits (R61), the
VC0 flits in its router's ejection buffer (R68), the flits that its local port has granted and that wait for their ring lines (R87), its
heartbeat (R97, R98) with whether anything counts as progress since the last pulse, whether it is loaded and not yet started (R91,
R485), and at a barrier's root the barrier (bits 11:8) and epoch of the last arrival by barrier word (R192). -/
structure Core where
  st : CoreState
  excCause : Nat
  excPc : Nat
  cfg : List Byte
  pc : Nat
  x : Vector W32 32
  ag : Vector Ag 8
  loops : Vector W32 4
  acc : Vector AccTile 4
  stg : Vector Staging 4
  ringWr : Vector Nat 8
  ringRd : Vector Nat 8
  lanes : Vector W64 16
  stickyA : BitVec 4
  stickyV : BitVec 4
  stickyC : BitVec 4
  beatA : BitVec 4
  beatV : BitVec 4
  beatC : BitVec 4
  ix : Vector IndexSet 2
  ex32 : Option OpenChunk
  sram : Mem
  poisonLines : List Nat
  writeback : List Nat
  wait : Option Wait
  syncBeats : Nat
  role : Nat
  heartbeatOk : Bool
  silentReported : Bool
  uncorrSeen : Bool
  poisonSeen : Bool
  waypoint : BitVec 12
  reports : List WpReport
  rowGroups : BitVec 64
  colGroups : BitVec 64
  vc0Held : List MFlit
  arrivals : List MFlit
  parkedFrom : CoreState
  startDue : Bool
  progressed : Bool
  lastArrival : List (Nat × Nat)
  deriving DecidableEq, Repr

/-- A core after load (R161): every field at the value the manual gives. -/
def Core.default : Core where
  st := .reset
  excCause := 0
  excPc := 0
  cfg := List.replicate 128 0
  pc := 0
  x := Vector.replicate 32 0
  ag := Vector.replicate 8 ⟨0, 1, 0, 1, 0, 0⟩
  loops := Vector.replicate 4 0
  acc := Vector.replicate 4 ⟨Vector.replicate 256 0, 0, false⟩
  stg := Vector.replicate 4 ⟨Vector.replicate 1024 0, Vector.replicate 16 false, Vector.replicate 32 127, 0⟩
  ringWr := Vector.replicate 8 0
  ringRd := Vector.replicate 8 0
  lanes := Vector.replicate 16 0
  stickyA := 0
  stickyV := 0
  stickyC := 0
  beatA := 0
  beatV := 0
  beatC := 0
  ix := Vector.replicate 2 ⟨[], none⟩
  ex32 := none
  sram := []
  poisonLines := []
  writeback := []
  wait := none
  syncBeats := 0
  role := 0
  heartbeatOk := false
  silentReported := false
  uncorrSeen := false
  poisonSeen := false
  waypoint := 0
  reports := []
  rowGroups := 0
  colGroups := 0
  vc0Held := []
  arrivals := []
  parkedFrom := .halted
  startDue := false
  progressed := false
  lastArrival := []

/-- A copy of the defect map (R36): its generation, grid mode, excluded column, beat, the field-state bytes and row entries that
are not "no defect". -/
structure MapCopy where
  generation : Nat
  gridMode : Nat
  excludedCol : Nat
  beat : Nat
  fields : Store
  rows : Store
  deriving DecidableEq, Repr

/-- The grid (02_wafer_grid.md): the two map copies, which of them is current, the row entries and field states in force in the
running grid (R555), the excluded column, the fields released from loss (R41), the dead cores waiting for a detour (R45), those whose
detour has written its map and waits for the mesh (R74, R193), whether a detour is under way, the micro-batches abandoned (R43), and the
unused spares whose routers reported them silent since their last pulse (R98). -/
structure Grid where
  mapA : Option MapCopy
  mapB : Option MapCopy
  currentB : Bool
  runRows : Store
  runFields : Store
  unpowered : List Nat
  released : List Nat
  deaths : List PhysId
  underWay : List PhysId
  detouring : Bool
  abandoned : List Nat
  lostThisStart : Nat
  microcode : Store
  spareSilent : List Nat
  deriving DecidableEq, Repr

/-- A lane of a router's input port (R56): its flits, oldest first; the outputs and next legs of the packet whose head has gone out;
and whether it takes in a packet that cannot be routed (R72). -/
structure Lane where
  flits : List MFlit
  route : Option (List (Nat × Leg))
  sink : Bool
  deriving DecidableEq, Repr

/-- A lane that holds nothing. -/
def Lane.default : Lane := ⟨[], none, false⟩

/-- An output port of a router (R55): for each channel the lane whose packet has the output, the VC0 flits granted in a row, and the
channel of VC1 to VC3 served last. -/
structure OutPort where
  owner : List (Nat × Nat)
  vc0Run : Nat
  served : Nat
  deriving DecidableEq, Repr

/-- An output port that nothing holds. -/
def OutPort.default : OutPort := ⟨[], 0, 0⟩

/-- The mesh (03_wafer_network.md): the lanes of the routers by `laneKey`, the flits that the endpoints of a router's local port and
crescent connections have still to inject by `waitKey` (R174, R178), which router's packet a crossing of the north crescent brings to a
lane (R70), the FIFOs of the field crossings by the main lane that they feed (R66), the output ports by `outKey`, the packets leaving
through a crescent connection by output and channel, the rows whose routers take no new head flits (R74), and the broadcast log of R461:
each broadcast with the parked fields that missed it so far, and the fields with entries dropped. -/
structure Mesh where
  lanes : List (Nat × Lane)
  waiting : List (Nat × List MFlit)
  entering : Store
  fifos : List (Nat × List MFlit)
  ports : List (Nat × OutPort)
  exits : List (Nat × List MFlit)
  closed : List Nat
  log : List (Packet × List Nat)
  logDropped : List Nat
  deriving DecidableEq, Repr

/-- A field's power state (18_power_thermal.md) beside its objects: 10 µs reports missed in a row, the shut that waits for the boundary
and its drain (R69, R465), the wake that waits for the boundary or for a neighbour (R460, R465), the park that waits for the boundary
(R457), whether the beat saw it hot or always cool, 10 µs reports in a row above 95 % of its rating (R466), and the droop sensors that are
suspect in an episode that has not ended, each with the 10 µs reports in a row that found its condition absent (R457). -/
structure FieldRec where
  missed : Nat
  shutDue : Bool
  draining : Bool
  wakeDue : Bool
  wakeWaiting : Bool
  parkDue : Bool
  hot : Bool
  cool : Bool
  overs : Nat
  cracks : Store
  deriving DecidableEq, Repr

/-- A field before its first sample. -/
def FieldRec.default : FieldRec := ⟨0, false, false, false, false, false, false, true, 0, []⟩

/-- Power (R449 to R472): whether the input is present, whether the rails are on, hold-up, RESET_N, whether the beat saw the input power
above its limit or always low (R466), the input power of the last ten samples (R450), and the 90 fields. -/
structure Power where
  input : Bool
  computeRail : Bool
  crescents : Bool
  management : Bool
  holdUp : Bool
  resetLow : Bool
  powerHigh : Bool
  powerLow : Bool
  samples : List Nat
  fields : List (Nat × FieldRec)
  deriving DecidableEq, Repr

/-- A retired frame of a stack (R297): the stack, the frame and its spare. -/
structure Retired where
  stack : Nat
  frame : Nat
  spare : Nat
  deriving DecidableEq, Repr

/-- The stacks (12_streams_memory.md): data space of all stacks by 41-bit address (R289), poison bits by line, the remap table, the
corrected-error count of each frame in the scrub period, and the scrub position of each stack. -/
structure Stacks where
  mem : Mem
  poison : List Nat
  retired : List Retired
  frameErrs : Store
  scrubPos : Store
  deriving DecidableEq, Repr

/-- A stream descriptor in a queue (R317), with its progress: next run, runs outstanding, runs written, late runs, and whether it
moved poison or was cancelled. -/
structure Desc where
  bytes : List Byte
  generation : Byte
  nextRun : Nat
  done : List Nat
  outstanding : Nat
  late : Nat
  poisoned : Bool
  cancelled : Bool
  packets : Nat
  deriving DecidableEq, Repr

/-- A stream queue (R317): CURRENT, SHADOW, GEN and the completion word, whether it moved a flit in this beat, the tiles sent, and
whether it was waiting at the last boundary (R316). -/
structure Queue where
  current : Option Desc
  shadow : Option Desc
  gen : Byte
  completion : List Byte
  moved : Bool
  tile : Nat
  waiting : Bool
  deriving DecidableEq, Repr

/-- An empty queue. -/
def Queue.default : Queue := ⟨none, none, 0, List.replicate 16 0, false, 0, false⟩

/-- A sparse layer entry's sets for one stream (R211): the predicted rows (none: all rows), the nonzero rows, the 512-column pieces
of maps delivered, by source, of each granted run the slot read from its pointer entry (R303), and whether the sets were dropped with
their micro-batch. -/
structure TrimState where
  seq : Nat
  predicted : Option (List Nat)
  nonzero : List Nat
  covered : List (Nat × Nat)
  runs : List (Nat × Nat)
  dropped : Bool
  deriving DecidableEq, Repr

/-- The streams: queues by SE * 32 + q, trim states by that key * 64 + layer entry, the PREDICT_MODE and ACT_WIDTH in force by layer
entry (R211), the count of boundaries with a wait cycle (R316), whether the stream engines were stopped from issuing (R69, R456), and by
engine the descriptors still to be armed, with the runs already written: those of the placement's schedule (R317) and those cancelled
with their micro-batch (R318); and the stack-to-mesh and stack-to-stack descriptors completed in the step, which a replay arms again. -/
structure Streams where
  queues : List (Nat × Queue)
  trims : List (Nat × TrimState)
  layers : List (Nat × Nat × Nat)
  cycleCount : Nat
  stopped : Bool
  rearm : List (Nat × List Byte × List Nat)
  served : List (Nat × List Byte)
  deriving DecidableEq, Repr

/-- A work item of an update unit (R240, R247): group, first block, number of blocks, the step its results are stamped with, whether
it belongs to a slow sweep, whether it is a rerun (R253), and whether it is the accumulation pass of its block (R248). -/
structure WorkItem where
  group : Nat
  block : Nat
  blocks : Nat
  stamp : Nat
  slow : Bool
  redo : Bool
  pass : Bool
  deriving DecidableEq, Repr

/-- A work buffer filled ahead (R230): the item that it holds, and the operands read for it: code, words and poison. Its results are none yet. -/
structure WorkBuf where
  item : WorkItem
  ops : List (Nat × List W32 × Bool)
  deriving DecidableEq, Repr

/-- A program engine (R230, R239): the work item that it runs, whether its program has begun, the operands read ahead of it and the key of its
draws, its second work buffer, its registers over the elements of the item that it runs, the stored states and the new weights. -/
structure PEng where
  item : Option WorkItem
  begun : Bool
  ops : List (Nat × List W32 × Bool)
  key : W64 × W64
  next : Option WorkBuf
  weightPhase : Bool
  v : List (List W32)
  k : List W32
  s : List W32
  ns : List (List (BitVec 16))
  nwgt : List W32
  poisoned : Bool
  deriving DecidableEq, Repr

/-- An idle program engine. -/
def PEng.default : PEng :=
  ⟨none, false, [], (0, 0), none, false, List.replicate 16 [], List.replicate 16 0, List.replicate 4 0, List.replicate 3 [], [], false⟩

/-- A window of a slow-tier group whose sums are all written (R248, R249): its number, the sum of its steps' divisors (R243), and the
constants and the key that are active in the step after its last, once that step has begun. -/
structure SlowWindow where
  window : Nat
  divisor : Nat
  consts : Option (List W32 × W64 × W64)
  deriving DecidableEq, Repr

/-- A parameter group's running state: t (R250), hold (R281), the steps for which R246 holds it, readiness, whether its update is queued
and whether it is all written, divisor, the open slow window with the sum of its divisors (R243), the running-sum and residual selectors
(R262, R267, R275) and whether the other residual buffers were written in the step, included and excluded counts (R263), last settled
micro-batch, whether the sum is final and since when (R277), the blocks gathered and their divisor (R276), the step and divisor of the
accumulation passes under way and the blocks whose pass is done (R248), the windows that wait for their sweep and the one being swept
(R249), the constants and the key active in the step after a window's last, with that window (R249), the step of a divergence, whether the last comparison agreed (R281), and whether a pull has written it (R284). -/
structure GroupSt where
  t : Nat
  hold : Bool
  heldSteps : List Nat
  ready : Bool
  queued : Bool
  writtenThisStep : Bool
  divisor : Nat
  openWindow : Nat × Nat
  runSel : Bool
  resSel : Bool
  oresSel : Bool
  resWrote : Bool
  oresWrote : Bool
  included : Nat
  excluded : Nat
  settled : Option Nat
  final : Bool
  finalBeat : Nat
  late : Bool
  gathered : List Nat
  gatherD : Option Nat
  skip : Bool
  passStep : Option Nat
  passDivisor : Nat
  passes : List Nat
  due : List SlowWindow
  sweep : Option SlowWindow
  sweepConsts : Option (Nat × List W32 × W64 × W64)
  divergedAt : Option Nat
  agree : Bool
  pulled : Bool
  deriving DecidableEq, Repr

/-- A group before its first step. -/
def GroupSt.default : GroupSt where
  t := 0
  hold := false
  heldSteps := []
  ready := false
  queued := false
  writtenThisStep := false
  divisor := 0
  openWindow := (0, 0)
  runSel := false
  resSel := false
  oresSel := false
  resWrote := false
  oresWrote := false
  included := 0
  excluded := 0
  settled := none
  final := false
  finalBeat := 0
  late := false
  gathered := []
  gatherD := none
  skip := false
  passStep := none
  passDivisor := 0
  passes := []
  due := []
  sweep := none
  sweepConsts := none
  divergedAt := none
  agree := true
  pulled := false

/-- The update units (10_update_unit.md): the program engines by unit * 64 + engine, the fast queue and the sweep queue of each unit
(unit number first), beat-event words and sticky words by unit, the group states, and the groups in the order in which their reduced
gradients of the step completed (R17). -/
structure Update where
  engines : List (Nat × PEng)
  fast : List (Nat × WorkItem)
  sweep : List (Nat × WorkItem)
  sticky : Store
  beatEv : Store
  groups : List (Nat × GroupSt)
  order : List Nat
  deriving DecidableEq, Repr

/-- A source cursor of a gate (R260): the micro-batch and position it names next. -/
structure Cursor where
  gate : Nat
  source : Nat
  seq : Nat
  pos : Nat
  deriving DecidableEq, Repr

/-- The exact sum of one element as it grows (R261): a dyadic value in units of 2^-149, or the non-finite marks. -/
structure ElemSum where
  sum : Int
  posInf : Bool
  negInf : Bool
  nan : Bool
  deriving DecidableEq, Repr

/-- A tile slot of a gate (R258, R261): gate, group, block, micro-batch, the positions accepted, its sums, poison, whether it was
written to the running sum, and whether it is spilled, its sums standing in the gate's spill area (R265). -/
structure Slot where
  gate : Nat
  group : Nat
  block : Nat
  seq : Nat
  accepted : List (Nat × Nat)
  sums : List ElemSum
  poison : Bool
  applied : Bool
  spilled : Bool
  deriving DecidableEq, Repr

/-- A gate's report on a group's micro-batch (R263). -/
inductive Report where
  | clean | poisoned | missing
  deriving DecidableEq, Repr

/-- The gates (R258 to R265): source tables, cursors, slots, reports by (gate, group, micro-batch), settled pairs with their
inclusion, and the micro-batches whose backward work has ended with the settle wait in force then (R264). -/
structure Gates where
  sources : List SourceEntry
  cursors : List Cursor
  slots : List Slot
  reports : List (Nat × Nat × Nat × Report)
  settled : List (Nat × Nat × Bool)
  backwardEnded : List (Nat × Nat)
  deriving DecidableEq, Repr

/-- The exchange (R270 to R284): messages accepted in the current step, the contributions accepted after their rank was excused and the
ranks excused in the step (R277), messages kept until they can be written (R273, R248), messages sent in the current step (R492) by destination, the gather messages formed (group and first block), fingerprints accepted, the step
last compared and the groups found to differ at it, the pulls that repair them (group and source rank), the compression entries that
become active at the next milestone, and the override that waits for it. -/
structure Exchange where
  accepted : List XMsg
  unused : List XMsg
  excused : List Nat
  nextStep : List XMsg
  sent : List (Nat × XMsg)
  totals : List (Nat × Nat)
  fingerprints : List XMsg
  comparedStep : Option Nat
  divergedNext : List Nat
  repairNext : List (Nat × Nat)
  pendingComp : List (Nat × List Byte)
  overrideDue : Option (Nat × Nat)
  deriving DecidableEq, Repr

/-- A message of a flow kept by its sender (R359): sequence number, bytes and the segments reported received. -/
structure TxMsg where
  seq : Nat
  bytes : List Byte
  received : List Nat
  sentOnce : Bool
  deriving DecidableEq, Repr

/-- A sending flow (R356): peer, kind, next MSG_SEQ, unacknowledged messages, waiting messages, the cumulative acknowledgement and
the current back-off factor. -/
structure TxFlow where
  dest : Nat
  encap : Bool
  next : Nat
  unacked : List TxMsg
  waiting : List (List Byte)
  cum : Nat
  backoff : Nat
  deriving DecidableEq, Repr

/-- A message being assembled (R357): its sequence number, segment count and segments held, and whether it is written. -/
structure RxMsg where
  seq : Nat
  segments : Nat
  held : List (Nat × List Byte)
  written : Bool
  deriving DecidableEq, Repr

/-- A receiving flow (R357, R358): peer, kind, the peer's epoch, the cumulative value, the messages above it, whether a segment arrived
since the last ACK, and whether an ACK waits for a port (R356). -/
structure RxFlow where
  source : Nat
  encap : Bool
  epoch : Nat
  cum : Nat
  msgs : List RxMsg
  fresh : Bool
  owed : Bool
  deriving DecidableEq, Repr

/-- The Ethernet transport (14_ethernet_host.md): flows, the epoch held for each source (R357, R360), and the resolved link address of
each gateway (R352). -/
structure Transport where
  tx : List TxFlow
  rx : List RxFlow
  epochs : List (Nat × Nat)
  resolved : List (Nat × List Byte)
  deriving DecidableEq, Repr

/-- Where a frame in a crossbar comes from: the direction it arrived from (none: the mesh), its crescent, whether the number of its port was
odd (R334), and the port whose receive buffer still holds its flits (R330). -/
structure Origin where
  dir : Option Nat
  crescent : Nat
  odd : Bool
  buffer : Option Nat
  deriving DecidableEq, Repr

/-- A frame that waits in a crossbar: its origin, whether it resumes from a lost port (R339), and the crescents whose crossbars it passes
over the rim links, the last being that of its port (R334). -/
structure QFrame where
  frame : AFrame
  origin : Origin
  resumed : Bool
  rim : List Nat
  deriving DecidableEq, Repr

/-- An Aelif port beyond its objects (13_aelif_links.md): next FRAME_SEQ, unacknowledged frames, frames waiting, last sequence accepted,
whether it answers NAK, flits freed by VC, the peer's counts of them, the flits sent and not known freed (VC, dateline class, flits;
oldest first), the VC named next in CREDIT_VC, VC0 frames in a row and the last of VC1 to VC3 served (R331), the first
frames of packets whose second frame is to come, by VC, the beats of the NAKs of the last ms (R333), the beats of its retrains, whether it
is trained and whether a signpost came since, the last one accepted being in its PEER_SIGNPOST. -/
structure PortRec where
  txSeq : BitVec 8
  unacked : List AFrame
  queue : List QFrame
  rxSeq : BitVec 8
  nakState : Bool
  freed : List Nat
  peerFreed : List Nat
  sent : List (Nat × Bool × Nat)
  turn : Nat
  vc0Run : Nat
  rr : Nat
  partials : List (Nat × AFrame)
  naks : List Nat
  retrains : List Nat
  trained : Bool
  heard : Bool
  deriving DecidableEq, Repr

/-- A port before training. -/
def PortRec.default : PortRec :=
  ⟨0, [], [], 255, false, List.replicate 4 0, List.replicate 4 0, [], 0, 0, 1, [], [], [], false, false⟩

/-- The Aelif links: ports, the plan in force since the last discovery (R342), absent directions and those in which the engine beyond is
absent too (R345), frames held at a gap by direction, and the ports in force for each direction as a mask (R337). -/
structure Aelif where
  ports : List (Nat × PortRec)
  plan : List Byte
  absent : List Nat
  beyond : List Nat
  gapHeld : List (Nat × QFrame)
  assigned : List (Nat × Nat)
  deriving DecidableEq, Repr

/-- A ticket accepted (R365): its ACCEPT_ID, ring index, the 64 bytes, its data, and what has happened to it. -/
structure Ticket where
  acceptId : Nat
  bytes : List Byte
  data : List Byte
  targets : List Byte
  ended : Bool
  completedStep : Option Nat
  deriving DecidableEq, Repr

/-- A token (R366) not yet written to the ring. -/
structure Token where
  status : Nat
  index : Nat
  sequence : Nat
  acceptId : Nat
  hostTag : Nat
  deriving DecidableEq, Repr

/-- A result slot (R369): header and payload bytes. -/
structure RSlot where
  header : List Byte
  payload : List Byte
  deriving DecidableEq, Repr

/-- A FREE slot of generation 0. -/
def RSlot.default : RSlot := ⟨List.replicate 64 0, []⟩

/-- The BAR0 registers (R363). -/
structure Bar0 where
  subBase : W64
  subEntries : W32
  subTail : W32
  subHead : W32
  accBase : W64
  accEntries : W32
  accHead : W32
  accTail : W32
  phase : Bool
  mailboxBusy : Bool
  mailboxReady : Bool
  mailboxRequest : List Byte
  mailboxResponse : List Byte
  deriving DecidableEq, Repr

/-- The host attachment: registers, tickets, tokens queued while the link is down (R367), result slots, whether the link is up, and
RESTART_REPORT of HOST_STATUS (R363; RUN and ACCEPTING follow from the state), the next ACCEPT_ID and the slots reported. -/
structure HostIf where
  bar : Bar0
  tickets : List Ticket
  queued : List Token
  slots : List (Nat × RSlot)
  linkUp : Bool
  restartReport : Bool
  nextAccept : Nat
  reported : List Nat
  deriving DecidableEq, Repr

/-- A layby copy that a micro-batch's stream has written (R222, R305): its sequence number's low 32 bits, address and bytes. -/
structure LaybyRun where
  seq : Nat
  addr : Nat
  bytes : Nat
  deriving DecidableEq, Repr

/-- A micro-batch's work on this engine (R14, R227): sequence number, step, kind, beats, how far it has come, and, once it is replayed, the
layby copies that the replay restarts from (R222). -/
structure Work where
  seq : Nat
  step : Nat
  evaluation : Bool
  acceptId : Nat
  forwardBeat : Nat
  forwardEnded : Bool
  backwardBegun : Bool
  backwardEnded : Bool
  endBeat : Nat
  overruns : Nat
  flags : Nat
  abandoned : Bool
  restart : List LaybyRun
  deriving DecidableEq, Repr

/-- The step in progress: micro-batches, reports counted per waypoint with cores (R402), the waypoints already counted late, the
opening beat, the end of an evaluation window with the tickets admitted, the beat's overrun causes so far, and the layers whose stored
activations are held, by `layerKey` (R379), the EVAL_WINDOW_BEATS, EVAL_TICKETS_MAX and EVAL_PERIOD_STEPS in force
(R389), the layers whose backward work has passed, by the same key (R17), the output gradients that are in, by source (a queue, or
`localLoss`) and micro-batch (R227), the layby copies held (R222, R228), and, while a command runs, the SRAM errors that the cores that go
on by it meet (R81). -/
structure StepSt where
  step : Nat
  work : List Work
  wpCount : Store
  wpLate : List Nat
  openBeat : Nat
  windowEnd : Option Nat
  admitted : List Nat
  causes : BitVec 4
  lastMilestoneBeat : Nat
  milestoneDone : Bool
  hold : Bool
  suspended : Bool
  replayPending : List Nat
  faultSeen : List (Nat × Nat × List Nat)
  layersHeld : List Nat
  evalCfg : Nat × Nat × Nat
  passed : List Nat
  outGrads : List (Nat × Nat)
  layby : List LaybyRun
  met : List (CoreId × List SramErr)
  deriving DecidableEq, Repr

/-- A service clock pin (R413): its source and divisor while it is driven, none while it is held low, and, for the beat's source, the
boundaries counted since its last pulse. -/
structure ClkPin where
  driven : Option (Nat × Nat)
  count : Nat
  deriving DecidableEq, Repr

/-- The beat and the clocks beyond their objects (16_beat_clocks.md): stretch run length and place, requests, the numbers skipped in the last
1,000 beats, the last renewal of the lease, lapse, whether the ticks are lost (R399) and the run length of the last one received (R396), the
PTP lock, the eligible sources, the tick received for the next boundary: its beat number, run length and place in the run (R348, R404), the
origin of the period in force: its beat number, and its time after BEAT_EPOCH_NS (R394), and the pins CLKOUT0 and CLKOUT1 (R413). -/
structure BeatSt where
  stretchLen : Nat
  stretchPlace : Nat
  stretchReq : Bool
  skips : List Nat
  leaseBeat : Nat
  lapsed : Bool
  tickLost : Bool
  tickRun : Nat
  ptpLocked : Bool
  ptpLostFlag : Bool
  eligible : List Nat
  running : Bool
  tick : Option (Nat × Nat × Nat)
  origin : Nat × Nat
  pins : Vector ClkPin 2
  deriving DecidableEq, Repr

/-- A REQUEST in execution (R422, R426): FRAME_SEQ, MAC, the number of operations that will be executed, the next one, the responses so
far (none: it follows a boundary), the transaction begun in it, where it came from (R418), and where the copies received meanwhile did
(R446). -/
structure OpenFrame where
  seq : Nat
  mac : List Byte
  total : Nat
  next : Nat
  resp : List (Option (List Byte))
  txn : Nat
  udp : UdpEnds
  copies : List UdpEnds
  deriving DecidableEq, Repr

/-- A Parealo session (R423): number, role, path, highest executed FRAME_SEQ, the 16 kept responses with the MACs of their requests
(R422), and the frames in execution, oldest first. -/
structure Session where
  num : Nat
  role : Role
  path : Path
  highest : Nat
  kept : List (Nat × List Byte × List Byte)
  open_ : List OpenFrame
  deriving DecidableEq, Repr

/-- A staged write (R436): object key and value bytes. -/
structure Staged where
  key : Nat
  bytes : List Byte
  deriving DecidableEq, Repr

/-- A transaction (R436): handle, session, the change count at BEGIN, the beats counted since BEGIN, staged writes, watched objects, and
whether its COMMIT waits for the boundary. -/
structure Txn where
  handle : Nat
  session : Nat
  role : Role
  change : Nat
  beats : Nat
  staged : List Staged
  watched : List Nat
  committing : Bool
  deriving DecidableEq, Repr

/-- A direct write waiting for its boundary (R434), or the COMMIT of a transaction, in order of arrival (R437); each with the session, the
FRAME_SEQ and the place of the operation that its response answers. -/
inductive Due where
  | direct (session seq k : Nat) (role : Role) (key : Nat) (bytes : List Byte)
  | commit (handle session seq k : Nat)
  deriving DecidableEq, Repr

/-- A superseded DOMAIN version that may still be read (R433): its CHANGE, the boundaries since it was superseded, and the bytes. -/
structure OldVersion where
  key : Nat
  change : Nat
  age : Nat
  bytes : List Byte
  deriving DecidableEq, Repr

/-- Parealo (17_object_dictionary.md): sessions, transactions, what waits for the boundary (the outcomes of R440 stand in the journal), the
next numbers, the expired handles with their sessions (R439), the superseded DOMAIN versions, and the role secrets that take effect once
the frames are answered (R527). -/
structure Parealo where
  isOpen : Bool
  sessions : List Session
  txns : List Txn
  due : List Due
  nextSession : Nat
  nextHandle : Nat
  expired : List (Nat × Nat)
  old : List OldVersion
  secretDue : List (Nat × List Byte)
  deriving DecidableEq, Repr

/-- A long operation beyond its objects (R442): whether a suspend is pending; for a dump that has begun, the step committed at its boundary
and the DETAIL bytes of its image (R509); for a placement load whose checks have passed, the placement that the next boundary applies
(R445). -/
structure JobSt where
  job : Nat
  suspendPending : Bool
  dump : Option (Nat × List Byte)
  load : Option Placement
  deriving DecidableEq, Repr

/-- The blocks of a group that a long operation or a repair brings in (R284, R386, R507): the job (2 reshard, 3 shard pull, 5 a repair of
R282 or R283), the group, the source (none: a host image), whether the slow-tier arrays come too and whether the source's COMMIT_STEP
is stamped (R508), the t received, the blocks written and verified, and the failed tries by block. -/
structure Pull where
  job : Nat
  group : Nat
  source : Option Nat
  all : Bool
  adopt : Bool
  t : Nat
  commit : Option Nat
  got : List Nat
  tries : Store
  deriving DecidableEq, Repr

/-- A journal record (R494): type, beat, sequence number and body. -/
structure JRec where
  typ : Nat
  seq : Nat
  beat : Nat
  writer : Nat
  body : List Byte
  deriving DecidableEq, Repr

/-- An event record (R513). -/
structure EvRec where
  beat : Nat
  seq : Nat
  code : Nat
  severity : Nat
  detail : List Nat
  deriving DecidableEq, Repr

/-- The logbook (R493): journal, events, the transport epoch, the retired frames recorded in the stack fault maps, and whether a write has
failed its read-back (R511). The kept objects of R432 stand in the object store, the defect map in Grid. -/
structure Logbook where
  journal : List JRec
  events : List EvRec
  epoch : Nat
  stackMaps : List Retired
  stackMapsValid : Bool
  failed : Bool
  activeB : Bool
  deriving DecidableEq, Repr

/-- A firmware bank (R521): its image and whether it is marked valid. -/
structure Bank where
  image : FwImage
  valid : Bool
  deriving DecidableEq, Repr

/-- The security state (21_security_check_values.md): fuses, role secrets, banks of kinds 0 to 3 (A then B), the request being verified,
the identity key's next leaf, whether the bottom tree after the one in use is
generated, the beats since the last quote, the debug unlock, tokens written since bring-up, SERIAL, and the bit in the
1149.1 bypass register. -/
structure Security where
  rootHash : List (List Byte)
  rootRevoked : BitVec 4
  rollbackBits : Nat
  identitySeed : List Byte
  wrapKey : List Byte
  provisioned : Bool
  debugLocked : Bool
  secrets : List (List Byte)
  banks : List (Bank × Bank)
  staging : List Byte
  leaf : Nat
  treeReady : Bool
  lastQuote : Option Nat
  debugOpen : Bool
  tokensWritten : Nat
  serial : List Byte
  tdi : Bool
  deriving DecidableEq, Repr

/-- The register context of a check-value unit (R532), and its line lanes (R530). -/
structure Cvu where
  config : W32
  seqWord : W64
  value : W64
  milepost : W32
  result : W64
  active : Bool
  lanes : List W64
  deriving DecidableEq, Repr

/-- A check-value unit after reset. -/
def Cvu.default : Cvu := ⟨0, 0, 0, 0, 0, false, List.replicate 16 0⟩

/-- The management complex: whether each core runs verified firmware, which is active is in the logbook, the heartbeats missed, the pull
endpoints (R482), the start in progress, whether only the firmware-recovery exchange is offered (R521), and a handover: 1 waits for a
reshard to end (R391), 2 begun, 3 this engine has left RUN for it (R502), 4 waits for a
reshard that a lost field met in COPYING (R391); whether RUN was entered since the bring-up; the engine address and the Parealo port in force (R378, R432), and the kind
of a committed reset: 0 none, 1 warm, 2 cold (R473). `hbMissed`: heartbeats failed in a row at MC-A and at MC-B. -/
structure Mgmt where
  mcaRuns : Bool
  mcbRuns : Bool
  hbMissed : Nat × Nat
  pullOpen : Bool
  restarted : Bool
  startKind : Nat
  fullStart : Bool
  awaitStart : Bool
  recovery : Bool
  handover : Nat
  address : Nat
  udpPort : Nat
  resetDue : Nat
  runEntered : Bool
  deriving DecidableEq, Repr

/-- What surrounds a datagram on an EP port (R352, R353, R356): the IPv6 addresses, the hop limit, DSCP, the flow label, both UDP port
numbers, and the link address of the port's GATEWAY where it is resolved. -/
structure Envelope where
  source : List Byte
  dest : List Byte
  hopLimit : Nat
  dscp : Nat
  flowLabel : Nat
  udpPort : Nat
  linkDest : Option (List Byte)
  deriving DecidableEq, Repr

/-- What leaves the engine at its boundary, oldest first. -/
inductive Out where
  | token (index : Nat) (bytes : List Byte)
  | msix (vector : Nat)
  | frame (path : Path) (addr : List Byte) (port : Nat) (bytes : List Byte)
  | objStatus (key status : Nat)
  | datagram (port : Nat) (env : Envelope) (d : Datagram)
  | aelif (port : Nat) (f : AFrame)
  | tickOut (port beat runLen runPlace : Nat)
  | stretchOut (port : Nat)
  | mesh (p : Packet)
  | endpoint (crescent : Dir) (number : Nat) (p : Packet)
  | vc0Report (kind : Nat) (data : List Nat)
  | hostWrite (addr : Nat) (bytes : List Byte)
  | tdo (bits : List Bool)
  | neighbour (port : Nat) (bytes : List Byte)
  | lastSeq (port : Nat) (seq : BitVec 8)
  | lastSeqRequest (lostPort viaPort : Nat)
  | solicit (port : Nat) (target : List Byte)
  | clkPulse (pin : Nat)
  | block (dest group : Nat) (b : BlockData)
  | pullRequest (job group : Nat) (source : Option Nat) (first count : Nat)
  deriving DecidableEq, Repr

/-- The engine. `objs` and `doms` are the object dictionary's stored values where they differ from the defaults of ObjTable;
`changes` the CHANGE of each object and `change` the engine's change count (R433); `raised` the gathered flags raised in this beat
and `clears` the clears written in it (R157, R214); `snapshot` the status words of R107 that are not zero, by r * LOGICAL_COLUMNS + c; `placement` is the applied placement, `images` the loaded images by stack * 2^21 + frame (R445); `opsLow` holds the operations of object 6504:01 below its unit of 2^20; `free` is the model's own counter for free values. -/
structure State where
  pending : List Instr
  variant : Variant
  objs : Store
  doms : List (Nat × List Byte)
  change : Nat
  changes : Store
  raised : Store
  clears : Store
  cores : List (Nat × Core)
  snapshot : Store
  grid : Grid
  mesh : Mesh
  power : Power
  stk : Stacks
  streams : Streams
  update : Update
  gates : Gates
  exch : Exchange
  eth : Transport
  aelif : Aelif
  host : HostIf
  stp : StepSt
  beat : BeatSt
  par : Parealo
  jobs : List JobSt
  pulls : List Pull
  log : Logbook
  sec : Security
  cvus : List (Nat × Cvu)
  mgmt : Mgmt
  placement : Option Placement
  images : List (Nat × Placement)
  opsLow : Nat
  out : List Out
  free : Nat
  deriving DecidableEq, Repr

/-- Why the engine stops. No command of this model stops with a fault: what the manual calls a fault is the engine's own state. -/
inductive Fault where
  /-- Raised by no meaning: every fault the manual describes is reported in the engine's state (safe). -/
  | none_
  deriving DecidableEq, Repr

/-- Why a command is refused. -/
inductive Refusal where
  /-- Raised by an arm of `exec` whose command has no meaning yet (safe). -/
  | notModelled (mnemonic : String)
  deriving DecidableEq, Repr

/-- The engine right after the input has risen, before phase 1 of its first bring-up (R473, R475): every object at its default. -/
def State.reset : State where
  pending := []
  variant := .x
  objs := []
  doms := []
  change := 0
  changes := []
  raised := []
  clears := []
  cores := []
  snapshot := []
  grid := ⟨some ⟨1, 0, 255, 0, [], []⟩, none, false, [], [], [], [], [], [], false, [], 0, [], []⟩
  mesh := ⟨[], [], [], [], [], [], [], [], []⟩
  power := ⟨true, false, false, true, false, false, false, false, [], []⟩
  stk := ⟨[], [], [], [], []⟩
  streams := ⟨[], [], [], 0, false, [], []⟩
  update := ⟨[], [], [], [], [], [], []⟩
  gates := ⟨[], [], [], [], [], []⟩
  exch := ⟨[], [], [], [], [], [], [], none, [], [], [], none⟩
  eth := ⟨[], [], [], []⟩
  aelif := ⟨[], [], [], [], [], []⟩
  host := ⟨⟨0, 0, 0, 0, 0, 0, 0, 0, true, false, false, [], []⟩, [], [], [], false, false, 1, []⟩
  stp := ⟨0, [], [], [], 0, none, [], 0, 0, false, false, false, [], [], [], (0, 0, 1), [], [], [], []⟩
  beat := ⟨0, 0, false, [], 0, false, false, 0, false, false, [], false, none, (0, 0), Vector.replicate 2 ⟨none, 0⟩⟩
  par := ⟨false, [], [], [], 1, 1, [], [], []⟩
  jobs := []
  pulls := []
  log := ⟨[], [], 0, [], true, false, false⟩
  sec := ⟨List.replicate 4 (List.replicate 32 0), 0, 0, List.replicate 32 0, List.replicate 32 0, false, false,
    List.replicate 4 (List.replicate 32 0), List.replicate 4 (⟨⟨[], [], []⟩, true⟩, ⟨⟨[], [], []⟩, true⟩), [], 0, false, none, false, 0,
    List.replicate 16 48, false⟩
  cvus := []
  mgmt := ⟨false, false, (0, 0), false, false, 0, false, true, false, 0, 0, 51210, 0, false⟩
  placement := none
  images := []
  opsLow := 0
  out := []
  free := 0

end Sys2Proof.Machine
end

