-- ==== Sys2Proof/Machine/Maps.lean ====
section
/-! DEFINITION. Maps as lists of key and value with strictly rising keys: the form in which State keeps memories, objects, cores and
the other sparse things. -/

namespace Sys2Proof.Machine

/-- The value at a key, or `d` where the key is not listed. -/
def amGet {α : Type} (d : α) : List (Nat × α) → Nat → α
  | [], _ => d
  | (k', v) :: m, k => if k = k' then v else amGet d m k

/-- The list with the key's value set. -/
def amIns {α : Type} (v : α) : List (Nat × α) → Nat → List (Nat × α)
  | [], k => [(k, v)]
  | (k', v') :: m, k =>
    if k = k' then (k, v) :: m else if k < k' then (k, v) :: (k', v') :: m else (k', v') :: amIns v m k

/-- The list without the key. -/
def amDel {α : Type} : List (Nat × α) → Nat → List (Nat × α)
  | [], _ => []
  | (k', v') :: m, k => if k = k' then amDel m k else (k', v') :: amDel m k

/-- The list with the key's value set; a value equal to `d`, what an unlisted key reads as, is not listed. -/
def amPut {α : Type} [DecidableEq α] (d v : α) (m : List (Nat × α)) (k : Nat) : List (Nat × α) :=
  if v = d then amDel m k else amIns v m k

/-- Whether the key is listed. -/
def amHas {α : Type} : List (Nat × α) → Nat → Bool
  | [], _ => false
  | (k', _) :: m, k => k = k' || amHas m k

/-- The keys strictly rise, from `lo` on. -/
def amRising {α : Type} : Nat → List (Nat × α) → Bool
  | _, [] => true
  | lo, (k, _) :: m => decide (lo ≤ k) && amRising (k + 1) m

/-- The canonical form: keys strictly rising, and no entry equal to `d`. -/
def amWf {α : Type} [DecidableEq α] (d : α) (m : List (Nat × α)) : Bool :=
  amRising 0 m && m.all (fun e => decide (e.2 ≠ d))

/-- The byte of memory at an address; a byte that nothing has written reads as zero (assumption log 6). -/
def memRead (m : Mem) (a : Nat) : Byte := amGet 0 m a

/-- Memory with one byte written. -/
def memWrite (m : Mem) (a : Nat) (b : Byte) : Mem := amPut 0 b m a

/-- `n` bytes from an address on. -/
def memBytes (m : Mem) (a : Nat) : Nat → List Byte
  | 0 => []
  | n + 1 => memRead m a :: memBytes m (a + 1) n

/-- Memory with bytes written from an address on. -/
def memStore (m : Mem) (a : Nat) : List Byte → Mem
  | [] => m
  | b :: bs => memStore (memWrite m a b) (a + 1) bs

/-- The canonical form of memory: addresses strictly rising, and no entry equal to what an unlisted address reads as. -/
abbrev Memory.wf (m : Mem) : Bool := amWf 0 m

/-- The number at a key of a store (0 where unlisted). -/
def stGet (m : Store) (k : Nat) : Nat := amGet 0 m k

/-- The store with a number set. -/
def stPut (m : Store) (k v : Nat) : Store := amPut 0 v m k

end Sys2Proof.Machine
end

