-- ==== Sys2Proof/Machine/Trans.lean ====
section
/-! DEFINITION. The values of the transcendental functions (04_core.md R100) in fixed point, far finer than the bounds that R100 sets. -/

namespace Sys2Proof.Machine

/-- Fraction bits of the fixed-point numbers of this file. -/
abbrev fixBits : Nat := 640

/-- One in fixed point. -/
abbrev fixOne : Nat := 2 ^ 640

/-- The rest of the series of e^r from the term after `term` on: `fuel` terms. -/
def expTerms (r : Nat) : Nat → Nat → Nat → Nat → Nat
  | 0, _, _, acc => acc
  | fuel + 1, i, term, acc =>
    let t := term * r / fixOne / i
    expTerms r fuel (i + 1) t (acc + t)

/-- e^r for 0 ≤ r < 1. -/
def expSeries (r : Nat) : Nat := expTerms r 180 1 fixOne fixOne

/-- The natural logarithm of 2: Σ 1 / (k 2^k). -/
def ln2Fix : Nat := ((List.range 660).map (fun k => fixOne / ((k + 1) * 2 ^ (k + 1)))).sum

/-- e^t as M × 2^n in fixed point. -/
def expFix (t : Int) : Nat × Int :=
  let n := t / (ln2Fix : Int)
  (expSeries (t - n * ln2Fix).toNat, n)

/-- A fixed-point number times 2^n. -/
def fixShift (m : Nat) (n : Int) : Nat := if n < 0 then m / 2 ^ (-n).toNat else m * 2 ^ n.toNat

/-- The rest of the series of atanh z, with z² given: `fuel` terms. -/
def atanhTerms (z2 : Nat) : Nat → Nat → Nat → Nat → Nat
  | 0, _, _, acc => acc
  | fuel + 1, i, pow, acc =>
    let p := pow * z2 / fixOne
    atanhTerms z2 fuel (i + 2) p (acc + p / i)

/-- ln (m / 2^k) for a number m whose top bit is bit k: 2 atanh ((m − 2^k) / (m + 2^k)). -/
def lnMant (m k : Nat) : Nat :=
  let z := (m - 2 ^ k) * fixOne / (m + 2 ^ k)
  2 * atanhTerms (z * z / fixOne) 220 3 z z

/-- The rest of the series of atan (1 / q), alternating in sign: `fuel` terms. -/
def atanTerms (q : Nat) : Nat → Nat → Nat → Int → Int
  | 0, _, _, acc => acc
  | fuel + 1, i, pow, acc =>
    let p := pow / (q * q)
    atanTerms q fuel (i + 1) p (if i % 2 = 1 then acc - (p / (2 * i + 1) : Nat) else acc + (p / (2 * i + 1) : Nat))

/-- π, by Machin's formula. -/
def piFix : Nat :=
  let atan (q : Nat) : Int := atanTerms q 160 1 (fixOne / q) (fixOne / q : Nat)
  (16 * atan 5 - 4 * atan 239).toNat

/-- The rest of the series Σ x^(2i+1) / (2i+1)!!: `fuel` terms. -/
def oddTerms (x2 : Nat) : Nat → Nat → Nat → Nat → Nat
  | 0, _, _, acc => acc
  | fuel + 1, i, term, acc =>
    let t := term * x2 / fixOne / i
    oddTerms x2 fuel (i + 2) t (acc + t)

/-- The integer square root by Newton's steps from above: `fuel` of them. -/
def newtonSqrt (n : Nat) : Nat → Nat → Nat
  | 0, r => r
  | fuel + 1, r => newtonSqrt n fuel (min r ((r + n / r) / 2))

/-- The area of the normal density from 0 to x, for 0 ≤ x < 32: φ(x) Σ x^(2i+1) / (2i+1)!!. -/
def normalArea (x : Nat) : Nat :=
  let x2 := x * x / fixOne
  let e := expFix (-((x2 / 2 : Nat) : Int))
  let root := newtonSqrt (2 * piFix * fixOne) 700 (4 * fixOne)
  let phi := fixShift e.1 e.2 * fixOne / root
  phi * oddTerms x2 1500 3 x x / fixOne

end Sys2Proof.Machine
end

