-- ==== Sys2Proof/Machine/Float.lean ====
section
/-! DEFINITION. Exact numbers and the number formats: decoding, rounding and encoding (06_number_formats.md R138 to R148), the FP32
operations (04_core.md R100, 07_tile_programs.md R185) and the keyed and free-running generators (04_core.md R102). -/

namespace Sys2Proof.Machine

/-- An exact dyadic number `m * 2 ^ e`. -/
structure Dy where
  m : Int
  e : Int
  deriving DecidableEq, Repr

/-- The mantissa at a lower or equal exponent. -/
def Dy.at (d : Dy) (e : Int) : Int := d.m * 2 ^ (d.e - e).toNat

/-- The exact sum. -/
def Dy.add (a b : Dy) : Dy := let e := min a.e b.e; ⟨a.at e + b.at e, e⟩

/-- The exact product. -/
def Dy.mul (a b : Dy) : Dy := ⟨a.m * b.m, a.e + b.e⟩

/-- The negation. -/
def Dy.neg (a : Dy) : Dy := ⟨-a.m, a.e⟩

/-- The exact difference. -/
def Dy.sub (a b : Dy) : Dy := a.add b.neg

/-- Zero. -/
def Dy.zero : Dy := ⟨0, 0⟩

/-- floor(log2 |x|) of a nonzero number. -/
def Dy.lg (a : Dy) : Int := (Nat.log2 a.m.natAbs : Int) + a.e

/-- Whether |a| ≤ |b|. -/
def Dy.absLe (a b : Dy) : Bool := let e := min a.e b.e; decide ((a.at e).natAbs ≤ (b.at e).natAbs)

/-- Whether a < b. -/
def Dy.lt (a b : Dy) : Bool := decide ((a.sub b).m < 0)

/-- Truncation of the magnitude toward zero to a multiple of 2^q. -/
def Dy.trunc (a : Dy) (q : Int) : Dy :=
  if q ≤ a.e then a else ⟨a.m.tdiv (2 ^ (q - a.e).toNat), q⟩

/-- A value of a floating-point format. -/
inductive FV where
  | fin (neg : Bool) (m : Nat) (e : Int)
  | inf (neg : Bool)
  | nan
  deriving DecidableEq, Repr

/-- The exact value of a finite one (0 otherwise). -/
def FV.dy : FV → Dy
  | .fin neg m e => ⟨if neg then -(m : Int) else m, e⟩
  | _ => Dy.zero

/-- Whether the value is finite. -/
def FV.isFin : FV → Bool
  | .fin _ _ _ => true
  | _ => false

/-- Whether the value is a zero. -/
def FV.isZero : FV → Bool
  | .fin _ m _ => m == 0
  | _ => false

/-- The sign. -/
def FV.sign : FV → Bool
  | .fin neg _ _ => neg
  | .inf neg => neg
  | .nan => false

/-- A floating-point format: exponent bits, significand bits, bias, and its top: 0 infinity and NaN at the highest exponent, 1 NaN
only at the all-ones code (E4M3), 2 neither (E2M3, E3M2, E2M1) (R139). -/
structure Fmt where
  eb : Nat
  mb : Nat
  bias : Nat
  top : Nat
  deriving DecidableEq, Repr

/-- The floating-point formats by code (R138, R139); any other code as FP32. -/
def fmtOf (code : Nat) : Fmt :=
  match code with
  | 1 => ⟨8, 7, 127, 0⟩
  | 2 => ⟨5, 10, 15, 0⟩
  | 3 => ⟨4, 3, 7, 1⟩
  | 4 => ⟨5, 2, 15, 0⟩
  | 5 => ⟨2, 3, 1, 2⟩
  | 6 => ⟨3, 2, 3, 2⟩
  | 7 => ⟨2, 1, 1, 2⟩
  | _ => ⟨8, 23, 127, 0⟩

/-- The bits of an element of a format (R138). -/
def fmtBits (code : Nat) : Nat :=
  match code with
  | 0 => 32
  | 1 => 16
  | 2 => 16
  | 5 => 6
  | 6 => 6
  | 7 => 4
  | 9 => 4
  | _ => 8

/-- The value of a code of a floating-point format (R139). -/
def Fmt.decode (f : Fmt) (v : Nat) : FV :=
  let neg := bit v (f.eb + f.mb)
  let ex := bits v (f.eb + f.mb - 1) f.mb
  let sg := v % 2 ^ f.mb
  if f.top = 0 ∧ ex = 2 ^ f.eb - 1 then (if sg = 0 then .inf neg else .nan)
  else if f.top = 1 ∧ ex = 2 ^ f.eb - 1 ∧ sg = 2 ^ f.mb - 1 then .nan
  else if ex = 0 then .fin neg sg (1 - (f.bias : Int) - f.mb)
  else .fin neg (2 ^ f.mb + sg) ((ex : Int) - f.bias - f.mb)

/-- The largest finite magnitude code. -/
def Fmt.maxCode (f : Fmt) : Nat :=
  if f.top = 0 then (2 ^ f.eb - 1) * 2 ^ f.mb - 1 else if f.top = 1 then 2 ^ (f.eb + f.mb) - 2 else 2 ^ (f.eb + f.mb) - 1

/-- The canonical NaN of a format (R142); +0 where it has none (R146). -/
def Fmt.nan (f : Fmt) : Nat :=
  if f.top = 0 then (2 ^ f.eb - 1) * 2 ^ f.mb + 2 ^ (f.mb - 1) else if f.top = 1 then 2 ^ (f.eb + f.mb) - 1 else 0

/-- The sign bit in its place. -/
def Fmt.signed (f : Fmt) (neg : Bool) (mag : Nat) : Nat := if neg then 2 ^ (f.eb + f.mb) + mag else mag

/-- The exponent of the spacing at a magnitude (R145): floor(log2 |x|) - significand bits, or the subnormal spacing. -/
def Fmt.quantum (f : Fmt) (d : Dy) : Int := max (d.lg - f.mb) (1 - (f.bias : Int) - f.mb)

/-- A rounding: 0 RNE, 1 RZ, 2 and 3 stochastic with the draw `r` (R143, R145). Answers the magnitude in units of 2^q, and whether
it is exact. -/
def roundAt (d : Dy) (q : Int) (mode : Nat) (r : Nat) : Nat × Bool :=
  let a := d.m.natAbs
  if q ≤ d.e then (a * 2 ^ (d.e - q).toNat, true)
  else
    let k := (q - d.e).toNat
    let lo := a / 2 ^ k
    let rem := a % 2 ^ k
    if rem = 0 then (lo, true)
    else
      let up := match mode with
        | 0 => decide (2 ^ k < 2 * rem) || (decide (2 * rem = 2 ^ k) && lo % 2 == 1)
        | 1 => false
        | _ => decide (2 ^ 32 ≤ (rem * 2 ^ 32) / 2 ^ k + r)
      (lo + b2n up, false)

abbrev flagOverflow : Nat := 1
abbrev flagUnderflow : Nat := 2
abbrev flagInexact : Nat := 4
abbrev flagInvalid : Nat := 8

/-- A nonzero exact value rounded into a format (R144, R146, R147), with its flags (R154). -/
def roundInto (f : Fmt) (d : Dy) (mode r : Nat) (sat : Bool) : Nat × Nat :=
  let neg := decide (d.m < 0)
  let q := f.quantum d
  let (k, ex) := roundAt d q mode r
  let mag := ((q + f.mb + f.bias) * 2 ^ f.mb + k - 2 ^ f.mb).toNat
  let small := decide (d.lg < 1 - (f.bias : Int))
  if f.maxCode < mag then
    let out := if sat ∨ f.top = 2 then f.signed neg f.maxCode
      else if f.top = 1 then f.nan else f.signed neg (f.maxCode + 1)
    (out, flagOverflow ||| flagInexact)
  else (f.signed neg mag, if ex then 0 else if small then flagUnderflow ||| flagInexact else flagInexact)

/-- FP32. -/
abbrev f32 : Fmt := fmtOf 0

/-- The value of an FP32 word. -/
def f32v (w : W32) : FV := f32.decode w.toNat

/-- The canonical NaN of FP32 (R142). -/
abbrev f32NaN : W32 := 0x7FC00000

/-- A zero or an infinity of FP32. -/
def f32Zero (neg : Bool) : W32 := if neg then 0x80000000 else 0

/-- An infinity of FP32. -/
def f32Inf (neg : Bool) : W32 := if neg then 0xFF800000 else 0x7F800000

/-- An exact value rounded to nearest even into FP32, a zero with the given sign. -/
def f32Round (d : Dy) (zeroNeg : Bool) : W32 × Nat :=
  if d.m = 0 then (f32Zero zeroNeg, 0)
  else let r := roundInto f32 d 0 0 false; (BitVec.ofNat 32 r.1, r.2)

/-- NaN in place of any NaN: what the engine passes on of a word (R142). -/
def f32Canon (w : W32) : W32 := if f32v w = .nan then f32NaN else w

/-- a + b (R100, R155). -/
def f32Add (a b : W32) : W32 × Nat :=
  match f32v a, f32v b with
  | .nan, _ => (f32NaN, 0)
  | _, .nan => (f32NaN, 0)
  | .inf s, .inf t => if s = t then (f32Inf s, 0) else (f32NaN, flagInvalid)
  | .inf s, _ => (f32Inf s, 0)
  | _, .inf t => (f32Inf t, 0)
  | x, y => f32Round (x.dy.add y.dy) (x.isZero && y.isZero && x.sign && y.sign)

/-- −a. -/
def f32Neg (a : W32) : W32 := if f32v a = .nan then f32NaN else a ^^^ 0x80000000

/-- |a|. -/
def f32Abs (a : W32) : W32 := if f32v a = .nan then f32NaN else a &&& 0x7FFFFFFF

/-- a − b; a NaN stays a NaN. -/
def f32Sub (a b : W32) : W32 × Nat := f32Add a (f32Neg b)

/-- a × b. -/
def f32Mul (a b : W32) : W32 × Nat :=
  let sg := (f32v a).sign != (f32v b).sign
  match f32v a, f32v b with
  | .nan, _ => (f32NaN, 0)
  | _, .nan => (f32NaN, 0)
  | .inf _, y => if y.isZero then (f32NaN, flagInvalid) else (f32Inf sg, 0)
  | x, .inf _ => if x.isZero then (f32NaN, flagInvalid) else (f32Inf sg, 0)
  | x, y => f32Round (x.dy.mul y.dy) sg

/-- a × b + c with one rounding. -/
def f32Fma (a b c : W32) : W32 × Nat :=
  let x := f32v a
  let y := f32v b
  let z := f32v c
  let sg := x.sign != y.sign
  if x = .nan ∨ y = .nan then (f32NaN, 0)
  else if (!x.isFin && y.isZero) || (x.isZero && !y.isFin) then (f32NaN, flagInvalid)
  else if z = .nan then (f32NaN, 0)
  else if !x.isFin || !y.isFin then
    (if !z.isFin && z.sign != sg then (f32NaN, flagInvalid) else (f32Inf sg, 0))
  else if !z.isFin then (f32Inf z.sign, 0)
  else
    let p := x.dy.mul y.dy
    f32Round (p.add z.dy) ((p.m == 0) && z.isZero && sg && z.sign)

/-- Whether a < b; false with a NaN (R155). -/
def f32Lt (a b : W32) : Bool :=
  match f32v a, f32v b with
  | .nan, _ => false
  | _, .nan => false
  | .inf s, .inf t => s && !t
  | .inf s, _ => s
  | _, .inf t => !t
  | x, y => x.dy.lt y.dy

/-- Whether a = b; false with a NaN; the zeros are equal. -/
def f32Eq (a b : W32) : Bool :=
  if f32v a = .nan ∨ f32v b = .nan then false
  else if (f32v a).isFin && (f32v b).isFin then ((f32v a).dy.sub (f32v b).dy).m == 0 else a == b

/-- MIN, with −0 below +0 (R185). -/
def f32Min (a b : W32) : W32 :=
  if f32v a = .nan ∨ f32v b = .nan then f32NaN
  else if f32Lt a b then a else if f32Lt b a then b
  else if (f32v a).sign then a else b

/-- MAX, with −0 below +0 (R185). -/
def f32Max (a b : W32) : W32 :=
  if f32v a = .nan ∨ f32v b = .nan then f32NaN
  else if f32Lt a b then b else if f32Lt b a then a
  else if (f32v a).sign then b else a

/-- The FP32 word of a comparison (R185). -/
def f32Bool (b : Bool) : W32 := if b then 0x3F800000 else 0

/-- Integer square root from the top bit down. -/
def isqrtGo (n : Nat) : Nat → Nat → Nat
  | 0, r => r
  | k + 1, r => isqrtGo n k (if (r + 2 ^ k) * (r + 2 ^ k) ≤ n then r + 2 ^ k else r)

/-- floor(sqrt n) for n below 2^256. -/
def isqrt (n : Nat) : Nat := isqrtGo n 128 0

/-- A value of magnitude `n * 2 ^ e` (exact), or between that and `(n + 1) * 2 ^ e`, where n has many more bits than an FP32
significand, given as an FP32 word within `k` ulp; which of the values within that bound is `Config.ulpChoice` of the operation and its
operands (R100, R101). A result that is not the exact value raises INEXACT, and OVERFLOW or UNDERFLOW as R155 says. -/
def withinUlp (k op : Nat) (a b : W32) (neg : Bool) (n : Nat) (e : Int) (exact : Bool) : W32 × Nat :=
  let d : Dy := if exact then ⟨n, e⟩ else ⟨2 * n + 1, e - 1⟩
  let q := f32.quantum d
  let (r, ex) := roundAt d q 1 0
  let mag := ((q + f32.mb + f32.bias) * 2 ^ f32.mb + r - 2 ^ f32.mb).toNat
  let c := Config.ulpChoice op a b
  let out := if ex then mag + c % (2 * k + 1) - k else mag + 1 + c % (2 * k) - k
  let hit := ex && out == mag && decide (out ≤ f32.maxCode)
  let code := if f32.maxCode < out then f32.maxCode + 1 else out
  let fl := (if f32.maxCode < out then flagOverflow else 0) |||
    (if hit then 0 else flagInexact ||| (if d.lg < -126 then flagUnderflow else 0))
  (BitVec.ofNat 32 (f32.signed neg code), fl)

/-- A value given within one ulp, as the reciprocal class gives it (R100). -/
def ulpResult (op : Nat) (a b : W32) (neg : Bool) (n : Nat) (e : Int) (exact : Bool) : W32 × Nat := withinUlp 1 op a b neg n e exact

/-- a / b within one ulp (R100, R155); operation code 15 (DIV) of R173. -/
def f32Div (a b : W32) : W32 × Nat :=
  let x := f32v a
  let y := f32v b
  let sg := x.sign != y.sign
  if x = .nan ∨ y = .nan then (f32NaN, 0)
  else if !x.isFin && !y.isFin then (f32NaN, flagInvalid)
  else if x.isZero && y.isZero then (f32NaN, flagInvalid)
  else if !x.isFin then (f32Inf sg, 0)
  else if !y.isFin then (f32Zero sg, 0)
  else if y.isZero then (f32Inf sg, flagOverflow)
  else if x.isZero then (f32Zero sg, 0)
  else
    let p := x.dy.m.natAbs * 2 ^ 64
    let d := y.dy.m.natAbs
    ulpResult 15 a b sg (p / d) (x.dy.e - y.dy.e - 64) (p % d == 0)

/-- 1 / a within one ulp; operation code 13 (RCP). -/
def f32Rcp (a : W32) : W32 × Nat :=
  let x := f32v a
  if x = .nan then (f32NaN, 0)
  else if !x.isFin then (f32Zero x.sign, 0)
  else if x.isZero then (f32Inf x.sign, flagOverflow)
  else
    let d := x.dy.m.natAbs
    ulpResult 13 a 0 x.sign (2 ^ 64 / d) (-x.dy.e - 64) (2 ^ 64 % d == 0)

/-- The square root within one ulp; operation code 16 (SQRT). -/
def f32Sqrt (a : W32) : W32 × Nat :=
  let x := f32v a
  if x = .nan then (f32NaN, 0)
  else if x.isZero then (a, 0)
  else if x.sign then (f32NaN, flagInvalid)
  else if !x.isFin then (a, 0)
  else
    let odd := x.dy.e % 2 = 1
    let m := (if odd then 2 * x.dy.m.natAbs else x.dy.m.natAbs) * 2 ^ 64
    let e := (if odd then x.dy.e - 1 else x.dy.e)
    let n := isqrt m
    ulpResult 16 a 0 false n (e / 2 - 32) (n * n == m)

/-- 1 / sqrt(a) within one ulp; operation code 14 (RSQRT). -/
def f32Rsqrt (a : W32) : W32 × Nat :=
  let x := f32v a
  if x = .nan then (f32NaN, 0)
  else if x.isZero then (f32Inf x.sign, flagOverflow)
  else if x.sign then (f32NaN, flagInvalid)
  else if !x.isFin then (0, 0)
  else
    let odd := x.dy.e % 2 = 1
    let m := if odd then 2 * x.dy.m.natAbs else x.dy.m.natAbs
    let e := (if odd then x.dy.e - 1 else x.dy.e)
    let n := isqrt (2 ^ 128 / m)
    ulpResult 14 a 0 false n (-(e / 2) - 64) (n * n * m == 2 ^ 128)

/-! ### The transcendental class (R100, R155) -/

/-- A magnitude of a transcendental function: its sign, `n` and `e` as `withinUlp` takes them, and whether it is exact. -/
abbrev Mag : Type := Bool × Nat × Int × Bool

/-- A magnitude just below `n * 2 ^ e`. -/
def justBelow (neg : Bool) (n : Nat) (e : Int) : Mag := (neg, n * 2 ^ 64 - 1, e - 64, false)

/-- A finite operand in fixed point, a large one taken as ±1,024. -/
def fixOf (d : Dy) : Int :=
  if 10 ≤ d.lg ∧ d.m ≠ 0 then (if d.m < 0 then -(1024 * fixOne : Nat) else (1024 * fixOne : Nat)) else d.at (-(fixBits : Int))

/-- 2^x. -/
def exp2Mag (d : Dy) : Mag :=
  let x := fixOf d
  let n := x / (fixOne : Int)
  let f := (x - n * fixOne).toNat
  (false, expSeries (f * ln2Fix / fixOne), n - fixBits, f == 0)

/-- e^x. -/
def expMag (d : Dy) : Mag :=
  let r := expFix (fixOf d)
  (false, r.1, r.2 - fixBits, d.m == 0)

/-- log2 x of a positive x. -/
def log2Mag (d : Dy) : Mag :=
  let k := Nat.log2 d.m.natAbs
  let whole := (k : Int) + d.e
  let exact := d.m.natAbs == 2 ^ k
  let v := whole * fixOne + (lnMant d.m.natAbs k * fixOne / ln2Fix : Nat)
  if exact then (decide (whole < 0), whole.natAbs * fixOne, -(fixBits : Int), true)
  else if v < 0 then (true, v.natAbs - 1, -(fixBits : Int), false) else (false, v.toNat, -(fixBits : Int), false)

/-- tanh x of a nonzero x: (e^2|x| − 1) / (e^2|x| + 1), just below |x| where x is tiny and just below 1 where it is large. -/
def tanhMag (d : Dy) : Mag :=
  let neg := decide (d.m < 0)
  if d.lg < -30 then justBelow neg d.m.natAbs d.e
  else if 6 ≤ d.lg then justBelow neg (2 ^ 64) (-64)
  else
    let r := expFix (2 * (fixOf d).natAbs : Nat)
    let e := fixShift r.1 r.2
    (neg, (e - fixOne) * fixOne / (e + fixOne), -(fixBits : Int), false)

/-- 1 / (1 + e^−x). -/
def sigmoidMag (d : Dy) : Mag :=
  if d.m = 0 then (false, 1, -1, true)
  else if 0 < d.m ∧ 8 ≤ d.lg then justBelow false (2 ^ 64) (-64)
  else
    let r := expFix (-((fixOf d).natAbs : Int))
    let den := fixOne + fixShift r.1 r.2
    if d.m < 0 then (false, r.1 * fixOne / den, r.2 - fixBits, false) else (false, fixOne * fixOne / den, -(fixBits : Int), false)

/-- GELU of a nonzero x: x Φ(x), Φ the distribution function of the standard normal (assumption log 11). -/
def geluMag (d : Dy) : Mag :=
  let x := (fixOf d).natAbs
  if d.m < 0 then
    if 4 ≤ d.lg then (true, 1, -400, false) else (true, x * (fixOne / 2 - normalArea x) / fixOne, -(fixBits : Int), false)
  else if 4 ≤ d.lg then justBelow false d.m.natAbs d.e
  else (false, x * (fixOne / 2 + normalArea x) / fixOne, -(fixBits : Int), false)

/-- A transcendental function: 17 EXP2, 18 LOG2, 19 EXP, 20 TANH, 21 SIGMOID, 22 GELU (R173), within 2 ulp for EXP2 and LOG2 and within 4
ulp for the others (R100). The manual states no value at an infinity: it is `Config.transcendental` (assumption log 11). -/
def f32Trans (op : Nat) (a : W32) : W32 × Nat :=
  let x := f32v a
  if x = .nan then (f32NaN, 0)
  else if op = 18 ∧ x.isZero then (f32Inf true, flagOverflow)
  else if op = 18 ∧ x.sign then (f32NaN, flagInvalid)
  else if !x.isFin then (f32Canon (Config.transcendental op a), 0)
  else if (op = 20 ∨ op = 22) ∧ x.isZero then (a, 0)
  else
    let k := if op = 17 ∨ op = 18 then 2 else 4
    let m := match op with
      | 17 => exp2Mag x.dy
      | 18 => log2Mag x.dy
      | 19 => expMag x.dy
      | 20 => tanhMag x.dy
      | 21 => sigmoidMag x.dy
      | _ => geluMag x.dy
    if m.2.1 = 0 ∧ m.2.2.2 then (0, 0) else withinUlp k op a 0 m.1 m.2.1 m.2.2.1 m.2.2.2

/-! ### Conversions (R143 to R148) -/

/-- The two's-complement value of an integer format's code. -/
def intDecode (w v : Nat) : Int := signed w v

/-- FP32 into an integer format of `w` bits (R144, R146, R147). -/
def toInt (w : Nat) (x : FV) (mode r : Nat) : Nat × Nat :=
  match x with
  | .nan => (0, flagInvalid)
  | .inf neg => (if neg then 2 ^ (w - 1) else 2 ^ (w - 1) - 1, flagInvalid)
  | .fin neg m e =>
    if m = 0 then (0, 0)
    else
      let (k, ex) := roundAt ⟨m, e⟩ 0 mode r
      let lim := if neg then 2 ^ (w - 1) else 2 ^ (w - 1) - 1
      if lim < k then (if neg then 2 ^ (w - 1) else lim, flagOverflow ||| flagInexact)
      else (if neg then (2 ^ w - k) % 2 ^ w else k, if ex then 0 else flagInexact)

/-- FP32 into E8M0 (R148). -/
def toE8m0 (x : FV) : Nat × Nat :=
  match x with
  | .nan => (0xFF, 0)
  | .inf _ => (0xFF, flagInvalid)
  | .fin _ m e =>
    if m = 0 then (0, flagUnderflow)
    else
      let g := (Dy.mk m e).lg
      let pow2 := m == 2 ^ Nat.log2 m
      if g < -127 then (0, flagUnderflow ||| flagInexact)
      else if 128 ≤ g then (254, flagOverflow ||| (if pow2 then 0 else flagInexact))
      else ((g + 127).toNat, if pow2 then 0 else flagInexact)

/-- A value into a format (R143 to R148): the code and the flags. -/
def convertValue (fmt : Nat) (x : FV) (mode r : Nat) (sat : Bool) : Nat × Nat :=
  if fmt = 8 then toInt 8 x mode r
  else if fmt = 9 then toInt 4 x mode r
  else if fmt = 10 then toE8m0 x
  else
    let f := fmtOf fmt
    match x with
    | .nan => (f.nan, if f.top = 2 then flagInvalid else 0)
    | .inf neg =>
      if f.top = 2 then (f.signed neg f.maxCode, flagInvalid)
      else if f.top = 1 then (if sat then f.signed neg f.maxCode else f.nan, flagInvalid)
      else (f.signed neg (f.maxCode + 1), 0)
    | .fin neg m _ => if m = 0 then (f.signed neg 0, 0) else roundInto f x.dy mode r sat

/-- FP32 into a format: the code and the flags. -/
def convertTo (fmt : Nat) (w : W32) (mode r : Nat) (sat : Bool) : Nat × Nat := convertValue fmt (f32v w) mode r sat

/-- A code of a format into FP32, which holds every value of every format (R144); E8M0 0xFF and NaN give the canonical NaN. -/
def convertFrom (fmt : Nat) (v : Nat) : W32 :=
  if fmt = 8 then (f32Round ⟨intDecode 8 v, 0⟩ false).1
  else if fmt = 9 then (f32Round ⟨intDecode 4 v, 0⟩ false).1
  else if fmt = 10 then (if v = 255 then f32NaN else (f32Round ⟨1, (v : Int) - 127⟩ false).1)
  else match (fmtOf fmt).decode v with
    | .nan => f32NaN
    | .inf neg => f32Inf neg
    | .fin neg m e => (f32Round ⟨if neg then -(m : Int) else m, e⟩ neg).1

/-- Element `i` of a packed byte string of a format (R141). -/
def element (fmt : Nat) (bs : List Byte) (i : Nat) : Nat :=
  match fmtBits fmt with
  | 32 => field bs (4 * i) 4
  | 16 => field bs (2 * i) 2
  | 6 => bits (field bs (3 * (i / 4)) 3) (6 * (i % 4) + 5) (6 * (i % 4))
  | 4 => if i % 2 = 0 then field bs (i / 2) 1 % 16 else field bs (i / 2) 1 / 16
  | _ => field bs i 1

/-- A list of codes packed by a format (R141): as one little-endian number of `bits` each. -/
def pack (w : Nat) : List Nat → Nat
  | [] => 0
  | v :: vs => v % 2 ^ w + 2 ^ w * pack w vs

/-! ### The lane random generators (R102) -/

/-- mix64 of R102. -/
def mix64 (z : W64) : W64 :=
  let z := (z ^^^ (z >>> 30)) * 0xBF58476D1CE4E5B9
  let z := (z ^^^ (z >>> 27)) * 0x94D049BB133111EB
  z ^^^ (z >>> 31)

/-- keyed32 of R102. -/
def keyed32 (k0 k1 step index : W64) : W32 :=
  let z := mix64 (k0 ^^^ step)
  let z := mix64 (z ^^^ index ^^^ k1)
  let z := mix64 (z + 0x9E3779B97F4A7C15)
  (z >>> 32).setWidth 32

/-- seed_lane of R102. -/
def seedLane (seed : W64) (core lane : Nat) : W64 :=
  let s := mix64 (seed ^^^ (BitVec.ofNat 64 core <<< 4) ^^^ BitVec.ofNat 64 lane)
  if s = 0 then 0x9E3779B97F4A7C15 else s

/-- advance_lane of R102. -/
def advanceLane (s : W64) : W64 :=
  let s := s ^^^ (s <<< 13)
  let s := s ^^^ (s >>> 7)
  s ^^^ (s <<< 17)

/-- A lane advanced by a number of cycles. -/
def advanceLaneBy (s : W64) : Nat → W64
  | 0 => s
  | n + 1 => advanceLaneBy (advanceLane s) n

/-- free32 of R102. -/
def free32 (s : W64) : W32 := ((s * 0x2545F4914F6CDD1D) >>> 32).setWidth 32

/-- A sample as FP32 in [0, 1): (r >> 8) × 2^−24 (R186). -/
def unitF32 (r : W32) : W32 := (f32Round ⟨(r.toNat / 256 : Nat), -24⟩ false).1

end Sys2Proof.Machine
end

