-- ==== Sys2Proof/Machine/ObjKeys.lean ====
section
/-! DEFINITION. The keys of the object dictionary (R429): index * 256 + subindex, one name for each row of the chapters' object
tables; `n` counts from the first index of a range, `i` from the first subindex. -/

namespace Sys2Proof.Machine

abbrev Key.vendor : Nat := 0x100000
abbrev Key.part : Nat := 0x100001
abbrev Key.orderingCode : Nat := 0x100002
abbrev Key.serial : Nat := 0x100003
abbrev Key.siliconStep : Nat := 0x100004
abbrev Key.features : Nat := 0x101001
abbrev Key.stacksPresent : Nat := 0x101002
abbrev Key.updateUnitsPresent : Nat := 0x101003
abbrev Key.streamEnginesPresent : Nat := 0x101004
abbrev Key.aelifPortsPresent : Nat := 0x101005
abbrev Key.ethernetPortsPresent : Nat := 0x101006
abbrev Key.parealoUdpPort : Nat := 0x110000
abbrev Key.sessionsOpen : Nat := 0x110001
abbrev Key.sessionIdleMs : Nat := 0x110002
abbrev Key.framesExecuted : Nat := 0x110003
abbrev Key.framesRejectedMac : Nat := 0x110004
abbrev Key.framesRejectedSession : Nat := 0x110005
abbrev Key.framesRejectedOther : Nat := 0x110006
abbrev Key.framesResent : Nat := 0x110007
abbrev Key.doorbellsIgnored : Nat := 0x110008
abbrev Key.parealoFlags : Nat := 0x110100
abbrev Key.sessionTable : Nat := 0x110200
abbrev Key.mgmtAddressA : Nat := 0x111000
abbrev Key.mgmtAddressB : Nat := 0x111001
abbrev Key.txnOpen : Nat := 0x112000
abbrev Key.txnTimeoutBeats : Nat := 0x112001
abbrev Key.txnCommitted : Nat := 0x112002
abbrev Key.txnFailed : Nat := 0x112003
abbrev Key.txnRolledBack : Nat := 0x112004
abbrev Key.txnOutcomes : Nat := 0x112100
abbrev Key.resultSlots : Nat := 0x114000
abbrev Key.resultRelease : Nat := 0x114001
abbrev Key.jobState (n : Nat) : Nat := 0x120000 + n * 256
abbrev Key.jobCommand (n : Nat) : Nat := 0x120001 + n * 256
abbrev Key.jobParameters (n : Nat) : Nat := 0x120002 + n * 256
abbrev Key.jobResult (n : Nat) : Nat := 0x120003 + n * 256
abbrev Key.jobProgressDone (n : Nat) : Nat := 0x120004 + n * 256
abbrev Key.jobProgressTotal (n : Nat) : Nat := 0x120005 + n * 256
abbrev Key.jobDetail (n : Nat) : Nat := 0x120006 + n * 256
abbrev Key.jobStartBeat (n : Nat) : Nat := 0x120007 + n * 256
abbrev Key.jobEndBeat (n : Nat) : Nat := 0x120008 + n * 256
abbrev Key.inputVoltageMv : Nat := 0x200000
abbrev Key.inputCurrentMa : Nat := 0x200001
abbrev Key.inputPowerW : Nat := 0x200002
abbrev Key.computeCurrentA : Nat := 0x200003
abbrev Key.vcoreMv : Nat := 0x200100
abbrev Key.vcoreAppliedMv : Nat := 0x200101
abbrev Key.powerLimitW : Nat := 0x200102
abbrev Key.powerFlags : Nat := 0x200200
abbrev Key.crackMv : Nat := 0x200300
abbrev Key.crackMs : Nat := 0x200301
abbrev Key.crackAction : Nat := 0x200302
abbrev Key.crackCaptureField : Nat := 0x200303
abbrev Key.crackCaptureSensor : Nat := 0x200304
abbrev Key.crackCaptureBeat : Nat := 0x200305
abbrev Key.crackCaptureEmpty : Nat := 0x200306
abbrev Key.wakeDeferLimitMs : Nat := 0x200400
abbrev Key.regState (n : Nat) : Nat := 0x201000 + n * 256
abbrev Key.regPhasesOk (n : Nat) : Nat := 0x201001 + n * 256
abbrev Key.regFieldCurrentA (n : Nat) : Nat := 0x201002 + n * 256
abbrev Key.regCurrentRatingA (n : Nat) : Nat := 0x201003 + n * 256
abbrev Key.throttleC : Nat := 0x210000
abbrev Key.parkC : Nat := 0x210001
abbrev Key.unparkC : Nat := 0x210002
abbrev Key.shutC : Nat := 0x210003
abbrev Key.tripC : Nat := 0x210004
abbrev Key.thermalFlags : Nat := 0x210100
abbrev Key.coolantInlet : Nat := 0x210200
abbrev Key.coolantOutlet : Nat := 0x210201
abbrev Key.hottestField : Nat := 0x210202
abbrev Key.hottestTemp : Nat := 0x210203
abbrev Key.thmThermalReadings (n : Nat) : Nat := 0x211000 + n * 256
abbrev Key.thmFieldTemp (n : Nat) : Nat := 0x211001 + n * 256
abbrev Key.thmThermalFailed (n : Nat) : Nat := 0x211002 + n * 256
abbrev Key.drpDroopReadings (n : Nat) : Nat := 0x221000 + n * 256
abbrev Key.drpDroopMinMv (n : Nat) : Nat := 0x221001 + n * 256
abbrev Key.drpDroopMedianMv (n : Nat) : Nat := 0x221002 + n * 256
abbrev Key.drpSensorMask (n : Nat) : Nat := 0x221003 + n * 256
abbrev Key.refSource : Nat := 0x300000
abbrev Key.refPriority : Nat := 0x300001
abbrev Key.refState : Nat := 0x300002
abbrev Key.clockWestMhz : Nat := 0x300100
abbrev Key.clockEastMhz : Nat := 0x300101
abbrev Key.clockWestApplied : Nat := 0x300102
abbrev Key.clockEastApplied : Nat := 0x300103
abbrev Key.pllSscDepth (n : Nat) : Nat := 0x301000 + n * 256
abbrev Key.pllSscRateKhz (n : Nat) : Nat := 0x301001 + n * 256
abbrev Key.pllSscOffered (n : Nat) : Nat := 0x301002 + n * 256
abbrev Key.clkoutSource (n : Nat) : Nat := 0x302000 + n * 256
abbrev Key.clkoutDivisor (n : Nat) : Nat := 0x302001 + n * 256
abbrev Key.clkoutEnable (n : Nat) : Nat := 0x302002 + n * 256
abbrev Key.clockEnableSe : Nat := 0x303000
abbrev Key.clockEnableUu : Nat := 0x303001
abbrev Key.clockEnableGates : Nat := 0x303002
abbrev Key.clockEnableEp : Nat := 0x303003
abbrev Key.clockEnableMc : Nat := 0x303004
abbrev Key.clockFlags : Nat := 0x304000
abbrev Key.beatNumber : Nat := 0x310000
abbrev Key.beatPeriodUs : Nat := 0x310001
abbrev Key.beatEpochNs : Nat := 0x310002
abbrev Key.beatSource : Nat := 0x310003
abbrev Key.beatOffsetNs : Nat := 0x310004
abbrev Key.beatFlags : Nat := 0x310100
abbrev Key.beatsOverrun : Nat := 0x310200
abbrev Key.lastOverrunBeat : Nat := 0x310201
abbrev Key.overrunsByCause (i : Nat) : Nat := 0x310202 + i
abbrev Key.stretchRunBeats : Nat := 0x310300
abbrev Key.stretchMaxPer1000 : Nat := 0x310301
abbrev Key.stretchRuns : Nat := 0x310302
abbrev Key.beatsSkipped : Nat := 0x310303
abbrev Key.heartbeat : Nat := 0x311000
abbrev Key.hostLeaseBeats : Nat := 0x311100
abbrev Key.hostLease : Nat := 0x311101
abbrev Key.waypointSchedule : Nat := 0x312000
abbrev Key.milestoneOffset : Nat := 0x312001
abbrev Key.waypointsLate : Nat := 0x312002
abbrev Key.reportsUnmatched : Nat := 0x312003
abbrev Key.ptpDomain : Nat := 0x312100
abbrev Key.ptpOffsetNs : Nat := 0x312101
abbrev Key.ptpState : Nat := 0x312102
abbrev Key.portState (n : Nat) : Nat := 0x400000 + n * 256
abbrev Key.portFlags (n : Nat) : Nat := 0x400001 + n * 256
abbrev Key.portPeerSignpost (n : Nat) : Nat := 0x400007 + n * 256
abbrev Key.portVersion (n : Nat) : Nat := 0x400008 + n * 256
abbrev Key.portUnplannedCause (n : Nat) : Nat := 0x400009 + n * 256
abbrev Key.portRolePort (n : Nat) : Nat := 0x40000A + n * 256
abbrev Key.portFecCorrected (n : Nat) : Nat := 0x40000B + n * 256
abbrev Key.portFecUncorrectable (n : Nat) : Nat := 0x40000C + n * 256
abbrev Key.portFramesReplayed (n : Nat) : Nat := 0x40000D + n * 256
abbrev Key.portPayloadTx (n : Nat) : Nat := 0x40000E + n * 256
abbrev Key.portPayloadRx (n : Nat) : Nat := 0x40000F + n * 256
abbrev Key.portEnable (n : Nat) : Nat := 0x400010 + n * 256
abbrev Key.portLinkDelayPs (n : Nat) : Nat := 0x400011 + n * 256
abbrev Key.linkPlan : Nat := 0x408000
abbrev Key.planHash : Nat := 0x408001
abbrev Key.planSerial : Nat := 0x408002
abbrev Key.discoveryState : Nat := 0x408100
abbrev Key.portsDiffering : Nat := 0x408101
abbrev Key.neighboursPresent : Nat := 0x408102
abbrev Key.podPosition : Nat := 0x408200
abbrev Key.signpostIntervalMs : Nat := 0x408300
abbrev Key.minPorts : Nat := 0x408301
abbrev Key.retrainLimit : Nat := 0x408302
abbrev Key.versionMin : Nat := 0x408400
abbrev Key.versionMax : Nat := 0x408401
abbrev Key.discoveryFlags : Nat := 0x408500
abbrev Key.tickPort : Nat := 0x408600
abbrev Key.tickHops : Nat := 0x408601
abbrev Key.landingTable : Nat := 0x408800
abbrev Key.departureTable : Nat := 0x408900
abbrev Key.reshapeState : Nat := 0x40C000
abbrev Key.bridgedDirections : Nat := 0x40C001
abbrev Key.substituteTable : Nat := 0x40C002
abbrev Key.framesDroppedAbsent : Nat := 0x40C003
abbrev Key.ethFlags : Nat := 0x440000
abbrev Key.udpPort : Nat := 0x440200
abbrev Key.dscp : Nat := 0x440201
abbrev Key.retxTimeoutUs : Nat := 0x440202
abbrev Key.windowMessages : Nat := 0x440203
abbrev Key.enginePrefix : Nat := 0x440204
abbrev Key.ackDelayUs : Nat := 0x440205
abbrev Key.segmentsSent : Nat := 0x440300
abbrev Key.segmentsRetransmitted : Nat := 0x440301
abbrev Key.segmentsDuplicate : Nat := 0x440302
abbrev Key.segmentsDiscarded : Nat := 0x440303
abbrev Key.epoch : Nat := 0x440400
abbrev Key.epState (n : Nat) : Nat := 0x441000 + n * 256
abbrev Key.epGateway (n : Nat) : Nat := 0x441001 + n * 256
abbrev Key.epMacAddress (n : Nat) : Nat := 0x441002 + n * 256
abbrev Key.epTxBytes (n : Nat) : Nat := 0x441003 + n * 256
abbrev Key.epRxBytes (n : Nat) : Nat := 0x441004 + n * 256
abbrev Key.epFecCorrected (n : Nat) : Nat := 0x441005 + n * 256
abbrev Key.epFecUncorrectable (n : Nat) : Nat := 0x441006 + n * 256
abbrev Key.epEnable (n : Nat) : Nat := 0x441007 + n * 256
abbrev Key.linkStatus : Nat := 0x480000
abbrev Key.pcieFlags : Nat := 0x480001
abbrev Key.ringWritesIgnored : Nat := 0x480005
abbrev Key.maxOutstanding : Nat := 0x480100
abbrev Key.ticketsAccepted : Nat := 0x480101
abbrev Key.ticketsRefused (i : Nat) : Nat := 0x480102 + i
abbrev Key.releasesIgnored : Nat := 0x480109
abbrev Key.slotsPending : Nat := 0x48010A
abbrev Key.slotsReady : Nat := 0x48010B
abbrev Key.stackFlags : Nat := 0x500000
abbrev Key.scrubHours : Nat := 0x500100
abbrev Key.retireThreshold : Nat := 0x500101
abbrev Key.testRowsRepaired : Nat := 0x500200
abbrev Key.testFramesRetired : Nat := 0x500201
abbrev Key.testBeat : Nat := 0x500202
abbrev Key.msStackState (n : Nat) : Nat := 0x501000 + n * 256
abbrev Key.msCorrected (n : Nat) : Nat := 0x501001 + n * 256
abbrev Key.msUncorrected (n : Nat) : Nat := 0x501002 + n * 256
abbrev Key.msFramesRetired (n : Nat) : Nat := 0x501003 + n * 256
abbrev Key.scrubInterval : Nat := 0x510000
abbrev Key.sramCorrectedTotal : Nat := 0x510001
abbrev Key.sramUncorrectedTotal : Nat := 0x510002
abbrev Key.laybyBytes : Nat := 0x520000
abbrev Key.laybyUsed : Nat := 0x520001
abbrev Key.laybyHighWater : Nat := 0x520002
abbrev Key.laybyStackBytes : Nat := 0x520003
abbrev Key.regionTable : Nat := 0x530000
abbrev Key.storeBytes : Nat := 0x530001
abbrev Key.gridMode : Nat := 0x600000
abbrev Key.logicalColumns : Nat := 0x600001
abbrev Key.logicalCores : Nat := 0x600002
abbrev Key.excludedFieldColumn : Nat := 0x600003
abbrev Key.sparesFree : Nat := 0x600004
abbrev Key.detoursActive : Nat := 0x600005
abbrev Key.detoursRuntime : Nat := 0x600006
abbrev Key.defectMap : Nat := 0x600100
abbrev Key.defectMapGeneration : Nat := 0x600101
abbrev Key.unpoweredFields : Nat := 0x600200
abbrev Key.gridFlags : Nat := 0x600700
abbrev Key.detourAppliedCount : Nat := 0x600701
abbrev Key.spareExhaustedCount : Nat := 0x600702
abbrev Key.fieldLostCount : Nat := 0x600703
abbrev Key.mapCopyBadCount : Nat := 0x600704
abbrev Key.markCoreDefective : Nat := 0x600800
abbrev Key.releaseFieldLoss : Nat := 0x600801
abbrev Key.excludeField : Nat := 0x600802
abbrev Key.fldFieldState (n : Nat) : Nat := 0x601000 + n * 256
abbrev Key.fldDetourMask (n : Nat) : Nat := 0x601001 + n * 256
abbrev Key.fldRowEntry (n i : Nat) : Nat := 0x601002 + n * 256 + i
abbrev Key.meshFlags : Nat := 0x607000
abbrev Key.linkCorrectedCount : Nat := 0x607001
abbrev Key.linkPoisonedCount : Nat := 0x607002
abbrev Key.headerLostCount : Nat := 0x607003
abbrev Key.headerLostCapture : Nat := 0x607100
abbrev Key.headerLostRouter : Nat := 0x607101
abbrev Key.captureEmpty : Nat := 0x607102
abbrev Key.fabricClockWest : Nat := 0x607200
abbrev Key.fabricClockEast : Nat := 0x607201
abbrev Key.darkBands : Nat := 0x607300
abbrev Key.seamWaitCycles : Nat := 0x607400
abbrev Key.poisonedFlits : Nat := 0x607500
abbrev Key.fieldsParked : Nat := 0x610000
abbrev Key.fieldsDark : Nat := 0x610001
abbrev Key.parkRequest : Nat := 0x610100
abbrev Key.wakeRequest : Nat := 0x610101
abbrev Key.pwrFieldPowerState (n : Nat) : Nat := 0x611000 + n * 256
abbrev Key.pwrParkCauses (n : Nat) : Nat := 0x611001 + n * 256
abbrev Key.pwrParkedBeats (n : Nat) : Nat := 0x611002 + n * 256
abbrev Key.pwrWakeDeferredUs (n : Nat) : Nat := 0x611003 + n * 256
abbrev Key.coreStatusTable : Nat := 0x620000
abbrev Key.snapshotBeat : Nat := 0x620001
abbrev Key.coresInState (i : Nat) : Nat := 0x620100 + i
abbrev Key.coreFlags : Nat := 0x620200
abbrev Key.sramCorrectedCount : Nat := 0x620201
abbrev Key.sramUncorrectedCount : Nat := 0x620202
abbrev Key.coreExceptionCount : Nat := 0x620203
abbrev Key.heartbeatMissedCount : Nat := 0x620204
abbrev Key.programFaultCount : Nat := 0x620205
abbrev Key.heartbeatTimeout : Nat := 0x620300
abbrev Key.waitbLate : Nat := 0x621000
abbrev Key.syncTimeoutBeats : Nat := 0x621100
abbrev Key.excCaptureCore : Nat := 0x621200
abbrev Key.excCaptureCause : Nat := 0x621201
abbrev Key.excCapturePc : Nat := 0x621202
abbrev Key.excCaptureChunkPc : Nat := 0x621203
abbrev Key.excCaptureBeat : Nat := 0x621204
abbrev Key.excCaptureEmpty : Nat := 0x621205
abbrev Key.excCount (i : Nat) : Nat := 0x621301 + i
abbrev Key.arrayNumFlags : Nat := 0x630000
abbrev Key.arrayOverflowCount : Nat := 0x630001
abbrev Key.arrayUnderflowCount : Nat := 0x630002
abbrev Key.arrayInexactCount : Nat := 0x630003
abbrev Key.arrayInvalidCount : Nat := 0x630004
abbrev Key.vectorNumFlags : Nat := 0x630100
abbrev Key.vectorFlagCount (i : Nat) : Nat := 0x630101 + i
abbrev Key.compactionNumFlags : Nat := 0x630200
abbrev Key.compactionFlagCount (i : Nat) : Nat := 0x630201 + i
abbrev Key.updateNumFlags : Nat := 0x630300
abbrev Key.updateFlagCount (i : Nat) : Nat := 0x630301 + i
abbrev Key.coresFlagged : Nat := 0x630400
abbrev Key.flagsBeat : Nat := 0x630401
abbrev Key.invalidCaptureUnit : Nat := 0x630500
abbrev Key.invalidCaptureWhere : Nat := 0x630501
abbrev Key.invalidCaptureBeat : Nat := 0x630502
abbrev Key.invalidCaptureEmpty : Nat := 0x630503
abbrev Key.uuNumFlags (n : Nat) : Nat := 0x631000 + n * 256
abbrev Key.sparsityFlags : Nat := 0x640000
abbrev Key.mmasChunks : Nat := 0x640100
abbrev Key.structSpillChunks : Nat := 0x640101
abbrev Key.structDropElements : Nat := 0x640102
abbrev Key.structIndexChunks : Nat := 0x640103
abbrev Key.indexRebuilds : Nat := 0x640104
abbrev Key.structIndexCore : Nat := 0x640200
abbrev Key.structIndexBeat : Nat := 0x640201
abbrev Key.structIndexEmpty : Nat := 0x640202
abbrev Key.layerPredictMode (n : Nat) : Nat := 0x641000 + n * 256
abbrev Key.layerActWidth (n : Nat) : Nat := 0x641001 + n * 256
abbrev Key.layerMapWaitUs (n : Nat) : Nat := 0x641002 + n * 256
abbrev Key.layerRowsTotal (n : Nat) : Nat := 0x641003 + n * 256
abbrev Key.layerRowsPredicted (n : Nat) : Nat := 0x641004 + n * 256
abbrev Key.layerRowsNonzero (n : Nat) : Nat := 0x641005 + n * 256
abbrev Key.layerRowsMissed (n : Nat) : Nat := 0x641006 + n * 256
abbrev Key.layerRowsWasted (n : Nat) : Nat := 0x641007 + n * 256
abbrev Key.layerCatchupStallNs (n : Nat) : Nat := 0x641008 + n * 256
abbrev Key.layerMapsLate (n : Nat) : Nat := 0x641009 + n * 256
abbrev Key.layerMapsDiscarded (n : Nat) : Nat := 0x64100A + n * 256
abbrev Key.arrayFlags : Nat := 0x650000
abbrev Key.checkMismatchCount : Nat := 0x650001
abbrev Key.checkFailedCount : Nat := 0x650002
abbrev Key.adderDisagreeCount : Nat := 0x650003
abbrev Key.accParityCount : Nat := 0x650004
abbrev Key.checkTolUlp : Nat := 0x650100
abbrev Key.chunksChecked : Nat := 0x650200
abbrev Key.mismatchesTotal : Nat := 0x650201
abbrev Key.retriesPassed : Nat := 0x650202
abbrev Key.comparesSkipped : Nat := 0x650203
abbrev Key.tilesPoisoned : Nat := 0x650204
abbrev Key.checkCaptureCore : Nat := 0x650300
abbrev Key.checkCapturePhys : Nat := 0x650301
abbrev Key.checkCaptureRows : Nat := 0x650302
abbrev Key.checkCaptureCols : Nat := 0x650303
abbrev Key.checkCaptureKind : Nat := 0x650304
abbrev Key.checkCaptureFormat : Nat := 0x650305
abbrev Key.checkCaptureBeat : Nat := 0x650306
abbrev Key.checkCaptureEmpty : Nat := 0x650307
abbrev Key.arrayBusyCycles : Nat := 0x650400
abbrev Key.arrayDenseOps : Nat := 0x650401
abbrev Key.streamFlags : Nat := 0x700000
abbrev Key.seState (n : Nat) : Nat := 0x701000 + n * 256
abbrev Key.seQueueStatus (n : Nat) : Nat := 0x701001 + n * 256
abbrev Key.seRunsIssued (n : Nat) : Nat := 0x701002 + n * 256
abbrev Key.seLateRuns (n : Nat) : Nat := 0x701003 + n * 256
abbrev Key.seArmsRefused (n : Nat) : Nat := 0x701004 + n * 256
abbrev Key.seInboundDiscarded (n : Nat) : Nat := 0x701005 + n * 256
abbrev Key.seOutstandingLimits (n : Nat) : Nat := 0x701006 + n * 256
abbrev Key.seArm (n : Nat) : Nat := 0x701007 + n * 256
abbrev Key.seCancel (n : Nat) : Nat := 0x701008 + n * 256
abbrev Key.seMapSourceTable (n : Nat) : Nat := 0x701009 + n * 256
abbrev Key.seFlitsPoisoned (n : Nat) : Nat := 0x70100A + n * 256
abbrev Key.shareStreams : Nat := 0x710000
abbrev Key.shareUpdate : Nat := 0x710001
abbrev Key.shareExchange : Nat := 0x710002
abbrev Key.cycleCapture : Nat := 0x710100
abbrev Key.cycleCaptureBeat : Nat := 0x710101
abbrev Key.cycleCaptureEmpty : Nat := 0x710102
abbrev Key.programTable : Nat := 0x800000
abbrev Key.programsLoaded : Nat := 0x800001
abbrev Key.updateFlags : Nat := 0x800100
abbrev Key.commitStep : Nat := 0x800200
abbrev Key.workItemsDone : Nat := 0x800201
abbrev Key.redoBlocks : Nat := 0x800202
abbrev Key.poisonedItems : Nat := 0x800203
abbrev Key.poisonCaptureGroup : Nat := 0x800300
abbrev Key.poisonCaptureBlock : Nat := 0x800301
abbrev Key.poisonCaptureEmpty : Nat := 0x800302
abbrev Key.uuState (n : Nat) : Nat := 0x801000 + n * 256
abbrev Key.uuItemsQueued (n : Nat) : Nat := 0x801001 + n * 256
abbrev Key.uuEngineBusyCycles (n : Nat) : Nat := 0x801002 + n * 256
abbrev Key.groupTable : Nat := 0x810000
abbrev Key.groupCount : Nat := 0x810001
abbrev Key.groupState : Nat := 0x810100
abbrev Key.ksetK (n i : Nat) : Nat := 0x814001 + n * 256 + i
abbrev Key.ksetKActive (n i : Nat) : Nat := 0x814011 + n * 256 + i
abbrev Key.compressionTable : Nat := 0x820000
abbrev Key.setCompression : Nat := 0x820100
abbrev Key.blocksCompressed : Nat := 0x820200
abbrev Key.nonfiniteBlocks : Nat := 0x820201
abbrev Key.residualsZeroed : Nat := 0x820202
abbrev Key.replicas : Nat := 0x830000
abbrev Key.rank : Nat := 0x830001
abbrev Key.peerTable : Nat := 0x830002
abbrev Key.exchangeFlags : Nat := 0x830100
abbrev Key.excludedPoisoned : Nat := 0x830200
abbrev Key.excludedMissing : Nat := 0x830201
abbrev Key.partialsDiscarded : Nat := 0x830202
abbrev Key.duplicatesDiscarded : Nat := 0x830203
abbrev Key.gateSpills : Nat := 0x830204
abbrev Key.messagesRejected : Nat := 0x830205
abbrev Key.settleWaitUs : Nat := 0x830300
abbrev Key.peerLateBeats : Nat := 0x830301
abbrev Key.peerLateRank : Nat := 0x830302
abbrev Key.excuse : Nat := 0x830400
abbrev Key.fingerprintTable : Nat := 0x840000
abbrev Key.replicaFlags : Nat := 0x840100
abbrev Key.autoRepair : Nat := 0x840200
abbrev Key.override : Nat := 0x840300
abbrev Key.divergedCaptureGroup : Nat := 0x840400
abbrev Key.divergedCaptureStep : Nat := 0x840401
abbrev Key.divergedCaptureEmpty : Nat := 0x840402
abbrev Key.groupsHeld : Nat := 0x840500
abbrev Key.evalWindowBeats : Nat := 0x850000
abbrev Key.evalTicketsMax : Nat := 0x850001
abbrev Key.evalPeriodSteps : Nat := 0x850002
abbrev Key.windowsRun : Nat := 0x850003
abbrev Key.evalTicketsDone : Nat := 0x850004
abbrev Key.evalExtendedBeats : Nat := 0x850005
abbrev Key.evalDeferred : Nat := 0x850006
abbrev Key.keyLo (n : Nat) : Nat := 0x860001 + n * 256
abbrev Key.keyHi (n : Nat) : Nat := 0x860002 + n * 256
abbrev Key.keyActiveLo (n : Nat) : Nat := 0x860003 + n * 256
abbrev Key.keyActiveHi (n : Nat) : Nat := 0x860004 + n * 256
abbrev Key.freeSeed : Nat := 0x861000
abbrev Key.eventLog : Nat := 0x900000
abbrev Key.eventSeq : Nat := 0x900001
abbrev Key.eventsBySeverity : Nat := 0x900002
abbrev Key.journalRecordSeq : Nat := 0x910000
abbrev Key.journalLiveBytes : Nat := 0x910001
abbrev Key.journalBytesWritten : Nat := 0x910002
abbrev Key.logbookCorrected : Nat := 0x910003
abbrev Key.recoveryFlags : Nat := 0x920000
abbrev Key.ticketsReported : Nat := 0x920100
abbrev Key.ticketsAdoptCompleted : Nat := 0x920101
abbrev Key.activeCore : Nat := 0x920102
abbrev Key.lastRecoveryMs : Nat := 0x920103
abbrev Key.replayStep : Nat := 0x921000
abbrev Key.pullRateGbps : Nat := 0x922000
abbrev Key.peerSubstitute : Nat := 0x922100
abbrev Key.startMode : Nat := 0x928000
abbrev Key.bringupPhase : Nat := 0x928001
abbrev Key.lastStartKind : Nat := 0x928002
abbrev Key.runBlockers : Nat := 0x928003
abbrev Key.phaseTimesMs : Nat := 0x928004
abbrev Key.bringupCount : Nat := 0x928005
abbrev Key.microcodeResends : Nat := 0x928006
abbrev Key.placementLost : Nat := 0x928007
abbrev Key.resetRequest : Nat := 0x928100
abbrev Key.fuseState : Nat := 0xA00000
abbrev Key.rollbackCount : Nat := 0xA00001
abbrev Key.rootHashes : Nat := 0xA00002
abbrev Key.rollbackAdvance : Nat := 0xA00100
abbrev Key.lockState : Nat := 0xA00200
abbrev Key.devicePublicKey : Nat := 0xA01000
abbrev Key.deviceCert : Nat := 0xA01001
abbrev Key.identityState : Nat := 0xA01002
abbrev Key.signaturesUsed : Nat := 0xA01003
abbrev Key.fwStageRequest : Nat := 0xA02000
abbrev Key.fwStageState : Nat := 0xA02001
abbrev Key.fwStageResult : Nat := 0xA02002
abbrev Key.fwRunningVersion (n : Nat) : Nat := 0xA02100 + n * 256
abbrev Key.fwSecurityVersion (n : Nat) : Nat := 0xA02101 + n * 256
abbrev Key.fwBank (n : Nat) : Nat := 0xA02102 + n * 256
abbrev Key.fwMeasurement (n : Nat) : Nat := 0xA02103 + n * 256
abbrev Key.fwNextBank (n : Nat) : Nat := 0xA02104 + n * 256
abbrev Key.quoteNonce : Nat := 0xA03000
abbrev Key.quote : Nat := 0xA03001
abbrev Key.quoteSeq : Nat := 0xA03002
abbrev Key.quoteMinIntervalMs : Nat := 0xA03003
abbrev Key.roleSecret (i : Nat) : Nat := 0xA04000 + i
abbrev Key.debugToken : Nat := 0xA05000
abbrev Key.debugNonce : Nat := 0xA05001
abbrev Key.securityFlags : Nat := 0xA06000
abbrev Key.cvuFlags : Nat := 0xA10000
abbrev Key.cvuFailedMc : Nat := 0xA10100
abbrev Key.cvuFailedSe : Nat := 0xA10101
abbrev Key.cvuFailedUu : Nat := 0xA10102
abbrev Key.orderErrors : Nat := 0xA10200
abbrev Key.stage : Nat := 0xB00000
abbrev Key.stages : Nat := 0xB00001
abbrev Key.depth : Nat := 0xB00002
abbrev Key.depthMax : Nat := 0xB00003
abbrev Key.contextIndex : Nat := 0xB00004
abbrev Key.contextSize : Nat := 0xB00005
abbrev Key.prevStage : Nat := 0xB00006
abbrev Key.nextStage : Nat := 0xB00007
abbrev Key.podSpare : Nat := 0xB00008
abbrev Key.placementHash : Nat := 0xB00009
abbrev Key.microbatchesPerStep : Nat := 0xB0000A
abbrev Key.seqOrigin : Nat := 0xB0000B
abbrev Key.stepOrigin : Nat := 0xB0000C
abbrev Key.engineAddress : Nat := 0xB00100
abbrev Key.actSramBytes : Nat := 0xB01000
abbrev Key.actSramHighWater : Nat := 0xB01001
abbrev Key.actLaybyBytes : Nat := 0xB01002
abbrev Key.actLaybyHighWater : Nat := 0xB01003
abbrev Key.microbatchesHeld : Nat := 0xB01004
abbrev Key.microbatchesHeldHighWater : Nat := 0xB01005
abbrev Key.actSramAllowance : Nat := 0xB01006
abbrev Key.mappingFlags : Nat := 0xB01100
abbrev Key.reshardPlan : Nat := 0xB02000
abbrev Key.reshardPhase : Nat := 0xB02100
abbrev Key.switch : Nat := 0xB02101
abbrev Key.resume : Nat := 0xB02102
abbrev Key.drainStep : Nat := 0xB02103
abbrev Key.blocksExpected : Nat := 0xB02104
abbrev Key.blocksReceived : Nat := 0xB02105
abbrev Key.blocksSent : Nat := 0xB02106

end Sys2Proof.Machine
end

