-- ==== Sys2Proof/Machine/ObjTable.lean ====
section
/-! DEFINITION. The object dictionary (R429 to R431): a row for each row of the chapters' object tables, with the roles that may write
it, its range, and the defaults that are not zero. -/

namespace Sys2Proof.Machine

/-- The values a write may carry (R9, R557 check 10). The last five are those of one object each: MARK_CORE_DEFECTIVE (R48), SET_COMPRESSION
(R266, R287), ENGINE_ADDRESS (R378), SENSOR_MASK (R454) and REF_PRIORITY (R408). -/
inductive Rng where
  | any
  | range (lo hi : Nat)
  | rangeOr (lo hi other : Nat)
  | steps (lo hi step : Nat)
  | oneOf (vs : List Nat)
  | mask (bits : Nat)
  | len (lo hi : Nat)
  | bytesEach (n lo hi : Nat)
  | core
  | compression
  | address
  | sensors
  | references
  deriving DecidableEq, Repr

/-- What a write does: stores the value, clears flags (R434), empties the captures of its index (R158), or resets a high-water mark
(R379). -/
inductive ObjKind where
  | plain
  | w1c (mask : Nat)
  | emptier
  | hiWater
  deriving DecidableEq, Repr

/-- A row: index and subindex ranges, type code (R430), access code (R431), the roles that may write it (bit r for role code r), the
range, and the kind of write. -/
structure ObjRow where
  idxLo : Nat
  idxHi : Nat
  subLo : Nat
  subHi : Nat
  typ : Nat
  acc : Nat
  writers : Nat
  rng : Rng
  kind : ObjKind
  deriving DecidableEq, Repr

/-- Rows 1 on. -/
def objRows0 : List ObjRow :=
  [⟨0x1000, 0x1000, 0, 0, 11, 0, 0, .any, .plain⟩,
   ⟨0x1000, 0x1000, 1, 1, 11, 0, 0, .any, .plain⟩,
   ⟨0x1000, 0x1000, 2, 2, 11, 0, 0, .any, .plain⟩,
   ⟨0x1000, 0x1000, 3, 3, 11, 0, 0, .any, .plain⟩,
   ⟨0x1000, 0x1000, 4, 4, 2, 0, 0, .any, .plain⟩,
   ⟨0x1010, 0x1010, 1, 1, 4, 0, 0, .any, .plain⟩,
   ⟨0x1010, 0x1010, 2, 2, 3, 0, 0, .any, .plain⟩,
   ⟨0x1010, 0x1010, 3, 3, 3, 0, 0, .any, .plain⟩,
   ⟨0x1010, 0x1010, 4, 4, 4, 0, 0, .any, .plain⟩,
   ⟨0x1010, 0x1010, 5, 5, 5, 0, 0, .any, .plain⟩,
   ⟨0x1010, 0x1010, 6, 6, 2, 0, 0, .any, .plain⟩,
   ⟨0x1100, 0x1100, 0, 0, 3, 4, 4, .range 1024 65535, .plain⟩,
   ⟨0x1100, 0x1100, 1, 1, 2, 1, 0, .any, .plain⟩,
   ⟨0x1100, 0x1100, 2, 2, 4, 4, 4, .range 100 600000, .plain⟩,
   ⟨0x1100, 0x1100, 3, 3, 5, 1, 0, .any, .plain⟩,
   ⟨0x1100, 0x1100, 4, 4, 5, 1, 0, .any, .plain⟩,
   ⟨0x1100, 0x1100, 5, 5, 5, 1, 0, .any, .plain⟩,
   ⟨0x1100, 0x1100, 6, 6, 5, 1, 0, .any, .plain⟩,
   ⟨0x1100, 0x1100, 7, 7, 5, 1, 0, .any, .plain⟩,
   ⟨0x1100, 0x1100, 8, 8, 4, 1, 0, .any, .plain⟩,
   ⟨0x1101, 0x1101, 0, 0, 4, 2, 6, .mask 0xF, .w1c 0xF⟩,
   ⟨0x1101, 0x1101, 1, 4, 3, 1, 0, .any, .plain⟩,
   ⟨0x1102, 0x1102, 0, 0, 12, 1, 0, .any, .plain⟩,
   ⟨0x1110, 0x1110, 0, 0, 12, 4, 4, .len 16 16, .plain⟩,
   ⟨0x1110, 0x1110, 1, 1, 12, 4, 4, .len 16 16, .plain⟩,
   ⟨0x1120, 0x1120, 0, 0, 2, 1, 0, .any, .plain⟩,
   ⟨0x1120, 0x1120, 1, 1, 3, 4, 4, .range 1 65535, .plain⟩,
   ⟨0x1120, 0x1120, 2, 2, 5, 1, 0, .any, .plain⟩,
   ⟨0x1120, 0x1120, 3, 3, 5, 1, 0, .any, .plain⟩,
   ⟨0x1120, 0x1120, 4, 4, 5, 1, 0, .any, .plain⟩,
   ⟨0x1121, 0x1121, 0, 0, 12, 1, 0, .any, .plain⟩,
   ⟨0x1140, 0x1140, 0, 0, 12, 1, 0, .any, .plain⟩,
   ⟨0x1140, 0x1140, 1, 1, 4, 3, 6, .mask 0xFFFF0FFF, .plain⟩,
   ⟨0x1200, 0x1204, 0, 0, 2, 1, 0, .any, .plain⟩,
   ⟨0x1200, 0x1204, 1, 1, 2, 4, 6, .range 0 4, .plain⟩,
   ⟨0x1200, 0x1204, 2, 2, 12, 4, 6, .any, .plain⟩,
   ⟨0x1200, 0x1204, 3, 3, 3, 1, 0, .any, .plain⟩,
   ⟨0x1200, 0x1204, 4, 4, 5, 1, 0, .any, .plain⟩,
   ⟨0x1200, 0x1204, 5, 5, 5, 1, 0, .any, .plain⟩,
   ⟨0x1200, 0x1204, 6, 6, 12, 1, 0, .any, .plain⟩]

/-- Rows 41 on. -/
def objRows1 : List ObjRow :=
  [⟨0x1200, 0x1204, 7, 7, 5, 1, 0, .any, .plain⟩,
   ⟨0x1200, 0x1204, 8, 8, 5, 1, 0, .any, .plain⟩,
   ⟨0x2000, 0x2000, 0, 0, 4, 1, 0, .any, .plain⟩,
   ⟨0x2000, 0x2000, 1, 1, 4, 1, 0, .any, .plain⟩,
   ⟨0x2000, 0x2000, 2, 2, 4, 1, 0, .any, .plain⟩,
   ⟨0x2000, 0x2000, 3, 3, 4, 1, 0, .any, .plain⟩,
   ⟨0x2001, 0x2001, 0, 0, 3, 4, 6, .steps 600 800 5, .plain⟩,
   ⟨0x2001, 0x2001, 1, 1, 3, 1, 0, .any, .plain⟩,
   ⟨0x2001, 0x2001, 2, 2, 4, 4, 6, .range 10000 24000, .plain⟩,
   ⟨0x2002, 0x2002, 0, 0, 4, 2, 6, .mask 0x7F, .w1c 0x7F⟩,
   ⟨0x2002, 0x2002, 1, 7, 3, 1, 0, .any, .plain⟩,
   ⟨0x2003, 0x2003, 0, 0, 2, 4, 6, .range 5 100, .plain⟩,
   ⟨0x2003, 0x2003, 1, 1, 3, 4, 6, .range 1 1000, .plain⟩,
   ⟨0x2003, 0x2003, 2, 2, 2, 4, 6, .range 0 1, .plain⟩,
   ⟨0x2003, 0x2003, 3, 3, 2, 1, 0, .any, .plain⟩,
   ⟨0x2003, 0x2003, 4, 4, 2, 1, 0, .any, .plain⟩,
   ⟨0x2003, 0x2003, 5, 5, 5, 1, 0, .any, .plain⟩,
   ⟨0x2003, 0x2003, 6, 6, 1, 2, 6, .range 0 1, .emptier⟩,
   ⟨0x2004, 0x2004, 0, 0, 3, 4, 6, .range 1 1000, .plain⟩,
   ⟨0x2010, 0x2069, 0, 0, 2, 1, 0, .any, .plain⟩,
   ⟨0x2010, 0x2069, 1, 1, 3, 1, 0, .any, .plain⟩,
   ⟨0x2010, 0x2069, 2, 2, 3, 1, 0, .any, .plain⟩,
   ⟨0x2010, 0x2069, 3, 3, 3, 1, 0, .any, .plain⟩,
   ⟨0x2100, 0x2100, 0, 0, 2, 4, 6, .range 70 89, .plain⟩,
   ⟨0x2100, 0x2100, 1, 1, 2, 4, 6, .range 75 90, .plain⟩,
   ⟨0x2100, 0x2100, 2, 2, 2, 4, 6, .range 60 88, .plain⟩,
   ⟨0x2100, 0x2100, 3, 3, 2, 0, 0, .any, .plain⟩,
   ⟨0x2100, 0x2100, 4, 4, 2, 0, 0, .any, .plain⟩,
   ⟨0x2101, 0x2101, 0, 0, 4, 2, 6, .mask 0x3F, .w1c 0x3F⟩,
   ⟨0x2101, 0x2101, 1, 6, 3, 1, 0, .any, .plain⟩,
   ⟨0x2102, 0x2102, 0, 0, 7, 1, 0, .any, .plain⟩,
   ⟨0x2102, 0x2102, 1, 1, 7, 1, 0, .any, .plain⟩,
   ⟨0x2102, 0x2102, 2, 2, 2, 1, 0, .any, .plain⟩,
   ⟨0x2102, 0x2102, 3, 3, 7, 1, 0, .any, .plain⟩,
   ⟨0x2110, 0x2169, 0, 0, 12, 1, 0, .any, .plain⟩,
   ⟨0x2110, 0x2169, 1, 1, 7, 1, 0, .any, .plain⟩,
   ⟨0x2110, 0x2169, 2, 2, 3, 1, 0, .any, .plain⟩,
   ⟨0x2210, 0x2269, 0, 0, 12, 1, 0, .any, .plain⟩,
   ⟨0x2210, 0x2269, 1, 1, 3, 1, 0, .any, .plain⟩,
   ⟨0x2210, 0x2269, 2, 2, 3, 1, 0, .any, .plain⟩]

/-- Rows 81 on. -/
def objRows2 : List ObjRow :=
  [⟨0x2210, 0x2269, 3, 3, 5, 4, 4, .sensors, .plain⟩,
   ⟨0x3000, 0x3000, 0, 0, 2, 1, 0, .any, .plain⟩,
   ⟨0x3000, 0x3000, 1, 1, 12, 4, 6, .references, .plain⟩,
   ⟨0x3000, 0x3000, 2, 2, 2, 1, 0, .any, .plain⟩,
   ⟨0x3001, 0x3001, 0, 0, 3, 4, 6, .steps 250 1600 10, .plain⟩,
   ⟨0x3001, 0x3001, 1, 1, 3, 4, 6, .steps 250 1600 10, .plain⟩,
   ⟨0x3001, 0x3001, 2, 2, 3, 1, 0, .any, .plain⟩,
   ⟨0x3001, 0x3001, 3, 3, 3, 1, 0, .any, .plain⟩,
   ⟨0x3010, 0x3017, 0, 0, 2, 4, 6, .range 0 10, .plain⟩,
   ⟨0x3010, 0x3017, 1, 1, 2, 4, 6, .range 30 63, .plain⟩,
   ⟨0x3010, 0x3017, 2, 2, 1, 0, 0, .any, .plain⟩,
   ⟨0x3020, 0x3021, 0, 0, 2, 4, 4, .range 0 7, .plain⟩,
   ⟨0x3020, 0x3021, 1, 1, 4, 4, 4, .range 1 65536, .plain⟩,
   ⟨0x3020, 0x3021, 2, 2, 1, 4, 4, .range 0 1, .plain⟩,
   ⟨0x3030, 0x3030, 0, 0, 4, 4, 6, .any, .plain⟩,
   ⟨0x3030, 0x3030, 1, 1, 3, 4, 6, .any, .plain⟩,
   ⟨0x3030, 0x3030, 2, 2, 4, 4, 6, .any, .plain⟩,
   ⟨0x3030, 0x3030, 3, 3, 2, 4, 6, .any, .plain⟩,
   ⟨0x3030, 0x3030, 4, 4, 3, 4, 6, .mask 0x3F, .plain⟩,
   ⟨0x3040, 0x3040, 0, 0, 4, 2, 6, .mask 0x7, .w1c 0x7⟩,
   ⟨0x3040, 0x3040, 1, 3, 3, 1, 0, .any, .plain⟩,
   ⟨0x3100, 0x3100, 0, 0, 5, 1, 0, .any, .plain⟩,
   ⟨0x3100, 0x3100, 1, 1, 4, 4, 6, .range 100 10000, .plain⟩,
   ⟨0x3100, 0x3100, 2, 2, 5, 4, 4, .any, .plain⟩,
   ⟨0x3100, 0x3100, 3, 3, 2, 1, 0, .any, .plain⟩,
   ⟨0x3100, 0x3100, 4, 4, 8, 1, 0, .any, .plain⟩,
   ⟨0x3101, 0x3101, 0, 0, 4, 2, 6, .mask 0x3F, .w1c 0x3F⟩,
   ⟨0x3101, 0x3101, 1, 6, 3, 1, 0, .any, .plain⟩,
   ⟨0x3102, 0x3102, 0, 0, 5, 1, 0, .any, .plain⟩,
   ⟨0x3102, 0x3102, 1, 1, 5, 1, 0, .any, .plain⟩,
   ⟨0x3102, 0x3102, 2, 5, 5, 1, 0, .any, .plain⟩,
   ⟨0x3103, 0x3103, 0, 0, 2, 4, 6, .oneOf [1, 2, 4, 8], .plain⟩,
   ⟨0x3103, 0x3103, 1, 1, 2, 4, 6, .range 0 32, .plain⟩,
   ⟨0x3103, 0x3103, 2, 2, 5, 1, 0, .any, .plain⟩,
   ⟨0x3103, 0x3103, 3, 3, 5, 1, 0, .any, .plain⟩,
   ⟨0x3110, 0x3110, 0, 0, 12, 1, 0, .any, .plain⟩,
   ⟨0x3111, 0x3111, 0, 0, 3, 4, 6, .any, .plain⟩,
   ⟨0x3111, 0x3111, 1, 1, 2, 3, 6, .any, .plain⟩,
   ⟨0x3120, 0x3120, 0, 0, 12, 1, 0, .any, .plain⟩,
   ⟨0x3120, 0x3120, 1, 1, 3, 1, 0, .any, .plain⟩]

/-- Rows 121 on. -/
def objRows3 : List ObjRow :=
  [⟨0x3120, 0x3120, 2, 2, 5, 1, 0, .any, .plain⟩,
   ⟨0x3120, 0x3120, 3, 3, 5, 1, 0, .any, .plain⟩,
   ⟨0x3121, 0x3121, 0, 0, 2, 4, 6, .any, .plain⟩,
   ⟨0x3121, 0x3121, 1, 1, 9, 1, 0, .any, .plain⟩,
   ⟨0x3121, 0x3121, 2, 2, 2, 1, 0, .any, .plain⟩,
   ⟨0x4000, 0x402F, 0, 0, 2, 1, 0, .any, .plain⟩,
   ⟨0x4000, 0x402F, 1, 1, 4, 2, 6, .mask 0x1F, .w1c 0x1F⟩,
   ⟨0x4000, 0x402F, 2, 6, 3, 1, 0, .any, .plain⟩,
   ⟨0x4000, 0x402F, 7, 7, 12, 1, 0, .any, .plain⟩,
   ⟨0x4000, 0x402F, 8, 8, 2, 1, 0, .any, .plain⟩,
   ⟨0x4000, 0x402F, 9, 9, 2, 1, 0, .any, .plain⟩,
   ⟨0x4000, 0x402F, 10, 10, 2, 1, 0, .any, .plain⟩,
   ⟨0x4000, 0x402F, 11, 11, 5, 1, 0, .any, .plain⟩,
   ⟨0x4000, 0x402F, 12, 12, 5, 1, 0, .any, .plain⟩,
   ⟨0x4000, 0x402F, 13, 13, 5, 1, 0, .any, .plain⟩,
   ⟨0x4000, 0x402F, 14, 14, 5, 1, 0, .any, .plain⟩,
   ⟨0x4000, 0x402F, 15, 15, 5, 1, 0, .any, .plain⟩,
   ⟨0x4000, 0x402F, 16, 16, 1, 4, 6, .range 0 1, .plain⟩,
   ⟨0x4000, 0x402F, 17, 17, 4, 1, 0, .any, .plain⟩,
   ⟨0x4080, 0x4080, 0, 0, 12, 4, 4, .len 64 4160, .plain⟩,
   ⟨0x4080, 0x4080, 1, 1, 12, 1, 0, .any, .plain⟩,
   ⟨0x4080, 0x4080, 2, 2, 4, 1, 0, .any, .plain⟩,
   ⟨0x4081, 0x4081, 0, 0, 2, 1, 0, .any, .plain⟩,
   ⟨0x4081, 0x4081, 1, 1, 5, 1, 0, .any, .plain⟩,
   ⟨0x4081, 0x4081, 2, 2, 2, 1, 0, .any, .plain⟩,
   ⟨0x4082, 0x4082, 0, 0, 3, 1, 0, .any, .plain⟩,
   ⟨0x4083, 0x4083, 0, 0, 3, 4, 6, .range 10 10000, .plain⟩,
   ⟨0x4083, 0x4083, 1, 1, 2, 4, 6, .range 1 8, .plain⟩,
   ⟨0x4083, 0x4083, 2, 2, 2, 4, 6, .range 1 255, .plain⟩,
   ⟨0x4084, 0x4084, 0, 0, 2, 0, 0, .any, .plain⟩,
   ⟨0x4084, 0x4084, 1, 1, 2, 0, 0, .any, .plain⟩,
   ⟨0x4085, 0x4085, 0, 0, 4, 2, 6, .mask 0x1F, .w1c 0x1F⟩,
   ⟨0x4085, 0x4085, 1, 5, 3, 1, 0, .any, .plain⟩,
   ⟨0x4086, 0x4086, 0, 0, 2, 1, 0, .any, .plain⟩,
   ⟨0x4086, 0x4086, 1, 1, 2, 1, 0, .any, .plain⟩,
   ⟨0x4088, 0x4088, 0, 0, 12, 1, 0, .any, .plain⟩,
   ⟨0x4089, 0x4089, 0, 0, 12, 1, 0, .any, .plain⟩,
   ⟨0x40C0, 0x40C0, 0, 0, 2, 1, 0, .any, .plain⟩,
   ⟨0x40C0, 0x40C0, 1, 1, 2, 1, 0, .any, .plain⟩,
   ⟨0x40C0, 0x40C0, 2, 2, 12, 4, 6, .len 256 256, .plain⟩]

/-- Rows 161 on. -/
def objRows4 : List ObjRow :=
  [⟨0x40C0, 0x40C0, 3, 3, 5, 1, 0, .any, .plain⟩,
   ⟨0x4400, 0x4400, 0, 0, 4, 2, 6, .mask 0xF, .w1c 0xF⟩,
   ⟨0x4400, 0x4400, 1, 4, 3, 1, 0, .any, .plain⟩,
   ⟨0x4402, 0x4402, 0, 0, 3, 4, 6, .range 1024 65535, .plain⟩,
   ⟨0x4402, 0x4402, 1, 1, 2, 4, 6, .range 0 63, .plain⟩,
   ⟨0x4402, 0x4402, 2, 2, 3, 4, 6, .range 20 10000, .plain⟩,
   ⟨0x4402, 0x4402, 3, 3, 2, 4, 6, .range 1 64, .plain⟩,
   ⟨0x4402, 0x4402, 4, 4, 12, 4, 6, .len 8 8, .plain⟩,
   ⟨0x4402, 0x4402, 5, 5, 3, 4, 6, .range 1 1000, .plain⟩,
   ⟨0x4403, 0x4403, 0, 0, 5, 1, 0, .any, .plain⟩,
   ⟨0x4403, 0x4403, 1, 1, 5, 1, 0, .any, .plain⟩,
   ⟨0x4403, 0x4403, 2, 2, 5, 1, 0, .any, .plain⟩,
   ⟨0x4403, 0x4403, 3, 3, 5, 1, 0, .any, .plain⟩,
   ⟨0x4404, 0x4404, 0, 0, 4, 1, 0, .any, .plain⟩,
   ⟨0x4410, 0x4417, 0, 0, 2, 1, 0, .any, .plain⟩,
   ⟨0x4410, 0x4417, 1, 1, 12, 4, 6, .len 16 16, .plain⟩,
   ⟨0x4410, 0x4417, 2, 2, 5, 0, 0, .any, .plain⟩,
   ⟨0x4410, 0x4417, 3, 3, 5, 1, 0, .any, .plain⟩,
   ⟨0x4410, 0x4417, 4, 4, 5, 1, 0, .any, .plain⟩,
   ⟨0x4410, 0x4417, 5, 5, 5, 1, 0, .any, .plain⟩,
   ⟨0x4410, 0x4417, 6, 6, 5, 1, 0, .any, .plain⟩,
   ⟨0x4410, 0x4417, 7, 7, 1, 4, 6, .range 0 1, .plain⟩,
   ⟨0x4800, 0x4800, 0, 0, 3, 1, 0, .any, .plain⟩,
   ⟨0x4800, 0x4800, 1, 1, 4, 2, 6, .mask 0x7, .w1c 0x7⟩,
   ⟨0x4800, 0x4800, 2, 4, 3, 1, 0, .any, .plain⟩,
   ⟨0x4800, 0x4800, 5, 5, 4, 1, 0, .any, .plain⟩,
   ⟨0x4801, 0x4801, 0, 0, 3, 4, 6, .range 1 16384, .plain⟩,
   ⟨0x4801, 0x4801, 1, 1, 5, 1, 0, .any, .plain⟩,
   ⟨0x4801, 0x4801, 2, 8, 5, 1, 0, .any, .plain⟩,
   ⟨0x4801, 0x4801, 9, 9, 5, 1, 0, .any, .plain⟩,
   ⟨0x4801, 0x4801, 10, 10, 3, 1, 0, .any, .plain⟩,
   ⟨0x4801, 0x4801, 11, 11, 3, 1, 0, .any, .plain⟩,
   ⟨0x5000, 0x5000, 0, 0, 4, 2, 6, .mask 0xF, .w1c 0xF⟩,
   ⟨0x5000, 0x5000, 1, 4, 3, 1, 0, .any, .plain⟩,
   ⟨0x5001, 0x5001, 0, 0, 2, 4, 6, .range 1 168, .plain⟩,
   ⟨0x5001, 0x5001, 1, 1, 3, 4, 6, .range 1 65535, .plain⟩,
   ⟨0x5002, 0x5002, 0, 0, 4, 1, 0, .any, .plain⟩,
   ⟨0x5002, 0x5002, 1, 1, 4, 1, 0, .any, .plain⟩,
   ⟨0x5002, 0x5002, 2, 2, 5, 1, 0, .any, .plain⟩,
   ⟨0x5010, 0x501F, 0, 0, 2, 1, 0, .any, .plain⟩]

/-- Rows 201 on. -/
def objRows5 : List ObjRow :=
  [⟨0x5010, 0x501F, 1, 1, 5, 1, 0, .any, .plain⟩,
   ⟨0x5010, 0x501F, 2, 2, 5, 1, 0, .any, .plain⟩,
   ⟨0x5010, 0x501F, 3, 3, 3, 1, 0, .any, .plain⟩,
   ⟨0x5100, 0x5100, 0, 0, 3, 4, 6, .range 256 65535, .plain⟩,
   ⟨0x5100, 0x5100, 1, 1, 5, 1, 0, .any, .plain⟩,
   ⟨0x5100, 0x5100, 2, 2, 5, 1, 0, .any, .plain⟩,
   ⟨0x5200, 0x5200, 0, 0, 5, 1, 0, .any, .plain⟩,
   ⟨0x5200, 0x5200, 1, 1, 5, 1, 0, .any, .plain⟩,
   ⟨0x5200, 0x5200, 2, 2, 5, 2, 6, .range 0 0, .hiWater⟩,
   ⟨0x5200, 0x5200, 3, 3, 5, 1, 0, .any, .plain⟩,
   ⟨0x5300, 0x5300, 0, 0, 12, 1, 0, .any, .plain⟩,
   ⟨0x5300, 0x5300, 1, 1, 5, 1, 0, .any, .plain⟩,
   ⟨0x6000, 0x6000, 0, 0, 2, 1, 0, .any, .plain⟩,
   ⟨0x6000, 0x6000, 1, 1, 3, 1, 0, .any, .plain⟩,
   ⟨0x6000, 0x6000, 2, 2, 4, 1, 0, .any, .plain⟩,
   ⟨0x6000, 0x6000, 3, 3, 2, 1, 0, .any, .plain⟩,
   ⟨0x6000, 0x6000, 4, 4, 3, 1, 0, .any, .plain⟩,
   ⟨0x6000, 0x6000, 5, 5, 3, 1, 0, .any, .plain⟩,
   ⟨0x6000, 0x6000, 6, 6, 3, 1, 0, .any, .plain⟩,
   ⟨0x6001, 0x6001, 0, 0, 12, 1, 0, .any, .plain⟩,
   ⟨0x6001, 0x6001, 1, 1, 4, 1, 0, .any, .plain⟩,
   ⟨0x6002, 0x6002, 0, 0, 12, 0, 0, .any, .plain⟩,
   ⟨0x6007, 0x6007, 0, 0, 4, 2, 4, .mask 0xF, .w1c 0xF⟩,
   ⟨0x6007, 0x6007, 1, 1, 3, 1, 0, .any, .plain⟩,
   ⟨0x6007, 0x6007, 2, 2, 3, 1, 0, .any, .plain⟩,
   ⟨0x6007, 0x6007, 3, 3, 3, 1, 0, .any, .plain⟩,
   ⟨0x6007, 0x6007, 4, 4, 3, 1, 0, .any, .plain⟩,
   ⟨0x6008, 0x6008, 0, 0, 4, 4, 4, .core, .plain⟩,
   ⟨0x6008, 0x6008, 1, 1, 2, 4, 4, .range 0 89, .plain⟩,
   ⟨0x6008, 0x6008, 2, 2, 2, 4, 4, .rangeOr 0 89 0xFF, .plain⟩,
   ⟨0x6010, 0x6069, 0, 0, 2, 1, 0, .any, .plain⟩,
   ⟨0x6010, 0x6069, 1, 1, 4, 1, 0, .any, .plain⟩,
   ⟨0x6010, 0x6069, 2, 33, 3, 1, 0, .any, .plain⟩,
   ⟨0x6070, 0x6070, 0, 0, 4, 2, 6, .mask 0x7, .w1c 0x7⟩,
   ⟨0x6070, 0x6070, 1, 1, 3, 1, 0, .any, .plain⟩,
   ⟨0x6070, 0x6070, 2, 2, 3, 1, 0, .any, .plain⟩,
   ⟨0x6070, 0x6070, 3, 3, 3, 1, 0, .any, .plain⟩,
   ⟨0x6071, 0x6071, 0, 0, 5, 1, 0, .any, .plain⟩,
   ⟨0x6071, 0x6071, 1, 1, 4, 1, 0, .any, .plain⟩,
   ⟨0x6071, 0x6071, 2, 2, 1, 2, 4, .range 0 1, .emptier⟩]

/-- Rows 241 on. -/
def objRows6 : List ObjRow :=
  [⟨0x6072, 0x6072, 0, 0, 3, 1, 0, .any, .plain⟩,
   ⟨0x6072, 0x6072, 1, 1, 3, 1, 0, .any, .plain⟩,
   ⟨0x6073, 0x6073, 0, 0, 3, 1, 0, .any, .plain⟩,
   ⟨0x6074, 0x6074, 0, 0, 5, 1, 0, .any, .plain⟩,
   ⟨0x6075, 0x6075, 0, 0, 5, 1, 0, .any, .plain⟩,
   ⟨0x6100, 0x6100, 0, 0, 12, 1, 0, .any, .plain⟩,
   ⟨0x6100, 0x6100, 1, 1, 12, 1, 0, .any, .plain⟩,
   ⟨0x6101, 0x6101, 0, 0, 2, 4, 4, .rangeOr 0 89 0xFF, .plain⟩,
   ⟨0x6101, 0x6101, 1, 1, 2, 4, 4, .rangeOr 0 89 0xFF, .plain⟩,
   ⟨0x6110, 0x6169, 0, 0, 2, 1, 0, .any, .plain⟩,
   ⟨0x6110, 0x6169, 1, 1, 2, 1, 0, .any, .plain⟩,
   ⟨0x6110, 0x6169, 2, 2, 5, 1, 0, .any, .plain⟩,
   ⟨0x6110, 0x6169, 3, 3, 5, 1, 0, .any, .plain⟩,
   ⟨0x6200, 0x6200, 0, 0, 12, 1, 0, .any, .plain⟩,
   ⟨0x6200, 0x6200, 1, 1, 5, 1, 0, .any, .plain⟩,
   ⟨0x6201, 0x6201, 0, 8, 4, 1, 0, .any, .plain⟩,
   ⟨0x6202, 0x6202, 0, 0, 4, 2, 6, .mask 0x1F, .w1c 0x1F⟩,
   ⟨0x6202, 0x6202, 1, 1, 3, 1, 0, .any, .plain⟩,
   ⟨0x6202, 0x6202, 2, 2, 3, 1, 0, .any, .plain⟩,
   ⟨0x6202, 0x6202, 3, 3, 3, 1, 0, .any, .plain⟩,
   ⟨0x6202, 0x6202, 4, 4, 3, 1, 0, .any, .plain⟩,
   ⟨0x6202, 0x6202, 5, 5, 3, 1, 0, .any, .plain⟩,
   ⟨0x6203, 0x6203, 0, 0, 2, 4, 6, .range 2 255, .plain⟩,
   ⟨0x6210, 0x6210, 0, 0, 5, 1, 0, .any, .plain⟩,
   ⟨0x6211, 0x6211, 0, 0, 2, 4, 6, .range 1 255, .plain⟩,
   ⟨0x6212, 0x6212, 0, 0, 4, 1, 0, .any, .plain⟩,
   ⟨0x6212, 0x6212, 1, 1, 2, 1, 0, .any, .plain⟩,
   ⟨0x6212, 0x6212, 2, 2, 3, 1, 0, .any, .plain⟩,
   ⟨0x6212, 0x6212, 3, 3, 3, 1, 0, .any, .plain⟩,
   ⟨0x6212, 0x6212, 4, 4, 5, 1, 0, .any, .plain⟩,
   ⟨0x6212, 0x6212, 5, 5, 1, 2, 4, .range 0 1, .emptier⟩,
   ⟨0x6213, 0x6213, 1, 12, 4, 1, 0, .any, .plain⟩,
   ⟨0x6300, 0x6300, 0, 0, 4, 2, 6, .mask 0xF, .w1c 0xF⟩,
   ⟨0x6300, 0x6300, 1, 1, 3, 1, 0, .any, .plain⟩,
   ⟨0x6300, 0x6300, 2, 2, 3, 1, 0, .any, .plain⟩,
   ⟨0x6300, 0x6300, 3, 3, 3, 1, 0, .any, .plain⟩,
   ⟨0x6300, 0x6300, 4, 4, 3, 1, 0, .any, .plain⟩,
   ⟨0x6301, 0x6301, 0, 0, 4, 2, 6, .mask 0xF, .w1c 0xF⟩,
   ⟨0x6301, 0x6301, 1, 4, 3, 1, 0, .any, .plain⟩,
   ⟨0x6302, 0x6302, 0, 0, 4, 2, 6, .mask 0xF, .w1c 0xF⟩]

/-- Rows 281 on. -/
def objRows7 : List ObjRow :=
  [⟨0x6302, 0x6302, 1, 4, 3, 1, 0, .any, .plain⟩,
   ⟨0x6303, 0x6303, 0, 0, 4, 2, 6, .mask 0xF, .w1c 0xF⟩,
   ⟨0x6303, 0x6303, 1, 4, 3, 1, 0, .any, .plain⟩,
   ⟨0x6304, 0x6304, 0, 0, 4, 1, 0, .any, .plain⟩,
   ⟨0x6304, 0x6304, 1, 1, 5, 1, 0, .any, .plain⟩,
   ⟨0x6305, 0x6305, 0, 0, 2, 1, 0, .any, .plain⟩,
   ⟨0x6305, 0x6305, 1, 1, 4, 1, 0, .any, .plain⟩,
   ⟨0x6305, 0x6305, 2, 2, 5, 1, 0, .any, .plain⟩,
   ⟨0x6305, 0x6305, 3, 3, 1, 2, 6, .range 0 1, .emptier⟩,
   ⟨0x6310, 0x631F, 0, 0, 4, 1, 0, .any, .plain⟩,
   ⟨0x6400, 0x6400, 0, 0, 4, 2, 6, .mask 0x1F, .w1c 0x1F⟩,
   ⟨0x6400, 0x6400, 1, 5, 3, 1, 0, .any, .plain⟩,
   ⟨0x6401, 0x6401, 0, 0, 5, 1, 0, .any, .plain⟩,
   ⟨0x6401, 0x6401, 1, 1, 5, 1, 0, .any, .plain⟩,
   ⟨0x6401, 0x6401, 2, 2, 5, 1, 0, .any, .plain⟩,
   ⟨0x6401, 0x6401, 3, 3, 5, 1, 0, .any, .plain⟩,
   ⟨0x6401, 0x6401, 4, 4, 5, 1, 0, .any, .plain⟩,
   ⟨0x6402, 0x6402, 0, 0, 4, 1, 0, .any, .plain⟩,
   ⟨0x6402, 0x6402, 1, 1, 5, 1, 0, .any, .plain⟩,
   ⟨0x6402, 0x6402, 2, 2, 1, 2, 6, .range 0 1, .emptier⟩,
   ⟨0x6410, 0x644F, 0, 0, 2, 4, 6, .range 0 1, .plain⟩,
   ⟨0x6410, 0x644F, 1, 1, 2, 4, 6, .range 1 2, .plain⟩,
   ⟨0x6410, 0x644F, 2, 2, 3, 4, 6, .range 1 1000, .plain⟩,
   ⟨0x6410, 0x644F, 3, 3, 5, 1, 0, .any, .plain⟩,
   ⟨0x6410, 0x644F, 4, 4, 5, 1, 0, .any, .plain⟩,
   ⟨0x6410, 0x644F, 5, 5, 5, 1, 0, .any, .plain⟩,
   ⟨0x6410, 0x644F, 6, 6, 5, 1, 0, .any, .plain⟩,
   ⟨0x6410, 0x644F, 7, 7, 5, 1, 0, .any, .plain⟩,
   ⟨0x6410, 0x644F, 8, 8, 5, 1, 0, .any, .plain⟩,
   ⟨0x6410, 0x644F, 9, 9, 5, 1, 0, .any, .plain⟩,
   ⟨0x6410, 0x644F, 10, 10, 5, 1, 0, .any, .plain⟩,
   ⟨0x6500, 0x6500, 0, 0, 4, 2, 6, .mask 0xF, .w1c 0xF⟩,
   ⟨0x6500, 0x6500, 1, 1, 3, 1, 0, .any, .plain⟩,
   ⟨0x6500, 0x6500, 2, 2, 3, 1, 0, .any, .plain⟩,
   ⟨0x6500, 0x6500, 3, 3, 3, 1, 0, .any, .plain⟩,
   ⟨0x6500, 0x6500, 4, 4, 3, 1, 0, .any, .plain⟩,
   ⟨0x6501, 0x6501, 0, 0, 2, 4, 6, .range 1 255, .plain⟩,
   ⟨0x6502, 0x6502, 0, 0, 5, 1, 0, .any, .plain⟩,
   ⟨0x6502, 0x6502, 1, 1, 5, 1, 0, .any, .plain⟩,
   ⟨0x6502, 0x6502, 2, 2, 5, 1, 0, .any, .plain⟩]

/-- Rows 321 on. -/
def objRows8 : List ObjRow :=
  [⟨0x6502, 0x6502, 3, 3, 5, 1, 0, .any, .plain⟩,
   ⟨0x6502, 0x6502, 4, 4, 5, 1, 0, .any, .plain⟩,
   ⟨0x6503, 0x6503, 0, 0, 4, 1, 0, .any, .plain⟩,
   ⟨0x6503, 0x6503, 1, 1, 4, 1, 0, .any, .plain⟩,
   ⟨0x6503, 0x6503, 2, 2, 5, 1, 0, .any, .plain⟩,
   ⟨0x6503, 0x6503, 3, 3, 5, 1, 0, .any, .plain⟩,
   ⟨0x6503, 0x6503, 4, 4, 2, 1, 0, .any, .plain⟩,
   ⟨0x6503, 0x6503, 5, 5, 2, 1, 0, .any, .plain⟩,
   ⟨0x6503, 0x6503, 6, 6, 5, 1, 0, .any, .plain⟩,
   ⟨0x6503, 0x6503, 7, 7, 1, 2, 4, .range 0 1, .emptier⟩,
   ⟨0x6504, 0x6504, 0, 0, 5, 1, 0, .any, .plain⟩,
   ⟨0x6504, 0x6504, 1, 1, 5, 1, 0, .any, .plain⟩,
   ⟨0x7000, 0x7000, 0, 0, 4, 2, 6, .mask 0xF, .w1c 0xF⟩,
   ⟨0x7000, 0x7000, 1, 4, 3, 1, 0, .any, .plain⟩,
   ⟨0x7010, 0x702F, 0, 0, 2, 1, 0, .any, .plain⟩,
   ⟨0x7010, 0x702F, 1, 1, 12, 1, 0, .any, .plain⟩,
   ⟨0x7010, 0x702F, 2, 2, 5, 1, 0, .any, .plain⟩,
   ⟨0x7010, 0x702F, 3, 3, 5, 1, 0, .any, .plain⟩,
   ⟨0x7010, 0x702F, 4, 4, 5, 1, 0, .any, .plain⟩,
   ⟨0x7010, 0x702F, 5, 5, 5, 1, 0, .any, .plain⟩,
   ⟨0x7010, 0x702F, 6, 6, 12, 4, 6, .bytesEach 32 1 64, .plain⟩,
   ⟨0x7010, 0x702F, 7, 7, 12, 3, 6, .len 64 64, .plain⟩,
   ⟨0x7010, 0x702F, 8, 8, 2, 3, 6, .range 0 31, .plain⟩,
   ⟨0x7010, 0x702F, 9, 9, 12, 1, 0, .any, .plain⟩,
   ⟨0x7010, 0x702F, 10, 10, 5, 1, 0, .any, .plain⟩,
   ⟨0x7100, 0x7100, 0, 0, 2, 4, 6, .range 1 16, .plain⟩,
   ⟨0x7100, 0x7100, 1, 1, 2, 4, 6, .range 1 16, .plain⟩,
   ⟨0x7100, 0x7100, 2, 2, 2, 4, 6, .range 1 16, .plain⟩,
   ⟨0x7101, 0x7101, 0, 0, 12, 1, 0, .any, .plain⟩,
   ⟨0x7101, 0x7101, 1, 1, 5, 1, 0, .any, .plain⟩,
   ⟨0x7101, 0x7101, 2, 2, 1, 2, 6, .range 0 1, .emptier⟩,
   ⟨0x8000, 0x8000, 0, 0, 12, 1, 0, .any, .plain⟩,
   ⟨0x8000, 0x8000, 1, 1, 4, 1, 0, .any, .plain⟩,
   ⟨0x8001, 0x8001, 0, 0, 4, 2, 6, .mask 0x7, .w1c 0x7⟩,
   ⟨0x8001, 0x8001, 1, 3, 3, 1, 0, .any, .plain⟩,
   ⟨0x8002, 0x8002, 0, 0, 5, 1, 0, .any, .plain⟩,
   ⟨0x8002, 0x8002, 1, 1, 5, 1, 0, .any, .plain⟩,
   ⟨0x8002, 0x8002, 2, 2, 5, 1, 0, .any, .plain⟩,
   ⟨0x8002, 0x8002, 3, 3, 5, 1, 0, .any, .plain⟩,
   ⟨0x8003, 0x8003, 0, 0, 3, 1, 0, .any, .plain⟩]

/-- Rows 361 on. -/
def objRows9 : List ObjRow :=
  [⟨0x8003, 0x8003, 1, 1, 5, 1, 0, .any, .plain⟩,
   ⟨0x8003, 0x8003, 2, 2, 1, 2, 6, .range 0 1, .emptier⟩,
   ⟨0x8010, 0x801F, 0, 0, 2, 1, 0, .any, .plain⟩,
   ⟨0x8010, 0x801F, 1, 1, 4, 1, 0, .any, .plain⟩,
   ⟨0x8010, 0x801F, 2, 2, 5, 1, 0, .any, .plain⟩,
   ⟨0x8100, 0x8100, 0, 0, 12, 1, 0, .any, .plain⟩,
   ⟨0x8100, 0x8100, 1, 1, 3, 1, 0, .any, .plain⟩,
   ⟨0x8101, 0x8101, 0, 0, 12, 1, 0, .any, .plain⟩,
   ⟨0x8140, 0x817F, 1, 12, 10, 4, 6, .any, .plain⟩,
   ⟨0x8140, 0x817F, 17, 28, 10, 1, 0, .any, .plain⟩,
   ⟨0x8200, 0x8200, 0, 0, 12, 1, 0, .any, .plain⟩,
   ⟨0x8201, 0x8201, 0, 0, 5, 4, 6, .compression, .plain⟩,
   ⟨0x8202, 0x8202, 0, 0, 5, 1, 0, .any, .plain⟩,
   ⟨0x8202, 0x8202, 1, 1, 5, 1, 0, .any, .plain⟩,
   ⟨0x8202, 0x8202, 2, 2, 5, 1, 0, .any, .plain⟩,
   ⟨0x8300, 0x8300, 0, 0, 3, 1, 0, .any, .plain⟩,
   ⟨0x8300, 0x8300, 1, 1, 3, 1, 0, .any, .plain⟩,
   ⟨0x8300, 0x8300, 2, 2, 12, 1, 0, .any, .plain⟩,
   ⟨0x8301, 0x8301, 0, 0, 4, 2, 6, .mask 0x3F, .w1c 0x3F⟩,
   ⟨0x8301, 0x8301, 1, 6, 3, 1, 0, .any, .plain⟩,
   ⟨0x8302, 0x8302, 0, 0, 5, 1, 0, .any, .plain⟩,
   ⟨0x8302, 0x8302, 1, 1, 5, 1, 0, .any, .plain⟩,
   ⟨0x8302, 0x8302, 2, 2, 5, 1, 0, .any, .plain⟩,
   ⟨0x8302, 0x8302, 3, 3, 5, 1, 0, .any, .plain⟩,
   ⟨0x8302, 0x8302, 4, 4, 5, 1, 0, .any, .plain⟩,
   ⟨0x8302, 0x8302, 5, 5, 5, 1, 0, .any, .plain⟩,
   ⟨0x8303, 0x8303, 0, 0, 3, 4, 6, .range 1 10000, .plain⟩,
   ⟨0x8303, 0x8303, 1, 1, 3, 4, 6, .range 1 65535, .plain⟩,
   ⟨0x8303, 0x8303, 2, 2, 3, 1, 0, .any, .plain⟩,
   ⟨0x8304, 0x8304, 0, 0, 4, 4, 6, .rangeOr 0 0xFFFF 0xFFFFFFFF, .plain⟩,
   ⟨0x8400, 0x8400, 0, 0, 12, 1, 0, .any, .plain⟩,
   ⟨0x8401, 0x8401, 0, 0, 4, 2, 6, .mask 0x7, .w1c 0x7⟩,
   ⟨0x8401, 0x8401, 1, 3, 3, 1, 0, .any, .plain⟩,
   ⟨0x8402, 0x8402, 0, 0, 1, 4, 6, .range 0 1, .plain⟩,
   ⟨0x8403, 0x8403, 0, 0, 4, 4, 6, .rangeOr 0 0xFFFFFFF 0xFFFFFFFF, .plain⟩,
   ⟨0x8404, 0x8404, 0, 0, 3, 1, 0, .any, .plain⟩,
   ⟨0x8404, 0x8404, 1, 1, 5, 1, 0, .any, .plain⟩,
   ⟨0x8404, 0x8404, 2, 2, 1, 2, 6, .range 0 1, .emptier⟩,
   ⟨0x8405, 0x8405, 0, 0, 3, 1, 0, .any, .plain⟩,
   ⟨0x8500, 0x8500, 0, 0, 3, 4, 6, .any, .plain⟩]

/-- Rows 401 on. -/
def objRows10 : List ObjRow :=
  [⟨0x8500, 0x8500, 1, 1, 3, 4, 6, .range 0 16384, .plain⟩,
   ⟨0x8500, 0x8500, 2, 2, 3, 4, 6, .range 1 65535, .plain⟩,
   ⟨0x8500, 0x8500, 3, 3, 5, 1, 0, .any, .plain⟩,
   ⟨0x8500, 0x8500, 4, 4, 5, 1, 0, .any, .plain⟩,
   ⟨0x8500, 0x8500, 5, 5, 5, 1, 0, .any, .plain⟩,
   ⟨0x8500, 0x8500, 6, 6, 5, 1, 0, .any, .plain⟩,
   ⟨0x8600, 0x860F, 1, 1, 5, 4, 6, .any, .plain⟩,
   ⟨0x8600, 0x860F, 2, 2, 5, 4, 6, .any, .plain⟩,
   ⟨0x8600, 0x860F, 3, 3, 5, 1, 0, .any, .plain⟩,
   ⟨0x8600, 0x860F, 4, 4, 5, 1, 0, .any, .plain⟩,
   ⟨0x8610, 0x8610, 0, 0, 5, 4, 6, .any, .plain⟩,
   ⟨0x9000, 0x9000, 0, 0, 12, 1, 0, .any, .plain⟩,
   ⟨0x9000, 0x9000, 1, 1, 4, 1, 0, .any, .plain⟩,
   ⟨0x9000, 0x9000, 2, 2, 12, 1, 0, .any, .plain⟩,
   ⟨0x9100, 0x9100, 0, 0, 5, 1, 0, .any, .plain⟩,
   ⟨0x9100, 0x9100, 1, 1, 4, 1, 0, .any, .plain⟩,
   ⟨0x9100, 0x9100, 2, 2, 5, 1, 0, .any, .plain⟩,
   ⟨0x9100, 0x9100, 3, 3, 5, 1, 0, .any, .plain⟩,
   ⟨0x9200, 0x9200, 0, 0, 4, 2, 6, .mask 0x1F, .w1c 0x1F⟩,
   ⟨0x9200, 0x9200, 1, 5, 3, 1, 0, .any, .plain⟩,
   ⟨0x9201, 0x9201, 0, 0, 4, 1, 0, .any, .plain⟩,
   ⟨0x9201, 0x9201, 1, 1, 4, 1, 0, .any, .plain⟩,
   ⟨0x9201, 0x9201, 2, 2, 2, 1, 0, .any, .plain⟩,
   ⟨0x9201, 0x9201, 3, 3, 4, 1, 0, .any, .plain⟩,
   ⟨0x9210, 0x9210, 0, 0, 1, 4, 6, .range 0 1, .plain⟩,
   ⟨0x9220, 0x9220, 0, 0, 3, 4, 4, .range 10 1920, .plain⟩,
   ⟨0x9221, 0x9221, 0, 0, 12, 4, 6, .len 0 512, .plain⟩,
   ⟨0x9280, 0x9280, 0, 0, 2, 4, 4, .range 0 1, .plain⟩,
   ⟨0x9280, 0x9280, 1, 1, 2, 1, 0, .any, .plain⟩,
   ⟨0x9280, 0x9280, 2, 2, 2, 1, 0, .any, .plain⟩,
   ⟨0x9280, 0x9280, 3, 3, 2, 1, 0, .any, .plain⟩,
   ⟨0x9280, 0x9280, 4, 4, 12, 1, 0, .any, .plain⟩,
   ⟨0x9280, 0x9280, 5, 5, 4, 1, 0, .any, .plain⟩,
   ⟨0x9280, 0x9280, 6, 6, 4, 1, 0, .any, .plain⟩,
   ⟨0x9280, 0x9280, 7, 7, 1, 1, 0, .any, .plain⟩,
   ⟨0x9281, 0x9281, 0, 0, 2, 3, 4, .range 1 2, .plain⟩,
   ⟨0xA000, 0xA000, 0, 0, 4, 1, 0, .any, .plain⟩,
   ⟨0xA000, 0xA000, 1, 1, 2, 1, 0, .any, .plain⟩,
   ⟨0xA000, 0xA000, 2, 2, 12, 0, 0, .any, .plain⟩,
   ⟨0xA001, 0xA001, 0, 0, 2, 3, 4, .any, .plain⟩]

/-- Rows 441 on. -/
def objRows11 : List ObjRow :=
  [⟨0xA002, 0xA002, 0, 0, 2, 1, 0, .any, .plain⟩,
   ⟨0xA010, 0xA010, 0, 0, 12, 0, 0, .any, .plain⟩,
   ⟨0xA010, 0xA010, 1, 1, 12, 0, 0, .any, .plain⟩,
   ⟨0xA010, 0xA010, 2, 2, 2, 1, 0, .any, .plain⟩,
   ⟨0xA010, 0xA010, 3, 3, 5, 1, 0, .any, .plain⟩,
   ⟨0xA020, 0xA020, 0, 0, 12, 4, 4, .len 32 32, .plain⟩,
   ⟨0xA020, 0xA020, 1, 1, 2, 1, 0, .any, .plain⟩,
   ⟨0xA020, 0xA020, 2, 2, 3, 1, 0, .any, .plain⟩,
   ⟨0xA021, 0xA024, 0, 0, 4, 1, 0, .any, .plain⟩,
   ⟨0xA021, 0xA024, 1, 1, 2, 1, 0, .any, .plain⟩,
   ⟨0xA021, 0xA024, 2, 2, 2, 1, 0, .any, .plain⟩,
   ⟨0xA021, 0xA024, 3, 3, 12, 1, 0, .any, .plain⟩,
   ⟨0xA021, 0xA024, 4, 4, 2, 1, 0, .any, .plain⟩,
   ⟨0xA030, 0xA030, 0, 0, 12, 3, 6, .len 32 32, .plain⟩,
   ⟨0xA030, 0xA030, 1, 1, 12, 1, 0, .any, .plain⟩,
   ⟨0xA030, 0xA030, 2, 2, 4, 1, 0, .any, .plain⟩,
   ⟨0xA030, 0xA030, 3, 3, 3, 4, 4, .range 100 60000, .plain⟩,
   ⟨0xA040, 0xA040, 0, 3, 12, 3, 4, .len 32 32, .plain⟩,
   ⟨0xA050, 0xA050, 0, 0, 12, 3, 8, .any, .plain⟩,
   ⟨0xA050, 0xA050, 1, 1, 12, 1, 0, .any, .plain⟩,
   ⟨0xA060, 0xA060, 0, 0, 4, 2, 6, .mask 0x3F, .w1c 0x3F⟩,
   ⟨0xA060, 0xA060, 1, 6, 3, 1, 0, .any, .plain⟩,
   ⟨0xA100, 0xA100, 0, 0, 4, 2, 6, .mask 0x3, .w1c 0x3⟩,
   ⟨0xA100, 0xA100, 1, 2, 3, 1, 0, .any, .plain⟩,
   ⟨0xA101, 0xA101, 0, 0, 2, 1, 0, .any, .plain⟩,
   ⟨0xA101, 0xA101, 1, 1, 4, 1, 0, .any, .plain⟩,
   ⟨0xA101, 0xA101, 2, 2, 3, 1, 0, .any, .plain⟩,
   ⟨0xA102, 0xA102, 0, 0, 5, 1, 0, .any, .plain⟩,
   ⟨0xB000, 0xB000, 0, 0, 3, 1, 0, .any, .plain⟩,
   ⟨0xB000, 0xB000, 1, 1, 3, 1, 0, .any, .plain⟩,
   ⟨0xB000, 0xB000, 2, 2, 2, 1, 0, .any, .plain⟩,
   ⟨0xB000, 0xB000, 3, 3, 2, 1, 0, .any, .plain⟩,
   ⟨0xB000, 0xB000, 4, 4, 3, 1, 0, .any, .plain⟩,
   ⟨0xB000, 0xB000, 5, 5, 3, 1, 0, .any, .plain⟩,
   ⟨0xB000, 0xB000, 6, 6, 4, 1, 0, .any, .plain⟩,
   ⟨0xB000, 0xB000, 7, 7, 4, 1, 0, .any, .plain⟩,
   ⟨0xB000, 0xB000, 8, 8, 1, 1, 0, .any, .plain⟩,
   ⟨0xB000, 0xB000, 9, 9, 12, 1, 0, .any, .plain⟩,
   ⟨0xB000, 0xB000, 10, 10, 3, 1, 0, .any, .plain⟩,
   ⟨0xB000, 0xB000, 11, 11, 5, 1, 0, .any, .plain⟩]

/-- Rows 481 on. -/
def objRows12 : List ObjRow :=
  [⟨0xB000, 0xB000, 12, 12, 5, 1, 0, .any, .plain⟩,
   ⟨0xB001, 0xB001, 0, 0, 4, 4, 4, .address, .plain⟩,
   ⟨0xB010, 0xB010, 0, 0, 5, 1, 0, .any, .plain⟩,
   ⟨0xB010, 0xB010, 1, 1, 5, 2, 6, .range 0 0, .hiWater⟩,
   ⟨0xB010, 0xB010, 2, 2, 5, 1, 0, .any, .plain⟩,
   ⟨0xB010, 0xB010, 3, 3, 5, 2, 6, .range 0 0, .hiWater⟩,
   ⟨0xB010, 0xB010, 4, 4, 2, 1, 0, .any, .plain⟩,
   ⟨0xB010, 0xB010, 5, 5, 2, 2, 6, .range 0 0, .hiWater⟩,
   ⟨0xB010, 0xB010, 6, 6, 5, 1, 0, .any, .plain⟩,
   ⟨0xB011, 0xB011, 0, 0, 4, 2, 6, .mask 0x3, .w1c 0x3⟩,
   ⟨0xB011, 0xB011, 1, 2, 3, 1, 0, .any, .plain⟩,
   ⟨0xB020, 0xB020, 0, 0, 12, 4, 6, .len 0 2097216, .plain⟩,
   ⟨0xB021, 0xB021, 0, 0, 2, 1, 0, .any, .plain⟩,
   ⟨0xB021, 0xB021, 1, 1, 1, 4, 6, .range 0 1, .plain⟩,
   ⟨0xB021, 0xB021, 2, 2, 1, 4, 6, .range 0 1, .plain⟩,
   ⟨0xB021, 0xB021, 3, 3, 5, 1, 0, .any, .plain⟩,
   ⟨0xB021, 0xB021, 4, 4, 5, 1, 0, .any, .plain⟩,
   ⟨0xB021, 0xB021, 5, 5, 5, 1, 0, .any, .plain⟩,
   ⟨0xB021, 0xB021, 6, 6, 5, 1, 0, .any, .plain⟩]

/-- Every row, in index order. -/
def objRows : List ObjRow := objRows0 ++ objRows1 ++ objRows2 ++ objRows3 ++ objRows4 ++ objRows5 ++ objRows6 ++ objRows7 ++ objRows8 ++ objRows9 ++ objRows10 ++ objRows11 ++ objRows12

/-- Defaults that are not zero: first and last index, subindex, value. -/
def objDefaults0 : List (Nat × Nat × Nat × Nat) :=
  [(0x1010, 0x1010, 6, 255),
   (0x1100, 0x1100, 0, 51210),
   (0x1100, 0x1100, 2, 10000),
   (0x1120, 0x1120, 1, 1000),
   (0x2001, 0x2001, 0, 720),
   (0x2001, 0x2001, 1, 720),
   (0x2001, 0x2001, 2, 24000),
   (0x2003, 0x2003, 0, 18),
   (0x2003, 0x2003, 1, 1),
   (0x2003, 0x2003, 6, 1),
   (0x2004, 0x2004, 0, 20),
   (0x2010, 0x2069, 1, 4095),
   (0x2010, 0x2069, 3, 360),
   (0x2100, 0x2100, 0, 87),
   (0x2100, 0x2100, 1, 90),
   (0x2100, 0x2100, 2, 84),
   (0x2100, 0x2100, 3, 100),
   (0x2100, 0x2100, 4, 105),
   (0x3001, 0x3001, 0, 1500),
   (0x3001, 0x3001, 1, 1500),
   (0x3001, 0x3001, 2, 1500),
   (0x3001, 0x3001, 3, 1500),
   (0x3010, 0x3017, 1, 32),
   (0x3020, 0x3021, 1, 1),
   (0x3030, 0x3030, 0, 4294967295),
   (0x3030, 0x3030, 1, 65535),
   (0x3030, 0x3030, 2, 4294967295),
   (0x3030, 0x3030, 3, 255),
   (0x3030, 0x3030, 4, 63),
   (0x3100, 0x3100, 1, 1000),
   (0x3100, 0x3100, 3, 2),
   (0x3103, 0x3103, 0, 4),
   (0x4000, 0x402F, 0, 1),
   (0x4000, 0x402F, 16, 1),
   (0x4083, 0x4083, 0, 1000),
   (0x4083, 0x4083, 1, 6),
   (0x4083, 0x4083, 2, 4),
   (0x4084, 0x4084, 0, 1),
   (0x4084, 0x4084, 1, 1),
   (0x4086, 0x4086, 0, 255),
   (0x4402, 0x4402, 0, 51200),
   (0x4402, 0x4402, 2, 200),
   (0x4402, 0x4402, 3, 64),
   (0x4402, 0x4402, 5, 10),
   (0x4410, 0x4417, 7, 1)]

/-- Defaults that are not zero: first and last index, subindex, value. -/
def objDefaults1 : List (Nat × Nat × Nat × Nat) :=
  [(0x4801, 0x4801, 0, 1024),
   (0x5001, 0x5001, 0, 12),
   (0x5001, 0x5001, 1, 16),
   (0x5100, 0x5100, 0, 1024),
   (0x6000, 0x6000, 1, 320),
   (0x6000, 0x6000, 2, 92160),
   (0x6000, 0x6000, 3, 255),
   (0x6008, 0x6008, 2, 255),
   (0x6071, 0x6071, 2, 1),
   (0x6072, 0x6072, 0, 1500),
   (0x6072, 0x6072, 1, 1500),
   (0x6101, 0x6101, 0, 255),
   (0x6101, 0x6101, 1, 255),
   (0x6203, 0x6203, 0, 16),
   (0x6211, 0x6211, 0, 8),
   (0x6212, 0x6212, 5, 1),
   (0x6305, 0x6305, 3, 1),
   (0x6402, 0x6402, 2, 1),
   (0x6410, 0x644F, 1, 1),
   (0x6410, 0x644F, 2, 50),
   (0x6501, 0x6501, 0, 1),
   (0x6503, 0x6503, 7, 1),
   (0x7100, 0x7100, 0, 4),
   (0x7100, 0x7100, 1, 2),
   (0x7100, 0x7100, 2, 2),
   (0x7101, 0x7101, 2, 1),
   (0x8003, 0x8003, 2, 1),
   (0x8300, 0x8300, 0, 1),
   (0x8303, 0x8303, 0, 100),
   (0x8303, 0x8303, 1, 20),
   (0x8304, 0x8304, 0, 4294967295),
   (0x8403, 0x8403, 0, 4294967295),
   (0x8404, 0x8404, 2, 1),
   (0x8500, 0x8500, 2, 1),
   (0x9220, 0x9220, 0, 200),
   (0x9280, 0x9280, 1, 1),
   (0xA030, 0xA030, 3, 1000),
   (0xB000, 0xB000, 1, 1),
   (0xB000, 0xB000, 2, 1),
   (0xB000, 0xB000, 3, 1),
   (0xB000, 0xB000, 5, 1),
   (0xB000, 0xB000, 6, 4294967295),
   (0xB000, 0xB000, 7, 4294967295),
   (0xB000, 0xB000, 10, 1)]


/-- The identity objects of fixed size (R5). -/
def identityDefault (v : Variant) (key : Nat) : Nat :=
  let x (a b : Nat) : Nat := if v = .x then a else b
  if key = Key.siliconStep then 1
  else if key = Key.features then x 0xF 0
  else if key = Key.stacksPresent ∨ key = Key.updateUnitsPresent then x 0xFFFF 0x5555
  else if key = Key.streamEnginesPresent then x 0xFFFFFFFF 0x33333333
  else if key = Key.aelifPortsPresent then x 0x0000FFFFFFFFFFFF 0x00000FF0FF0FF0FF
  else 0xFF

/-- The default of an object in the given ordering code (R432; R1 for the enables of absent units; ROLE_PORT's is its own port;
SSC_OFFERED by R412). -/
def objDefault (v : Variant) (key : Nat) : Nat :=
  if 0x4000 ≤ key / 256 ∧ key / 256 ≤ 0x402F ∧ key % 256 = 0x0A then key / 256 - 0x4000
  else if 0x3010 ≤ key / 256 ∧ key / 256 ≤ 0x3014 ∧ key % 256 = 2 then 1
  else if key = Key.siliconStep ∨ (Key.features ≤ key ∧ key ≤ Key.ethernetPortsPresent) then identityDefault v key
  else if v = .l ∧ key = Key.clockEnableSe then 0x33333333
  else if v = .l ∧ key = Key.clockEnableUu then 0x5555
  else match (objDefaults0 ++ objDefaults1).find? (fun r => r.1 ≤ key / 256 && key / 256 ≤ r.2.1 && r.2.2.1 == key % 256) with
    | some r => r.2.2.2
    | none => 0

/-- The row of an index and subindex. -/
def objRow (idx sub : Nat) : Option ObjRow :=
  objRows.find? (fun r => r.idxLo ≤ idx && idx ≤ r.idxHi && r.subLo ≤ sub && sub ≤ r.subHi)

/-- Whether a compression method and KCODE are not reserved (R266). -/
def methodOk (method kcode : Nat) : Bool :=
  decide (method ≤ 3) && (if method = 2 then decide (kcode ≤ 4) else kcode == 0)

/-- Whether a value is in range (R9 and the object's own range). -/
def Rng.ok (r : Rng) (v : Nat) : Bool :=
  match r with
  | .any => true
  | .range lo hi => decide (lo ≤ v) && decide (v ≤ hi)
  | .rangeOr lo hi o => (decide (lo ≤ v) && decide (v ≤ hi)) || v == o
  | .steps lo hi st => decide (lo ≤ v) && decide (v ≤ hi) && (v - lo) % st == 0
  | .oneOf vs => vs.contains v
  | .mask b => v &&& b == v
  | .core => v &&& 0x7FFFF == v && decide (bits v 3 0 ≤ 9) && decide (bits v 7 4 ≤ 8) && decide (bits v 18 13 ≤ 32)
  | .compression => v &&& 0x0000FFFFFFFF0FFF == v && methodOk (bits v 23 16) (bits v 31 24) && methodOk (bits v 39 32) (bits v 47 40)
  | .address => decide (v < 0x3FFFF)
  | .sensors => decide (((List.range 64).filter (bit v)).length ≤ 8)
  | .len _ _ => true
  | .bytesEach _ _ _ => true
  | .references => true

/-- The fewest and the most bytes of a DOMAIN's value. -/
def Rng.least (r : Rng) : Nat :=
  match r with
  | .len lo _ => lo
  | .bytesEach n _ _ => n
  | .references => 4
  | _ => 0

def Rng.most (r : Rng) : Nat :=
  match r with
  | .len _ hi => hi
  | .bytesEach n _ _ => n
  | .references => 4
  | _ => 2 ^ 32 - 1

/-- Whether each of some bytes of a DOMAIN is in range. -/
def Rng.okEach (r : Rng) (bs : List Byte) : Bool :=
  match r with
  | .bytesEach _ lo hi => bs.all (fun b => decide (lo ≤ b.toNat) && decide (b.toNat ≤ hi))
  | .references => bs.all (fun b => decide (b.toNat ≤ 9) || b.toNat == 255)
  | _ => true

/-- Whether the beginning of a DOMAIN's value is in range as far as it goes. -/
def Rng.okPart (r : Rng) (bs : List Byte) : Bool := decide (bs.length ≤ r.most) && r.okEach bs

/-- Whether the bytes of a DOMAIN are in range. -/
def Rng.okBytes (r : Rng) (bs : List Byte) : Bool := decide (r.least ≤ bs.length) && r.okPart bs

end Sys2Proof.Machine
end

