-- ==== Sys2Proof/Machine/Ops.lean ====
section
/-! DEFINITION. The named operations over the object dictionary, the flags, the journal, the event log, the cores and what leaves the
engine. -/

namespace Sys2Proof.Machine

/-! ### Objects (17_object_dictionary.md R429 to R434) -/

/-- The value of an object of fixed size. -/
def getN (s : State) (key : Nat) : Nat := amGet (objDefault s.variant key) s.objs key

/-- The state with an object's value set; a change of value raises the change count and is the object's CHANGE (R433). -/
def setN (s : State) (key v : Nat) : State :=
  if getN s key = v then s else
    { s with
      objs := amPut (objDefault s.variant key) v s.objs key
      change := s.change + 1
      changes := amIns (s.change + 1) s.changes key }

/-- A counter of `w` bits advanced; it saturates. -/
def addN (s : State) (key w n : Nat) : State := setN s key (satAdd w (getN s key) n)

/-- A 64-bit counter advanced by one. -/
def count64 (s : State) (key : Nat) : State := addN s key 64 1

/-- The default bytes of a DOMAIN object (the chapters' tables; R430). -/
def domDefault (key : Nat) : List Byte :=
  let idx := key / 256
  let sub := key % 256
  if key = Key.mgmtAddressA ∨ key = Key.mgmtAddressB then List.replicate 16 0
  else if 0x4410 ≤ idx ∧ idx ≤ 0x4417 ∧ sub = 1 then List.replicate 16 0
  else if key = Key.enginePrefix then List.replicate 8 0
  else if 0x7010 ≤ idx ∧ idx ≤ 0x702F ∧ sub = 6 then List.replicate 32 8
  else if key = Key.refPriority then [1, 0, 0xFF, 0xFF]
  else if key = Key.substituteTable then (List.range 256).map (BitVec.ofNat 8)
  else if 0x1200 ≤ idx ∧ idx ≤ 0x1204 ∧ sub = 6 then List.replicate 64 0
  else if key = Key.placementHash ∨ key = Key.planHash ∨ key = Key.fwStageRequest then List.replicate 32 0
  else if key = Key.fieldsParked ∨ key = Key.fieldsDark then List.replicate 12 0
  else if 0x4000 ≤ idx ∧ idx ≤ 0x402F ∧ sub = 7 then List.replicate 64 0
  else []

/-- The bytes of a stored DOMAIN object. -/
def getDom (s : State) (key : Nat) : List Byte := amGet (domDefault key) s.doms key

/-- The state with a DOMAIN's bytes set, and the superseded version kept for readers (R433). -/
def setDom (s : State) (key : Nat) (bs : List Byte) : State :=
  if getDom s key = bs then s else
    { s with
      doms := amIns bs s.doms key
      change := s.change + 1
      changes := amIns (s.change + 1) s.changes key
      par := { s.par with
        old := ⟨key, amGet 0 s.changes key, 0, getDom s key⟩ :: s.par.old } }

/-- The beat number (object 3100:00). -/
def beatNow (s : State) : Nat := getN s Key.beatNumber

/-- Something leaves the engine. -/
def emit (s : State) (o : Out) : State := { s with out := s.out ++ [o] }

/-! ### Flags -/

/-- A flag gathered at beat boundaries is raised (R157, R214). -/
def raise (s : State) (key b : Nat) : State := { s with raised := stPut s.raised key (stGet s.raised key ||| 2 ^ b) }

/-- A flag that the engine sets at the event itself (R434: 6007, 6070, 6202, 6500): the flag and its 16-bit counter. -/
def raiseNow (s : State) (key b : Nat) : State :=
  addN (setN s key (getN s key ||| 2 ^ b)) (key + 1 + b) 16 1

/-! ### The event log (20_recovery.md R513, R514) -/

/-- The severity of an event code (R514): 0 INFO, 1 WARNING, 2 ERROR, 3 FATAL. -/
def eventSeverity (code : Nat) : Nat :=
  if code = 0x3 ∨ code = 0x4 ∨ code = 0xA ∨ code = 0xC ∨ code = 0xF then 3
  else if code = 0x1 ∨ code = 0x7 ∨ code = 0x8 ∨ code = 0x9 ∨ code = 0xB ∨ code = 0x11 ∨ code = 0x12 then 2
  else if code = 0x2 ∨ code = 0x5 ∨ code = 0x6 ∨ code = 0x10 then 1
  else 0

/-- The records of EVENT_LOG, newest first (R513). -/
def eventRecords (s : State) : List Byte :=
  s.log.events.flatMap (fun e =>
    let b := leBytes 8 e.beat ++ leBytes 4 e.seq ++ leBytes 2 e.code ++ leBytes 1 e.severity ++ leBytes 1 0 ++
      slice (e.detail.flatMap (leBytes 4)) 0 12
    b ++ leBytes 4 (crc32c b))

/-- An event record of a severity is written; ERROR or FATAL raises MSI-X vector 3 (R513). The ring holds 524,288 records. -/
def logEventAs (s : State) (code sev : Nat) (detail : List Nat) : State :=
  let seq := (getN s Key.eventSeq + 1) % 2 ^ 32
  let cs := slice (getDom s Key.eventsBySeverity) 0 32
  let s := setN s Key.eventSeq seq
  let s := setDom s Key.eventsBySeverity (splice cs (8 * sev) (leBytes 8 (satAdd 64 (field cs (8 * sev) 8) 1)))
  let s := { s with log := { s.log with events := (⟨beatNow s, seq, code, sev, detail⟩ :: s.log.events).take 524288 } }
  let s := setDom s Key.eventLog (eventRecords s)
  if 2 ≤ sev then emit s (.msix 3) else s

/-- An event of R514. -/
def logEvent (s : State) (code : Nat) (detail : List Nat) : State := logEventAs s code (eventSeverity code) detail

/-! ### The journal (20_recovery.md R494 to R496) -/

/-- The bytes of a record: its length with the header, padded (R494). -/
def recordBytes (r : JRec) : Nat := 32 + (padTo 32 r.body).length

/-- A record as it stands in the ring (R494): the 32-byte header, its CRC over bytes 0x00 to 0x1B and the body, and the padded body. -/
def recordImage (r : JRec) : List Byte :=
  let h := leBytes 2 0x4A52 ++ leBytes 1 r.typ ++ leBytes 1 r.writer ++ leBytes 4 (recordBytes r) ++ leBytes 8 r.seq ++ leBytes 8 r.beat ++
    leBytes 4 0
  h ++ leBytes 4 (crc32c (h ++ r.body)) ++ padTo 32 r.body

/-- A record is written at the head of the journal, by the active management core. -/
def journal (s : State) (typ : Nat) (body : List Byte) : State :=
  let r : JRec := ⟨typ, getN s Key.journalRecordSeq + 1, beatNow s, getN s Key.activeCore, body⟩
  let s := addN (setN s Key.journalRecordSeq r.seq) Key.journalBytesWritten 64 (recordBytes r)
  { s with log := { s.log with journal := r :: s.log.journal } }

/-- A record that the manual has written but for which R495 has no type (R436, R523): its type is free, among the reserved ones. -/
def journalOpen (s : State) (body : List Byte) : State :=
  journal { s with free := s.free + 1 } (15 + Config.freeNat s.free % 241) body

/-- The newest record of a type. -/
def newestRec (s : State) (typ : Nat) : Option JRec := s.log.journal.find? (fun r => r.typ == typ)

/-! ### Cores -/

/-- The key of a logical core: its core number at 320 columns (R103). -/
def coreKey (c : CoreId) : Nat := c.row * 320 + c.col

/-- The logical columns of the grid mode in force (object 6000:01). -/
def logicalCols (s : State) : Nat := getN s Key.logicalColumns

/-- Whether a logical coordinate lies in the grid (00_scope.md, Notation). -/
def inGrid (s : State) (c : CoreId) : Bool := decide (c.col < logicalCols s) && decide (c.row < 288)

/-- The core at a logical coordinate. -/
def getCore (s : State) (c : CoreId) : Core := amGet Core.default s.cores (coreKey c)

/-- The state with a core replaced. -/
def setCore (s : State) (c : CoreId) (v : Core) : State := { s with cores := amIns v s.cores (coreKey c) }

/-- A core reported as [8:0] logical column and [17:9] logical row. -/
def coreWord (c : CoreId) : Nat := c.col + c.row * 512

/-- The logical cores of the grid, row by row. -/
def allCores (s : State) : List CoreId :=
  (List.range 288).flatMap (fun r => (List.range (logicalCols s)).map (fun c => ⟨c, r⟩))

/-- The keys of `cores` back to coordinates. -/
def keyCore (k : Nat) : CoreId := ⟨k % 320, k / 320⟩

/-- The field of a logical core's column and row in the running grid: 32 columns and 32 rows each (R26). -/
def coreField (s : State) (c : CoreId) : Nat :=
  let fx := c.col / 32
  let ex := getN s Key.excludedFieldColumn
  10 * (c.row / 32) + (if fx < ex then fx else fx + 1)

/-- Every listed core changed by `f`. -/
def mapCores (s : State) (f : CoreId → Core → Core) : State :=
  { s with cores := s.cores.map (fun e => (e.1, f (keyCore e.1) e.2)) }

/-! ### Fields of packets (03_wafer_network.md R57) -/

/-- A field of a route header. -/
def hdrField (h : W64) (hi lo : Nat) : Nat := bits h.toNat hi lo

abbrev hdrMode (h : W64) : Nat := hdrField h 2 0
abbrev hdrCol (h : W64) : Nat := hdrField h 11 3
abbrev hdrRow (h : W64) : Nat := hdrField h 20 12
abbrev hdrLo (h : W64) : Nat := hdrField h 29 21
abbrev hdrHi (h : W64) : Nat := hdrField h 38 30
abbrev hdrGroup (h : W64) : Nat := hdrField h 44 39
abbrev hdrExit (h : W64) : Nat := hdrField h 46 45
abbrev hdrEndpoint (h : W64) : Nat := hdrField h 54 47
abbrev hdrLength (h : W64) : Nat := hdrField h 60 55

/-- The payload bytes of flits. -/
def flitBytes (fs : List Flit) : List Byte := fs.flatMap (fun f => slice f.data 0 64)

/-- Whether any flit is poisoned. -/
def anyPoison (fs : List Flit) : Bool := fs.any (fun f => f.poison)

/-- The state with a fresh free number drawn (assumption log 9). -/
def drawFree (s : State) : Nat × State := (Config.freeNat s.free, { s with free := s.free + 1 })

end Sys2Proof.Machine
end

