-- ==== Sys2Proof/Machine/Flags.lean ====
section
/-! DEFINITION. The numeric flag words of the units and their gathering (06_number_formats.md R154 to R159; 08_activation_sparsity.md
R214). -/

namespace Sys2Proof.Machine

/-- The array raises flags: the sticky word and the beat-event word (R156). -/
def flagArray (c : Core) (f : Nat) : Core :=
  { c with stickyA := c.stickyA ||| BitVec.ofNat 4 f, beatA := c.beatA ||| BitVec.ofNat 4 f }

/-- The vector unit raises flags. -/
def flagVector (c : Core) (f : Nat) : Core :=
  { c with stickyV := c.stickyV ||| BitVec.ofNat 4 f, beatV := c.beatV ||| BitVec.ofNat 4 f }

/-- The compaction engine raises flags. -/
def flagCompaction (c : Core) (f : Nat) : Core :=
  { c with stickyC := c.stickyC ||| BitVec.ofNat 4 f, beatC := c.beatC ||| BitVec.ofNat 4 f }

/-- An update unit raises flags. -/
def flagUpdate (s : State) (unit f : Nat) : State :=
  { s with update := { s.update with
      sticky := stPut s.update.sticky unit (stGet s.update.sticky unit ||| f)
      beatEv := stPut s.update.beatEv unit (stGet s.update.beatEv unit ||| f) } }

/-- Bit NUMERIC_STICKY of a core (R156). -/
def numericSticky (c : Core) : Bool := (c.stickyA ||| c.stickyV ||| c.stickyC) != 0

/-- The status word of a core (R106). -/
def coreStateCode : CoreState → Nat
  | .reset => 0
  | .loading => 1
  | .running => 2
  | .waiting => 3
  | .suspended => 4
  | .halted => 5
  | .faulted => 6
  | .parked => 7
  | .dead => 8

/-- The status word of a core (R106). -/
def statusWord (c : Core) : Nat :=
  coreStateCode c.st + c.excCause % 256 * 2 ^ 4 + c.role % 16 * 2 ^ 12 + b2n c.heartbeatOk * 2 ^ 16 + b2n c.uncorrSeen * 2 ^ 17 +
    b2n (numericSticky c) * 2 ^ 18 + b2n c.poisonSeen * 2 ^ 19 + c.waypoint.toNat * 2 ^ 20

/-- The OR of beat-event words over the listed cores. -/
def orCores (s : State) (f : Core → Nat) : Nat := s.cores.foldl (fun a e => a ||| f e.2) 0

/-- Event counters `base + bit` advanced for each bit of `ev` below `n` (R157 step 2). -/
def countBits (s : State) (base ev : Nat) : Nat → State
  | 0 => s
  | n + 1 => let s := countBits s base ev n; if bit ev n then addN s (base + n) 16 1 else s

/-- The first listed core in core-number order whose unit raised INVALID in the beat. -/
def invalidCore (s : State) (f : Core → Nat) : Option CoreId :=
  (s.cores.find? (fun e => bit (f e.2) 3)).map (fun e => keyCore e.1)

/-- The capture of R158: unit kind and place of the first raising of INVALID. -/
def invalidFirst (s : State) : Option (Nat × Nat) :=
  match invalidCore s (fun c => c.beatA.toNat), invalidCore s (fun c => c.beatV.toNat), invalidCore s (fun c => c.beatC.toNat),
      s.update.beatEv.find? (fun e => bit e.2 3) with
  | some c, _, _, _ => some (1, coreWord c)
  | _, some c, _, _ => some (2, coreWord c)
  | _, _, some c, _ => some (3, coreWord c)
  | _, _, _, some e => some (4, e.1)
  | _, _, _, _ => none

/-- One aggregate word gathered: the OR of the beat's events enters, counters advance, and written clears remove what was not raised
(R157 steps 1 to 3). -/
def gatherWord (s : State) (key ev : Nat) : State :=
  let s := countBits s (key + 1) ev 4
  setN s key ((getN s key - (getN s key &&& stGet s.clears key)) ||| ev)

/-- The sticky bits of a unit kind cleared by a written clear, but for the units that raised the flag (R157). -/
def clearSticky (sticky beat : BitVec 4) (clr : Nat) : BitVec 4 := (sticky &&& ~~~(BitVec.ofNat 4 clr)) ||| (beat &&& sticky)

/-- The gathering of the numeric flags (R157, R158), the beat just ended being `beat`. -/
def gatherNumeric (s : State) (beat : Nat) : State :=
  let evA := orCores s (fun c => c.beatA.toNat)
  let evV := orCores s (fun c => c.beatV.toNat)
  let evC := orCores s (fun c => c.beatC.toNat)
  let evU := s.update.beatEv.foldl (fun a e => a ||| e.2) 0
  let first := invalidFirst s
  let flagged := (s.cores.filter (fun e => numericSticky e.2)).length
  let clrA := stGet s.clears Key.arrayNumFlags
  let clrV := stGet s.clears Key.vectorNumFlags
  let clrC := stGet s.clears Key.compactionNumFlags
  let clrU := stGet s.clears Key.updateNumFlags
  let s := gatherWord s Key.arrayNumFlags evA
  let s := gatherWord s Key.vectorNumFlags evV
  let s := gatherWord s Key.compactionNumFlags evC
  let s := gatherWord s Key.updateNumFlags evU
  let s := mapCores s (fun _ c => { c with
    stickyA := clearSticky c.stickyA c.beatA clrA
    stickyV := clearSticky c.stickyV c.beatV clrV
    stickyC := clearSticky c.stickyC c.beatC clrC
    beatA := 0
    beatV := 0
    beatC := 0 })
  let upd := s.update.sticky.map (fun e => (e.1, (e.2 - (e.2 &&& clrU)) ||| (stGet s.update.beatEv e.1 &&& e.2)))
  let s := { s with update := { s.update with sticky := upd.filter (fun e => e.2 != 0), beatEv := [] } }
  let s := setN s Key.coresFlagged flagged
  let s := setN s Key.flagsBeat beat
  match first with
  | some (u, w) =>
    if getN s Key.invalidCaptureEmpty = 1 then
      setN (setN (setN (setN s Key.invalidCaptureUnit u) Key.invalidCaptureWhere w) Key.invalidCaptureBeat beat)
        Key.invalidCaptureEmpty 0
    else s
  | none => s

/-- The flag words gathered in the manner of R214: word and number of flags. Port flags have one word for each port. -/
def gatheredWords : List (Nat × Nat) :=
  [(Key.parealoFlags, 4), (Key.powerFlags, 7), (Key.thermalFlags, 6), (Key.clockFlags, 3), (Key.beatFlags, 6),
   (Key.discoveryFlags, 5), (Key.ethFlags, 4), (Key.pcieFlags, 3), (Key.stackFlags, 4), (Key.sparsityFlags, 5),
   (Key.streamFlags, 4), (Key.updateFlags, 3), (Key.exchangeFlags, 6), (Key.replicaFlags, 3), (Key.recoveryFlags, 5),
   (Key.securityFlags, 6), (Key.cvuFlags, 2), (Key.mappingFlags, 2)] ++ (List.range 48).map (fun n => (Key.portFlags n, 5))

/-- One word gathered in the manner of R214: each flag raised in the beat is set and counted once; a written clear clears the others. -/
def gatherFlag (s : State) (key n : Nat) : State :=
  let ev := stGet s.raised key
  let s := countBits s (key + 1) ev n
  setN s key ((getN s key - (getN s key &&& stGet s.clears key)) ||| ev)

/-- Every word that R214 gathers. -/
def gatherFlags (s : State) : State :=
  let ws := gatheredWords.filter (fun w => stGet s.raised w.1 != 0 || stGet s.clears w.1 != 0)
  let s := ws.foldl (fun s w => gatherFlag s w.1 w.2) s
  { s with raised := [], clears := [] }

end Sys2Proof.Machine
end

