-- ==== Sys2Proof/Machine/Operands.lean ====
section
/-! DEFINITION. The operand forms of a core's instructions: X registers and pairs, address generators, the SRAM with its regions and
poison, receive rings, staging tiles and the saved context (04_core.md R78 to R93, 07_tile_programs.md R161 to R164). -/

namespace Sys2Proof.Machine

/-! ### Sorted lists of numbers -/

/-- A number put into a rising list. -/
def nsIns (n : Nat) : List Nat → List Nat
  | [] => [n]
  | k :: ks => if n = k then k :: ks else if n < k then n :: k :: ks else k :: nsIns n ks

/-- A number taken out of a list. -/
def nsDel (n : Nat) (ks : List Nat) : List Nat := ks.filter (fun k => k != n)

/-! ### X registers (R162) -/

/-- X[n]; X0 reads as zero. -/
def xget (c : Core) (n : BitVec 5) : W32 := if n = 0 then 0 else c.x[n.toNat]'n.isLt

/-- X[n] written; a write to X0 is ignored. -/
def xset (c : Core) (n : BitVec 5) (v : W32) : Core := if n = 0 then c else { c with x := c.x.set n.toNat v n.isLt }

/-- Whether a pair field names an odd register. -/
def xodd (n : BitVec 5) : Bool := n.toNat % 2 == 1

/-- The 64-bit value of a pair. -/
def xpair (c : Core) (n : BitVec 5) : W64 := (xget c (n + 1)).setWidth 64 <<< 32 ||| (xget c n).setWidth 64

/-! ### Address generators (R163, R164) -/

/-- An address generator of the core. -/
def agGet (c : Core) (n : BitVec 3) : Ag := c.ag[n.toNat]'n.isLt

/-- The core with an address generator replaced. -/
def agPut (c : Core) (n : BitVec 3) (g : Ag) : Core := { c with ag := c.ag.set n.toNat g n.isLt }

/-- ag_use of R164: the address delivered, and the generator after it. -/
def agUse (g : Ag) (post : Bool) : Nat × Ag :=
  (g.cursor.toNat,
    if post then
      if 1 < g.innerLeft.toNat then
        { g with cursor := g.cursor + g.innerStep.truncate 19, innerLeft := g.innerLeft - 1 }
      else { g with cursor := g.cursor + g.outerStep.truncate 19, innerLeft := g.innerCount }
    else g)

/-- An address delivered by a generator of the core, and the core after it. -/
def agTake (c : Core) (n : BitVec 3) (post : Bool) : Nat × Core :=
  let r := agUse (agGet c n) post
  (r.1, agPut c n r.2)

/-! ### SRAM (R78, R81, R82, R84, R85) -/

/-- The 64-byte lines that an access touches. -/
def linesOf (a n : Nat) : List Nat := upFrom (a / 64) ((a + n + 63) / 64 - a / 64)

/-- Whether an access meets a poisoned line. -/
def sramPoisoned (c : Core) (a n : Nat) : Bool := (linesOf a n).any (fun l => c.poisonLines.contains l)

/-- The bytes of an access. -/
def sramRead (c : Core) (a n : Nat) : List Byte := memBytes c.sram a n

/-- The core, having consumed data that may be poisoned (R106). -/
def consume (c : Core) (p : Bool) : Core := if p then { c with poisonSeen := true } else c

/-- The poison bit of one line after a write of `n` bytes at `a` (R82). -/
def poisonLine (a n : Nat) (p : Bool) (ps : List Nat) (l : Nat) : List Nat :=
  if p then nsIns l ps else if a ≤ 64 * l ∧ 64 * l + 64 ≤ a + n then nsDel l ps else ps

/-- Bytes written to SRAM, clean or poisoned (R82); a corrected word that waits for its write-back is discarded where the write
reaches it (R81). -/
def sramWrite (c : Core) (a : Nat) (bs : List Byte) (p : Bool) : Core :=
  { c with
    sram := memStore c.sram a bs
    poisonLines := (linesOf a bs.length).foldl (poisonLine a bs.length p) c.poisonLines
    writeback := c.writeback.filter (fun w => !(decide (8 * w < a + bs.length) && decide (a < 8 * w + 8))) }

/-- Bytes written over VC0 as configuration: such a write clears the poison bit of every line it touches (R82). -/
def cfgWrite (c : Core) (a : Nat) (bs : List Byte) : Core :=
  { c with
    sram := memStore c.sram a bs
    poisonLines := (linesOf a bs.length).foldl (fun ps l => nsDel l ps) c.poisonLines
    writeback := c.writeback.filter (fun w => !(decide (8 * w < a + bs.length) && decide (a < 8 * w + 8))) }

/-- The end of the program window (R84, R88). -/
def progEnd (c : Core) : Nat := (field c.cfg 1 1 + 1) * 16384

/-- The end of the receive region. -/
def recvEnd (c : Core) : Nat := progEnd c + field c.cfg 2 1 * 4096

/-- The end of the staging region. -/
def stageEnd (c : Core) : Nat := recvEnd c + field c.cfg 3 1 * 4096

/-- The start of the context area (R84). -/
abbrev contextBase : Nat := 0x7D000

/-- Whether a program may read the range (R85). -/
def mayRead (c : Core) (a n : Nat) : Bool := decide (progEnd c ≤ a) && decide (a + n ≤ contextBase)

/-- Whether a program may write the range (R85). -/
def mayWrite (c : Core) (a n : Nat) : Bool := decide (recvEnd c ≤ a) && decide (a + n ≤ contextBase)

/-- An SRAM address modulo 2^19 (R164). -/
abbrev u19 (a : Nat) : Nat := a % 2 ^ 19

/-! ### Receive rings (R86 to R88) -/

/-- The entry of RING_TABLE: pages and first page. -/
def ringPages (c : Core) (r : Nat) : Nat := field c.cfg (8 + 4 * r) 1

/-- The first line of a ring. -/
def ringBase (c : Core) (r : Nat) : Nat := progEnd c + field c.cfg (9 + 4 * r) 1 * 4096

/-- The lines of a ring. -/
def ringLines (c : Core) (r : Nat) : Nat := ringPages c r * 64

/-- A ring's read pointer. -/
def ringRdPtr (c : Core) (r : Nat) : Nat := c.ringRd[r]?.getD 0

/-- A ring's write pointer. -/
def ringWrPtr (c : Core) (r : Nat) : Nat := c.ringWr[r]?.getD 0

/-- A ring's pointer moved by `n` lines. A pointer counts lines over two turns of the ring, so that a full ring and an empty one differ
(assumption log 14); its line wraps from the ring's last to its first (R87). -/
def ringMove (c : Core) (r ptr n : Nat) : Nat := (ptr + n) % (2 * ringLines c r)

/-- The flits a ring holds. -/
def ringHeld (c : Core) (r : Nat) : Nat := (ringWrPtr c r + 2 * ringLines c r - ringRdPtr c r) % (2 * ringLines c r)

/-- The SRAM address of the ring line at a pointer (R87: the pointer wraps). -/
def ringAddr (c : Core) (r ptr : Nat) : Nat := ringBase c r + ptr % ringLines c r * 64

/-- The flits at a ring's read pointer on, as bytes with a poison bit each. -/
def ringFlits (c : Core) (r n : Nat) : List (List Byte × Bool) :=
  (List.range n).map (fun i =>
    let a := ringAddr c r (ringRdPtr c r + i)
    (sramRead c a 64, sramPoisoned c a 64))

/-- The read pointer advanced (R182). -/
def ringAdvance (c : Core) (r n : Nat) : Core :=
  { c with ringRd := c.ringRd.setIfInBounds r (ringMove c r (ringRdPtr c r) n) }

/-! ### Staging tiles (R110, R134, R149 to R152) -/

/-- A staging tile: 0 AS0, 1 AS1, 2 BS0, 3 BS1. -/
def stgGet (c : Core) (i : Nat) : Staging :=
  c.stg[i]?.getD ⟨Vector.replicate 1024 0, Vector.replicate 16 false, Vector.replicate 32 127, 0⟩

/-- The core with a staging tile replaced; its fill count advances (R200). -/
def stgFill (c : Core) (i : Nat) (bytes : List Byte) (poison : List Bool) (scales : List Byte) : Core :=
  let t : Staging := ⟨vecOf 1024 (fun k => bytes.getD k 0), vecOf 16 (fun k => poison.getD k false),
    vecOf 32 (fun k => scales.getD k 0), (stgGet c i).fill + 1⟩
  { c with stg := c.stg.setIfInBounds i t }

/-- The tile rows of a row code (R171); none where reserved. -/
def rowCode (n : BitVec 3) : Option Nat :=
  match n.toNat with
  | 0 => some 1
  | 1 => some 4
  | 2 => some 8
  | 3 => some 16
  | 4 => some 32
  | 5 => some 64
  | _ => none

/-- The data bytes of a tile in an expansion mode (R150). -/
def packedSize (exp : Nat) : Nat :=
  match exp with
  | 0 => 1024
  | 7 => 1024
  | 1 => 768
  | 2 => 768
  | _ => 512

/-- The 8-bit code of a packed element (R149): `entry` is the parameter entry, `tab` the four tables. -/
def expandElem (exp entry : Nat) (tab data : List Byte) (i : Nat) : Byte :=
  match exp with
  | 1 => BitVec.ofNat 8 (convertTo 3 (convertFrom 5 (element 5 data i)) 0 0 true).1
  | 2 => BitVec.ofNat 8 (convertTo 3 (convertFrom 6 (element 6 data i)) 0 0 true).1
  | 3 => BitVec.ofNat 8 (convertTo 3 (convertFrom 7 (element 7 data i)) 0 0 true).1
  | 4 => BitVec.ofInt 8 (signed 4 (element 9 data i))
  | 5 => BitVec.ofInt 8 ((element 9 data i : Int) - (bits entry 11 8 : Int))
  | 6 => tab.getD (16 * bits entry 9 8 + element 9 data i) 0
  | _ => data.getD i 0

/-- A tile expanded from its parameter flit and data (R149 to R152): bytes, segment poison and scales. `whole` says that what every
segment is filled from is poisoned: the parameter flit (R152), or in mode 6 the line of the tables (R134). -/
def expandTile (exp : Nat) (param : List Byte) (whole : Bool) (tab data : List Byte) (pois : List Bool) :
    List Byte × List Bool × List Byte :=
  let size := packedSize exp
  let seg := (List.range 16).map (fun s =>
    whole || ((pois.drop (s * size / 16)).take (size / 16)).any id)
  if exp = 0 then (slice data 0 1024, seg, List.replicate 32 127)
  else
    let entry := fun e => field param (2 * e) 2
    let bytes := (List.range 1024).map (fun i => expandElem exp (entry (i / 32)) tab data i)
    let scales := (List.range 32).map (fun e => BitVec.ofNat 8 (entry e % 256))
    (bytes, seg, scales)

/-- Row `r` of a tile of `rows` rows starts at element r × 1024 / rows, so block b of row n is block (1024 / rows × n) / 32 + b of the
tile: the entry number of R150. -/
def entryOf (rows n b : Nat) : Nat := n * (32 / rows) + b

/-! ### The saved context (R93, R135, R156) -/

/-- An address generator as 16 bytes (R163). -/
def agBytes (g : Ag) : List Byte :=
  leBytes 16 (g.base.toNat + g.innerCount.toNat * 2 ^ 19 + g.cursor.toNat * 2 ^ 32 + g.innerLeft.toNat * 2 ^ 51 +
    g.innerStep.toNat * 2 ^ 64 + g.outerStep.toNat * 2 ^ 84)

/-- An address generator read from 16 bytes. -/
def agOf (n : Nat) : Ag :=
  ⟨BitVec.ofNat 19 (bits n 18 0), BitVec.ofNat 13 (bits n 31 19), BitVec.ofNat 19 (bits n 50 32), BitVec.ofNat 13 (bits n 63 51),
    BitVec.ofNat 20 (bits n 83 64), BitVec.ofNat 20 (bits n 103 84)⟩

/-- The parity bit of a word: whether it has an odd number of ones. -/
def wordParity (w : W32) : Bool :=
  let w := w ^^^ (w >>> 16)
  let w := w ^^^ (w >>> 8)
  let w := w ^^^ (w >>> 4)
  let w := w ^^^ (w >>> 2)
  (w ^^^ (w >>> 1)).getLsbD 0

/-- The parity bits of the words of a tile (R133). -/
def parityOf (ws : List W32) : BitVec 256 :=
  BitVec.ofNat 256 (ws.foldr (fun w n => 2 * n + b2n (wordParity w)) 0)

/-- An accumulator tile of the given words, each with its parity bit. -/
def accOf (ws : Vector W32 256) (poison : Bool) : AccTile := ⟨ws, parityOf ws.toList, poison⟩

/-- The bytes of the context area from 0x2000 to 0x226F (R93). The order within the 16 bytes at 0x2110 (program counter, scoreboard,
cause, zero) and within a ring's 8 bytes (read pointer, write pointer) is the model's (assumption log 14). -/
def contextTail (c : Core) : List Byte :=
  c.x.toList.flatMap (fun v => leBytes 4 v.toNat) ++ c.ag.toList.flatMap agBytes ++ c.loops.toList.flatMap (fun v => leBytes 4 v.toNat) ++
    (leBytes 4 c.pc ++ leBytes 4 0 ++ leBytes 4 c.excCause ++ leBytes 4 0) ++
    (List.range 8).flatMap (fun r => leBytes 4 (ringRdPtr c r) ++ leBytes 4 (ringWrPtr c r)) ++
    c.lanes.toList.flatMap (fun v => leBytes 8 v.toNat) ++
    (leBytes 4 c.stickyA.toNat ++ leBytes 4 c.stickyV.toNat ++ leBytes 4 c.stickyC.toNat ++
      leBytes 4 (c.beatA.toNat + c.beatV.toNat * 16 + c.beatC.toNat * 256)) ++
    c.stg.toList.flatMap (fun t => t.scales.toList)

/-- The context written to the context area, with the poison bits of the tiles' lines (R93, R135). -/
def saveContext (c : Core) : Core :=
  let c1 := (List.range 4).foldl (fun d i =>
    let t := c.acc[i]?.getD ⟨Vector.replicate 256 0, 0, false⟩
    sramWrite d (contextBase + 1024 * i) (t.words.toList.flatMap (fun w => leBytes 4 w.toNat)) t.poison) c
  let c2 := (List.range 4).foldl (fun d i =>
    let t := stgGet c i
    (List.range 16).foldl (fun d s =>
      sramWrite d (contextBase + 0x1000 + 1024 * i + 64 * s) (slice t.bytes.toList (64 * s) 64) (t.poison[s]?.getD false)) d) c1
  sramWrite c2 (contextBase + 0x2000) (contextTail c) false

/-- A 32-bit word of SRAM. -/
def sramWord (c : Core) (a : Nat) : W32 := BitVec.ofNat 32 (leNat (sramRead c a 4))

/-- The context read back from the context area (R92, R93, R96, R135); the fill counts of the A tiles advance (R200). The rings' write
pointers stay: deliveries go on while a core is suspended. The flag words stay too: boundaries gather and clear them meanwhile (R157), and
the area's copies are those of the save (assumption log 14). -/
def restoreContext (c : Core) : Core :=
  let b := contextBase
  { c with
    acc := vecOf 4 (fun i =>
      accOf (vecOf 256 (fun k => sramWord c (b + 1024 * i + 4 * k))) (sramPoisoned c (b + 1024 * i) 1024))
    stg := vecOf 4 (fun i =>
      ⟨vecOf 1024 (fun k => memRead c.sram (b + 0x1000 + 1024 * i + k)),
        vecOf 16 (fun s => sramPoisoned c (b + 0x1000 + 1024 * i + 64 * s) 64),
        vecOf 32 (fun k => memRead c.sram (b + 0x21F0 + 32 * i + k)), (stgGet c i).fill + 1⟩)
    x := vecOf 32 (fun i => sramWord c (b + 0x2000 + 4 * i))
    ag := vecOf 8 (fun i => agOf (leNat (sramRead c (b + 0x2080 + 16 * i) 16)))
    loops := vecOf 4 (fun i => sramWord c (b + 0x2100 + 4 * i))
    pc := (sramWord c (b + 0x2110)).toNat
    ringRd := vecOf 8 (fun r => (sramWord c (b + 0x2120 + 8 * r)).toNat)
    lanes := vecOf 16 (fun i => BitVec.ofNat 64 (leNat (sramRead c (b + 0x2160 + 8 * i) 8))) }

/-! ### The core's place on the wafer (02_wafer_grid.md R27, R28) -/

/-- The row entry of a field row in the running grid (R38; 63 no defect). -/
def rowEntry (s : State) (f i : Nat) : Nat := amGet 63 s.grid.runRows (f * 32 + i)

/-- The detour column of a field row (R27, R38). -/
def detourCol (s : State) (f i : Nat) : Nat :=
  let d := rowEntry s f i % 64
  if d ≤ 32 then d else 32

/-- physical_of of R28. -/
def physicalOf (s : State) (c : CoreId) : PhysId :=
  let f := coreField s c
  let j := c.col % 32
  let d := detourCol s f (c.row % 32)
  ⟨33 * (f % 10) + (if d ≤ j then j + 1 else j), c.row⟩

/-- A physical core reported as [8:0] column and [17:9] row. -/
def physWord (p : PhysId) : Nat := p.col + p.row * 512

/-- The logical core at a physical position: none for an excluded core, an unused spare, or outside the grid. -/
def logicalOf (s : State) (p : PhysId) : Option CoreId :=
  let px := p.col / 33
  let pj := p.col % 33
  let ex := getN s Key.excludedFieldColumn
  let d := detourCol s (10 * (p.row / 32) + px) (p.row % 32)
  if px = ex ∨ pj = d ∨ 288 ≤ p.row ∨ 330 ≤ p.col ∨ logicalCols s = 0 then none
  else some ⟨32 * (if ex < px then px - 1 else px) + (if d < pj then pj - 1 else pj), p.row⟩

end Sys2Proof.Machine
end

