-- ==== Sys2Proof/Machine/TileWord.lean ====
section
/-! DEFINITION. The 64-bit words of tile programs (07_tile_programs.md R166, R167, R170 to R173): the word of each instruction, the bits that
its format assigns, and the instruction that a word spells. -/

namespace Sys2Proof.Machine

/-- A word: the opcode in [63:58] (R166) and fields given with their lowest bit. -/
def tileWord (op : Nat) (fs : List (Nat × Nat)) : Nat := op * 2 ^ 58 + (fs.map (fun f => f.1 * 2 ^ f.2)).sum

/-! ### Control and scalar instructions (R170) -/

def wordNop : Nat := 0
def wordHalt : Nat := tileWord 0x01 []
def wordLoop (ln : BitVec 2) (target : BitVec 13) : Nat := tileWord 0x02 [(ln.toNat, 56), (target.toNat, 43)]
def wordLset (ln : BitVec 2) (src : Bool) (xs : BitVec 5) (imm : W32) : Nat :=
  tileWord 0x03 [(ln.toNat, 56), (b2n src, 55), (xs.toNat, 50), (imm.toNat, 0)]
def wordBr (cond : BitVec 3) (xa xb : BitVec 5) (target : BitVec 13) : Nat :=
  tileWord 0x04 [(cond.toNat, 55), (xa.toNat, 50), (xb.toNat, 45), (target.toNat, 32)]
def wordWaitb (rel : Bool) (xs : BitVec 5) (count : BitVec 16) : Nat :=
  tileWord 0x05 [(b2n rel, 57), (xs.toNat, 50), (count.toNat, 0)]
def wordWp (report : Bool) (waypoint : W32) : Nat := tileWord 0x06 [(b2n report, 57), (waypoint.toNat, 0)]
def wordSync (mode : Nat) (barrier : BitVec 4) (xr : BitVec 5) (word : BitVec 19) (expected : Nat) : Nat :=
  tileWord 0x07 [(mode, 56), (barrier.toNat, 52), (xr.toNat, 47), (word.toNat, 28), (expected, 0)]
def wordXli (xd : BitVec 5) (imm : W32) : Nat := tileWord 0x08 [(xd.toNat, 53), (imm.toNat, 0)]
def wordXop (xd xa xb : BitVec 5) (func : BitVec 4) (immb : Bool) (imm : W32) : Nat :=
  tileWord 0x09 [(xd.toNat, 53), (xa.toNat, 48), (xb.toNat, 43), (func.toNat, 39), (b2n immb, 38), (imm.toNat, 0)]
def wordAgset (an fld : BitVec 3) (src : Bool) (xs : BitVec 5) (imm : BitVec 20) : Nat :=
  tileWord 0x0A [(an.toNat, 55), (fld.toNat, 52), (b2n src, 51), (xs.toNat, 46), (imm.toNat, 0)]

/-! ### SRAM and router instructions (R171) -/

def wordLda (dst : BitVec 4) (an : BitVec 3) (post : Bool) (exp rows : BitVec 3) (xs : BitVec 5) (ap : BitVec 3) (ppost : Bool) : Nat :=
  tileWord 0x10 [(dst.toNat, 54), (an.toNat, 51), (b2n post, 50), (exp.toNat, 47), (rows.toNat, 44), (xs.toNat, 39), (ap.toNat, 36),
    (b2n ppost, 35)]
def wordLdat (dst : BitVec 4) (an : BitVec 3) (post : Bool) (rows : BitVec 3) (xs : BitVec 5) (width : BitVec 2)
    (srcRowsM1 : BitVec 6) : Nat :=
  tileWord 0x11 [(dst.toNat, 54), (an.toNat, 51), (b2n post, 50), (rows.toNat, 44), (xs.toNat, 39), (width.toNat, 37),
    (srcRowsM1.toNat, 31)]
def wordStv (src : BitVec 4) (an : BitVec 3) (post : Bool) (xs : BitVec 5) : Nat :=
  tileWord 0x12 [(src.toNat, 54), (an.toNat, 51), (b2n post, 50), (xs.toNat, 45)]
def wordSend (an : BitVec 3) (post : Bool) (flitsM1 : BitVec 6) (vc : BitVec 2) (trailer : Bool) (xq xh : BitVec 5) : Nat :=
  tileWord 0x18 [(an.toNat, 55), (b2n post, 54), (flitsM1.toNat, 48), (vc.toNat, 46), (b2n trailer, 45), (xq.toNat, 40), (xh.toNat, 35)]
def wordRecv (ring dst exp rows : BitVec 3) (flitsM1 : BitVec 6) : Nat :=
  tileWord 0x19 [(ring.toNat, 55), (dst.toNat, 52), (exp.toNat, 49), (rows.toNat, 46), (flitsM1.toNat, 40)]
def wordMcjoin (column : Bool) (group : BitVec 6) (join : Bool) : Nat :=
  tileWord 0x1A [(b2n column, 57), (group.toNat, 51), (b2n join, 50)]

/-! ### Array instructions (R172) -/

/-- The fields that MMA, MMAS and MMAX share. -/
def mmaFieldList (m : MmaFields) : List (Nat × Nat) :=
  [(m.shape.toNat, 54), (m.fmt.toNat, 50), (m.acc.toNat, 48), (b2n m.asel, 47), (b2n m.bsel, 46), (m.chunk.toNat, 40), (m.kcM1.toNat, 35)]
def wordMma (m : MmaFields) : Nat := tileWord 0x20 (mmaFieldList m)
def wordMmas (m : MmaFields) (drop ixsel : Bool) : Nat := tileWord 0x21 (mmaFieldList m ++ [(b2n drop, 34), (b2n ixsel, 33)])
def wordMmax (m : MmaFields) (pass : BitVec 3) : Nat := tileWord 0x22 (mmaFieldList m ++ [(pass.toNat, 32)])
def wordAccz (acc : BitVec 2) : Nat := tileWord 0x23 [(acc.toNat, 48)]
def wordAccout (acc : BitVec 2) (ad : BitVec 3) (post : Bool) (xs : BitVec 5) : Nat :=
  tileWord 0x24 [(acc.toNat, 48), (ad.toNat, 45), (b2n post, 44), (xs.toNat, 39)]

/-! ### Vector, compaction, random, check and flag instructions (R173) -/

def wordVop (func : BitVec 6) (ad aa ab ac : BitVec 3) (scalb : Bool) (xb : BitVec 5) (post : BitVec 4) (count : BitVec 14) : Nat :=
  tileWord 0x28 [(func.toNat, 52), (ad.toNat, 49), (aa.toNat, 46), (ab.toNat, 43), (ac.toNat, 40), (b2n scalb, 39), (xb.toNat, 34),
    (post.toNat, 30), (count.toNat, 16)]
def wordVred (func : BitVec 2) (ad aa : BitVec 3) (postD postA : Bool) (count : BitVec 14) : Nat :=
  tileWord 0x29 [(func.toNat, 56), (ad.toNat, 49), (aa.toNat, 46), (b2n postD, 33), (b2n postA, 32), (count.toNat, 16)]
def wordVcvt (f : VcvtFields) : Nat :=
  tileWord 0x2A [(f.srcf.toNat, 54), (f.dstf.toNat, 50), (f.rnd.toNat, 48), (b2n f.sat, 47), (f.ad.toNat, 44), (f.aa.toNat, 41),
    (b2n f.postD, 40), (b2n f.postA, 39), (f.key.toNat, 35), (f.xi.toNat, 30), (b2n f.stepSrc, 29), (f.xs.toNat, 24), (f.count.toNat, 10)]
def wordGath (mode : Nat) (asel ixsel : Bool) (ad : BitVec 3) (post : Bool) : Nat :=
  tileWord 0x30 [(mode, 56), (b2n asel, 55), (b2n ixsel, 54), (ad.toNat, 51), (b2n post, 50)]
def wordRngk (ad : BitVec 3) (post : Bool) (key : BitVec 4) (stepSrc : Bool) (xs xi : BitVec 5) (form : Bool) (count : BitVec 14) : Nat :=
  tileWord 0x31 [(ad.toNat, 55), (b2n post, 54), (key.toNat, 50), (b2n stepSrc, 49), (xs.toNat, 44), (xi.toNat, 39), (b2n form, 38),
    (count.toNat, 24)]
def wordRngf (ad : BitVec 3) (post form : Bool) (count : BitVec 14) : Nat :=
  tileWord 0x32 [(ad.toNat, 55), (b2n post, 54), (b2n form, 38), (count.toNat, 24)]
def wordChk (ringSrc : Bool) (an : BitVec 3) (post : Bool) (flitsM1 : BitVec 6) (xq xd : BitVec 5) (poison : Bool) : Nat :=
  tileWord 0x33 [(b2n ringSrc, 57), (an.toNat, 54), (b2n post, 53), (flitsM1.toNat, 47), (xq.toNat, 42), (xd.toNat, 37), (b2n poison, 36)]
def wordFlg (unit : BitVec 2) (xd : BitVec 5) (clear : BitVec 4) : Nat :=
  tileWord 0x34 [(unit.toNat, 56), (xd.toNat, 51), (clear.toNat, 47)]

/-! ### The bits that a format assigns (R167) -/

/-- The number with the bits of the given fields set. -/
def fieldMask2 (fs : List (Nat × Nat)) : Nat := (fs.map (fun f => 2 ^ (f.1 + 1) - 2 ^ f.2)).sum

/-- The bits that the formats of R170 and R171 assign beyond the opcode. -/
def tileFields0 (op : Nat) : List (Nat × Nat) :=
  match op with
  | 0x02 => [(57, 43)]
  | 0x03 => [(57, 50), (31, 0)]
  | 0x04 => [(57, 32)]
  | 0x05 => [(57, 57), (54, 50), (15, 0)]
  | 0x06 => [(57, 57), (31, 0)]
  | 0x07 => [(57, 28), (15, 0)]
  | 0x08 => [(57, 53), (31, 0)]
  | 0x09 => [(57, 38), (31, 0)]
  | 0x0A => [(57, 46), (19, 0)]
  | 0x10 => [(57, 35)]
  | 0x11 => [(57, 50), (46, 31)]
  | 0x12 => [(57, 45)]
  | 0x18 => [(57, 35)]
  | 0x19 => [(57, 40)]
  | 0x1A => [(57, 50)]
  | _ => []

/-- The bits that the formats of R172 and R173 assign beyond the opcode. -/
def tileFields1 (op : Nat) : List (Nat × Nat) :=
  match op with
  | 0x20 => [(57, 46), (43, 40), (38, 35)]
  | 0x21 => [(57, 46), (43, 40), (38, 33)]
  | 0x22 => [(57, 46), (43, 40), (38, 32)]
  | 0x23 => [(49, 48)]
  | 0x24 => [(49, 39)]
  | 0x28 => [(57, 16)]
  | 0x29 => [(57, 56), (51, 46), (33, 32), (29, 16)]
  | 0x2A => [(57, 10)]
  | 0x30 => [(57, 50)]
  | 0x31 => [(57, 24)]
  | 0x32 => [(57, 54), (38, 24)]
  | 0x33 => [(57, 36)]
  | 0x34 => [(57, 47)]
  | _ => []

/-- The opcode of a word and the bits that its format assigns, the opcode's among them. -/
abbrev tileOp (w : Nat) : Nat := bits w 63 58
def tileMask (op : Nat) : Nat := fieldMask2 ((63, 58) :: (tileFields0 op ++ tileFields1 op))

/-- The bits [hi:lo] of a word as a field of its width. -/
def wf (w hi lo : Nat) : BitVec (hi + 1 - lo) := BitVec.ofNat _ (w / 2 ^ lo)

/-- The fields of MMA, MMAS and MMAX in a word. -/
def mmaOf (w : Nat) : MmaFields :=
  ⟨wf w 57 54, wf w 53 50, wf w 49 48, bit w 47, bit w 46, wf w 43 40, wf w 38 35⟩

/-- The control, scalar, SRAM and router instruction that a word spells, issued as `i`; none for a reserved opcode or mode (R166). -/
def tileInstr0 (i : Issue) (w : Nat) : Option Instr :=
  match tileOp w with
  | 0x00 => some (.nop i)
  | 0x01 => some (.halt i)
  | 0x02 => some (.loop i (wf w 57 56) (wf w 55 43))
  | 0x03 => some (.lset i (wf w 57 56) (bit w 55) (wf w 54 50) (wf w 31 0))
  | 0x04 => some (.br i (wf w 57 55) (wf w 54 50) (wf w 49 45) (wf w 44 32))
  | 0x05 => some (.waitb i (bit w 57) (wf w 54 50) (wf w 15 0))
  | 0x06 => some (.wp i (bit w 57) (wf w 31 0))
  | 0x07 =>
    if bits w 57 56 = 0 then some (.syncWait i (wf w 55 52) (wf w 51 47) (wf w 46 28))
    else if bits w 57 56 = 1 then some (.syncInit i (wf w 55 52) (wf w 51 47) (wf w 46 28) (wf w 15 0)) else none
  | 0x08 => some (.xli i (wf w 57 53) (wf w 31 0))
  | 0x09 => some (.xop i (wf w 57 53) (wf w 52 48) (wf w 47 43) (wf w 42 39) (bit w 38) (wf w 31 0))
  | 0x0A => some (.agset i (wf w 57 55) (wf w 54 52) (bit w 51) (wf w 50 46) (wf w 19 0))
  | 0x10 => some (.lda i (wf w 57 54) (wf w 53 51) (bit w 50) (wf w 49 47) (wf w 46 44) (wf w 43 39) (wf w 38 36) (bit w 35))
  | 0x11 => some (.ldat i (wf w 57 54) (wf w 53 51) (bit w 50) (wf w 46 44) (wf w 43 39) (wf w 38 37) (wf w 36 31))
  | 0x12 => some (.stv i (wf w 57 54) (wf w 53 51) (bit w 50) (wf w 49 45))
  | 0x18 => some (.send i (wf w 57 55) (bit w 54) (wf w 53 48) (wf w 47 46) (bit w 45) (wf w 44 40) (wf w 39 35))
  | 0x19 => some (.recv i (wf w 57 55) (wf w 54 52) (wf w 51 49) (wf w 48 46) (wf w 45 40))
  | 0x1A => some (.mcjoin i (bit w 57) (wf w 56 51) (bit w 50))
  | _ => none

/-- The array, vector, compaction, random, check and flag instruction that a word spells, on a fault-free array. -/
def tileInstr1 (i : Issue) (w : Nat) : Option Instr :=
  let ok : ArrayFault := ⟨[], [], false, false, false⟩
  match tileOp w with
  | 0x20 => some (.mma i (mmaOf w) ok)
  | 0x21 => some (.mmas i (mmaOf w) (bit w 34) (bit w 33) ok)
  | 0x22 => some (.mmax i (mmaOf w) (wf w 34 32) ok)
  | 0x23 => some (.accz i (wf w 49 48))
  | 0x24 => some (.accout i (wf w 49 48) (wf w 47 45) (bit w 44) (wf w 43 39) false)
  | 0x28 => some (.vop i (wf w 57 52) (wf w 51 49) (wf w 48 46) (wf w 45 43) (wf w 42 40) (bit w 39) (wf w 38 34) (wf w 33 30) (wf w 29 16))
  | 0x29 => some (.vred i (wf w 57 56) (wf w 51 49) (wf w 48 46) (bit w 33) (bit w 32) (wf w 29 16))
  | 0x2A => some (.vcvt i ⟨wf w 57 54, wf w 53 50, wf w 49 48, bit w 47, wf w 46 44, wf w 43 41, bit w 40, bit w 39, wf w 38 35,
      wf w 34 30, bit w 29, wf w 28 24, wf w 23 10⟩)
  | 0x30 =>
    if bits w 57 56 = 0 then some (.index24 i (bit w 55) (bit w 54))
    else if bits w 57 56 = 1 then some (.zeroMap i (bit w 55) (wf w 53 51) (bit w 50)) else none
  | 0x31 => some (.rngk i (wf w 57 55) (bit w 54) (wf w 53 50) (bit w 49) (wf w 48 44) (wf w 43 39) (bit w 38) (wf w 37 24))
  | 0x32 => some (.rngf i (wf w 57 55) (bit w 54) (bit w 38) (wf w 37 24))
  | 0x33 => some (.chk i (bit w 57) (wf w 56 54) (bit w 53) (wf w 52 47) (wf w 46 42) (wf w 41 37) (bit w 36))
  | 0x34 => some (.flg i (wf w 57 56) (wf w 55 51) (wf w 50 47))
  | _ => none

/-- The tile instruction that a word spells (R166, R170 to R173). -/
def tileInstr (i : Issue) (w : Nat) : Option Instr := (tileInstr0 i w).orElse (fun _ => tileInstr1 i w)

/-- The word of a tile instruction; a field that the instruction's mode does not use is zero. Other commands have none. -/
def instrWord (c : Instr) : Option Nat :=
  match c with
  | .nop _ => some wordNop
  | .halt _ => some wordHalt
  | .loop _ ln target => some (wordLoop ln target)
  | .lset _ ln src xs imm => some (wordLset ln src xs imm)
  | .br _ cond xa xb target => some (wordBr cond xa xb target)
  | .waitb _ rel xs count => some (wordWaitb rel xs count)
  | .wp _ report waypoint => some (wordWp report waypoint)
  | .syncInit _ barrier xr word expected => some (wordSync 1 barrier xr word expected.toNat)
  | .syncWait _ barrier xr word => some (wordSync 0 barrier xr word 0)
  | .xli _ xd imm => some (wordXli xd imm)
  | .xop _ xd xa xb func immb imm => some (wordXop xd xa xb func immb imm)
  | .agset _ an fld src xs imm => some (wordAgset an fld src xs imm)
  | .lda _ dst an post exp rows xs ap ppost => some (wordLda dst an post exp rows xs ap ppost)
  | .ldat _ dst an post rows xs width n => some (wordLdat dst an post rows xs width n)
  | .stv _ src an post xs => some (wordStv src an post xs)
  | .send _ an post n vc trailer xq xh => some (wordSend an post n vc trailer xq xh)
  | .recv _ ring dst exp rows n => some (wordRecv ring dst exp rows n)
  | .mcjoin _ column group join => some (wordMcjoin column group join)
  | .mma _ m _ => some (wordMma m)
  | .mmas _ m drop ixsel _ => some (wordMmas m drop ixsel)
  | .mmax _ m pass _ => some (wordMmax m pass)
  | .accz _ acc => some (wordAccz acc)
  | .accout _ acc ad post xs _ => some (wordAccout acc ad post xs)
  | .vop _ func ad aa ab ac scalb xb post count => some (wordVop func ad aa ab ac scalb xb post count)
  | .vred _ func ad aa postD postA count => some (wordVred func ad aa postD postA count)
  | .vcvt _ f => some (wordVcvt f)
  | .index24 _ asel ixsel => some (wordGath 0 asel ixsel 0 false)
  | .zeroMap _ asel ad post => some (wordGath 1 asel false ad post)
  | .rngk _ ad post key stepSrc xs xi form count => some (wordRngk ad post key stepSrc xs xi form count)
  | .rngf _ ad post form count => some (wordRngf ad post form count)
  | .chk _ ringSrc an post n xq xd poison => some (wordChk ringSrc an post n xq xd poison)
  | .flg _ unit xd clear => some (wordFlg unit xd clear)
  | _ => none

/-- Whether a word in SRAM spells an instruction, given as that instruction's own word: every field that its mode uses agrees. -/
def spells (have_ want : Nat) : Bool := ((tileInstr ⟨⟨0, 0⟩, [], 0⟩ have_).bind instrWord) == some want

/-- The exception of a word of a known opcode with a reserved MODE, which no instruction's own word spells (GATH and SYNC, MODE 2 and 3):
ILLEGAL_OPERAND, and before it UNIT_ABSENT for GATH on an engine without compaction engines (R168, R169, R185). -/
def modeExc (v : Variant) (w : Nat) : Option Nat :=
  if (tileInstr ⟨⟨0, 0⟩, [], 0⟩ w).isSome then none else if tileOp w = 0x30 ∧ v = .l then some 6 else some 2

/-- The instruction word at the program counter. -/
def fetchWord (c : Core) : Nat := leNat (memBytes c.sram (8 * c.pc) 8)

end Sys2Proof.Machine
end

