-- ==== Sys2Proof/Machine/Tile.lean ====
section
/-! DEFINITION. The issue of a tile instruction: fetch, SRAM errors, exceptions and waits (07_tile_programs.md R165 to R169, R174 to
R177; 04_core.md R81, R91, R94). -/

namespace Sys2Proof.Machine

/-- What an instruction does at issue: raise an exception (its code of R168), hold at issue, wait (R177), complete with the next
instruction at `pc`, complete and then raise an exception whose report carries more data (ARRAY_CHECK, R132, R169), or end the
program (HALT). -/
inductive TOut where
  | exc (code : Nat)
  | hold
  | wait (s : State) (c : Core) (w : Wait)
  | done (s : State) (c : Core) (pc : Nat)
  | late (s : State) (c : Core) (code : Nat) (report : List Nat)
  | halt (s : State) (c : Core)

/-- The first condition that holds, in R169's order. -/
def firstExc : List (Bool × Nat) → Option Nat
  | [] => none
  | (b, code) :: rest => if b then some code else firstExc rest

abbrev excIllegalOpcode : Nat := 1
abbrev excIllegalOperand : Nat := 2
abbrev excInstrPoison : Nat := 3
abbrev excSramRegion : Nat := 4
abbrev excAlignment : Nat := 5
abbrev excUnitAbsent : Nat := 6
abbrev excArrayOperand : Nat := 7
abbrev excArraySequence : Nat := 8
abbrev excArrayCheck : Nat := 9
abbrev excExpandOperand : Nat := 10
abbrev excSendRefused : Nat := 11
abbrev excSyncTimeout : Nat := 12

/-- Whether an opcode is assigned (R166). -/
def opcodeKnown (op : Nat) : Bool :=
  decide (op ≤ 0x0A) || (decide (0x10 ≤ op) && decide (op ≤ 0x12)) || (decide (0x18 ≤ op) && decide (op ≤ 0x1A)) ||
    (decide (0x20 ≤ op) && decide (op ≤ 0x24)) || (decide (0x28 ≤ op) && decide (op ≤ 0x2A)) ||
    (decide (0x30 ≤ op) && decide (op ≤ 0x34))

/-- The exception of the fetch at the program counter (R85, R168, R169). -/
def fetchExc (c : Core) : Option Nat :=
  if progEnd c ≤ 8 * c.pc then some excSramRegion
  else if sramPoisoned c (8 * c.pc) 8 then some excInstrPoison
  else if opcodeKnown ((memRead c.sram (8 * c.pc + 7)).toNat / 4) then none
  else some excIllegalOpcode

/-- One SRAM error met by a read (R81); 5100:02 counts the lines that it poisons (R109). -/
def sramError (sc : State × Core) (e : SramErr) : State × Core :=
  let (s, c) := sc
  if 65536 ≤ e.word then sc
  else if e.correctable then
    (count64 (raiseNow s Key.coreFlags 0) Key.sramCorrectedTotal, { c with writeback := nsIns e.word c.writeback })
  else
    let s := raiseNow s Key.coreFlags 1
    (if c.poisonLines.contains (e.word / 8) then s else count64 s Key.sramUncorrectedTotal,
      { c with poisonLines := nsIns (e.word / 8) c.poisonLines, uncorrSeen := true })

/-- An exception (R94, R95, R169): the cause and the program counter are recorded, the context is saved and the core enters FAULTED;
the capture of 6212 and the count of 6213 advance; ARRAY_SEQUENCE discards an open EX32 chunk (R126). Every cause but ARRAY_CHECK sends the CORE_EXCEPTION report and sets
CORE_EXCEPTION; ARRAY_CHECK sends the ARRAY_FAULT report, with the capture data of the failed check (R132). -/
def takeException (s : State) (id : CoreId) (c : Core) (code pc chunkPc : Nat) (report : List Nat) : State :=
  let c := saveContext { c with
    st := .faulted, excCause := code, excPc := pc, pc := pc, wait := none, progressed := true,
    ex32 := if code = 8 then none else c.ex32 }
  let s := setCore s id c
  let s := addN s (Key.excCount 0 + code - 1) 32 1
  let s := if getN s Key.excCaptureEmpty = 1 then
      setN (setN (setN (setN (setN (setN s Key.excCaptureCore (coreWord id)) Key.excCaptureCause code) Key.excCapturePc pc)
        Key.excCaptureChunkPc chunkPc) Key.excCaptureBeat (beatNow s)) Key.excCaptureEmpty 0
    else s
  if code = excArrayCheck then emit s (.vc0Report 1 ([coreWord id, code, pc] ++ report))
  else emit (raiseNow s Key.coreFlags 2) (.vc0Report 2 [coreWord id, code, pc])

/-- The waits of an instruction that never waits. -/
abbrev noWait (_ : Wait) : Bool := false

/-- Whether the core takes the instruction: RUNNING, or WAITING in it (R91, R177). -/
def takesIssue (c : Core) (mine : Wait → Bool) : Bool :=
  match c.st, c.wait with
  | .running, _ => true
  | .waiting, some w => mine w
  | _, _ => false

/-- The issue of the instruction of a word on a core. The core fetches the word at its program counter (R166, R170 to R173): where that
spells another instruction, this one does not issue and nothing changes; a word that spells none raises its exception. -/
def tileIssue (i : Issue) (word : Nat) (mine : Wait → Bool) (body : Core → State → TOut) (s : State) : State :=
  let c := getCore s i.core
  if inGrid s i.core && takesIssue c mine then
    let c := { c with
      lanes := c.lanes.map (fun l => advanceLaneBy l i.cycles), wait := if c.st = .running then none else c.wait, progressed := true }
    let (s1, c) := i.errs.foldl sramError (s, c)
    match fetchExc c with
    | some code => takeException s1 i.core c code c.pc 0 []
    | none =>
      if !spells (fetchWord c) word then
        match modeExc s.variant (fetchWord c) with
        | some code => takeException s1 i.core c code c.pc 0 []
        | none => s
      else match body c s1 with
      | .exc code => takeException s1 i.core c code c.pc 0 []
      | .hold => s
      | .wait s2 c2 w => setCore s2 i.core { c2 with st := .waiting, wait := some w }
      | .done s2 c2 pc => setCore s2 i.core { c2 with st := .running, wait := none, pc := pc }
      | .halt s2 c2 => setCore s2 i.core { c2 with st := .halted, wait := none, pc := c.pc + 1 }
      | .late s2 c2 code report => takeException s2 i.core c2 code (c.pc + 1) c.pc report
  else s

/-- The instruction completes and the next one follows. -/
def TOut.next (s : State) (c : Core) : TOut := .done s c (c.pc + 1)

/-- The instruction's exception where one of the conditions holds, else its effect. -/
def unlessExc (conds : List (Bool × Nat)) (k : TOut) : TOut :=
  match firstExc conds with
  | some code => .exc code
  | none => k

/-- The current step number (R165). -/
def stepNow (s : State) : Nat := s.stp.step

end Sys2Proof.Machine
end

