-- ==== Sys2Proof/Machine/Inject.lean ====
section
/-! DEFINITION. How a packet enters the mesh (03_wafer_network.md R54 to R61, R70): the refusal of a header by the injecting endpoint, the
route of a packet, the lanes of the routers, and injection. -/

namespace Sys2Proof.Machine

/-! ### Packets (R57, R58) -/

/-- Whether a row multicast's span crosses a dark band (R58, R70). -/
def darkSpan (s : State) (row lo hi : Nat) : Bool :=
  let ex := getN s Key.excludedFieldColumn
  ex != 0xFF && bit (getN s Key.darkBands) (row / 32) && decide (lo < 32 * ex) && decide (32 * ex ≤ hi)

/-- Whether the injecting endpoint refuses a packet (R58). -/
def headerRefused (s : State) (h : W64) (vc : Nat) : Bool :=
  let cols := logicalCols s
  let m := hdrMode h
  let col := hdrCol h
  let row := hdrRow h
  let lo := hdrLo h
  let hi := hdrHi h
  let out := hdrExit h
  decide (5 ≤ m) || decide (hdrField h 63 61 ≠ 0)
  || decide (cols ≤ col) || decide (287 < row)
  || (match m with
    | 0 => decide (lo ≠ 0) || decide (hi ≠ 0) || decide (hdrGroup h ≠ 0) || decide (out ≠ 0) || decide (hdrEndpoint h ≠ 0)
    | 1 => decide (lo ≠ 0) || decide (hi ≠ 0) || decide (hdrGroup h ≠ 0) ||
        !(match out with
          | 0 => row == 0
          | 1 => col + 1 == cols
          | 2 => row == 287
          | _ => col == 0)
    | 2 => decide (col ≠ 0) || decide (hi < lo) || decide (cols ≤ hi) || decide (out ≠ 0) || decide (hdrEndpoint h ≠ 0) ||
        darkSpan s row lo hi
    | 3 => decide (row ≠ 0) || decide (hi < lo) || decide (287 < hi) || decide (out ≠ 0) || decide (hdrEndpoint h ≠ 0)
    | _ => decide (col ≠ 0) || decide (row ≠ 0) || decide (lo ≠ 0) || decide (hi ≠ 0) || decide (hdrGroup h ≠ 0) ||
        decide (out ≠ 0) || decide (hdrEndpoint h ≠ 0) || decide (vc ≠ 0))

/-- Whether the X leg of a unicast crosses a dark band, so that a slip-road leg comes first (R70). -/
def needsSlip (s : State) (at_ : CoreId) (h : W64) : Bool :=
  decide (hdrMode h ≤ 1) && darkSpan s at_.row (min at_.col (hdrCol h)) (max at_.col (hdrCol h))

/-! ### Routes (R59, R60, R70) -/

/-- Whether a row's band at the excluded column is dark (R70). -/
def bandDark (s : State) (fieldRow : Nat) : Bool := bit (getN s Key.darkBands) fieldRow

/-- The row to which a slip-road leg takes a packet (R70): the nearest row of a field that is not dark, the northern one of two equally
near; none where all nine are dark. -/
def slipRow (s : State) (row : Nat) : Option Nat :=
  let rows := (List.range 9).filterMap (fun y => if bandDark s y then none
    else some (if row < 32 * y then 32 * y else if 32 * y + 31 < row then 32 * y + 31 else row))
  let dist (r : Nat) : Nat := if r ≤ row then 2 * (row - r) else 2 * (r - row) + 1
  (sortBy dist rows).head?

/-- The output of a unicast at a router (R59): its X leg, its Y leg, and its exit or its core. -/
def unicastOut (at_ : CoreId) (h : W64) : Nat :=
  if at_.col < hdrCol h then 1
  else if hdrCol h < at_.col then 3
  else if at_.row < hdrRow h then 2
  else if hdrRow h < at_.row then 0
  else if hdrMode h = 1 then hdrExit h else 4

/-- The outputs of a slip-road leg (R70). With all bands dark it runs to row 0 and crosses through the north crescent, to enter again at
row 0 of the destination column. -/
def slipOut (s : State) (at_ : CoreId) (h : W64) : List (Nat × Leg) :=
  match slipRow s at_.row with
  | some r => if at_.row < r then [(2, .slip)] else if r < at_.row then [(0, .slip)] else [(unicastOut at_ h, .unicast)]
  | none => [(0, if at_.row = 0 then .unicast else .slip)]

/-- A delivery to the router's own core where `p` holds. -/
def localIf (p : Bool) : List (Nat × Leg) := if p then [(4, .unicast)] else []

/-- A row multicast at a router of its row (R60): delivered to a member in the span, and forwarded away from where it came. -/
def rowOuts (s : State) (at_ : CoreId) (h : W64) (east west : Bool) : List (Nat × Leg) :=
  let c := at_.col
  localIf (decide (hdrLo h ≤ c) && decide (c ≤ hdrHi h) && (getCore s at_).rowGroups.getLsbD (hdrGroup h)) ++
    (if east && decide (c < hdrHi h) then [(1, .rowFork false)] else []) ++
    (if west && decide (hdrLo h < c) then [(3, .rowFork true)] else [])

/-- A column multicast at a router of its column (R60). -/
def colOuts (s : State) (at_ : CoreId) (h : W64) (south north : Bool) : List (Nat × Leg) :=
  let r := at_.row
  localIf (decide (hdrLo h ≤ r) && decide (r ≤ hdrHi h) && (getCore s at_).colGroups.getLsbD (hdrGroup h)) ++
    (if south && decide (r < hdrHi h) then [(2, .colFork false)] else []) ++
    (if north && decide (hdrLo h < r) then [(0, .colFork true)] else [])

/-- Whether a field is parked, or parks (R458). -/
def fieldParked (s : State) (f : Nat) : Bool :=
  getN s (Key.pwrFieldPowerState f) == 6 || getN s (Key.pwrFieldPowerState f) == 5

/-- Whether a router stands in a parked field, whatever its core is. -/
def inParked (s : State) (at_ : CoreId) : Bool := fieldParked s (coreField s at_)

/-- Whether a router delivers broadcast flits to its core: not in a parked field (R68). -/
def takesBroadcast (s : State) (at_ : CoreId) : Bool := !inParked s at_

/-- A broadcast in its source row: delivered, forked north and south, and forwarded along the row (R60). -/
def allOuts (s : State) (at_ : CoreId) (east west : Bool) : List (Nat × Leg) :=
  localIf (takesBroadcast s at_) ++ (if 0 < at_.row then [(0, .colFork true)] else []) ++
    (if at_.row < 287 then [(2, .colFork false)] else []) ++
    (if east && decide (at_.col + 1 < logicalCols s) then [(1, .rowFork false)] else []) ++
    (if west && decide (0 < at_.col) then [(3, .rowFork true)] else [])

/-- A multicast or a broadcast on its first leg (R60). -/
def spreadOut (s : State) (at_ : CoreId) (h : W64) : List (Nat × Leg) :=
  match hdrMode h with
  | 2 => if at_.row < hdrRow h then [(2, .spread)] else if hdrRow h < at_.row then [(0, .spread)] else rowOuts s at_ h true true
  | 3 => if at_.col < hdrCol h then [(1, .spread)] else if hdrCol h < at_.col then [(3, .spread)] else colOuts s at_ h true true
  | _ => allOuts s at_ true true

/-- The outputs that a packet takes at a router, each with its next leg, decided as its head arrives there (R61). R70 speaks of unicasts and
of spans that cross a dark band: a broadcast, the X leg of a column multicast and a row multicast on its way to a span beyond the column
pass straight across one (DESIGN CHOICE, assumption log 93). -/
def routeOf (s : State) (at_ : CoreId) (h : W64) (leg : Leg) : List (Nat × Leg) :=
  match leg with
  | .unicast => [(unicastOut at_ h, .unicast)]
  | .slip => slipOut s at_ h
  | .spread => spreadOut s at_ h
  | .rowFork west => if hdrMode h = 4 then allOuts s at_ (!west) west else rowOuts s at_ h (!west) west
  | .colFork north =>
    if hdrMode h = 4 then
      localIf (takesBroadcast s at_) ++
        (if north then (if 0 < at_.row then [(0, .colFork true)] else []) else if at_.row < 287 then [(2, .colFork false)] else [])
    else colOuts s at_ h (!north) north

/-! ### Lanes (R54, R56) -/

/-- The lane of a router's input port (0 north, 1 east, 2 south, 3 west, 4 local) for a channel: its main lane or its slip-road lane. -/
def laneKey (c : CoreId) (port vc : Nat) (slip : Bool) : Nat := ((coreKey c * 5 + port) * 4 + vc) * 2 + b2n slip

/-- The router of a lane. -/
def laneCore (k : Nat) : CoreId := keyCore (k / 40)

/-- A lane. -/
def getLane (s : State) (k : Nat) : Lane := amGet Lane.default s.mesh.lanes k

/-- The state with a lane replaced. -/
def setLane (s : State) (k : Nat) (l : Lane) : State :=
  { s with mesh := { s.mesh with lanes := amPut Lane.default l s.mesh.lanes k } }

/-- The leg on which a packet sets out at a router (R59, R60, R70). -/
def firstLeg (s : State) (at_ : CoreId) (h : W64) : Leg :=
  if needsSlip s at_ h then .slip else if hdrMode h ≤ 1 then .unicast else .spread

/-- Whether a leg runs in slip-road lanes: a slip-road leg (R70) and the Y leg of a row multicast (R60). -/
def slipLeg (h : W64) (leg : Leg) : Bool :=
  match leg with
  | .slip => true
  | .spread => hdrMode h == 2
  | _ => false

/-- The flits that a lane holds at most (R56). -/
def laneSize (slip : Bool) : Nat := if slip then 4 else 8

/-- A row of a field column, by the physical field column and the row. -/
def rowMark (fieldCol row : Nat) : Nat := fieldCol * 512 + row

/-- Whether a router's row takes no new head flits (R74). -/
def rowClosed (s : State) (c : CoreId) : Bool := s.mesh.closed.contains (rowMark (coreField s c % 10) c.row)

/-! ### Broadcasts that parked fields miss (R461) -/

/-- The flits of the mesh: those of its lanes and crossings, and those that endpoints have still to inject. -/
def meshFlits (s : State) : List MFlit :=
  s.mesh.lanes.flatMap (fun e => e.2.flits) ++ s.mesh.fifos.flatMap (fun e => e.2) ++ s.mesh.waiting.flatMap (fun e => e.2)

/-- The entries of the broadcast log that a field waits for. -/
def loggedBroadcasts (s : State) : Nat := (s.mesh.log.filter (fun e => e.2 != [])).length

/-- A broadcast that fields miss is kept for them in the log of 1,024 entries (R461): the newest entry of the packet takes them on. An
entry without fields is that of a broadcast still in flight, which a field may yet miss. -/
def missBroadcast (s : State) (h : W64) (flit : Flit) (fs : List Nat) : State :=
  let mine (e : Packet × List Nat) : Bool := e.1.hdr == h && e.1.flits.head?.map (fun x => x.data) == some flit.data
  match s.mesh.log.reverse.find? mine with
  | none => s
  | some e =>
    if fs.all e.2.contains then s
    else if e.2 = [] ∧ 1024 ≤ loggedBroadcasts s then
      { s with mesh := { s.mesh with logDropped := fs.foldl (fun a f => nsIns f a) s.mesh.logDropped } }
    else
      let log := (s.mesh.log.reverse.eraseP mine).reverse ++ [(e.1, fs.foldl (fun a f => nsIns f a) e.2)]
      { s with mesh := { s.mesh with log := log } }

/-- The fields that are parked (R458). -/
def parkedFields (s : State) : List Nat := (List.range 90).filter (fieldParked s)

/-- The entries of the log without those that no field waits for, once no broadcast is in flight. -/
def trimLog (s : State) (log : List (Packet × List Nat)) : List (Packet × List Nat) :=
  if (meshFlits s).any (fun m => hdrMode m.hdr == 4) then log else log.filter (fun e => e.2 != [])

/-- A broadcast sets out: the fields parked now miss it (R461). -/
def logBroadcast (s : State) (p : Packet) : State :=
  match p.flits with
  | [] => s
  | x :: _ => missBroadcast { s with mesh := { s.mesh with log := trimLog s s.mesh.log ++ [(p, [])] } } p.hdr x (parkedFields s)

/-! ### Flits taken in (R53, R66, R72) -/

/-- R72: the router sets HEADER_LOST and captures the raw header and its own physical coordinate. -/
def headerLost (s : State) (at_ : CoreId) (raw : W64) : State :=
  let s := raiseNow s Key.meshFlags 2
  if getN s Key.captureEmpty = 1 then
    setN (setN (setN s Key.headerLostCapture raw.toNat) Key.headerLostRouter (physWord (physicalOf s at_))) Key.captureEmpty 0
  else s

/-- A flit enters a lane: a head has its outputs decided (R61), and one whose header is lost has its packet taken in and delivered nowhere
(R72). A broadcast that a parked field's router does not deliver is logged for the field (R461). -/
def enterLane (s : State) (at_ : CoreId) (k : Nat) (m : MFlit) : State :=
  let l := getLane s k
  match m.raw with
  | some h => setLane (headerLost s at_ h) k { l with sink := !m.tail }
  | none =>
    if l.sink then setLane s k { l with sink := !m.tail }
    else
      let outs := if m.head then routeOf s at_ m.hdr m.leg else []
      let s := if m.head && hdrMode m.hdr == 4 && !takesBroadcast s at_ then missBroadcast s m.hdr m.flit [coreField s at_] else s
      setLane s k { l with flits := l.flits ++ [{ m with outs := outs }] }

/-! ### Injection (R55, R58, R59, R174, R181) -/

/-- The flits of a packet as its endpoint holds them. -/
def portFlits (p : Packet) : List MFlit :=
  p.flits.zipIdx.map (fun e => ⟨p.hdr, p.vc, .unicast, e.2 == 0, e.2 + 1 == p.flits.length, e.1, none, []⟩)

/-- The queue of an endpoint before a router's input port: by channel at a crescent connection; at the local port one for the barrier
messages of VC0 and one for the send port. -/
def waitKey (c : CoreId) (port vc : Nat) : Nat := laneKey c port (if port = 4 then min vc 1 else vc) false

/-- The flits that an endpoint has still to inject, oldest first. -/
def getWaiting (s : State) (k : Nat) : List MFlit := amGet [] s.mesh.waiting k

/-- The state with what an endpoint has still to inject replaced. -/
def setWaiting (s : State) (k : Nat) (fs : List MFlit) : State :=
  { s with mesh := { s.mesh with waiting := amPut [] fs s.mesh.waiting k } }

/-- The packets of the send port that have not left it (R174, R178): the one in progress and those behind it. -/
def sendsHeld (s : State) (c : CoreId) : Nat := ((getWaiting s (waitKey c 4 1)).filter (fun m => m.tail)).length

/-- Whether the first flit of a core's queue may enter its router's local lane: the lane has room; none of the send port's while the core's
field is parked (R462), and no head of it while the core is stopped (R92); no head into a closed row (R74). -/
def mayLeave (s : State) (c : CoreId) (m : MFlit) : Bool :=
  let sends := match (getCore s c).st with
    | .running => true
    | .waiting => true
    | .halted => true
    | _ => !m.head
  decide ((getLane s (laneKey c 4 m.vc.toNat false)).flits.length < 8) && !(m.head && rowClosed s c) &&
    (m.vc == 0 || (sends && !inParked s c))

/-- A flit of an endpoint enters a router by an input port: a head sets out on its first leg. -/
def enterPort (s : State) (c : CoreId) (port : Nat) (m : MFlit) : State :=
  enterLane s c (laneKey c port m.vc.toNat false) { m with leg := if m.head then firstLeg s c m.hdr else m.leg }

/-- A core's queue goes on into its router while it may; `fuel` bounds the flits. -/
def fillLocal (s : State) (c : CoreId) (q : Nat) : Nat → State
  | 0 => s
  | n + 1 =>
    match getWaiting s (waitKey c 4 q) with
    | [] => s
    | m :: rest => if mayLeave s c m then fillLocal (enterPort (setWaiting s (waitKey c 4 q) rest) c 4 m) c q n else s

/-- A packet handed to the mesh at an input port of a router: it waits at its endpoint until the port takes it. A VC0 packet is 1 to 4
flits long (R55): a longer one does not enter, as R58's refused packets do not (DESIGN CHOICE, assumption log 93). -/
def injectAt (s : State) (at_ : CoreId) (port : Nat) (p : Packet) : State :=
  if p.vc = 0 ∧ 4 < p.flits.length then s
  else
    let k := waitKey at_ port p.vc.toNat
    setWaiting (if hdrMode p.hdr = 4 then logBroadcast s p else s) k (getWaiting s k ++ portFlits p)

/-- A core's packet enters the mesh at its router's local port. -/
def inject (s : State) (at_ : CoreId) (p : Packet) : State := fillLocal (injectAt s at_ 4 p) at_ p.vc.toNat 8

end Sys2Proof.Machine
end

