-- ==== Sys2Proof/Machine/TileControl.lean ====
section
/-! DEFINITION. The control, scalar, barrier and flag instructions (07_tile_programs.md R170, R178, R189, R191 to R195). -/

namespace Sys2Proof.Machine

/-- NOP (R178). -/
def execNop (i : Issue) (s : State) : Host.Outcome State Fault Refusal :=
  .next (tileIssue i wordNop noWait (fun c s => .next s c) s)

/-- HALT (R178): once every packet has left the send port, the core enters HALTED; its units are idle in this model. -/
def execHalt (i : Issue) (s : State) : Host.Outcome State Fault Refusal :=
  .next (tileIssue i wordHalt noWait (fun c s => if sendsHeld s i.core = 0 then .halt s c else .hold) s)

/-- LOOP (R178). -/
def execLoop (i : Issue) (ln : BitVec 2) (target : BitVec 13) (s : State) : Host.Outcome State Fault Refusal :=
  .next (tileIssue i (wordLoop ln target) noWait (fun c s =>
    let l := c.loops[ln.toNat]'ln.isLt
    if 1 < l.toNat then .done s { c with loops := c.loops.set ln.toNat (l - 1) ln.isLt } target.toNat
    else .next s { c with loops := c.loops.set ln.toNat 0 ln.isLt }) s)

/-- LSET (R178). -/
def execLset (i : Issue) (ln : BitVec 2) (src : Bool) (xs : BitVec 5) (imm : W32) (s : State) : Host.Outcome State Fault Refusal :=
  .next (tileIssue i (wordLset ln src xs imm) noWait (fun c s =>
    .next s { c with loops := c.loops.set ln.toNat (if src then xget c xs else imm) ln.isLt }) s)

/-- Whether a branch condition holds (R170); none for the reserved code. -/
def brHolds (cond : BitVec 3) (a b : W32) : Option Bool :=
  match cond.toNat with
  | 0 => some true
  | 1 => some (a == b)
  | 2 => some (a != b)
  | 3 => some (a.slt b)
  | 4 => some (!a.slt b)
  | 5 => some (a.ult b)
  | 6 => some (!a.ult b)
  | _ => none

/-- BR (R178). -/
def execBr (i : Issue) (cond : BitVec 3) (xa xb : BitVec 5) (target : BitVec 13) (s : State) : Host.Outcome State Fault Refusal :=
  .next (tileIssue i (wordBr cond xa xb target) noWait (fun c s =>
    match brHolds cond (xget c xa) (xget c xb) with
    | none => .exc excIllegalOperand
    | some true => .done s c target.toNat
    | some false => .next s c) s)

/-- Whether a wait for a target beat is over: BEAT[31:0] − target as a signed value is zero or more (R194). -/
def beatReached (s : State) (target : W32) : Bool :=
  decide (0 ≤ (BitVec.ofNat 32 (beatNow s) - target).toInt)

/-- Whether the core waits in WAITB. -/
def waitsBeat : Wait → Bool
  | .beat _ => true
  | _ => false

/-- WAITB (R194). Re-evaluated, the instruction waits for the target that it saved. -/
def execWaitb (i : Issue) (rel : Bool) (xs : BitVec 5) (count : BitVec 16) (s : State) : Host.Outcome State Fault Refusal :=
  .next (tileIssue i (wordWaitb rel xs count) waitsBeat (fun c s =>
    match c.wait with
    | some (.beat t) => if beatReached s t then .next s c else .hold
    | _ =>
      if rel && count == 0 then .exc excIllegalOperand
      else
        let t := if rel then BitVec.ofNat 32 (beatNow s) + count.setWidth 32 else xget c xs
        if beatReached s t then
          .next (if !rel && BitVec.ofNat 32 (beatNow s) != t then count64 s Key.waitbLate else s) c
        else .wait s c (.beat t)) s)

/-- WP (R195): a core queues up to four reports; a WP that finds the queue full holds at issue. -/
def execWp (i : Issue) (report : Bool) (waypoint : W32) (s : State) : Host.Outcome State Fault Refusal :=
  .next (tileIssue i (wordWp report waypoint) noWait (fun c s =>
    let c1 := { c with waypoint := waypoint.setWidth 12 }
    if report then
      if 4 ≤ c.reports.length then .hold else .next s { c1 with reports := c.reports ++ [⟨waypoint, beatNow s⟩] }
    else .next s c1) s)

/-- The conditions of SYNC (R178, R191): the root in the grid, EXPECTED, the barrier word's alignment and region. -/
def syncConds (s : State) (c : Core) (xr : BitVec 5) (word : BitVec 19) (bad : Bool) : List (Bool × Nat) :=
  let r := (xget c xr).toNat
  [(!inGrid s ⟨bits r 8 0, bits r 17 9⟩ || decide (2 ^ 18 ≤ r) || bad, excIllegalOperand),
   (word.toNat % 8 != 0, excAlignment),
   (!(decide (stageEnd c ≤ word.toNat) && decide (word.toNat + 8 ≤ contextBase)), excSramRegion)]

/-! ### Barrier messages (R192) -/

/-- A one-flit VC0 packet of a barrier. The manual does not lay out its flit: byte 0 the barrier, byte 1 the epoch, and in an arrival
bytes 2 to 5 WORD (assumption log 21). -/
def barrierPacket (h : W64) (bs : List Byte) : Packet := ⟨h, 0, [⟨slice bs 0 64, false⟩]⟩

/-- The arrival of a core at a barrier, for its root. -/
def arrivalPacket (root : CoreId) (barrier : BitVec 4) (epoch : Byte) (word : BitVec 19) : Packet :=
  barrierPacket (BitVec.ofNat 64 (root.col * 2 ^ 3 + root.row * 2 ^ 12)) ([barrier.setWidth 8, epoch] ++ leBytes 4 word.toNat)

/-- The release of a barrier, broadcast by its root. -/
def releasePacket (barrier : BitVec 4) (epoch : Byte) : Packet := barrierPacket 4 [barrier.setWidth 8, epoch]

/-- The root's barrier word judged (R192): while EXPECTED is nonzero and ARRIVED is EXPECTED or more, ARRIVED falls by EXPECTED and a
release leaves with the barrier and the epoch of the last arrival at the word. -/
def judgeBarrier (s : State) (root : CoreId) (c : Core) (word : Nat) : State × Core :=
  let arrived := field (sramRead c word 2) 0 2
  let expected := field (sramRead c (word + 2) 2) 0 2
  if expected = 0 ∨ arrived < expected then (s, c)
  else
    let last := amGet 0 c.lastArrival word
    let p := releasePacket (BitVec.ofNat 4 (last / 256)) (BitVec.ofNat 8 last)
    ((List.range (arrived / expected)).foldl (fun s _ => inject s root p) s,
      sramWrite c word (leBytes 2 (arrived % expected)) false)

/-- SYNC INIT (R192): EXPECTED is written into the barrier word, and the word is judged. -/
def execSyncInit (i : Issue) (barrier : BitVec 4) (xr : BitVec 5) (word : BitVec 19) (expected : BitVec 16) (s : State) :
    Host.Outcome State Fault Refusal :=
  .next (tileIssue i (wordSync 1 barrier xr word expected.toNat) noWait (fun c s =>
    unlessExc (syncConds s c xr word (expected == 0))
      (let r := judgeBarrier s i.core (sramWrite c (word.toNat + 2) (leBytes 2 expected.toNat) false) word.toNat
       .next r.1 r.2)) s)

/-- Whether the core waits in SYNC on a barrier. -/
def waitsSync (b : BitVec 4) : Wait → Bool
  | .sync b' _ _ => b == b'
  | _ => false

/-- SYNC WAIT (R192): the epoch rises, the arrival leaves for the root on VC0, and the core waits for its release. Re-evaluated, it proceeds
when RELEASED is set, and clears it. -/
def execSyncWait (i : Issue) (barrier : BitVec 4) (xr : BitVec 5) (word : BitVec 19) (s : State) : Host.Outcome State Fault Refusal :=
  .next (tileIssue i (wordSync 0 barrier xr word 0) (waitsSync barrier) (fun c s =>
    match c.wait with
    | some (.sync _ _ w) =>
      if bit (memRead c.sram (w.toNat + 5)).toNat 0 then
        .next s { sramWrite c (w.toNat + 5) [memRead c.sram (w.toNat + 5) &&& 0xFE] false with syncBeats := 0 }
      else .hold
    | _ =>
      unlessExc (syncConds s c xr word false)
        (let e := memRead c.sram (word.toNat + 4) + 1
         let r := (xget c xr).toNat
         .wait (inject s i.core (arrivalPacket ⟨bits r 8 0, bits r 17 9⟩ barrier e word))
           { sramWrite c (word.toNat + 4) [e] false with syncBeats := 0 } (.sync barrier e word))) s)

/-- XLI (R178). -/
def execXli (i : Issue) (xd : BitVec 5) (imm : W32) (s : State) : Host.Outcome State Fault Refusal :=
  .next (tileIssue i (wordXli xd imm) noWait (fun c s => .next s (xset c xd imm)) s)

/-- The SPECIAL values of XOP (R170); none where reserved. -/
def xopSpecial (s : State) (id : CoreId) (v : W32) : Option W32 :=
  match v.toNat with
  | 0 => some (BitVec.ofNat 32 id.col)
  | 1 => some (BitVec.ofNat 32 id.row)
  | 2 => some (BitVec.ofNat 32 (beatNow s))
  | 3 => some (BitVec.ofNat 32 (beatNow s / 2 ^ 32))
  | 4 => some (BitVec.ofNat 32 (stepNow s))
  | 5 => some (BitVec.ofNat 32 (stepNow s / 2 ^ 32))
  | 6 => some (BitVec.ofNat 32 (logicalCols s))
  | 7 => some (BitVec.ofNat 32 (id.row * logicalCols s + id.col))
  | _ => none

/-- The arithmetic functions of XOP (R170); none for the others. -/
def xopFunc (func : BitVec 4) (a b : W32) : Option W32 :=
  match func.toNat with
  | 0 => some (a + b)
  | 1 => some (a - b)
  | 2 => some (a &&& b)
  | 3 => some (a ||| b)
  | 4 => some (a ^^^ b)
  | 5 => some (a <<< (b.toNat % 32))
  | 6 => some (a >>> (b.toNat % 32))
  | 7 => some (a.sshiftRight (b.toNat % 32))
  | 8 => some (a * b)
  | 9 => some (if a.slt b then a else b)
  | 10 => some (if a.slt b then b else a)
  | _ => none

/-- XOP (R178). Which bits of the 128-bit generator AGREAD reads is not said: its result is a free value (assumption log 15). -/
def execXop (i : Issue) (xd xa xb : BitVec 5) (func : BitVec 4) (immb : Bool) (imm : W32) (s : State) :
    Host.Outcome State Fault Refusal :=
  .next (tileIssue i (wordXop xd xa xb func immb imm) noWait (fun c s =>
    let b := if immb then imm else xget c xb
    if func.toNat = 11 then
      match xopSpecial s i.core b with
      | some v => .next s (xset c xd v)
      | none => .exc excIllegalOperand
    else if func.toNat = 12 then
      if 8 ≤ b.toNat then .exc excIllegalOperand
      else let r := drawFree s; .next r.2 (xset c xd (BitVec.ofNat 32 r.1))
    else
      match xopFunc func (xget c xa) b with
      | some v => .next s (xset c xd v)
      | none => .exc excIllegalOperand) s)

/-- A generator with one field set (R170); none where ILLEGAL_OPERAND. -/
def agSetField (g : Ag) (fld : BitVec 3) (v : W32) : Option Ag :=
  match fld.toNat with
  | 0 => if 0x7FFFF < v.toNat then none else
      some { g with base := v.truncate 19, cursor := v.truncate 19, innerLeft := g.innerCount }
  | 1 => if v.toNat = 0 ∨ 8191 < v.toNat then none else some { g with innerCount := v.truncate 13 }
  | 2 => some { g with innerStep := v.truncate 20 }
  | 3 => some { g with outerStep := v.truncate 20 }
  | 4 => some { g with cursor := g.base, innerLeft := g.innerCount }
  | _ => none

/-- AGSET (R170, R178). -/
def execAgset (i : Issue) (an : BitVec 3) (fld : BitVec 3) (src : Bool) (xs : BitVec 5) (imm : BitVec 20) (s : State) :
    Host.Outcome State Fault Refusal :=
  .next (tileIssue i (wordAgset an fld src xs imm) noWait (fun c s =>
    match agSetField (agGet c an) fld (if src then xget c xs else imm.setWidth 32) with
    | some g => .next s (agPut c an g)
    | none => .exc excIllegalOperand) s)

/-- MCJOIN (R183): one membership bit of the core's router. -/
def execMcjoin (i : Issue) (column : Bool) (group : BitVec 6) (join : Bool) (s : State) : Host.Outcome State Fault Refusal :=
  .next (tileIssue i (wordMcjoin column group join) noWait (fun c s =>
    let m : BitVec 64 := 1#64 <<< group.toNat
    let upd := fun (w : BitVec 64) => if join then w ||| m else w &&& ~~~m
    .next s (if column then { c with colGroups := upd c.colGroups } else { c with rowGroups := upd c.rowGroups })) s)

/-- FLG (R189): the sticky word of the named units is read, and the CLEAR bits are cleared in it. -/
def execFlg (i : Issue) (unit : BitVec 2) (xd : BitVec 5) (clear : BitVec 4) (s : State) : Host.Outcome State Fault Refusal :=
  .next (tileIssue i (wordFlg unit xd clear) noWait (fun c s =>
    let u := unit.toNat
    let comp := s.variant == .x
    let stickyC := if comp then c.stickyC else 0
    let v := match u with
      | 0 => c.stickyA
      | 1 => c.stickyV
      | 2 => stickyC
      | _ => c.stickyA ||| c.stickyV ||| stickyC
    let c1 := { c with
      stickyA := if u = 0 ∨ u = 3 then c.stickyA &&& ~~~clear else c.stickyA
      stickyV := if u = 1 ∨ u = 3 then c.stickyV &&& ~~~clear else c.stickyV
      stickyC := if (u = 2 ∨ u = 3) ∧ comp then c.stickyC &&& ~~~clear else c.stickyC }
    .next s (xset c1 xd (v.setWidth 32))) s)

end Sys2Proof.Machine
end

