-- ==== Sys2Proof/Machine/TileMove.lean ====
section
/-! DEFINITION. The SRAM and router instructions (07_tile_programs.md R171, R179 to R182, R188). -/

namespace Sys2Proof.Machine

/-! ### Addresses of rows -/

/-- The row addresses of an access: base + r × pitch modulo 2^19 (R164, R179). -/
def rowAddrs (base : Nat) (pitch : W32) (n : Nat) : List Nat := (List.range n).map (fun r => u19 (base + r * pitch.toNat))

/-- Whether an address is not aligned. -/
def misaligned (k : Nat) (as : List Nat) : Bool := as.any (fun a => a % k != 0)

/-- Whether an open EX32 chunk still reads the tile, so that a write of the tile waits (R136). -/
def tileBusy (c : Core) (i : Nat) : Bool :=
  match c.ex32 with
  | some o => i == (if o.fields.asel then 1 else 0) || i == (if o.fields.bsel then 3 else 2)
  | none => false

/-- The bytes of several row accesses with a poison bit each. -/
def gatherRows (c : Core) (as : List Nat) (len : Nat) : List (Byte × Bool) :=
  as.flatMap (fun a => (List.range len).map (fun x => (memRead c.sram (a + x), sramPoisoned c (a + x) 1)))

/-- The four tables: the first 64 bytes of the staging region (R179). -/
def tables (c : Core) : List Byte := sramRead c (recvEnd c) 64

/-- Whether every segment of a fill is poisoned by what it expands with: its parameter flit, or in mode 6 the line of the tables (R134,
R152). -/
def wholePoison (c : Core) (exp : BitVec 3) (param : Bool) : Bool :=
  (exp != 0 && param) || (exp == 6 && sramPoisoned c (recvEnd c) 64)

/-- Whether an expansion names a tile that cannot be packed, or tables that a core does not have (R150, R168). -/
def expandBad (c : Core) (exp : BitVec 3) (rows : BitVec 3) : Bool :=
  (exp != 0 && rows.toNat == 5) || (exp == 6 && field c.cfg 3 1 == 0)

/-- LDA (R171, R179, R180). -/
def execLda (i : Issue) (dst : BitVec 4) (an : BitVec 3) (post : Bool) (exp rows : BitVec 3) (xs : BitVec 5) (ap : BitVec 3)
    (ppost : Bool) (s : State) : Host.Outcome State Fault Refusal :=
  .next (tileIssue i (wordLda dst an post exp rows xs ap ppost) noWait (fun c s =>
    if dst.toNat = 4 then
      let (a, c1) := agTake c an post
      unlessExc [(a % 4 != 0, excAlignment), (!mayRead c a 4, excSramRegion)]
        (.next s (xset (consume c1 (sramPoisoned c a 4)) xs (BitVec.ofNat 32 (leNat (sramRead c a 4)))))
    else
      match rowCode rows with
      | none => .exc excIllegalOperand
      | some r =>
        let (base, c1) := agTake c an post
        let len := packedSize exp.toNat / r
        let as := rowAddrs base (xget c xs) r
        let (pa, c2) := if exp = 0 then (0, c1) else agTake c1 ap ppost
        unlessExc
          [(decide (5 ≤ dst.toNat), excIllegalOperand), (expandBad c exp rows, excExpandOperand),
           (misaligned 8 as || (exp != 0 && pa % 64 != 0), excAlignment),
           (as.any (fun a => !mayRead c a len) || (exp != 0 && !mayRead c pa 64), excSramRegion)]
          (if tileBusy c dst.toNat then .hold
          else
            let d := gatherRows c as len
            let t := expandTile exp.toNat (sramRead c pa 64) (wholePoison c exp (sramPoisoned c pa 64)) (tables c) (d.map Prod.fst) (d.map Prod.snd)
            .next s (stgFill (consume c2 (t.2.1.any id)) dst.toNat t.1 t.2.1 t.2.2))) s)

/-- The elements that LDAT writes: destination byte, source row and offset within it (R179). -/
def ldatMoves (rows w n : Nat) : List (Nat × Nat × Nat) :=
  (List.range n).flatMap (fun i => (List.range rows).flatMap (fun j => (List.range w).map (fun b =>
    (j * (1024 / rows) + i * w + b, i, j * w + b))))

/-- LDAT (R179, R180): a transposed read that keeps the rest of the tile; a segment's poison bit is set by a poisoned source line and
is cleared only when the whole segment is written from clean data. The scales stay (assumption log 16). -/
def execLdat (i : Issue) (dst : BitVec 4) (an : BitVec 3) (post : Bool) (rows : BitVec 3) (xs : BitVec 5) (width : BitVec 2)
    (srcRowsM1 : BitVec 6) (s : State) : Host.Outcome State Fault Refusal :=
  .next (tileIssue i (wordLdat dst an post rows xs width srcRowsM1) noWait (fun c s =>
    match rowCode rows with
    | none => .exc excIllegalOperand
    | some r =>
      let w := 2 ^ width.toNat
      let n := srcRowsM1.toNat + 1
      let (base, c1) := agTake c an post
      let as := rowAddrs base (xget c xs) n
      unlessExc
        [(decide (4 ≤ dst.toNat) || width == 3 || decide (1024 / (r * w) < n), excIllegalOperand),
         (misaligned 8 as, excAlignment), (as.any (fun a => !mayRead c a (r * w)), excSramRegion)]
        (if tileBusy c dst.toNat then .hold
        else
          let t := stgGet c dst.toNat
          let mv := ldatMoves r w n
          let bytes := mv.foldl (fun bs m => setAt (memRead c.sram (as.getD m.2.1 0 + m.2.2)) bs m.1) t.bytes.toList
          let seg := (List.range 16).map (fun g =>
            let ms := mv.filter (fun m => m.1 / 64 == g)
            let bad := ms.any (fun m => sramPoisoned c (as.getD m.2.1 0 + m.2.2) 1)
            bad || (t.poison[g]?.getD false && decide (ms.length < 64)))
          .next s (stgFill (consume c1 (seg.any id)) dst.toNat bytes seg t.scales.toList))) s)

/-- Segments written to base + i × pitch, 64 bytes each (R179). -/
def writeSegs (c : Core) (as : List Nat) (seg : Nat → List Byte × Bool) : Core :=
  (List.range as.length).foldl (fun d k => sramWrite d (as.getD k 0) (seg k).1 (seg k).2) c

/-- STV (R171, R179, R180). -/
def execStv (i : Issue) (src : BitVec 4) (an : BitVec 3) (post : Bool) (xs : BitVec 5) (s : State) :
    Host.Outcome State Fault Refusal :=
  .next (tileIssue i (wordStv src an post xs) noWait (fun c s =>
    let (base, c1) := agTake c an post
    if src.toNat = 4 then
      unlessExc [(base % 4 != 0, excAlignment), (!mayWrite c base 4, excSramRegion)]
        (.next s (sramWrite c1 base (leBytes 4 (xget c xs).toNat) false))
    else
      let as := rowAddrs base (xget c xs) 16
      unlessExc [(decide (5 ≤ src.toNat), excIllegalOperand), (misaligned 64 as, excAlignment),
          (as.any (fun a => !mayWrite c a 64), excSramRegion)]
        (let t := stgGet c src.toNat
         .next s (writeSegs c1 as (fun k => (slice t.bytes.toList (64 * k) 64, t.poison[k]?.getD false))))) s)

/-! ### Packets (R57, R58) -/

/-- A header with LENGTH set to a packet's flits minus one (R181). -/
def withLength (h : W64) (flits : Nat) : W64 :=
  BitVec.ofNat 64 (bits h.toNat 54 0 + (flits - 1) % 64 * 2 ^ 55 + bits h.toNat 63 61 * 2 ^ 61)

/-- A check trailer (R188): the CRC-32C over the sequence and the payload, and zeros. -/
def trailerOf (seq : W32) (payload : List Byte) : List Byte :=
  leBytes 4 (crc32c (leBytes 4 seq.toNat ++ payload)) ++ List.replicate 60 0

/-- Whether a trailer's check value is that of a payload under a sequence value; its bytes 4 to 63 are ignored (R188). -/
def trailerHolds (seq : W32) (payload trailer : List Byte) : Bool := slice trailer 0 4 == slice (trailerOf seq payload) 0 4

/-- SEND (R171, R181): it stays at issue while the send port holds a packet behind the one that it sends (R174). -/
def execSend (i : Issue) (an : BitVec 3) (post : Bool) (flitsM1 : BitVec 6) (vc : BitVec 2) (trailer : Bool) (xq xh : BitVec 5)
    (s : State) : Host.Outcome State Fault Refusal :=
  .next (tileIssue i (wordSend an post flitsM1 vc trailer xq xh) noWait (fun c s =>
    let n := flitsM1.toNat + 1
    let (a, c1) := agTake c an post
    let total := n + b2n trailer
    let h := withLength (xpair c xh) total
    unlessExc
      [(vc == 0 || xodd xh || decide (64 < total), excIllegalOperand), (a % 64 != 0, excAlignment),
       (!mayRead c a (64 * n), excSramRegion), (headerRefused s h vc.toNat, excSendRefused)]
      (let data : List Flit := (List.range n).map (fun k => ⟨sramRead c (a + 64 * k) 64, sramPoisoned c (a + 64 * k) 64⟩)
       let tr : List Flit := if trailer then [⟨trailerOf (xget c xq) (sramRead c a (64 * n)), false⟩] else []
       if 2 ≤ sendsHeld s i.core then .hold
       else .next (inject s i.core ⟨h, vc, data ++ tr⟩) (consume c1 (anyPoison data)))) s)

/-- Whether the core waits for a ring. -/
def waitsRing (r : Nat) : Wait → Bool
  | .ring r' _ => r == r'
  | _ => false

/-- RECV (R171, R182). -/
def execRecv (i : Issue) (ring dst exp rows : BitVec 3) (flitsM1 : BitVec 6) (s : State) : Host.Outcome State Fault Refusal :=
  .next (tileIssue i (wordRecv ring dst exp rows flitsM1) (waitsRing ring.toNat) (fun c s =>
    let r := ring.toNat
    let skip := dst.toNat == 4
    let need := if skip then flitsM1.toNat + 1 else packedSize exp.toNat / 64 + b2n (exp != 0)
    unlessExc
      [(ringPages c r == 0 || decide (5 ≤ dst.toNat) || (!skip && (flitsM1 != 0 || (rowCode rows).isNone)), excIllegalOperand),
       (!skip && expandBad c exp rows, excExpandOperand)]
      (if ringHeld c r < need then .wait s c (.ring r need)
      else if skip then .next s (ringAdvance c r need)
      else if tileBusy c dst.toNat then .hold
      else
        let fs := ringFlits c r need
        let param := if exp = 0 then ([], false) else fs.headD ([], false)
        let data := if exp = 0 then fs else fs.drop 1
        let t := expandTile exp.toNat param.1 (wholePoison c exp param.2) (tables c) (data.flatMap Prod.fst)
          (data.flatMap (fun f => List.replicate 64 f.2))
        .next s (stgFill (consume (ringAdvance c r need) (t.2.1.any id)) dst.toNat t.1 t.2.1 t.2.2))) s)

/-- The payload and trailer of CHK: flits with their addresses. -/
def chkLines (c : Core) (ringSrc : Bool) (r a n : Nat) : List Nat :=
  (List.range (n + 1)).map (fun k => if ringSrc then ringAddr c r (ringRdPtr c r + k) else a + 64 * k)

/-- CHK (R173, R188). -/
def execChk (i : Issue) (ringSrc : Bool) (an : BitVec 3) (post : Bool) (flitsM1 : BitVec 6) (xq xd : BitVec 5) (poison : Bool)
    (s : State) : Host.Outcome State Fault Refusal :=
  .next (tileIssue i (wordChk ringSrc an post flitsM1 xq xd poison) (waitsRing an.toNat) (fun c s =>
    let n := flitsM1.toNat + 1
    let r := an.toNat
    let (a, c1) := if ringSrc then (0, c) else agTake c an post
    unlessExc
      [(ringSrc && ringPages c r == 0, excIllegalOperand), (!ringSrc && a % 64 != 0, excAlignment),
       (!ringSrc && !mayRead c a (64 * (n + 1)), excSramRegion)]
      (if ringSrc && decide (ringHeld c r < n + 1) then .wait s c (.ring r (n + 1))
      else
        let ls := chkLines c ringSrc r a n
        let bad := ls.any (fun l => sramPoisoned c l 64)
        let payload := (ls.take n).flatMap (fun l => sramRead c l 64)
        let got := field (sramRead c (ls.getD n 0) 64) 0 4
        let c2 := consume c1 bad
        if bad then .next s (xset c2 xd 2)
        else if crc32c (leBytes 4 (xget c xq).toNat ++ payload) = got then .next s (xset c2 xd 0)
        else if poison then
          .next s (xset { c2 with poisonLines := (ls.take n).foldl (fun ps l => nsIns (l / 64) ps) c2.poisonLines } xd 1)
        else .next s (xset c2 xd 1))) s)

end Sys2Proof.Machine
end

