-- ==== Sys2Proof/Machine/Control.lean ====
section
/-! DEFINITION. What the active management core does to the whole engine: the defect map's generations (R35 to R39), suspending and
resuming tile programs (R92), abandoning and replaying micro-batches (R43), reloading a core (R42, R95), field loss and the handover
(R44, R502). -/

namespace Sys2Proof.Machine

/-- Whether the engine is in RUN (R475). -/
def inRun (s : State) : Bool := getN s Key.bringupPhase == 7

/-- A derived object has changed (R433). -/
def touch (s : State) (key : Nat) : State :=
  { s with change := s.change + 1, changes := amIns (s.change + 1) s.changes key }

/-- A cause of R402 holds in this beat. -/
def overrunCause (s : State) (b : Nat) : State :=
  { s with stp := { s.stp with causes := s.stp.causes ||| BitVec.ofNat 4 (2 ^ b) } }

/-! ### The defect map (R35 to R39, R41) -/

/-- The current copy of the defect map; none while neither copy is valid (R35). -/
def curMap (s : State) : Option MapCopy := if s.grid.currentB then s.grid.mapB else s.grid.mapA

/-- Whether a field-state byte says LOST (R37). -/
def lostByte (b : Nat) : Bool := b % 4 == 1

/-- The columns that hold a LOST field. -/
def lostColumns (fields : Store) : List Nat :=
  (List.range 10).filter (fun x => fields.any (fun e => e.1 % 10 == x && lostByte e.2))

/-- The grid mode and the excluded column (R31). -/
def gridModeOf (fields : Store) : Nat × Nat :=
  match lostColumns fields with
  | [] => (0, 0xFF)
  | [x] => (1, x)
  | _ => (2, 0xFF)

/-- The row entries that differ between two maps. -/
def changedRows (a b : MapCopy) : List Nat :=
  ((a.rows ++ b.rows).map (fun e => e.1)).filter (fun k => amGet 63 a.rows k != amGet 63 b.rows k)

/-- The fields whose state differs between two maps. -/
def changedFields (a b : MapCopy) : List Nat :=
  ((a.fields ++ b.fields).map (fun e => e.1)).filter (fun k => stGet a.fields k != stGet b.fields k)

/-- The bytes of a map copy (R36). -/
def mapBytes (m : MapCopy) : List Byte :=
  let body := leBytes 4 0x50414D44 ++ leBytes 2 1 ++ leBytes 2 0 ++ leBytes 4 m.generation ++ leBytes 1 m.gridMode ++
    leBytes 1 m.excludedCol ++ leBytes 2 0 ++ leBytes 8 m.beat ++
    (List.range 90).map (fun f => BitVec.ofNat 8 (stGet m.fields f)) ++ leBytes 6 0 ++
    (List.range 2880).flatMap (fun k => leBytes 2 (amGet 63 m.rows k))
  body ++ leBytes 4 (crc32c body) ++ leBytes 4 0

/-- A new generation is written into the copy that does not hold the current one (R35, R36), and the objects that show it change. -/
def writeMap (s : State) (old new : MapCopy) : State :=
  let md := gridModeOf new.fields
  let m := { new with
    generation := (old.generation + 1) % 2 ^ 32
    gridMode := md.1
    excludedCol := md.2
    beat := beatNow s }
  let s := { s with grid := if s.grid.currentB then { s.grid with mapA := some m, currentB := false }
    else { s.grid with mapB := some m, currentB := true } }
  let s := { s with par := { s.par with old := ⟨Key.defectMap, amGet 0 s.changes Key.defectMap, 0, mapBytes old⟩ :: s.par.old } }
  let s := touch (touch s Key.defectMap) Key.defectMapGeneration
  let s := (changedFields old new).foldl (fun s f => touch s (Key.fldFieldState f)) s
  (changedRows old new).foldl (fun s k =>
    touch (touch s (Key.fldRowEntry (k / 32) (k % 32))) (Key.fldDetourMask (k / 32))) s

/-- The stored map changed by `f`; a map that does not change writes no generation. -/
def updateMap (s : State) (f : MapCopy → MapCopy) : State :=
  match curMap s with
  | none => s
  | some m => if f m = m then s else writeMap s m (f m)

/-- A field recorded LOST with a cause (R37). Which cause stands when a LOST field meets another is not said; here the later one overwrites
the earlier (DESIGN CHOICE, assumption log 91). -/
def loseField (f cause : Nat) (m : MapCopy) : MapCopy := { m with fields := stPut m.fields f (1 + 4 * cause) }

/-- A defective core recorded in a map by the rules of R41: field, local row, local column, ORIGIN. -/
def recordDefect (f i j origin : Nat) (m : MapCopy) : MapCopy :=
  let k := f * 32 + i
  let e := amGet 63 m.rows k
  if e % 64 = 63 then { m with rows := amPut 63 (j + 64 * origin) m.rows k }
  else if e % 64 = j then m
  else loseField f 1 { m with rows := amPut 63 (e % 256 + 256) m.rows k }

/-- The field of a physical core (R25). -/
def physField (p : PhysId) : Nat := 10 * (p.row / 32) + p.col / 33

/-- The field-row entry number of a physical core (R36). -/
def physRow (p : PhysId) : Nat := physField p * 32 + p.row % 32

/-- Whether a field is LOST in the running grid. -/
def fieldLostNow (s : State) (f : Nat) : Bool := lostByte (stGet s.grid.runFields f)

/-- A field's power and sensor record. -/
def getField (s : State) (f : Nat) : FieldRec := amGet FieldRec.default s.power.fields f

/-- The state with a field's record replaced. -/
def setField (s : State) (f : Nat) (r : FieldRec) : State :=
  { s with power := { s.power with fields := amIns r s.power.fields f } }

/-! ### Handover and field loss (R44, R456, R502) -/

/-- A handover away from this engine begins: journalled as source, unless a reshard is active (R391, R502). -/
def beginHandover (s : State) : State :=
  if getN s Key.reshardPhase ≠ 0 then { s with mgmt := { s.mgmt with handover := 1 } }
  else if s.mgmt.handover = 2 then s
  else
    let serial := field (getDom s Key.reshardPlan) 0x30 4
    let s := journal s 13 (leBytes 4 serial ++ leBytes 1 0 ++ leBytes 3 0)
    logEvent (raise { s with mgmt := { s.mgmt with handover := 2 } } Key.recoveryFlags 4) 0xA [serial, 0]

/-- A field is lost: map, flag, event, and the handover where the engine is in RUN (R39, R44, R456); before RUN, R480 counts it. -/
def fieldLoss (s : State) (f cause : Nat) : State :=
  let s := updateMap s (loseField f cause)
  let s := { s with grid := { s.grid with runFields := stPut s.grid.runFields f (1 + 4 * cause) } }
  let s := logEvent (raiseNow s Key.gridFlags 2) 3 [f, cause]
  if inRun s then
    let s := beginHandover s
    if getN s Key.reshardPhase = 2 then { s with mgmt := { s.mgmt with handover := 4 } } else s
  else { s with grid := { s.grid with lostThisStart := s.grid.lostThisStart + 1 } }

/-! ### Tile programs suspended, resumed, reloaded (R42, R92, R95) -/

/-- Its program counter after an instruction that waited is complete. -/
def Core.proceed (c : Core) : Core := { c with st := .running, wait := none, pc := c.pc + 1, progressed := true }

/-- A waiting core's condition evaluated (R177, R192, R194, R196): WAITB whose beat has come and SYNC WAIT whose release has come are
complete, the latter clearing RELEASED; an instruction whose ring holds what it consumes issues again. -/
def wakeCore (s : State) (c : Core) : Core :=
  match c.st, c.wait with
  | .waiting, some (.beat t) => if beatReached s t then c.proceed else c
  | .waiting, some (.sync _ _ w) =>
    if bit (memRead c.sram (w.toNat + 5)).toNat 0 then
      { (sramWrite c (w.toNat + 5) [memRead c.sram (w.toNat + 5) &&& 0xFE] false).proceed with syncBeats := 0 }
    else c
  | .waiting, some (.ring r need) => if need ≤ ringHeld c r then { c with st := .running, wait := none } else c
  | _, _ => c

/-- A suspend request taken by a core (R92). The context area has no place for an open EX32 chunk (R93): the core keeps it, and the chunk
goes on after the resume (R126; DESIGN CHOICE, assumption log 19). -/
def suspendCore (c : Core) : Core :=
  match c.st with
  | .running => { saveContext c with st := .suspended, wait := none, progressed := true }
  | .waiting => { saveContext c with st := .suspended, progressed := true }
  | _ => c

/-- A resume taken by a core (R92, R196): an interrupted WAITB, SYNC, RECV or CHK is evaluated again. -/
def resumeCore (s : State) (c : Core) : Core :=
  match c.st with
  | .suspended => wakeCore s { restoreContext c with st := if c.wait.isSome then .waiting else .running }
  | _ => c

/-- A loaded core that has not yet started starts (R485). -/
def startCore (c : Core) : Core :=
  match c.st with
  | .halted => if c.startDue then { c with st := .running, startDue := false, progressed := true } else c
  | _ => c

/-! ### The SRAM errors that going on meets (R81) -/

/-- The SRAM errors that a read of a core's words from `a` on, `n` bytes, meets (R81). -/
def readErrs (a n : Nat) (errs : List SramErr) (sc : State × Core) : State × Core :=
  (errs.filter (fun e => decide (a < 8 * e.word + 8) && decide (8 * e.word < a + n))).foldl sramError sc

/-- The errors of the barrier word that a core interrupted in SYNC reads and clears as it goes on (R192). -/
def syncErrs (errs : List SramErr) (sc : State × Core) : State × Core :=
  match sc.2.wait with
  | some (.sync _ _ w) => if bit (memRead sc.2.sram (w.toNat + 5)).toNat 0 then readErrs w.toNat 8 errs sc else sc
  | _ => sc

/-- A suspended core whose context is about to be read back meets the errors of that read, and of its barrier word where it goes on from
SYNC (R81, R92, R192). -/
def contextErrs (s : State) (id : CoreId) (errs : List SramErr) : State :=
  let c := getCore s id
  match c.st with
  | .suspended => let r := syncErrs errs (readErrs contextBase 0x2270 errs (s, c)); setCore r.1 id r.2
  | _ => s

/-- A change of the engine, with the SRAM errors that the cores that go on in it meet. -/
def metBy (errs : List (CoreId × List SramErr)) (f : State → State) (s : State) : State :=
  let t := f { s with stp := { s.stp with met := errs } }
  { t with stp := { t.stp with met := s.stp.met } }

/-- Every tile program is suspended at its next instruction boundary. -/
def suspendAll (s : State) : State :=
  { mapCores s (fun _ c => suspendCore c) with stp := { s.stp with suspended := true } }

/-- In RUN, every suspended tile program is resumed and every loaded core that has not started starts, unless the engine holds the
programs (R95, R485); the contexts read back meet the command's errors (R81). -/
def resumeAll (s : State) : State :=
  if s.stp.hold || !inRun s then s
  else
    let s := s.stp.met.foldl (fun s e => contextErrs s e.1 e.2) s
    { mapCores s (fun _ c => startCore (resumeCore s c)) with stp := { s.stp with suspended := false } }

/-- The lanes of a core that leaves LOADING (R103). -/
def seedLanes (s : State) (id : CoreId) : Vector W64 16 :=
  vecOf 16 (fun l => seedLane (BitVec.ofNat 64 (getN s Key.freeSeed)) (coreKey id) l)

/-- The plan of a core in a placement. -/
def corePlan (p : Placement) (id : CoreId) : Option CorePlan := p.cores.find? (fun c => c.core == id)

/-- A core fresh from LOADING over the SRAM that stands at its position: its router keeps the membership bits (R42 step 4) and the flits it
holds, its heartbeat stands as the pulses left it (R97, R98), and what it raised in the beat is still to be gathered (R157). -/
def freshCore (s : State) (id : CoreId) (sram : Core) : Core :=
  let old := getCore s id
  { Core.default with
    st := .halted
    lanes := seedLanes s id
    rowGroups := old.rowGroups
    colGroups := old.colGroups
    vc0Held := old.vc0Held
    arrivals := old.arrivals
    heartbeatOk := old.heartbeatOk
    silentReported := old.silentReported
    progressed := old.progressed
    beatA := old.beatA
    beatV := old.beatV
    beatC := old.beatC
    sram := sram.sram
    poisonLines := sram.poisonLines }

/-- A core loaded from its plan: record, the whole program window, and the SRAM-resident state (R42 step 5, R88). The lines written lose
their poison, the others keep it (R82). It stands HALTED until it starts (R91); an idle spare is not started (R90). -/
def loadCore (s : State) (id : CoreId) (sram : Core) (plan : CorePlan) : Core :=
  let c := { freshCore s id sram with cfg := plan.cfg, role := field plan.cfg 0 1, startDue := field plan.cfg 0 1 != 4 }
  let c := { c with
    sram := c.sram.filter (fun e => decide (progEnd c ≤ e.1))
    poisonLines := c.poisonLines.filter (fun l => decide (progEnd c ≤ 64 * l)) }
  plan.image.foldl (fun c seg => cfgWrite c seg.1 seg.2) c

/-- A core reloaded from the placement image over an SRAM, to start at the next resume; one that the placement does not name is
unassigned (R91). In a parked field it stands PARKED (R91). -/
def reloadCore (s : State) (id : CoreId) (sram : Core) : State :=
  let c := match s.placement.bind (fun p => corePlan p id) with
    | none => freshCore s id sram
    | some plan => loadCore s id sram plan
  setCore s id (if inParked s id then { c with st := .parked, parkedFrom := c.st } else c)

/-! ### Abandoning and replaying micro-batches (R43, R318, R211, R260) -/

/-- Whether a micro-batch is in progress: its forward or its backward work has begun and not ended. -/
def workInProgress (w : Work) : Bool :=
  !w.abandoned && (!w.forwardEnded || (!w.evaluation && w.backwardBegun && !w.backwardEnded))

/-- What names a layer of a micro-batch in `layersHeld` and `passed`: the layer's number is below 2^32 (R379). -/
def layerKey (seq layer : Nat) : Nat := seq * 2 ^ 32 + layer

/-- Whether a core holds stored activations of a micro-batch: those of a layer that the placement gives it, while they are held (R43, R228). -/
def holdsActs (s : State) (id : CoreId) (seq : Nat) : Bool :=
  match s.placement.bind (fun p => corePlan p id) with
  | none => false
  | some plan => plan.holds.any (fun l => s.stp.layersHeld.contains (layerKey seq l))

/-- The micro-batches that the loss of a core abandons (R43): those in progress, and those whose stored activations it holds; none where
the core has no work, unassigned or an idle spare (R88), or was never started, and so holds no micro-batch's state. -/
def abandonSet (s : State) (id : CoreId) : List Nat :=
  let c := getCore s id
  if c.role = 0 ∨ c.role = 4 ∨ c.startDue then []
  else (s.stp.work.filter (fun w => workInProgress w || (!w.abandoned && holdsActs s id w.seq))).map (fun w => w.seq)

/-- A descriptor cancelled where it serves an abandoned micro-batch (R318). -/
def cancelFor (seqs : List Nat) (d : Option Desc) : Option Desc :=
  d.map (fun d => if seqs.any (fun q => q % 2 ^ 32 == field d.bytes 4 4) then { d with cancelled := true } else d)

/-- Whether a descriptor serves one of some micro-batches. -/
def servesAny (seqs : List Nat) (b : List Byte) : Bool := seqs.any (fun q => q % 2 ^ 32 == field b 4 4)

/-- The descriptors of a queue that serve abandoned micro-batches and are not cancelled yet, with their engine and the runs written. -/
def cancelled (seqs : List Nat) (e : Nat × Queue) : List (Nat × List Byte × List Nat) :=
  (e.2.current.toList ++ e.2.shadow.toList).filterMap (fun d =>
    if !d.cancelled && servesAny seqs d.bytes then some (e.1 / 32, d.bytes, d.done) else none)

/-- Micro-batches are abandoned: their descriptors are cancelled, kept for the replay to arm afresh (R318) after those that completed for
them, which the replay reads and sends again (assumption log 96), and the trimmed streams' sets dropped (R211). -/
def abandon (s : State) (seqs : List Nat) : State :=
  if seqs = [] then s else
    { s with
      grid := { s.grid with abandoned := seqs.foldl (fun a q => nsIns q a) s.grid.abandoned }
      streams := { s.streams with
        rearm := s.streams.rearm ++ (s.streams.served.filter (fun e => servesAny seqs e.2)).map (fun e => (e.1, e.2, [])) ++
          s.streams.queues.flatMap (cancelled seqs)
        served := s.streams.served.filter (fun e => !servesAny seqs e.2)
        queues := s.streams.queues.map (fun e => (e.1, { e.2 with current := cancelFor seqs e.2.current, shadow := cancelFor seqs e.2.shadow }))
        trims := s.streams.trims.map (fun e => (e.1, { e.2 with predicted := none, nonzero := [], covered := [], dropped := true })) } }

/-- The sequence number of a step's first micro-batch (R13). -/
def stepFirstSeq (s : State) (step : Nat) : Nat :=
  getN s Key.seqOrigin + (step - getN s Key.stepOrigin) * getN s Key.microbatchesPerStep

/-- The groups of a gate's source table. -/
def gateGroups (s : State) (gate : Nat) : List Nat :=
  ((s.gates.sources.filter (fun e => e.gate == gate)).map (fun e => e.group)).eraseDups

/-- Whether a micro-batch has settled for a group. -/
def isSettled (s : State) (group seq : Nat) : Bool := s.gates.settled.any (fun e => e.1 == group && e.2.1 == seq)

/-- A cursor never waits behind a settled micro-batch (R260). `fuel` bounds the micro-batches passed. -/
def cursorPast (s : State) : Nat → Cursor → Cursor
  | 0, c => c
  | n + 1, c =>
    let gs := gateGroups s c.gate
    if gs != [] && gs.all (fun g => isSettled s g c.seq) then cursorPast s n { c with seq := c.seq + 1, pos := 0 } else c

/-- The cursor of every source set to the first position of a micro-batch (R260). -/
def resetCursors (s : State) (m : Nat) : State :=
  let cs := ((s.gates.sources.map (fun e => (e.gate, e.source))).eraseDups).map (fun e =>
    cursorPast s (s.gates.settled.length + 1) ⟨e.1, e.2, m, 0⟩)
  { s with gates := { s.gates with cursors := cs } }

/-- The waypoints that mark any of some micro-batches of the current step: a replay sends their reports again. -/
def marksOf (s : State) (seqs : List Nat) : List Nat :=
  match s.placement with
  | none => []
  | some p => (p.marks.filter (fun m => seqs.contains (stepFirstSeq s s.stp.step + m.k))).map (fun m => m.waypoint)

/-- What the step has counted for micro-batches that are abandoned taken back: the reports of their waypoints, the layers passed and held,
and the losses computed here (R43, R229). The layby copies stay, for the replay restarts from them (R222). -/
def forgetWork (s : State) (seqs : List Nat) : State :=
  let mine (k : Nat) : Bool := seqs.contains (k / 2 ^ 32)
  let ids := marksOf s seqs
  { s with stp := { s.stp with
      wpCount := s.stp.wpCount.filter (fun e => !ids.contains e.1)
      passed := s.stp.passed.filter (fun k => !mine k)
      layersHeld := s.stp.layersHeld.filter (fun k => !mine k)
      outGrads := s.stp.outGrads.filter (fun e => !(e.1 == 1024 && seqs.contains e.2)) } }

/-- The tile programs resume and the abandoned micro-batches, with those that still wait from an earlier replay, are replayed in ascending
order (R43); it waits for the detours of every dead core (R45). -/
def replayNow (s : State) : State :=
  if s.grid.deaths ≠ [] ∨ s.grid.underWay ≠ [] then s else
    let ab := s.grid.abandoned
    let waiting := ab.foldl (fun a q => nsIns q a) s.stp.replayPending
    let s := forgetWork (resumeAll s) ab
    let s := match ab, waiting with
      | _ :: _, m :: _ => raise (resetCursors s m) Key.recoveryFlags 2
      | _, _ => s
    { s with
      grid := { s.grid with detouring := false, abandoned := [] }
      gates := { s.gates with backwardEnded := s.gates.backwardEnded.filter (fun e => !ab.contains e.1) }
      stp := { s.stp with
        replayPending := waiting
        work := s.stp.work.map (fun w => if ab.contains w.seq then
          { w with forwardEnded := false, backwardBegun := false, backwardEnded := false, abandoned := true } else w) } }

/-- Packets held in the mesh, those in the routers' ejection buffers among them, are discarded when the engine leaves RUN for the handover
(R69). -/
def dropHeld (s : State) : State :=
  { mapCores s (fun _ c => { c with vc0Held := [] }) with
    mesh := { s.mesh with lanes := [], waiting := [], entering := [], fifos := [], ports := [], exits := [], closed := [] } }

end Sys2Proof.Machine
end

