-- ==== Sys2Proof/Machine/CoreRows.lean ====
section
/-! DEFINITION. What happens to a core beside its program: the scrubber, ring deliveries, the heartbeat, suspend and resume requests,
barriers and their timeout, exception reports and the waypoint schedule (04_core.md; 07_tile_programs.md R191 to R195; 16_beat_clocks.md
R401). -/

namespace Sys2Proof.Machine

/-- SCRUB_ROW_READ (R83): one row of each bank is read; errors met are handled by R81. The scrubber stops while the core's field is parked
and while the core is excluded. -/
def execScrubRowRead (core : CoreId) (row : BitVec 11) (errs : List SramErr) (s : State) : Host.Outcome State Fault Refusal :=
  if !inGrid s core || inParked s core then .next s
  else
    let r := (errs.filter (fun e => e.word / 32 == row.toNat)).foldl sramError (s, getCore s core)
    .next (setCore r.1 core r.2)

/-- SRAM_CORRECTED_WRITEBACK (R81): the corrected word is written back; the stored word is the corrected one already. -/
def execSramCorrectedWriteback (core : CoreId) (word : Nat) (s : State) : Host.Outcome State Fault Refusal :=
  .next (setCore s core { getCore s core with writeback := nsDel word (getCore s core).writeback })

/-- The ring that a flit is delivered into (R86). -/
def ringFor (c : Core) (hdr : W64) (vc : BitVec 2) : Nat :=
  let e (n : Nat) := bits (field c.cfg 0x28 48) (3 * n + 2) (3 * n)
  match hdrMode hdr with
  | 2 => e (hdrGroup hdr)
  | 3 => e (64 + hdrGroup hdr)
  | _ => bits (field c.cfg 4 2) (3 * vc.toNat - 1) (3 * vc.toNat - 3)

/-- One flit written into a ring at its write pointer (R82, R87). -/
def ringWrite (c : Core) (r : Nat) (f : Flit) : Core :=
  let c1 := sramWrite c (ringAddr c r (ringWrPtr c r)) (slice f.data 0 64) f.poison
  { c1 with ringWr := c1.ringWr.setIfInBounds r (ringMove c1 r (ringWrPtr c1 r) 1) }

/-- RING_DELIVERY (R86, R87): the next flit that a core's local port has granted on a channel is written into its ring, once the ring has a
free line; a core in a parked field takes none (R68). An instruction that waits for the ring is evaluated again (R177). -/
def execRingDelivery (core : CoreId) (vc : BitVec 2) (s : State) : Host.Outcome State Fault Refusal :=
  let c := getCore s core
  match c.arrivals.find? (fun m => m.vc == vc) with
  | none => .next s
  | some m =>
    let r := ringFor c m.hdr m.vc
    if c.st = .parked ∨ inParked s core ∨ ringLines c r ≤ ringHeld c r then .next s
    else
      let c := { ringWrite c r m.flit with arrivals := c.arrivals.eraseP (fun m => m.vc == vc) }
      .next (setCore s core (wakeCore s c))

/-- Whether the router counts a core's cycles, and the sequencer may pulse (R97, R98). -/
def heartCounted (c : Core) : Bool :=
  match c.st with
  | .reset => false
  | .loading => false
  | .parked => false
  | .dead => false
  | _ => true

/-- Whether a core stands in a state that counts for its pulse as progress does (R97). -/
def heartIdle (c : Core) : Bool :=
  match c.st with
  | .waiting => true
  | .suspended => true
  | .halted => true
  | .faulted => true
  | _ => false

/-- Whether a physical core is an unused spare whose router counts: its row's spare, in no use and not defective, in a field that is
powered, not parked and not excluded (R27, R30, R98). -/
def unusedSpare (s : State) (p : PhysId) : Bool :=
  decide (p.row < 288) && decide (p.col < 330) && p.col % 33 == 32 && p.col / 33 != getN s Key.excludedFieldColumn &&
    amGet 63 s.grid.runRows (physRow p) % 64 == 63 && getN s (Key.pwrFieldPowerState (physField p)) == 4

/-- HEARTBEAT_PULSE (R97): the sequencer pulses if its parity check passes and, since the previous pulse, it issued an instruction, a unit
that it had started made progress (`progress`), or it was in WAITING, SUSPENDED, HALTED or FAULTED. The sequencer of an unused spare
stands HALTED. -/
def execHeartbeatPulse (p : PhysId) (parityOk progress : Bool) (s : State) : Host.Outcome State Fault Refusal :=
  match logicalOf s p with
  | none =>
    if unusedSpare s p && parityOk then .next { s with grid := { s.grid with spareSilent := nsDel (physWord p) s.grid.spareSilent } }
    else .next s
  | some id =>
    let c := getCore s id
    if heartCounted c && parityOk && (c.progressed || progress || heartIdle c) then
      .next (setCore s id { c with heartbeatOk := true, silentReported := false, progressed := heartIdle c })
    else .next s

/-- CORE_SILENT (R98): the router reports its core once, until the next pulse; it does so for an unused spare too, which changes nothing
else (R99). -/
def execCoreSilent (p : PhysId) (s : State) : Host.Outcome State Fault Refusal :=
  match logicalOf s p with
  | none =>
    if unusedSpare s p && !s.grid.spareSilent.contains (physWord p) then
      .next (emit { s with grid := { s.grid with spareSilent := nsIns (physWord p) s.grid.spareSilent } } (.vc0Report 4 [physWord p]))
    else .next s
  | some id =>
    let c := getCore s id
    if heartCounted c && !c.silentReported then
      .next (emit (setCore s id { c with heartbeatOk := false, silentReported := true }) (.vc0Report 4 [physWord p]))
    else .next s

/-- CORE_SUSPEND (R92). -/
def execCoreSuspend (core : CoreId) (s : State) : Host.Outcome State Fault Refusal :=
  .next (setCore s core (suspendCore (getCore s core)))

/-- CORE_RESUME (R81, R92). -/
def execCoreResume (core : Met CoreId (List SramErr)) (s : State) : Host.Outcome State Fault Refusal :=
  let s := contextErrs s core.val core.errs
  .next (setCore s core.val (resumeCore s (getCore s core.val)))

/-- SYNC_TIMEOUT (R193): a core that has waited in SYNC for SYNC_TIMEOUT_BEATS boundaries raises the exception. -/
def execSyncTimeout (core : CoreId) (s : State) : Host.Outcome State Fault Refusal :=
  let c := getCore s core
  match c.st, c.wait with
  | .waiting, some (.sync _ _ _) =>
    if getN s Key.syncTimeoutBeats ≤ c.syncBeats then .next (takeException s core c excSyncTimeout c.pc 0 []) else .next s
  | _, _ => .next s

/-- SYNC_ARRIVAL (R192): the root counts the arrival in its own word and judges it; the reads of the word may meet errors (R81). -/
def execSyncArrival (root : CoreId) (barrier : BitVec 4) (epoch : Byte) (word : Met (BitVec 19) (List SramErr)) (s : State) :
    Host.Outcome State Fault Refusal :=
  let a := word.val.toNat
  let sc := readErrs a 8 word.errs (s, getCore s root)
  let c := sramWrite sc.2 a (leBytes 2 ((field (sramRead sc.2 a 2) 0 2 + 1) % 65536)) false
  let c := { c with lastArrival := amIns (barrier.toNat * 256 + epoch.toNat) c.lastArrival a }
  let r := judgeBarrier sc.1 root c a
  .next (setCore r.1 root r.2)

/-- RELEASED set in a core's barrier word. -/
def setReleased (c : Core) (w : BitVec 19) : Core :=
  sramWrite c (w.toNat + 5) [memRead c.sram (w.toNat + 5) ||| 1] false

/-- SYNC_RELEASE (R192, R193): a core whose current or saved instruction is SYNC WAIT on the barrier, and whose word holds the epoch,
sets RELEASED; a waiting core proceeds and clears it. The reads of the word may meet errors (R81). -/
def execSyncRelease (core : CoreId) (barrier : BitVec 4) (epoch : Met Byte (List SramErr)) (s : State) :
    Host.Outcome State Fault Refusal :=
  let c := getCore s core
  match c.st, c.wait with
  | .waiting, some (.sync b _ w) =>
    if b = barrier ∧ memRead c.sram (w.toNat + 4) = epoch.val then
      let sc := readErrs w.toNat 8 epoch.errs (s, c)
      .next (setCore sc.1 core (wakeCore s (setReleased sc.2 w)))
    else .next s
  | .suspended, some (.sync b _ w) =>
    if b = barrier ∧ memRead c.sram (w.toNat + 4) = epoch.val then
      let sc := readErrs w.toNat 8 epoch.errs (s, c)
      .next (setCore sc.1 core (setReleased sc.2 w))
    else .next s
  | _, _ => .next s

/-- What identifies a core's fault: its cause and program counter. -/
def faultCode (c : Core) : Nat := c.excCause * 65536 + c.excPc

/-- Whether a micro-batch's work has not ended. -/
def seqOpen (s : State) (m : Nat) : Bool :=
  s.stp.work.any (fun w => w.seq == m && (if w.evaluation then !w.forwardEnded else !w.backwardEnded))

/-- Whether a core's fault repeats one whose abandoned micro-batches are still being replayed (R95). Which of them the core replays when it
faults again the manual has no means to tell: any of them counts (DESIGN CHOICE, assumption log 82). -/
def faultRepeats (s : State) (core : CoreId) (c : Core) : Bool :=
  s.stp.faultSeen.any (fun e => e.1 == coreKey core && e.2.1 == faultCode c && e.2.2.any (seqOpen s))

/-- The faults remembered, with this one and the micro-batches that it abandons; those whose replay has ended are forgotten. -/
def noteFault (s : State) (core : CoreId) (c : Core) (seqs : List Nat) : List (Nat × Nat × List Nat) :=
  let old := s.stp.faultSeen.filter (fun e => e.2.2.any (seqOpen s) && !(e.1 == coreKey core && e.2.1 == faultCode c))
  if seqs = [] then old else (coreKey core, faultCode c, seqs) :: old

/-- The work of a CORE_EXCEPTION report (R95): the programs are suspended, the faulted core is reloaded in place, and the programs resume with the
replay; the same fault in the same replay holds every program instead. -/
def coreExceptionReport (core : CoreId) (s : State) : State :=
  let c := getCore s core
  if c.st ≠ .faulted ∨ c.excCause = excArrayCheck then s
  else if faultRepeats s core c then
    let s := suspendAll s
    let s := { s with stp := { s.stp with hold := true } }
    overrunCause (logEvent (raiseNow s Key.coreFlags 4) 0x12 [coreWord core, c.excCause, c.excPc]) 3
  else
    let seqs := abandonSet s core
    let seen := noteFault s core c seqs
    let s := abandon (suspendAll s) seqs
    let s := reloadCore s core (getCore s core)
    let s := { s with stp := { s.stp with faultSeen := seen } }
    let s := overrunCause s 3
    if s.grid.detouring then s else replayNow s

/-- CORE_EXCEPTION_REPORT (R81, R95). -/
def execCoreExceptionReport (core : Met CoreId (List (CoreId × List SramErr))) (s : State) : Host.Outcome State Fault Refusal :=
  .next (metBy core.errs (coreExceptionReport core.val) s)

/-! ### The waypoint schedule (R401) and the step's work (R13) -/

/-- An entry of the waypoint schedule (R401): identifier, expected reports and due offset. -/
def scheduleEntries (s : State) : List (Nat × Nat × Nat) :=
  let bs := getDom s Key.waypointSchedule
  (List.range (bs.length / 16)).map (fun i => (field bs (16 * i) 4, field bs (16 * i + 4) 4, field bs (16 * i + 8) 2))

/-- The work of a micro-batch changed by `f`. -/
def modifyWork (s : State) (seq : Nat) (f : Work → Work) : State :=
  { s with stp := { s.stp with work := s.stp.work.map (fun w => if w.seq == seq then f w else w) } }

end Sys2Proof.Machine
end

