-- ==== Sys2Proof/Machine/ObjWrite.lean ====
section
/-! DEFINITION. The write of an object: the checks of R557 in their order, the flags written one to clear (R434), the captures (R158)
and the high-water marks (R324, R393). -/

namespace Sys2Proof.Machine

/-! ### Status codes (R428) -/

abbrev stOk : Nat := 0
abbrev stNoObject : Nat := 1
abbrev stRoleDenied : Nat := 2
abbrev stReadOnly : Nat := 3
abbrev stWriteOnly : Nat := 4
abbrev stTxnRequired : Nat := 5
abbrev stBadType : Nat := 6
abbrev stBadValue : Nat := 7
abbrev stAbsent : Nat := 8
abbrev stGated : Nat := 9
abbrev stWrongState : Nat := 10
abbrev stConflict : Nat := 11
abbrev stNoTransaction : Nat := 12
abbrev stTxnLimit : Nat := 13
abbrev stQueueFull : Nat := 14
abbrev stGridMismatch : Nat := 15
abbrev stStale : Nat := 16
abbrev stBadRange : Nat := 17
abbrev stExpired : Nat := 18
abbrev stSessionLimit : Nat := 19
abbrev stInterrupted : Nat := 20

/-- The code of a role (R419). -/
def roleCode : Role → Nat
  | .observer => 0
  | .operator => 1
  | .owner => 2
  | .service => 3

/-- The bytes of a fixed-size type (R430); none for STR and DOMAIN. -/
def typeSize (t : Nat) : Option Nat :=
  match t with
  | 1 => some 1
  | 2 => some 1
  | 3 => some 2
  | 4 => some 4
  | 5 => some 8
  | 6 => some 1
  | 7 => some 2
  | 8 => some 4
  | 9 => some 8
  | 10 => some 4
  | _ => none

/-! ### Presence and clocks of units (R1, R3, R414) -/

/-- STREAM_ENGINES_PRESENT (R5). -/
def sePresent (v : Variant) : Nat :=
  match v with
  | .x => 0xFFFFFFFF
  | .l => 0x33333333

/-- STACKS_PRESENT and UPDATE_UNITS_PRESENT (R5). -/
def stackPresent (v : Variant) : Nat :=
  match v with
  | .x => 0xFFFF
  | .l => 0x5555

/-- AELIF_PORTS_PRESENT (R5). -/
def portPresent (v : Variant) : Nat :=
  match v with
  | .x => 0x0000FFFFFFFFFFFF
  | .l => 0x00000FF0FF0FF0FF

/-- Whether an object belongs to an absent unit (R1, R3, R160, R215). -/
def unitAbsent (v : Variant) (key : Nat) : Bool :=
  let idx := key / 256
  if 0x7010 ≤ idx ∧ idx ≤ 0x702F then !bit (sePresent v) (idx - 0x7010)
  else if 0x8010 ≤ idx ∧ idx ≤ 0x801F then !bit (stackPresent v) (idx - 0x8010)
  else if 0x6310 ≤ idx ∧ idx ≤ 0x631F then !bit (stackPresent v) (idx - 0x6310)
  else if 0x5010 ≤ idx ∧ idx ≤ 0x501F then !bit (stackPresent v) (idx - 0x5010)
  else if 0x4000 ≤ idx ∧ idx ≤ 0x402F then !bit (portPresent v) (idx - 0x4000)
  else v == .l && (idx / 256 == 0x64 || idx == 0x6302)

/-- Whether an object belongs to a unit whose clock enable is 0 (R414). -/
def unitGated (s : State) (key : Nat) : Bool :=
  let idx := key / 256
  if 0x7010 ≤ idx ∧ idx ≤ 0x702F then !bit (getN s Key.clockEnableSe) (idx - 0x7010)
  else if 0x8010 ≤ idx ∧ idx ≤ 0x801F then !bit (getN s Key.clockEnableUu) (idx - 0x8010)
  else if 0x6310 ≤ idx ∧ idx ≤ 0x631F then !bit (getN s Key.clockEnableUu) (idx - 0x6310)
  else if 0x4410 ≤ idx ∧ idx ≤ 0x4417 then !bit (getN s Key.clockEnableEp) (idx - 0x4410)
  else if 0x3020 ≤ idx ∧ idx ≤ 0x3021 then !bit (getN s Key.clockEnableMc) 4
  else false

/-- Whether an object belongs to a unit that bring-up has not started yet (R486; assumption log 28). -/
def unitUnstarted (s : State) (key : Nat) : Bool :=
  let idx := key / 256
  let ph := getN s Key.bringupPhase
  if 0x7010 ≤ idx ∧ idx ≤ 0x702F ∨ 0x8010 ≤ idx ∧ idx ≤ 0x801F ∨ 0x6310 ≤ idx ∧ idx ≤ 0x631F ∨ 0x5010 ≤ idx ∧ idx ≤ 0x501F then
    decide (ph < 3)
  else if 0x4000 ≤ idx ∧ idx ≤ 0x402F ∨ 0x4410 ≤ idx ∧ idx ≤ 0x4417 then decide (ph < 4)
  else false

/-! ### The checks of a write (R557) -/

/-- Checks 2 to 7 of R557. -/
def accessStatus (s : State) (role : Role) (inTxn : Bool) (key : Nat) : Nat :=
  match objRow (key / 256) (key % 256) with
  | none => stNoObject
  | some r =>
    if role = .observer then stRoleDenied
    else if r.acc ≤ 1 then stReadOnly
    else if !bit r.writers (roleCode role) then stRoleDenied
    else if r.acc = 4 ∧ !inTxn ∧ !(s.mgmt.recovery && key == Key.fwStageRequest) then stTxnRequired
    else if unitAbsent s.variant key then stAbsent
    else if unitGated s key then stGated
    else stOk

/-- Checks 2 to 10 of R557 of a write that carries a whole value. -/
def writeStatus (s : State) (role : Role) (inTxn : Bool) (key : Nat) (bs : List Byte) : Nat :=
  let a := accessStatus s role inTxn key
  if a ≠ stOk then a else
    match objRow (key / 256) (key % 256) with
    | none => stNoObject
    | some r =>
      match typeSize r.typ with
      | some n => if bs.length ≠ n then stBadType else if r.rng.ok (leNat bs) then stOk else stBadValue
      | none => if !inTxn && decide (bs.length < r.rng.least) then stBadRange else if r.rng.okBytes bs then stOk else stBadValue

/-- The bytes that a fixed-size object's write carries; too large a number does not fit the type. -/
def valueBytes (key v : Nat) : List Byte :=
  match (objRow (key / 256) (key % 256)).bind (fun r => typeSize r.typ) with
  | some n => if v < 256 ^ n then leBytes n v else leBytes (n + 1) v
  | none => []

/-- Checks 2 to 10 of R557 of a committed write of a fixed-size object. -/
def reqStatus (s : State) (key : Nat) (w : WReq) : Nat := writeStatus s w.role w.inTxn key (valueBytes key w.val)

/-- Whether a write can be committed at all: Parealo is open, or the boot ROM's exchange offers the object to the owner (R521). -/
def writesOpen (s : State) (role : Role) (key : Nat) : Bool :=
  s.par.isOpen || (s.mgmt.recovery && role == .owner && (key == Key.fwStageRequest || key == Key.resetRequest))

/-- A committed write of an object that has a row of its own: the checks, then the effect; its status is the response. -/
def ownWrite (s : State) (key : Nat) (w : WReq) (check : State → Nat → Nat) (effect : State → Nat → State) : State :=
  if !writesOpen s w.role key then s else
  let st := reqStatus s key w
  let st := if st = stOk then check s w.val else st
  let s := if st = stOk then effect s w.val else s
  emit s (.objStatus key st)

/-- The same of a DOMAIN object. -/
def ownWriteDom (s : State) (key : Nat) (w : DReq) (check : State → List Byte → Nat) (effect : State → List Byte → State) : State :=
  if !writesOpen s w.role key then s else
  let st := writeStatus s w.role w.inTxn key w.bytes
  let st := if st = stOk then check s w.bytes else st
  let s := if st = stOk then effect s w.bytes else s
  emit s (.objStatus key st)

/-- An object with no check of its chapter beyond the range. -/
def noCheck {α : Type} (_ : State) (_ : α) : Nat := stOk

/-! ### Flags, captures and high-water marks -/

/-- The flag words that the engine sets at the event itself (R434). -/
def eventFlags (key : Nat) : Bool := key == Key.gridFlags || key == Key.meshFlags || key == Key.coreFlags || key == Key.arrayFlags

/-- A write of ones to a flag word (R434): handed to the gathering, or cleared in the first cycle of the boundary. -/
def clearFlags (s : State) (key v : Nat) : State :=
  if eventFlags key then setN s key (getN s key - (getN s key &&& v))
  else { s with clears := stPut s.clears key (stGet s.clears key ||| v) }

/-- The capture objects that an EMPTY object empties: first and last subindex. -/
def captureSubs (key : Nat) : Nat × Nat :=
  if key = Key.crackCaptureEmpty then (3, 5) else (0, key % 256 - 1)

/-- The captures of an EMPTY object's index emptied. -/
def emptyCapture (s : State) (key : Nat) : State :=
  let r := captureSubs key
  let base := key / 256 * 256
  let s := (upFrom r.1 (r.2 + 1 - r.1)).foldl (fun s i => if base + i = Key.cycleCapture then setDom s (base + i) [] else setN s (base + i) 0) s
  setN s key 1

/-- A write to an EMPTY object; 0 is ignored. The INVALID capture empties after the gathering has updated it (R158). -/
def writeEmpty (s : State) (key v : Nat) : State :=
  if v = 0 then s
  else if key = Key.invalidCaptureEmpty then { s with clears := stPut s.clears key 1 }
  else emptyCapture s key

/-- Writing 0 to a high-water object resets it. -/
def resetHighWater (s : State) (key : Nat) (_ : Nat) : State := setN s key 0

/-- The kind of an object. -/
def objKind (key : Nat) : ObjKind :=
  match objRow (key / 256) (key % 256) with
  | some r => r.kind
  | none => .plain

/-- W1C_FLAG_CLEAR (R434, R157): a committed write of a flag word. -/
def execW1cFlagClear (idx sub : Nat) (w : WReq) (s : State) : Host.Outcome State Fault Refusal :=
  let key := idx * 256 + sub % 256
  .next (match objKind key with
    | .w1c _ => ownWrite s key w noCheck (fun s v => clearFlags s key v)
    | _ => s)

/-- CAPTURE_EMPTY (R158): a committed write of an EMPTY object. -/
def execCaptureEmpty (idx sub : Nat) (w : WReq) (s : State) : Host.Outcome State Fault Refusal :=
  let key := idx * 256 + sub % 256
  .next (match objKind key with
    | .emptier => ownWrite s key w noCheck (fun s v => writeEmpty s key v)
    | _ => s)

/-- HIGH_WATER_RESET (R379, R324): a committed write of a high-water object. -/
def execHighWaterReset (idx sub : Nat) (w : WReq) (s : State) : Host.Outcome State Fault Refusal :=
  let key := idx * 256 + sub % 256
  .next (match objKind key with
    | .hiWater => ownWrite s key w noCheck (fun s v => resetHighWater s key v)
    | _ => s)

end Sys2Proof.Machine
end

