-- ==== Sys2Proof/Machine/Sha.lean ====
section
/-! DEFINITION. SHA-256 and HMAC-SHA-256, which the manual names (R278, R342, R420, R521) and does not restate: FIPS 180-4 and FIPS
198-1 (assumption log 13). -/

namespace Sys2Proof.Machine

/-- The greatest number whose `e`-th power is at most `v`, its bits settled from bit `n - 1` down over `r`, what the higher bits give. -/
def rootDown (e v : Nat) : Nat → Nat → Nat
  | 0, r => r
  | n + 1, r => rootDown e v n (if (r + 2 ^ n) ^ e ≤ v then r + 2 ^ n else r)

/-- The first 32 bits of the fraction of the `e`-th root of `p` (`p` below 2^10). -/
def rootFraction (e p : Nat) : W32 := BitVec.ofNat 32 (rootDown e (p * 2 ^ (32 * e)) 37 0)

/-- The primes below 312, the first 64 of them: numbers that no prime below their root divides. -/
def shaPrimes : List Nat :=
  (List.range 312).filter (fun n => decide (1 < n) && [2, 3, 5, 7, 11, 13, 17].all (fun d => n % d != 0 || n == d))

/-- The round constants: the cube roots' fractions (FIPS 180-4). -/
def shaK : List W32 := shaPrimes.map (rootFraction 3)

/-- The initial hash value: the square roots' fractions of the first eight. -/
def shaInit : List W32 := (shaPrimes.take 8).map (rootFraction 2)

/-- Rotation to the right. -/
def rotr (x : W32) (n : Nat) : W32 := (x >>> n) ||| (x <<< (32 - n))

/-- `n` bytes of a number, most significant first. -/
def beBytes (n v : Nat) : List Byte := (leBytes n v).reverse

/-- The number that bytes hold, most significant first. -/
def beNat (bs : List Byte) : Nat := leNat bs.reverse

/-- The message padded to whole blocks. -/
def shaPad (bs : List Byte) : List Byte :=
  let z := (119 - bs.length % 64) % 64
  bs ++ [0x80] ++ List.replicate z 0 ++ beBytes 8 (8 * bs.length)

/-- A word turned right by each of the amounts, the results added bit by bit (modulo 2). -/
def turned (x : W32) (amounts : List Nat) : W32 := amounts.foldl (fun acc n => acc ^^^ rotr x n) 0

/-- The message schedule, newest word first: `n` words more. -/
def shaSchedule : Nat → List W32 → List W32
  | 0, ws => ws
  | n + 1, ws =>
    let ago (k : Nat) : W32 := ws.getD (k - 1) 0
    let old := turned (ago 15) [7, 18] ^^^ (ago 15 >>> 3)
    let new := turned (ago 2) [17, 19] ^^^ (ago 2 >>> 10)
    shaSchedule n ((ago 16 + old + ago 7 + new) :: ws)

/-- One round over the eight working words: all move down one place, the fifth taking in what the last words give. -/
def shaRound (h : List W32) (kw : W32 × W32) : List W32 :=
  let v (i : Nat) : W32 := h.getD i 0
  let choice := (v 4 &&& v 5) ||| (~~~(v 4) &&& v 6)
  let major := ((v 0 ||| v 1) &&& v 2) ||| (v 0 &&& v 1)
  let mixed := v 7 + turned (v 4) [6, 11, 25] + choice + kw.1 + kw.2
  [mixed + turned (v 0) [2, 13, 22] + major, v 0, v 1, v 2, v 3 + mixed, v 4, v 5, v 6]

/-- One block. -/
def shaBlock (h : List W32) (block : List Byte) : List W32 :=
  let w0 := (List.range 16).map (fun i => BitVec.ofNat 32 (beNat (slice block (4 * i) 4)))
  let ws := (shaSchedule 48 w0.reverse).reverse
  List.zipWith (· + ·) h ((shaK.zip ws).foldl shaRound h)

/-- SHA-256: 32 bytes. -/
def sha256 (bs : List Byte) : List Byte :=
  let p := shaPad bs
  ((chunksOf 64 (p.length / 64) p).foldl shaBlock shaInit).flatMap (fun w => beBytes 4 w.toNat)

/-- HMAC-SHA-256. -/
def hmacSha256 (key msg : List Byte) : List Byte :=
  let k := slice (if 64 < key.length then sha256 key else key) 0 64
  sha256 (k.map (· ^^^ 0x5c) ++ sha256 (k.map (· ^^^ 0x36) ++ msg))

end Sys2Proof.Machine
end

