-- ==== Sys2Proof/Machine/Aelif.lean ====
section
/-! DEFINITION. The Aelif links (13_aelif_links.md): ports, frames, retry, the crossbars, the link plan, discovery and bridges. A
direction is 0 north, 1 east, 2 south, 3 west; so is a crescent. -/

namespace Sys2Proof.Machine

/-! ### Ports -/

/-- The direction of a port, which is also its crescent (R326). -/
def portDir (p : Nat) : Nat := p / 12

/-- Whether a port is an adjacent port (R326). -/
def portAdj (p : Nat) : Bool := decide (p % 12 < 8)

/-- The adjacent and the skip ports of a direction. -/
def adjPorts (d : Nat) : List Nat := upFrom (12 * d) 8
def skipPorts (d : Nat) : List Nat := upFrom (12 * d + 8) 4

/-- The port that a port is cabled to (R326). -/
def facingPort (p : Nat) : Nat := (p + 24) % 48

/-- The opposite direction. -/
def oppositeDir (d : Nat) : Nat := (d + 2) % 4

/-- The number of a direction. -/
def dirNum : Dir → Nat
  | .north => 0
  | .east => 1
  | .south => 2
  | .west => 3

def getPort (s : State) (p : Nat) : PortRec := amGet PortRec.default s.aelif.ports p
def setPort (s : State) (p : Nat) (r : PortRec) : State := { s with aelif := { s.aelif with ports := amIns r s.aelif.ports p } }

/-- PORT_STATE; an absent port is ABSENT. -/
def portSt (s : State) (p : Nat) : Nat := if bit (portPresent s.variant) p then getN s (Key.portState p) else 0

/-- Whether a port is ACTIVE. -/
def portActive (s : State) (p : Nat) : Bool := portSt s p == 4

/-! ### The pod and the plan (R338, R342) -/

/-- The engine's own position and the pod's size (object 4082:00). -/
def podX (s : State) : Nat := bits (getN s Key.podPosition) 3 0
def podY (s : State) : Nat := bits (getN s Key.podPosition) 7 4
def podW (s : State) : Nat := bits (getN s Key.podPosition) 11 8 + 1
def podH (s : State) : Nat := bits (getN s Key.podPosition) 15 12 + 1

/-- The size of a plan's pod. -/
def planW (bs : List Byte) : Nat := field bs 0x10 1
def planH (bs : List Byte) : Nat := field bs 0x11 1

/-- The entry of a position, 0 where the plan has none. -/
def planEntry (bs : List Byte) (x y : Nat) : Nat :=
  if x < planW bs ∧ y < planH bs then field bs (64 + 16 * (y * planW bs + x)) 16 else 0

/-- The fields of an entry. -/
def entryAddress (e : Nat) : Nat := bits e 17 0
def entrySparable (e : Nat) : Bool := bit e 26
def entryRoot (e : Nat) : Bool := bit e 27
def entryMask (e : Nat) : Nat := bits e 79 32

/-- The entries of a plan, in order. -/
def planEntries (bs : List Byte) : List Nat := (List.range (planW bs * planH bs)).map (fun i => field bs (64 + 16 * i) 16)

/-- Whether an entry's PORT_MASK keeps R338 in a pod of `w` by `h`. -/
def maskFits (w h mask : Nat) : Bool :=
  (List.range 48).all (fun p => !bit mask p ||
    (let n := if portDir p % 2 = 1 then w else h
     decide (2 ≤ n) && (portAdj p || decide (4 ≤ n))))

/-- Whether a list has no number twice. -/
def noRepeat : List Nat → Bool
  | [] => true
  | x :: xs => !xs.contains x && noRepeat xs

/-- The plan is one that the engine may install (R342). Whose PORT_MASK is held against the ports present is not said (R4, R342): here only
the engine's own entry, since it knows no other engine's ports (DESIGN CHOICE, assumption log 92). -/
def planOk (s : State) (bs : List Byte) : Bool :=
  let w := planW bs
  let h := planH bs
  let es := planEntries bs
  let own := s.mgmt.address
  decide (64 ≤ bs.length) && decide (1 ≤ w) && decide (w ≤ 16) && decide (1 ≤ h) && decide (h ≤ 16) && bs.length == 64 + 16 * (w * h) &&
  field bs 0 4 == 0x4E414C50 && field bs 4 2 == 1 && decide (field bs 6 2 < 2) && field bs 0x12 2 == w * h && field bs 0x14 40 == 0 &&
  field bs 0x3C 4 == crc32c (slice bs 0 0x3C) &&
  (List.range (w * h)).all (fun i =>
    let e := es.getD i 0
    bits e 31 28 == 0 && bits e 127 80 == 0 && entryAddress e != 0x3FFFF && bits e 21 18 == i % w && bits e 25 22 == i / w &&
      maskFits w h (entryMask e)) &&
  noRepeat (es.map entryAddress) && (es.filter entryRoot).length == 1 &&
  (match es.find? (fun e => entryAddress e == own) with
    | some e => entryMask e &&& portPresent s.variant == entryMask e
    | none => false)

/-- The check of LINK_PLAN (R342). -/
def planCheck (s : State) (bs : List Byte) : Nat :=
  if !planOk s bs then stBadValue else if inRun s then stWrongState else stOk

/-- The plan is installed; it takes effect at the next discovery (R342). -/
def planEffect (s : State) (bs : List Byte) : State :=
  setN (setDom (setDom s Key.linkPlan bs) Key.planHash (sha256 bs)) Key.planSerial (field bs 0x0C 4)

/-- LINK_PLAN (R342). -/
def execLinkPlan (w : DReq) (s : State) : Host.Outcome State Fault Refusal :=
  .next (ownWriteDom s Key.linkPlan w planCheck planEffect)

/-- The engine's own entry of the plan in force. -/
def ownEntry (s : State) : Nat := planEntry s.aelif.plan (podX s) (podY s)

/-- Whether a port is planned. -/
def portPlanned (s : State) (p : Nat) : Bool := bit (entryMask (ownEntry s)) p

/-- The position at a distance from another, in a pod of `w` by `h`. -/
def stepFrom (w h x y d n : Nat) : Nat × Nat :=
  match d with
  | 0 => (x, (y + h - n % h) % h)
  | 1 => ((x + n) % w, y)
  | 2 => (x, (y + n) % h)
  | _ => ((x + w - n % w) % w, y)

/-- The position at a distance from the engine. -/
def neighbourPos (s : State) (d n : Nat) : Nat × Nat := stepFrom (podW s) (podH s) (podX s) (podY s) d n

/-- The plan entry of the neighbour in a direction. -/
def neighbourEntry (s : State) (d n : Nat) : Nat :=
  let q := neighbourPos s d n
  planEntry s.aelif.plan q.1 q.2

/-- The direction that R336 gives from one position toward another; none where they are the same. -/
def routeDir (w h x y dx dy : Nat) : Option Nat :=
  if dx ≠ x then some (if (dx + w - x) % w ≤ w / 2 then 1 else 3)
  else if dy ≠ y then some (if (dy + h - y) % h ≤ h / 2 then 2 else 0)
  else none

/-- Whether a direction is bridged (object 40C0:01). -/
def dirBridged (s : State) (d : Nat) : Bool := bit (getN s Key.bridgedDirections) d

/-- Whether an adjacent neighbour is planned, and whether it is present (R344). -/
def neighbourPlanned (s : State) (d : Nat) : Bool := (adjPorts d).any (portPlanned s)
def neighbourPresent (s : State) (d : Nat) : Bool :=
  decide (getN s Key.minPorts ≤ ((adjPorts d).filter (fun p => portPlanned s p && portActive s p)).length)

/-- Whether a skip neighbour is present (R344). -/
def skipPresent (s : State) (d : Nat) : Bool :=
  let ps := (skipPorts d).filter (portPlanned s)
  ps != [] && ps.all (portActive s)

/-- Whether the gap in a direction may be bridged (R345, R346): the engine beyond it is there, as the skip ports show, or, on an engine
without skip ports, what was reported with the absence (assumption log 92). -/
def bridgeable (s : State) (d : Nat) : Bool :=
  entrySparable (neighbourEntry s d 1) && (if s.variant == .l then !s.aelif.beyond.contains d else skipPresent s d)

/-- Whether a planned adjacent neighbour lets the engine enter RUN (R344). -/
def neighbourSettled (s : State) (d : Nat) : Bool :=
  !neighbourPlanned s d || neighbourPresent s d || (s.aelif.absent.contains d && dirBridged s d)

/-- Whether every planned adjacent neighbour is present or bridged. -/
def neighboursSettled (s : State) : Bool := (List.range 4).all (neighbourSettled s)

/-! ### What discovery shows (R343, R344, R348) -/

/-- PORTS_DIFFERING: an UNPLANNED port, or a planned port that is not ACTIVE. -/
def portsDiffering (s : State) : Nat :=
  (List.range 48).foldl (fun m p => if portSt s p = 5 ∨ (portPlanned s p = true ∧ portActive s p = false) then m + 2 ^ p else m) 0

/-- NEIGHBOURS_PRESENT. -/
def neighboursWord (s : State) : Nat :=
  (List.range 4).foldl (fun m d => m + b2n (neighbourPlanned s d && neighbourPresent s d) * 2 ^ d + b2n (skipPresent s d) * 2 ^ (d + 4)) 0

/-- The position of the TICK_ROOT. -/
def rootPos (s : State) : Option (Nat × Nat) :=
  match (planEntries s.aelif.plan).find? entryRoot with
  | some e => some (bits e 21 18, bits e 25 22)
  | none => none

/-- Whether the engine is the pod's tick root. -/
def isTickRoot (s : State) : Bool := entryRoot (ownEntry s)

/-- The direction of the first leg toward the root (R348). -/
def upstreamDir (s : State) : Option Nat :=
  match rootPos s with
  | some q => routeDir (podW s) (podH s) (podX s) (podY s) q.1 q.2
  | none => none

/-- The upstream tick port (R348); 0xFF at the root or where there is none. -/
def tickPortOf (s : State) : Nat :=
  match upstreamDir s with
  | some d =>
    match (if dirBridged s d then skipPorts d else adjPorts d).find? (portActive s) with
    | some p => p
    | none => 0xFF
  | none => 0xFF

/-- The links of a route from a position toward another; `n` bounds them. -/
def hopsTo (w h dx dy : Nat) : Nat → Nat → Nat → Nat
  | 0, _, _ => 0
  | n + 1, x, y =>
    match routeDir w h x y dx dy with
    | some d => let q := stepFrom w h x y d 1; 1 + hopsTo w h dx dy n q.1 q.2
    | none => 0

/-- TICK_HOPS: a gap that this engine bridges counts as one link (R345). -/
def tickHopsOf (s : State) : Nat :=
  match rootPos s, upstreamDir s with
  | some q, some d =>
    let n := if dirBridged s d then 2 else 1
    let p := neighbourPos s d n
    1 + hopsTo (podW s) (podH s) q.1 q.2 32 p.1 p.2
  | _, _ => 0

/-- DISCOVERY_STATE: running until every planned port has been classified or its neighbour found absent. -/
def discoveryOf (s : State) : Nat :=
  if getN s Key.bringupPhase < 5 ∧ (List.range 48).all (fun p => !(getPort s p).trained) = true then 0
  else if s.aelif.plan = [] then (if (List.range 48).any (fun p => (getPort s p).heard) then 3 else 1)
  else if (List.range 48).any (fun p => portPlanned s p && decide (1 ≤ portSt s p) && decide (portSt s p ≤ 3) &&
      !s.aelif.absent.contains (portDir p)) then 1
  else if portsDiffering s = 0 then 2 else 3

/-- The discovery objects brought up to date. -/
def refreshDiscovery (s : State) : State :=
  let s := setN s Key.portsDiffering (portsDiffering s)
  let s := setN s Key.neighboursPresent (neighboursWord s)
  let s := setN s Key.discoveryState (discoveryOf s)
  setN (setN s Key.tickPort (tickPortOf s)) Key.tickHops (tickHopsOf s)

/-- Discovery begins: the installed plan comes into force (R342, R343). -/
def beginDiscovery (s : State) : State :=
  let bs := getDom s Key.linkPlan
  let s := { s with aelif := { s.aelif with plan := bs } }
  match (planEntries bs).find? (fun e => entryAddress e == s.mgmt.address) with
  | some e => setN s Key.podPosition (bits e 25 18 + (planW bs - 1) * 256 + (planH bs - 1) * 4096)
  | none => setN s Key.podPosition 0

/-! ### Frames (R328) -/

/-- A frame's bytes, with its CRC; every DATA frame shows HEAD, which the second frame of a packet repeats. -/
def frameBytes (f : AFrame) : List Byte :=
  let n := f.flits.length
  let h := f.typ % 4 + f.vc.toNat * 4 + b2n (f.head || f.typ == 0) * 16 + b2n f.tail * 32 + b2n f.dateline * 64 + (n - 1) % 32 * 128 +
    f.destX % 16 * 2 ^ 12 + f.destY % 16 * 2 ^ 16 + f.landing % 4096 * 2 ^ 20 + f.frameSeq.toNat * 2 ^ 32 + f.ackSeq.toNat * 2 ^ 40 +
    b2n f.nak * 2 ^ 48 + f.creditVc.toNat * 2 ^ 49 + f.creditCount % 4096 * 2 ^ 51
  let poison := (List.range n).foldl (fun m i => m + b2n ((f.flits.getD i ⟨[], false⟩).poison) * 2 ^ i) 0
  let body := leBytes 8 h ++ leBytes 4 poison
  body ++ leBytes 4 (crc32c (body ++ flitBytes f.flits)) ++ flitBytes f.flits

/-- A DATA frame read from bytes, and the bytes after it; none where the bytes hold no whole DATA frame with a good CRC. -/
def frameOf (bs : List Byte) : Option (AFrame × List Byte) :=
  let h := field bs 0 8
  let n := bits h 11 7 + 1
  let len := 16 + 64 * n
  if bs.length < len ∨ bits h 1 0 ≠ 0 ∨ bit h 63 ∨ field bs 12 4 ≠ crc32c (slice bs 0 12 ++ slice bs 16 (64 * n)) then none
  else
    let po := field bs 8 4
    some (⟨0, BitVec.ofNat 2 (bits h 3 2), bit h 4, bit h 5, bit h 6, bits h 15 12, bits h 19 16, bits h 31 20,
      BitVec.ofNat 8 (bits h 39 32), BitVec.ofNat 8 (bits h 47 40), bit h 48, BitVec.ofNat 2 (bits h 50 49), bits h 62 51,
      (List.range n).map (fun i => ⟨slice bs (16 + 64 * i) 64, bit po i⟩), 0, 0, true, false⟩, bs.drop len)

/-- A DATA frame to a destination. -/
def dataFrame (vc : BitVec 2) (head tail : Bool) (x y landing : Nat) (flits : List Flit) : AFrame :=
  ⟨0, vc, head, tail, false, x, y, landing, 0, 0, false, 0, 0, flits, 0, 0, true, false⟩

/-- The frames of a packet: the first is full whenever there are two (R328). -/
def framesOf (vc : BitVec 2) (x y landing : Nat) (flits : List Flit) : List AFrame :=
  if flits.length ≤ 32 then [dataFrame vc true true x y landing flits]
  else [dataFrame vc true false x y landing (flits.take 32), dataFrame vc false true x y landing (flits.drop 32)]

/-- The acknowledgement and credit fields of a frame that leaves a port; the credits name each VC in turn (R329). HEAD is repeated in the
second frame of a packet (R328). -/
def withAcks (r : PortRec) (f : AFrame) : AFrame :=
  { f with
    head := f.head || f.typ == 0
    ackSeq := r.rxSeq
    nak := r.nakState
    creditVc := BitVec.ofNat 2 r.turn
    creditCount := r.freed.getD (r.turn % 4) 0 % 4096 }

/-- A frame leaves a port. -/
def sendFrame (s : State) (p : Nat) (f : AFrame) : State :=
  let r := getPort s p
  emit (setPort s p { r with turn := (r.turn + 1) % 4 }) (.aelif p (withAcks r f))

/-- A CONTROL frame leaves a port. -/
def sendControl (s : State) (p : Nat) : State :=
  sendFrame s p ⟨1, 0, false, false, false, 0, 0, 0, 0, 0, false, 0, 0, [], 0, 0, true, false⟩

/-! ### The sender (R330 to R332) -/

/-- The flits of a frame leave the receive buffer that holds them (R330). -/
def freeFlits (s : State) (q : QFrame) : State :=
  match q.origin.buffer with
  | none => s
  | some p =>
    let r := getPort s p
    setPort s p { r with freed := modifyAt (fun c => (c + q.frame.flits.length) % 4096) r.freed q.frame.vc.toNat }

/-- Whether a sender holds credit for a frame on its VC and class (R330). -/
def hasCredit (r : PortRec) (f : AFrame) : Bool :=
  let n := f.flits.length
  let out := r.sent.filter (fun e => e.1 == f.vc.toNat)
  let total := (out.map (fun e => e.2.2)).sum
  let cls := ((out.filter (fun e => e.2.1 == f.dateline)).map (fun e => e.2.2)).sum
  if f.vc = 0 then decide (total + n ≤ 64) else decide (total + n ≤ 1024) && decide (cls + n ≤ 896)

/-- Whether two frames belong to one landing from one source of traffic. -/
def sameLanding (a b : AFrame) : Bool := a.destX == b.destX && a.destY == b.destY && a.landing == b.landing

/-- A head frame waits while another port of the direction holds frames of its landing unacknowledged (R337). -/
def landingHeld (s : State) (p : Nat) (f : AFrame) : Bool :=
  f.head && (upFrom (12 * portDir p) 12).any (fun q => q != p && (getPort s q).unacked.any (sameLanding f))

/-- The first frame of a VC in a port's queue, where it may start. -/
def readyFrame (s : State) (p : Nat) (r : PortRec) (vc : Nat) : Option QFrame :=
  match r.queue.find? (fun f => f.frame.vc.toNat == vc) with
  | some f => if hasCredit r f.frame && !landingHeld s p f.frame then some f else none
  | none => none

/-- The frame that a sender chooses next (R331). -/
def chooseFrame (s : State) (p : Nat) (r : PortRec) : Option QFrame :=
  let others := [r.rr % 3 + 1, (r.rr + 1) % 3 + 1, (r.rr + 2) % 3 + 1]
  let next := others.findSome? (readyFrame s p r)
  match readyFrame s p r 0 with
  | some f => if r.vc0Run < 16 ∨ next = none then some f else next
  | none => next

/-- One new frame sent, where the sender may send one: at most 64 frames are unacknowledged (R332). It has left the engine's buffers. -/
def sendNext (s : State) (p : Nat) : State :=
  let r := getPort s p
  if !portActive s p || decide (64 ≤ r.unacked.length) then s
  else
    match chooseFrame s p r with
    | none => s
    | some q =>
      let f := q.frame
      let g := { f with frameSeq := r.txSeq }
      let r := { r with
        txSeq := r.txSeq + 1
        queue := r.queue.erase q
        unacked := r.unacked ++ [g]
        sent := r.sent ++ [(f.vc.toNat, f.dateline, f.flits.length)]
        vc0Run := if f.vc = 0 then r.vc0Run + 1 else 0
        rr := if f.vc = 0 then r.rr else f.vc.toNat }
      sendFrame (freeFlits (addN (setPort s p r) (Key.portPayloadTx p) 64 (64 * f.flits.length)) q) p g

/-- New frames sent as long as the sender may. -/
def sendAll (s : State) (p : Nat) : Nat → State
  | 0 => s
  | n + 1 => sendAll (sendNext s p) p n

/-- Every port of a direction sends what it may. -/
def pumpDir (s : State) (d : Nat) : State :=
  (upFrom (12 * d) 12).foldl (fun s p => sendAll s p (getPort s p).queue.length) s

/-- Every unacknowledged frame is replayed in order (R332). -/
def replayPort (s : State) (p : Nat) : State :=
  let fs := (getPort s p).unacked
  if fs = [] then s
  else
    let s := raise (addN s (Key.portFramesReplayed p) 64 fs.length) (Key.portFlags p) 2
    fs.foldl (fun s f => sendFrame s p f) s

/-! ### The crossbar (R334 to R336, R345, R346) -/

/-- A message handed to the transport for a flow; it waits for the flow's window (R356, R359). -/
def ethEnqueue (s : State) (dest : Nat) (encap : Bool) (bs : List Byte) : State :=
  let hit (f : TxFlow) : Bool := f.dest == dest && f.encap == encap
  let tx := if s.eth.tx.any hit then s.eth.tx.map (fun f => if hit f then { f with waiting := f.waiting ++ [bs] } else f)
    else s.eth.tx ++ [⟨dest, encap, 1, [], [bs], 0, 1⟩]
  { s with eth := { s.eth with tx := tx } }

/-- The logical column before which stream engine `i` of the north or the south crescent stands: the eight stand evenly along the edge
(R60 compares distances to it; the manual gives no places; assumption log 93). -/
def engineCol (s : State) (i : Nat) : Nat := (2 * i + 1) * logicalCols s / 16

/-- The end of a span at which a north or south crescent injects a row multicast: SPAN_LO, or SPAN_HI where that is nearer to the stream
engine that sends it (R60). -/
def spanEnd (s : State) (src : Option Nat) (h : W64) : Nat :=
  match src with
  | none => hdrLo h
  | some i =>
    let dist (c : Nat) : Nat := (c - engineCol s i) + (engineCol s i - c)
    if dist (hdrHi h) < dist (hdrLo h) then hdrHi h else hdrLo h

/-- The core at whose router a crescent injects a packet (R59, R60): `src` is the stream engine of the crescent that sends it. A west or
east crescent injects a column multicast at row SPAN_LO, and every crescent a broadcast at row 0 or column 0 of its edge: the manual
gives no place (assumption log 93). -/
def entryCore (s : State) (crescent : Nat) (src : Option Nat) (h : W64) : CoreId :=
  let east := logicalCols s - 1
  let col := match hdrMode h with
    | 2 => spanEnd s src h
    | 4 => 0
    | _ => hdrCol h
  let row := match hdrMode h with
    | 3 => hdrLo h
    | 4 => 0
    | _ => hdrRow h
  match crescent with
  | 0 => ⟨col, 0⟩
  | 1 => ⟨east, row⟩
  | 2 => ⟨col, 287⟩
  | _ => ⟨0, row⟩

/-- A crescent injects a packet into the mesh, unless R58 refuses it. -/
def crescentInject (s : State) (crescent : Nat) (src : Option Nat) (p : Packet) : State :=
  if headerRefused s p.hdr p.vc.toNat then s else injectAt s (entryCore s crescent src p.hdr) crescent p

/-- Landing entry `n` (R335). -/
def landingHeader (s : State) (n : Nat) : W64 := BitVec.ofNat 64 (field (getDom s Key.landingTable) (8 * n) 8)

/-- The flits of a packet land (R335), injected by the crescent of arrival; LANDING 4,095 is the pull endpoint's, whose work
PULL_ENDPOINT_REQUEST and the block rows give (R506). -/
def landPacket (s : State) (fs : List QFrame) : State :=
  match fs with
  | [] => s
  | q :: _ =>
    let f := q.frame
    let flits := fs.flatMap (fun f => f.frame.flits)
    let s := fs.foldl freeFlits s
    if f.landing = 4095 then s
    else crescentInject s q.origin.crescent none ⟨withLength (landingHeader s f.landing) flits.length, f.vc, flits⟩

/-- The ports in force for a direction (R337), in the order of the roles they hold (R343). -/
def portsInForce (s : State) (d : Nat) : List Nat :=
  sortBy (fun p => getN s (Key.portRolePort p)) ((upFrom (12 * d) 12).filter (fun p => bit (stGet s.aelif.assigned d) p))

/-- The port of a landing in a direction (R336). -/
def landingPort (s : State) (d : Nat) (f : AFrame) : Option Nat :=
  let ps := portsInForce s d
  if ps = [] then none else ps[(f.landing + f.destX + 16 * f.destY) % ps.length]?

/-- The dateline class of a frame that leaves in a direction over `n` links' length (R336). -/
def datelineOut (s : State) (from_ : Option Nat) (d n : Nat) (f : AFrame) : Bool :=
  let turned := match from_ with
    | some i => i % 2 == 1 && d % 2 == 0
    | none => true
  let wraps := match d with
    | 0 => decide (podY s < n)
    | 1 => decide (podW s ≤ podX s + n)
    | 2 => decide (podH s ≤ podY s + n)
    | _ => decide (podX s < n)
  wraps || (f.dateline && !turned)

/-- The crescents whose crossbars a frame passes after its own on the way to the ports of a direction (R334): to the opposite crescent
clockwise, but counter-clockwise where it arrived on a port of odd number. -/
def rimPath (o : Origin) (d : Nat) : List Nat :=
  if d = o.crescent then []
  else if d = oppositeDir o.crescent then [(o.crescent + (if o.odd then 3 else 1)) % 4, d]
  else [d]

/-- Frames held at the engine for a direction. -/
def holdFrames (s : State) (d : Nat) (fs : List QFrame) : State :=
  { s with aelif := { s.aelif with gapHeld := s.aelif.gapHeld ++ fs.map (fun f => (d, f)) } }

/-- A resumed frame in a queue: behind the second frames whose first has left, which no other frame of their VC may part from it (R331), and
behind the frames that resumed before it (R339). -/
def insertResumed (q : List QFrame) (f : QFrame) : List QFrame :=
  let second (g : QFrame) : Bool := !g.frame.head && (q.find? (fun h => h.frame.vc == g.frame.vc)) == some g
  let rest := q.filter (fun g => !second g)
  q.filter second ++ rest.takeWhile (fun g => g.resumed) ++ [{ f with resumed := true }] ++ rest.dropWhile (fun g => g.resumed)

/-- A frame put into the queue of a port. -/
def enqueue (s : State) (p : Nat) (f : QFrame) : State :=
  let r := getPort s p
  setPort s p { r with queue := if f.resumed then insertResumed r.queue f else r.queue ++ [f] }

/-- The frames of one packet leave in a direction, over the rim (R334, R336). -/
def leaveBy (s : State) (d : Nat) (fs : List QFrame) : State :=
  let n := if dirBridged s d then 2 else 1
  let fs := fs.map (fun f => { f with frame := { f.frame with dateline := datelineOut s f.origin.dir d n f.frame }, rim := rimPath f.origin d })
  if dirBridged s d && s.variant == .l then
    fs.foldl (fun s f => freeFlits (ethEnqueue s (entryAddress (neighbourEntry s d 2)) true (frameBytes f.frame)) f) s
  else
    match fs.head?.bind (fun f => landingPort s d f.frame) with
    | some p => pumpDir (fs.foldl (fun s f => enqueue s p f) s) d
    | none => holdFrames s d fs

/-- The frames of a rim buffer: those of a VC and class that wait for the ports of another crescent than the one where they came in (R334). -/
def rimBuffer (s : State) (vc : BitVec 2) (cls : Bool) (dest : Nat) : List QFrame :=
  (upFrom (12 * dest) 12).flatMap (fun p => (getPort s p).queue.filter (fun f => f.rim != [] && f.frame.vc == vc && f.frame.dateline == cls))

/-- A crossbar routes the frames of one packet (R336, R345). The fuel bounds the substitutes followed: a destination has one of 256
positions. -/
def routeFrames (s : State) : Nat → List QFrame → State
  | 0, fs => holdFrames s ((fs.head?.bind (fun f => routeDir (podW s) (podH s) (podX s) (podY s) f.frame.destX f.frame.destY)).getD 0) fs
  | n + 1, fs =>
    match fs with
    | [] => s
    | f :: _ =>
      match routeDir (podW s) (podH s) (podX s) (podY s) f.frame.destX f.frame.destY with
      | none => landPacket s fs
      | some d =>
        if dirBridged s d && neighbourPos s d 1 == (f.frame.destX, f.frame.destY) then
          let sub := field (getDom s Key.substituteTable) (16 * f.frame.destY + f.frame.destX) 1
          if sub % 16 = f.frame.destX ∧ sub / 16 = f.frame.destY then holdFrames s d fs
          else routeFrames s n (fs.map (fun f => { f with frame := { f.frame with destX := sub % 16, destY := sub / 16 } }))
        else leaveBy s d fs

/-- The substitutes that a frame may follow. -/
abbrev routeFuel : Nat := 257

/-- Departure entry `d` of a crescent (R335): destination and landing. -/
def departureEntry (s : State) (crescent d : Nat) : Nat := field (getDom s Key.departureTable) (4 * (32 * crescent + d)) 4

/-- A packet at a departure endpoint leaves over Aelif (R335). -/
def departPacket (s : State) (crescent d : Nat) (p : Packet) : State :=
  let e := departureEntry s crescent d
  routeFrames s routeFuel ((framesOf p.vc (bits e 3 0) (bits e 7 4) (bits e 19 8) p.flits).map (fun f =>
    ⟨f, ⟨none, crescent, false, none⟩, false, []⟩))

/-- Frames taken packet by packet. -/
def packetsOf : Nat → List QFrame → List (List QFrame)
  | 0, _ => []
  | _, [] => []
  | n + 1, f :: fs =>
    match f.frame.tail, fs with
    | false, g :: gs => if g.frame.head then [f] :: packetsOf n fs else [f, g] :: packetsOf n gs
    | _, _ => [f] :: packetsOf n fs

/-- Every held frame is routed again, from where it came. -/
def releaseHeld (s : State) : State :=
  let held := s.aelif.gapHeld
  let s := { s with aelif := { s.aelif with gapHeld := [] } }
  (List.range 4).foldl (fun s d =>
    let fs := (held.filter (fun e => e.1 == d)).map (fun e => e.2)
    (packetsOf (fs.length + 1) fs).foldl (fun s p => routeFrames s routeFuel p) s) s

/-! ### The receiver (R329, R332) -/

/-- Flits of a VC known freed: the oldest of those sent drop out. -/
def dropSent (vc : Nat) : Nat → List (Nat × Bool × Nat) → List (Nat × Bool × Nat)
  | _, [] => []
  | 0, es => es
  | k, (v, c, n) :: es =>
    if v ≠ vc then (v, c, n) :: dropSent vc k es
    else if n ≤ k then dropSent vc (k - n) es
    else (v, c, n - k) :: es

/-- Whether an accepted frame's ACK_SEQ covers a frame that waits for it. -/
def ackedFrames (ack : BitVec 8) (fs : List AFrame) : List AFrame :=
  if fs.any (fun f => f.frameSeq == ack) then (fs.dropWhile (fun f => f.frameSeq != ack)).drop 1 else fs

/-- The beats that one ms spans, at least one (R333; within a beat no time is told: assumption log 92). -/
def nakBeats (s : State) : Nat := max 1 ((1000 + getN s Key.beatPeriodUs - 1) / getN s Key.beatPeriodUs)

/-- The acknowledgement, NAK and credit fields of an accepted frame take effect (R329, R332, R333). -/
def takeAcks (s : State) (p : Nat) (f : AFrame) : State :=
  let r := getPort s p
  let vc := f.creditVc.toNat
  let delta := (f.creditCount + 4096 - r.peerFreed.getD vc 0 % 4096) % 4096
  let r := { r with
    unacked := ackedFrames f.ackSeq r.unacked
    peerFreed := setAt (f.creditCount % 4096) r.peerFreed vc
    sent := dropSent vc delta r.sent
    naks := if f.nak then (r.naks ++ [beatNow s]).filter (fun b => decide (beatNow s < b + nakBeats s)) else r.naks }
  setPort s p r

/-- The beats of one minute (R333). -/
def minuteBeats (s : State) : Nat := 60000000 / getN s Key.beatPeriodUs

/-- A port retrains (R333); after RETRAIN_LIMIT retrains within a minute it is DOWN. A QUARANTINED one must hear its peer anew (R341). -/
def retrain (s : State) (p : Nat) : State :=
  let r := getPort s p
  let now := beatNow s
  let past := (r.retrains ++ [now]).filter (fun b => decide (now < b + minuteBeats s))
  let down := decide (getN s Key.retrainLimit ≤ past.length)
  let s := setPort s p { r with
    retrains := past, naks := [], trained := r.trained && !down, heard := r.heard && !down && portSt s p != 6 }
  refreshDiscovery (setN (raise s (Key.portFlags p) 3) (Key.portState p) (if down then 1 else 2))

/-- After the fields of a frame have been taken: the replay that a NAK asks for, or a retrain after 16 NAKs, and new frames. -/
def answerAcks (s : State) (p : Nat) (nak : Bool) : State :=
  let s := if nak then
      (if 16 ≤ (getPort s p).naks.length then retrain s p else if portActive s p then replayPort s p else s)
    else s
  pumpDir s (portDir p)

/-- The FEC's report is counted, by codewords. -/
def countFec (s : State) (p : Nat) (f : AFrame) : State :=
  addN (addN s (Key.portFecCorrected p) 64 f.fec) (Key.portFecUncorrectable p) 64 f.fecBad

/-- Whether a frame is accepted (R329). -/
def frameOk (f : AFrame) : Bool := f.fecBad == 0 && f.crcOk && !f.reserved && (f.typ == 0 || f.vc == 0)

/-- A DATA frame that is not accepted: the receiver discards it and answers NAK until the expected one arrives (R332). -/
def rejectFrame (s : State) (p : Nat) : State :=
  sendControl (setPort s p { getPort s p with nakState := true }) p

/-- The first frames, on a port, of the packet whose second frame has come: its own, or, where the frame resumes from a lost port of the
direction (R339), those accepted there. -/
def firstFrames (s : State) (p : Nat) (f : AFrame) : Option (Nat × AFrame) :=
  let on (q : Nat) : Option (Nat × AFrame) :=
    ((getPort s q).partials.find? (fun e => e.1 == f.vc.toNat && sameLanding e.2 f)).map (fun e => (q, e.2))
  (p :: (upFrom (12 * portDir p) 12).filter (fun q => q != p && !portActive s q)).findSome? on

/-- A port holds no first frame on a VC any more. -/
def dropPartial (s : State) (p vc : Nat) : State :=
  let r := getPort s p
  setPort s p { r with partials := r.partials.filter (fun e => e.1 != vc) }

/-- A frame in the receive buffer of a port. -/
def heldFrame (p : Nat) (f : AFrame) : QFrame := ⟨f, ⟨some (portDir p), portDir p, p % 2 == 1, some p⟩, false, []⟩

/-- An accepted frame enters the crossbar: a packet of two frames goes on when its second frame is in (R336). HEAD is set in both (R328): the
frame that follows a first one of its VC and landing is the second. -/
def crossFrame (s : State) (p : Nat) (f : AFrame) : State :=
  let vc := f.vc.toNat
  if !f.tail then
    let s := dropPartial s p vc
    let r := getPort s p
    setPort s p { r with partials := r.partials ++ [(vc, f)] }
  else
    match firstFrames s p f with
    | some (q, g) => routeFrames (dropPartial s q vc) routeFuel [heldFrame q g, heldFrame p { f with head := false }]
    | none => routeFrames (dropPartial s p vc) routeFuel [heldFrame p f]

/-- A DATA frame in order: its flits stand in the receive buffer until the crossbar or the landing takes them (R330). -/
def acceptFrame (s : State) (p : Nat) (f : AFrame) : State :=
  let r := getPort s p
  let n := f.flits.length
  let s := setPort s p { r with rxSeq := f.frameSeq, nakState := false }
  sendControl (crossFrame (addN s (Key.portPayloadRx p) 64 (64 * n)) p f) p

/-- Whether a port takes DATA and CONTROL frames: an UNPLANNED port carries only signposts and ticks, and one that trains or is down
nothing (R341, R343). -/
def carriesFrames (s : State) (p : Nat) : Bool := decide (p < 48) && portActive s p

/-- DATA_FRAME_RECEIVE (R329, R332, R334). -/
def execDataFrameReceive (port : Nat) (f : AFrame) (s : State) : Host.Outcome State Fault Refusal :=
  if !carriesFrames s port then .next s
  else
    let s := countFec s port f
    if !frameOk f || f.typ != 0 || f.flits.isEmpty || decide (32 < f.flits.length) then .next (rejectFrame s port)
    else
      let s := takeAcks s port f
      let s := if f.frameSeq = (getPort s port).rxSeq + 1 then acceptFrame s port f else rejectFrame s port
      .next (answerAcks s port f.nak)

/-- CONTROL_FRAME_RECEIVE (R329). -/
def execControlFrameReceive (port : Nat) (f : AFrame) (s : State) : Host.Outcome State Fault Refusal :=
  if !carriesFrames s port then .next s
  else
    let s := countFec s port f
    if !frameOk f || f.typ != 1 || !f.flits.isEmpty then .next s
    else .next (answerAcks (takeAcks s port f) port f.nak)

/-- AELIF_REPLAY_TIMEOUT (R332). -/
def execAelifReplayTimeout (port : Nat) (s : State) : Host.Outcome State Fault Refusal :=
  .next (if carriesFrames s port then replayPort s port else s)

/-! ### Training, loss and resumption (R333, R339) -/

/-- LOSS_OF_LOCK (R333). -/
def execLossOfLock (port : Nat) (s : State) : Host.Outcome State Fault Refusal :=
  let st := portSt s port
  .next (if port < 48 ∧ (st = 4 ∨ st = 5 ∨ st = 6 ∨ st = 3) then retrain s port else s)

/-- The frames after the last that the peer accepted (R339). -/
def framesAfter (last : BitVec 8) (fs : List AFrame) : List AFrame :=
  if fs.any (fun f => f.frameSeq == last) then (fs.dropWhile (fun f => f.frameSeq != last)).drop 1 else fs

/-- An unacknowledged frame that has to be sent again from here. -/
def resumeFrame (d : Nat) (f : AFrame) : QFrame := ⟨f, ⟨none, d, false, none⟩, true, []⟩

/-- A lost port's frames resume on other ACTIVE ports of the direction, ahead of new frames of their landings (R339); without one they
stay held. -/
def resumeFrames (s : State) (p : Nat) (peerLast : BitVec 8) : State :=
  let d := portDir p
  let kind (q : Nat) : Bool := portAdj q == portAdj p
  let ps := sortBy (fun q => getN s (Key.portRolePort q)) ((upFrom (12 * d) 12).filter (fun q => q != p && kind q && portActive s q))
  let r := getPort s p
  if ps = [] ∨ (r.unacked = [] ∧ r.queue = []) then s
  else
    let fs := (framesAfter peerLast r.unacked).map (resumeFrame d) ++ r.queue
    let s := setPort s p { r with unacked := [], queue := [], sent := [] }
    let put (s : State) (f : QFrame) : State :=
      match ps[(f.frame.landing + f.frame.destX + 16 * f.frame.destY) % ps.length]? with
      | some q => enqueue s q { f with resumed := true }
      | none => s
    pumpDir (raise (fs.foldl put s) (Key.portFlags p) 4) d

/-- The sender asks the peer, on another ACTIVE port of the direction, for the last FRAME_SEQ that it accepted on a port that is lost (R339). -/
def askPeer (s : State) (p : Nat) : State :=
  match (upFrom (12 * portDir p) 12).find? (fun q => q != p && portActive s q) with
  | some q => if (getPort s p).unacked = [] then s else emit s (.lastSeqRequest p q)
  | none => s

/-- PORT_DOWN (R333, R339): a port that is not ACTIVE again in time is DOWN; its frames resume after the last that the peer, asked on
another port of the direction, accepted; `peerLast` is its answer. A port DISABLED or UNPLANNED keeps its state and resumes its frames
likewise. -/
def execPortDown (port : Nat) (peerLast : BitVec 8) (s : State) : Host.Outcome State Fault Refusal :=
  let st := portSt s port
  if 48 ≤ port ∨ st = 0 then .next s
  else
    let s := if st = 7 ∨ st = 5 then s else setN s (Key.portState port) 1
    let s := if st = 7 ∨ st = 5 then s else setPort s port { getPort s port with trained := false, heard := false }
    let s := if !portAdj port && portPlanned s port then raise s Key.discoveryFlags 3 else s
    .next (refreshDiscovery (resumeFrames (askPeer s port) port peerLast))

/-- LAST_FRAME_SEQ_REQUEST (R339): the last FRAME_SEQ accepted in order on the lost port, answered on another ACTIVE port of the same
direction. -/
def execLastFrameSeqRequest (lostPort viaPort : Nat) (s : State) : Host.Outcome State Fault Refusal :=
  .next (if viaPort < 48 ∧ portDir viaPort = portDir lostPort ∧ portActive s viaPort = true then
      emit s (.lastSeq viaPort (getPort s lostPort).rxSeq)
    else s)

/-- The check and the effect of PORT_ENABLE (R351): a disabled port stops; an enabled one trains. -/
def portEnableEffect (p : Nat) (s : State) (v : Nat) : State :=
  let old := getN s (Key.portEnable p)
  let s := setN s (Key.portEnable p) v
  if v = old then s
  else if v = 0 then refreshDiscovery (setN (setPort s p { getPort s p with trained := false, heard := false }) (Key.portState p) 7)
  else setN s (Key.portState p) (if 4 ≤ getN s Key.bringupPhase then 2 else 1)

/-- PORT_ENABLE (R351). -/
def execPortEnable (port : Nat) (w : WReq) (s : State) : Host.Outcome State Fault Refusal :=
  .next (if port < 48 then ownWrite s (Key.portEnable port) w noCheck (portEnableEffect port) else s)

/-! ### Signposts and discovery (R340, R341, R343, R347) -/

/-- The signpost that a port sends (R340). -/
def signpostBytes (s : State) (p : Nat) : List Byte :=
  let plan := decide (getDom s Key.linkPlan ≠ [])
  leBytes 4 (s.mgmt.address) ++ leBytes 1 p ++ leBytes 1 (getN s Key.versionMin) ++ leBytes 1 (getN s Key.versionMax) ++
  leBytes 1 (b2n plan + 2 * b2n (inRun s) + 4 * b2n (s.variant == .x)) ++ leBytes 4 (getN s (Key.fwRunningVersion 0)) ++
  leBytes 2 (if plan then getN s Key.podPosition % 256 else 0) ++ leBytes 2 0 ++ slice (getDom s Key.planHash) 0 32 ++
  leBytes 8 (beatNow s) ++ leBytes 8 0

/-- SIGNPOST_SEND (R340): every trained port; the frame carries the acknowledgement and credit fields as every other (R328, R329). -/
def execSignpostSend (port : Nat) (s : State) : Host.Outcome State Fault Refusal :=
  .next (if port < 48 ∧ (getPort s port).trained = true ∧ 3 ≤ portSt s port ∧ portSt s port ≤ 6 then
      sendFrame s port ⟨2, 0, false, false, false, 0, 0, 0, 0, 0, false, 0, 0, [⟨signpostBytes s port, false⟩], 0, 0, true, false⟩
    else s)

/-- The agreed protocol version (R341); none where the ends share none. -/
def agreedVersion (s : State) (sp : List Byte) : Option Nat :=
  let v := min (getN s Key.versionMax) (field sp 6 1)
  if max (getN s Key.versionMin) (field sp 5 1) ≤ v then some v else none

/-- The case of R343 for a trained port: state, cause, and whether it is permuted. -/
def portCase (s : State) (p : Nat) : Nat × Nat × Bool :=
  let sp := getDom s (Key.portPeerSignpost p)
  let peer := field sp 4 1
  let facing := facingPort p
  let e := neighbourEntry s (portDir p) (if portAdj p then 1 else 2)
  if !portPlanned s p then (5, 1, false)
  else if (agreedVersion s sp).isNone then (6, 0, false)
  else if slice sp 0x10 32 ≠ slice (sha256 s.aelif.plan) 0 32 then (5, 5, false)
  else if field sp 0 4 % 2 ^ 18 ≠ entryAddress e then (5, 2, false)
  else if portDir peer ≠ portDir facing ∨ portAdj peer ≠ portAdj facing then (5, 4, false)
  else if peer ≠ facing then (if bit (field s.aelif.plan 6 2) 0 then (4, 0, true) else (5, 3, false))
  else (4, 0, false)

/-- The role of a port: the plan port that its peer port faces (R343). -/
def portRole (s : State) (p : Nat) : Nat := facingPort (field (getDom s (Key.portPeerSignpost p)) 4 1)

/-- Whether a trained port's signpost shows a replaced peer (R347). -/
def portReplaced (s : State) (p : Nat) : Bool := portSt s p == 5 && getN s (Key.portUnplannedCause p) == 6

/-- Whether a port claims a role: by its own signpost it would be ACTIVE (R343). -/
def claimsRole (s : State) (p : Nat) : Bool :=
  (getPort s p).trained && (getPort s p).heard && (portCase s p).1 == 4 && !portReplaced s p

/-- The other ports of a port's group that claim its role. -/
def sameRole (s : State) (p : Nat) : List Nat :=
  if (portCase s p).1 ≠ 4 then []
  else (upFrom (12 * portDir p) 12).filter (fun q => q != p && portAdj q == portAdj p && claimsRole s q && portRole s q == portRole s p)

/-- A port takes a state and a cause, and raises what they show. -/
def settlePort (s : State) (p : Nat) (c : Nat × Nat × Bool) : State :=
  let was := portSt s p
  let s := setN (setN s (Key.portState p) c.1) (Key.portUnplannedCause p) c.2.1
  let s := setN s (Key.portRolePort p) (if c.1 = 4 then portRole s p else p)
  if c.1 = was then s
  else if c.1 = 5 then raise s Key.discoveryFlags 0
  else if c.1 = 6 then raise s Key.discoveryFlags 1
  else if c.2.2 then raise s (Key.portFlags p) 0
  else s

/-- A port classified (R343): ports of one group that claim one role are all UNPLANNED with cause 3. -/
def classifyPort (s : State) (p : Nat) : State :=
  let s := setN s (Key.portVersion p) ((agreedVersion s (getDom s (Key.portPeerSignpost p))).getD 0)
  match sameRole s p with
  | [] => settlePort s p (portCase s p)
  | qs => (p :: qs).foldl (fun s q => settlePort s q (5, 3, false)) s

/-- Whether a signpost that arrives in RUN names another peer than the last one accepted on the port (R347). -/
def peerReplaced (s : State) (p : Nat) (bs : List Byte) : Bool :=
  let old := getDom s (Key.portPeerSignpost p)
  inRun s && old != [] && (field old 0 4 != field bs 0 4 || slice old 0x10 32 != slice bs 0x10 32)

/-- A neighbour that is present again is absent no longer. -/
def presentAgain (s : State) (d : Nat) : State :=
  if neighbourPresent s d then { s with aelif := { s.aelif with absent := nsDel d s.aelif.absent, beyond := nsDel d s.aelif.beyond } } else s

/-- What an accepted signpost shows of its port. -/
def takeSignpost (s : State) (port : Nat) (bs : List Byte) : State :=
  let replaced := peerReplaced s port bs
  let s := setDom s (Key.portPeerSignpost port) bs
  let s := setPort s port { getPort s port with heard := true }
  let s := if field bs 8 4 ≠ getN s (Key.fwRunningVersion 0) then raise s (Key.portFlags port) 1 else s
  if replaced then
    let s := setN (setN s (Key.portState port) 5) (Key.portUnplannedCause port) 6
    refreshDiscovery (logEvent (raise s Key.discoveryFlags 4) 9 [port])
  else if portSt s port = 6 ∨ portReplaced s port ∨ portSt s port = 2 then s
  else pumpDir (refreshDiscovery (presentAgain (classifyPort s port) (portDir port))) (portDir port)

/-- SIGNPOST_RECEIVE (R329, R341, R343, R347): the signpost is the frame's one flit. -/
def execSignpostReceive (port : Nat) (f : AFrame) (s : State) : Host.Outcome State Fault Refusal :=
  let r := getPort s port
  if 48 ≤ port ∨ r.trained = false ∨ portSt s port < 2 ∨ portSt s port = 7 then .next s
  else
    let s := countFec s port f
    let bs := flitBytes f.flits
    if !frameOk f || f.typ != 2 || bs.length != 64 || field bs 0 4 / 2 ^ 18 != 0 || field bs 7 1 / 8 != 0 || field bs 0x0D 1 != 0 ||
        field bs 0x0E 2 != 0 || field bs 0x38 8 != 0 || decide (47 < field bs 4 1) then .next s
    else .next (answerAcks (takeSignpost (takeAcks s port f) port bs) port f.nak)

/-- The ports that have shown their signpost, but `port`, classified by the plan in force: a discovery begins (R342, R343). A port that is
QUARANTINED or shows a replaced peer stays so until it trains itself (R341, R347). -/
def reclassify (s : State) (port : Nat) : State :=
  let again (s : State) (p : Nat) : Bool :=
    p != port && (getPort s p).trained && (getPort s p).heard && decide (3 ≤ portSt s p) && decide (portSt s p ≤ 5) && !portReplaced s p
  (List.range 48).foldl (fun s p => if again s p then classifyPort s p else s) s

/-- Frames that came in on a port before it trained anew stand in no buffer that its peer now counts (R330). -/
def forgetBuffer (s : State) (p : Nat) : State :=
  let clear (f : QFrame) : QFrame := if f.origin.buffer = some p then { f with origin := { f.origin with buffer := none } } else f
  { s with aelif := { s.aelif with
      ports := s.aelif.ports.map (fun e => (e.1, { e.2 with queue := e.2.queue.map clear }))
      gapHeld := s.aelif.gapHeld.map (fun e => (e.1, clear e.2)) } }

/-- A port trains: a retrained port takes up its frames where it stood; a port that was down starts anew with those that its peer had not
accepted, up to `last`, when it lost the port (R332, R339; assumption log 92). A QUARANTINED port waits for a new signpost (R341).
Discovery classifies the port once one has arrived (R333, R343). -/
def trainPort (s : State) (port delayPs : Nat) (last : BitVec 8) : State :=
  let st := portSt s port
  if 48 ≤ port ∨ st = 0 ∨ st = 7 then s
  else
    let old := getPort s port
    let s := if old.trained then s else forgetBuffer s port
    let r := getPort s port
    let r := if r.trained then { r with heard := r.heard && st != 6 }
      else { PortRec.default with
        queue := (framesAfter last r.unacked).map (resumeFrame (portDir port)) ++ r.queue, retrains := r.retrains, trained := true }
    let s := reclassify (beginDiscovery (setN (setPort s port r) (Key.portLinkDelayPs port) delayPs)) port
    let s := setN s (Key.portState port) 3
    let s := if r.heard then classifyPort s port else s
    pumpDir (refreshDiscovery s) (portDir port)

/-- PORT_TRAINED (R333, R343): the round trip measured, and the last FRAME_SEQ that the peer had accepted in order before this training. -/
def execPortTrained (port : Nat) (delayPs : Met Nat (BitVec 8)) (s : State) : Host.Outcome State Fault Refusal :=
  .next (trainPort s port delayPs.val delayPs.errs)

/-- NEIGHBOUR_ABSENT (R345, R347): the neighbour is found absent, and, on an engine without skip ports, whether the engine beyond it is
absent too; the bridge, where there can be one, is applied at the next boundary. -/
def execNeighbourAbsent (d : Met Dir Bool) (s : State) : Host.Outcome State Fault Refusal :=
  let n := dirNum d.val
  if !neighbourPlanned s n then .next s
  else
    let s := { s with aelif := { s.aelif with
      absent := nsIns n s.aelif.absent
      beyond := if d.errs then nsIns n s.aelif.beyond else nsDel n s.aelif.beyond } }
    .next (setN (setN s Key.portsDiffering (portsDiffering s)) Key.discoveryState (discoveryOf s))

/-- SUBSTITUTE_TABLE (R345): frames that waited for a substitute go on. -/
def execSubstituteTable (w : DReq) (s : State) : Host.Outcome State Fault Refusal :=
  .next (ownWriteDom s Key.substituteTable w noCheck (fun s bs => releaseHeld (setDom s Key.substituteTable bs)))

/-! ### At a beat boundary (R337, R345, R347) -/

/-- The frames in a port's replay buffer are discarded when the bridge is applied (R347); those that wait are routed again. -/
def dropReplay (s : State) (p : Nat) : State :=
  let r := getPort s p
  holdFrames (setPort (addN s Key.framesDroppedAbsent 64 r.unacked.length) p { r with unacked := [], queue := [], sent := [] })
    (portDir p) r.queue

/-- The bridges of absent neighbours are applied where there can be one, and those of neighbours present again end. -/
def applyBridges (s : State) : State :=
  let old := getN s Key.bridgedDirections
  let due := (List.range 4).filter (fun d => s.aelif.absent.contains d && !bit old d && bridgeable s d)
  let word := (List.range 4).foldl (fun m d => if (bit old d && s.aelif.absent.contains d) || due.contains d then m + 2 ^ d else m) 0
  let s := setN (setN s Key.bridgedDirections word) Key.reshapeState (if word = 0 then 0 else if s.variant = .l then 2 else 1)
  due.foldl (fun s d => (adjPorts d).foldl dropReplay s) s

/-- Whether a port carries the traffic of its direction: it is ACTIVE, or it retrains and keeps what it had (R333). -/
def keepsTraffic (s : State) (d p : Nat) : Bool :=
  portActive s p || (bit (stGet s.aelif.assigned d) p && (getPort s p).trained && (portSt s p == 2 || portSt s p == 3))

/-- The frames of a port that wait move to the ports now in force, but a second frame whose first has left (R337). -/
def reassign (s : State) (p : Nat) : State :=
  let r := getPort s p
  let second (g : QFrame) : Bool :=
    bit (stGet s.aelif.assigned (portDir p)) p && !g.frame.head && (r.queue.find? (fun h => h.frame.vc == g.frame.vc)) == some g
  (r.queue.filter (fun g => !second g)).foldl (fun s f => match landingPort s (portDir p) f.frame with
    | some q => enqueue s q f
    | none => holdFrames s (portDir p) [f]) (setPort s p { r with queue := r.queue.filter second })

/-- The assignment of ports to directions brought into force (R337): where it changes, what waits on the direction's ports follows it. -/
def assignPorts (s : State) : State :=
  let mask (d : Nat) : Nat := (if dirBridged s d then skipPorts d else adjPorts d).foldl
    (fun m p => if keepsTraffic s d p then m + 2 ^ p else m) 0
  let old := s.aelif.assigned
  let s := { s with aelif := { s.aelif with assigned := (List.range 4).foldl (fun a d => stPut a d (mask d)) [] } }
  (List.range 4).foldl (fun s d =>
    if stGet old d = stGet s.aelif.assigned d then s else (upFrom (12 * d) 12).foldl reassign s) s

/-- An idle port sends a CONTROL frame (R328; here one in each beat: assumption log 92). -/
def idleControl (s : State) (p : Nat) : State :=
  if portActive s p && (getPort s p).queue.isEmpty then sendControl s p else s

/-- What takes effect at a boundary of what changed on the links before it: bridges and the assignment of ports. A port that changes state
at the boundary itself counts at the following one (R349). -/
def linkBoundary (s : State) : State := assignPorts (applyBridges s)

/-- The boundary's work on the links: held frames are routed again, every direction sends what it may, and idle ports their CONTROL frames. -/
def aelifBoundary (s : State) : State :=
  let s := (List.range 4).foldl pumpDir (releaseHeld (refreshDiscovery s))
  (List.range 48).foldl idleControl s

end Sys2Proof.Machine
end

