-- ==== Sys2Proof/Machine/Mesh.lean ====
section
/-! DEFINITION. The on-wafer network (03_wafer_network.md): the routers' lanes, credits, arbitration and routes, and the delivery of a
packet flit by flit. -/

namespace Sys2Proof.Machine

/-! ### Links (R50, R51, R54, R56, R66) -/

/-- The neighbour router in a direction: 0 north, 1 east, 2 south, 3 west; none outward from the grid. -/
def meshStep (s : State) (c : CoreId) (d : Nat) : Option CoreId :=
  match d with
  | 0 => if c.row = 0 then none else some ⟨c.col, c.row - 1⟩
  | 1 => if c.col + 1 < logicalCols s then some ⟨c.col + 1, c.row⟩ else none
  | 2 => if c.row < 287 then some ⟨c.col, c.row + 1⟩ else none
  | _ => if c.col = 0 then none else some ⟨c.col - 1, c.row⟩

/-- The input port at which a link in a direction arrives. -/
def facing (d : Nat) : Nat := (d + 2) % 4

/-- The key of a router's output port: directions 0 to 3, 4 local. -/
def outKey (c : CoreId) (out : Nat) : Nat := coreKey c * 5 + out

/-- Whether a field's regulator is off. -/
def fieldDark (s : State) (f : Nat) : Bool := getN s (Key.pwrFieldPowerState f) == 0

/-- The field of the excluded column that a hop between two logical columns passes straight through (R70); none where it passes none. A west or
an east crescent connection beyond an excluded column 0 or 9 passes its fields, dark ones too: R70 speaks of X legs (DESIGN CHOICE, assumption
log 93). -/
def passedField (s : State) (a b : CoreId) : Option Nat :=
  let ex := getN s Key.excludedFieldColumn
  if ex < 10 ∧ a.row = b.row ∧ min a.col b.col + 1 = 32 * ex ∧ max a.col b.col = 32 * ex then some (10 * (a.row / 32) + ex) else none

/-- Whether a link crosses a field boundary, with its FIFO (R66). -/
def crosses (s : State) (a b : CoreId) : Bool := coreField s a != coreField s b

/-- Whether a link crosses the seam between field columns 4 and 5 (R66). -/
def crossesSeam (s : State) (a b : CoreId) : Bool := decide (coreField s a % 10 < 5) != decide (coreField s b % 10 < 5)

/-- Whether a flit may go from one router to another by an output: none into a dark field; no head into a field that drains from outside
it, into a row whose routers take no new head flits from outside such rows (R69, R74), or straight across a field of the excluded column
that drains or was shut; no unicast's head across a dark one (R70; assumption log 93 for what else meets one). -/
def mayEnter (s : State) (a b : CoreId) (out : Nat) (m : MFlit) : Bool :=
  let f := coreField s b
  !fieldDark s f && (!m.head ||
    (!((getField s f).draining && coreField s a != f) && !(rowClosed s b && !rowClosed s a) &&
      (match if out = 0 then none else passedField s a b with
       | some x => !(getField s x).draining && !(fieldDark s x && decide (hdrMode m.hdr ≤ 1))
       | none => true)))

/-! ### Where an output leads, and credit (R54, R56, R66, R68, R87) -/

/-- The outputs of the flit at the front of a lane: those of its packet. -/
def frontOuts (l : Lane) (m : MFlit) : List (Nat × Leg) := l.route.getD m.outs

/-- The link of an output for a leg: the router it leads to and its input port; none for the core and for a crescent connection. The
crossing through the north crescent leads to row 0 of the destination column (R70). -/
def linkTo (s : State) (at_ : CoreId) (h : W64) (out : Nat) (leg : Leg) : Option (CoreId × Nat) :=
  if out = 4 then none
  else match meshStep s at_ out with
    | some c => some (c, facing out)
    | none => if out = 0 ∧ leg = .unicast ∧ (hdrMode h = 0 ∨ hdrRow h ≠ 0 ∨ hdrCol h ≠ at_.col) then some (⟨hdrCol h, 0⟩, 0) else none

/-- The FIFO of a crossing that feeds a lane: named by the main lane of the port and channel. -/
def fifoKey (c : CoreId) (port vc : Nat) : Nat := laneKey c port vc false

/-- A crossing FIFO. -/
def getFifo (s : State) (k : Nat) : List MFlit := amGet [] s.mesh.fifos k

/-- The state with a crossing FIFO replaced. -/
def setFifo (s : State) (k : Nat) (fs : List MFlit) : State :=
  { s with mesh := { s.mesh with fifos := amPut [] fs s.mesh.fifos k } }

/-- The ring that a flit is delivered into (R86). -/
def flitRing (c : Core) (m : MFlit) : Nat := ringFor c m.hdr m.vc

/-- The flits that a crossing holds at most: 8 (R66); between the two sides of the excluded column two crossings, and the lanes of the 33
routers that pass traffic straight across between them (R56, R70). -/
def fifoSize (s : State) (a b : CoreId) : Nat := if (passedField s a b).isSome then 8 + 33 * 8 + 8 else 8

/-- The router whose packet a crossing of the north crescent is bringing to a lane, as its key + 2; 1 where it is the crescent's own; 0
where it is none. Packets on one channel never interleave (R55). -/
def enteringBy (s : State) (k : Nat) : Nat := stGet s.mesh.entering k

/-- The mark of a router in `enteringBy`. -/
def enterMark (at_ : CoreId) : Nat := coreKey at_ + 2

/-- A flit of a packet enters a lane from a crescent: from its head to its tail the lane is the packet's. -/
def markEntering (s : State) (k who : Nat) (tail : Bool) : State :=
  { s with mesh := { s.mesh with entering := stPut s.mesh.entering k (if tail then 0 else who) } }

/-- Whether a packet may bring its next flit from the north crescent to a lane: a head where no packet is, the rest of its own. -/
def mayBring (s : State) (k who : Nat) (head : Bool) : Bool := enteringBy s k == (if head then 0 else who)

/-- Whether an output crosses through the north crescent (R70). -/
def crossesNorth (at_ : CoreId) (out : Nat) : Bool := out == 0 && at_.row == 0

/-- Whether a core's local port has credit for a flit: VC0 while its ejection buffer of 8 flits has room (R68); the rest while the core's
field is not parked and the flit's ring has a free line beside those granted (R68, R87). -/
def localCredit (s : State) (at_ : CoreId) (m : MFlit) : Bool :=
  let c := getCore s at_
  if m.vc = 0 then decide (c.vc0Held.length < 8)
  else !inParked s at_ && c.st != .parked &&
    (let r := flitRing c m
     decide (ringHeld c r + (c.arrivals.filter (fun a => flitRing c a == r)).length < ringLines c r))

/-- Whether an output has credit for a flit on a leg. -/
def outCredit (s : State) (at_ : CoreId) (m : MFlit) (o : Nat × Leg) : Bool :=
  if o.1 = 4 then localCredit s at_ m
  else match linkTo s at_ m.hdr o.1 o.2 with
    | none => true
    | some (c, port) =>
      mayEnter s at_ c o.1 m && (!crossesNorth at_ o.1 || mayBring s (laneKey c port m.vc.toNat false) (enterMark at_) m.head) &&
        (if crosses s at_ c then decide ((getFifo s (fifoKey c port m.vc.toNat)).length < fifoSize s at_ c)
         else let slip := slipLeg m.hdr o.2
           decide ((getLane s (laneKey c port m.vc.toNat slip)).flits.length < laneSize slip))

/-! ### Flits taken in (R53, R66, R72) -/

/-- The router before an input port. -/
def upstream (s : State) (c : CoreId) (port : Nat) : CoreId := (meshStep s c port).getD c

/-- A crossing's flits pass on into their lanes while these have room, in their order (R66); no head into a row that is closed from
outside such rows (R74). `fuel` bounds the flits. -/
def drainFifo (s : State) (c : CoreId) (port vc : Nat) : Nat → State
  | 0 => s
  | n + 1 =>
    match getFifo s (fifoKey c port vc) with
    | [] => s
    | m :: rest =>
      let slip := slipLeg m.hdr m.leg
      let k := laneKey c port vc slip
      if m.head && rowClosed s c && !rowClosed s (upstream s c port) then s
      else if (getLane s k).flits.length < laneSize slip ∨ (getLane s k).sink ∨ m.raw.isSome then
        drainFifo (enterLane (setFifo s (fifoKey c port vc) rest) c k m) c port vc n
      else s

/-- A flit sent over a link. -/
def sendLink (s : State) (at_ c : CoreId) (port : Nat) (m : MFlit) : State :=
  let vc := m.vc.toNat
  if crosses s at_ c then
    let k := fifoKey c port vc
    drainFifo (setFifo s k (getFifo s k ++ [m])) c port vc (fifoSize s at_ c)
  else enterLane s c (laneKey c port vc (slipLeg m.hdr m.leg)) m

/-- The packets that a list of flits holds whole, and the flits of the one still to be completed. -/
def wholePackets : List MFlit → List MFlit → List Packet × List MFlit
  | part, [] => ([], part)
  | part, m :: ms =>
    let part := part ++ [m]
    if m.tail then
      let r := wholePackets [] ms
      (⟨m.hdr, m.vc, part.map (fun f => f.flit)⟩ :: r.1, r.2)
    else wholePackets part ms

/-- The VC0 packets that a core's ejection buffer holds whole leave it for the core, unless its field is parked (R68). -/
def ejectVc0 (s : State) (c : CoreId) : State :=
  let k := getCore s c
  if k.st = .parked ∨ inParked s c then s
  else
    let r := wholePackets [] k.vc0Held
    (r.1.foldl (fun s p => emit s (.mesh p)) (setCore s c { k with vc0Held := r.2 }))

/-- A flit delivered to a core: VC0 into the ejection buffer, the rest granted a line of its ring (R68, R87). -/
def deliverCore (s : State) (c : CoreId) (m : MFlit) : State :=
  let k := getCore s c
  if m.vc = 0 then ejectVc0 (setCore s c { k with vc0Held := k.vc0Held ++ [m] }) c
  else setCore s c { k with arrivals := k.arrivals ++ [m] }

/-- The direction of a crescent's number (R258). -/
def crescentDir (j : Nat) : Dir :=
  match j with
  | 0 => .north
  | 1 => .east
  | 2 => .south
  | _ => .west

/-- A packet delivered to a crescent endpoint: a departure endpoint hands it to Aelif (R335). -/
def deliverEndpoint (s : State) (crescent n : Nat) (p : Packet) : State :=
  if 0x20 ≤ n ∧ n < 0x40 then departPacket s crescent (n - 0x20) p
  else emit s (.endpoint (crescentDir crescent) n p)

/-- A flit leaves through a crescent connection; with its tail the packet is at its endpoint. -/
def leaveMesh (s : State) (at_ : CoreId) (out : Nat) (m : MFlit) : State :=
  let k := outKey at_ out * 4 + m.vc.toNat
  let fs := amGet [] s.mesh.exits k ++ [m]
  if m.tail then
    let s := { s with mesh := { s.mesh with exits := amPut [] [] s.mesh.exits k } }
    deliverEndpoint s out (hdrEndpoint m.hdr) ⟨m.hdr, m.vc, fs.map (fun f => f.flit)⟩
  else { s with mesh := { s.mesh with exits := amPut [] fs s.mesh.exits k } }

/-- A flit goes out at one output on its next leg. -/
def putOut (s : State) (at_ : CoreId) (m : MFlit) (o : Nat × Leg) : State :=
  let m := { m with leg := o.2 }
  if o.1 = 4 then deliverCore s at_ m
  else match linkTo s at_ m.hdr o.1 o.2 with
    | some (c, port) =>
      sendLink (if crossesNorth at_ o.1 then markEntering s (laneKey c port m.vc.toNat false) (enterMark at_) m.tail else s) at_ c port m
    | none => leaveMesh s at_ o.1 m

/-! ### Arbitration (R55) -/

/-- An output port. -/
def getOut (s : State) (k : Nat) : OutPort := amGet OutPort.default s.mesh.ports k

/-- The state with an output port replaced. -/
def setOut (s : State) (k : Nat) (p : OutPort) : State :=
  { s with mesh := { s.mesh with ports := amPut OutPort.default p s.mesh.ports k } }

/-- Whether a lane may have an output on a channel: nothing else has a packet there (R55). -/
def mayHold (s : State) (at_ : CoreId) (vc k : Nat) (o : Nat × Leg) : Bool :=
  match (getOut s (outKey at_ o.1)).owner.find? (fun e => e.1 == vc) with
  | some e => e.2 == k
  | none => true

/-- Whether the flit at the front of a lane is ready to go out at an output: its packet takes that output, and every output that it takes
has credit for it (R60) and is free for its packet. -/
def laneReady (s : State) (at_ : CoreId) (vc out k : Nat) : Bool :=
  let l := getLane s k
  match l.flits with
  | [] => false
  | m :: _ =>
    let os := frontOuts l m
    os.any (fun o => o.1 == out) && os.all (fun o => outCredit s at_ m o && mayHold s at_ vc k o)

/-- The lanes of a router on a channel with a flit ready for an output, in the order of the input ports. -/
def readyLanes (s : State) (at_ : CoreId) (out vc : Nat) : List Nat :=
  ((List.range 5).flatMap (fun p => [laneKey at_ p vc false, laneKey at_ p vc true])).filter (laneReady s at_ vc out)

/-- The channels with a flit ready at an output, in the order in which it grants them next (R55): VC0 first, but after 16 flits of it in a
row behind the others; VC1 to VC3 in round-robin order after the one served last. -/
def vcOrder (s : State) (at_ : CoreId) (out : Nat) : List Nat :=
  let p := getOut s (outKey at_ out)
  let ready (vc : Nat) : Bool := readyLanes s at_ out vc != []
  let others := ((List.range 3).map (fun i => (p.served + i) % 3 + 1)).filter ready
  let zero := if ready 0 then [0] else []
  if p.vc0Run < 16 then zero ++ others else others ++ zero

/-- Whether every other output of a lane's packet grants its channel next too: a fork's flit goes out at all of them at once (R60). -/
def forkAgreed (s : State) (at_ : CoreId) (out vc k : Nat) : Bool :=
  match (getLane s k).flits with
  | [] => false
  | m :: _ => (frontOuts (getLane s k) m).all (fun o => o.1 == out || (vcOrder s at_ o.1).head? == some vc)

/-- The channel that an output grants, and the lanes that may have it: the first of its order with a flit that all the outputs of its
packet grant; where each waits for another of them, the first of its order (DESIGN CHOICE, assumption log 93). -/
def grantVc (s : State) (at_ : CoreId) (out : Nat) : Option (Nat × List Nat) :=
  let os := vcOrder s at_ out
  let lanes (vc : Nat) : List Nat := (readyLanes s at_ out vc).filter (forkAgreed s at_ out vc)
  match os.find? (fun vc => lanes vc != []) with
  | some vc => some (vc, lanes vc)
  | none => os.head?.map (fun vc => (vc, readyLanes s at_ out vc))

/-- An output after it granted a flit of a lane: its packet holds the channel from head to tail. -/
def granted (s : State) (at_ : CoreId) (vc k : Nat) (tail : Bool) (o : Nat × Leg) : State :=
  let key := outKey at_ o.1
  let p := getOut s key
  let rest := p.owner.filter (fun e => e.1 != vc)
  setOut s key ⟨if tail then rest else (vc, k) :: rest, if vc = 0 then p.vc0Run + 1 else 0, if vc = 0 then p.served else vc⟩

/-! ### PACKET_ROUTE -/

/-- Errors on the wire (R53): corrected ones, at most one for each of the flit's two phits, are counted; an uncorrectable one poisons the
flit; one in a head's route header leaves the header as received. -/
def wireErrors (s : State) (m : MFlit) (x : WireErr) : State × MFlit :=
  let s := (List.range (min x.corrected 2)).foldl (fun s _ => raiseNow s Key.meshFlags 0) s
  let s := if x.bad then count64 (raiseNow s Key.meshFlags 1) Key.poisonedFlits else s
  (s, { m with
    flit := if x.bad then { m.flit with poison := true } else m.flit
    raw := if m.head then x.raw else none })

/-- A link without errors. -/
def WireErr.clean : WireErr := ⟨none, 0, false, 0⟩

/-- What a link brings to the copy of a flit that goes out at an output, by the command. -/
def wireAt (out o : Nat) (wire : WireFlit) : WireErr :=
  if o = out then wire.here else amGet WireErr.clean wire.others o

/-- The copy of a flit that goes out at an output and over its link; the router at a crescent's end of a connection loses no header. -/
def moveCopy (s : State) (at_ : CoreId) (m : MFlit) (x : WireErr) (o : Nat × Leg) : State :=
  if o.1 = 4 then putOut s at_ m o
  else
    let link := linkTo s at_ m.hdr o.1 o.2
    let r := wireErrors s m (if link.isSome then x else { x with raw := none })
    let s := match link with
      | some (c, _) => if crossesSeam s at_ c then addN r.1 Key.seamWaitCycles 64 x.seamWait else r.1
      | none => r.1
    putOut s at_ r.2 o

/-- The flit at the front of a lane goes out at all the outputs that its packet takes. -/
def moveFront (s : State) (at_ : CoreId) (out k vc : Nat) (wire : WireFlit) : State :=
  let l := getLane s k
  match l.flits with
  | [] => s
  | m :: rest =>
    let os := frontOuts l m
    let s := setLane s k { l with flits := rest, route := if m.tail then none else some os }
    let s := os.foldl (fun s o => moveCopy (granted s at_ vc k m.tail o) at_ m (wireAt out o.1 wire) o) s
    drainFifo s at_ (k / 8 % 5) vc 8

/-- Whether the first flit that a crescent's endpoints hold for a router and channel may cross its connection: the lane has room and no
packet of a crossing stands before it (R55); none into a dark field, no head into one that drains or into a closed row (R69, R74). -/
def mayCrossIn (s : State) (at_ : CoreId) (port vc : Nat) : Bool :=
  match getWaiting s (waitKey at_ port vc) with
  | [] => false
  | m :: _ =>
    let k := laneKey at_ port vc false
    let f := coreField s at_
    decide ((getLane s k).flits.length < 8) && mayBring s k 1 m.head && getFifo s (fifoKey at_ port vc) == [] &&
      !fieldDark s f && !(m.head && ((getField s f).draining || rowClosed s at_))

/-- The next flit over a crescent connection into a router (R51, R53, R72); `pick` chooses among the channels that may (the manual orders
them nowhere; assumption log 93). -/
def crossIn (s : State) (at_ : CoreId) (port pick : Nat) (wire : WireErr) : State :=
  let vcs := (List.range 4).filter (mayCrossIn s at_ port)
  match vcs[pick % vcs.length]? with
  | none => s
  | some vc =>
    match getWaiting s (waitKey at_ port vc) with
    | [] => s
    | m :: rest =>
      let s := markEntering (setWaiting s (waitKey at_ port vc) rest) (laneKey at_ port vc false) 1 m.tail
      let r := wireErrors s m wire
      enterPort r.1 at_ port r.2

/-- The queues of a router's core go on into its local lanes. -/
def fillRouter (s : State) (at_ : CoreId) : State := fillLocal (fillLocal s at_ 0 8) at_ 1 8

/-- PACKET_ROUTE (R53 to R55, R59 to R62, R66, R68 to R70, R72): an output port of a router (0 north, 1 east, 2 south, 3 west, 4 local)
grants its next flit; from 5 on, the flit that waits at the crescent connection of input port `out` - 5 enters. Where several lanes of the
granted channel are ready, `pick` chooses among them (assumption log 93). -/
def execPacketRoute (at_ : CoreId) (out pick : Nat) (wire : WireFlit) (s : State) :
    Host.Outcome State Fault Refusal :=
  let s := fillRouter s at_
  if 5 ≤ out then .next (if out < 9 then crossIn s at_ (out - 5) pick wire.here else s)
  else match grantVc s at_ out with
    | none => .next s
    | some (vc, ks) =>
      match ks[pick % ks.length]? with
      | none => .next s
      | some k => .next (fillRouter (moveFront s at_ out k vc wire) at_)

end Sys2Proof.Machine
end

