-- ==== Sys2Proof/Machine/Grid.lean ====
section
/-! DEFINITION. The wafer grid (02_wafer_grid.md): a core's death, the detour at run time, the replay, and the owner's writes to the
defect map. -/

namespace Sys2Proof.Machine

/-- The row entry of a physical core's field row in force in the running grid (R555). -/
def entryInForce (s : State) (p : PhysId) : Nat := amGet 63 s.grid.runRows (physRow p)

/-- A finding at run time recorded in the stored map (R555). -/
def recordRun (p : PhysId) (m : MapCopy) : MapCopy := recordDefect (physField p) (p.row % 32) (p.col % 33) 2 m

/-! ### The mesh during a detour (R74, R193) -/

/-- Whether a barrier arrival or release is in flight on VC0 (R193): a unicast to a core or a broadcast. -/
def barrierInFlight (s : State) : Bool := (meshFlits s).any (fun m => m.vc == 0 && (hdrMode m.hdr == 0 || hdrMode m.hdr == 4))

/-- The rows whose routers stop taking new head flits: those of the detoured rows and of their two neighbour rows (R74). -/
def closedRows (ds : List PhysId) : List Nat :=
  ds.flatMap (fun d => (if 0 < d.row then [rowMark (d.col / 33) (d.row - 1)] else []) ++
    [rowMark (d.col / 33) d.row, rowMark (d.col / 33) (d.row + 1)])

/-- Whether a router of a closed row still holds flits of a packet, or one whose end is still to come. -/
def closedHold (s : State) : Bool :=
  s.mesh.lanes.any (fun e => rowClosed s (laneCore e.1) && (e.2.flits != [] || e.2.route.isSome))

/-- The closed rows are those of the detours still under way; what waited at a crossing passes on. -/
def openRows (s : State) : State :=
  let rows := if s.mesh.closed = [] then [] else closedRows s.grid.underWay
  s.mesh.fifos.foldl (fun s e => drainFifo s (laneCore e.1) (e.1 / 8 % 5) (e.1 / 2 % 4) 8) { s with mesh := { s.mesh with closed := rows } }

/-! ### A core's death -/

/-- R44: no usable spare. The field is lost with cause 1; `qs` are the deaths of the same row still to be recorded. The row's own detour is
none any more, and deaths of the field that still wait make none; a detour under way in another row goes on (R45). -/
def noSpare (s : State) (qs : List PhysId) (p : PhysId) : State :=
  let s := updateMap s (fun m => recordRun p (qs.foldl (fun m q => recordRun q m) m))
  let grid := { s.grid with
    deaths := s.grid.deaths.filter (fun d => physField d != physField p)
    underWay := s.grid.underWay.filter (fun d => physRow d != physRow p) }
  fieldLoss (openRows { s with grid := grid }) (physField p) 1

/-- Whether no detour is made of a death in a field: the field is LOST, or is shut in the same beat (R44, R45). -/
def noDetour (s : State) (f : Nat) : Bool := fieldLostNow s f || (getField s f).shutDue || (getField s f).draining

/-- CORE_DEAD (R99, R42, R44, R45): the core is declared dead on CORE_SILENT (`heartbeat`) or on ARRAY_FAULT; its row is to be detoured,
or its field is lost. A death in a parked field is found only after the field's wake (R45), so nothing is declared of a parked core. A
death in a LOST field's row whose spare is free is recorded in no map: R42 asks for a GOOD field, R44 for a row with no usable spare, and
neither speaks of it (DESIGN CHOICE, assumption log 91). HEARTBEAT_OK falls at the death, whichever event declares it (DESIGN CHOICE,
assumption log 91). -/
def execCoreDead (p : PhysId) (heartbeat : Bool) (s : State) : Host.Outcome State Fault Refusal :=
  match logicalOf s p with
  | none => .next s
  | some id =>
    let c := getCore s id
    if c.st = .dead ∨ c.st = .parked ∨ inParked s id then .next s
    else
      let s := setCore s id { c with st := .dead, heartbeatOk := false }
      let s := logEvent (raiseNow s Key.coreFlags 3) 1 [physWord p, if heartbeat then 0 else 1]
      let same := (s.grid.underWay ++ s.grid.deaths).filter (fun d => physRow d == physRow p)
      if entryInForce s p % 64 ≠ 63 ∨ same ≠ [] then .next (noSpare s same p)
      else if noDetour s (physField p) then .next s
      else .next { s with grid := { s.grid with deaths := s.grid.deaths ++ [p] } }

/-- The deaths that a detour takes, in ascending order of field-row entry number; those in a field that is lost or shut are none of them
(R45). -/
def detourDeaths (s : State) : List PhysId :=
  sortBy physRow (s.grid.deaths.filter (fun d => !noDetour s (physField d)))

/-! ### The detour -/

/-- Steps 3 to 6 of R42 for one row: the entry in force, and the logical core without state loaded anew over what its new position held,
the SRAM of its eastern neighbour or the empty one of the spare. The cores that move keep their SRAM, from which their registers are
restored, and lose their index sets. What follows when the core test of step 6 fails is not said: here it has no outcome of its own, and
a faulty spare is found as any dead core is (DESIGN CHOICE, assumption log 91). -/
def detourRow (s : State) (p : PhysId) : State :=
  let dead := logicalOf s p
  let s := { s with grid := { s.grid with runRows := amPut 63 (p.col % 33 + 2 * 64) s.grid.runRows (physRow p) } }
  let s := raiseNow (raiseNow s Key.gridFlags 0) Key.gridFlags 1
  let s := addN s Key.detoursRuntime 16 1
  let s := logEvent s 2 [physRow p, p.col % 33]
  match dead with
  | none => s
  | some id =>
    let s := (upFrom (id.col + 1) (31 - id.col % 32)).foldl (fun s c =>
      let k : CoreId := ⟨c, id.row⟩
      setCore s k { getCore s k with ix := (getCore s k).ix.map (fun x => { x with tag := none }) }) s
    reloadCore s id (if id.col % 32 < 31 then getCore s ⟨id.col + 1, id.row⟩ else Core.default)

/-- Steps 3 to 6 of R42 for the rows under way, once no barrier message is in flight (R193) and the routers of the rows have drained (R74);
until then the detour waits. -/
def detourGo (s : State) : State :=
  if s.grid.underWay = [] ∨ barrierInFlight s then s
  else
    let s := { s with mesh := { s.mesh with closed := closedRows s.grid.underWay } }
    if closedHold s then s
    else
      let s := s.grid.underWay.foldl detourRow s
      openRows { s with grid := { s.grid with underWay := [] } }

/-- Steps 1 and 2 of R42 for every row that waits, in one map generation (R43, R45). -/
def detourBegin (s : State) : State :=
  let ds := detourDeaths s
  let seqs := ds.flatMap (fun d => match logicalOf s d with
    | some id => abandonSet s id
    | none => [])
  let s := abandon (suspendAll s) seqs
  let s := updateMap s (fun m => ds.foldl (fun m d => recordRun d m) m)
  { s with grid := { s.grid with deaths := [], underWay := ds, detouring := true } }

/-- Whether a core moves in one of the detours under way: it stands east of the dead core in its row of the field. -/
def movesEast (s : State) (id : CoreId) : Bool :=
  s.grid.underWay.any (fun d => match logicalOf s d with
    | some k => k.row == id.row && k.col / 32 == id.col / 32 && decide (k.col < id.col)
    | none => false)

/-- The SRAM copies of step 3 meet errors: of any word of a core that moves (R42, R81). -/
def copyErrs (s : State) (e : CoreId × List SramErr) : State :=
  if movesEast s e.1 then let r := e.2.foldl sramError (s, getCore s e.1); setCore r.1 e.1 r.2 else s

/-- A detour taken on; the copies of step 3 and the contexts that step 7 reads back meet SRAM errors (R81). -/
def detourOn (errs : List (CoreId × List SramErr)) (s : State) : State :=
  let moved := s.grid.underWay ≠ [] ∧ (detourGo s).grid.underWay = []
  let s := detourGo (if moved then errs.foldl copyErrs s else s)
  overrunCause (errs.foldl (fun s e => contextErrs s e.1 e.2) s) 3

/-- DETOUR (R42, R43, R45, R74, R193): steps 1 and 2 for every row that waits, in one sequence, and steps 3 to 6 as soon as the mesh allows;
commanded again for a row under way, it goes on. -/
def execDetour (p : Met PhysId (List (CoreId × List SramErr))) (s : State) : Host.Outcome State Fault Refusal :=
  if s.grid.underWay ≠ [] then .next (detourOn p.errs s)
  else if (detourDeaths s).contains p.val then .next (detourOn p.errs (detourBegin s))
  else .next s

/-- MICROBATCH_REPLAY (R43): step 7 of R42. -/
def execMicrobatchReplay (s : State) : Host.Outcome State Fault Refusal :=
  if s.grid.detouring && s.grid.deaths == [] && s.grid.underWay == [] then .next (overrunCause (replayNow s) 3) else .next s

/-! ### The owner's writes (R48, R49, R555) -/

/-- The check of MARK_CORE_DEFECTIVE (R48). -/
def markCheck (s : State) (_ : Nat) : Nat := if curMap s = none then stWrongState else stOk

/-- The marked core recorded in the stored map with ORIGIN 3 (R555). -/
def markEffect (s : State) (v : Nat) : State :=
  updateMap (setN s Key.markCoreDefective v) (recordDefect (10 * bits v 7 4 + bits v 3 0) (bits v 12 8) (bits v 18 13) 3)

/-- MARK_CORE_DEFECTIVE (R48, R555). -/
def execMarkCoreDefective (w : WReq) (s : State) : Host.Outcome State Fault Refusal :=
  .next (ownWrite s Key.markCoreDefective w markCheck markEffect)

/-- Whether the module's serial record marks a field as unpowered (R39). -/
def fieldUnpowered (s : State) (f : Nat) : Bool := s.grid.unpowered.contains f

/-- The check of RELEASE_FIELD_LOSS (R48). -/
def releaseCheck (s : State) (v : Nat) : Nat :=
  if curMap s = none then stWrongState else if v ≤ 89 ∧ fieldUnpowered s v then stBadValue else stOk

/-- The field is retested at the next bring-up (R41). A release of a field that is not LOST waits for that bring-up as well, so that a loss
that comes before it is retested (DESIGN CHOICE, assumption log 91). -/
def releaseEffect (s : State) (v : Nat) : State :=
  let s := setN s Key.releaseFieldLoss v
  { s with grid := { s.grid with released := nsIns v s.grid.released } }

/-- RELEASE_FIELD_LOSS (R41, R48). -/
def execReleaseFieldLoss (w : WReq) (s : State) : Host.Outcome State Fault Refusal :=
  .next (ownWrite s Key.releaseFieldLoss w releaseCheck releaseEffect)

/-- The check of EXCLUDE_FIELD (R48). -/
def excludeCheck (s : State) (_ : Nat) : Nat := if curMap s = none then stWrongState else stOk

/-- The field recorded LOST with cause 5; one already LOST changes nothing (R49). -/
def excludeEffect (s : State) (v : Nat) : State :=
  let s := setN s Key.excludeField v
  if 89 < v then s
  else updateMap s (fun m => if lostByte (stGet m.fields v) then m else loseField v 5 m)

/-- EXCLUDE_FIELD (R49). -/
def execExcludeField (w : WReq) (s : State) : Host.Outcome State Fault Refusal :=
  .next (ownWrite s Key.excludeField w excludeCheck excludeEffect)

end Sys2Proof.Machine
end

