-- ==== Sys2Proof/Machine/Store.lean ====
section
/-! DEFINITION. The stacks' data space, the parameter store and the exchange arrays (12_streams_memory.md R289 to R304; 10_update_unit.md
R232 to R238; 11_gradient_exchange.md R278). -/

namespace Sys2Proof.Machine

/-! ### Lines (R289, R290, R295) -/

/-- The address of an offset in a stack (R289). -/
def stackAddr (st off : Nat) : Nat := st * 2 ^ 37 + off

/-- The stack and the offset of an address. -/
def addrStack (a : Nat) : Nat := a / 2 ^ 37
def addrOff (a : Nat) : Nat := a % 2 ^ 37

/-- The bytes of the data space of a stack (R290). -/
abbrev dataBytes : Nat := 128000000000

/-- Whether `n` bytes lie in the data space of one stack (R290). -/
def inDataSpace (a n : Nat) : Bool := decide (addrStack a < 16) && decide (addrOff a + n ≤ dataBytes)

/-- The bytes at a stack address. -/
def stkRead (s : State) (a n : Nat) : List Byte := memBytes s.stk.mem a n

/-- Whether a line that holds any of the bytes carries poison. -/
def stkPoisoned (s : State) (a n : Nat) : Bool := (linesOf a n).any (fun l => s.stk.poison.contains l)

/-- Bytes written to a stack (R295): a whole clean line clears the poison bit, a part of a line keeps it, poisoned data sets it. -/
def stkWrite (s : State) (a : Nat) (bs : List Byte) (poison : Bool) : State :=
  let mark (ps : List Nat) (l : Nat) : List Nat :=
    if poison then nsIns l ps else if a ≤ 64 * l ∧ 64 * l + 64 ≤ a + bs.length then nsDel l ps else ps
  { s with stk := { s.stk with
      mem := memStore s.stk.mem a bs
      poison := (linesOf a bs.length).foldl mark s.stk.poison } }

/-- Pieces of lines written together by a client that combines them (R295, R302): a line that they cover whole is written clean, one that
they cover in part keeps its poison. The pieces do not overlap, and none crosses a line. -/
def stkWriteParts (s : State) (ws : List (Nat × List Byte)) : State :=
  let covered (l : Nat) : Nat := ((ws.filter (fun w => w.1 / 64 == l)).map (fun w => w.2.length)).sum
  { s with stk := { s.stk with
      mem := ws.foldl (fun m w => memStore m w.1 w.2) s.stk.mem
      poison := ((ws.map (fun w => w.1 / 64)).eraseDups).foldl (fun ps l => if covered l = 64 then nsDel l ps else ps) s.stk.poison } }

/-! ### Errors and retirement (R288, R294 to R297) -/

/-- A frame of a stack as one number. -/
def frameKey (st f : Nat) : Nat := st * 2 ^ 21 + f

/-- A frame retired: a spare takes its place; the 4,097th spare fails the stack (R297). -/
def retireFrame (s : State) (st f : Nat) : State :=
  let used := (s.stk.retired.filter (fun r => r.stack == st)).length
  if 4096 ≤ used then
    if getN s (Key.msStackState st) = 2 then s
    else logEvent (raise (setN s (Key.msStackState st) 2) Key.stackFlags 3) 0x11 [st]
  else
    let r : Retired := ⟨st, f, used⟩
    let s := { s with
      stk := { s.stk with retired := s.stk.retired ++ [r], frameErrs := stPut s.stk.frameErrs (frameKey st f) 0 }
      log := { s.log with stackMaps := s.log.stackMaps ++ [r] } }
    raise (setN s (Key.msFramesRetired st) (used + 1)) Key.stackFlags 2

/-- A correctable error of a line met by a read: counted, and its frame's count may retire it (R294, R297). -/
def lineCorrected (s : State) (line : Nat) : State :=
  let a := 64 * line
  let st := addrStack a
  let f := addrOff a / 65536
  let n := stGet s.stk.frameErrs (frameKey st f) + 1
  let s := raise (count64 s (Key.msCorrected st)) Key.stackFlags 0
  let s := { s with stk := { s.stk with frameErrs := stPut s.stk.frameErrs (frameKey st f) n } }
  if getN s Key.retireThreshold ≤ n then retireFrame s st f else s

/-- An uncorrectable error of a line met by a read: the line is poisoned and its frame retired (R294, R295, R297). -/
def lineUncorrected (s : State) (line : Nat) : State :=
  let a := 64 * line
  let st := addrStack a
  let s := raise (count64 s (Key.msUncorrected st)) Key.stackFlags 1
  retireFrame { s with stk := { s.stk with poison := nsIns line s.stk.poison } } st (addrOff a / 65536)

/-- The reports of a stack's on-die ECC read and counted (R288, R324). -/
def onDieReports (s : State) (st n : Nat) : State :=
  if n = 0 then s else raise (addN s (Key.msCorrected st) 64 n) Key.stackFlags 0

/-- The errors that reads of one stack meet (R294), and the on-die reports that come with them. -/
def meetErrors (s : State) (st : Nat) (e : StackErrs) : State :=
  let here (l : Nat) : Bool := addrStack (64 * l) == st
  let s := (e.corrected.filter here).foldl lineCorrected s
  onDieReports ((e.uncorrected.filter here).foldl lineUncorrected s) st e.onDie

/-- The errors that reads of several stacks meet; the on-die reports are those of the first. -/
def meetErrorsOf (s : State) (sts : List Nat) (e : StackErrs) : State :=
  match sts with
  | [] => s
  | st :: rest => rest.foldl (fun s n => meetErrors s n { e with onDie := 0 }) (meetErrors s st e)

/-- A change of the engine whose reads of any stack meet errors (R294). -/
def metStacks (e : StackErrs) (f : State → State) (s : State) : State :=
  f (meetErrorsOf s ((List.range 16).filter (bit (stackPresent s.variant))) e)

/-! ### Group descriptors (R232, R300, R301) -/

abbrev gdGroup (d : List Byte) : Nat := field d 0 2
abbrev gdVector (d : List Byte) : Bool := field d 2 1 == 1
abbrev gdFmt (d : List Byte) : Nat := field d 3 1
abbrev gdStates (d : List Byte) : Nat := field d 4 1
abbrev gdProgram (d : List Byte) : Nat := field d 5 1
abbrev gdKey (d : List Byte) : Nat := field d 6 1
abbrev gdConsts (d : List Byte) : Nat := field d 7 1
abbrev gdSlow (d : List Byte) : Bool := field d 8 1 == 1
abbrev gdDelay (d : List Byte) : Nat := field d 9 1
abbrev gdRound (d : List Byte) : Nat := field d 10 1
abbrev gdRows (d : List Byte) : Nat := field d 0x10 4
abbrev gdCols (d : List Byte) : Nat := field d 0x14 4
abbrev gdMask (d : List Byte) : Nat := field d 0x18 2
abbrev gdPanel (d : List Byte) : Nat := field d 0x1A 2
abbrev gdBase (d : List Byte) : Nat := field d 0x1C 4
abbrev gdExch (d : List Byte) : Nat := field d 0x20 4

/-- The loaded groups' descriptors, in table order. -/
def groupDescs (s : State) : List (List Byte) :=
  let bs := getDom s Key.groupTable
  chunksOf 64 (bs.length / 64) bs

/-- The descriptor of a group. -/
def groupDesc (s : State) (g : Nat) : Option (List Byte) := (groupDescs s).find? (fun d => gdGroup d == g)

/-- The bytes of a weight code: 1 for FP8, 2 for BF16 (R235). -/
def gdW (d : List Byte) : Nat := if gdFmt d = 1 then 2 else 1

/-- Whether weights carry a square scale (R235). -/
def gdScaled (d : List Byte) : Bool := gdFmt d == 3 || gdFmt d == 4

/-- The blocks of a group. -/
def gdBlocks (d : List Byte) : Nat := if gdVector d then (gdRows d + 255) / 256 else gdRows d * gdCols d / 256

/-- The stacks of a group, in ascending order (R301). -/
def gdStacks (d : List Byte) : List Nat := (List.range 16).filter (bit (gdMask d))

/-- The local width Nl (R301). -/
def gdLocal (d : List Byte) : Nat := gdCols d / (gdStacks d).length

/-- The count Bl of a stack's local blocks (R301). -/
def gdBl (d : List Byte) : Nat := if gdVector d then gdBlocks d else gdRows d * gdLocal d / 256

/-- The square's row and column of a block of a matrix (R234). -/
def squareRow (d : List Byte) (b : Nat) : Nat := b / 4 / (gdCols d / 32)
def squareCol (d : List Byte) (b : Nat) : Nat := b / 4 % (gdCols d / 32)

/-- Which stack of the mask holds a block (R301). -/
def blockPlace (d : List Byte) (b : Nat) : Nat := if gdVector d then 0 else squareCol d b * 32 / gdLocal d

/-- The stack that holds a block. -/
def blockStack (d : List Byte) (b : Nat) : Nat := (gdStacks d).getD (blockPlace d b) 0

/-- The local number of a block in its stack (R301). -/
def blockLocal (d : List Byte) (b : Nat) : Nat :=
  if gdVector d then b
  else
    let ls := gdLocal d / 32
    4 * (squareRow d b * ls + (squareCol d b - blockPlace d b * ls)) + b % 4

/-- The row and the column of element `i` of a block of a matrix (R234). -/
def elemRow (d : List Byte) (b i : Nat) : Nat := 32 * squareRow d b + 16 * (b % 4 / 2) + i / 16
def elemCol (d : List Byte) (b i : Nat) : Nat := 32 * squareCol d b + 16 * (b % 2) + i % 16

/-- Whether element `i` of a block is padding (R234). -/
def isPad (d : List Byte) (b i : Nat) : Bool := gdVector d && decide (gdRows d ≤ 256 * b + i)

/-! ### The arrays (R302, R304) -/

/-- Array numbers: POINTER, FWD, TRN and SCALE with their slot, the states with theirs, GRAD, GACC with its slot, DUE and DIGEST. -/
abbrev arrPointer : Nat := 0
abbrev arrFwd (slot : Nat) : Nat := 1 + slot
abbrev arrTrn (slot : Nat) : Nat := 3 + slot
abbrev arrScale (slot : Nat) : Nat := 5 + slot
abbrev arrState (k slot : Nat) : Nat := 7 + 2 * k + slot
abbrev arrGrad : Nat := 13
abbrev arrGacc (slot : Nat) : Nat := 14 + slot
abbrev arrDue (w : Nat) : Nat := 16 + w % 2
abbrev arrDigest : Nat := 18

/-- The bytes of an array; an absent component takes no space (R235, R302). -/
def arrBytes (d : List Byte) (n : Nat) : Nat :=
  let bl := gdBl d
  match n with
  | 0 => 16 * bl
  | 1 => 256 * bl * gdW d
  | 2 => 256 * bl * gdW d
  | 3 => if gdVector d then 0 else 256 * bl * gdW d
  | 4 => if gdVector d then 0 else 256 * bl * gdW d
  | 5 => if gdScaled d then bl else 0
  | 6 => if gdScaled d then bl else 0
  | 13 => 1024 * bl
  | 14 => if gdSlow d then 1024 * bl else 0
  | 15 => if gdSlow d then 1024 * bl else 0
  | 16 => if gdSlow d then 1024 * bl else 0
  | 17 => if gdSlow d then 1024 * bl else 0
  | 18 => 16 * bl
  | _ => if (n - 7) / 2 < gdStates d then 512 * bl else 0

/-- Bytes rounded up to whole frames. -/
def frameUp (n : Nat) : Nat := (n + 65535) / 65536 * 65536

/-- The offset of an array from the first: each begins on the next frame boundary (R302). -/
def arrOff (d : List Byte) (n : Nat) : Nat := ((List.range n).map (fun k => frameUp (arrBytes d k))).sum

/-- The bytes of a group's parameter arrays in one stack. -/
def storeBytes (d : List Byte) : Nat := arrOff d 19

/-- The address of a byte of an array in a stack. -/
def arrAddr (d : List Byte) (st n off : Nat) : Nat := stackAddr st (65536 * gdBase d + arrOff d n + off)

/-- The address of an array's entry of a block: `size` bytes for each block, in local block order. -/
def blockAddr (d : List Byte) (b n size : Nat) : Nat := arrAddr d (blockStack d b) n (size * blockLocal d b)

/-- The address of the forward-order code of element `i` of a block (R302). -/
def fwdAddr (d : List Byte) (b slot i : Nat) : Nat :=
  if gdVector d then blockAddr d b (arrFwd slot) (256 * gdW d) + i * gdW d
  else
    let nl := elemCol d b i - blockPlace d b * gdLocal d
    arrAddr d (blockStack d b) (arrFwd slot) ((nl / gdPanel d * gdRows d + elemRow d b i) * gdPanel d * gdW d + nl % gdPanel d * gdW d)

/-- The address of the transposed-order code of element `i` of a block (R302). -/
def trnAddr (d : List Byte) (b slot i : Nat) : Nat :=
  let nl := elemCol d b i - blockPlace d b * gdLocal d
  let k := elemRow d b i
  arrAddr d (blockStack d b) (arrTrn slot) ((k / gdPanel d * gdLocal d + nl) * gdPanel d * gdW d + k % gdPanel d * gdW d)

/-! ### Pointer entries (R236, R237) -/

/-- A pointer entry. -/
structure Ptr where
  active : Bool
  written : Bool
  gact : Bool
  gwritten : Bool
  stamp : Nat
  gstamp : Nat
  deriving DecidableEq, Repr

/-- The pointer entry of a block. -/
def readPtr (s : State) (d : List Byte) (b : Nat) : Ptr :=
  let v := leNat (stkRead s (blockAddr d b arrPointer 16) 16)
  ⟨bit v 0, bit v 1, bit v 2, bit v 3, bits v 95 64, bits v 127 96⟩

/-- The state with a block's pointer entry written. -/
def writePtr (s : State) (d : List Byte) (b : Nat) (p : Ptr) : State :=
  stkWrite s (blockAddr d b arrPointer 16)
    (leBytes 8 (b2n p.active + 2 * b2n p.written + 4 * b2n p.gact + 8 * b2n p.gwritten) ++ leBytes 4 p.stamp ++ leBytes 4 p.gstamp) false

/-- Whether a stamp counts as committed (R237). -/
def stampCommitted (s : State) (stamp : Nat) : Bool := decide (0 ≤ signed 32 (getN s Key.commitStep + 2 ^ 32 - stamp % 2 ^ 32))

/-- The active slot of a block (R237). -/
def activeSlot (s : State) (p : Ptr) : Nat := b2n (if p.written && stampCommitted s p.stamp then !p.active else p.active)

/-- The active GACC slot (R237). -/
def activeGacc (s : State) (p : Ptr) : Nat := b2n (if p.gwritten && stampCommitted s p.gstamp then !p.gact else p.gact)

/-- A pointer entry folded (R237). -/
def foldPtr (s : State) (p : Ptr) : Ptr := { p with active := activeSlot s p == 1, written := false }

/-! ### Components of a block -/

/-- FP32 words at an address. -/
def readWords (s : State) (a n : Nat) : List W32 := (List.range n).map (fun i => BitVec.ofNat 32 (leNat (stkRead s (a + 4 * i) 4)))

/-- The forward-order codes of a block, and the transposed-order codes row by row of the transposed quarter. -/
def fwdCodes (s : State) (d : List Byte) (b slot : Nat) : List Nat :=
  (List.range 256).map (fun i => leNat (stkRead s (fwdAddr d b slot i) (gdW d)))
def trnCodes (s : State) (d : List Byte) (b slot : Nat) : List Nat :=
  (List.range 256).map (fun j => leNat (stkRead s (trnAddr d b slot (j % 16 * 16 + j / 16)) (gdW d)))

/-- The scale of a block. -/
def readScale (s : State) (d : List Byte) (b slot : Nat) : Nat :=
  if gdScaled d then leNat (stkRead s (blockAddr d b (arrScale slot) 1) 1) else 127

/-- Whether a component of a block carries poison. -/
def fwdPoisoned (s : State) (d : List Byte) (b slot : Nat) : Bool :=
  (List.range 256).any (fun i => stkPoisoned s (fwdAddr d b slot i) (gdW d)) ||
    (gdScaled d && stkPoisoned s (blockAddr d b (arrScale slot) 1) 1)

/-- The BF16 codes of a state. -/
def stateCodes (s : State) (d : List Byte) (b k slot : Nat) : List Nat :=
  let a := blockAddr d b (arrState k slot) 512
  (List.range 256).map (fun i => leNat (stkRead s (a + 2 * i) 2))

/-! ### Digests (R278) -/

/-- One byte of the CRC-64 of R278, most significant bit first. -/
def crc64Byte (c : Nat) (b : Byte) : Nat :=
  (List.range 8).foldl (fun c _ => if bit c 63 then (2 * c % 2 ^ 64) ^^^ 0x42F0E1EBA9EA3693 else 2 * c) (c ^^^ (b.toNat * 2 ^ 56))

/-- The CRC-64 of R278: initial value 0, no reflection, no final XOR. -/
def crc64 (bs : List Byte) : Nat := bs.foldl crc64Byte 0

/-- The components of a block as a digest, a pull and an image take them: forward codes, transposed codes, scale and states. -/
structure BlockVals where
  fwd : List Nat
  trn : List Nat
  scale : Nat
  states : List (List Nat)
  deriving DecidableEq, Repr

/-- The digest of a block (R278). -/
def blockDigest (d : List Byte) (b : Nat) (v : BlockVals) : Nat :=
  crc64 (leBytes 8 b ++ v.fwd.flatMap (leBytes (gdW d)) ++ (if gdVector d then [] else v.trn.flatMap (leBytes (gdW d))) ++
    (if gdScaled d then leBytes 1 v.scale else []) ++ (v.states.take (gdStates d)).flatMap (fun st => st.flatMap (leBytes 2)))

/-- The components of a slot of a block. -/
def readBlock (s : State) (d : List Byte) (b slot : Nat) : BlockVals :=
  ⟨fwdCodes s d b slot, if gdVector d then [] else trnCodes s d b slot, readScale s d b slot,
    (List.range (gdStates d)).map (fun k => stateCodes s d b k slot)⟩

/-- The pieces of lines that a block's codes fill in FWD and TRN. -/
def codeParts (d : List Byte) (b slot : Nat) (v : BlockVals) : List (Nat × List Byte) :=
  (List.range 256).map (fun i => (fwdAddr d b slot i, leBytes (gdW d) (v.fwd.getD i 0))) ++
    (if gdVector d then [] else
      (List.range 256).map (fun j => (trnAddr d b slot (j % 16 * 16 + j / 16), leBytes (gdW d) (v.trn.getD j 0))))

/-- The scale, the states and the digest of a slot of a block written (R245, R278). -/
def writeRest (d : List Byte) (s : State) (b slot : Nat) (v : BlockVals) : State :=
  let s := if gdScaled d then stkWrite s (blockAddr d b (arrScale slot) 1) (leBytes 1 v.scale) false else s
  let s := (List.range (gdStates d)).foldl (fun s k =>
    stkWrite s (blockAddr d b (arrState k slot) 512) (((v.states.getD k []).take 256).flatMap (leBytes 2)) false) s
  stkWrite s (blockAddr d b arrDigest 16 + 8 * slot) (leBytes 8 (blockDigest d b v)) false

/-- Every component of slots of blocks written together, and their digests (R238, R245, R278, R302): block, slot and values. -/
def writeBlocks (s : State) (d : List Byte) (xs : List (Nat × Nat × BlockVals)) : State :=
  let s := stkWriteParts s (xs.flatMap (fun x => codeParts d x.1 x.2.1 x.2.2))
  xs.foldl (fun s x => writeRest d s x.1 x.2.1 x.2.2) s

/-- Every component of a slot of a block written, and its digest. -/
def writeBlock (s : State) (d : List Byte) (b slot : Nat) (v : BlockVals) : State := writeBlocks s d [(b, slot, v)]

/-- The digest kept of a slot of a block. -/
def readDigest (s : State) (d : List Byte) (b slot : Nat) : Nat := leNat (stkRead s (blockAddr d b arrDigest 16 + 8 * slot) 8)

/-! ### Groups' states -/

def getGroup (s : State) (g : Nat) : GroupSt := amGet GroupSt.default s.update.groups g
def setGroup (s : State) (g : Nat) (v : GroupSt) : State := { s with update := { s.update with groups := amIns v s.update.groups g } }

/-- The fingerprint of a group (R278). -/
def fingerprint (s : State) (d : List Byte) : Nat :=
  let x := (List.range (gdBlocks d)).foldl (fun x b => x ^^^ readDigest s d b (activeSlot s (readPtr s d b))) 0
  crc64 (leBytes 8 (getGroup s (gdGroup d)).t ++ leBytes 8 x)

/-! ### The exchange arrays (R270, R304) -/

/-- The blocks that a rank owns of a group: first, and one past the last (R270). -/
def shardOf (blocks r n : Nat) : Nat × Nat := (blocks * r / n, blocks * (r + 1) / n)

/-- The engine's own blocks of a group. -/
def ownShard (s : State) (d : List Byte) : Nat × Nat := shardOf (gdBlocks d) (getN s Key.rank) (getN s Key.replicas)

/-- The owned local blocks of a stack, in ascending order: their count, and the number of a block among them. -/
def ownedIn (s : State) (d : List Byte) (st : Nat) : List Nat :=
  let sh := ownShard s d
  (upFrom sh.1 (sh.2 - sh.1)).filter (fun b => blockStack d b == st)

/-- Exchange array numbers. -/
abbrev exRun (sel : Nat) : Nat := sel
abbrev exRes (sel : Nat) : Nat := 2 + sel
abbrev exOres (sel : Nat) : Nat := 4 + sel

/-- The offset of an exchange array. -/
def exOff (s : State) (d : List Byte) (st n : Nat) : Nat :=
  let bl := gdBl d
  let ol := if n ≤ 4 then 0 else (ownedIn s d st).length
  ((List.range n).map (fun k => frameUp (if k < 2 then 1024 * bl else if k < 4 then 512 * bl else 512 * ol))).sum

/-- The address of a block's entry of RUN0, RUN1, RES0 or RES1. -/
def exAddr (s : State) (d : List Byte) (b n : Nat) : Nat :=
  stackAddr (blockStack d b) (65536 * gdExch d + exOff s d (blockStack d b) n + (if n < 2 then 1024 else 512) * blockLocal d b)

/-- The address of an owned block's encoding from rank `r` in INBOUND, `e` bytes to an encoding (R304). The order within INBOUND is not given:
rank by rank, and within a rank in local block order (DESIGN CHOICE, assumption log 94). -/
def inboundAddr (s : State) (d : List Byte) (r b e : Nat) : Nat :=
  let st := blockStack d b
  let own := ownedIn s d st
  stackAddr st (65536 * gdExch d + exOff s d st 6 + e * (r * own.length + own.idxOf b))

/-- The address of an owned block's entry of ORES0 or ORES1. -/
def oresAddr (s : State) (d : List Byte) (b n : Nat) : Nat :=
  let st := blockStack d b
  stackAddr st (65536 * gdExch d + exOff s d st n + 512 * (ownedIn s d st).idxOf b)

end Sys2Proof.Machine
end

