-- ==== Sys2Proof/Machine/TileArray.lean ====
section
/-! DEFINITION. The matrix array: exact chunk sums, checks, the accumulator and the array instructions (05_matrix_array.md), the index
sets and the 2:4 selector (08_activation_sparsity.md R198 to R206). -/

namespace Sys2Proof.Machine

/-! ### Extended exact numbers -/

/-- An exact number, an infinity, or NaN; `invalid` marks a NaN that raises INVALID (R120). -/
inductive XV where
  | num (d : Dy)
  | inf (neg : Bool)
  | nan (invalid : Bool)
  deriving DecidableEq, Repr

/-- The extended number of a format's value. -/
def XV.of : FV → XV
  | .inf neg => .inf neg
  | .nan => .nan false
  | v => .num v.dy

/-- Whether the number is finite. -/
def XV.fin : XV → Bool
  | .num _ => true
  | _ => false

/-- The exact value (0 where not finite). -/
def XV.dy : XV → Dy
  | .num d => d
  | _ => Dy.zero

/-- The sum, by the rules of R120. -/
def XV.add : XV → XV → XV
  | .nan a, .nan b => .nan (a || b)
  | .nan a, _ => .nan a
  | _, .nan b => .nan b
  | .inf a, .inf b => if a = b then .inf a else .nan true
  | .inf a, _ => .inf a
  | _, .inf b => .inf b
  | .num a, .num b => .num (a.add b)

/-- The product, by the rules of R120. -/
def XV.mul : XV → XV → XV
  | .nan a, _ => .nan a
  | _, .nan b => .nan b
  | .inf a, .inf b => .inf (a != b)
  | .inf a, .num d => if d.m = 0 then .nan true else .inf (a != decide (d.m < 0))
  | .num d, .inf b => if d.m = 0 then .nan true else .inf (b != decide (d.m < 0))
  | .num a, .num b => .num (a.mul b)

/-- The sum of a list. -/
def xvSum (xs : List XV) : XV := xs.foldl XV.add (.num Dy.zero)

/-- The largest exponent of a list. -/
def maxExp (es : List Int) : Option Int :=
  es.foldl (fun m e => match m with
    | none => some e
    | some k => some (max k e)) none

/-- Truncation to the quantum of a reference; no reference leaves the number. -/
def XV.truncRef (x : XV) (f : Int) (e : Option Int) : XV :=
  match x, e with
  | .num d, some k => .num (d.trunc (k - f))
  | _, _ => x

/-- floor(log2 |x|) of a finite nonzero number. -/
def XV.lg? (x : XV) : List Int :=
  match x with
  | .num d => if d.m = 0 then [] else [d.lg]
  | _ => []

/-! ### Shapes and formats (R112, R113) -/

/-- Rows and columns of a shape code; none where reserved. -/
def shapeOf (n : BitVec 4) : Option (Nat × Nat) :=
  match n.toNat with
  | 0 => some (16, 16)
  | 1 => some (16, 8)
  | 2 => some (8, 16)
  | 3 => some (8, 8)
  | 4 => some (32, 8)
  | 5 => some (8, 32)
  | 6 => some (64, 4)
  | 7 => some (4, 64)
  | 8 => some (1, 16)
  | _ => none

/-- The format codes of A and B (R138) and the width of a format pair; none where reserved. -/
def pairOf (n : BitVec 4) : Option (Nat × Nat × Nat) :=
  match n.toNat with
  | 0 => some (3, 3, 1)
  | 1 => some (3, 4, 1)
  | 2 => some (4, 3, 1)
  | 3 => some (4, 4, 1)
  | 4 => some (8, 8, 1)
  | 5 => some (1, 1, 2)
  | 6 => some (2, 2, 2)
  | 7 => some (0, 0, 4)
  | _ => none

/-- The wide formats' F of R117; none for format pairs 0 to 4. -/
def wideF (fmt : BitVec 4) : Option Int :=
  if fmt.toNat = 5 ∨ fmt.toNat = 6 then some 40 else if fmt.toNat = 7 then some 60 else none

/-- The array cycles of a chunk (R112). -/
def chunkCycles (shape fmt : BitVec 4) : Nat :=
  (if shape.toNat = 4 ∨ shape.toNat = 5 then 32 else if shape.toNat = 6 ∨ shape.toNat = 7 then 64 else 16) *
    (if fmt.toNat = 5 ∨ fmt.toNat = 6 ∨ fmt.toNat = 7 then 2 else 1)

/-- Which of MMA (0), MMAS (1), MMAX (2) an operand check is for. -/
def arrayOperandBad (kind : Nat) (m : MmaFields) : Bool :=
  match shapeOf m.shape, pairOf m.fmt with
  | some (mm, nn), some (_, _, w) =>
    (if kind = 2 then m.fmt != 7 || m.shape != 0
      else m.fmt == 7 || (w == 2 && (m.shape == 6 || m.shape == 7)) ||
        (kind == 1 && decide (4 ≤ m.shape.toNat))) ||
      decide (1024 / max mm nn < 16 * w * (m.chunk.toNat + 1))
  | _, _ => true

/-- The value of an operand code of format `fmt`: INT8 as an exact integer. -/
def operandOf (fmt v : Nat) : FV :=
  if fmt = 8 then let i := signed 8 v; .fin (decide (i < 0)) i.natAbs 0 else (fmtOf fmt).decode v

/-! ### One chunk -/

/-- A chunk's operands: rows of A and of B, each with its kc values, the pairs of parts that enter the products (one for a whole operand,
R125), F of R117, whether the format has one zero only (INT8), and the scales. -/
structure Chunk where
  a : List (List FV)
  b : List (List FV)
  parts : List (Nat × Nat)
  f : Option Int
  oneZero : Bool
  sa : List Nat
  sb : List Nat

/-- trunc_bf16 of R124. -/
def truncBf16 (d : Dy) : Dy := if d.m = 0 then Dy.zero else d.trunc (max (d.lg - 7) (-133))

/-- The parts hi, mid, lo of a finite FP32 value (R124). -/
def ex32Parts (v : FV) : List XV :=
  match v with
  | .nan => [.nan false, .nan false, .nan false]
  | .inf neg => [.inf neg, .num Dy.zero, .num Dy.zero]
  | _ =>
    let x := v.dy
    let hi := truncBf16 x
    let mid := truncBf16 (x.sub hi)
    let lo := truncBf16 ((x.sub hi).sub mid)
    [.num hi, .num mid, .num lo]

/-- Whether the split drops bits (R124: INEXACT). -/
def ex32Dropped (v : FV) : Bool :=
  v.isFin && (v.dy.sub ((ex32Parts v).foldl (fun d p => d.add p.dy) Dy.zero)).m != 0

/-- The six part pairs of R125, as indices into hi, mid, lo. -/
def ex32Passes : List (Nat × Nat) := [(2, 0), (0, 2), (1, 1), (1, 0), (0, 1), (0, 0)]

/-- The parts of an operand in a chunk: itself, or the three of an EX32 chunk. -/
def partsOf (ch : Chunk) (v : FV) : List XV := if ch.parts.length = 1 then [XV.of v] else ex32Parts v

/-- The reference E of R117 over pairs of a cell. -/
def refE (ps : List (XV × XV)) : Option Int :=
  (maxExp (ps.flatMap (fun p => p.1.lg?.flatMap (fun x => p.2.lg?.map (fun y => x + y))))).map (· + 1)

/-- The products of parts of one operand pair. -/
def partProducts (ch : Chunk) (pa pb : List XV) : List XV :=
  ch.parts.map (fun p => (pa.getD p.1 (.num Dy.zero)).mul (pb.getD p.2 (.num Dy.zero)))

/-- The truncated sum of products (R116, R117). -/
def truncSum (f : Option Int) (e : Option Int) (ps : List XV) : XV :=
  match f with
  | none => xvSum ps
  | some k => xvSum (ps.map (fun p => p.truncRef k e))

/-- The chunk sum of a data cell: its value by R116, R117 and R120, whether it is a negative zero (R119), and whether truncation
discarded a nonzero bit (R121). The products of an EX32 chunk are its partial products (R125): an infinity times a part that is zero is
∞ × 0. Two points are the model's (assumption log 19): a chunk with a product that is not finite reports no truncation of the others,
and the zeros of an EX32 chunk have the signs of the whole operands, the manual giving none to a part that is zero. -/
def cellSum (ch : Chunk) (a b : List FV) : XV × Bool × Bool :=
  let ps := (a.zip b).map (fun p => (XV.of p.1, XV.of p.2))
  let raw := (a.zip b).flatMap (fun p => partProducts ch (partsOf ch p.1) (partsOf ch p.2))
  let negZero := !ch.oneZero && (a.zip b).all (fun p => (p.1.isZero || p.2.isZero)) &&
    (a.zip b).any (fun p => p.1.sign != p.2.sign) && (a.zip b).all (fun p => p.1.sign != p.2.sign)
  if ps.any (fun p => p.1 == .nan false || p.2 == .nan false) then (.nan false, false, false)
  else if raw.all XV.fin then
    let e := refE ps
    let s := truncSum ch.f e raw
    let lost := match ch.f with
      | none => false
      | some k => raw.any (fun p => (p.dy.sub (p.truncRef k e).dy).m != 0)
    (s, negZero, lost)
  else (xvSum raw, false, false)

/-- Column k of a list of rows. -/
def sliceAt (rows : List (List FV)) (k : Nat) : List FV := rows.map (fun r => r.getD k (.fin false 0 0))

/-- The sum of addends of R127, each truncated for the wide formats at 2^(e_max − F). -/
def checkSum (ch : Chunk) (xs : List XV) : XV :=
  match ch.f with
  | none => xvSum xs
  | some k => let e := maxExp (xs.flatMap XV.lg?); xvSum (xs.map (fun x => x.truncRef k e))

/-- A checksum operand of R127 at one k, by part: each part of an EX32 chunk is summed and truncated by itself (DESIGN CHOICE, assumption log
19). -/
def checkOperand (ch : Chunk) (vs : List FV) : List XV :=
  (List.range (if ch.parts.length = 1 then 1 else 3)).map (fun i => checkSum ch (vs.map (fun v => (partsOf ch v).getD i (.num Dy.zero))))

/-- The whole checksum operand of R127, from which a checksum cell takes its own reference E. -/
def checkWhole (ch : Chunk) (vs : List FV) : XV := checkSum ch (vs.map XV.of)

/-- A checksum cell's result (R127): the chunk sum of products of part lists, with its reference. -/
def checkCell (ch : Chunk) (xs ys : List (List XV)) (xw yw : List XV) : XV × Option Int :=
  let e := refE (xw.zip yw)
  (truncSum ch.f e ((xs.zip ys).flatMap (fun p => partProducts ch p.1 p.2)), e)

/-- The error terms of a cell. -/
def errAt (es : List CellErr) (r c : Option Nat) : Dy :=
  (es.filter (fun e => e.row == r && e.col == c)).foldl (fun d e => d.add ⟨e.mant, e.exp⟩) Dy.zero

/-- A sum with a cell's error. -/
def XV.err (x : XV) (d : Dy) : XV := if d.m = 0 then x else x.add (.num d)

/-- The outcome of one computation of a chunk: the cells (sum, negative zero, truncation), failed rows and columns as masks, whether
a corner comparison failed, and whether a comparison was left out (R130). -/
structure TryRes where
  cells : List (List (XV × Bool × Bool))
  rows : Nat
  cols : Nat
  corner : Bool
  skipped : Bool

/-- A comparison of R128 and R129: none where a term is not finite (R130). -/
def compareSums (tol : Nat) (f : Option Int) (l r : List XV) (es : List (Option Int)) : Option Bool :=
  if (l ++ r).all XV.fin then
    let d := ((xvSum l).dy).sub ((xvSum r).dy)
    match f with
    | none => some (d.m == 0)
    | some _ =>
      match maxExp (es.filterMap id) with
      | none => some (d.m == 0)
      | some e => some (d.absLe ⟨tol, e - 23⟩)
  else none

/-- The bits of a mask where `p` holds. -/
def maskOf (n : Nat) (p : Nat → Bool) : Nat := (List.range n).foldl (fun m i => if p i then m + 2 ^ i else m) 0

/-- One computation of a chunk with the errors `es` (R127 to R130). The sums compared are those before any scale (R128; DESIGN CHOICE, assumption
log 19). -/
def tryChunk (tol : Nat) (ch : Chunk) (kc : Nat) (es : List CellErr) : TryRes :=
  let cells := (List.range ch.a.length).map (fun m => (List.range ch.b.length).map (fun n =>
    let r := cellSum ch (ch.a.getD m []) (ch.b.getD n [])
    let s := if ch.sa.getD m 127 = 255 ∨ ch.sb.getD n 127 = 255 then XV.nan false else r.1
    (s.err (errAt es (some m) (some n)), r.2.1, r.2.2)))
  let ks := List.range kc
  let al := ks.map (fun k => checkOperand ch (sliceAt ch.a k))
  let be := ks.map (fun k => checkOperand ch (sliceAt ch.b k))
  let alw := ks.map (fun k => checkWhole ch (sliceAt ch.a k))
  let bew := ks.map (fun k => checkWhole ch (sliceAt ch.b k))
  let t := (List.range ch.b.length).map (fun n =>
    let row := ch.b.getD n []
    let r := checkCell ch al (row.map (partsOf ch)) alw (row.map XV.of)
    (r.1.err (errAt es none (some n)), r.2))
  let u := (List.range ch.a.length).map (fun m =>
    let row := ch.a.getD m []
    let r := checkCell ch (row.map (partsOf ch)) be (row.map XV.of) bew
    (r.1.err (errAt es (some m) none), r.2))
  let z := checkCell ch al be alw bew
  let zv := z.1.err (errAt es none none)
  let eRow := fun (m : Nat) => (List.range ch.b.length).map (fun n =>
    refE ((((ch.a.getD m []).zip (ch.b.getD n [])).map (fun p => (XV.of p.1, XV.of p.2)))))
  let eCol := fun (n : Nat) => (List.range ch.a.length).map (fun m =>
    refE ((((ch.a.getD m []).zip (ch.b.getD n [])).map (fun p => (XV.of p.1, XV.of p.2)))))
  let rowRes := (List.range ch.a.length).map (fun m =>
    compareSums tol ch.f [(u.getD m (.num Dy.zero, none)).1] ((cells.getD m []).map (fun c => c.1))
      ((u.getD m (.num Dy.zero, none)).2 :: eRow m))
  let colRes := (List.range ch.b.length).map (fun n =>
    compareSums tol ch.f [(t.getD n (.num Dy.zero, none)).1] (cells.map (fun r => (r.getD n (.num Dy.zero, false, false)).1))
      ((t.getD n (.num Dy.zero, none)).2 :: eCol n))
  let c1 := compareSums tol ch.f [zv] (t.map Prod.fst) (z.2 :: t.map Prod.snd)
  let c2 := compareSums tol ch.f [zv] (u.map Prod.fst) (z.2 :: u.map Prod.snd)
  { cells := cells
    rows := maskOf ch.a.length (fun m => rowRes.getD m none == some false)
    cols := maskOf ch.b.length (fun n => colRes.getD n none == some false)
    corner := c1 == some false || c2 == some false
    skipped := rowRes.any Option.isNone || colRes.any Option.isNone || c1.isNone || c2.isNone }

/-- Whether a computation passes its check. -/
def TryRes.ok (r : TryRes) : Bool := r.rows == 0 && r.cols == 0 && !r.corner

/-- The accumulator word after a chunk (R119 to R121), with its flags. -/
def accumulate (acc : W32) (s : XV) (negZero lost : Bool) : W32 × Nat :=
  let x := f32v acc
  if x = .nan then (f32NaN, 0)
  else match s with
    | .nan inv => (f32NaN, if inv then flagInvalid else 0)
    | .inf neg =>
      if x = .inf (!neg) then (f32NaN, flagInvalid) else (f32Inf neg, 0)
    | .num d =>
      let fl := if lost then flagInexact else 0
      if !x.isFin then (acc, fl)
      else
        let v := x.dy.add d
        if v.m = 0 then (f32Zero (acc == 0x80000000 && negZero && d.m == 0), fl)
        else let r := f32Round v false; (r.1, r.2 ||| fl)

/-- A chunk sum scaled by E8M0 scales (R118). -/
def scaleSum (s : XV) (xa xb : Nat) : XV :=
  match s with
  | .num d => .num ⟨d.m, d.e + ((xa : Int) - 127) + ((xb : Int) - 127)⟩
  | x => x

/-- The accumulator tile after a chunk, and the flags of all its cells (R111, R119, R121). -/
def accumulateTile (words : List W32) (ch : Chunk) (cells : List (List (XV × Bool × Bool))) : List W32 × Nat :=
  let n := ch.b.length
  (List.range (ch.a.length * n)).foldl (fun st k =>
    let c := (cells.getD (k / n) []).getD (k % n) (.num Dy.zero, false, false)
    let r := accumulate (st.1.getD k 0) (scaleSum c.1 (ch.sa.getD (k / n) 127) (ch.sb.getD (k % n) 127)) c.2.1 c.2.2
    (setAt r.1 st.1 k, st.2 ||| r.2)) (words, 0)

/-! ### Staging operands -/

/-- The staging index of the A tile and of the B tile. -/
def aTile (m : MmaFields) : Nat := if m.asel then 1 else 0
def bTile (m : MmaFields) : Nat := if m.bsel then 3 else 2

/-- Row r of a tile of `rows` rows in a chunk: kc operands (R110). -/
def chunkRow (t : Staging) (rows r p w kc fmt : Nat) : List FV :=
  (List.range kc).map (fun k => operandOf fmt (field t.bytes.toList (r * (1024 / rows) + (16 * p + k) * w) w))

/-- The scale of row r for chunk position p (R152). -/
def chunkScale (t : Staging) (rows r p : Nat) : Nat := (t.scales[entryOf rows r (p / 2)]?.getD 127).toNat

/-- Whether a chunk reads a poisoned segment of a tile (R134). -/
def chunkPoisoned (t : Staging) (rows p w kc : Nat) : Bool :=
  (List.range rows).any (fun r =>
    let lo := r * (1024 / rows) + 16 * p * w
    (upFrom (lo / 64) ((lo + kc * w + 63) / 64 - lo / 64)).any (fun g => t.poison[g]?.getD false))

/-- The chunk of an instruction, its A operand replaced by `mask` (R205): element (row, position) is fed as +0 where `mask` says. -/
def chunkOf (c : Core) (m : MmaFields) (mask : Nat → Nat → Bool) : Chunk :=
  match shapeOf m.shape, pairOf m.fmt with
  | some (mm, nn), some (fa, fb, w) =>
    let kc := m.kcM1.toNat + 1
    let ta := stgGet c (aTile m)
    let tb := stgGet c (bTile m)
    let p := m.chunk.toNat
    let rowA := fun r => (chunkRow ta mm r p w kc fa).zipIdx.map (fun e => if mask r e.2 then FV.fin false 0 0 else e.1)
    { a := (List.range mm).map rowA
      b := (List.range nn).map (fun r => chunkRow tb nn r p w kc fb)
      parts := if m.fmt = 7 then ex32Passes else [(0, 0)]
      f := wideF m.fmt
      oneZero := m.fmt == 4
      sa := (List.range mm).map (fun r => chunkScale ta mm r p)
      sb := (List.range nn).map (fun r => chunkScale tb nn r p) }
  | _, _ => ⟨[], [], [(0, 0)], none, false, [], []⟩

/-- Whether the chunk of an instruction reads poison (R134). -/
def instrPoisoned (c : Core) (m : MmaFields) : Bool :=
  match shapeOf m.shape, pairOf m.fmt with
  | some (mm, nn), some (_, _, w) =>
    let kc := m.kcM1.toNat + 1
    chunkPoisoned (stgGet c (aTile m)) mm m.chunk.toNat w kc || chunkPoisoned (stgGet c (bTile m)) nn m.chunk.toNat w kc
  | _, _ => false

/-- An accumulator tile. -/
def accGet (c : Core) (n : BitVec 2) : AccTile := c.acc[n.toNat]'n.isLt

/-- The core with an accumulator tile replaced. -/
def accPut (c : Core) (n : BitVec 2) (t : AccTile) : Core := { c with acc := c.acc.set n.toNat t n.isLt }

/-- The poison bit of an accumulator tile set; object 6502:04 counts the setting (R134, R137). -/
def poisonAcc (s : State) (c : Core) (n : BitVec 2) : State × Core :=
  let t := accGet c n
  (if t.poison then s else count64 s Key.tilesPoisoned, accPut c n { t with poison := true })

/-- The capture kind of a failed comparison (R137): 1 data cell, 2 checksum cell only, 3 adder disagreement. Where only rows or only columns
fail, and where adders disagree and a comparison fails too, it is the model's (DESIGN CHOICE, assumption log 19). -/
def checkKind (r : TryRes) : Nat := if r.ok then 3 else if r.rows != 0 && r.cols != 0 then 1 else 2

/-- The capture data of a failed comparison, as the ARRAY_FAULT report carries them (R132, R137): physical core, row and column masks,
kind, format and beat. -/
def checkData (s : State) (id : CoreId) (m : MmaFields) (r : TryRes) : List Nat :=
  [physWord (physicalOf s id), r.rows, r.cols, checkKind r, m.shape.toNat + 16 * m.fmt.toNat, beatNow s]

/-- A failed first comparison (R131, R133, R137): flags, count and capture. -/
def checkMismatch (s : State) (id : CoreId) (m : MmaFields) (r : TryRes) (adders : Bool) : State :=
  let s := count64 (raiseNow s Key.arrayFlags 0) Key.mismatchesTotal
  let s := if adders then raiseNow s Key.arrayFlags 2 else s
  if getN s Key.checkCaptureEmpty = 1 then
    let kind := checkKind r
    let s := setN (setN s Key.checkCaptureCore (coreWord id)) Key.checkCapturePhys (physWord (physicalOf s id))
    let s := setN (setN s Key.checkCaptureRows r.rows) Key.checkCaptureCols r.cols
    let s := setN (setN s Key.checkCaptureKind kind) Key.checkCaptureFormat (m.shape.toNat + 16 * m.fmt.toNat)
    setN (setN s Key.checkCaptureBeat (beatNow s)) Key.checkCaptureEmpty 0
  else s

/-- The dense operations of a chunk enter object 6504:01 in units of 2^20 (R137). -/
def countOps (s : State) (n : Nat) : State :=
  let t := s.opsLow + n
  addN { s with opsLow := t % 2 ^ 20 } Key.arrayDenseOps 64 (t / 2 ^ 20)

/-- Whether a word of an accumulator tile, of those read, differs from its parity bit (R133). -/
def parityBad (t : AccTile) (words : Nat) : Bool :=
  (List.range words).any (fun k => t.parity.getLsbD k != wordParity (t.words[k]?.getD 0))

/-- The words of an accumulator tile are read (R133): a parity error, one that `parity` brings or one that stands in the tile, poisons the
tile and sets ACC_PARITY, and the read goes on with the stored values. -/
def readParity (s : State) (c : Core) (acc : BitVec 2) (parity : Bool) (words : Nat) : State × Core :=
  if parity || parityBad (accGet c acc) words then
    let p := poisonAcc s c acc
    (raiseNow p.1 Key.arrayFlags 3, p.2)
  else (s, c)

/-- A chunk's results enter the accumulator tile (R119 to R121), whose words are read for it (R133); a poisoned operand poisons the tile
(R134). -/
def finishChunk (s : State) (c : Core) (m : MmaFields) (parity : Bool) (ch : Chunk) (r : TryRes) : State × Core :=
  let p := readParity s c m.acc parity (ch.a.length * ch.b.length)
  let t := accGet p.2 m.acc
  let res := accumulateTile t.words.toList ch r.cells
  let p := (p.1, flagArray (accPut p.2 m.acc (accOf (vecOf 256 (fun k => res.1.getD k 0)) t.poison)) res.2)
  if instrPoisoned p.2 m then
    let q := poisonAcc p.1 p.2 m.acc
    (q.1, consume q.2 true)
  else p

/-- A chunk computed, checked, retried once where it fails, and written (R116 to R134). `cycles` are the feed cycles to count for it and
`again` those of its retry (R131, R137); a second failure poisons the tile and raises ARRAY_CHECK (R132). Adders that disagree have read
the accumulator's words (R133). CHECK_TOL_ULP is the one in force as the chunk is computed, for an EX32 chunk at pass 5 (R137; DESIGN CHOICE,
assumption log 19). -/
def runChunk (s : State) (id : CoreId) (c : Core) (m : MmaFields) (mask : Nat → Nat → Bool) (fault : ArrayFault)
    (cycles again : Nat) : TOut :=
  let tol := getN s Key.checkTolUlp
  let kc := m.kcM1.toNat + 1
  let ch := chunkOf c m mask
  let first := tryChunk tol ch kc fault.first
  let s := addN (countOps (count64 s Key.chunksChecked) (2 * ch.a.length * ch.b.length * kc)) Key.arrayBusyCycles 64 cycles
  let s := if first.skipped then count64 s Key.comparesSkipped else s
  let c := if m.fmt = 7 ∧ (ch.a ++ ch.b).any (fun r => r.any ex32Dropped) then flagArray c flagInexact else c
  if first.ok && !fault.addersFirst then
    let r := finishChunk s c m fault.parity ch first
    .next r.1 r.2
  else
    let data := checkData s id m first
    let s := addN (checkMismatch s id m first fault.addersFirst) Key.arrayBusyCycles 64 again
    let second := tryChunk tol ch kc fault.retry
    if second.ok && !fault.addersRetry then
      let r := finishChunk (count64 s Key.retriesPassed) c m fault.parity ch second
      .next r.1 r.2
    else
      let p := if fault.addersFirst || fault.addersRetry then readParity s c m.acc fault.parity (ch.a.length * ch.b.length) else (s, c)
      let p := poisonAcc p.1 p.2 m.acc
      let s := raiseNow p.1 Key.arrayFlags 1
      .late (if fault.addersRetry then raiseNow s Key.arrayFlags 2 else s) p.2 excArrayCheck data

/-- Nothing masked: an MMA or MMAX feeds every element. -/
def noMask (_ _ : Nat) : Bool := false

/-- The open EX32 chunk is discarded (R126). -/
def dropEx32 (c : Core) : Core := { c with ex32 := none }

/-- MMA (R172, R184). -/
def execMma (i : Issue) (m : MmaFields) (fault : ArrayFault) (s : State) : Host.Outcome State Fault Refusal :=
  .next (tileIssue i (wordMma m) noWait (fun c s =>
    unlessExc [(arrayOperandBad 0 m, excArrayOperand), (c.ex32.isSome, excArraySequence)]
      (runChunk s i.core c m noMask fault (chunkCycles m.shape m.fmt) (chunkCycles m.shape m.fmt))) s)

/-- Whether an MMAX is out of sequence (R126): with an open chunk it must be the next pass of the same chunk; without one, pass 0. -/
def mmaxBad (c : Core) (m : MmaFields) (pass : Nat) : Bool :=
  match c.ex32 with
  | none => pass != 0
  | some o => pass != o.next || o.fields.acc != m.acc || o.fields.asel != m.asel || o.fields.bsel != m.bsel ||
      o.fields.chunk != m.chunk || o.fields.kcM1 != m.kcM1

/-- MMAX (R124 to R126, R172, R184): the sum of the six passes is rounded once, at the end of pass 5; each pass takes the 32 cycles of
a BF16 chunk, and a retry all 192. The flags of the split and of the truncation appear with pass 5: the manual does not say in which
pass they do; nor in which a poisoned segment poisons the tile: here in pass 5 as well (R134; DESIGN CHOICE, assumption log 19). -/
def execMmax (i : Issue) (m : MmaFields) (pass : BitVec 3) (fault : ArrayFault) (s : State) : Host.Outcome State Fault Refusal :=
  .next (tileIssue i (wordMmax m pass) noWait (fun c s =>
    unlessExc [(decide (6 ≤ pass.toNat), excIllegalOperand), (arrayOperandBad 2 m, excArrayOperand),
        (mmaxBad c m pass.toNat, excArraySequence)]
      (if pass.toNat = 5 then runChunk s i.core (dropEx32 c) m noMask fault 32 192
      else .next (addN s Key.arrayBusyCycles 64 32) { c with ex32 := some ⟨m, pass.toNat + 1⟩ })) s)

/-- Whether an instruction names the open chunk's accumulator tile (R126). -/
def namesOpen (c : Core) (acc : BitVec 2) : Bool :=
  match c.ex32 with
  | some o => o.fields.acc == acc
  | none => false

/-- ACCZ (R119, R134, R184). -/
def execAccz (i : Issue) (acc : BitVec 2) (s : State) : Host.Outcome State Fault Refusal :=
  .next (tileIssue i (wordAccz acc) noWait (fun c s =>
    unlessExc [(namesOpen c acc, excArraySequence)] (.next s (accPut c acc ⟨Vector.replicate 256 0, 0, false⟩))) s)

/-- ACCOUT (R133, R134, R172, R179, R180). -/
def execAccout (i : Issue) (acc : BitVec 2) (ad : BitVec 3) (post : Bool) (xs : BitVec 5) (parity : Bool) (s : State) :
    Host.Outcome State Fault Refusal :=
  .next (tileIssue i (wordAccout acc ad post xs) noWait (fun c s =>
    let (base, c1) := agTake c ad post
    let as := rowAddrs base (xget c xs) 16
    unlessExc [(namesOpen c acc, excArraySequence), (misaligned 64 as, excAlignment),
        (as.any (fun a => !mayWrite c a 64), excSramRegion)]
      (let (s, c2) := readParity s c1 acc parity 256
       let t := accGet c2 acc
       .next s (consume (writeSegs c2 as (fun k => ((List.range 16).flatMap (fun w => leBytes 4 (t.words[16 * k + w]?.getD 0).toNat),
         t.poison))) t.poison))) s)

/-! ### The compaction engine (R198 to R206) -/

/-- The class of a byte (R199). -/
def byteClass (b : Byte) : Nat := if b = 0 then 0 else if b = 0x80 then 1 else 2

/-- An index set built from an A tile (R199). -/
def buildIndex (c : Core) (asel : Bool) : IndexSet :=
  let t := stgGet c (if asel then 1 else 0)
  ⟨t.bytes.toList.map byteClass, some (asel, t.fill)⟩

/-- An index set. -/
def ixGet (c : Core) (sel : Bool) : IndexSet := if sel then c.ix[1] else c.ix[0]

/-- The core with an index set replaced. -/
def ixPut (c : Core) (sel : Bool) (x : IndexSet) : Core := { c with ix := if sel then c.ix.set 1 x else c.ix.set 0 x }

/-- Whether an A element at a byte offset is zero by its classes (R201). -/
def elemZero (x : IndexSet) (fmt : BitVec 4) (off : Nat) : Bool :=
  let lo := x.classes.getD off 0
  let hi := x.classes.getD (off + 1) 0
  match fmt.toNat with
  | 4 => lo == 0
  | 5 => lo == 0 && decide (hi ≤ 1)
  | 6 => lo == 0 && decide (hi ≤ 1)
  | _ => decide (lo ≤ 1)

/-- What the selector does with one group of four elements (R202): the positions it feeds, whether it spills, and the positions it
discards. `nz` gives the nonzero ones of the four, `better` whether the magnitude of the first exceeds that of the second. With at most
two nonzero elements the lowest zero positions take the places that are left. -/
def selectGroup (drop : Bool) (nz : List Nat) (better : Nat → Nat → Bool) : List Nat × Bool × List Nat :=
  if nz.length ≤ 2 then (nz ++ ((List.range 4).filter (fun k => !nz.contains k)).take (2 - nz.length), false, [])
  else if drop then
    let best := nz.filter (fun a => decide ((nz.filter (fun b => b != a && (better b a || (!better a b && decide (b < a))))).length < 2))
    (best, false, nz.filter (fun a => !best.contains a))
  else (nz, true, [])

/-- Whether the magnitude of one A value exceeds another's; NaN is the largest (R202). -/
def magExceeds (a b : FV) : Bool :=
  match a, b with
  | .nan, .nan => false
  | .nan, _ => true
  | _, .nan => false
  | .inf _, .inf _ => false
  | .inf _, _ => true
  | _, .inf _ => false
  | x, y => !(x.dy.absLe y.dy)

/-- The selection of a chunk (R202, R203): the positions fed and those discarded as (row, position), whether a row spills, whether a
nonzero element at or beyond kc was selected, and whether a NaN was met. -/
structure Selection where
  fed : List (Nat × Nat)
  dropped : List (Nat × Nat)
  spill : Bool
  beyond : Bool
  sawNan : Bool

/-- The selector over every row and group of a chunk (R202). -/
def selectChunk (c : Core) (m : MmaFields) (drop : Bool) (x : IndexSet) : Selection :=
  match shapeOf m.shape, pairOf m.fmt with
  | some (mm, _), some (fa, _, w) =>
    let kc := m.kcM1.toNat + 1
    let t := stgGet c (aTile m)
    let per := (List.range mm).flatMap (fun r => ((List.range 4).filter (fun g => decide (4 * g < kc))).map (fun g =>
      let off := fun k => r * (1024 / mm) + (16 * m.chunk.toNat + 4 * g + k) * w
      let val := fun k => operandOf fa (field t.bytes.toList (off k) w)
      let nz := (List.range 4).filter (fun k => !elemZero x m.fmt (off k))
      let sel := selectGroup drop nz (fun a b => magExceeds (val a) (val b))
      let at_ := fun k => (r, 4 * g + k)
      (sel.1.map at_, sel.2.2.map at_, sel.2.1, sel.1.any (fun k => nz.contains k && decide (kc ≤ 4 * g + k)), nz.any (fun k => val k == .nan))))
    ⟨per.flatMap (fun q => q.1), per.flatMap (fun q => q.2.1), per.any (fun q => q.2.2.1), per.any (fun q => q.2.2.2.1),
      per.any (fun q => q.2.2.2.2)⟩
  | _, _ => ⟨[], [], false, false, false⟩

/-- A chunk that structured sparsity cannot serve (R203): its tile is poisoned, counted, flagged and captured. -/
def indexBeyond (s : State) (id : CoreId) (c : Core) (acc : BitVec 2) : State × Core :=
  let p := poisonAcc s c acc
  let s := raise (count64 p.1 Key.structIndexChunks) Key.sparsityFlags 2
  (if getN s Key.structIndexEmpty = 1 then
      setN (setN (setN s Key.structIndexCore (coreWord id)) Key.structIndexBeat (beatNow s)) Key.structIndexEmpty 0
    else s, p.2)

/-- A chunk written counts (R215). -/
def countWritten (key : Nat) : TOut → TOut
  | .done s c pc => .done (count64 s key) c pc
  | out => out

/-- MMAS (R184, R200 to R205): what the selector does not feed enters as +0 (R205). MMAS_CHUNKS counts the chunks written (R215). -/
def execMmas (i : Issue) (m : MmaFields) (drop ixsel : Bool) (fault : ArrayFault) (s : State) : Host.Outcome State Fault Refusal :=
  .next (tileIssue i (wordMmas m drop ixsel) noWait (fun c s =>
    unlessExc [(s.variant == .l, excUnitAbsent), (arrayOperandBad 1 m, excArrayOperand), (c.ex32.isSome, excArraySequence)]
      (let x := ixGet c ixsel
       let fresh := x.tag == some (m.asel, (stgGet c (aTile m)).fill)
       let s := if fresh then s else count64 s Key.indexRebuilds
       let c := if fresh then c else ixPut c ixsel (buildIndex c m.asel)
       let sel := selectChunk c m drop (ixGet c ixsel)
       let s := if sel.spill then raise (count64 s Key.structSpillChunks) Key.sparsityFlags 0 else s
       let s := if sel.dropped.isEmpty then s else
         raise (addN s Key.structDropElements 64 sel.dropped.length) Key.sparsityFlags 1
       let c := flagCompaction c ((if sel.dropped.isEmpty then 0 else flagInexact) ||| (if sel.sawNan then flagInvalid else 0))
       let p := if sel.beyond then indexBeyond s i.core c m.acc else (s, c)
       let cycles := chunkCycles m.shape m.fmt / 2 * (if sel.spill then 2 else 1)
       countWritten Key.mmasChunks (runChunk p.1 i.core p.2 m (fun r k => !sel.fed.contains (r, k)) fault cycles cycles))) s)

/-- GATH MODE 0, INDEX_2_4 (R199). -/
def execIndex24 (i : Issue) (asel ixsel : Bool) (s : State) : Host.Outcome State Fault Refusal :=
  .next (tileIssue i (wordGath 0 asel ixsel 0 false) noWait (fun c s =>
    unlessExc [(s.variant == .l, excUnitAbsent)] (.next s (ixPut c ixsel (buildIndex c asel)))) s)

/-- The zero map of an A tile (R206): bit j is set where byte j of a segment is nonzero, or everywhere when a segment is poisoned. -/
def zeroMapOf (t : Staging) : Nat :=
  if t.poison.toList.any id then 2 ^ 64 - 1
  else maskOf 64 (fun j => (List.range 16).any (fun g => t.bytes[64 * g + j]?.getD 0 != 0))

/-- GATH MODE 1, ZERO_MAP (R206): bits [2:0] of the address are taken as zero. -/
def execZeroMap (i : Issue) (asel : Bool) (ad : BitVec 3) (post : Bool) (s : State) : Host.Outcome State Fault Refusal :=
  .next (tileIssue i (wordGath 1 asel false ad post) noWait (fun c s =>
    let (a0, c1) := agTake c ad post
    let a := a0 / 8 * 8
    unlessExc [(s.variant == .l, excUnitAbsent), (!mayWrite c a 8, excSramRegion)]
      (.next s (sramWrite c1 a (leBytes 8 (zeroMapOf (stgGet c (if asel then 1 else 0)))) false))) s)

end Sys2Proof.Machine
end

