-- ==== Sys2Proof/Machine/TileVector.lean ====
section
/-! DEFINITION. The vector and random instructions (07_tile_programs.md R173, R185, R186; 04_core.md R100 to R105). -/

namespace Sys2Proof.Machine

/-- A generator named by an instruction, with its POST bit. -/
abbrev AgUse := BitVec 3 × Bool

/-- The generators that an instruction names, each once: an instruction uses a generator once per vector (R164), with POST when one
of the fields that name it has it (assumption log 17). -/
def agUses (us : List AgUse) : List AgUse :=
  (List.range 8).filterMap (fun k =>
    let mine := us.filter (fun u => u.1.toNat == k)
    if mine.isEmpty then none else some (BitVec.ofNat 3 k, mine.any (fun u => u.2)))

/-- One vector's use of the generators: the address of each, and the core after. -/
def agStep (c : Core) (us : List AgUse) : (BitVec 3 → Nat) × Core :=
  (fun n => (agGet c n).cursor.toNat, us.foldl (fun d u => (agTake d u.1 u.2).2) c)

/-- The addresses of every vector of an instruction, one list per vector in the order of `fields`, and the core after. -/
def agVectors (fields : List (BitVec 3)) (us : List AgUse) : Nat → Core → List (List Nat) × Core
  | 0, c => ([], c)
  | n + 1, c =>
    let r := agStep c us
    let rest := agVectors fields us n r.2
    (fields.map r.1 :: rest.1, rest.2)

/-- Sixteen FP32 elements at an address. -/
def vecRead (c : Core) (a : Nat) : List W32 := (List.range 16).map (fun l => sramWord c (a + 4 * l))

/-- The bytes of FP32 elements. -/
def vecBytes (vs : List W32) : List Byte := vs.flatMap (fun w => leBytes 4 w.toNat)

/-! ### VOP (R100, R155, R185) -/

/-- Which of a, b, c a VOP function reads; none for a reserved code. -/
def vopReads (func : Nat) : Option (Bool × Bool × Bool) :=
  match func with
  | 0 => some (true, true, false)
  | 1 => some (true, true, false)
  | 2 => some (true, true, false)
  | 3 => some (true, true, true)
  | 4 => some (true, true, false)
  | 5 => some (true, true, false)
  | 6 => some (true, false, false)
  | 7 => some (true, false, false)
  | 8 => some (true, true, false)
  | 9 => some (true, true, false)
  | 10 => some (true, true, false)
  | 11 => some (true, true, true)
  | 12 => some (true, true, true)
  | 13 => some (true, false, false)
  | 14 => some (true, false, false)
  | 15 => some (true, true, false)
  | 16 => some (true, false, false)
  | 17 => some (true, false, false)
  | 18 => some (true, false, false)
  | 19 => some (true, false, false)
  | 20 => some (true, false, false)
  | 21 => some (true, false, false)
  | 22 => some (true, false, false)
  | _ => none

/-- One element of a VOP, with its flags. -/
def vopElem (func : Nat) (a b c : W32) : W32 × Nat :=
  match func with
  | 0 => f32Add a b
  | 1 => f32Sub a b
  | 2 => f32Mul a b
  | 3 => f32Fma a b c
  | 4 => (f32Min a b, 0)
  | 5 => (f32Max a b, 0)
  | 6 => (f32Abs a, 0)
  | 7 => (f32Neg a, 0)
  | 8 => (f32Bool (f32Lt a b), 0)
  | 9 => (f32Bool (f32Lt a b || f32Eq a b), 0)
  | 10 => (f32Bool (f32Eq a b), 0)
  | 11 => (f32Canon (if f32Lt 0 c || f32Lt c 0 then a else b), 0)
  | 12 => (if f32Lt c b then f32Canon a else 0, 0)
  | 13 => f32Rcp a
  | 14 => f32Rsqrt a
  | 15 => f32Div a b
  | 16 => f32Sqrt a
  | f => f32Trans f a

/-- The OR of the flags of elements. -/
def orFlags (rs : List (W32 × Nat)) : Nat := rs.foldl (fun f r => f ||| r.2) 0

/-- The generators that a VOP uses, with their POST bits: those of operands that its function does not read are left alone (R185; DESIGN CHOICE,
assumption log 17). -/
def vopUses (ad aa ab ac : BitVec 3) (useB useC : Bool) (post : BitVec 4) : List AgUse :=
  agUses ([(ad, post.getLsbD 3), (aa, post.getLsbD 2)] ++ (if useB then [(ab, post.getLsbD 1)] else []) ++
    (if useC then [(ac, post.getLsbD 0)] else []))

/-- One vector of a VOP: `as` are the addresses of d, a, b, c; `x` stands for b where b is not read from SRAM. -/
def vopVector (func : Nat) (useB useC : Bool) (x : W32) (d : Core) (as : List Nat) : Core :=
  let pois := sramPoisoned d (as.getD 1 0) 64 || (useB && sramPoisoned d (as.getD 2 0) 64) || (useC && sramPoisoned d (as.getD 3 0) 64)
  let a := vecRead d (as.getD 1 0)
  let b := if useB then vecRead d (as.getD 2 0) else List.replicate 16 x
  let c := if useC then vecRead d (as.getD 3 0) else List.replicate 16 0
  let out := (List.range 16).map (fun l => vopElem func (a.getD l 0) (b.getD l 0) (c.getD l 0))
  sramWrite (flagVector (consume d pois) (orFlags out)) (as.getD 0 0) (vecBytes (out.map Prod.fst)) pois

/-- VOP: vectors are computed and written in vector order (assumption log 17). -/
def execVop (i : Issue) (func : BitVec 6) (ad aa ab ac : BitVec 3) (scalb : Bool) (xb : BitVec 5) (post : BitVec 4)
    (count : BitVec 14) (s : State) : Host.Outcome State Fault Refusal :=
  .next (tileIssue i (wordVop func ad aa ab ac scalb xb post count) noWait (fun c s =>
    match vopReads func.toNat with
    | none => .exc excIllegalOperand
    | some (_, rb, rc) =>
      let useB := rb && !scalb
      let v := agVectors [ad, aa, ab, ac] (vopUses ad aa ab ac useB rc post) count.toNat c
      let rd := v.1.map (fun as => [as.getD 1 0] ++ (if useB then [as.getD 2 0] else []) ++ (if rc then [as.getD 3 0] else []))
      let wr := v.1.map (fun as => as.getD 0 0)
      unlessExc
        [(count == 0, excIllegalOperand), (misaligned 4 (wr ++ rd.flatten), excAlignment),
         (wr.any (fun a => !mayWrite c a 64) || rd.flatten.any (fun a => !mayRead c a 64), excSramRegion)]
        (.next s (v.1.foldl (vopVector func.toNat useB rc (xget c xb)) v.2))) s)

/-! ### VRED (R101) -/

/-- Adjacent pairs combined. -/
def pairUp (f : W32 → W32 → W32 × Nat) : List W32 → List (W32 × Nat)
  | a :: b :: rest => f a b :: pairUp f rest
  | [a] => [(a, 0)]
  | [] => []

/-- The fixed tree of R101 (`levels` of them), with the OR of the flags. -/
def treeReduce (f : W32 → W32 → W32 × Nat) : Nat → List W32 × Nat → W32 × Nat
  | 0, (vs, fl) => (f32Canon (vs.headD 0), fl)
  | n + 1, (vs, fl) =>
    let r := pairUp f vs
    treeReduce f n (r.map Prod.fst, fl ||| orFlags r)

/-- One vector of VRED: 0 SUM, 1 MAX, 2 MIN, 3 SUMSQ. -/
def vredVector (func : BitVec 2) (vs : List W32) : W32 × Nat :=
  match func.toNat with
  | 0 => treeReduce f32Add 4 (vs, 0)
  | 1 => treeReduce (fun a b => (f32Max a b, 0)) 4 (vs, 0)
  | 2 => treeReduce (fun a b => (f32Min a b, 0)) 4 (vs, 0)
  | _ =>
    let sq := vs.map (fun v => f32Mul v v)
    treeReduce f32Add 4 (sq.map Prod.fst, orFlags sq)

/-- One vector of a VRED: `as` are the addresses of d and a. -/
def vredOne (func : BitVec 2) (d : Core) (as : List Nat) : Core :=
  let pois := sramPoisoned d (as.getD 1 0) 64
  let r := vredVector func (vecRead d (as.getD 1 0))
  sramWrite (flagVector (consume d pois) r.2) (as.getD 0 0) (leBytes 4 r.1.toNat) pois

/-- VRED (R101, R173, R185). -/
def execVred (i : Issue) (func : BitVec 2) (ad aa : BitVec 3) (postD postA : Bool) (count : BitVec 14) (s : State) :
    Host.Outcome State Fault Refusal :=
  .next (tileIssue i (wordVred func ad aa postD postA count) noWait (fun c s =>
    let v := agVectors [ad, aa] (agUses [(ad, postD), (aa, postA)]) count.toNat c
    unlessExc
      [(count == 0, excIllegalOperand), (misaligned 4 v.1.flatten, excAlignment),
       (v.1.any (fun as => !mayWrite c (as.getD 0 0) 4 || !mayRead c (as.getD 1 0) 64), excSramRegion)]
      (.next s (v.1.foldl (vredOne func) v.2))) s)

/-! ### Random draws (R102 to R105, R186) -/

/-- The step of a keyed draw: STEP, or the pair XS. -/
def drawStep (s : State) (c : Core) (stepSrc : Bool) (xs : BitVec 5) : W64 :=
  if stepSrc then xpair c xs else BitVec.ofNat 64 (stepNow s)

/-- keyed32 of the active value of a key slot (R104). -/
def keyedDraw (s : State) (slot : Nat) (step index : W64) : W32 :=
  keyed32 (BitVec.ofNat 64 (getN s (Key.keyActiveLo slot))) (BitVec.ofNat 64 (getN s (Key.keyActiveHi slot))) step index

/-- free32 of lane l at the start of an instruction's v-th cycle (R103). -/
def freeDraw (c : Core) (v l : Nat) : W32 := free32 (advanceLaneBy (c.lanes[l]?.getD 0) v)

/-- The samples of one vector, raw or as FP32 in [0, 1). -/
def sampleBytes (form : Bool) (draw : Nat → W32) : List Byte :=
  vecBytes ((List.range 16).map (fun l => let r := draw l; if form then unitF32 r else r))

/-- The samples of an instruction written at its addresses. -/
def writeSamples (c : Core) (form : Bool) (addrs : List (List Nat)) (draw : Nat → Nat → W32) : Core :=
  (addrs.zipIdx).foldl (fun d e => sramWrite d (e.1.getD 0 0) (sampleBytes form (draw e.2)) false) c

/-- RNGK (R173, R186); a pair field that names an odd register raises ILLEGAL_OPERAND whatever STEPSRC is (R162). -/
def execRngk (i : Issue) (ad : BitVec 3) (post : Bool) (key : BitVec 4) (stepSrc : Bool) (xs xi : BitVec 5) (form : Bool)
    (count : BitVec 14) (s : State) : Host.Outcome State Fault Refusal :=
  .next (tileIssue i (wordRngk ad post key stepSrc xs xi form count) noWait (fun c s =>
    let v := agVectors [ad] (agUses [(ad, post)]) count.toNat c
    unlessExc
      [(count == 0 || xodd xi || xodd xs, excIllegalOperand), (misaligned 4 v.1.flatten, excAlignment),
       (v.1.flatten.any (fun a => !mayWrite c a 64), excSramRegion)]
      (.next s (writeSamples v.2 form v.1 (fun n l =>
        keyedDraw s key.toNat (drawStep s c stepSrc xs) (xpair c xi + BitVec.ofNat 64 (16 * n + l)))))) s)

/-- RNGF (R103, R173, R186). -/
def execRngf (i : Issue) (ad : BitVec 3) (post form : Bool) (count : BitVec 14) (s : State) : Host.Outcome State Fault Refusal :=
  .next (tileIssue i (wordRngf ad post form count) noWait (fun c s =>
    let v := agVectors [ad] (agUses [(ad, post)]) count.toNat c
    unlessExc
      [(count == 0, excIllegalOperand), (misaligned 4 v.1.flatten, excAlignment),
       (v.1.flatten.any (fun a => !mayWrite c a 64), excSramRegion)]
      (.next s (writeSamples v.2 form v.1 (fun n l => freeDraw c n l)))) s)

/-! ### VCVT (R143 to R148, R173, R185) -/

/-- The bytes of a vector of sixteen elements of a format. -/
def vecLen (fmt : Nat) : Nat := 2 * fmtBits fmt

/-- One element converted: into FP32 exactly, or from FP32 by the modes, with the draw `r`. -/
def vcvtElem (f : VcvtFields) (v : Nat) (r : W32) : Nat × Nat :=
  if f.dstf = 0 then ((f32Canon (convertFrom f.srcf.toNat v)).toNat, 0)
  else convertTo f.dstf.toNat (BitVec.ofNat 32 v) f.rnd.toNat r.toNat f.sat

/-- The draw of element l of vector n of a VCVT (R186): keyed for RND 2, free-running for RND 3. -/
def vcvtDraw (s : State) (c : Core) (f : VcvtFields) (n l : Nat) : W32 :=
  if f.rnd = 2 then keyedDraw s f.key.toNat (drawStep s c f.stepSrc f.xs) (xpair c f.xi + BitVec.ofNat 64 (16 * n + l))
  else if f.rnd = 3 then freeDraw c n l else 0

/-- One vector of a VCVT: its addresses of d and a with the vector's number. -/
def vcvtOne (f : VcvtFields) (draw : Nat → Nat → W32) (d : Core) (e : List Nat × Nat) : Core :=
  let ls := vecLen f.srcf.toNat
  let pois := sramPoisoned d (e.1.getD 1 0) ls
  let src := sramRead d (e.1.getD 1 0) ls
  let out := (List.range 16).map (fun l => vcvtElem f (element f.srcf.toNat src l) (draw e.2 l))
  sramWrite (flagVector (consume d pois) (out.foldl (fun g r => g ||| r.2) 0)) (e.1.getD 0 0)
    (leBytes (vecLen f.dstf.toNat) (pack (fmtBits f.dstf.toNat) (out.map Prod.fst))) pois

/-- VCVT; a pair field that names an odd register raises ILLEGAL_OPERAND whatever the modes (R162). -/
def execVcvt (i : Issue) (f : VcvtFields) (s : State) : Host.Outcome State Fault Refusal :=
  .next (tileIssue i (wordVcvt f) noWait (fun c s =>
    let v := agVectors [f.ad, f.aa] (agUses [(f.ad, f.postD), (f.aa, f.postA)]) f.count.toNat c
    let ls := vecLen f.srcf.toNat
    let ld := vecLen f.dstf.toNat
    unlessExc
      [(f.count == 0 || decide (10 < f.srcf.toNat) || decide (10 < f.dstf.toNat) || (f.srcf != 0 && f.dstf != 0) ||
          xodd f.xi || xodd f.xs, excIllegalOperand),
       (misaligned 4 v.1.flatten, excAlignment),
       (v.1.any (fun as => !mayWrite c (as.getD 0 0) ld || !mayRead c (as.getD 1 0) ls), excSramRegion)]
      (.next s (v.1.zipIdx.foldl (vcvtOne f (vcvtDraw s c f)) v.2))) s)

end Sys2Proof.Machine
end

