-- ==== Sys2Proof/Machine/Update.lean ====
section
/-! DEFINITION. The update units (10_update_unit.md): program engines and their instructions, the weight writer, the queues, the
accumulation passes and the slow sweeps. -/

namespace Sys2Proof.Machine

/-! ### Engines and queues (R230, R239, R247) -/

/-- The key of a program engine. -/
def engKey (e : EngId) : Nat := e.unit * 64 + e.eng

/-- Whether a program engine exists (R230). -/
def engExists (s : State) (e : EngId) : Bool := decide (e.unit < 16) && decide (e.eng < 64) && bit (stackPresent s.variant) e.unit

def getEng (s : State) (e : EngId) : PEng := amGet PEng.default s.update.engines (engKey e)
def setEng (s : State) (e : EngId) (p : PEng) : State :=
  { s with update := { s.update with engines := amPut PEng.default p s.update.engines (engKey e) } }

/-- Items of a unit that wait. -/
def itemsWaiting (s : State) (u : Nat) : Nat :=
  (s.update.fast.filter (fun x => x.1 == u)).length + (s.update.sweep.filter (fun x => x.1 == u)).length

/-- The items that the engines of a unit hold, in both work buffers. -/
def itemsRunning (s : State) (u : Nat) : List WorkItem :=
  (s.update.engines.filter (fun x => x.1 / 64 == u)).flatMap (fun x => x.2.item.toList ++ (x.2.next.map (fun b => b.item)).toList)

/-- UU_STATE and ITEMS_QUEUED brought up to date (R257). -/
def refreshUnit (s : State) (u : Nat) : State :=
  let run := itemsRunning s u
  let redo := run.any (fun w => w.redo) || (s.update.fast ++ s.update.sweep).any (fun x => x.1 == u && x.2.redo)
  let st := if redo then 2 else if run ≠ [] ∨ itemsWaiting s u ≠ 0 then 1 else 0
  setN (setN s (Key.uuState u) st) (Key.uuItemsQueued u) (itemsWaiting s u)

/-- Every unit brought up to date. -/
def refreshUnits (s : State) : State := (List.range 16).foldl refreshUnit s

/-- Whether a block holds a complete update for a step (R236, R238). -/
def blockWritten (s : State) (d : List Byte) (stamp b : Nat) : Bool :=
  let p := readPtr s d b
  p.written && p.stamp == stamp % 2 ^ 32

/-- Whether every block of a group is written for a step. -/
def groupWritten (s : State) (d : List Byte) (stamp : Nat) : Bool := (List.range (gdBlocks d)).all (blockWritten s d stamp)

/-- The first blocks of a group's work items and their size: a square for a matrix with FP8 weights, else a block. -/
def itemSize (d : List Byte) : Nat := if !gdVector d && gdScaled d then 4 else 1
def itemFirsts (d : List Byte) : List Nat := (List.range (gdBlocks d / itemSize d)).map (fun q => q * itemSize d)

/-- The work items of a group that still have a block to write, in ascending block order, with their unit (R231, R238, R247). -/
def groupItems (s : State) (d : List Byte) (stamp : Nat) (slow redo : Bool) : List (Nat × WorkItem) :=
  ((itemFirsts d).filter (fun b => !(upFrom b (itemSize d)).all (blockWritten s d stamp))).map
    (fun b => (blockStack d b, ⟨gdGroup d, b, itemSize d, stamp, slow, redo, false⟩))

/-- The accumulation passes of a slow-tier group that are still to run for a step, in ascending block order (R247, R248). -/
def groupPasses (d : List Byte) (stamp : Nat) (done : List Nat) (redo : Bool) : List (Nat × WorkItem) :=
  ((List.range (gdBlocks d)).filter (fun b => !done.contains b)).map
    (fun b => (blockStack d b, ⟨gdGroup d, b, 1, stamp, false, redo, true⟩))

/-- A fast-tier group's items queued (R247). -/
def queueFast (s : State) (d : List Byte) (stamp : Nat) (redo : Bool) : State :=
  refreshUnits { s with update := { s.update with fast := s.update.fast ++ groupItems s d stamp false redo } }

/-- A slow-tier group's accumulation passes queued (R247). -/
def queuePasses (s : State) (d : List Byte) (stamp : Nat) (done : List Nat) (redo : Bool) : State :=
  refreshUnits { s with update := { s.update with fast := s.update.fast ++ groupPasses d stamp done redo } }

/-- The items of a group for a step taken off the queues. -/
def dropItems (s : State) (g stamp : Nat) : State :=
  let keep (x : Nat × WorkItem) : Bool := !(x.2.group == g && x.2.stamp == stamp)
  refreshUnits { s with update := { s.update with fast := s.update.fast.filter keep, sweep := s.update.sweep.filter keep } }

/-- The due step of a window of a slow-tier group (R249). -/
def sweepDue (d : List Byte) (w : Nat) : Nat := (w + 2) * gdDelay d - 1

/-- Whether R246 holds a group for a step. -/
def heldFor (g : GroupSt) (step : Nat) : Bool := g.heldSteps.contains step

/-- Whether HOLD of GROUP_STATE is set for a group: by R246 for the step, or by R281. -/
def groupHeld (s : State) (d : List Byte) : Bool := (getGroup s (gdGroup d)).hold || heldFor (getGroup s (gdGroup d)) s.stp.step

/-- GROUPS_HELD, the groups with HOLD set (R287). -/
def refreshHeld (s : State) : State := setN s Key.groupsHeld ((groupDescs s).filter (groupHeld s)).length

/-- Whether no update begins: a reshard in COPYING or COPIED (R385). -/
def updatesStopped (s : State) : Bool := getN s Key.reshardPhase == 2 || getN s Key.reshardPhase == 3

/-- Whether an item's results may still be written: its group is not held for its step; a fast item's step has not passed; and a sweep item
belongs to the sweep under way. -/
def itemLive (s : State) (w : WorkItem) : Bool :=
  let g := getGroup s w.group
  !heldFor g w.stamp &&
    (if w.slow then (match groupDesc s w.group, g.sweep with
      | some d, some x => sweepDue d x.window == w.stamp
      | _, _ => false)
     else w.stamp == s.stp.step)

/-! ### The constants of a work item (R239, R243) -/

/-- The active value of a constant. -/
def activeConst (s : State) (set i : Nat) : W32 := BitVec.ofNat 32 (getN s (Key.ksetKActive set i))

/-- The active constants of a group's set. -/
def activeConsts (s : State) (d : List Byte) : List W32 := (List.range 12).map (activeConst s (gdConsts d))

/-- An unsigned number as FP32, to nearest even. -/
def f32OfNat (n : Nat) : W32 := (f32Round ⟨n, 0⟩ false).1

/-- K13 and K14 (R243): RCP(1 − EXP2(K12 × LOG2(K))). -/
def biasConst (k12 k : W32) : W32 := (f32Rcp (f32Sub 0x3F800000 (f32Trans 17 (f32Mul k12 (f32Trans 18 k).1).1).1).1).1

/-- K0 to K15 of a work item. -/
def itemConsts (s : State) (d : List Byte) (w : WorkItem) : List W32 :=
  let g := getGroup s w.group
  let own := g.sweep.bind (fun x => x.consts)
  let ks := if w.slow then (own.map (fun c => c.1)).getD (List.replicate 12 0) else activeConsts s d
  let k12 := f32OfNat (g.t + 1)
  ks ++ [k12, biasConst k12 (ks.getD 1 0), biasConst k12 (ks.getD 2 0),
    (f32Rcp (f32OfNat (if w.slow then (g.sweep.map (fun x => x.divisor)).getD 0 else g.divisor))).1]

/-- The active value of a group's key slot. -/
def activeKey (s : State) (d : List Byte) : W64 × W64 :=
  (BitVec.ofNat 64 (getN s (Key.keyActiveLo (gdKey d))), BitVec.ofNat 64 (getN s (Key.keyActiveHi (gdKey d))))

/-- The key of an item's draws: the key slot's active value, or the sweep's (R244, R249). -/
def itemKey (s : State) (d : List Byte) (w : WorkItem) : W64 × W64 :=
  if w.slow then (((getGroup s w.group).sweep.bind (fun x => x.consts)).map (fun c => c.2)).getD (0, 0) else activeKey s d

/-- An engine at the start of a work item (R239), with the operands that were read ahead. -/
def freshEng (s : State) (d : List Byte) (w : WorkItem) (ops : List (Nat × List W32 × Bool)) : PEng :=
  { PEng.default with
    item := some w
    ops := ops
    key := itemKey s d w
    v := List.replicate 16 (List.replicate (256 * w.blocks) 0)
    k := itemConsts s d w
    ns := List.replicate 3 (List.replicate (256 * w.blocks) 0)
    nwgt := List.replicate (256 * w.blocks) 0 }

/-- The next item of a unit taken: in the order of the queue, where an accumulation pass that heads it is done first, and a sweep item only
when no queued item waits (R247); none in COPYING or COPIED (R385). -/
def takeItem (s : State) (u : Nat) : Option (WorkItem × State) :=
  if updatesStopped s then none else
  match s.update.fast.find? (fun x => x.1 == u) with
  | some x => if x.2.pass then none else some (x.2, { s with update := { s.update with fast := s.update.fast.erase x } })
  | none =>
    match s.update.sweep.find? (fun x => x.1 == u) with
    | some x => some (x.2, { s with update := { s.update with sweep := s.update.sweep.erase x } })
    | none => none

/-- An engine given an item. -/
def runItem (s : State) (e : EngId) (b : WorkBuf) : State :=
  match groupDesc s b.item.group with
  | none => refreshUnit s e.unit
  | some d => refreshUnit (setEng s e (freshEng s d b.item b.ops)) e.unit

/-- A free engine starts its unit's next item; an engine that runs one goes on with it (assumption log 30). -/
def startItem (s : State) (e : EngId) : State :=
  if !engExists s e || (getEng s e).item.isSome then s else
    match takeItem s e.unit with
    | none => s
    | some (w, t) => runItem t e ⟨w, []⟩

/-- An engine whose item has ended goes on with the one in its second work buffer. -/
def nextItem (s : State) (e : EngId) : State :=
  match (getEng s e).next with
  | none => refreshUnit (setEng s e PEng.default) e.unit
  | some b => runItem (setEng s e PEng.default) e b

/-! ### Elements of a work item -/

/-- The block and the element within it of lane position `i` of a work item. -/
def itemBlock (w : WorkItem) (i : Nat) : Nat := w.block + i / 256

/-- Whether position `i` of a work item is padding (R234). -/
def itemPad (d : List Byte) (w : WorkItem) (i : Nat) : Bool := isPad d (itemBlock w i) (i % 256)

/-- The positions of a work item. -/
def itemPos (w : WorkItem) : List Nat := List.range (256 * w.blocks)

/-- The OR of the flags of the lanes that are not padding. -/
def laneFlags (d : List Byte) (w : WorkItem) (fs : List Nat) : Nat :=
  (itemPos w).foldl (fun a i => if itemPad d w i then a else a ||| fs.getD i 0) 0

/-- Cycles of an instruction counted (R243, R257). -/
def busy (s : State) (u n : Nat) : State := addN s (Key.uuEngineBusyCycles u) 64 n

/-- One instruction issued by an engine for all passes of its item: registers and unit flags. -/
def uStep (e : EngId) (cycles : Nat) (f : List Byte → WorkItem → PEng → State → PEng × Nat) (s : State) : State :=
  let s := startItem s e
  let p := getEng s e
  match p.item with
  | none => s
  | some w =>
    match groupDesc s w.group with
    | none => s
    | some d =>
      let r := f d w p s
      busy (flagUpdate (setEng s e { r.1 with begun := true }) e.unit r.2) e.unit (cycles * 4 * w.blocks)

/-- A V register. -/
def vReg (p : PEng) (n : BitVec 4) : List W32 := p.v.getD n.toNat []

/-- An operand that may be a K register, over all positions (R241). -/
def vOrK (p : PEng) (w : WorkItem) (n : BitVec 4) (k : Bool) : List W32 :=
  if k then List.replicate (256 * w.blocks) (p.k.getD n.toNat 0) else vReg p n

/-- An elementwise operation: function code of the vector unit (R173) over operands a, b and c. -/
def uMap (f : W32 → W32 → W32 → W32 × Nat) (o : UOps) (d : List Byte) (w : WorkItem) (p : PEng) : PEng × Nat :=
  let a := vReg p o.va
  let b := vOrK p w o.vb o.kb
  let c := vOrK p w o.vc o.kc
  let r := (itemPos w).map (fun i => f (a.getD i 0) (b.getD i 0) (c.getD i 0))
  ({ p with v := setAt (r.map Prod.fst) p.v o.vd.toNat }, laneFlags d w (r.map Prod.snd))

/-- An operation of one operand. -/
def uOps1 (vd va : BitVec 4) : UOps := ⟨vd, va, 0, 0, false, false⟩

/-- An elementwise instruction by function code of R173. -/
def uArith (e : EngId) (func cycles : Nat) (o : UOps) (s : State) : State :=
  uStep e cycles (fun d w p _ => uMap (vopElem func) o d w p) s

/-- sign(a) (R243). -/
def f32Sgn (a : W32) : W32 :=
  if f32v a = .nan then f32NaN else if f32Lt 0 a then 0x3F800000 else if f32Lt a 0 then 0xBF800000 else 0

/-! ### LD (R242) -/

/-- The due window of a sweep item (R249): w with (w + 2) × d − 1 the due step. -/
def dueWindow (d : List Byte) (stamp : Nat) : Nat := (stamp + 1) / gdDelay d - 2

/-- The address of the GRAD operand of a block: GRAD, or the due window sum. -/
def gradAddr (d : List Byte) (w : WorkItem) (b : Nat) : Nat :=
  blockAddr d b (if w.slow then arrDue (dueWindow d w.stamp) else arrGrad) 1024

/-- A weight code and scale decoded exactly: code × 2^(SCALE − 127). A scale of 255 is NaN (R140), and a NaN is canonical (R142). -/
def weightValue (fmt code scale : Nat) : W32 :=
  if scale = 255 then f32NaN
  else match (fmtOf fmt).decode code with
    | .nan => f32NaN
    | .inf neg => f32Inf neg
    | .fin neg m e =>
      let r := f32Round ⟨if neg then -(m : Int) else m, e + scale - 127⟩ neg
      if r.2 = 0 then r.1 else f32Canon (Config.weightBeyond code scale)

/-- The words of one operand of a block and whether they carry poison. -/
def ldBlock (s : State) (d : List Byte) (w : WorkItem) (p : PEng) (opnd b : Nat) : List W32 × Bool :=
  let slot := activeSlot s (readPtr s d b)
  match opnd with
  | 0 => let a := gradAddr d w b; (readWords s a 256, stkPoisoned s a 1024)
  | 1 =>
    let sc := readScale s d b slot
    ((fwdCodes s d b slot).map (fun c => weightValue (gdFmt d) c sc), fwdPoisoned s d b slot)
  | 5 => ((((p.ns.getD 0 []).drop (256 * (b - w.block))).take 256).map (fun c => convertFrom 1 c.toNat), false)
  | 6 => ((((p.ns.getD 1 []).drop (256 * (b - w.block))).take 256).map (fun c => convertFrom 1 c.toNat), false)
  | 7 => ((((p.ns.getD 2 []).drop (256 * (b - w.block))).take 256).map (fun c => convertFrom 1 c.toNat), false)
  | n => ((stateCodes s d b (n - 2) slot).map (convertFrom 1), stkPoisoned s (blockAddr d b (arrState (n - 2) slot) 512) 512)

/-- Whether an operand code names an operand of the group (R242, R244). -/
def ldKnown (d : List Byte) (n : Nat) : Bool :=
  decide (n ≤ 1) || (decide (2 ≤ n) && decide (n < 2 + gdStates d)) || (decide (5 ≤ n) && decide (n < 5 + gdStates d))

/-- The words of an operand over an item's positions and whether they carry poison: as read ahead, or as the stack holds them. -/
def ldWords (s : State) (d : List Byte) (w : WorkItem) (p : PEng) (opnd : Nat) : List W32 × Bool :=
  match p.ops.find? (fun x => x.1 == opnd) with
  | some x => x.2
  | none =>
    let rs := (upFrom w.block w.blocks).map (ldBlock s d w p opnd)
    (rs.flatMap Prod.fst, rs.any Prod.snd)

/-- LD over the blocks of an item. -/
def uLoad (vd opnd : BitVec 4) (d : List Byte) (w : WorkItem) (p : PEng) (s : State) : PEng × Nat :=
  if !ldKnown d opnd.toNat then (p, 0) else
    let r := ldWords s d w p opnd.toNat
    ({ p with v := setAt r.1 p.v vd.toNat, poisoned := p.poisoned || r.2 }, 0)

/-- The operands of an item read ahead into a work buffer (R230): the gradient, the weights and the states. -/
def readAhead (s : State) (d : List Byte) (w : WorkItem) : List (Nat × List W32 × Bool) :=
  (List.range (2 + gdStates d)).map (fun n => (n, ldWords s d w PEng.default n))

/-- An engine that runs an item takes its unit's next one, with its operands, into its second work buffer (R230); the reads may meet errors
(R294). -/
def bufferItem (s : State) (e : EngId) (errs : StackErrs) : State :=
  let p := getEng s e
  if !engExists s e || p.item.isNone || p.next.isSome then s else
    match takeItem s e.unit with
    | none => s
    | some (w, t) =>
      let t := meetErrors t e.unit errs
      let ops := match groupDesc t w.group with
        | some d => readAhead t d w
        | none => []
      refreshUnit (setEng t e { p with next := some ⟨w, ops⟩ }) e.unit

/-! ### ST (R242, R244) -/

/-- The draw of element `e` with a draw code (R244). -/
def updateDraw (key : W64 × W64) (stamp group code e : Nat) : Nat :=
  (keyed32 key.1 key.2 (BitVec.ofNat 64 stamp) (BitVec.ofNat 64 (group * 2 ^ 48 + code * 2 ^ 40 + e))).toNat

/-- The element index of position `i` of an item (R234). -/
def itemElem (w : WorkItem) (i : Nat) : Nat := 256 * w.block + i

/-- ST to a state, or to the weight writer. Padding is stored as +0 and raises no flag (R234). -/
def uStore (va opnd : BitVec 4) (sat : Bool) (rnd : BitVec 2) (d : List Byte) (w : WorkItem) (p : PEng) (_ : State) : PEng × Nat :=
  let a := vReg p va
  if opnd = 8 then ({ p with nwgt := (itemPos w).map (fun i => if itemPad d w i then 0 else a.getD i 0) }, 0)
  else if opnd.toNat < 5 ∨ 5 + gdStates d ≤ opnd.toNat ∨ rnd = 3 then (p, 0)
  else
    let k := opnd.toNat - 5
    let r := (itemPos w).map (fun i =>
      if itemPad d w i then (0, 0)
      else convertTo 1 (a.getD i 0) rnd.toNat (updateDraw p.key w.stamp w.group (1 + k) (itemElem w i)) sat)
    ({ p with ns := setAt (r.map (fun x => BitVec.ofNat 16 x.1)) p.ns k }, laneFlags d w (r.map Prod.snd))

/-! ### Reductions (R243) -/

/-- The words of a pass, a padding lane giving +0. -/
def passWords (d : List Byte) (w : WorkItem) (a : List W32) (n : Nat) : List W32 :=
  (List.range 64).map (fun l => if itemPad d w (64 * n + l) then 0 else a.getD (64 * n + l) 0)

/-- One pass reduced by the tree of R101 and added into S. `kind` 0 RSUM, 1 RSSQ, 2 RMAX. -/
def reducePass (kind : Nat) (acc : W32 × Nat) (vs : List W32) : W32 × Nat :=
  match kind with
  | 0 =>
    let r := treeReduce f32Add 6 (vs, 0)
    let t := f32Add acc.1 r.1
    (t.1, acc.2 ||| r.2 ||| t.2)
  | 1 =>
    let sq := vs.map (fun v => f32Mul v v)
    let r := treeReduce f32Add 6 (sq.map Prod.fst, orFlags sq)
    let t := f32Add acc.1 r.1
    (t.1, acc.2 ||| r.2 ||| t.2)
  | _ =>
    let r := treeReduce (fun a b => (f32Max a b, 0)) 6 (vs.map f32Abs, 0)
    (f32Max acc.1 r.1, acc.2)

/-- RSUM, RSSQ and RMAX: the passes in ascending order. -/
def uReduce (kind : Nat) (sreg : BitVec 2) (va : BitVec 4) (d : List Byte) (w : WorkItem) (p : PEng) : PEng × Nat :=
  let a := vReg p va
  let r := ((List.range (4 * w.blocks)).map (passWords d w a)).foldl (reducePass kind) (p.s.getD sreg.toNat 0, 0)
  ({ p with s := setAt r.1 p.s sreg.toNat }, r.2)

/-- SBC. -/
def uBroadcast (vd : BitVec 4) (sreg : BitVec 2) (w : WorkItem) (p : PEng) : PEng × Nat :=
  ({ p with v := setAt (List.replicate (256 * w.blocks) (p.s.getD sreg.toNat 0)) p.v vd.toNat }, 0)

/-! ### The weight writer and END (R238, R245, R246) -/

/-- The scale of an item's square (R245). -/
def squareScale (fmt : Nat) (ws : List W32) : Nat :=
  let mags := ws.filterMap (fun x => match f32v x with
    | .fin _ m e => if m = 0 then none else some (Dy.lg ⟨m, e⟩)
    | _ => none)
  match mags with
  | [] => 127
  | m :: ms =>
    let top := ms.foldl max m
    (max (min (max (top + 127) 0) 254 - (if fmt = 3 then 8 else 15)) 0).toNat

/-- A value scaled exactly by a power of two. -/
def scaleFV (x : FV) (k : Int) : FV :=
  match x with
  | .fin neg m e => .fin neg m (e + k)
  | y => y

/-- The codes of an item's new weights, in position order, and the conversion flags (R245). -/
def weightCodes (d : List Byte) (w : WorkItem) (p : PEng) (scale : Nat) : List (Nat × Nat) :=
  (itemPos w).map (fun i =>
    if itemPad d w i then (0, 0)
    else convertValue (gdFmt d) (scaleFV (f32v (p.nwgt.getD i 0)) (127 - scale)) (bits (gdRound d) 1 0)
      (updateDraw p.key w.stamp w.group 0 (itemElem w i)) (bit (gdRound d) 2))

/-- A 16 × 16 quarter transposed. -/
def transpose16 (xs : List Nat) : List Nat := (List.range 256).map (fun j => xs.getD (j % 16 * 16 + j / 16) 0)

/-- The new components of block `j` of an item. -/
def itemVals (d : List Byte) (p : PEng) (codes : List Nat) (scale j : Nat) : BlockVals :=
  let cut (xs : List Nat) := (xs.drop (256 * j)).take 256
  let f := cut codes
  ⟨f, if gdVector d then [] else transpose16 f, scale,
    (List.range (gdStates d)).map (fun k => cut ((p.ns.getD k []).map (fun c => c.toNat)))⟩

/-- The blocks of an item that are still to be written for its step (R238). -/
def itemTodo (s : State) (d : List Byte) (w : WorkItem) : List Nat :=
  (upFrom w.block w.blocks).filter (fun b => !blockWritten s d w.stamp b)

/-- A block's entry after its components: folded, then WRITTEN and STAMP in one write (R237, R238); a rerun block is counted (R253). -/
def stampBlock (d : List Byte) (w : WorkItem) (s : State) (b : Nat) : State :=
  let s := writePtr s d b { foldPtr s (readPtr s d b) with written := true, stamp := w.stamp % 2 ^ 32 }
  if w.redo then raise (count64 s Key.redoBlocks) Key.updateFlags 0 else s

/-- The blocks of an item written into their inactive slots, the rows of consecutive squares combined into whole lines (R238, R302). -/
def commitBlocks (s : State) (d : List Byte) (w : WorkItem) (p : PEng) (codes : List Nat) (scale : Nat) : State :=
  let bs := itemTodo s d w
  let s := writeBlocks s d (bs.map (fun b => (b, 1 - activeSlot s (readPtr s d b), itemVals d p codes scale (b - w.block))))
  bs.foldl (stampBlock d w) s

/-- The scale of an item's square, and its codes with their conversion flags (R245). -/
def itemScale (d : List Byte) (w : WorkItem) (p : PEng) : Nat :=
  if gdScaled d then squareScale (gdFmt d) ((itemPos w).map (fun i => p.nwgt.getD i 0)) else 127

/-- An item's conversion flags, which poison does not hold back (R159). -/
def convertFlags (s : State) (u : Nat) (d : List Byte) (w : WorkItem) (p : PEng) : State :=
  flagUpdate s u (laneFlags d w ((weightCodes d w p (itemScale d w p)).map Prod.snd))

/-- An item's outputs written; a group whose blocks are all written is so for the step (R257). -/
def finishItem (s : State) (d : List Byte) (w : WorkItem) (p : PEng) : State :=
  let scale := itemScale d w p
  let s := count64 (commitBlocks s d w p ((weightCodes d w p scale).map Prod.fst) scale) Key.workItemsDone
  if groupWritten s d w.stamp then setGroup s w.group { getGroup s w.group with writtenThisStep := true } else s

/-- WRITTEN cleared in every block of a group stamped with a step (R246). -/
def unwriteGroup (s : State) (d : List Byte) (stamp : Nat) : State :=
  (List.range (gdBlocks d)).foldl (fun s b =>
    if blockWritten s d stamp b then writePtr s d b { readPtr s d b with written := false } else s) s

/-- POISONED_ITEMS, UPDATE_POISONED and the capture (R246, R257). -/
def notePoison (s : State) (group block : Nat) : State :=
  let s := raise (count64 s Key.poisonedItems) Key.updateFlags 2
  if getN s Key.poisonCaptureEmpty = 1 then
    setN (setN (setN s Key.poisonCaptureGroup group) Key.poisonCaptureBlock block) Key.poisonCaptureEmpty 0
  else s

/-- A poisoned work item or accumulation pass: its group has no update for the step (R246). What waits for the step is dropped, WRITTEN is
cleared before the step's milestone, and a sweep due at the step ends. -/
def poisonItem (s : State) (d : List Byte) (group block stamp : Nat) : State :=
  let s := notePoison s group block
  let g := getGroup s group
  let ends := match g.sweep with
    | some x => sweepDue d x.window == stamp
    | none => false
  let pass := g.passStep == some stamp
  let s := setGroup s group { g with
    heldSteps := nsIns stamp g.heldSteps
    sweep := if ends then none else g.sweep
    passStep := if pass then none else g.passStep
    passes := if pass then [] else g.passes
    writtenThisStep := if stamp = s.stp.step then false else g.writtenThisStep }
  dropItems (if stamp < s.stp.step then s else unwriteGroup s d stamp) group stamp

/-- END: the conversion flags are raised, the outputs are written or the poison is reported, and the engine goes on with its next item
(R159, R245, R246). The merges of partly written lines read them (R295), as `errs` meets them. -/
def uEnd (e : EngId) (errs : StackErrs) (s : State) : State :=
  let s := startItem s e
  let p := getEng s e
  match p.item with
  | none => s
  | some w =>
    let s := busy s e.unit 1
    match groupDesc s w.group with
    | none => nextItem s e
    | some d =>
      let s := convertFlags s e.unit d w p
      let s := if !itemLive s w then s
        else if p.poisoned then poisonItem s d w.group w.block w.stamp
        else finishItem (meetErrors s e.unit errs) d w p
      nextItem s e

/-! ### The instructions -/

/-- NOP (R243). -/
def execUpdateNop (e : EngId) (s : State) : Host.Outcome State Fault Refusal := .next (uStep e 1 (fun _ _ p _ => (p, 0)) s)

/-- END (R243, R245). -/
def execUpdEnd (e : Met EngId StackErrs) (s : State) : Host.Outcome State Fault Refusal := .next (uEnd e.val e.errs s)

/-- PHASE as an engine runs it: one cycle for the item (R240, R243). -/
def uPhase (e : EngId) (s : State) : State :=
  let s := startItem s e
  let p := getEng s e
  if p.item.isSome then busy (setEng s e { p with weightPhase := true, begun := true }) e.unit 1 else s

/-- PHASE (R240). -/
def execPhase (e : EngId) (s : State) : Host.Outcome State Fault Refusal := .next (uPhase e s)

/-- LD (R242). -/
def uLd (e : EngId) (vd opnd : BitVec 4) (s : State) : State := uStep e 1 (uLoad vd opnd) s
/-- LD, whose reads of the stack may meet errors (R294). -/
def execLd (e : Met EngId StackErrs) (vd opnd : BitVec 4) (s : State) : Host.Outcome State Fault Refusal :=
  let s := startItem s e.val
  .next (if (getEng s e.val).item.isNone then s else uLd e.val vd opnd (meetErrors s e.val.unit e.errs))

/-- ST (R242, R244). -/
def uSt (e : EngId) (va opnd : BitVec 4) (sat : Bool) (rnd : BitVec 2) (s : State) : State := uStep e 1 (uStore va opnd sat rnd) s
def execSt (e : EngId) (va opnd : BitVec 4) (sat : Bool) (rnd : BitVec 2) (s : State) : Host.Outcome State Fault Refusal :=
  .next (uSt e va opnd sat rnd s)

/-- FADD (R243). -/
def execFadd (e : EngId) (o : UOps) (s : State) : Host.Outcome State Fault Refusal := .next (uArith e 0 1 o s)
/-- FSUB (R243). -/
def execFsub (e : EngId) (o : UOps) (s : State) : Host.Outcome State Fault Refusal := .next (uArith e 1 1 o s)
/-- FMUL (R243). -/
def execFmul (e : EngId) (o : UOps) (s : State) : Host.Outcome State Fault Refusal := .next (uArith e 2 1 o s)
/-- FMA (R243). -/
def execFma (e : EngId) (o : UOps) (s : State) : Host.Outcome State Fault Refusal := .next (uArith e 3 1 o s)
/-- FMIN (R243, R185). -/
def execFmin (e : EngId) (o : UOps) (s : State) : Host.Outcome State Fault Refusal := .next (uArith e 4 1 o s)
/-- FMAX (R243, R185). -/
def execFmax (e : EngId) (o : UOps) (s : State) : Host.Outcome State Fault Refusal := .next (uArith e 5 1 o s)
/-- FABS (R243). -/
def execFabs (e : EngId) (vd va : BitVec 4) (s : State) : Host.Outcome State Fault Refusal := .next (uArith e 6 1 (uOps1 vd va) s)
/-- FNEG (R243). -/
def execFneg (e : EngId) (vd va : BitVec 4) (s : State) : Host.Outcome State Fault Refusal := .next (uArith e 7 1 (uOps1 vd va) s)
/-- FSGN as an engine runs it. -/
def uSgn (e : EngId) (vd va : BitVec 4) (s : State) : State :=
  uStep e 1 (fun d w p _ => uMap (fun a _ _ => (f32Sgn a, 0)) (uOps1 vd va) d w p) s
/-- FSGN (R243). -/
def execFsgn (e : EngId) (vd va : BitVec 4) (s : State) : Host.Outcome State Fault Refusal := .next (uSgn e vd va s)
/-- CMPLT (R243). -/
def execCmplt (e : EngId) (o : UOps) (s : State) : Host.Outcome State Fault Refusal := .next (uArith e 8 1 o s)
/-- CMPLE (R243). -/
def execCmple (e : EngId) (o : UOps) (s : State) : Host.Outcome State Fault Refusal := .next (uArith e 9 1 o s)
/-- SEL (R243). -/
def execSel (e : EngId) (o : UOps) (s : State) : Host.Outcome State Fault Refusal := .next (uArith e 11 1 o s)
/-- RCP (R243). -/
def execRcp (e : EngId) (vd va : BitVec 4) (s : State) : Host.Outcome State Fault Refusal := .next (uArith e 13 4 (uOps1 vd va) s)
/-- RSQRT (R243). -/
def execRsqrt (e : EngId) (vd va : BitVec 4) (s : State) : Host.Outcome State Fault Refusal := .next (uArith e 14 4 (uOps1 vd va) s)
/-- DIV (R243). -/
def execDiv (e : EngId) (o : UOps) (s : State) : Host.Outcome State Fault Refusal := .next (uArith e 15 4 o s)
/-- SQRT (R243). -/
def execSqrt (e : EngId) (vd va : BitVec 4) (s : State) : Host.Outcome State Fault Refusal := .next (uArith e 16 4 (uOps1 vd va) s)
/-- EXP2 (R243). -/
def execExp2 (e : EngId) (vd va : BitVec 4) (s : State) : Host.Outcome State Fault Refusal := .next (uArith e 17 4 (uOps1 vd va) s)
/-- LOG2 (R243). -/
def execLog2 (e : EngId) (vd va : BitVec 4) (s : State) : Host.Outcome State Fault Refusal := .next (uArith e 18 4 (uOps1 vd va) s)

/-- A reduction as an engine runs it. -/
def uRed (e : EngId) (kind : Nat) (sreg : BitVec 2) (va : BitVec 4) (s : State) : State :=
  uStep e 1 (fun d w p _ => uReduce kind sreg va d w p) s
/-- RSUM (R243). -/
def execRsum (e : EngId) (sreg : BitVec 2) (va : BitVec 4) (s : State) : Host.Outcome State Fault Refusal := .next (uRed e 0 sreg va s)
/-- RSSQ (R243). -/
def execRssq (e : EngId) (sreg : BitVec 2) (va : BitVec 4) (s : State) : Host.Outcome State Fault Refusal := .next (uRed e 1 sreg va s)
/-- RMAX (R243). -/
def execRmax (e : EngId) (sreg : BitVec 2) (va : BitVec 4) (s : State) : Host.Outcome State Fault Refusal := .next (uRed e 2 sreg va s)

/-- SBC as an engine runs it. -/
def uSbc (e : EngId) (vd : BitVec 4) (sreg : BitVec 2) (s : State) : State := uStep e 1 (fun _ w p _ => uBroadcast vd sreg w p) s
/-- SBC (R243). -/
def execSbc (e : EngId) (vd : BitVec 4) (sreg : BitVec 2) (s : State) : Host.Outcome State Fault Refusal := .next (uSbc e vd sreg s)

/-! ### Whole work items, accumulation passes and sweeps -/

/-- One stored instruction word run (R241, R243). -/
def runUWord (e : EngId) (s : State) (v : W32) : State :=
  let n := v.toNat
  let f (hi lo : Nat) := bits n hi lo
  let vd : BitVec 4 := BitVec.ofNat 4 (f 25 22)
  let va : BitVec 4 := BitVec.ofNat 4 (f 21 18)
  let o : UOps := ⟨vd, va, BitVec.ofNat 4 (f 17 14), BitVec.ofNat 4 (f 13 10), bit n 9, bit n 8⟩
  let opnd : BitVec 4 := BitVec.ofNat 4 (f 3 0)
  let sreg : BitVec 2 := BitVec.ofNat 2 (f 1 0)
  match f 31 26 with
  | 0x00 => uStep e 1 (fun _ _ p _ => (p, 0)) s
  | 0x01 => uEnd e ⟨[], [], 0⟩ s
  | 0x02 => uPhase e s
  | 0x03 => uLd e vd opnd s
  | 0x04 => uSt e va opnd (bit n 7) (BitVec.ofNat 2 (f 6 5)) s
  | 0x0D => uSgn e vd va s
  | 0x0E => uArith e 8 1 o s
  | 0x0F => uArith e 9 1 o s
  | 0x10 => uArith e 11 1 o s
  | 0x17 => uRed e 0 sreg va s
  | 0x18 => uRed e 1 sreg va s
  | 0x19 => uRed e 2 sreg va s
  | 0x1A => uSbc e vd sreg s
  | c => if c ≤ 0x0C then uArith e (c - 5) 1 o s else if c ≤ 0x16 then uArith e (c - 4) 4 o s else s

/-- The words of an update program up to END (R230, R244). -/
def programWords (s : State) (n : Nat) : List W32 :=
  let ws := (List.range 256).map (fun i => BitVec.ofNat 32 (field (getDom s Key.programTable) (1024 * n + 4 * i) 4))
  let body := ws.takeWhile (fun v => bits v.toNat 31 26 != 1)
  body ++ (ws.drop body.length).take 1

/-- UPDATE_WORK_ITEM (R230, R247): the group's program runs over an item whose program has not begun: that of the engine, or its unit's next
one, which a free engine starts. An engine whose program is under way takes the next item into its second work buffer. The item's reads may
meet errors (R294). -/
def execUpdateWorkItem (e : Met EngId StackErrs) (s : State) : Host.Outcome State Fault Refusal :=
  .next (if (getEng s e.val).item.isSome && (getEng s e.val).begun then bufferItem s e.val e.errs else
    let t := startItem s e.val
    match (getEng t e.val).item with
    | none => t
    | some w =>
      match groupDesc t w.group with
      | none => t
      | some d => (programWords t (gdProgram d)).foldl (runUWord e.val) (meetErrors t e.val.unit e.errs))

/-- The place of step s in its window of delay d (R248): first, last. -/
def windowFirst (d : List Byte) (step : Nat) : Bool := step % gdDelay d == 0
def windowLast (d : List Byte) (step : Nat) : Bool := step % gdDelay d + 1 == gdDelay d

/-- The sum that an accumulation pass of a block writes (R248), padding as +0 (R234). -/
def passSum (s : State) (d : List Byte) (step b : Nat) : List W32 × Nat :=
  let g := readWords s (blockAddr d b arrGrad 1024) 256
  let old := readWords s (blockAddr d b (arrGacc (activeGacc s (readPtr s d b))) 1024) 256
  let r := (List.range 256).map (fun i =>
    if isPad d b i then (0, 0) else if windowFirst d step then (g.getD i 0, 0) else f32Add (old.getD i 0) (g.getD i 0))
  (r.map Prod.fst, orFlags r)

/-- Whether an operand of an accumulation pass is poisoned. -/
def passPoisoned (s : State) (d : List Byte) (step b : Nat) : Bool :=
  stkPoisoned s (blockAddr d b arrGrad 1024) 1024 ||
    (!windowFirst d step && stkPoisoned s (blockAddr d b (arrGacc (activeGacc s (readPtr s d b))) 1024) 1024)

/-- The outputs of an accumulation pass: DUE on a window's last step, else the inactive GACC slot with GSTAMP (R238, R248). -/
def passWrite (s : State) (d : List Byte) (step b : Nat) : State :=
  let bs := vecBytes (passSum s d step b).1
  if windowLast d step then stkWrite s (blockAddr d b (arrDue (step / gdDelay d)) 1024) bs false
  else
    let p := readPtr s d b
    if p.gwritten && p.gstamp == step % 2 ^ 32 then s
    else
      let act := activeGacc s p
      let s := stkWrite s (blockAddr d b (arrGacc (1 - act)) 1024) bs false
      writePtr s d b { p with gact := act == 1, gwritten := true, gstamp := step % 2 ^ 32 }

/-- The divisors of a window's steps with that of one more step (R243). -/
def windowSum (g : GroupSt) (w : Nat) : Nat := (if g.openWindow.1 = w then g.openWindow.2 else 0) + g.passDivisor

/-- The accumulation passes of a step done for every block: the window's divisor, and the window due after its last step. -/
def passesDone (s : State) (d : List Byte) (step : Nat) : State :=
  let g := getGroup s (gdGroup d)
  let w := step / gdDelay d
  let sum := windowSum g w
  let consts := (g.sweepConsts.filter (fun c => c.1 == w)).map Prod.snd
  setGroup s (gdGroup d) { g with
    passStep := none
    passes := []
    openWindow := (w, sum)
    due := if windowLast d step then g.due ++ [⟨w, sum, consts⟩] else g.due }

/-- The accumulation pass that heads a unit's queue. -/
def headPass (s : State) (unit : Nat) : Option WorkItem :=
  match s.update.fast.find? (fun x => x.1 == unit) with
  | some x => if x.2.pass then some x.2 else none
  | none => none

/-- The pass that heads a unit's queue run: its flags, then its outputs or its poison (R159, R246, R248); a rerun is counted (R253). -/
def runPass (s : State) (unit : Nat) (d : List Byte) (w : WorkItem) : State :=
  let s := refreshUnit { s with update := { s.update with fast := s.update.fast.erase (unit, w) } } unit
  let s := flagUpdate s unit (passSum s d w.stamp w.block).2
  if passPoisoned s d w.stamp w.block then poisonItem s d w.group w.block w.stamp
  else
    let s := passWrite s d w.stamp w.block
    let s := if w.redo then raise (count64 s Key.redoBlocks) Key.updateFlags 0 else s
    let g := getGroup s w.group
    let s := setGroup s w.group { g with passes := nsIns w.block g.passes }
    if (getGroup s w.group).passes.length = gdBlocks d then passesDone s d w.stamp else s

/-- ACCUMULATION_PASS (R247, R248): one block of a slow-tier group whose reduced gradient is complete, in its turn in the unit's queue. -/
def execAccumulationPass (unit group : Nat) (block : Met Nat StackErrs) (s : State) : Host.Outcome State Fault Refusal :=
  .next (match groupDesc s group, headPass s unit with
    | some d, some w => if w.group = group ∧ w.block = block.val then runPass (meetErrors s unit block.errs) unit d w else s
    | _, _ => s)

/-- A due window whose sweep may begin: the first, once the step after its last has begun, whose key and constants it uses (R249). -/
def sweepReady (g : GroupSt) : Option SlowWindow :=
  match g.due with
  | w :: _ => if w.consts.isSome then some w else none
  | [] => none

/-- SLOW_SWEEP (R249): the sweep of the due window begins; a group on hold begins none (R281), and none begins in COPYING or
COPIED (R385). -/
def execSlowSweep (group : Nat) (s : State) : Host.Outcome State Fault Refusal :=
  .next (match groupDesc s group, sweepReady (getGroup s group) with
    | some d, some x =>
      let g := getGroup s group
      if g.sweep.isSome || g.hold || updatesStopped s then s
      else
        let s := setGroup s group { g with due := g.due.drop 1, sweep := some x }
        refreshUnits { s with update := { s.update with
          sweep := s.update.sweep ++ groupItems s d (sweepDue d x.window) true false } }
    | _, _ => s)

/-- The windows of a slow-tier group whose arrays a transfer has brought as step `c` left them (R386, R507): the one that waits for its sweep,
and the open one. No transfer carries the divisors of their steps: free where this engine does not hold them; and the constants are those in
force where it holds none of the step that R249 names. -/
def adoptWindows (c : Nat) (s : State) (d : List Byte) : State :=
  if !gdSlow d then s else
    let g := getGroup s (gdGroup d)
    let n := (c + 1) / gdDelay d
    let a := drawFree s
    let b := drawFree a.2
    let own := (g.sweepConsts.filter (fun x => x.1 + 1 == n)).map Prod.snd
    let w : SlowWindow := ((g.due ++ g.sweep.toList).find? (fun x => x.window + 1 == n)).getD ⟨n - 1, a.1, none⟩
    setGroup b.2 (gdGroup d) { g with
      due := if n = 0 ∨ n * gdDelay d ≤ getN s Key.stepOrigin then [] else [{ w with consts := some (own.getD (activeConsts s d, activeKey s d)) }]
      openWindow := (n, if (c + 1) % gdDelay d = 0 then 0 else if g.openWindow.1 = n then g.openWindow.2 else b.1)
      sweep := none }

/-! ### When an update starts (R17, R248, R255) -/

/-- The layer of a group by the placement. -/
def groupLayer (s : State) (g : Nat) : Option Nat :=
  s.placement.bind (fun p => (p.groupLayers.find? (fun e => e.1 == g)).map (fun e => e.2))

/-- Whether the step's last micro-batch has passed the backward work of a group's layer, and is neither abandoned nor still to be replayed
(R17, R255); of a group whose layer the placement does not name, the whole backward work. -/
def lastPassed (s : State) (g : Nat) : Bool :=
  let q := stepFirstSeq s s.stp.step + getN s Key.microbatchesPerStep - 1
  !s.grid.abandoned.contains q && !s.stp.replayPending.contains q &&
    (match groupLayer s g with
     | some l => s.stp.passed.contains (layerKey q l)
     | none => s.stp.work.any (fun w => !w.evaluation && w.seq == q && w.backwardEnded && !w.abandoned))

/-- A group's update starts once its reduced gradient is complete: a fast group's items are queued, once the last micro-batch has passed its
layer (R17), and a slow group's accumulation passes (R247, R248). -/
def tryUpdate (s : State) (g : Nat) : State :=
  match groupDesc s g with
  | none => s
  | some d =>
    let st := getGroup s g
    if !st.ready || st.skip || st.hold || heldFor st s.stp.step || st.queued then s
    else if gdSlow d then
      queuePasses (setGroup s g { st with queued := true, passStep := some s.stp.step, passDivisor := st.divisor, passes := [] })
        d s.stp.step [] false
    else if lastPassed s g then queueFast (setGroup s g { st with queued := true }) d s.stp.step false
    else s

/-- Every group tried, in the order in which the reduced gradients completed (R17). -/
def tryUpdates (s : State) : State := s.update.order.foldl tryUpdate s

end Sys2Proof.Machine
end

