-- ==== Sys2Proof/Machine/Exchange.lean ====
section
/-! DEFINITION. Gradients on their way out (11_gradient_exchange.md): compression with error feedback, exchange messages, the shard
owner's sums, the gathered gradient, fingerprints, holds and the objects that steer them. -/

namespace Sys2Proof.Machine

/-! ### Compression (R266 to R269) -/

/-- k of TOPK for a KCODE. -/
def topK (kcode : Nat) : Nat := 4 * 2 ^ kcode

/-- The bytes of a block's encoding. -/
def encSize (method kcode : Nat) : Nat :=
  match method with
  | 0 => 1024
  | 1 => 512
  | 2 => 3 * topK kcode
  | _ => 36

/-- Magnitude order of R268: NaN above all, then the FP32 magnitudes. -/
def magRank (x : W32) : Nat := if f32v x = .nan then 2 ^ 31 else (x &&& 0x7FFFFFFF).toNat

/-- The indices of the k elements of largest magnitude, ascending; the lower index wins a tie (R268). -/
def topIndices (k : Nat) (xs : List W32) : List Nat :=
  sortBy id ((sortBy (fun i => 2 ^ 32 - magRank (xs.getD i 0)) (List.range xs.length)).take k)

/-- An FP32 word as BF16, RNE and NONSAT (R268). -/
def bf16Of (x : W32) : Nat := (convertTo 1 x 0 0 false).1

/-- The scale of SIGN (R269). -/
def signScale (xs : List W32) : W32 :=
  if xs.any (fun x => f32v x = .nan) || (xs.any (fun x => f32v x = .inf false) && xs.any (fun x => f32v x = .inf true)) then f32NaN
  else if xs.any (fun x => !(f32v x).isFin) then f32Inf false
  else
    let sum := xs.foldl (fun d x => d.add ⟨((f32v x).dy.m.natAbs : Int), (f32v x).dy.e⟩) Dy.zero
    (f32Round ⟨sum.m, sum.e - 8⟩ false).1

/-- The sign bits of elements 8n to 8n + 7 as a byte. -/
def signByte (xs : List W32) (n : Nat) : Byte :=
  (List.range 8).foldl (fun b j => if (xs.getD (8 * n + j) 0).getLsbD 31 then b ||| BitVec.ofNat 8 (2 ^ j) else b) 0

/-- A block encoded (R266, R268, R269). -/
def encodeBlock (method kcode : Nat) (xs : List W32) : List Byte :=
  match method with
  | 0 => vecBytes (xs.map f32Canon)
  | 1 => xs.flatMap (fun x => leBytes 2 (bf16Of x))
  | 2 =>
    let is := topIndices (topK kcode) xs
    is.map (BitVec.ofNat 8) ++ is.flatMap (fun i => leBytes 2 (bf16Of (xs.getD i 0)))
  | _ => (List.range 32).map (signByte xs) ++ leBytes 4 (signScale xs).toNat

/-- The place of an index among the first `k` bytes of a TOPK encoding. -/
def topPlace (bs : List Byte) (k i : Nat) : Option Nat := (List.range k).find? (fun j => field bs j 1 == i)

/-- A block decompressed (R266). -/
def decodeBlock (method kcode : Nat) (bs : List Byte) : List W32 :=
  (List.range 256).map (fun i =>
    match method with
    | 0 => f32Canon (BitVec.ofNat 32 (field bs (4 * i) 4))
    | 1 => convertFrom 1 (field bs (2 * i) 2)
    | 2 =>
      match topPlace bs (topK kcode) i with
      | some j => convertFrom 1 (field bs (topK kcode + 2 * j) 2)
      | none => 0
    | _ =>
      let sc : W32 := BitVec.ofNat 32 (field bs 32 4)
      if bit (field bs (i / 8) 1) (i % 8) then f32Neg sc else f32Canon sc)

/-- The residual of one element as BF16, and whether it was set to zero for being non-finite (R267). -/
def residual (method : Nat) (x d : W32) : Nat × Bool :=
  if method = 0 then (0, false)
  else if !(f32v x).isFin || !(f32v d).isFin then (0, true)
  else
    let e := (f32v x).dy.sub (f32v d).dy
    if e.m = 0 then (0, false)
    else
      let r := (convertValue 1 (.fin (decide (e.m < 0)) e.m.natAbs e.e) 0 0 false).1
      if (f32v (convertFrom 1 r)).isFin then (r, false) else (0, true)

/-- A block encoded with its residuals, and the counts of R269 and R267. -/
def encodeWithResidual (s : State) (method kcode : Nat) (xs : List W32) (resAt : Nat) : State × List Byte :=
  let bs := encodeBlock method kcode xs
  let ds := decodeBlock method kcode bs
  let rs := (List.range 256).map (fun i => residual method (xs.getD i 0) (ds.getD i 0))
  let s := stkWrite s resAt (rs.flatMap (fun r => leBytes 2 r.1)) false
  let s := count64 s Key.blocksCompressed
  let s := if xs.any (fun x => !(f32v x).isFin) then count64 s Key.nonfiniteBlocks else s
  (addN s Key.residualsZeroed 64 (rs.filter Prod.snd).length, bs)

/-- The BF16 residuals at an address, as FP32. -/
def readResiduals (s : State) (a : Nat) : List W32 :=
  (List.range 256).map (fun i => convertFrom 1 (leNat (stkRead s (a + 2 * i) 2)))

/-! ### Messages (R270 to R273) -/

/-- The loaded groups in GROUP order. -/
def groupsInOrder (s : State) : List (List Byte) := sortBy gdGroup (groupDescs s)

/-- A group's entry of the compression table (R266): METHOD, KCODE, GATHER_METHOD, GATHER_KCODE. -/
def compEntry (s : State) (g : Nat) : List Byte :=
  slice (getDom s Key.compressionTable) (4 * ((groupsInOrder s).map gdGroup).idxOf g) 4

/-- The pairs of PEER_SUBSTITUTE (R505): the old and the new address. -/
def substPairs (bs : List Byte) : List (Nat × Nat) :=
  (List.range (bs.length / 8)).map (fun i => (bits (field bs (8 * i) 8) 17 0, bits (field bs (8 * i) 8) 49 32))

/-- The address of a rank in the peer table (object 8300:02). -/
def tableAddr (s : State) (r : Nat) : Nat := bits (field (getDom s Key.peerTable) (4 * r) 4) 17 0

/-- The address of a rank, with PEER_SUBSTITUTE (R505). -/
def peerAddr (s : State) (r : Nat) : Nat :=
  match (substPairs (getDom s Key.peerSubstitute)).find? (fun p => p.1 == tableAddr s r) with
  | some p => p.2
  | none => tableAddr s r

/-- The engine's own address (object B001:00). -/
def ownAddr (s : State) : Nat := s.mgmt.address

/-- The header bytes 0x00 to 0x3B of a message (R271). -/
def xHeader (m : XMsg) : List Byte :=
  leBytes 1 m.typ ++ leBytes 1 m.version ++ leBytes 1 m.method ++ leBytes 1 m.kcode ++ leBytes 4 m.source ++ leBytes 8 m.step ++
    leBytes 2 m.group ++ leBytes 2 m.rank ++ leBytes 2 m.replicas ++ leBytes 2 m.flags ++ leBytes 4 m.firstBlock ++
    leBytes 4 m.blockCount ++ leBytes 4 m.included ++ leBytes 4 m.excluded ++ leBytes 8 m.firstSeq ++ leBytes 8 m.lastSeq ++
    leBytes 4 m.payload.length

/-- CHECK for a destination (R272). -/
def xCheck (dest : Nat) (m : XMsg) : Nat := crc32c (leBytes 8 (dest % 2 ^ 18 + m.typ * 2 ^ 24) ++ xHeader m ++ m.payload)

/-- A message's bytes. -/
def xBytes (m : XMsg) : List Byte := xHeader m ++ leBytes 4 m.check.toNat ++ m.payload

/-- A message read from bytes; none where PAYLOAD_BYTES is not the bytes that follow the header. -/
def xOfBytes (bs : List Byte) : Option XMsg :=
  if bs.length < 64 ∨ field bs 0x38 4 ≠ bs.length - 64 then none
  else some ⟨field bs 0 1, field bs 1 1, field bs 2 1, field bs 3 1, field bs 4 4, field bs 8 8, field bs 0x10 2, field bs 0x12 2,
    field bs 0x14 2, field bs 0x16 2, field bs 0x18 4, field bs 0x1C 4, field bs 0x20 4, field bs 0x24 4, field bs 0x28 8,
    field bs 0x30 8, bs.drop 64, BitVec.ofNat 32 (field bs 0x3C 4)⟩

/-- The sequence numbers of the current step's first and last micro-batch (R13). -/
def firstSeq (s : State) : Nat := stepFirstSeq s s.stp.step
def lastSeq (s : State) : Nat := firstSeq s + getN s Key.microbatchesPerStep - 1

/-- A message of this engine, with its CHECK for a destination. -/
def sealMsg (dest : Nat) (m : XMsg) : XMsg := { m with check := BitVec.ofNat 32 (xCheck dest m) }

/-- A message of this engine for the current step, without its CHECK. -/
def ownMsg (s : State) (typ method kcode group flags first count incl excl : Nat) (payload : List Byte) : XMsg :=
  ⟨typ, 1, method, kcode, ownAddr s, s.stp.step, group, getN s Key.rank, getN s Key.replicas, flags, first, count, incl, excl,
    firstSeq s, lastSeq s, payload, 0⟩

/-- A message handed to the transport and kept for a resend (R356, R492). -/
def sendMsg (s : State) (dest : Nat) (m : XMsg) : State :=
  let m := sealMsg dest m
  let s := { s with exch := { s.exch with sent := s.exch.sent ++ [(dest, m)] } }
  ethEnqueue s dest false (xBytes m)

/-- The messages of a shard (R270): first block and count of each. -/
def shardChunks (sh : Nat × Nat) (size : Nat) : List (Nat × Nat) :=
  let per := 65536 / size
  let n := sh.2 - sh.1
  (List.range ((n + per - 1) / per)).map (fun i => (sh.1 + i * per, min per (n - i * per)))

/-- The other ranks. -/
def otherRanks (s : State) : List Nat := (List.range (getN s Key.replicas)).filter (fun r => r != getN s Key.rank)

/-- Two messages of the same TYPE, SOURCE, STEP, GROUP and FIRST_BLOCK (R273). -/
def sameMsg (a b : XMsg) : Bool :=
  a.typ == b.typ && a.source == b.source && a.step == b.step && a.group == b.group && a.firstBlock == b.firstBlock

/-- Whether a FINGERPRINT's records hold a reserved bit (R279): byte 2 above bit 1, and byte 3. -/
def recordsReserved (m : XMsg) : Bool :=
  (List.range (m.payload.length / 16)).any (fun i => decide (4 ≤ field m.payload (16 * i + 2) 1) || field m.payload (16 * i + 3) 1 != 0)

/-- Whether a message holds a reserved value (R271, R279). -/
def xReserved (m : XMsg) : Bool :=
  (m.typ == 3 && recordsReserved m) ||
  !(decide (1 ≤ m.typ) && decide (m.typ ≤ 3)) || m.version != 1 || decide (2 ^ 18 ≤ m.source) || decide (4096 ≤ m.group) ||
    decide (65536 < m.payload.length) || (if m.typ = 2 then decide (2 ≤ m.flags) else m.flags != 0) ||
    (if m.typ = 3 then m.method != 0 || m.kcode != 0 || m.group != 0 || m.firstBlock != 0 || m.included != 0 || m.excluded != 0
     else !methodOk m.method m.kcode)

/-- Whether FIRST_BLOCK, BLOCK_COUNT and the payload match R270 at this receiver. -/
def xShapeOk (s : State) (m : XMsg) : Bool :=
  if m.typ = 3 then m.blockCount == (groupDescs s).length && m.payload.length == 16 * m.blockCount
  else
    match groupDesc s m.group with
    | none => false
    | some d =>
      let n := getN s Key.replicas
      let r := if m.typ = 1 then getN s Key.rank else m.rank
      (shardChunks (shardOf (gdBlocks d) r n) (encSize m.method m.kcode)).contains (m.firstBlock, m.blockCount) &&
        m.payload.length == (if m.typ = 2 ∧ m.flags = 1 then 0 else m.blockCount * encSize m.method m.kcode)

/-- What becomes of a message that arrives: rejected, kept until it can be written, a duplicate, or new (R273). -/
inductive Verdict where
  | rejected | kept | duplicate | fresh
  deriving DecidableEq, Repr

/-- The messages accepted that a new one is compared with. -/
def acceptedMsgs (s : State) : List XMsg := s.exch.accepted ++ s.exch.unused ++ s.exch.fingerprints

/-- A gather that its unit cannot accept yet: an accumulation pass of one of its blocks is not finished (R248). -/
def gatherWaits (s : State) (m : XMsg) : Bool :=
  let g := getGroup s m.group
  m.typ == 2 && (match g.passStep with
    | some st => st != m.step && (upFrom m.firstBlock m.blockCount).any (fun b => !g.passes.contains b)
    | none => false)

/-- The verdict on a message (R272, R273, R280). -/
def verdict (s : State) (m : XMsg) : Verdict :=
  let step := if m.typ = 3 then m.step + 1 else m.step
  let now := s.stp.step
  if m.check.toNat ≠ xCheck (ownAddr s) m ∨ xReserved m ∨ getN s Key.replicas ≤ m.rank ∨ m.source ≠ peerAddr s m.rank ∨
      m.replicas ≠ getN s Key.replicas ∨ !xShapeOk s m then .rejected
  else if step ≠ now ∧ step ≠ now + 1 then .rejected
  else if (acceptedMsgs s).any (sameMsg m) then .duplicate
  else if step = now + 1 ∨ gatherWaits s m then .kept
  else .fresh

/-- The effect of a duplicate: counted; DUP_CONFLICT where its bytes differ (R273). -/
def takeDuplicate (s : State) (m : XMsg) : State :=
  let s := count64 s Key.duplicatesDiscarded
  match (acceptedMsgs s).find? (sameMsg m) with
  | some a => if a = m then s else raise s Key.exchangeFlags 4
  | none => s

/-- A message kept until it can be written; a copy of one kept already changes nothing. -/
def keepMsg (s : State) (m : XMsg) : State :=
  if s.exch.nextStep.any (sameMsg m) then s else { s with exch := { s.exch with nextStep := s.exch.nextStep ++ [m] } }

def setAccepted (s : State) (m : XMsg) : State := { s with exch := { s.exch with accepted := s.exch.accepted ++ [m] } }

/-! ### The reduced gradient (R276, R17) -/

/-- The reduced gradient complete: GRAD holds every block (R276). -/
def gatherComplete (s : State) (d : List Byte) : State :=
  let g := getGroup s (gdGroup d)
  if g.ready ∨ g.gathered.length < gdBlocks d then s
  else
    let s := setGroup s (gdGroup d) { g with ready := true, divisor := g.gatherD.getD 0 }
    tryUpdate { s with update := { s.update with order := s.update.order ++ [gdGroup d] } } (gdGroup d)

/-- The words of a block with its padding as +0 (R234). -/
def padZero (d : List Byte) (b : Nat) (ws : List W32) : List W32 :=
  (List.range 256).map (fun i => if isPad d b i then 0 else ws.getD i 0)

/-- The blocks of a gather message written into GRAD (R234, R276). -/
def writeGrad (s : State) (d : List Byte) (m : XMsg) : State :=
  let size := encSize m.method m.kcode
  (List.range m.blockCount).foldl (fun s i =>
    let b := m.firstBlock + i
    stkWrite s (blockAddr d b arrGrad 1024)
      (vecBytes (padZero d b (decodeBlock m.method m.kcode (slice m.payload (i * size) size)))) false) s

/-- A GATHER accepted (R276). -/
def acceptGather (s : State) (m : XMsg) : State :=
  match groupDesc s m.group with
  | none => s
  | some d =>
    let s := if s.exch.accepted.any (sameMsg m) then s else setAccepted s m
    let skip := m.flags = 1
    let s := if skip then raise s Key.exchangeFlags 5 else writeGrad s d m
    let g := getGroup s m.group
    let clash := g.gatherD.isSome && g.gatherD != some m.included
    let s := if clash then raise s Key.exchangeFlags 3 else s
    let s := setGroup s m.group { g with
      gathered := (upFrom m.firstBlock m.blockCount).foldl (fun a b => nsIns b a) g.gathered
      gatherD := some (g.gatherD.getD m.included)
      skip := g.skip || skip || clash }
    gatherComplete s d

/-- A rank's own gather reaches its unit without the transport (R274, R275), and waits as any other (R248). -/
def takeOwnGather (s : State) (m : XMsg) : State := if gatherWaits s m then keepMsg s m else acceptGather s m

/-! ### The owner's sums (R274, R275, R277) -/

/-- The exact sum of FP32 words, rounded once, with the rule of R261 for the others. -/
def exactSum (xs : List W32) : W32 :=
  let vs := xs.map f32v
  if vs.any (· = .nan) || (vs.any (· = .inf false) && vs.any (· = .inf true)) then f32NaN
  else if vs.any (· = .inf false) then f32Inf false
  else if vs.any (· = .inf true) then f32Inf true
  else (f32Round (vs.foldl (fun d v => d.add v.dy) Dy.zero) false).1

/-- The accepted contribution of a rank that covers a block. -/
def contribOf (s : State) (g r b : Nat) : Option XMsg :=
  s.exch.accepted.find? (fun m => m.typ == 1 && m.group == g && m.rank == r && m.step == s.stp.step &&
    decide (m.firstBlock ≤ b) && decide (b < m.firstBlock + m.blockCount))

/-- Whether a rank's contribution for a block is there, or is excused (R277). -/
def contribThere (s : State) (g r b : Nat) : Bool := (contribOf s g r b).isSome || s.exch.excused.contains r

/-- The encoding size for which a group's INBOUND area was placed (R304). -/
def inboundSize (s : State) (g : Nat) : Nat :=
  match s.placement with
  | none => 1024
  | some p =>
    let e := slice p.compression (4 * ((groupsInOrder s).map gdGroup).idxOf g) 4
    encSize (field e 0 1) (field e 1 1)

/-- The block encodings of a contribution written to INBOUND (R273, R304). -/
def writeInbound (s : State) (d : List Byte) (m : XMsg) : State :=
  let size := encSize m.method m.kcode
  (List.range m.blockCount).foldl (fun s i =>
    stkWrite s (inboundAddr s d m.rank (m.firstBlock + i) (inboundSize s m.group)) (slice m.payload (i * size) size) false) s

/-- The words that a rank contributes to a block, read from INBOUND. -/
def contribWords (s : State) (d : List Byte) (r b : Nat) : List W32 :=
  match contribOf s (gdGroup d) r b with
  | some m =>
    decodeBlock m.method m.kcode (stkRead s (inboundAddr s d r b (inboundSize s (gdGroup d))) (encSize m.method m.kcode))
  | none => List.replicate 256 0

/-- total of a block (R274). -/
def totalOf (s : State) (d : List Byte) (b : Nat) : List W32 :=
  let ws := (List.range (getN s Key.replicas)).map (fun r => contribWords s d r b)
  (List.range 256).map (fun i => exactSum (ws.map (fun w => w.getD i 0)))

/-- Σ INCLUDED and Σ EXCLUDED over the ranks, for a block. -/
def sumCounts (s : State) (g b : Nat) : Nat × Nat :=
  (List.range (getN s Key.replicas)).foldl (fun a r => match contribOf s g r b with
    | some m => (a.1 + m.included, a.2 + m.excluded)
    | none => a) (0, 0)

/-- One block's total encoded with the owner's error feedback (R275). -/
def encodeOwned (d : List Byte) (method kcode : Nat) (acc : State × List Byte) (b : Nat) : State × List Byte :=
  let s := acc.1
  let sel := (getGroup s (gdGroup d)).oresSel
  let res := readResiduals s (oresAddr s d b (exOres (b2n sel)))
  let t := totalOf s d b
  let xs := (List.range 256).map (fun i => (f32Add (t.getD i 0) (res.getD i 0)).1)
  let r := encodeWithResidual s method kcode xs (oresAddr s d b (exOres (1 - b2n sel)))
  (r.1, acc.2 ++ r.2)

/-- A gather message of the own shard formed and sent to every rank, itself included (R275). -/
def formGather (d : List Byte) (s : State) (c : Nat × Nat) : State :=
  let g := gdGroup d
  let e := compEntry s g
  let counts := sumCounts s g c.1
  let s := { s with exch := { s.exch with totals := s.exch.totals ++ [(g, c.1)] } }
  let (s, m) :=
    if counts.1 = 0 then (s, ownMsg s 2 (field e 2 1) (field e 3 1) g 1 c.1 c.2 0 counts.2 [])
    else
      let r := (upFrom c.1 c.2).foldl (encodeOwned d (field e 2 1) (field e 3 1)) (s, [])
      (setGroup r.1 g { getGroup r.1 g with oresWrote := true }, ownMsg s 2 (field e 2 1) (field e 3 1) g 0 c.1 c.2 counts.1 counts.2 r.2)
  let s := (otherRanks s).foldl (fun s r => sendMsg s (peerAddr s r) m) s
  takeOwnGather s (sealMsg (ownAddr s) m)

/-- Every gather message of the own shard whose blocks every rank has contributed to. -/
def tryOwner (s : State) (g : Nat) : State :=
  match groupDesc s g with
  | none => s
  | some d =>
    let e := compEntry s g
    let n := getN s Key.replicas
    if (getGroup s g).hold then s else
      let cs := (shardChunks (ownShard s d) (encSize (field e 2 1) (field e 3 1))).filter (fun c =>
        !s.exch.totals.contains (g, c.1) &&
          (upFrom c.1 c.2).all (fun b => (List.range n).all (fun r => contribThere s g r b)))
      cs.foldl (formGather d) s

/-- A CONTRIB accepted (R274): written to the inbound area before it is acknowledged (R273). One of a rank that has been excused in the step
is not used (R277). -/
def acceptContrib (s : State) (m : XMsg) : State :=
  if s.exch.accepted.any (sameMsg m) then tryOwner s m.group
  else
    match groupDesc s m.group with
    | none => s
    | some d =>
      if s.exch.excused.contains m.rank then writeInbound { s with exch := { s.exch with unused := s.exch.unused ++ [m] } } d m
      else tryOwner (writeInbound (setAccepted s m) d m) m.group

/-! ### A final sum leaves (R267, R270, R281) -/

/-- The words of a block's local sum: +0 where no micro-batch was included. -/
def localSum (s : State) (d : List Byte) (b : Nat) : List W32 :=
  let g := getGroup s (gdGroup d)
  if g.included = 0 then List.replicate 256 0 else readWords s (exAddr s d b (exRun (b2n g.runSel))) 256

/-- One block's local sum encoded with error feedback (R267). -/
def encodeLocal (d : List Byte) (method kcode : Nat) (acc : State × List Byte) (b : Nat) : State × List Byte :=
  let s := acc.1
  let sel := (getGroup s (gdGroup d)).resSel
  let res := readResiduals s (exAddr s d b (exRes (b2n sel)))
  let t := localSum s d b
  let xs := (List.range 256).map (fun i => (f32Add (t.getD i 0) (res.getD i 0)).1)
  let r := encodeWithResidual s method kcode xs (exAddr s d b (exRes (1 - b2n sel)))
  (r.1, acc.2 ++ r.2)

/-- One contribution message formed and sent to the shard's owner. -/
def sendContrib (d : List Byte) (r : Nat) (s : State) (c : Nat × Nat) : State :=
  let g := gdGroup d
  let e := compEntry s g
  let st := getGroup s g
  let x := (upFrom c.1 c.2).foldl (encodeLocal d (field e 0 1) (field e 1 1)) (s, [])
  let m := ownMsg s 1 (field e 0 1) (field e 1 1) g 0 c.1 c.2 st.included st.excluded x.2
  if r = getN s Key.rank then acceptContrib x.1 (sealMsg (ownAddr s) m) else sendMsg x.1 (peerAddr s r) m

/-- The contributions of a group for every shard, in ascending order of rank. A held group takes part in no exchange (R281). -/
def exchangeGroup (s : State) (d : List Byte) : State :=
  let g := gdGroup d
  if (getGroup s g).hold then s else
    let e := compEntry s g
    let n := getN s Key.replicas
    let s := setGroup s g { getGroup s g with resWrote := true }
    (List.range n).foldl (fun s r =>
      (shardChunks (shardOf (gdBlocks d) r n) (encSize (field e 0 1) (field e 1 1))).foldl (sendContrib d r) s) s

/-- A group's sum is final (R263, R16). -/
def groupFinal (s : State) (d : List Byte) : State :=
  let g := getGroup s (gdGroup d)
  let s := setGroup s (gdGroup d) { g with final := true, finalBeat := beatNow s }
  tryUpdate (exchangeGroup s d) (gdGroup d)

/-! ### Fingerprints (R278 to R283) -/

/-- The engine's records for the milestone of a step (R279). -/
def fingerprintRecords (s : State) (updated : List Nat) : List Byte :=
  (groupsInOrder s).flatMap (fun d =>
    let g := gdGroup d
    let st := getGroup s g
    leBytes 2 g ++ leBytes 1 (b2n st.hold + 2 * b2n (updated.contains g)) ++ leBytes 1 0 ++ leBytes 4 (st.t % 2 ^ 32) ++
      leBytes 8 (fingerprint s d))

/-- The fingerprint that a message's records give a group. -/
def recordOf (m : XMsg) (g : Nat) : Option Nat :=
  ((List.range m.blockCount).find? (fun i => field m.payload (16 * i) 2 == g)).map (fun i => field m.payload (16 * i + 8) 8)

/-- The fingerprint of a rank for a group at the step compared. -/
def rankFingerprint (s : State) (r g : Nat) : Option Nat := (s.exch.fingerprints.find? (fun m => m.rank == r)).bind (fun m => recordOf m g)

/-- The fingerprint that more than half of the ranks hold, and the lowest rank that holds it (R282). -/
def majority (fs : List (Option Nat)) : Option (Nat × Nat) :=
  match (List.range fs.length).find? (fun r =>
      (fs.getD r none).isSome && decide (fs.length < 2 * (fs.filter (fun f => f == fs.getD r none)).length)) with
  | some r => (fs.getD r none).map (fun f => (f, r))
  | none => none

/-- One group compared (R281, R282). -/
def compareGroup (step : Nat) (s : State) (d : List Byte) : State :=
  let g := gdGroup d
  let n := getN s Key.replicas
  let fs := (List.range n).map (fun r => rankFingerprint s r g)
  let agree := fs.all (fun f => f == fs.headD none)
  let s := setGroup s g { getGroup s g with agree := agree, divergedAt := if agree then none else some step }
  if agree then s
  else
    let s := logEvent (raise s Key.replicaFlags 0) 8 [g, step % 2 ^ 32, step / 2 ^ 32]
    let s := if getN s Key.divergedCaptureEmpty = 1 then
        setN (setN (setN s Key.divergedCaptureGroup g) Key.divergedCaptureStep step) Key.divergedCaptureEmpty 0
      else s
    let s := { s with exch := { s.exch with divergedNext := nsIns g s.exch.divergedNext } }
    match majority fs with
    | some (f, r) =>
      if getN s Key.autoRepair = 1 ∧ 3 ≤ n ∧ rankFingerprint s (getN s Key.rank) g ≠ some f then
        { s with exch := { s.exch with repairNext := s.exch.repairNext ++ [(g, r)] } }
      else s
    | none => s

/-- The comparison of a step completes once every rank's message is accepted (R280). -/
def tryCompare (s : State) : State :=
  let step := getN s Key.commitStep
  let n := getN s Key.replicas
  if s.exch.comparedStep = some step ∨
      !(List.range n).all (fun r => s.exch.fingerprints.any (fun m => m.rank == r && m.step == step)) then s
  else
    let s := { s with exch := { s.exch with comparedStep := some step, divergedNext := [], repairNext := [] } }
    (groupsInOrder s).foldl (compareGroup step) s

/-- A FINGERPRINT accepted. -/
def acceptFingerprint (s : State) (m : XMsg) : State :=
  tryCompare { s with exch := { s.exch with fingerprints := s.exch.fingerprints ++ [m] } }

/-- A new message taken by its TYPE. -/
def acceptMsg (s : State) (m : XMsg) : State :=
  match m.typ with
  | 1 => acceptContrib s m
  | 2 => acceptGather s m
  | _ => acceptFingerprint s m

/-- A message received whole: its verdict and the state after it (R273). -/
def receiveMsg (s : State) (m : XMsg) : State × Verdict :=
  match verdict s m with
  | .rejected => (count64 s Key.messagesRejected, .rejected)
  | .kept => (keepMsg s m, .kept)
  | .duplicate => (takeDuplicate s m, .duplicate)
  | .fresh => (acceptMsg s m, .fresh)

/-- The kept messages whose time has come are taken in order of arrival (R273, R248). -/
def retryKept (s : State) : State :=
  let ms := s.exch.nextStep
  ms.foldl (fun s m => if m.typ = 2 ∧ m.source = ownAddr s then takeOwnGather s m else (receiveMsg s m).1) { s with exch := { s.exch with nextStep := [] } }

/-- The stacks whose lines an owner's sum of a group reads. -/
def groupStacks (s : State) (g : Nat) : List Nat :=
  match groupDesc s g with
  | none => []
  | some d => gdStacks d

/-- CONTRIB_RECEIVE (R274), whose sums read INBOUND and ORES and may meet errors (R294). -/
def execContribReceive (m : Met XMsg StackErrs) (s : State) : Host.Outcome State Fault Refusal :=
  .next (receiveMsg (meetErrorsOf s (groupStacks s m.val.group) m.errs) { m.val with typ := 1 }).1

/-- GATHER_RECEIVE (R276). -/
def execGatherReceive (m : XMsg) (s : State) : Host.Outcome State Fault Refusal :=
  .next (receiveMsg s { m with typ := 2 }).1

/-- FINGERPRINT_RECEIVE (R280). -/
def execFingerprintReceive (m : XMsg) (s : State) : Host.Outcome State Fault Refusal :=
  .next (receiveMsg s { m with typ := 3 }).1

/-! ### Late peers and the objects of the exchange (R277, R283, R287, R105, R252) -/

/-- The lowest rank from which a message of a group is outstanding (R277). -/
def lateRank (s : State) (d : List Byte) : Option Nat :=
  let g := gdGroup d
  let n := getN s Key.replicas
  let sh := ownShard s d
  (List.range n).find? (fun r =>
    (upFrom sh.1 (sh.2 - sh.1)).any (fun b => !contribThere s g r b) ||
      (let o := shardOf (gdBlocks d) r n
       (upFrom o.1 (o.2 - o.1)).any (fun b => !(getGroup s g).gathered.contains b)))

/-- PEER_LATE (R277): PEER_LATE_BEATS after a group's sum is final with its reduced gradient not complete. -/
def execPeerLate (group : Nat) (s : State) : Host.Outcome State Fault Refusal :=
  .next (match groupDesc s group with
    | none => s
    | some d =>
      let g := getGroup s group
      if !g.final || g.hold || g.ready || g.late || decide (beatNow s < g.finalBeat + getN s Key.peerLateBeats) then s
      else
        let s := raise (setGroup s group { g with late := true }) Key.exchangeFlags 2
        match lateRank s d with
        | some r => setN s Key.peerLateRank r
        | none => s)

/-- The effect of EXCUSE (R277): the contributions of the rank that have not been accepted for the current step are not waited for, nor
used when they come. -/
def excuseEffect (s : State) (v : Nat) : State :=
  let s := setN s Key.excuse v
  let s := if v < getN s Key.replicas then { s with exch := { s.exch with excused := nsIns v s.exch.excused } } else s
  (groupsInOrder s).foldl (fun s d => tryOwner s (gdGroup d)) s

/-- EXCUSE (R277), whose sums read INBOUND and ORES and may meet errors (R294). -/
def execExcuse (w : Met WReq StackErrs) (s : State) : Host.Outcome State Fault Refusal :=
  .next (ownWrite s Key.excuse w.val noCheck (fun s v => metStacks w.errs (fun s => excuseEffect s v) s))

/-- The effect of OVERRIDE: it waits for the next milestone (R283). -/
def overrideEffect (s : State) (v : Nat) : State :=
  let s := setN s Key.override v
  { s with exch := { s.exch with overrideDue := if v = 0xFFFFFFFF then none else some (bits v 11 0, bits v 27 12) } }

/-- OVERRIDE (R283). -/
def execOverride (w : WReq) (s : State) : Host.Outcome State Fault Refusal := .next (ownWrite s Key.override w noCheck overrideEffect)

/-- The check of SET_COMPRESSION (R287, R304): the group is loaded, and its encoding fits the area placed for it. -/
def compressionCheck (s : State) (v : Nat) : Nat :=
  let g := bits v 11 0
  if (groupDesc s g).isNone || decide (inboundSize s g < encSize (bits v 23 16) (bits v 31 24)) then stBadValue else stOk

/-- The effect of SET_COMPRESSION: staged until the next milestone. -/
def compressionEffect (s : State) (v : Nat) : State :=
  let s := setN s Key.setCompression v
  { s with exch := { s.exch with pendingComp := amIns (slice (leBytes 8 v) 2 4) s.exch.pendingComp (bits v 11 0) } }

/-- SET_COMPRESSION (R287). -/
def execSetCompression (w : WReq) (s : State) : Host.Outcome State Fault Refusal :=
  .next (ownWrite s Key.setCompression w compressionCheck compressionEffect)

/-- KEY_SLOT_WRITE (R105): the value is staged; the active key changes at the next milestone. -/
def execKeySlotWrite (slot : BitVec 4) (high : Bool) (w : WReq) (s : State) : Host.Outcome State Fault Refusal :=
  let key := if high then Key.keyHi slot.toNat else Key.keyLo slot.toNat
  .next (ownWrite s key w noCheck (fun s v => setN s key v))

/-- CONSTANT_SET_WRITE (R252): the value is staged; the active constant changes at the next milestone. -/
def execConstantSetWrite (set : BitVec 6) (k : Nat) (w : WReq) (s : State) : Host.Outcome State Fault Refusal :=
  .next (if 12 ≤ k then s else ownWrite s (Key.ksetK set.toNat k) w noCheck (fun s v => setN s (Key.ksetK set.toNat k) v))

end Sys2Proof.Machine
end

