-- ==== Sys2Proof/Machine/Gates.lean ====
section
/-! DEFINITION. The reduction gates (11_gradient_exchange.md R258 to R265): partials, exact sums, running sums, settling. -/

namespace Sys2Proof.Machine

/-! ### Source tables and cursors (R259, R260) -/

/-- The entries of a gate's source table for a source, in ascending order of position. -/
def sourceEntries (s : State) (gate source : Nat) : List SourceEntry :=
  sortBy (fun e => e.pos) (s.gates.sources.filter (fun e => e.gate == gate && e.source == source))

/-- The cursor of a source at a gate, past the micro-batches that have settled. -/
def cursorOf (s : State) (gate source : Nat) : Cursor :=
  let c := (s.gates.cursors.find? (fun c => c.gate == gate && c.source == source)).getD ⟨gate, source, firstSeq s, 0⟩
  cursorPast s (s.gates.settled.length + 1) c

/-- The state with a cursor set. -/
def setCursor (s : State) (c : Cursor) : State :=
  { s with gates := { s.gates with cursors := (s.gates.cursors.filter (fun x => !(x.gate == c.gate && x.source == c.source))) ++ [c] } }

/-- The next position after a cursor, `n` positions to an order. -/
def cursorNext (n : Nat) (c : Cursor) : Cursor := if c.pos + 1 < n then { c with pos := c.pos + 1 } else { c with seq := c.seq + 1, pos := 0 }

/-- The cursor and the three positions after it. -/
def cursorWindow (n : Nat) (c : Cursor) : List Cursor :=
  let c1 := cursorNext n c
  let c2 := cursorNext n c1
  [c, c1, c2, cursorNext n c2]

/-- The sequence word of a position (R259). -/
def partialWord (es : List SourceEntry) (c : Cursor) : W32 :=
  BitVec.ofNat 32 (c.seq % 2 ^ 16 * 2 ^ 16 + (match es[c.pos]? with
    | some e => e.pos
    | none => 0))

/-- The position that a packet names (R260): the first of the window whose sequence word its trailer fits; the cursor's where it carries
poison. The bytes of a trailer beyond its check value are ignored (R188). -/
def partialPlace (es : List SourceEntry) (c : Cursor) (flits : List Flit) : Option Cursor :=
  let payload := flitBytes (flits.take 16)
  let check := flitBytes (flits.drop 16)
  if flits.length ≠ 17 ∨ es = [] then none
  else if anyPoison flits then some c
  else (cursorWindow es.length c).find? (fun q => trailerHolds (partialWord es q) payload check)

/-! ### Exact sums (R261) -/

/-- A sum before its first term. -/
def ElemSum.zero : ElemSum := ⟨0, false, false, false⟩

/-- A term added, exactly, in units of 2^-149. -/
def ElemSum.add (a : ElemSum) (w : W32) : ElemSum :=
  match f32v w with
  | .nan => { a with nan := true }
  | .inf neg => if neg then { a with negInf := true } else { a with posInf := true }
  | v => { a with sum := a.sum + v.dy.at (-149) }

/-- RNE_fp32(committed + S) (R262). -/
def ElemSum.applyTo (a : ElemSum) (old : W32) : W32 :=
  let b := a.add old
  if b.nan || (b.posInf && b.negInf) then f32NaN
  else if b.posInf then f32Inf false
  else if b.negInf then f32Inf true
  else (f32Round ⟨b.sum, -149⟩ false).1

/-! ### Slots (R258, R261, R265) -/

/-- Whether a slot is that of a block and micro-batch. -/
def slotIs (gate group block seq : Nat) (x : Slot) : Bool :=
  x.gate == gate && x.group == group && x.block == block && x.seq == seq

def findSlot (s : State) (gate group block seq : Nat) : Option Slot := s.gates.slots.find? (slotIs gate group block seq)

/-- The state with a slot replaced, or added as the newest. -/
def putSlot (s : State) (x : Slot) : State :=
  let hit := slotIs x.gate x.group x.block x.seq
  let xs := if s.gates.slots.any hit then s.gates.slots.map (fun y => if hit y then x else y) else s.gates.slots ++ [x]
  { s with gates := { s.gates with slots := xs } }

/-- The partials that a block awaits at a gate: its count c. -/
def blockParts (s : State) (gate group block : Nat) : Nat :=
  match s.gates.sources.find? (fun e => e.gate == gate && e.group == group && e.block == block) with
  | some e => e.parts
  | none => 0

/-- Whether every partial of a slot's block is accepted. -/
def slotFull (s : State) (x : Slot) : Bool := decide (blockParts s x.gate x.group x.block ≤ x.accepted.length)

/-- The blocks of a gate's source table, in its order. -/
def gateBlockList (s : State) (gate : Nat) : List (Nat × Nat) :=
  ((s.gates.sources.filter (fun e => e.gate == gate)).map (fun e => (e.group, e.block))).eraseDups

/-- Where a slot is spilled: in the gate's spill area, one place of 10,240 bytes for each block and micro-batch in flight (R265, R304). -/
def spillAddr (s : State) (x : Slot) : Option Nat :=
  match s.placement with
  | none => none
  | some p => (p.spills.find? (fun e => e.1 == x.gate)).map (fun e =>
      stackAddr e.2.1 (65536 * e.2.2.1 + 10240 * ((gateBlockList s x.gate).idxOf (x.group, x.block) * (p.depthMax + 1) + x.seq % (p.depthMax + 1))))

/-- The 40 bytes of an exact accumulator: two's complement in units of 2^-149, the marks of the non-finite words in the three highest bits
(the form is not given; DESIGN CHOICE, assumption log 94). -/
def sumBytes (a : ElemSum) : List Byte :=
  leBytes 40 (unsigned 317 a.sum + 2 ^ 317 * (b2n a.posInf + 2 * b2n a.negInf + 4 * b2n a.nan))

/-- An accumulator read back. -/
def sumOfBytes (bs : List Byte) : ElemSum :=
  let n := leNat bs
  ⟨signed 317 (n % 2 ^ 317), bit n 317, bit n 318, bit n 319⟩

/-- A slot written to its spill area (R265). -/
def spillSlot (s : State) (x : Slot) : State :=
  let s := match spillAddr s x with
    | some a => stkWrite s a (x.sums.flatMap sumBytes) x.poison
    | none => s
  count64 (putSlot s { x with spilled := true, sums := if (spillAddr s x).isSome then [] else x.sums }) Key.gateSpills

/-- A spilled slot read back (R265); a poisoned line of it poisons the slot. -/
def unspillSlot (s : State) (x : Slot) : Slot :=
  match spillAddr s x with
  | some a => { x with
      spilled := false
      sums := (List.range 256).map (fun i => sumOfBytes (stkRead s (a + 40 * i) 40))
      poison := x.poison || stkPoisoned s a 10240 }
  | none => { x with spilled := false }

/-- A slot freed at a gate that has none: the oldest incomplete block is spilled (R265); were every block complete and waiting for its
turn, the oldest of them (DESIGN CHOICE, assumption log 94). A slot whose S is applied is free. -/
def freeSlot (s : State) (gate : Nat) : State :=
  let here := s.gates.slots.filter (fun x => x.gate == gate && !x.spilled && !x.applied)
  if here.length < 768 then s
  else
    let pick := match here.find? (fun x => !slotFull s x) with
      | some x => some x
      | none => here.head?
    match pick with
    | some x => spillSlot s x
    | none => s

/-- The words of a partial in element order (R259). -/
def partialWords (e : SourceEntry) (flits : List Flit) : List W32 :=
  let bs := flitBytes (flits.take 16)
  (List.range 256).map (fun i =>
    let j := if e.transposed then i % 16 * 16 + i / 16 else i
    BitVec.ofNat 32 (field bs (4 * j) 4))

/-- A gate's report on a group's micro-batch; POISONED outranks a MISSING sent before it, and otherwise the first stands (R263). -/
def addReport (s : State) (gate group seq : Nat) (r : Report) : State :=
  let same (x : Nat × Nat × Nat × Report) : Bool := x.1 == gate && x.2.1 == group && x.2.2.1 == seq
  if s.gates.reports.any same then
    if r = .poisoned then { s with gates := { s.gates with reports := s.gates.reports.map (fun x =>
      if same x && x.2.2.2 == .missing then (x.1, x.2.1, x.2.2.1, .poisoned) else x) } }
    else s
  else { s with gates := { s.gates with reports := s.gates.reports ++ [(gate, group, seq, r)] } }

/-- A partial accepted at its position (R260, R261). -/
def acceptPartial (s : State) (e : SourceEntry) (seq : Nat) (flits : List Flit) : State :=
  let old := findSlot s e.gate e.group e.block seq
  let s := match old with
    | some x => if x.spilled then freeSlot s e.gate else s
    | none => freeSlot s e.gate
  let x := old.getD ⟨e.gate, e.group, e.block, seq, [], List.replicate 256 ElemSum.zero, false, false, false⟩
  let x := if x.spilled then unspillSlot s x else x
  let ws := partialWords e flits
  let x := { x with
    accepted := x.accepted ++ [(e.source, e.pos)]
    sums := (List.range 256).map (fun i => (x.sums.getD i ElemSum.zero).add (ws.getD i 0))
    poison := x.poison || anyPoison flits }
  let s := putSlot s x
  if slotFull s x && x.poison then addReport s e.gate e.group seq .poisoned else s

/-- Whether a position was already accepted, or its micro-batch has settled for its group (R260). -/
def partialSeen (s : State) (e : SourceEntry) (seq : Nat) : Bool :=
  isSettled s e.group seq || (match findSlot s e.gate e.group e.block seq with
    | some x => x.accepted.contains (e.source, e.pos)
    | none => false)

/-- A packet from a source handled by a gate (R260). -/
def gatePacket (gate src : Nat) (flits : List Flit) (s : State) : State :=
  let es := sourceEntries s gate src
  match partialPlace es (cursorOf s gate src) flits with
  | none => raise (count64 s Key.partialsDiscarded) Key.exchangeFlags 1
  | some q =>
    match es[q.pos]? with
    | none => raise (count64 s Key.partialsDiscarded) Key.exchangeFlags 1
    | some e =>
      let t := setCursor s (cursorNext es.length q)
      if partialSeen s e q.seq then count64 t Key.duplicatesDiscarded else acceptPartial t e q.seq flits

/-- The gate at an endpoint of a crescent (R258): RG(8j + i) at 0x40 + i. -/
def gateAt (crescent endpoint : Nat) : Option Nat :=
  if crescent < 4 ∧ 0x40 ≤ endpoint ∧ endpoint < 0x48 then some (8 * crescent + (endpoint - 0x40)) else none

/-- PARTIAL_RECEIVE (R258, R260). The reading of a spilled slot may meet errors (R294). -/
def execPartialReceive (ep : Endpoint) (source : CoreId) (flits : Met (List Flit) StackErrs) (s : State) :
    Host.Outcome State Fault Refusal :=
  .next (match gateAt ep.crescent ep.number with
    | none => s
    | some g =>
      if !bit (getN s Key.clockEnableGates) g then s
      else gatePacket g (coreKey source) flits.val (meetErrorsOf s ((List.range 4).map (fun i => 4 * ep.crescent + i)) flits.errs))

/-! ### Running sums and settling (R262 to R264) -/

/-- Whether the micro-batch before `seq` in the step has settled for a group (R262, R263). -/
def predecessorSettled (s : State) (group seq : Nat) : Bool := seq == firstSeq s || isSettled s group (seq - 1)

/-- The blocks of a group at a gate. -/
def gateBlocks (s : State) (gate group : Nat) : List Nat :=
  ((s.gates.sources.filter (fun e => e.gate == gate && e.group == group)).map (fun e => e.block)).eraseDups

/-- A gate reports CLEAN once every one of its blocks is written without poison. -/
def reportClean (s : State) (gate group seq : Nat) : State :=
  if (gateBlocks s gate group).all (fun b => match findSlot s gate group b seq with
      | some x => x.applied && !x.poison
      | none => false)
  then addReport s gate group seq .clean else s

/-- The running sum of a block written for a slot (R262); a poisoned S writes nothing. -/
def applySum (s : State) (d : List Byte) (x : Slot) : State :=
  let g := getGroup s x.group
  let from_ := exAddr s d x.block (exRun (b2n g.runSel))
  let none_ := g.included == 0
  let pois := x.poison || (!none_ && stkPoisoned s from_ 1024)
  let s := putSlot s { x with applied := true, poison := pois }
  if pois then addReport s x.gate x.group x.seq .poisoned
  else
    let old := if none_ then List.replicate 256 0 else readWords s from_ 256
    let new := (List.range 256).map (fun i => (x.sums.getD i ElemSum.zero).applyTo (old.getD i 0))
    reportClean (stkWrite s (exAddr s d x.block (exRun (1 - b2n g.runSel))) (vecBytes new) false) x.gate x.group x.seq

/-- RUNNING_SUM_APPLY (R262): the committed buffer is read, which may meet errors (R294); a block spilled while it waited is read back. -/
def execRunningSumApply (gate group block : Nat) (seq : Met Nat StackErrs) (s : State) : Host.Outcome State Fault Refusal :=
  .next (match groupDesc s group, findSlot s gate group block seq.val with
    | some d, some x =>
      if !slotFull s x || x.applied || isSettled s group seq.val || !predecessorSettled s group seq.val then s
      else
        let s := meetErrors s (blockStack d block) seq.errs
        applySum s d (if x.spilled then unspillSlot s x else x)
    | _, _ => s)

/-- The gates that hold blocks of a group (R263). -/
def groupGates (s : State) (group : Nat) : List Nat :=
  ((s.gates.sources.filter (fun e => e.group == group)).map (fun e => e.gate)).eraseDups

/-- A gate's report. -/
def reportOf (s : State) (gate group seq : Nat) : Option Report :=
  (s.gates.reports.find? (fun x => x.1 == gate && x.2.1 == group && x.2.2.1 == seq)).map (fun x => x.2.2.2)

/-- A micro-batch settled: the slots and reports of the pair are done with, and the cursors pass it (R260, R263). -/
def closePair (s : State) (group seq : Nat) (incl : Bool) : State :=
  let s := { s with gates := { s.gates with
    slots := s.gates.slots.filter (fun x => !(x.group == group && x.seq == seq))
    reports := s.gates.reports.filter (fun x => !(x.2.1 == group && x.2.2.1 == seq))
    settled := s.gates.settled ++ [(group, seq, incl)] } }
  { s with gates := { s.gates with cursors := s.gates.cursors.map (cursorPast s (s.gates.settled.length + 1)) } }

/-- Settled as included: the selector flips. -/
def settleIncluded (s : State) (group seq : Nat) : State :=
  let g := getGroup s group
  closePair (setGroup s group { g with runSel := !g.runSel, included := g.included + 1, settled := some seq }) group seq true

/-- Settled as excluded: counted with its cause; poison outranks a missing partial. -/
def settleExcluded (s : State) (group seq : Nat) (poisoned : Bool) : State :=
  let g := getGroup s group
  let s := setGroup s group { g with excluded := g.excluded + 1, settled := some seq }
  let s := raise (count64 s (if poisoned then Key.excludedPoisoned else Key.excludedMissing)) Key.exchangeFlags 0
  closePair s group seq false

/-- SETTLE (R263): the master gate's decision. After the step's last micro-batch the sum is final (R16), and its encoding reads the sums and
residuals, which may meet errors (R294). -/
def execSettle (group : Nat) (seq : Met Nat StackErrs) (s : State) : Host.Outcome State Fault Refusal :=
  .next (match groupDesc s group with
    | none => s
    | some d =>
      let errs := seq.errs
      let seq := seq.val
      let gates := groupGates s group
      let rs := gates.map (fun g => reportOf s g group seq)
      if gates = [] || decide (seq < firstSeq s) || decide (lastSeq s < seq) || isSettled s group seq ||
          !predecessorSettled s group seq then s
      else
        let bad := rs.any (fun r => r == some .poisoned || r == some .missing)
        let clean := rs.all (fun r => r == some .clean)
        if !bad && !clean then s
        else
          let s := if bad then settleExcluded s group seq (rs.any (fun r => r == some .poisoned)) else settleIncluded s group seq
          if seq = lastSeq s then groupFinal (meetErrorsOf s (gdStacks d) errs) d else s)

/-- Whether some partial of a group's micro-batch has not been accepted at a gate. -/
def partialLacks (s : State) (gate group seq : Nat) : Bool :=
  (gateBlocks s gate group).any (fun b => match findSlot s gate group b seq with
    | some x => !slotFull s x
    | none => true)

/-- SETTLE_WAIT_EXPIRY (R264): after the backward work of a micro-batch has ended on every core, the gate reports MISSING for every
group that lacks a partial. -/
def execSettleWaitExpiry (gate seq : Nat) (s : State) : Host.Outcome State Fault Refusal :=
  .next (if !s.gates.backwardEnded.any (fun e => e.1 == seq) then s
    else ((gateGroups s gate).filter (fun g => !isSettled s g seq && partialLacks s gate g seq)).foldl
      (fun s g => addReport s gate g seq .missing) s)

/-! ### Waypoint reports (R17, R227, R228, R264, R379, R402) -/

/-- The source of a loss and its gradient computed on this engine, among those of output gradients (R227). -/
abbrev localLoss : Nat := 1024

/-- What a completed waypoint marks (R17, R227, R228, R264, R379). -/
def applyMark (s : State) (m : WpMark) : State :=
  let seq := stepFirstSeq s s.stp.step + m.k
  let key := layerKey seq m.layer
  match m.kind with
  | 0 => modifyWork s seq (fun w => if w.evaluation then w else { w with forwardEnded := true })
  | 1 =>
    let s := modifyWork s seq (fun w => if w.evaluation then w else { w with backwardEnded := true, endBeat := beatNow s })
    tryUpdates { s with
      gates := { s.gates with backwardEnded := s.gates.backwardEnded ++ [(seq, getN s Key.settleWaitUs)] }
      stp := { s.stp with layby := s.stp.layby.filter (fun r => r.seq != seq % 2 ^ 32) } }
  | 2 => { s with stp := { s.stp with layersHeld := nsIns key s.stp.layersHeld } }
  | 3 => tryUpdates { s with stp := { s.stp with layersHeld := nsDel key s.stp.layersHeld, passed := nsIns key s.stp.passed } }
  | _ => { s with stp := { s.stp with outGrads := (localLoss, seq) :: s.stp.outGrads } }

/-- WAYPOINT_REPORT (R402): the report is counted against the schedule, or ignored and counted in REPORTS_UNMATCHED; the last report of
a waypoint has its marks take place. -/
def execWaypointReport (waypoint : W32) (core : CoreId) (step : Nat) (s : State) : Host.Outcome State Fault Refusal :=
  let c := getCore s core
  let s := setCore s core { c with reports := c.reports.eraseP (fun r => r.waypoint == waypoint) }
  let id := waypoint.toNat
  match (scheduleEntries s).find? (fun e => e.1 == id) with
  | none => .next (count64 s Key.reportsUnmatched)
  | some e =>
    let n := stGet s.stp.wpCount id
    if step ≠ s.stp.step ∨ e.2.1 ≤ n then .next (count64 s Key.reportsUnmatched)
    else
      let s := { s with stp := { s.stp with wpCount := stPut s.stp.wpCount id (n + 1) } }
      let marks := match s.placement with
        | some p => p.marks.filter (fun m : WpMark => m.waypoint == id)
        | none => []
      .next (if n + 1 = e.2.1 then marks.foldl applyMark s else s)

end Sys2Proof.Machine
end

