-- ==== Sys2Proof/Machine/Streams.lean ====
section
/-! DEFINITION. Stack errors and retirement (12_streams_memory.md R294 to R297), stream descriptors, arming, grants, packets and
completions (R306 to R320), and the trimmed streams with their zero maps (08_activation_sparsity.md R207 to R212). -/

namespace Sys2Proof.Machine

/-! ### The scrubber (R296) -/

/-- The errors that the scrubber's read of one line meets (R294), and the on-die reports that come with it (R288). -/
def scrubErrors (s : State) (st line : Nat) (e : StackErrs) : State :=
  let s := (e.corrected.filter (fun l => l == line)).foldl lineCorrected s
  onDieReports ((e.uncorrected.filter (fun l => l == line)).foldl lineUncorrected s) st e.onDie

/-- STACK_SCRUB (R296): the next line is read; its errors are handled. -/
def execStackScrub (stack : Nat) (errs : StackErrs) (s : State) : Host.Outcome State Fault Refusal :=
  .next (if 16 ≤ stack || !bit (stackPresent s.variant) stack || getN s (Key.msStackState stack) != 0 then s
    else
      let l := stGet s.stk.scrubPos stack
      let next := if (l + 1) * 64 < dataBytes then l + 1 else 0
      let s := scrubErrors s stack (stackAddr stack (64 * l) / 64) errs
      let s := { s with stk := { s.stk with scrubPos := stPut s.stk.scrubPos stack next } }
      if next = 0 then { s with stk := { s.stk with frameErrs := s.stk.frameErrs.filter (fun e => e.1 / 2 ^ 21 != stack) } } else s)

/-! ### Descriptors (R307) -/

abbrev dsQueue (b : List Byte) : Nat := bits (field b 0 1) 4 0
abbrev dsDir (b : List Byte) : Nat := bits (field b 1 1) 1 0
abbrev dsCopy (b : List Byte) : Nat := bits (field b 1 1) 3 2
abbrev dsTrim (b : List Byte) : Bool := bit (field b 1 1) 4
abbrev dsTrailer (b : List Byte) : Bool := bit (field b 1 1) 5
abbrev dsAssemble (b : List Byte) : Bool := bit (field b 1 1) 6
abbrev dsExp (b : List Byte) : Nat := bits (field b 3 1) 2 0
abbrev dsGroupG (b : List Byte) : Nat := bits (field b 3 1) 4 3
abbrev dsSequence (b : List Byte) : Nat := field b 4 4
abbrev dsSource (b : List Byte) : Nat := field b 8 6
abbrev dsFlits (b : List Byte) : Nat := bits (field b 0x0E 2) 5 0
abbrev dsEntry (b : List Byte) : Nat := bits (field b 0x0E 2) 11 6
abbrev dsDest (b : List Byte) : Nat := field b 0x10 8
abbrev dsRunBytes (b : List Byte) : Nat := field b 0x18 4
abbrev dsRunCount (b : List Byte) : Nat := field b 0x1C 4
abbrev dsStride (b : List Byte) : Int := signed 32 (field b 0x20 4)
abbrev dsParam (b : List Byte) : Nat := field b 0x24 4
abbrev dsMapFirst (b : List Byte) : Nat := field b 0x28 2
abbrev dsMapCount (b : List Byte) : Nat := field b 0x2A 2
abbrev dsBuffer (b : List Byte) : Nat := field b 0x2C 4
abbrev dsDeadline (b : List Byte) : Nat := field b 0x30 6
abbrev dsGroup (b : List Byte) : Nat := bits (field b 0x36 2) 11 0
abbrev dsPace (b : List Byte) : Nat := field b 0x38 3

/-- The flits of a packet: data, parameter flit and trailer (R308). -/
def dsPacket (b : List Byte) : Nat := dsFlits b + b2n (dsExp b != 0) + b2n (dsTrailer b)

/-- The address of run j at an address field that steps by STRIDE. -/
def runAt (b : List Byte) (base j : Nat) : Int := (base : Int) + (j : Int) * dsStride b

/-- Whether every run at an address field lies in a stack's data space, aligned (R308). -/
def runsFit (b : List Byte) (st base : Nat) (stride : Int) : Bool :=
  let n := dsRunCount b
  let last := (base : Int) + ((n : Int) - 1) * stride
  base % 64 == 0 && (n == 1 || stride % 64 == 0) && decide (0 ≤ last) &&
    addrStack base == st && inDataSpace base (dsRunBytes b) && addrStack last.toNat == st && inDataSpace last.toNat (dsRunBytes b)

/-- Whether the codes and reserved fields of a descriptor are as R307 gives them; those of a route header by R57. -/
def descCodesOk (b : List Byte) : Bool :=
  let exp := dsExp b
  decide (b.length = 64) && field b 0x3C 4 == crc32c (splice (slice b 0 60) 2 [0]) &&
    decide (field b 0 1 < 32) && dsDir b != 3 && dsCopy b != 3 && !bit (field b 1 1) 7 &&
    dsGroupG b != 3 && decide (field b 3 1 < 32) && decide (field b 0x0E 2 < 4096) && decide (1 ≤ dsFlits b) &&
    decide (64 ≤ dsRunBytes b) && decide (dsRunBytes b ≤ 16777216) && dsRunBytes b % 64 == 0 &&
    decide (1 ≤ dsRunCount b) && decide (dsRunCount b ≤ 16777215) && decide (field b 0x36 2 < 4096) && field b 0x3B 1 == 0 &&
    decide (dsSource b < 2 ^ 41) && (dsDir b != 1 || dsSource b == 0) && (dsDir b == 0 || decide (dsDest b < 2 ^ 41)) &&
    (dsParam b == 0 || (exp != 0 && dsCopy b == 0)) &&
    (dsDir b != 0 || (decide (hdrMode (BitVec.ofNat 64 (dsDest b)) < 5) && hdrField (BitVec.ofNat 64 (dsDest b)) 63 61 == 0)) &&
    (if dsTrim b then decide (1 ≤ dsMapCount b) && decide (dsMapCount b ≤ 1024) else dsMapFirst b == 0 && dsMapCount b == 0)

/-- The mode in force of a sparse layer entry: PREDICT_MODE and ACT_WIDTH (R207, R211). -/
def layerMode (s : State) (e : Nat) : Nat × Nat := amGet (0, 1) s.streams.layers e

/-- The floor of a stream (R315). -/
def streamFloor (b : List Byte) : Nat := max 4096 (64 * dsPacket b)

/-- The bytes of the parameter entries that a COPY NONE stream takes from PARAM (R309). -/
def paramBytes (b : List Byte) : Nat := dsRunCount b * (dsRunBytes b / (64 * dsFlits b)) * (2 * (32 / 2 ^ dsGroupG b))

/-- Whether an arm of a descriptor at a stream engine is accepted by R308. PREDICT_MODE is judged as written (R207); what is written takes
effect at the next milestone (R215). -/
def descOk (s : State) (se : Nat) (b : List Byte) : Bool :=
  let st := se / 2
  let exp := dsExp b
  let size := packedSize exp / 64
  descCodesOk b && decide (dsPacket b ≤ 64) &&
    (exp == 0 || dsFlits b == size) &&
    (!(dsCopy b == 0 && (exp == 7 || (exp != 0 && size == 12))) || dsGroupG b == 0) &&
    (dsCopy b == 0 || dsDir b == 0) && !(dsTrim b && dsCopy b == 2) && !(dsTrim b && getN s (Key.layerPredictMode (dsEntry b)) == 0) &&
    !(dsAssemble b && (dsCopy b == 0 || dsFlits b != 16)) &&
    decide (streamFloor b ≤ dsBuffer b) && !(dsDir b == 1 && decide (16 ≤ dsQueue b)) &&
    (dsCopy b == 0 || (groupDesc s (dsGroup b)).isSome) &&
    (dsDir b != 0 || dsRunBytes b % (64 * dsFlits b) == 0) &&
    (!dsAssemble b || (match groupDesc s (dsGroup b) with
      | some d => dsRunBytes b % (64 * gdPanel d) == 0
      | none => false)) &&
    (dsDir b == 1 || runsFit b st (dsSource b) (dsStride b)) &&
    (dsDir b != 1 || runsFit b st (dsDest b) (dsStride b)) &&
    (dsDir b != 2 || runsFit b st (dsDest b) (dsRunBytes b)) &&
    (exp == 0 || dsCopy b != 0 || inDataSpace (stackAddr st (64 * dsParam b)) (paramBytes b))

/-! ### Queues and arming (R317, R318) -/

/-- The key of a queue. -/
def queueKey (se q : Nat) : Nat := se * 32 + q

def getQueue (s : State) (se q : Nat) : Queue := amGet Queue.default s.streams.queues (queueKey se q)
def setQueue (s : State) (se q : Nat) (v : Queue) : State :=
  { s with streams := { s.streams with queues := amPut Queue.default v s.streams.queues (queueKey se q) } }

/-- SE_STATE brought up to date (R324). -/
def refreshSe (s : State) (se : Nat) : State :=
  setN s (Key.seState se) (b2n ((List.range 32).any (fun q => (getQueue s se q).current.isSome)))

/-- A descriptor as armed. -/
def newDesc (b : List Byte) (gen : Byte) : Desc := ⟨splice b 2 [gen], gen, 0, [], 0, 0, false, false, 0⟩

/-- Whether a queue can take an arm. -/
def canArm (s : State) (se : Nat) (b : List Byte) : Bool :=
  let q := getQueue s se (dsQueue b)
  q.current.isNone || q.shadow.isNone

/-- The key of a trimmed stream: its queue and its layer entry (R207, R211). -/
def trimKey (se : Nat) (b : List Byte) : Nat := queueKey se (dsQueue b) * 64 + dsEntry b

/-- The trim state of a stream. -/
def getTrim (s : State) (se : Nat) (b : List Byte) : TrimState := amGet ⟨0, none, [], [], [], false⟩ s.streams.trims (trimKey se b)
def setTrim (s : State) (se : Nat) (b : List Byte) (t : TrimState) : State :=
  { s with streams := { s.streams with trims := amIns t s.streams.trims (trimKey se b) } }

/-- The sets of a trimmed stream begun for the descriptor that becomes CURRENT (R209, R211). -/
def beginTrim (s : State) (se : Nat) (d : Desc) : State :=
  if !dsTrim d.bytes then s
  else
    let t := getTrim s se d.bytes
    setTrim s se d.bytes { t with seq := dsSequence d.bytes, nonzero := [], covered := [], runs := [], dropped := false }

/-- An accepted arm of a descriptor of whose runs some are written already (R317). -/
def armFrom (s : State) (se : Nat) (b : List Byte) (done : List Nat) : State :=
  let n := dsQueue b
  let q := getQueue s se n
  let d := { newDesc b (q.gen + 1) with done := done }
  if q.current.isNone then refreshSe (beginTrim (setQueue s se n { q with current := some d, gen := q.gen + 1, tile := 0 }) se d) se
  else setQueue s se n { q with shadow := some d, gen := q.gen + 1 }

/-- An accepted arm (R317). -/
def armDesc (s : State) (se : Nat) (b : List Byte) : State := armFrom s se b []

/-- Of the runs that a cancelled mesh-to-stack descriptor had written, those whose copies the replay of their micro-batch restarts from
(R222): it needs no other engine to send them again. -/
def runsKept (s : State) (b : List Byte) (done : List Nat) : List Nat :=
  let copies := (s.stp.work.filter (fun w => w.seq % 2 ^ 32 == dsSequence b)).flatMap (fun w => w.restart)
  if dsDir b = 1 then done.filter (fun j => copies.any (fun r => decide ((r.addr : Int) = runAt b (dsDest b) j))) else []

/-- An arm of the placement's schedule, made by the active management core once its queue has room (R317). -/
def armScheduled (s : State) (se : Nat) (b : List Byte) (done : List Nat) : State :=
  if canArm s se b then armFrom s se b (runsKept s b done)
  else { s with streams := { s.streams with rearm := s.streams.rearm ++ [(se, b, done)] } }

/-- Descriptors of the placement's schedule, and those that the replay of their micro-batch arms again, armed in the order in which they
come, once that replay has begun and where their queue has room (R317; R318: the replay arms them; DEDUCED, assumption log 96). -/
def rearmReplayed (s : State) : State :=
  let waits (e : Nat × List Byte × List Nat) : Bool :=
    (s.stp.replayPending ++ s.grid.abandoned).any (fun m => m % 2 ^ 32 == dsSequence e.2.1)
  let due := s.streams.rearm.filter (fun e => !waits e)
  due.foldl (fun s e => armScheduled s e.1 e.2.1 e.2.2)
    { s with streams := { s.streams with rearm := s.streams.rearm.filter waits } }

/-- The check of a write to ARM (R308, R317). -/
def armCheck (se : Nat) (s : State) (b : List Byte) : Nat :=
  if !descOk s se b then stBadValue else if !canArm s se b then stQueueFull else stOk

/-- ARM (R317). -/
def execArm (se : Nat) (w : DReq) (s : State) : Host.Outcome State Fault Refusal :=
  .next (if 32 ≤ se then s else ownWriteDom s (Key.seArm se) w (armCheck se) (fun s b => armDesc s se b))

/-- The stream engine of a crescent that an endpoint from `base` on names: SE(8j + i) at `base` + i (R306). -/
def endpointSe (base crescent endpoint : Nat) : Option Nat :=
  if base ≤ endpoint ∧ endpoint < base + 8 ∧ crescent < 4 then some (8 * crescent + (endpoint - base)) else none

/-- Whether a stream engine is present and its clock runs (R3, R414: a gated unit does no work). -/
def seLive (s : State) (se : Nat) : Bool := bit (sePresent s.variant) se && bit (getN s Key.clockEnableSe) se

/-- ARM_PACKET (R306, R317): one flit to endpoint 0x00 + i that holds the descriptor. -/
def execArmPacket (ep : Endpoint) (p : Packet) (s : State) : Host.Outcome State Fault Refusal :=
  let b := flitBytes p.flits
  .next (match endpointSe 0 ep.crescent ep.number with
    | none => s
    | some se =>
      if !seLive s se then s
      else if p.flits.length != 1 || anyPoison p.flits || !descOk s se b || !canArm s se b then
        raise (count64 s (Key.seArmsRefused se)) Key.streamFlags 1
      else armDesc s se b)

/-- The effect of CANCEL (R318): CURRENT issues no further runs. -/
def cancelEffect (se : Nat) (s : State) (v : Nat) : State :=
  let q := getQueue s se v
  setQueue s se v { q with current := q.current.map (fun d => { d with cancelled := true }) }

/-- CANCEL (R318). -/
def execCancel (se : Nat) (w : WReq) (s : State) : Host.Outcome State Fault Refusal :=
  .next (if 32 ≤ se then s else ownWrite s (Key.seCancel se) w noCheck (cancelEffect se))

/-! ### Completion (R311) -/

/-- The rows of a trimmed stream, of one of its tiles, and the bytes of a row (R209). -/
structure TrimGeo where
  rows : Nat
  rowsPerTile : Nat
  rowBytes : Nat

/-- The rows of a trimmed descriptor (R209): a weight row is one panel row of the group that a COPY run reads (R309), and a tile is the
rows of one image of ASSEMBLE, or what the placement plans for the stream; a stream of no group has the rows that the placement plans, one to
a run where it plans none (DESIGN CHOICE, assumption log 86). -/
def trimPlan (s : State) (se : Nat) (b : List Byte) : TrimGeo :=
  let total := dsRunBytes b * dsRunCount b
  let plan := s.placement.bind (fun p => p.trims.find? (fun t => t.se == se && t.queue == dsQueue b && t.entry == dsEntry b))
  match (if dsCopy b = 0 then none else groupDesc s (dsGroup b)), plan with
  | some d, t =>
    let rb := max (gdPanel d * gdW d) 1
    ⟨(total + rb - 1) / rb, max (if dsAssemble b then 64 / gdW d else (t.map (fun t => t.rowsPerTile)).getD 1) 1, rb⟩
  | none, some t => ⟨t.rows, max t.rowsPerTile 1, total / max t.rows 1⟩
  | none, none => ⟨dsRunCount b, 1, dsRunBytes b⟩

/-- The rows of tiles already sent. -/
def rowsSent (q : Queue) (t : TrimGeo) : Nat := q.tile * t.rowsPerTile

/-- The rows of the next tile. -/
def tileRows (q : Queue) (t : TrimGeo) : List Nat :=
  upFrom (rowsSent q t) (min t.rowsPerTile (t.rows - rowsSent q t))

/-- Where the stream's bytes of the first `n` rows end. -/
def rowsEnd (b : List Byte) (t : TrimGeo) (n : Nat) : Nat := min (n * t.rowBytes) (dsRunBytes b * dsRunCount b)

/-- The trimmed descriptor of a queue whose next tile is fetched: its rows are granted. A cancelled one still sends what is granted
(R318). -/
def tileReady (s : State) (se qn : Nat) : Option Desc :=
  let q := getQueue s se qn
  match q.current with
  | none => none
  | some d =>
    let plan := trimPlan s se d.bytes
    let rows := tileRows q plan
    if dsTrim d.bytes && rows != [] &&
        decide (rowsEnd d.bytes plan (rowsSent q plan + rows.length) ≤ d.nextRun * dsRunBytes d.bytes) then some d
    else none

/-- The runs of a trimmed descriptor that are granted and not all sent (R313); those of another stream are sent as they are granted. -/
def runsHeld (q : Queue) (t : TrimGeo) (b : List Byte) (granted : Nat) : Nat :=
  if t.rows ≤ rowsSent q t then 0 else granted - rowsSent q t * t.rowBytes / dsRunBytes b

/-- Whether the work of a queue's CURRENT is over: a cancelled descriptor's when its outstanding runs have finished (R318). -/
def descOver (s : State) (se qn : Nat) (d : Desc) : Bool :=
  if d.cancelled then d.outstanding == 0 || (tileReady s se qn).isNone
  else d.outstanding == 0 &&
    (if dsTrim d.bytes then decide ((trimPlan s se d.bytes).rows ≤ rowsSent (getQueue s se qn) (trimPlan s se d.bytes))
     else if dsDir d.bytes = 0 then decide (dsRunCount d.bytes ≤ d.nextRun)
     else decide (dsRunCount d.bytes ≤ d.done.length))

/-- The completion word (R311). -/
def completionWord (s : State) (d : Desc) : List Byte :=
  let status := if d.cancelled then 2 else b2n d.poisoned
  [d.generation] ++ leBytes 1 status ++ leBytes 2 (min d.late 0xFFFF) ++ leBytes 4 (dsSequence d.bytes) ++ leBytes 8 (beatNow s)

/-- A completed mesh-to-stack descriptor of output gradients counts for its micro-batch (R227); any other that ran to its end is kept for
a replay of the step (assumption log 96). -/
def noteServed (s : State) (se qn : Nat) (d : Desc) : State :=
  let named := s.placement.any (fun p => p.gradients.any (fun g => g.1 == se && g.2.1 == qn))
  if d.cancelled then s
  else if dsDir d.bytes = 1 then
    (if named then { s with stp := { s.stp with outGrads := (queueKey se qn, dsSequence d.bytes) :: s.stp.outGrads } } else s)
  else { s with streams := { s.streams with served := s.streams.served ++ [(se, d.bytes)] } }

/-- DESCRIPTOR_COMPLETE (R311, R317): the completion word is written and SHADOW moves to CURRENT. -/
def execDescriptorComplete (se queue : Nat) (s : State) : Host.Outcome State Fault Refusal :=
  let q := getQueue s se queue
  .next (match q.current with
    | none => s
    | some d =>
      if !descOver s se queue d then s
      else
        let t := setQueue (noteServed s se queue d) se queue { q with current := q.shadow, shadow := none, completion := completionWord s d, tile := 0 }
        refreshSe (rearmReplayed (match q.shadow with
          | some n => beginTrim t se n
          | none => t)) se)

/-! ### Packets of a run (R309) -/

/-- The slot that a COPY run reads: the active slot of the group's first local block, read once for the run (R303). -/
def runSlot (s : State) (st : Nat) (b : List Byte) : Nat :=
  if dsCopy b = 0 then 0
  else
    match groupDesc s (dsGroup b) with
    | none => 0
    | some d =>
      match (List.range (gdBlocks d)).find? (fun x => blockStack d x == st) with
      | none => 0
      | some blk => activeSlot s (readPtr s d blk)

/-- What a slot adds to an address of a COPY run: SOURCE names slot 0. -/
def slotOff (s : State) (b : List Byte) (slot : Nat) : Nat :=
  if dsCopy b = 0 ∨ slot = 0 then 0
  else
    match groupDesc s (dsGroup b) with
    | none => 0
    | some d => let n := if dsCopy b = 1 then arrFwd 0 else arrTrn 0; arrOff d (n + 1) - arrOff d n

/-- The address, in slot 0 for a COPY run, of a byte of the stream's runs laid end to end. -/
def streamByte (b : List Byte) (pos : Nat) : Nat := (runAt b (dsSource b) (pos / dsRunBytes b)).toNat + pos % dsRunBytes b

/-- The SCALE, in a slot, of the square that holds the code at an offset of a group's FWD or TRN array, and whether its line is poisoned. -/
def scaleAt (s : State) (st : Nat) (b : List Byte) (slot off : Nat) : Nat × Bool :=
  match groupDesc s (dsGroup b) with
  | none => (0, false)
  | some d =>
    let o := off / gdW d
    let nl := gdLocal d
    let place := (gdStacks d).idxOf st
    let rows := if dsCopy b = 1 then gdRows d else nl
    let p := o / (rows * gdPanel d)
    let r := o % (rows * gdPanel d) / gdPanel d
    let c := o % gdPanel d
    let k := if dsCopy b = 1 then r else p * gdPanel d + c
    let n := place * nl + (if dsCopy b = 1 then p * gdPanel d + c else r)
    let blk := 4 * (k / 32 * (gdCols d / 32) + n / 32)
    (readScale s d blk slot, gdScaled d && stkPoisoned s (blockAddr d blk (arrScale slot) 1) 1)

/-- The byte positions within a run that packet `i` takes, in packet order: the run's own order, or the images of ASSEMBLE. -/
def packetBytes (s : State) (b : List Byte) (i : Nat) : List Nat :=
  let size := 64 * dsFlits b
  if !dsAssemble b then upFrom (i * size) size
  else
    match groupDesc s (dsGroup b) with
    | none => upFrom (i * size) size
    | some d =>
      let w := gdW d
      let slices := gdPanel d / 16
      let g := i / slices
      let sl := i % slices
      let rows := 64 / w
      (List.range 16).flatMap (fun r => (List.range rows).flatMap (fun x =>
        upFrom (((g * rows + x) * gdPanel d + 16 * sl + r) * w) w))

/-- The parameter flit of packet `n` (R153, R309): 32 entries of 2 bytes. `src` is where the packet's bytes lie in the stream, and `slot`
says which slot each was read from. -/
def paramFlit (s : State) (st : Nat) (b : List Byte) (n : Nat) (src : List Nat) (slot : Nat → Nat) : List Flit :=
  if dsExp b = 0 then []
  else if dsCopy b = 0 then
    let g := 2 ^ dsGroupG b
    let at_ (k : Nat) := stackAddr st (64 * dsParam b) + 2 * (n * (32 / g) + k / g)
    [⟨(List.range 32).flatMap (fun k => stkRead s (at_ k) 2), (List.range 32).any (fun k => stkPoisoned s (at_ k) 2)⟩]
  else
    let first := match groupDesc s (dsGroup b) with
      | some d => arrAddr d st (if dsCopy b = 1 then arrFwd 0 else arrTrn 0) 0
      | none => 0
    let sc (k : Nat) := let p := src.getD (32 * k) 0; scaleAt s st b (slot p) (streamByte b p - first)
    [⟨(List.range 32).flatMap (fun k => leBytes 2 (sc k).1), (List.range 32).any (fun k => (sc k).2)⟩]

/-- Packet `n` of a stream (R309): parameter flit, data flits and trailer. `src` is where its bytes lie in the stream, `slot` which slot
each is read from, and `zero` which are sent as zeros (R209). -/
def buildPacket (s : State) (st : Nat) (b : List Byte) (n : Nat) (src : List Nat) (slot : Nat → Nat) (zero : Nat → Bool) : Packet :=
  let at_ (p : Nat) : Nat := streamByte b p + slotOff s b (slot p)
  let flit (f : Nat) : Flit :=
    let ps := (src.drop (64 * f)).take 64
    ⟨ps.map (fun p => if zero p then 0 else memRead s.stk.mem (at_ p)), ps.any (fun p => !zero p && stkPoisoned s (at_ p) 1)⟩
  let body := paramFlit s st b n src slot ++ (List.range (dsFlits b)).map flit
  let word : W32 := BitVec.ofNat 32 (dsSequence b % 2 ^ 16 * 2 ^ 16 + n % 2 ^ 16)
  let tr := if dsTrailer b then [⟨trailerOf word (flitBytes body), false⟩] else []
  ⟨withLength (BitVec.ofNat 64 (dsDest b)) (dsPacket b), 3, body ++ tr⟩

/-- Poisoned flits that a stream moved (R319). -/
def countPoison (s : State) (se n : Nat) : State :=
  if n = 0 then s else raise (addN s (Key.seFlitsPoisoned se) 64 n) Key.streamFlags 3

/-- Packets sent into the mesh by a stream engine: injection, poisoned flits counted (R319). -/
def sendPackets (s : State) (se : Nat) (ps : List Packet) : State :=
  let n := ((ps.flatMap (fun p => p.flits)).filter (fun f => f.poison)).length
  let s := ps.foldl (fun s p => crescentInject s (se / 8) (some (se % 8)) p) s
  countPoison s se n

/-- Whether any flit of packets is poisoned. -/
def packetsPoisoned (ps : List Packet) : Bool := ps.any (fun p => anyPoison p.flits)

/-- The region kind of a frame of a stack (R299, R325). -/
def regionKind (s : State) (st f : Nat) : Nat :=
  let bs := getDom s Key.regionTable
  let e := (List.range 16).map (fun i => field bs (128 * st + 8 * i) 8)
  match e.find? (fun v => bits v 55 32 != 0 && decide (bits v 31 8 ≤ f) && decide (f < bits v 31 8 + bits v 55 32)) with
  | some v => bits v 3 0
  | none => 0

/-- Whether an address lies in a LAYBY region. -/
def inLayby (s : State) (a : Nat) : Bool := regionKind s (addrStack a) (addrOff a / 65536) == 4

/-- Layby bytes counted (R305). -/
def countLayby (s : State) (a n : Nat) : State := if inLayby s a then addN s Key.laybyStackBytes 64 n else s

/-- Bytes written to the layby by a stream of a micro-batch: counted, and kept as its copy (R222, R305). -/
def writeLayby (s : State) (seq a n : Nat) : State :=
  if inLayby s a then
    let s := addN s Key.laybyStackBytes 64 n
    { s with stp := { s.stp with layby := ⟨seq, a, n⟩ :: s.stp.layby.filter (fun r => r.addr != a) } }
  else s

/-! ### Grants (R313, R314) -/

/-- The beat of a deadline: one on a number that a stretch run skips takes the next (R403). -/
def deadlineBeat (s : State) (d : Desc) : Nat :=
  let b := dsDeadline d.bytes
  if s.beat.skips.any (fun k => k % 2 ^ 48 == b) then b + 1 else b

/-- The need time of a queue's next run (ns), from the boundary of the current beat. -/
def needTime (s : State) (d : Desc) : Int :=
  let beats := signed 48 (deadlineBeat s d + 2 ^ 48 - beatNow s % 2 ^ 48)
  beats * (1000 * getN s Key.beatPeriodUs : Nat) + (d.nextRun * dsPace d.bytes : Nat)

/-- The bytes that the outstanding runs of a stream engine hold in its run buffer (R306). -/
def bufferHeld (s : State) (se : Nat) : Nat :=
  ((List.range 32).map (fun q => match (getQueue s se q).current with
    | some d => d.outstanding * dsRunBytes d.bytes
    | none => 0)).sum

/-- Whether a queue is eligible for a grant (R314): the run buffer holds 256 KiB (R306). -/
def eligible (s : State) (se q : Nat) : Option Desc :=
  match (getQueue s se q).current with
  | none => none
  | some d =>
    if s.streams.stopped ∨ dsDir d.bytes = 1 ∨ d.cancelled ∨ dsRunCount d.bytes ≤ d.nextRun ∨
        262144 < bufferHeld s se + dsRunBytes d.bytes ∨
        (field (getDom s (Key.seOutstandingLimits se)) q 1) ≤ d.outstanding then none
    else some d

/-- The queue granted by the controller of a stack: the smallest need time; a tie goes to the lower stack queue (R314). -/
def grantChoice (s : State) (stack : Nat) : Option (Nat × Nat × Desc) :=
  let qs := (List.range 64).filterMap (fun n =>
    let se := 2 * stack + n / 32
    (eligible s se (n % 32)).map (fun d => (se, n % 32, d)))
  match qs with
  | [] => none
  | q :: rest => some (rest.foldl (fun a b => if needTime s b.2.2 < needTime s a.2.2 then b else a) q)

/-- A granted run counted, with its lateness (R314, R324). -/
def countRun (s : State) (se : Nat) (late : Bool) : State :=
  let s := count64 s (Key.seRunsIssued se)
  if late then raise (count64 s (Key.seLateRuns se)) Key.streamFlags 2 else s

/-- The rows of a trimmed stream that begin in run `j`. -/
def runRows (b : List Byte) (t : TrimGeo) (j : Nat) : List Nat :=
  (List.range t.rows).filter (fun r => r * t.rowBytes / dsRunBytes b == j)

/-- The predicted rows among some (R209, R211); a stream whose entry has PREDICT_MODE 0 in force takes every row. -/
def predictedOf (s : State) (b : List Byte) (t : TrimState) (rows : List Nat) : List Nat :=
  if (layerMode s (dsEntry b)).1 = 0 then rows
  else match t.predicted with
    | none => rows
    | some ps => rows.filter ps.contains

/-- Rows read from the stack in a slot: their layby bytes counted. -/
def readRows (s : State) (b : List Byte) (t : TrimGeo) (slot : Nat) (rows : List Nat) : State :=
  rows.foldl (fun s r => countLayby s (streamByte b (r * t.rowBytes) + slotOff s b slot) (rowsEnd b t (r + 1) - r * t.rowBytes)) s

/-- The rows that the grant of run `j` of a trimmed stream reads: its predicted rows (R209 step 1). -/
def rowsGranted (s : State) (se : Nat) (b : List Byte) (j : Nat) : List Nat :=
  predictedOf s b (getTrim s se b) (runRows b (trimPlan s se b) j)

/-- Run `j` of a trimmed stream granted: only its predicted rows are read (R209 step 1), from the slot that the run finds (R303). -/
def grantTrimmed (s : State) (se : Nat) (b : List Byte) (j : Nat) (late : Bool) (errs : StackErrs) : State :=
  let st := se / 2
  let t := getTrim s se b
  let rows := rowsGranted s se b j
  let slot := runSlot s st b
  let s := if rows = [] then s else readRows (countRun (meetErrors s st errs) se late) b (trimPlan s se b) slot rows
  setTrim s se b { t with runs := t.runs ++ [(j, slot)] }

/-- A stack-to-stack run copied line by line (R310), with poison (R319). -/
def copyRun (s : State) (from_ to_ n : Nat) : State :=
  (List.range (n / 64)).foldl (fun s l =>
    stkWrite s (to_ + 64 * l) (stkRead s (from_ + 64 * l) 64) (stkPoisoned s (from_ + 64 * l) 64)) s

/-- STACK_GRANT (R314): the next run is read and sent, copied, or, for a trimmed stream, its predicted rows are fetched. -/
def execStackGrant (stack : Nat) (late : Bool) (errs : StackErrs) (s : State) : Host.Outcome State Fault Refusal :=
  .next (if getN s (Key.msStackState stack) != 0 || decide (16 ≤ stack) then s
    else match grantChoice s stack with
    | none => s
    | some (se, qn, d) =>
      let b := d.bytes
      let j := d.nextRun
      let n := dsRunBytes b
      let q := getQueue s se qn
      let d := { d with nextRun := j + 1, late := d.late + b2n (late && (!dsTrim b || rowsGranted s se b j != [])) }
      if dsTrim b then
        setQueue (grantTrimmed s se b j late errs) se qn { q with
          moved := true
          current := some { d with outstanding := runsHeld q (trimPlan s se b) b (j + 1) } }
      else
        let s := countRun (meetErrors s stack errs) se late
        let slot := runSlot s stack b
        let a := streamByte b (j * n) + slotOff s b slot
        if dsDir b = 2 then
          let to_ := dsDest b + j * n
          let pn := ((linesOf a n).filter s.stk.poison.contains).length
          writeLayby (countLayby (countPoison (setQueue (copyRun s a to_ n) se qn { q with
            moved := true
            current := some { d with done := nsIns j d.done, poisoned := d.poisoned || pn != 0 } }) se pn) a n) (dsSequence b) to_ n
        else
          let per := n / (64 * dsFlits b)
          let ps := (List.range per).map (fun i =>
            buildPacket s stack b (j * per + i) ((packetBytes s b i).map (fun p => j * n + p)) (fun _ => slot) (fun _ => false))
          let s := setQueue s se qn { q with
            moved := true
            current := some { d with poisoned := d.poisoned || packetsPoisoned ps, packets := (j + 1) * per } }
          countLayby (sendPackets s se ps) a n)

/-! ### Inbound streams (R310) -/

/-- The run that an inbound packet names. -/
def inboundRun (d : Desc) (p : Packet) : Option Nat :=
  let k := dsRunBytes d.bytes / 64
  if p.flits.length ≠ k + 1 then none
  else
    let payload := flitBytes (p.flits.take k)
    let tr := flitBytes (p.flits.drop k)
    (List.range (dsRunCount d.bytes)).find? (fun j =>
      trailerHolds (BitVec.ofNat 32 (dsSequence d.bytes % 2 ^ 16 * 2 ^ 16 ||| j)) payload tr)

/-- An inbound packet discarded. -/
def discardInbound (s : State) (se : Nat) : State := count64 s (Key.seInboundDiscarded se)

/-- A packet accepted for run `j` of a mesh-to-stack stream: its payload written, with its poison (R295, R310, R319); a run delivered after
its need time counts as late (R311, R314). -/
def acceptInbound (s : State) (se queue j : Nat) (d : Desc) (p : Packet) (late : Bool) : State :=
  let q := getQueue s se queue
  let a := (runAt d.bytes (dsDest d.bytes) j).toNat
  let k := dsRunBytes d.bytes / 64
  let fs := p.flits.take k
  let pn := (fs.filter (fun f => f.poison)).length
  let s := (List.range k).foldl (fun s i =>
    match fs[i]? with
    | some f => stkWrite s (a + 64 * i) (slice f.data 0 64) f.poison
    | none => s) s
  let s := setQueue s se queue { q with
    moved := true
    current := some { d with done := nsIns j d.done, poisoned := d.poisoned || pn != 0, late := d.late + b2n late } }
  let s := if late then raise (count64 s (Key.seLateRuns se)) Key.streamFlags 2 else s
  let s := writeLayby s (dsSequence d.bytes) a (64 * k)
  countPoison s se pn

/-- A packet at the inbound endpoint of a queue (R310). -/
def inboundAt (s : State) (se queue : Nat) (p : Packet) (late : Bool) : State :=
  match (getQueue s se queue).current with
  | none => discardInbound s se
  | some d =>
    if dsDir d.bytes ≠ 1 ∨ d.cancelled then discardInbound s se
    else
      match inboundRun d p with
      | none => discardInbound s se
      | some j => if d.done.contains j then discardInbound s se else acceptInbound s se queue j d p late

/-- INBOUND_PACKET (R306, R310): at endpoint 0x80 + 16i + q, queue q of SE(8j + i). -/
def execInboundPacket (crescent endpoint : Nat) (p : Met Packet Bool) (s : State) : Host.Outcome State Fault Refusal :=
  let se := 8 * crescent + (endpoint - 0x80) / 16
  .next (if 4 ≤ crescent || decide (endpoint < 0x80) || 256 ≤ endpoint || !seLive s se then s
    else inboundAt s se ((endpoint - 0x80) % 16) p.val p.errs)

/-! ### Trimmed streams (R207 to R212) -/

/-- The map sources of a trimmed descriptor, as core words (object 7010–702F:09). -/
def mapSources (s : State) (se : Nat) (b : List Byte) : List Nat :=
  (upFrom (dsMapFirst b) (dsMapCount b)).map (fun i => field (getDom s (Key.seMapSourceTable se)) (4 * i) 4 % 2 ^ 18)

/-- The queues whose CURRENT is a trimmed stream of a layer entry for a micro-batch. -/
def trimQueues (s : State) (se entry seq : Nat) : List (Nat × Desc) :=
  (List.range 32).filterMap (fun q => match (getQueue s se q).current with
    | some d => if dsTrim d.bytes && dsEntry d.bytes == entry && dsSequence d.bytes == seq then some (q, d) else none
    | none => none)

/-- The rows made nonzero by a map's bits. -/
def mapRows (bs : List Byte) (first width rows : Nat) : List Nat :=
  ((List.range (8 * bs.length)).filter (fun i => bit (field bs (i / 8) 1) (i % 8))).filterMap (fun i =>
    let r := (first + i) / width
    if r < rows then some r else none)

/-- Whether a map packet is well formed, by itself (R208, R210). -/
def mapPacketOk (p : Packet) : Bool :=
  let h := flitBytes (p.flits.take 1)
  let n := field h 1 1
  decide (p.flits.length = n + 2) && decide (1 ≤ n) && decide (n ≤ 62) && decide (field h 0 1 < 64) && field h 2 2 == 0 &&
    field h 8 4 % 512 == 0 && decide (field h 12 4 < 2 ^ 18) && (slice h 16 48).all (· == 0) && !anyPoison p.flits &&
    trailerHolds (BitVec.ofNat 32 (field h 4 4)) (flitBytes (p.flits.take (n + 1))) (flitBytes (p.flits.drop (n + 1)))

/-- Whether the tile of a map's first row has yet to be sent by a queue. -/
def mapInTime (s : State) (se : Nat) (h : List Byte) (qd : Nat × Desc) : Bool :=
  decide (rowsSent (getQueue s se qd.1) (trimPlan s se qd.2.bytes) ≤ field h 8 4 / (layerMode s (field h 0 1)).2)

/-- A map packet ORed into the nonzero set of one stream (R209 step 2). -/
def addMap (s : State) (se : Nat) (p : Packet) (b : List Byte) : State :=
  let h := flitBytes (p.flits.take 1)
  let t := getTrim s se b
  let n := field h 1 1
  let first := field h 8 4
  let rows := mapRows (flitBytes ((p.flits.drop 1).take n)) first (layerMode s (dsEntry b)).2 (trimPlan s se b).rows
  let cover (a : List (Nat × Nat)) (f : Nat) : List (Nat × Nat) :=
    let k := (field h 12 4, first / 512 + f)
    if a.contains k then a else a ++ [k]
  setTrim s se b { t with
    nonzero := rows.foldl (fun a r => nsIns r a) t.nonzero
    covered := (List.range n).foldl cover t.covered }

/-- A map packet at a stream engine: ORed into the sets of the streams of its entry and micro-batch whose tile is still to send, and
discarded where there is none (R210). -/
def mapAt (s : State) (se : Nat) (p : Packet) : State :=
  let h := flitBytes (p.flits.take 1)
  let e := field h 0 1
  let qs := (trimQueues s se e (field h 4 4)).filter (mapInTime s se h)
  if mapPacketOk p ∧ qs ≠ [] then qs.foldl (fun s qd => addMap s se p qd.2.bytes) s
  else if e < 64 then count64 s (Key.layerMapsDiscarded e)
  else s

/-- MAP_PACKET_RECEIVE (R210, R306): at endpoint 0x10 + i of a crescent. -/
def execMapPacketReceive (ep : Endpoint) (p : Packet) (s : State) : Host.Outcome State Fault Refusal :=
  .next (match endpointSe 0x10 ep.crescent ep.number with
    | none => s
    | some se => if !seLive s se then s else mapAt s se p)

/-- Whether every map source has delivered a map that covers rows (R209). -/
def mapsCover (s : State) (se : Nat) (b : List Byte) (t : TrimState) (width : Nat) (rows : List Nat) : Bool :=
  (mapSources s se b).all (fun src => rows.all (fun r => t.covered.contains (src, r * width / 512)))

/-- The counters of a tile sent: rows, predicted, nonzero, missed and wasted (R215), and the stall of its catch-up fetch. -/
def countTile (s : State) (e : Nat) (rows pred ns missed wasted stallNs : Nat) : State :=
  let s := addN (addN (addN s (Key.layerRowsTotal e) 64 rows) (Key.layerRowsPredicted e) 64 pred) (Key.layerRowsNonzero e) 64 ns
  let s := addN (addN s (Key.layerRowsMissed e) 64 missed) (Key.layerRowsWasted e) 64 wasted
  if missed = 0 then s else raise (addN s (Key.layerCatchupStallNs e) 64 stallNs) Key.sparsityFlags 3

/-- A trimmed tile sent with its nonzero rows `ns` (R209 steps 4 and 5). The catch-up fetch of its missed rows is a run of its own (R309),
which reads the slot that it finds. The tile's packets are those whose bytes its rows and the rows before end. After the last tile N becomes
the next prediction, but not of an abandoned micro-batch (R211). -/
def sendTile (s : State) (se qn : Nat) (d : Desc) (ns : List Nat) (stallNs : Nat) (errs : StackErrs) : State :=
  let b := d.bytes
  let st := se / 2
  let plan := trimPlan s se b
  let q := getQueue s se qn
  let t := getTrim s se b
  let rows := tileRows q plan
  let rb := plan.rowBytes
  let pred := predictedOf s b t rows
  let missed := ns.filter (fun r => !pred.contains r)
  let s := meetErrors s st errs
  let now := runSlot s st b
  let s := if missed = [] then s else readRows (countRun s se false) b plan now missed
  let slot (p : Nat) : Nat :=
    if missed.contains (p / max rb 1) then now
    else ((t.runs.find? (fun r => r.1 == p / dsRunBytes b)).map Prod.snd).getD now
  let due := rowsEnd b plan (rowsSent q plan + rows.length) / (64 * dsFlits b)
  let per := due - d.packets
  let sent := t.nonzero ++ ns
  let ps := (upFrom d.packets per).map (fun i =>
    buildPacket s st b i (packetBytes s b i) slot (fun p => !sent.contains (p / max rb 1)))
  let s := countTile (sendPackets s se ps) (dsEntry b) rows.length pred.length ns.length missed.length
    (pred.filter (fun r => !ns.contains r)).length stallNs
  let t := { t with nonzero := (t.nonzero ++ ns).foldl (fun a r => nsIns r a) [] }
  let q := { q with moved := true, tile := q.tile + 1 }
  let q := { q with current := some { d with
      packets := d.packets + per
      poisoned := d.poisoned || packetsPoisoned ps
      outstanding := runsHeld q plan b d.nextRun } }
  setTrim (setQueue s se qn q) se b (if plan.rows ≤ rowsSent q plan && !t.dropped then { t with predicted := some t.nonzero } else t)

/-- TRIMMED_TILE_SEND (R209): every map of the tile is in; an entry with PREDICT_MODE 0 sends every row. -/
def execTrimmedTileSend (se queue : Nat) (stallNs : Nat) (errs : StackErrs) (s : State) : Host.Outcome State Fault Refusal :=
  .next (match tileReady s se queue with
    | none => s
    | some d =>
      let m := layerMode s (dsEntry d.bytes)
      let rows := tileRows (getQueue s se queue) (trimPlan s se d.bytes)
      let t := getTrim s se d.bytes
      if m.1 = 0 then sendTile s se queue d rows 0 errs
      else if mapsCover s se d.bytes t m.2 rows then sendTile s se queue d (rows.filter t.nonzero.contains) stallNs errs
      else s)

/-- MAP_WAIT_EXPIRY (R209, R210): the tile is sent with every row taken as nonzero. -/
def execMapWaitExpiry (se queue : Nat) (errs : StackErrs) (s : State) : Host.Outcome State Fault Refusal :=
  .next (match tileReady s se queue with
    | none => s
    | some d =>
      let m := layerMode s (dsEntry d.bytes)
      let rows := tileRows (getQueue s se queue) (trimPlan s se d.bytes)
      if m.1 = 0 || mapsCover s se d.bytes (getTrim s se d.bytes) m.2 rows then s
      else
        let s := raise (count64 s (Key.layerMapsLate (dsEntry d.bytes))) Key.sparsityFlags 4
        sendTile s se queue d rows 0 errs)

end Sys2Proof.Machine
end

