-- ==== Sys2Proof/Machine/Ether.lean ====
section
/-! DEFINITION. The Ethernet ports and the gradient transport (14_ethernet_host.md R352 to R361, R375; 20_recovery.md R492). -/

namespace Sys2Proof.Machine

/-! ### Ports and datagrams (R353, R355, R356) -/

/-- EP_STATE codes: 0 DOWN, 1 TRAINING, 2 UP, 3 DISABLED. -/
def epSt (s : State) (p : Nat) : Nat := getN s (Key.epState p)

/-- The EP ports that are UP, ascending. -/
def upPorts (s : State) : List Nat := (List.range 8).filter (fun p => epSt s p == 2)

/-- The port on which datagrams of a sequence number and source leave (R356). -/
def portFor (s : State) (seq source : Nat) : Option Nat :=
  match upPorts s with
  | [] => none
  | ps => ps[(seq + source) % ps.length]?

/-- Bytes 0x00 to 0x1B of a datagram's header (R355). -/
def dgHeader (d : Datagram) : List Byte :=
  leBytes 1 d.version ++ leBytes 1 d.kind ++ leBytes 2 d.flags ++ leBytes 4 d.source ++ leBytes 4 d.dest ++ leBytes 4 d.epoch ++
    leBytes 8 d.msgSeq ++ leBytes 2 d.segment ++ leBytes 2 d.segments

/-- CHECK of a datagram. -/
def dgCheck (d : Datagram) : Nat := crc32c (dgHeader d ++ d.payload)

/-- A datagram of this engine. -/
def ownDatagram (s : State) (kind flags dest seq segment segments : Nat) (payload : List Byte) : Datagram :=
  let d : Datagram := ⟨1, kind, flags, ownAddr s, dest, getN s Key.epoch, seq, segment, segments, payload, true, 0⟩
  { d with check := BitVec.ofNat 32 (dgCheck d) }

/-- The IPv6 address of port `p` of an engine (R353): prefix and interface identifier, in network order. -/
def engineAddress (s : State) (a p : Nat) : List Byte := getDom s Key.enginePrefix ++ beBytes 8 (a * 256 + p)

/-- What surrounds a datagram that leaves on a port (R352, R353, R356). -/
def envelopeOf (s : State) (p : Nat) (d : Datagram) : Envelope where
  source := engineAddress s (ownAddr s) p
  dest := engineAddress s d.dest p
  hopLimit := 64
  dscp := getN s Key.dscp
  flowLabel := (d.source ^^^ d.dest ^^^ d.msgSeq) % 2 ^ 20
  udpPort := getN s Key.udpPort
  linkDest := (s.eth.resolved.find? (fun e => e.1 == p)).map Prod.snd

/-- A datagram leaves on a port; TX_BYTES counts its header and payload. -/
def sendDatagram (s : State) (p : Nat) (d : Datagram) : State :=
  emit (addN s (Key.epTxBytes p) 64 (32 + d.payload.length)) (.datagram p (envelopeOf s p d) d)

/-- KIND of a flow's messages: 1 DATA, 3 ENCAP. -/
def flowKind (encap : Bool) : Nat := if encap then 3 else 1

/-- The segments of a message (R356). -/
def segCount (bs : List Byte) : Nat := max ((bs.length + 8191) / 8192) 1

/-- One segment of a message sent; nothing leaves while no port is UP. -/
def sendSegment (s : State) (dest : Nat) (encap : Bool) (m : TxMsg) (again : Bool) (i : Nat) : State :=
  match portFor s m.seq (ownAddr s) with
  | none => s
  | some p =>
    let n := segCount m.bytes
    let d := ownDatagram s (flowKind encap) (b2n (i + 1 == n)) dest m.seq i n ((m.bytes.drop (8192 * i)).take 8192)
    let s := count64 s Key.segmentsSent
    let s := if again then raise (count64 s Key.segmentsRetransmitted) Key.ethFlags 0 else s
    sendDatagram s p d

/-! ### Sending flows (R356, R359) -/

def findTx (s : State) (dest : Nat) (encap : Bool) : Option TxFlow := s.eth.tx.find? (fun f => f.dest == dest && f.encap == encap)

/-- The state with a sending flow replaced. -/
def putTx (s : State) (f : TxFlow) : State :=
  { s with eth := { s.eth with tx := s.eth.tx.map (fun g => if g.dest == f.dest && g.encap == f.encap then f else g) } }

/-- The next waiting message of a flow is sent where the window has room and a port is UP. -/
def sendWaiting (s : State) (dest : Nat) (encap : Bool) : State :=
  match findTx s dest encap with
  | none => s
  | some f =>
    match f.waiting with
    | [] => s
    | bs :: rest =>
      if getN s Key.windowMessages ≤ f.unacked.length ∨ upPorts s = [] then s
      else
        let m : TxMsg := ⟨f.next, bs, [], true⟩
        let s := putTx s { f with waiting := rest, next := f.next + 1, unacked := f.unacked ++ [m] }
        (List.range (segCount bs)).foldl (fun s i => sendSegment s dest encap m false i) s

/-- Every message of one type that waits for a port and has room in its window. -/
def pumpType (s : State) (encap : Bool) : State :=
  (s.eth.tx.filter (fun f => f.encap == encap)).foldl (fun s f =>
    (List.range f.waiting.length).foldl (fun s _ => sendWaiting s f.dest f.encap) s) s

/-- Every message that waits for a port and has room in its window, ENCAP ahead of DATA (R377). -/
def pumpFlows (s : State) : State := pumpType (pumpType s true) false

/-- TRANSPORT_MESSAGE_SEND (R356): the next message of a flow; the ENCAP segments that wait on the ports go ahead of a DATA message (R377). -/
def execTransportMessageSend (dest : Nat) (encap : Bool) (s : State) : Host.Outcome State Fault Refusal :=
  .next (sendWaiting (if encap then s else pumpType s true) dest encap)

/-- The segments of a message not reported received. -/
def unreceived (m : TxMsg) : List Nat := (List.range (segCount m.bytes)).filter (fun i => !m.received.contains i)

/-- RETX_TIMEOUT (R359): the oldest message's unacknowledged segments again, behind the ENCAP segments that wait (R377); the wait doubles, up
to 64 times. -/
def execRetxTimeout (dest : Nat) (encap : Bool) (s : State) : Host.Outcome State Fault Refusal :=
  .next (match findTx s dest encap with
    | none => s
    | some f =>
      match f.unacked with
      | [] => s
      | m :: _ =>
        if upPorts s = [] then s
        else
          let s := if encap then s else pumpType s true
          (unreceived m).foldl (sendSegment · dest encap m true ·) (putTx s { f with backoff := min (2 * f.backoff) 64 }))

/-! ### Receiving flows and ACKs (R357, R358, R360) -/

def findRx (s : State) (source : Nat) (encap : Bool) : Option RxFlow :=
  s.eth.rx.find? (fun f => f.source == source && f.encap == encap)

/-- The state with a receiving flow replaced or added. -/
def putRx (s : State) (f : RxFlow) : State :=
  { s with eth := { s.eth with
      rx := (s.eth.rx.filter (fun g => !(g.source == f.source && g.encap == f.encap))) ++ [f] } }

/-- Whether every segment of a message is held. -/
def rxComplete (m : RxMsg) : Bool := (List.range m.segments).all (fun i => m.held.any (fun h => h.1 == i))

/-- The bitmap of the segments held. -/
def rxBitmap (m : RxMsg) : Nat := m.held.foldl (fun a h => a ||| 2 ^ h.1) 0

/-- The payload of an ACK (R358). -/
def ackPayload (f : RxFlow) : List Byte :=
  let ms := (sortBy (fun m => m.seq) (f.msgs.filter (fun m => !m.written))).take 16
  leBytes 1 (flowKind f.encap) ++ leBytes 3 0 ++ ms.flatMap (fun m => leBytes 8 m.seq ++ leBytes 2 (rxBitmap m) ++ leBytes 2 0)

/-- An ACK of a flow sent; it waits while no port is UP (R356, R358). -/
def sendAck (s : State) (f : RxFlow) : State :=
  match portFor s f.cum (ownAddr s) with
  | none => putRx s { f with owed := true }
  | some p => sendDatagram (putRx s { f with fresh := false, owed := false }) p (ownDatagram s 2 0 f.source f.cum 0 0 (ackPayload f))

/-- Whether an address is a peer-table entry or an engine of the link plan (R357). -/
def knownSource (s : State) (a : Nat) : Bool :=
  (List.range (getN s Key.replicas)).any (fun r => peerAddr s r == a || tableAddr s r == a) ||
    (planEntries s.aelif.plan).any (fun e => e != 0 && entryAddress e == a)

/-- The epoch held for a source (R357). -/
def heldEpoch (s : State) (a : Nat) : Option Nat := (s.eth.epochs.find? (fun e => e.1 == a)).map Prod.snd

/-- The epoch of a source taken from a datagram that is admitted (R360). -/
def holdEpoch (s : State) (d : Datagram) : State :=
  { s with eth := { s.eth with epochs := amIns d.epoch s.eth.epochs d.source } }

/-- A datagram discarded (R357). -/
def discardDatagram (s : State) : State := raise (count64 s Key.segmentsDiscarded) Key.ethFlags 1

/-- Whether the reserved values of a datagram are as R355 gives them; LAST is no reserved bit in any KIND. -/
def dgReservedOk (d : Datagram) : Bool :=
  d.version == 1 && decide (d.source < 2 ^ 18) && decide (d.dest < 2 ^ 18) &&
    (match d.kind with
      | 1 => decide (1 ≤ d.segments) && decide (d.segments ≤ 9) && decide (d.segment < d.segments) &&
          decide (d.flags < 2) && decide (d.payload.length ≤ 8192)
      | 2 => decide (d.flags < 2) && d.segment == 0 && d.segments == 0
      | 3 => decide (d.flags < 2) && d.segment == 0 && d.segments == 1 && decide (d.payload.length ≤ 8256)
      | _ => false)

/-- The messages of the step sent again to a rank's address in a new flow (R492). -/
def resendStep (s : State) (dest : Nat) : State :=
  let s := { s with eth := { s.eth with tx := s.eth.tx.filter (fun f => !(f.dest == dest && !f.encap)) } }
  (s.exch.sent.filter (fun e => e.1 == dest)).foldl (fun s e => ethEnqueue s dest false (xBytes e.2)) s

/-- A higher epoch of a source: its receive state is dropped, and a rank's messages of the step are sent again (R360, R492). -/
def newEpoch (s : State) (source : Nat) : State :=
  let s := { s with eth := { s.eth with rx := s.eth.rx.filter (fun f => f.source != source) } }
  resendStep (raise s Key.ethFlags 2) source

/-- The arrival counted on its port (R375). -/
def countArrival (s : State) (via : Arrival) (d : Datagram) : State :=
  let p := via.port.toNat
  addN (addN (addN s (Key.epRxBytes p) 64 (32 + d.payload.length)) (Key.epFecCorrected p) 64 via.fecCorrected)
    (Key.epFecUncorrectable p) 64 via.fecUncorrectable

/-- Whether a receiver takes a datagram (R352, R357). -/
def datagramOk (s : State) (kind : Nat) (via : Arrival) (d : Datagram) : Bool :=
  !via.extHeader && d.udpOk && d.check.toNat == dgCheck d && d.kind == kind && dgReservedOk d && d.dest == ownAddr s &&
    knownSource s d.source && decide ((heldEpoch s d.source).getD 0 ≤ d.epoch)

/-- A received datagram counted and admitted by R357, with the epoch rule of R360. -/
def admitDatagram (s : State) (kind : Nat) (via : Arrival) (d : Datagram) : State × Bool :=
  let s := countArrival s via d
  if !datagramOk s kind via d then (discardDatagram s, false)
  else
    let s := match heldEpoch s d.source with
      | some e => if e < d.epoch then newEpoch s d.source else s
      | none => s
    (holdEpoch s d, true)

/-- The receiving flow of a datagram. -/
def rxFlow (s : State) (d : Datagram) (encap : Bool) : RxFlow :=
  (findRx s d.source encap).getD ⟨d.source, encap, d.epoch, 0, [], false, false⟩

/-- The message of a flow that a segment belongs to. -/
def rxMsg (f : RxFlow) (d : Datagram) : RxMsg := (f.msgs.find? (fun m => m.seq == d.msgSeq)).getD ⟨d.msgSeq, d.segments, [], false⟩

/-- A flow with a message replaced or added. -/
def putMsg (f : RxFlow) (m : RxMsg) : RxFlow := { f with msgs := (f.msgs.filter (fun x => x.seq != m.seq)) ++ [m] }

/-- The crescent direction that faces an engine beyond a gap (R346, R361): a bridged one, where two directions lead to it. -/
def gapDirection (s : State) (a : Nat) : Option Nat :=
  let ds := (List.range 4).filter (fun d => entryAddress (neighbourEntry s d 2) == a)
  match ds.find? (dirBridged s) with
  | some d => some d
  | none => ds.head?

/-- The frames of an ENCAP message. -/
def encapFrames : Nat → List Byte → List AFrame
  | 0, _ => []
  | n + 1, bs => match frameOf bs with
    | none => []
    | some (f, rest) => f :: encapFrames n rest

/-- An ENCAP message handed to the crescent that faces its source, as frames accepted on the skip ports (R361). -/
def handEncap (s : State) (source : Nat) (m : RxMsg) : State :=
  match gapDirection s source with
  | none => s
  | some d => (encapFrames 4 (m.held.flatMap Prod.snd)).foldl (fun s f => crossFrame s (12 * d + 8) f) s

/-- The cumulative value moved over the written messages; ENCAP messages are handed over in that order. `fuel` bounds them. -/
def advanceCum (s : State) (f : RxFlow) : Nat → State × RxFlow
  | 0 => (s, f)
  | n + 1 =>
    match f.msgs.find? (fun m => m.seq == f.cum + 1 && m.written) with
    | none => (s, f)
    | some m =>
      let s := if f.encap then handEncap s f.source m else s
      advanceCum s { f with cum := f.cum + 1, msgs := f.msgs.filter (fun x => x.seq != m.seq) } n

/-- A message written: the flow moves on and an ACK leaves (R358). -/
def messageWritten (s : State) (f : RxFlow) (m : RxMsg) : State :=
  let r := advanceCum s (putMsg f { m with written := true }) (f.msgs.length + 1)
  sendAck r.1 r.2

/-- A whole DATA message given to the exchange (R357, R273): written, kept until it can be written, or discarded whole. -/
def deliverMessage (s : State) (f : RxFlow) (m : RxMsg) : State :=
  let bs := (sortBy Prod.fst m.held).flatMap Prod.snd
  let drop (s : State) : State := putRx s { f with msgs := f.msgs.filter (fun x => x.seq != m.seq) }
  match xOfBytes bs with
  | none => drop (count64 s Key.messagesRejected)
  | some x =>
    match verdict s x with
    | .rejected => drop (receiveMsg s x).1
    | .kept => putRx s (putMsg f m)
    | _ => messageWritten (receiveMsg s x).1 f m

/-- The messages held whole and not written are offered again (R273, R248). -/
def retryFlows (s : State) : State :=
  let waiting := s.eth.rx.flatMap (fun f => if f.encap then [] else
    ((sortBy (fun m => m.seq) f.msgs).filter (fun m => !m.written && rxComplete m)).map (fun m => (f.source, m)))
  waiting.foldl (fun s e => match findRx s e.1 false with
    | none => s
    | some f => match (xOfBytes ((sortBy Prod.fst e.2.held).flatMap Prod.snd)).map (verdict s) with
      | some .kept => s
      | _ => deliverMessage s f e.2) s

/-- A segment taken into its flow (R357). -/
def takeSegment (s : State) (d : Datagram) (encap : Bool) : State :=
  let f := rxFlow s d encap
  let m := rxMsg f d
  if d.msgSeq ≤ f.cum ∨ m.written ∨ m.held.any (fun h => h.1 == d.segment) then sendAck (count64 s Key.segmentsDuplicate) f
  else
    let m := { m with held := m.held ++ [(d.segment, d.payload)] }
    let f := { putMsg f m with fresh := true }
    if !rxComplete m then (if d.flags = 1 then sendAck s f else putRx s f)
    else if encap then messageWritten s f m
    else deliverMessage s f m

/-- DATAGRAM_DATA (R357). -/
def execDatagramData (d : Met Received StackErrs) (s : State) : Host.Outcome State Fault Refusal :=
  let r := admitDatagram s 1 d.val.via d.val.datagram
  .next (if r.2 then metStacks d.errs (fun s => takeSegment s d.val.datagram false) r.1 else r.1)

/-- DATAGRAM_ENCAP (R361). -/
def execDatagramEncap (d : Received) (s : State) : Host.Outcome State Fault Refusal :=
  let r := admitDatagram s 3 d.via d.datagram
  .next (if r.2 then takeSegment r.1 d.datagram true else r.1)

/-- The entries of an ACK's payload: message and bitmap. -/
def ackEntries (bs : List Byte) : List (Nat × Nat) :=
  (List.range (min ((bs.length - 4) / 12) 16)).map (fun i => (field bs (4 + 12 * i) 8, field bs (12 + 12 * i) 2))

/-- Whether an ACK's payload is well formed. -/
def ackOk (bs : List Byte) : Bool :=
  decide (4 ≤ bs.length) && (field bs 0 1 == 1 || field bs 0 1 == 3) && field bs 1 3 == 0 && (bs.length - 4) % 12 == 0 &&
    decide (bs.length ≤ 196) && (List.range ((bs.length - 4) / 12)).all (fun i => field bs (14 + 12 * i) 2 == 0)

/-- Whether an ACK's entries show a message above `seq` as received: listed with every segment (R359). One that the cumulative value covers
lies below none that is unacknowledged. -/
def higherReceived (es : List (Nat × Nat)) (us : List TxMsg) (seq : Nat) : Bool :=
  us.any (fun u => decide (seq < u.seq) && es.any (fun x => x.1 == u.seq && (List.range (segCount u.bytes)).all (bit x.2)))

/-- The segments of a message that an ACK has the sender send again (R359): those below a received segment of a message that it lists, and
every missing one where it shows a higher message as received. -/
def ackMissing (es : List (Nat × Nat)) (us : List TxMsg) (m : TxMsg) : List Nat :=
  let n := segCount m.bytes
  let gap := match es.find? (fun e => e.1 == m.seq) with
    | none => 0
    | some e => (List.range n).foldl (fun a i => if bit e.2 i then i else a) 0
  (List.range (if higherReceived es us m.seq then n else gap)).filter (fun i => !m.received.contains i)

/-- DATAGRAM_ACK (R359): missing segments of DATA leave behind the ENCAP segments that wait on the ports (R377). -/
def execDatagramAck (d : Received) (s : State) : Host.Outcome State Fault Refusal :=
  let r := admitDatagram s 2 d.via d.datagram
  let s := r.1
  let d := d.datagram
  .next (if !r.2 then s
    else if !ackOk d.payload then discardDatagram s
    else
      let encap := field d.payload 0 1 == 3
      match findTx s d.source encap with
      | none => s
      | some f =>
        let es := ackEntries d.payload
        let cum := max f.cum (min d.msgSeq (f.next - 1))
        let us := (f.unacked.filter (fun m => decide (cum < m.seq))).map (fun m => match es.find? (fun e => e.1 == m.seq) with
          | some e => { m with received := (List.range (segCount m.bytes)).filter (fun i => bit e.2 i || m.received.contains i) }
          | none => m)
        let s := putTx s { f with cum := cum, unacked := us, backoff := if f.cum < cum then 1 else f.backoff }
        let s := if encap then s else pumpType s true
        us.foldl (fun s m => (ackMissing es us m).foldl (sendSegment · d.source encap m true ·) s) s)

/-- ACK_DELAY_EXPIRY (R358). -/
def execAckDelayExpiry (source : Nat) (encap : Bool) (s : State) : Host.Outcome State Fault Refusal :=
  .next (match findRx s source encap with
    | some f => if f.fresh then sendAck s f else s
    | none => s)

/-! ### Ports (R356, R375, R548, R352) -/

/-- The ACKs that waited for a port leave (R356). -/
def sendOwed (s : State) : State := (s.eth.rx.filter (fun f => f.owed)).foldl sendAck s

/-- A Neighbor Solicitation for a port's GATEWAY, where its link address is not resolved (R352, R353). -/
def solicitGateway (s : State) (p : Nat) : State :=
  if s.eth.resolved.any (fun e => e.1 == p) || (getDom s (Key.epGateway p)).all (fun b => b == 0) then s
  else emit s (.solicit p (getDom s (Key.epGateway p)))

/-- EP_PORT_UP (R356): a port that is not DISABLED and not gated (R414) comes UP, its GATEWAY is asked for (R352), and
what waited leaves. -/
def execEpPortUp (port : BitVec 3) (s : State) : Host.Outcome State Fault Refusal :=
  .next (if epSt s port.toNat = 3 ∨ bit (getN s Key.clockEnableEp) port.toNat = false then s
    else sendOwed (pumpFlows (solicitGateway (setN s (Key.epState port.toNat) 2) port.toNat)))

/-- EP_PORT_DOWN (R548). -/
def execEpPortDown (port : BitVec 3) (s : State) : Host.Outcome State Fault Refusal :=
  .next (if epSt s port.toNat = 3 ∨ epSt s port.toNat = 0 then s else raise (setN s (Key.epState port.toNat) 0) Key.ethFlags 3)

/-- The effect of EP_ENABLE (R375). -/
def epEnableEffect (p : Nat) (s : State) (v : Nat) : State :=
  let s := setN s (Key.epEnable p) v
  if v = 0 then setN s (Key.epState p) 3 else if epSt s p = 3 then setN s (Key.epState p) 1 else s

/-- EP_ENABLE (R375). -/
def execEpEnable (port : BitVec 3) (w : WReq) (s : State) : Host.Outcome State Fault Refusal :=
  .next (ownWrite s (Key.epEnable port.toNat) w noCheck (epEnableEffect port.toNat))

/-- The IPv6 address of a port of this engine (R353). -/
def portAddress (s : State) (p : Nat) : List Byte := engineAddress s (ownAddr s) p

/-- NEIGHBOR_DISCOVERY_RECEIVE (R352): an advertisement resolves the port's GATEWAY; a solicitation for the port's own address is answered
with its link address. -/
def execNeighborDiscoveryReceive (port : BitVec 3) (advert : Bool) (target linkAddr : List Byte) (s : State) :
    Host.Outcome State Fault Refusal :=
  let p := port.toNat
  .next (if epSt s p ≠ 2 then s
    else if advert then
      (if target = getDom s (Key.epGateway p) then { s with eth := { s.eth with resolved := amIns linkAddr s.eth.resolved p } } else s)
    else if target = portAddress s p then emit s (.neighbour p (target ++ beBytes 6 (getN s (Key.epMacAddress p))))
    else s)

end Sys2Proof.Machine
end

