-- ==== Sys2Proof/Machine/HostIf.lean ====
section
/-! DEFINITION. The PCI Express host attachment (14_ethernet_host.md R362 to R375): the rings, tickets and tokens, and the result slots;
and the beginning and completion of micro-batches (01_training_step.md R12 to R23; 09_backward_pass.md R227). -/

namespace Sys2Proof.Machine

/-! ### HOST_STATUS (R363) -/

/-- Whether a shard pull with ADOPT_STEP is under way (R501, R507): job 3 RUNNING or SUSPENDED. -/
def adoptPull (s : State) : Bool :=
  let st := getN s (Key.jobState 3)
  (st == 1 || st == 2) && bit (field (getDom s (Key.jobParameters 3)) 1 1) 1

/-- Whether the submission ring is left unread: a lapsed lease (R407), the hold of R95, an adopting pull (R501), a failed logbook
(R511). -/
def ringUnread (s : State) : Bool := s.beat.lapsed || s.stp.hold || adoptPull s || s.log.failed

/-- Whether tickets are refused with NOT_RUNNING (R366, R381, R385). -/
def notRunning (s : State) : Bool := !inRun s || getN s Key.podSpare == 1 || getN s Key.reshardPhase != 0

/-- ACCEPTING of HOST_STATUS. -/
def accepting (s : State) : Bool := !ringUnread s && !notRunning s

/-- HOST_STATUS (R363). -/
def hostStatus (s : State) : Nat := b2n (inRun s) + 2 * b2n (accepting s) + 4 * b2n s.host.restartReport

/-- Whether the endpoint answers BAR0 (R486): the link is up and the management complex runs. -/
def barLive (s : State) : Bool := s.host.linkUp && decide (2 ≤ getN s Key.bringupPhase)

/-! ### The rings (R363, R368) -/

/-- The BAR0 registers changed. -/
def setBar (s : State) (f : Bar0 → Bar0) : State := { s with host := { s.host with bar := f s.host.bar } }

/-- A ring write that is ignored is counted. -/
def ringIgnored (s : State) : State := addN s Key.ringWritesIgnored 32 1

/-- SUB_TAIL (R368). -/
def execSubTail (v : W32) (s : State) : Host.Outcome State Fault Refusal :=
  let b := s.host.bar
  .next (if !barLive s then s
    else if b.subEntries.toNat ≤ v.toNat ∨ (v = b.subHead ∧ v ≠ b.subTail) then ringIgnored s
    else setBar s (fun b => { b with subTail := v }))

/-- How far index `b` lies beyond index `a` in a ring. -/
def ringDist (n a b : Nat) : Nat := (b + n - a) % n

/-- ACC_HEAD (R368). -/
def execAccHead (v : W32) (s : State) : Host.Outcome State Fault Refusal :=
  let b := s.host.bar
  let n := b.accEntries.toNat
  .next (if !barLive s then s
    else if n ≤ v.toNat ∨ ringDist n b.accHead.toNat b.accTail.toNat < ringDist n b.accHead.toNat v.toNat then ringIgnored s
    else setBar s (fun b => { b with accHead := v }))

/-- A ring size that R363 allows. -/
def ringSizeOk (v : Nat) : Bool := decide (64 ≤ v) && decide (v ≤ 65536) && (List.range 17).any (fun k => 2 ^ k == v)

/-- RING_BASE_WRITE (R363): applied while both rings are empty; a new size restarts the ring's indices at 0. A write in MAILBOX_REQUEST
fills that window, and one to any other offset is ignored. -/
def execRingBaseWrite (reg : BitVec 16) (v : W64) (s : State) : Host.Outcome State Fault Refusal :=
  let b := s.host.bar
  let e : W32 := v.setWidth 32
  let empty := b.subHead = b.subTail ∧ b.accTail = b.accHead
  let base := reg = 0x0 ∨ reg = 0x18
  let size := reg = 0x8 ∨ reg = 0x20
  .next (if !barLive s then s
    else if 0x1000 ≤ reg.toNat ∧ reg.toNat ≤ 0x1FF8 then setBar s (fun b => { b with
      mailboxRequest := splice (slice b.mailboxRequest 0 4096) (reg.toNat - 0x1000) (leBytes 8 v.toNat) })
    else if ¬(base ∨ size) then s
    else if ¬empty ∨ (base ∧ v.toNat % 4096 ≠ 0) ∨ (size ∧ !ringSizeOk e.toNat) then ringIgnored s
    else if reg = 0x0 then setBar s (fun b => { b with subBase := v })
    else if reg = 0x18 then setBar s (fun b => { b with accBase := v })
    else if reg = 0x8 then setBar s (fun b => { b with subEntries := e, subHead := 0, subTail := 0 })
    else setBar s (fun b => { b with accEntries := e, accHead := 0, accTail := 0 }))

/-- BAR0 as the host reads it (R363): a register's size in bytes and value by its offset. -/
def barReg (s : State) (off : Nat) : Option (Nat × Nat) :=
  let b := s.host.bar
  match off with
  | 0x0 => some (8, b.subBase.toNat)
  | 0x8 => some (4, b.subEntries.toNat)
  | 0xC => some (4, b.subTail.toNat)
  | 0x10 => some (4, b.subHead.toNat)
  | 0x18 => some (8, b.accBase.toNat)
  | 0x20 => some (4, b.accEntries.toNat)
  | 0x24 => some (4, b.accHead.toNat)
  | 0x28 => some (4, b.accTail.toNat)
  | 0x34 => some (4, hostStatus s)
  | 0x3004 => some (4, b2n b.mailboxBusy + 2 * b2n b.mailboxReady)
  | _ => none

/-- The byte that the host reads at an offset of BAR0 (R363): zero at a reserved offset and at a write-only register. -/
def barByte (s : State) (off : Nat) : Byte :=
  if 0x1000 ≤ off ∧ off < 0x2000 then s.host.bar.mailboxRequest.getD (off - 0x1000) 0
  else if 0x2000 ≤ off ∧ off < 0x3000 then s.host.bar.mailboxResponse.getD (off - 0x2000) 0
  else
    let at_ (o k : Nat) : Option Byte :=
      match barReg s o with
      | some (size, v) => if k < size then (leBytes size v)[k]? else none
      | none => none
    ((at_ (off / 4 * 4) (off % 4)).orElse (fun _ => if 4 ≤ off then at_ (off / 4 * 4 - 4) (off % 4 + 4) else none)).getD 0

/-- What a host read of `n` bytes at an offset of BAR0 returns (R363); nothing answers while BAR0 is not offered (R486). -/
def barRead (s : State) (off n : Nat) : Option (List Byte) :=
  if barLive s then some ((upFrom off n).map (barByte s)) else none

/-! ### Tokens (R366, R367) -/

/-- The 32 bytes of a token. -/
def tokenBytes (t : Token) (phase : Bool) : List Byte :=
  leBytes 1 t.status ++ leBytes 1 (b2n phase) ++ leBytes 2 0 ++ leBytes 4 t.index ++ leBytes 8 t.sequence ++ leBytes 8 t.acceptId ++
    leBytes 8 t.hostTag

/-- A token written into the acceptance ring at ACC_TAIL; PHASE is inverted when ACC_TAIL wraps, and MSI-X vector 0 is raised. -/
def writeToken (s : State) (t : Token) : State :=
  let b := s.host.bar
  let i := b.accTail.toNat
  let s := emit s (.token i (tokenBytes t b.phase))
  let wrap := i + 1 = b.accEntries.toNat
  let s := setBar s (fun b => { b with accTail := if wrap then 0 else b.accTail + 1, phase := if wrap then !b.phase else b.phase })
  emit s (.msix 0)

/-- A token written, or queued behind those that wait for the link (R367). -/
def sendToken (s : State) (t : Token) : State :=
  if s.host.linkUp ∧ s.host.queued = [] then writeToken s t
  else { s with host := { s.host with queued := s.host.queued ++ [t] } }

/-- Tokens that the acceptance ring can still take (R368). -/
def tokenRoom (s : State) : Nat :=
  let b := s.host.bar
  let n := b.accEntries.toNat
  n - 1 - ringDist n b.accHead.toNat b.accTail.toNat

/-- ACCEPTANCE_TOKEN_WRITE (R367): the oldest queued token is written once the link is up. -/
def execAcceptanceTokenWrite (s : State) : Host.Outcome State Fault Refusal :=
  match s.host.queued with
  | t :: ts =>
    .next (if s.host.linkUp ∧ 0 < tokenRoom s then writeToken { s with host := { s.host with queued := ts } } t else s)
  | [] => .next s

/-! ### Result slots (R369 to R372) -/

/-- The bytes of a slot's payload. -/
abbrev payloadSize : Nat := 65472

/-- A slot. -/
def getSlot (s : State) (k : Nat) : RSlot := amGet RSlot.default s.host.slots k

/-- STATE and GENERATION of a slot. -/
abbrev slotState (r : RSlot) : Nat := field r.header 0 1
abbrev slotGen (r : RSlot) : Nat := field r.header 2 2

/-- The slots in a state. -/
def slotsIn (s : State) (st : List Nat) : Nat := (s.host.slots.filter (fun e => st.contains (slotState e.2))).length

/-- The state with a slot replaced, and SLOTS_PENDING and SLOTS_READY. -/
def setSlot (s : State) (k : Nat) (r : RSlot) : State :=
  let s := if getSlot s k = r then s else touch { s with host := { s.host with slots := amIns r s.host.slots k } } Key.resultSlots
  setN (setN s Key.slotsPending (slotsIn s [1])) Key.slotsReady (slotsIn s [2, 3])

/-- A header with its CRC over bytes 0x00 to 0x3B and the payload (R369). -/
def sealSlot (header payload : List Byte) : RSlot :=
  let h := slice header 0 60
  ⟨h ++ leBytes 4 (crc32c (h ++ slice payload 0 payloadSize)), payload⟩

/-- A slot's header of R369. -/
def slotHeader (st flags gen size : Nat) (seq step tag loss excluded acceptId : Nat) : List Byte :=
  leBytes 1 st ++ leBytes 1 flags ++ leBytes 2 gen ++ leBytes 4 size ++ leBytes 8 seq ++ leBytes 8 step ++ leBytes 8 tag ++
    leBytes 4 loss ++ leBytes 4 excluded ++ leBytes 8 acceptId

/-! ### Fields of a ticket (R364) -/

abbrev tkKind (b : List Byte) : Nat := field b 0 1
abbrev tkFlags (b : List Byte) : Nat := field b 1 1
abbrev tkSlot (b : List Byte) : Nat := field b 2 2
abbrev tkDataBytes (b : List Byte) : Nat := field b 4 4
abbrev tkSeq (b : List Byte) : Nat := field b 8 8
abbrev tkStep (b : List Byte) : Nat := field b 0x10 8
abbrev tkDataAddr (b : List Byte) : Nat := field b 0x18 8
abbrev tkTargetAddr (b : List Byte) : Nat := field b 0x20 8
abbrev tkTargetBytes (b : List Byte) : Nat := field b 0x28 4
abbrev tkTag (b : List Byte) : Nat := field b 0x30 8

/-- BAD_TICKET (R366): the CRC, a reserved value, or a length above its limit. -/
def badTicket (b : List Byte) : Bool :=
  field b 0x3C 4 != crc32c (slice b 0 60) || !(tkKind b == 1 || tkKind b == 2) || decide (4 ≤ tkFlags b) || decide (4096 ≤ tkSlot b) ||
  decide (16777216 < tkDataBytes b) || decide (16777216 < tkTargetBytes b) || field b 0x2C 4 != 0 || field b 0x38 4 != 0 ||
  (bit (tkFlags b) 0 && decide (2 ^ 41 ≤ tkDataAddr b)) || (!bit (tkFlags b) 1 && tkTargetAddr b != 0) ||
  (tkKind b == 2 && tkStep b != 0)

/-- WRONG_STEP (R12, R13). -/
def wrongStep (s : State) (b : List Byte) : Bool :=
  let st := tkStep b
  let first := stepFirstSeq s st
  tkKind b == 1 &&
    (!(st == s.stp.step || st == s.stp.step + 1) || decide (st < getN s Key.stepOrigin) || decide (tkSeq b < first) ||
      decide (first + getN s Key.microbatchesPerStep ≤ tkSeq b))

/-- The accepted ticket that a ticket repeats (R366): of its kind and sequence number, not completed, or completed in the current
step. -/
def duplicateOf (s : State) (b : List Byte) : Option Ticket :=
  s.host.tickets.find? (fun t => tkKind t.bytes == tkKind b && tkSeq t.bytes == tkSeq b &&
    (!t.ended || t.completedStep == some s.stp.step))

/-- The ticket's data as copied in step 2 of R365; none where the copy meets a poisoned line or leaves the data space. -/
def ticketData (s : State) (t : TicketEnv) : Option (List Byte) :=
  let n := tkDataBytes t.bytes
  if t.copyFault then none
  else if bit (tkFlags t.bytes) 0 then
    let a := tkDataAddr t.bytes
    if !inDataSpace a n || !bit (stackPresent s.variant) (addrStack a) || stkPoisoned s a n then none else some (stkRead s a n)
  else some (slice t.data 0 n)

/-- The tickets accepted and not completed. -/
def outstanding (s : State) : Nat := (s.host.tickets.filter (fun t => !t.ended)).length

/-- A ticket refused: its token and the count of its status (R366). -/
def refuseTicket (s : State) (b : List Byte) (status acceptId : Nat) : State :=
  let s := count64 s (Key.ticketsRefused (status - 1))
  sendToken s ⟨status, s.host.bar.subHead.toNat, tkSeq b, acceptId, tkTag b⟩

/-- The first byte of the first DATA region of the stacks, by the table of R325. -/
def dataRegion (s : State) : Option Nat :=
  let bs := getDom s Key.regionTable
  ((List.range 256).find? (fun i => let v := field bs (8 * i) 8; bits v 55 32 != 0 && bits v 3 0 == 5)).map (fun i =>
    stackAddr (i / 16) (65536 * bits (field bs (8 * i) 8) 31 8))

/-- Where a slot's token data and targets are copied to: the area that the placement gives the tickets, else the first DATA region with
32 MiB to a slot (R365 step 2; the manual gives the copies no place: assumption log 20). -/
def tokenPlace (s : State) (slot : Nat) : Option Nat :=
  match s.placement.bind (fun p => p.tokens) with
  | some (base, pitch) => some (base + slot * pitch)
  | none => (dataRegion s).map (fun a => a + slot * 2 ^ 25)

/-- The token data and the targets of a slot written into a DATA region (R365 step 2). -/
def storeTokens (s : State) (slot : Nat) (bs : List Byte) : State :=
  match tokenPlace s slot with
  | some a => stkWrite s a bs false
  | none => s

/-- Steps 2 to 5 of R365: PENDING, the ACCEPT record, the token. -/
def acceptTicket (s : State) (t : TicketEnv) (data : List Byte) : State :=
  let b := slice t.bytes 0 64
  let id := s.host.nextAccept
  let k := tkSlot b
  let s := setSlot s k (sealSlot (slotHeader 1 0 (slotGen (getSlot s k)) 0 (tkSeq b) (tkStep b) (tkTag b) 0 0 id) [])
  let s := journal s 1 (leBytes 8 id ++ leBytes 24 0 ++ b)
  let targets := if bit (tkFlags b) 1 then slice t.targets 0 (tkTargetBytes b) else []
  let s := storeTokens s k (data ++ targets)
  let s := { s with host := { s.host with
    nextAccept := id + 1
    tickets := s.host.tickets ++ [⟨id, b, data, targets, false, none⟩] } }
  let s := count64 s Key.ticketsAccepted
  sendToken s ⟨0, s.host.bar.subHead.toNat, tkSeq b, id, tkTag b⟩

/-- The checks of R366, and the acceptance. -/
def judgeTicket (s : State) (t : TicketEnv) : State :=
  let b := slice t.bytes 0 64
  if notRunning s then refuseTicket s b 6 0
  else if badTicket b then refuseTicket s b 1 0
  else if tkKind b = 2 ∧ s.stp.evalCfg.1 = 0 then refuseTicket s b 7 0
  else if wrongStep s b then refuseTicket s b 2 0
  else match duplicateOf s b with
    | some d => refuseTicket s b 3 d.acceptId
    | none =>
      if slotState (getSlot s (tkSlot b)) ≠ 0 then refuseTicket s b 4 0
      else match ticketData s t with
        | none => refuseTicket s b 5 0
        | some data => acceptTicket s t data

/-- The errors of the endpoint's reads as Advanced Error Reporting reports them (R362, R374). -/
def reportAer (s : State) (t : TicketEnv) : State :=
  let s := if t.aerCorrectable then raise s Key.pcieFlags 0 else s
  if t.aerUncorrectable then raise s Key.pcieFlags 1 else s

/-- SUB_HEAD past the ticket read. -/
def advanceSubHead (s : State) : State :=
  setBar s (fun b => { b with subHead := if b.subHead.toNat + 1 < b.subEntries.toNat then b.subHead + 1 else 0 })

/-- TICKET_READ (R365, R366, R368): the next ticket is read where the ring holds one, the acceptance ring has room for its token, fewer
than MAX_OUTSTANDING are outstanding, and the ring is not left unread. -/
def execTicketRead (t : TicketEnv) (s : State) : Host.Outcome State Fault Refusal :=
  let b := s.host.bar
  if getN s Key.bringupPhase < 2 ∨ b.subEntries = 0 ∨ b.accEntries = 0 ∨ b.subHead = b.subTail ∨
      tokenRoom s ≤ s.host.queued.length ∨ getN s Key.maxOutstanding ≤ outstanding s ∨ ringUnread s then .next s
  else .next (advanceSubHead (judgeTicket (reportAer s t) t))

/-! ### Completion (R19, R23, R370) -/

/-- The result area of a micro-batch, its address and OUTPUT_BYTES, and the index by which the placement names it (assumption log 20). -/
def resultArea (s : State) (seq : Nat) : Option (Nat × Nat) :=
  (s.placement.bind (fun p => p.results)).map (fun r => (r.1 + (seq % max 1 (getN s Key.microbatchesPerStep)) * r.2.1, r.2.2))

/-- The groups from which a micro-batch was excluded (R263). -/
def excludedGroups (s : State) (t : Ticket) : Nat :=
  if tkKind t.bytes = 1 then (s.gates.settled.filter (fun e => e.2.1 == tkSeq t.bytes && !e.2.2)).length else 0

/-- The work of a ticket. -/
def workOf (s : State) (id : Nat) : Option Work := s.stp.work.find? (fun w => w.acceptId == id)

/-- The work of a ticket that never ran here. -/
def noWork (t : Ticket) (step : Nat) : Work := ⟨tkSeq t.bytes, step, false, t.acceptId, 0, false, false, false, 0, 0, 0, false, []⟩

/-- A ticket's result written READY (R369, R370) from its work and the count of groups that excluded it: the payload, then the header.
`loss` replaces LOSS where it was lost (R508). -/
def writeResultOf (s : State) (t : Ticket) (step : Nat) (loss : Option Nat) (w : Work) (ex : Nat) : State :=
  let seq := tkSeq t.bytes
  let area := if loss.isSome then none else resultArea s seq
  let head := area.map (fun a => stkRead s a.1 8)
  let out := match area with
    | some a => stkRead s (a.1 + 8) a.2
    | none => []
  let poison := match area with
    | some a => stkPoisoned s a.1 (a.2 + 8)
    | none => false
  let lossWord := loss.getD (field (head.getD []) 0 4)
  let payload := leBytes 8 w.forwardBeat ++ leBytes 8 w.endBeat ++ leBytes 4 w.overruns ++ leBytes 4 w.flags ++
    leBytes 4 (field (head.getD []) 4 4) ++ leBytes 4 out.length ++ leBytes 32 0 ++ out
  let k := tkSlot t.bytes
  let gen := (slotGen (getSlot s k) + 1) % 65536
  let h := slotHeader 2 (b2n poison + 2 * b2n (ex != 0)) gen (64 + out.length) seq step (tkTag t.bytes) lossWord ex t.acceptId
  emit (setSlot s k (sealSlot h payload)) (.msix 1)

/-- The same with the work and the exclusions that the state holds. -/
def writeResult (s : State) (t : Ticket) (step : Nat) (loss : Option Nat) : State :=
  writeResultOf s t step loss ((workOf s t.acceptId).getD (noWork t step)) (excludedGroups s t)

/-- A ticket has ended by completion, in the step that is current (R19, R23). -/
def endTicket (s : State) (id : Nat) : State :=
  { s with host := { s.host with tickets := s.host.tickets.map (fun t =>
      if t.acceptId == id then { t with ended := true, completedStep := some s.stp.step } else t) } }

/-- A ticket completed with its result. -/
def completeTicket (s : State) (t : Ticket) (step : Nat) (loss : Option Nat) : State :=
  endTicket (writeResult s t step loss) t.acceptId

/-- A ticket written into its slot as NOT_COMPLETED (R372). -/
def reportTicket (s : State) (t : Ticket) : State :=
  let k := tkSlot t.bytes
  let gen := (slotGen (getSlot s k) + 1) % 65536
  let h := slotHeader 3 0 gen 64 (tkSeq t.bytes) (tkStep t.bytes) (tkTag t.bytes) 0 0 t.acceptId
  let s := setSlot s k (sealSlot h t.bytes)
  { s with host := { s.host with reported := nsIns k s.host.reported } }

/-- Every ticket accepted and not completed reported (R372). -/
def reportTickets (s : State) : State :=
  let ts := s.host.tickets.filter (fun t => !t.ended)
  let s := ts.foldl reportTicket s
  let s := setN s Key.ticketsReported ts.length
  { s with host := { s.host with restartReport := s.host.reported != [] } }

/-- The effect of RELEASE (R371, R491): [11:0] slot, [31:16] GENERATION. -/
def releaseSlot (s : State) (v : Nat) : State :=
  let k := bits v 11 0
  let r := getSlot s k
  let st := slotState r
  if (st ≠ 2 ∧ st ≠ 3) ∨ slotGen r ≠ bits v 31 16 then count64 s Key.releasesIgnored
  else
    let id := field r.header 0x28 8
    let s := if st = 3 then journal s 4 (leBytes 8 id) else s
    let s := if st = 3 then { s with host := { s.host with
        tickets := s.host.tickets.filter (fun t => t.acceptId != id)
        reported := nsDel k s.host.reported } } else s
    let s := { s with host := { s.host with restartReport := s.host.restartReport && s.host.reported != [] } }
    setSlot s k (sealSlot (splice r.header 0 [0]) [])

/-- RELEASE (R371). -/
def execRelease (v : W32) (s : State) : Host.Outcome State Fault Refusal :=
  .next (if barLive s then releaseSlot s v.toNat else s)

/-! ### The link (R362, R367, R476) -/

/-- PCIE_LINK_RESET (R362): only the endpoint is reset. -/
def execPcieLinkReset (s : State) : Host.Outcome State Fault Refusal :=
  let s := raise (setN s Key.linkStatus 0) Key.pcieFlags 2
  .next { s with host := { s.host with linkUp := false } }

/-- LINK_STATUS of a width in lanes and a rate code (4800:00). -/
def linkWord (width rate : Nat) : Nat := width % 32 + 32 * (rate % 16)

/-- PCIE_LINK_TRAINED (R476): the link has trained. -/
def execPcieLinkTrained (width rate : Nat) (s : State) : Host.Outcome State Fault Refusal :=
  let s := setN s Key.linkStatus (linkWord width rate)
  .next { s with host := { s.host with linkUp := true } }

/-! ### Micro-batches (R14, R22, R23, R43, R227) -/

/-- Whether a micro-batch of the current kind of work has begun. -/
def begun (s : State) (evaluation : Bool) (seq : Nat) : Bool := s.stp.work.any (fun w => w.evaluation == evaluation && w.seq == seq)

/-- The accepted ticket of a micro-batch. -/
def ticketOf (s : State) (kind seq : Nat) : Option Ticket :=
  s.host.tickets.find? (fun t => !t.ended && tkKind t.bytes == kind && tkSeq t.bytes == seq)

/-- Work begins in the current beat. -/
def beginWork (s : State) (evaluation : Bool) (t : Ticket) : State :=
  let w : Work := ⟨tkSeq t.bytes, s.stp.step, evaluation, t.acceptId, beatNow s, false, false, false, 0, 0, 0, false, []⟩
  { s with stp := { s.stp with work := s.stp.work ++ [w] } }

/-- Whether every admitted ticket before this one in sequence has begun (R22). -/
def admittedBefore (s : State) (seq : Nat) : Bool :=
  (s.host.tickets.filter (fun t => s.stp.admitted.contains t.acceptId && decide (tkSeq t.bytes < seq))).all
    (fun t => t.ended || begun s true (tkSeq t.bytes))

/-- The layby copies of a micro-batch (R222). -/
def laybyCopies (s : State) (seq : Nat) : List LaybyRun := s.stp.layby.filter (fun r => r.seq == seq % 2 ^ 32)

/-- The replay of the first abandoned micro-batch begins, from its layby copies; on the first stage from the data that its ticket keeps (R43,
R222). -/
def beginReplay (s : State) (seq : Nat) (rest : List Nat) : State :=
  let copies := laybyCopies s seq
  rearmReplayed (modifyWork { s with stp := { s.stp with replayPending := rest } } seq
    (fun w => { w with abandoned := false, restart := copies }))

/-- Whether the in-flight depth lets F(m) begin (R226): B(m − D) has begun in the slot that F(m) shares with it. -/
def depthAllows (s : State) (seq : Nat) : Bool :=
  let d := getN s Key.depth
  decide (seq < stepFirstSeq s s.stp.step + d) || s.stp.work.any (fun w => !w.evaluation && w.seq + d == seq && w.backwardBegun)

/-- MICROBATCH_FORWARD_START (R14, R22, R43, R226). -/
def execMicrobatchForwardStart (seq : Nat) (s : State) : Host.Outcome State Fault Refusal :=
  .next (if !inRun s || s.stp.suspended then s
    else match s.stp.replayPending with
    | m :: rest => if m = seq then beginReplay s seq rest else s
    | [] =>
      if s.stp.windowEnd.isSome then
        match ticketOf s 2 seq with
        | some t =>
          if s.stp.admitted.contains t.acceptId && !begun s true seq && admittedBefore s seq then beginWork s true t else s
        | none => s
      else
        let first := stepFirstSeq s s.stp.step
        match ticketOf s 1 seq with
        | some t =>
          if tkStep t.bytes = s.stp.step ∧ getN s Key.reshardPhase ≤ 1 ∧ !begun s false seq ∧ depthAllows s seq ∧
              (upFrom first (seq - first)).all (begun s false) then beginWork s false t else s
        | none => s)

/-- Where a micro-batch's output gradients come from, by the placement (R227): the queues that copy the tiles that arrive, with the
descriptors of one micro-batch; or, on the last stage, the loss computed here, where the schedule marks it, else with F(m). A stage below
another has none where the placement names no queue: B(m) has then nothing that could arrive (DESIGN CHOICE, assumption log 20). -/
def gradSources (s : State) : Option (List (Nat × Nat)) :=
  match s.placement with
  | none => none
  | some p =>
    if p.stage + 1 < p.stages then
      (if p.gradients = [] then none else some (p.gradients.map (fun g => (queueKey g.1 g.2.1, g.2.2))))
    else some (if p.marks.any (fun m => m.kind == 4) then [(localLoss, 1)] else [])

/-- Whether every output gradient of a micro-batch is in (R227). -/
def gradsIn (s : State) (seq : Nat) : Bool :=
  match gradSources s with
  | none => false
  | some ks => ks.all (fun k =>
      decide (k.2 ≤ (s.stp.outGrads.filter (fun e => e.1 == k.1 && e.2 % 2 ^ 32 == seq % 2 ^ 32)).length))

/-- Whether the slots of R226 have come to B(m): the warm-up and the slots before it have begun their forward work, up to F(m + D − 1) or the
step's last. -/
def slotReached (s : State) (seq : Nat) : Bool :=
  let d := getN s Key.depth
  let last := stepFirstSeq s s.stp.step + getN s Key.microbatchesPerStep - 1
  d == 0 || s.stp.work.any (fun w => !w.evaluation && w.seq == min (seq + d - 1) last)

/-- Whether B(m) may begin (R226, R227): F(m) has ended, every output gradient is in, B(m − 1) has ended or m is the step's first, and the
schedule's pattern has come to it. -/
def backwardReady (s : State) (seq : Nat) : Bool :=
  s.stp.work.any (fun w => !w.evaluation && w.seq == seq && w.forwardEnded && !w.backwardBegun && !w.abandoned) && gradsIn s seq &&
    slotReached s seq &&
    (seq == stepFirstSeq s s.stp.step || s.stp.work.any (fun w => !w.evaluation && w.seq + 1 == seq && w.backwardEnded))

/-- BACKWARD_START (R227). -/
def execBackwardStart (seq : Nat) (s : State) : Host.Outcome State Fault Refusal :=
  .next (if inRun s ∧ !s.stp.suspended ∧ backwardReady s seq then modifyWork s seq (fun w =>
      if w.evaluation then w else { w with backwardBegun := true })
    else s)

/-- EVALUATION_COMPLETE (R23): the ticket's forward work has ended; EVAL_COMPLETE is journalled and the result written, with the step
whose weights it used. -/
def execEvaluationComplete (acceptId : Nat) (s : State) : Host.Outcome State Fault Refusal :=
  match workOf s acceptId, s.host.tickets.find? (fun t => t.acceptId == acceptId && !t.ended) with
  | some w, some t =>
    if !w.evaluation || w.abandoned || s.log.failed then .next s
    else
      let step := getN s Key.commitStep
      let s := { s with stp := { s.stp with
        work := s.stp.work.map (fun w => if w.acceptId == acceptId then { w with forwardEnded := true, endBeat := beatNow s } else w)
        layby := s.stp.layby.filter (fun r => r.seq != w.seq % 2 ^ 32) } }
      let s := journal s 3 (leBytes 8 acceptId ++ leBytes 8 step)
      .next (completeTicket (count64 s Key.evalTicketsDone) t step none)
  | _, _ => .next s

end Sys2Proof.Machine
end

