-- ==== Sys2Proof/Machine/Power.lean ====
section
/-! DEFINITION. Power delivery and heat (18_power_thermal.md): the input's samples, the field regulators and their sensors, field power
states, the thermal thresholds, and what of them is done at a beat boundary. -/

namespace Sys2Proof.Machine

/-! ### Fields (R458) -/

/-- FIELD_POWER_STATE of a field (R458). -/
def fieldPower (s : State) (f : Nat) : Nat := getN s (Key.pwrFieldPowerState f)

/-- The fields in a power state. -/
def fieldsIn (s : State) (st : Nat) : List Nat := (List.range 90).filter (fun f => fieldPower s f == st)

/-- A set of fields as 12 bytes, bit 10y + x. -/
def fieldMask (fs : List Nat) : List Byte := leBytes 12 ((fs.map (fun f => 2 ^ f)).sum)

/-- DARK_BANDS (R70): the field rows whose field of the excluded column is dark. -/
def darkBandsOf (s : State) : Nat :=
  let ex := getN s Key.excludedFieldColumn
  (List.range 9).foldl (fun m y => if ex < 10 ∧ fieldPower s (10 * y + ex) = 0 then m + 2 ^ y else m) 0

/-- A field's power state set, with FIELDS_PARKED, FIELDS_DARK and DARK_BANDS. -/
def setFieldPower (s : State) (f st : Nat) : State :=
  let s := setN s (Key.pwrFieldPowerState f) st
  let s := if f % 10 = getN s Key.excludedFieldColumn then setN s Key.darkBands (darkBandsOf s) else s
  setDom (setDom s Key.fieldsParked (fieldMask (fieldsIn s 6))) Key.fieldsDark (fieldMask (fieldsIn s 0))

/-- The logical cores of a field; none in the excluded column. -/
def fieldCores (s : State) (f : Nat) : List CoreId :=
  let x := f % 10
  let ex := getN s Key.excludedFieldColumn
  if x = ex ∨ logicalCols s = 0 then []
  else
    let lx := if ex < x then x - 1 else x
    (upFrom (32 * (f / 10)) 32).flatMap (fun r => (upFrom (32 * lx) 32).map (fun c => ⟨c, r⟩))

/-- The cores of a field changed. -/
def mapField (s : State) (f : Nat) (g : Core → Core) : State :=
  (fieldCores s f).foldl (fun s c => setCore s c (g (getCore s c))) s

/-- The sum of the 90 field currents (2000:03). -/
def refreshCurrent (s : State) : State :=
  setN s Key.computeCurrentA (((List.range 90).map (fun f => getN s (Key.regFieldCurrentA f))).sum)

/-- Every tile program suspended and every stream engine stopped from issuing (R69, R456). -/
def stopEngine (s : State) : State :=
  if inRun s then { suspendAll s with streams := { (suspendAll s).streams with stopped := true } } else s

/-- A field goes dark: its regulator in state `reg`, its cores in RESET, the flits inside it lost with it, no death in it detoured
(R45, R456, R458). One that was shut stays closed to head flits (R69). -/
def darkenField (s : State) (f reg : Nat) : State :=
  let s := mapField s f (fun _ => Core.default)
  let s := setFieldPower (setN (setN s (Key.regState f) reg) (Key.regFieldCurrentA f) 0) f 0
  let passes (k : Nat) : Bool :=
    k / 8 % 5 % 2 == 1 && passedField s (laneCore k) (upstream s (laneCore k) (k / 8 % 5)) == some f
  let s := { s with
    mesh := { s.mesh with
      lanes := s.mesh.lanes.filter (fun e => coreField s (laneCore e.1) != f)
      waiting := s.mesh.waiting.filter (fun e => coreField s (laneCore e.1) != f || e.1 / 8 % 5 != 4)
      entering := s.mesh.entering.filter (fun e => coreField s (laneCore e.1) != f)
      fifos := s.mesh.fifos.filter (fun e => coreField s (laneCore e.1) != f && !passes e.1)
      ports := s.mesh.ports.filter (fun e => coreField s (keyCore (e.1 / 5)) != f)
      exits := s.mesh.exits.filter (fun e => coreField s (keyCore (e.1 / 20)) != f) }
    grid := { s.grid with
      deaths := s.grid.deaths.filter (fun p => physField p != f)
      underWay := s.grid.underWay.filter (fun p => physField p != f) } }
  refreshCurrent (setField (openRows s) f { FieldRec.default with draining := (getField s f).draining })

/-- A field whose regulator stops at once (R456, R465): dark, LOST with a cause, and the handover. -/
def dropField (s : State) (f reg cause : Nat) : State := fieldLoss (darkenField (stopEngine s) f reg) f cause

/-- A controller failure (R456). -/
def controllerFail (s : State) (f : Nat) : State := dropField (raise s Key.powerFlags 1) f 3 2

/-- Whether a field's regulator is on. -/
def regOn (s : State) (f : Nat) : Bool := decide (f < 90) && (getN s (Key.regState f) == 2 || getN s (Key.regState f) == 1)

/-! ### The input (R450, R466) -/

/-- INPUT_SAMPLE (R450): the power is the mean over the last 100 µs, ten samples. -/
def execInputSample (mv ma : Nat) (s : State) : Host.Outcome State Fault Refusal :=
  if !s.power.input then .next s
  else
    let ws := ((mv * ma) :: s.power.samples).take 10
    let w := ws.sum / ws.length / 1000000
    let lim := getN s Key.powerLimitW
    let s := setN (setN (setN s Key.inputVoltageMv (mv % 2 ^ 32)) Key.inputCurrentMa (ma % 2 ^ 32)) Key.inputPowerW (w % 2 ^ 32)
    .next { s with power := { s.power with
      samples := ws
      powerHigh := s.power.powerHigh || decide (lim < w)
      powerLow := s.power.powerLow && decide (100 * w ≤ 95 * lim) } }

/-! ### Regulators (R453 to R456) -/

/-- Whether a droop sensor reads more than CRACK_MV below the median of its field under at least a quarter of the field's current rating
(R457). -/
def crackHolds (s : State) (f sensor : Nat) : Bool :=
  decide (field (getDom s (Key.drpDroopReadings f)) (2 * sensor) 2 + getN s Key.crackMv < getN s (Key.drpDroopMedianMv f)) &&
    decide (25 * getN s (Key.regCurrentRatingA f) ≤ 100 * getN s (Key.regFieldCurrentA f))

/-- The episodes of suspect sensors at a sample (R457): one that finds the condition ends the absence; an absence counts the reports, which
come every 10 µs (`reports`), and an episode is over once it has lasted 1 ms. -/
def endEpisodes (s : State) (f reports : Nat) : State :=
  let fr := getField s f
  let on := fr.cracks.map (fun e => (e.1, if crackHolds s f e.1 then 0 else e.2 + reports))
  setField s f { fr with cracks := on.filter (fun e => decide (e.2 < 100)) }

/-- REGULATOR_STATUS_REPORT (R456): the current, and the failure that the controller reports. -/
def execRegulatorStatusReport (r : RegReport) (s : State) : Host.Outcome State Fault Refusal :=
  let f := r.field
  if !regOn s f then .next s
  else if r.failed then .next (controllerFail s f)
  else
    let rating := getN s (Key.regCurrentRatingA f)
    let s := refreshCurrent (setN s (Key.regFieldCurrentA f) (r.currentA % 65536))
    let fr := getField s f
    let overs := if 95 * rating < 100 * r.currentA then fr.overs + 1 else 0
    .next (endEpisodes (setField s f { fr with
      missed := 0
      overs := overs
      hot := fr.hot || decide (10 ≤ overs)
      cool := fr.cool && decide (100 * r.currentA ≤ 85 * rating) }) f 1)

/-- REGULATOR_REPORT_MISSED (R456): the third in a row is a controller failure. -/
def execRegulatorReportMissed (field : Nat) (s : State) : Host.Outcome State Fault Refusal :=
  if !regOn s field then .next s
  else
    let fr := getField s field
    if 2 ≤ fr.missed then .next (controllerFail s field)
    else .next (setField s field { fr with missed := fr.missed + 1 })

/-- PHASE_FAILED (R455): the phase is switched out; six lost phases are a controller failure. -/
def execPhaseFailed (field : Nat) (phase : BitVec 4) (s : State) : Host.Outcome State Fault Refusal :=
  let ok := getN s (Key.regPhasesOk field)
  if 90 ≤ field ∨ !bit ok phase.toNat ∨ getN s (Key.regState field) = 3 then .next s
  else
    let now := setBit ok phase.toNat false
    let n := ((List.range 12).filter (bit now)).length
    let s := setN (setN s (Key.regPhasesOk field) now) (Key.regCurrentRatingA field) (30 * n)
    let s := logEvent (raise s Key.powerFlags 0) 6 [field, phase.toNat]
    .next (if n ≤ 6 ∧ regOn s field then controllerFail s field else s)

/-- The middle of the sensors' readings: of an even count, the mean of the two middle ones, rounded down. -/
def medianOf (xs : List Nat) : Nat :=
  let ys := sortBy id xs
  (ys.getD ((ys.length - 1) / 2) 0 + ys.getD (ys.length / 2) 0) / 2

/-- REGULATOR_LOOP_SAMPLE (R453, R454): the readings, the minimum of the unmasked sensors, the median of all; LOOP_CLAMPED while the
output stands at its limit. -/
def execRegulatorLoopSample (field : Nat) (droopMv : List Nat) (outputMv : Nat) (s : State) : Host.Outcome State Fault Refusal :=
  if !regOn s field then .next s
  else
    let xs := (List.range 64).map (fun i => droopMv.getD i 0 % 65536)
    let mask := getN s (Key.drpSensorMask field)
    let un := (List.range 64).filter (fun i => !bit mask i)
    let lo := un.foldl (fun a i => min a (xs.getD i 0)) 65535
    let s := setDom s (Key.drpDroopReadings field) (xs.flatMap (leBytes 2))
    let s := endEpisodes (setN (setN s (Key.drpDroopMinMv field) lo) (Key.drpDroopMedianMv field) (medianOf xs)) field 0
    .next (if min (getN s Key.vcoreAppliedMv + 60) 860 ≤ outputMv then raise s Key.powerFlags 5 else s)

/-- CRACK_SUSPECT (R457): a sensor has been suspect for CRACK_MS, once in an episode: flag, capture, event, and the park at the next
boundary where CRACK_ACTION is 1. -/
def execCrackSuspect (field sensor : Nat) (s : State) : Host.Outcome State Fault Refusal :=
  if 90 ≤ field ∨ 64 ≤ sensor ∨ !crackHolds s field sensor ∨ (getField s field).cracks.any (fun e => e.1 == sensor) then .next s
  else
    let fr := getField s field
    let s := setField s field { fr with cracks := amIns 0 fr.cracks sensor }
    let s := logEvent (raise s Key.powerFlags 2) 5 [field, sensor]
    let s := if getN s Key.crackCaptureEmpty = 1 then
        setN (setN (setN (setN s Key.crackCaptureField field) Key.crackCaptureSensor sensor) Key.crackCaptureBeat (beatNow s))
          Key.crackCaptureEmpty 0
      else s
    .next (if getN s Key.crackAction = 1 then setField s field { getField s field with parkDue := true } else s)

/-! ### Parking and waking (R460 to R463) -/

/-- A field parks with a cause (R462): PARKING, its cores stopped, and PARKED from the next boundary on (DESIGN CHOICE, assumption log 64).
A field that is parked, or parks, records the cause as well (R470); one that is off parks not. -/
def parkField (s : State) (f cause : Nat) : State :=
  let st := fieldPower s f
  if st < 2 then s
  else
    let s := setN s (Key.pwrParkCauses f) (getN s (Key.pwrParkCauses f) ||| 2 ^ cause)
    let s := setField s f { getField s f with wakeWaiting := false, wakeDue := false }
    if fieldParked s f then s
    else setFieldPower (mapField s f (fun c => match c.st with
      | .dead => c
      | .parked => c
      | _ => { c with parkedFrom := c.st, st := .parked })) f 5

/-- The fields that share an edge with a field. -/
def edgeFields (f : Nat) : List Nat :=
  let x := f % 10
  let y := f / 10
  (if 0 < y then [f - 10] else []) ++ (if x < 9 then [f + 1] else []) ++ (if y < 8 then [f + 10] else []) ++
    (if 0 < x then [f - 1] else [])

/-- Whether a neighbour's current defers a wake (R460): 85 % of its rating or more. -/
def wakeDeferred (s : State) (f : Nat) : Bool :=
  (edgeFields f).any (fun n => regOn s n && decide (85 * getN s (Key.regCurrentRatingA n) ≤ 100 * getN s (Key.regFieldCurrentA n)))

/-- The route header of a unicast to a core (R57). -/
def unicastHeader (c : CoreId) : W64 := BitVec.ofNat 64 (8 * c.col + 2 ^ 12 * c.row)

/-- The crescent of the active management core's domain: west for MC-A, east for MC-B (R451). -/
def mgmtCrescent (s : State) : Nat := if getN s Key.activeCore = 0 then 3 else 1

/-- The logged broadcasts sent again to a field's cores as VC0 unicasts, in order (R461), from the crescent of the active management core
(the manual gives no place; assumption log 93); an entry that no field waits for, of a broadcast no more in flight, is dropped. -/
def resendLog (s : State) (f : Nat) : State :=
  let ps := s.mesh.log.filter (fun e => e.2.contains f)
  let s := ps.foldl (fun s e => (fieldCores s f).foldl (fun s c =>
    crescentInject s (mgmtCrescent s) none { e.1 with hdr := withLength (unicastHeader c) e.1.flits.length }) s) s
  { s with mesh := { s.mesh with log := trimLog s (s.mesh.log.map (fun e => (e.1, nsDel f e.2))) } }

/-- A parked core continues from where it stopped (R460); what was suspended or resumed meanwhile holds for it, and what it waits for is
evaluated (R92, R177). What counts for its pulse is what counted before it was parked (R97). -/
def unparkCore (s : State) (c : Core) : Core :=
  match c.st with
  | .parked =>
    let c := { c with st := c.parkedFrom }
    let c := { c with progressed := c.progressed || heartIdle c }
    wakeCore s (if s.stp.suspended then suspendCore c else if inRun s then startCore (resumeCore s c) else c)
  | _ => c

/-- The SRAM errors that a parked core meets as it goes on: of its context, where it was suspended, and of its barrier word (R81). -/
def unparkErrs (s : State) (id : CoreId) (errs : List SramErr) : State :=
  let c := getCore s id
  if c.st ≠ .parked ∨ s.stp.suspended then s
  else
    let r := syncErrs errs (if c.parkedFrom = .suspended ∧ inRun s then readErrs contextBase 0x2270 errs (s, c) else (s, c))
    setCore r.1 id r.2

/-- The micro-batches whose state a field's cores hold (R461). -/
def fieldSeqs (s : State) (f : Nat) : List Nat :=
  ((fieldCores s f).flatMap (abandonSet s)).foldl (fun a q => nsIns q a) []

/-- Steps 2 and 3 of R460: the logged broadcasts, and the clocks row by row, the field WAKING; an overflow of the log abandons and
replays. -/
def startWake (s : State) (f : Nat) : State :=
  let s := resendLog s f
  let lost := s.mesh.logDropped.contains f
  let s := { s with mesh := { s.mesh with logDropped := nsDel f s.mesh.logDropped } }
  let s := setFieldPower (setField s f { getField s f with wakeWaiting := false, wakeDue := false }) f 3
  if lost then
    let s := raise s Key.powerFlags 6
    replayNow (abandon s (fieldSeqs s f))
  else s

/-- Step 4 of R460: the last row runs, at the boundary that follows the wake's beginning (DESIGN CHOICE, assumption log 64). The field is
ACTIVE, its cores go on, and their routers give out what they held (R68). -/
def finishWake (s : State) (f : Nat) : State :=
  let s := (s.stp.met.filter (fun e => (fieldCores s f).contains e.1)).foldl (fun s e => unparkErrs s e.1 e.2) s
  (fieldCores s f).foldl ejectVc0 (setFieldPower (mapField s f (unparkCore s)) f 4)

/-- A wake decided (R460): deferred while a neighbour draws too much. -/
def decideWake (s : State) (f : Nat) : State :=
  if !fieldParked s f then s
  else if wakeDeferred s f then raise (setField s f { getField s f with wakeWaiting := true, wakeDue := false }) Key.powerFlags 4
  else startWake s f

/-- WAKE_PROCEED (R460): no neighbour stands at or above 85 % any more. How long the wake was deferred is not the command's to say: the
time added to WAKE_DEFERRED_US is free, up to the limit. -/
def execWakeProceed (field : Nat) (s : State) : Host.Outcome State Fault Refusal :=
  if 90 ≤ field ∨ !(getField s field).wakeWaiting ∨ wakeDeferred s field then .next s
  else
    let r := drawFree s
    .next (startWake (addN r.2 (Key.pwrWakeDeferredUs field) 64 (r.1 % (1000 * getN s Key.wakeDeferLimitMs + 1))) field)

/-- WAKE_DEFER_LIMIT_EXPIRY (R460): the deferred wake proceeds, at a quarter of the rate. -/
def execWakeDeferLimitExpiry (field : Nat) (s : State) : Host.Outcome State Fault Refusal :=
  if 90 ≤ field ∨ !(getField s field).wakeWaiting then .next s
  else .next (startWake (addN s (Key.pwrWakeDeferredUs field) 64 (1000 * getN s Key.wakeDeferLimitMs)) field)

/-- Whether a field holds logical cores of the applied placement (R463, R484). -/
def fieldPlaced (s : State) (f : Nat) : Bool :=
  match s.placement with
  | none => false
  | some p => p.cores.any (fun c => coreField s c.core == f)

/-- The check of PARK_REQUEST (R463). -/
def parkCheck (s : State) (v : Nat) : Nat := if v ≤ 89 ∧ inRun s ∧ fieldPlaced s v then stWrongState else stOk

/-- The owner parks a field, with park cause 3; 0xFF names none. -/
def parkEffect (s : State) (v : Nat) : State :=
  let s := setN s Key.parkRequest v
  if v ≤ 89 then parkField s v 2 else s

/-- PARK_REQUEST (R463). -/
def execParkRequest (w : WReq) (s : State) : Host.Outcome State Fault Refusal :=
  .next (ownWrite s Key.parkRequest w parkCheck parkEffect)

/-- The check of WAKE_REQUEST (R463): park causes 1, 2 and 5 refuse it. -/
def wakeCheck (s : State) (v : Nat) : Nat :=
  if v ≤ 89 ∧ (inRun s ∧ fieldPlaced s v ∨ getN s (Key.pwrParkCauses v) &&& 0x13 ≠ 0) then stWrongState else stOk

/-- The owner wakes a field; its causes 3 and 4 end. -/
def wakeEffect (s : State) (v : Nat) : State :=
  let s := setN s Key.wakeRequest v
  if v ≤ 89 then decideWake (setN s (Key.pwrParkCauses v) 0) v else s

/-- WAKE_REQUEST (R463). -/
def execWakeRequest (w : WReq) (s : State) : Host.Outcome State Fault Refusal :=
  .next (ownWrite s Key.wakeRequest w wakeCheck wakeEffect)

/-! ### Heat (R464, R465) -/

/-- The sensors of a sample newly found failed: below −20 °C or above 150 °C. -/
def failedSensors (old : Nat) (xs : List Int) : List Nat :=
  (List.range 16).filter (fun i => !bit old i && (decide (xs.getD i 0 < -200) || decide (1500 < xs.getD i 0)))

/-- The highest reading of the sensors that have not failed. -/
def fieldTempOf (failed : Nat) (xs : List Int) : Option Int :=
  ((List.range 16).filter (fun i => !bit failed i)).foldl (fun a i =>
    some (match a with
      | none => xs.getD i 0
      | some t => max t (xs.getD i 0))) none

/-- FIELD_TEMP as a signed value, in 0.1 °C. -/
def fieldTemp (s : State) (f : Nat) : Int := signed 16 (getN s (Key.thmFieldTemp f))

/-- HOTTEST_FIELD and HOTTEST_TEMP over the fields sampled. -/
def refreshHottest (s : State) : State :=
  let fs := (List.range 90).filter (fun f => getDom s (Key.thmThermalReadings f) != [])
  match fs with
  | [] => s
  | f :: rest =>
    let h := rest.foldl (fun a b => if fieldTemp s a < fieldTemp s b then b else a) f
    setN (setN s Key.hottestField h) Key.hottestTemp (getN s (Key.thmFieldTemp h))

/-- The thresholds of R465 applied to a field at a temperature. -/
def applyHeat (s : State) (f : Nat) (t : Int) : State :=
  let deg (k : Nat) : Int := 10 * (getN s k : Int)
  let fr := getField s f
  let s := setField s f { fr with
    hot := fr.hot || decide (deg Key.throttleC ≤ t)
    cool := fr.cool && decide (t ≤ deg Key.throttleC - 20)
    wakeDue := fr.wakeDue && decide (t ≤ deg Key.unparkC)
    shutDue := fr.shutDue || (regOn s f && decide (deg Key.shutC ≤ t)) }
  if regOn s f && decide (deg Key.tripC ≤ t) then dropField (raise s Key.thermalFlags 3) f 0 3
  else if deg Key.parkC ≤ t ∧ 2 ≤ fieldPower s f ∧ !bit (getN s (Key.pwrParkCauses f)) 0 then
    parkField (raise s Key.thermalFlags 1) f 0
  else if deg Key.parkC ≤ t ∧ (getField s f).wakeWaiting then parkField s f 0
  else s

/-- THERMAL_SAMPLE (R464, R465): readings in 0.1 °C; failed sensors are ignored until the next bring-up. -/
def execThermalSample (field : Nat) (readings : List Int) (s : State) : Host.Outcome State Fault Refusal :=
  if 90 ≤ field then .next s
  else
    let old := getN s (Key.thmThermalFailed field)
    let new := failedSensors old readings
    let failed := new.foldl (fun m i => m ||| 2 ^ i) old
    let s := setDom s (Key.thmThermalReadings field) ((List.range 16).flatMap (fun i => leBytes 2 (unsigned 16 (readings.getD i 0))))
    let s := setN s (Key.thmThermalFailed field) failed
    let s := if new = [] then s else raise s Key.thermalFlags 4
    let s := if 8 < ((List.range 16).filter (bit failed)).length then parkField s field 4 else s
    .next (match fieldTempOf failed readings with
      | none => s
      | some t => applyHeat (refreshHottest (setN s (Key.thmFieldTemp field) (unsigned 16 t))) field t)

/-- UNPARK_HOLD_EXPIRY (R465): the field has stayed at or below UNPARK_C for 2 ms; it wakes at the next boundary. -/
def execUnparkHoldExpiry (field : Nat) (s : State) : Host.Outcome State Fault Refusal :=
  if 90 ≤ field ∨ !bit (getN s (Key.pwrParkCauses field)) 0 ∨ 10 * (getN s Key.unparkC : Int) < fieldTemp s field then .next s
  else .next (setField s field { getField s field with wakeDue := true })

/-! ### The shut (R69, R465) -/

/-- The start of a shut at a boundary: programs suspended, streams stopped, the field closed to new head flits. -/
def beginShut (s : State) (f : Nat) : State :=
  let s := raise (stopEngine s) Key.thermalFlags 2
  setField s f { getField s f with shutDue := false, draining := true }

/-- FIELD_SHUT_DRAIN_END (R69, R465): the regulator turns off, and the field is LOST with cause 3. -/
def execFieldShutDrainEnd (field : Nat) (s : State) : Host.Outcome State Fault Refusal :=
  if !regOn s field ∨ !(getField s field).draining then .next s else .next (dropField s field 0 3)

/-! ### The set point and the clocks (R452, R411, R466) -/

/-- The highest compute clock at a set point, in MHz (R452). -/
def clockLimit (mv : Nat) : Nat :=
  let at_ (v0 c0 v1 c1 : Nat) : Nat := (c0 + (c1 - c0) * (mv - v0) / (v1 - v0)) / 10 * 10
  if mv ≤ 600 then 900
  else if mv ≤ 650 then at_ 600 900 650 1150
  else if mv ≤ 700 then at_ 650 1150 700 1400
  else if mv ≤ 720 then at_ 700 1400 720 1500
  else if mv ≤ 760 then at_ 720 1500 760 1600
  else 1600

/-- The written and the applied clock of a half, and its fabric clock. -/
def halfWritten (east : Bool) : Nat := if east then Key.clockEastMhz else Key.clockWestMhz
def halfApplied (east : Bool) : Nat := if east then Key.clockEastApplied else Key.clockWestApplied
def halfFabric (east : Bool) : Nat := if east then Key.fabricClockEast else Key.fabricClockWest

/-- The applied clock of a half set; the fabric clock follows it up to 1,500 MHz (R52). -/
def applyClock (s : State) (east : Bool) (mhz : Nat) : State := setN (setN s (halfApplied east) mhz) (halfFabric east) (min mhz 1500)

/-- The check of VCORE_MV and of the half clocks (R452), on the values that the commit leaves. -/
def clocksFit (s : State) : Bool :=
  decide (getN s Key.clockWestMhz ≤ clockLimit (getN s Key.vcoreMv)) && decide (getN s Key.clockEastMhz ≤ clockLimit (getN s Key.vcoreMv))

/-- The check of VCORE_MV. -/
def vcoreCheck (s : State) (v : Nat) : Nat := if clocksFit (setN s Key.vcoreMv v) then stOk else stBadValue

/-- The set point moves; the clocks are within its limit before and after. -/
def vcoreEffect (s : State) (v : Nat) : State := setN (setN s Key.vcoreMv v) Key.vcoreAppliedMv v

/-- VCORE_MV (R452). -/
def execVcoreMv (w : WReq) (s : State) : Host.Outcome State Fault Refusal :=
  .next (ownWrite s Key.vcoreMv w vcoreCheck vcoreEffect)

/-- The check of a half's clock. -/
def clockCheck (east : Bool) (s : State) (v : Nat) : Nat := if clocksFit (setN s (halfWritten east) v) then stOk else stBadValue

/-- The half ramps to its new clock; a half that R466 holds below its written clock stays where it is, or falls to the new one. -/
def clockEffect (east : Bool) (s : State) (v : Nat) : State :=
  let a := getN s (halfApplied east)
  let held := a < getN s (halfWritten east)
  applyClock (setN s (halfWritten east) v) east (if held then min a v else v)

/-- CLOCK_HALF_WRITE (R411, R452). -/
def execClockHalfWrite (east : Bool) (w : WReq) (s : State) : Host.Outcome State Fault Refusal :=
  .next (ownWrite s (halfWritten east) w (clockCheck east) (clockEffect east))

/-- The fields of a half. -/
def halfFields (east : Bool) : List Nat := (List.range 90).filter (fun f => (5 ≤ f % 10) == east)

/-- Whether a field was too hot or drew too much in the beat, by its samples or by what it stands at (R466). -/
def ranHot (s : State) (f : Nat) : Bool := (getField s f).hot || decide (10 * (getN s Key.throttleC : Int) ≤ fieldTemp s f)

/-- Whether a field stayed cool and drew little throughout the beat (R466). -/
def ranCool (s : State) (f : Nat) : Bool :=
  (getField s f).cool && decide (fieldTemp s f ≤ 10 * (getN s Key.throttleC : Int) - 20) &&
    decide (100 * getN s (Key.regFieldCurrentA f) ≤ 85 * getN s (Key.regCurrentRatingA f))

/-- Whether the input power was above its limit in the beat, and whether it stayed at or below 95 % of it (R466). -/
def inputHigh (s : State) : Bool := s.power.powerHigh || decide (getN s Key.powerLimitW < getN s Key.inputPowerW)
def inputLow (s : State) : Bool := s.power.powerLow && decide (100 * getN s Key.inputPowerW ≤ 95 * getN s Key.powerLimitW)

/-- One half's clock stepped at a boundary (R466). -/
def throttleHalf (s : State) (east : Bool) : State :=
  let fs := halfFields east
  let hot := fs.any (ranHot s)
  let a := getN s (halfApplied east)
  let cap := min (getN s (halfWritten east)) (clockLimit (getN s Key.vcoreMv))
  if hot || inputHigh s then
    let n := max 250 (a - 50)
    if n < a then
      let s := if hot then raise s Key.thermalFlags 0 else s
      applyClock (if inputHigh s then raise s Key.powerFlags 3 else s) east n
    else s
  else if fs.all (ranCool s) && inputLow s then applyClock s east (min cap (a + 50))
  else applyClock s east (min cap a)

/-- A park or a wake that had begun before a boundary ends, and PARKED_BEATS counts a boundary at which the field is PARKED or WAKING (R458,
R472): a park, whose rows stop within 165 µs, is taken as ended before the boundary, a wake as ending after it (DESIGN CHOICE, assumption log
64). -/
def settleField (s : State) (f : Nat) : State :=
  let st := fieldPower s f
  if fieldParked s f then count64 (setFieldPower s f 6) (Key.pwrParkedBeats f)
  else if st = 3 then count64 (finishWake s f) (Key.pwrParkedBeats f)
  else s

/-- The fields as a boundary finds them. -/
def settleFields (s : State) : State := (List.range 90).foldl settleField s

/-- A field's part of a boundary: the shut, then the park that waits, then the wake (R69, R457, R460, R465). -/
def fieldBoundary (s : State) (f : Nat) : State :=
  let fr := getField s f
  if fr.shutDue && regOn s f then beginShut s f
  else
    let s := setField s f { fr with shutDue := false, parkDue := false, wakeDue := false }
    let s := if fr.parkDue then parkField s f 3 else s
    if fr.wakeDue && fieldParked s f then
      let causes := setBit (getN s (Key.pwrParkCauses f)) 0 false
      let s := setN s (Key.pwrParkCauses f) causes
      if causes = 0 then decideWake s f else s
    else s

/-- The record of the beat's heat and power begins anew. -/
def resetHeat (s : State) : State :=
  { s with power := { s.power with
      powerHigh := false
      powerLow := true
      fields := s.power.fields.map (fun e => (e.1, { e.2 with hot := false, cool := true })) } }

/-- The power and heat work of a boundary (R460, R465, R466, R467). -/
def powerBoundary (s : State) (coolantIn coolantOut : Int) : State :=
  let s := setN (setN s Key.coolantInlet (unsigned 16 coolantIn)) Key.coolantOutlet (unsigned 16 coolantOut)
  let s := if 400 < signed 16 (getN s Key.coolantInlet) then raise s Key.thermalFlags 5 else s
  let s := (List.range 90).foldl fieldBoundary s
  resetHeat (throttleHalf (throttleHalf s false) true)

end Sys2Proof.Machine
end

