-- ==== Sys2Proof/Machine/Beat.lean ====
section
/-! DEFINITION. The beat's number and source, stretch, the host lease, and the clocks (16_beat_clocks.md). -/

namespace Sys2Proof.Machine

/-! ### Ticks (R348, R395, R396, R399) -/

/-- The directions in which a tick goes on: the neighbour's route to the root leads back here (R348). -/
def downstreamDirs (s : State) : List Nat :=
  match rootPos s with
  | none => []
  | some q => (List.range 4).filter (fun d =>
      let n := neighbourPos s d (if dirBridged s d then 2 else 1)
      routeDir (podW s) (podH s) n.1 n.2 q.1 q.2 == some (oppositeDir d))

/-- The ports that carry a tick on: every ACTIVE adjacent port downstream, the skip ports of a bridge included (R348). -/
def tickPorts (s : State) : List Nat :=
  ((downstreamDirs s).flatMap (fun d => if dirBridged s d then skipPorts d else adjPorts d)).filter (portActive s)

/-- A tick leaves on every port downstream, with the low 48 bits of the beat number and the beat's place in a run (R348, R404). -/
def sendTicks (s : State) (beat runLen runPlace : Nat) : State :=
  (tickPorts s).foldl (fun s p => emit s (.tickOut p (beat % 2 ^ 48) runLen runPlace)) s

/-- The beat number whose low 48 bits a tick states: the one nearest to the engine's own. -/
def tickNumber (s : State) (low : Nat) : Nat := ((beatNow s : Int) + signed 48 (low + 2 ^ 48 - beatNow s % 2 ^ 48)).toNat

/-- An interval between two ticks that differs from the own period by more than 0.1 % (R396). -/
def periodMismatch (s : State) (intervalNs : Nat) : Bool :=
  let p := 1000 * getN s Key.beatPeriodUs
  decide (1000 * intervalNs > 1001 * p) || decide (1000 * intervalNs < 999 * p)

/-- Where an engine takes its beat from, in R395's order; a non-root whose ticks are lost keeps its own reference until it is back on them
(R399). -/
def sourceOf (s : State) : Nat :=
  let root := isTickRoot s
  if !root && portActive s (getN s Key.tickPort) && !s.beat.tickLost then 0
  else if root && getN s Key.beatEpochNs != 0 && s.beat.ptpLocked then 1
  else 2

/-- Whether an engine takes its beat from a tick: the ticks are not lost, or its own boundary has come within ±40 ns of them (R399). -/
def tickHolds (s : State) (time : TickTime) : Bool := !s.beat.tickLost || decide (time.offsetNs.natAbs ≤ 40)

/-- A tick places the next boundary (R395); an engine that still slews onto the ticks keeps its own source (R399). -/
def takeTick (s : State) (beat : Nat) (time : TickTime) (runLength runPlace : Nat) : State :=
  let s := setN s Key.beatOffsetNs (unsigned 32 time.offsetNs)
  if tickHolds s time then
    setN { s with beat := { s.beat with tickLost := false, tick := some (tickNumber s beat, runLength, runPlace) } } Key.beatSource 0
  else s

/-- Whether the interval that a tick ends differs from the own period (R396): compared by an engine with BEAT_SOURCE 0, where the interval lies
outside a stretch run, which the tick that began it says. A first tick, with interval 0, has none to compare. -/
def tickDiffers (s : State) (time : TickTime) : Bool :=
  sourceOf s == 0 && s.beat.tickRun == 0 && time.intervalNs != 0 && periodMismatch s time.intervalNs

/-- TICK (R348, R395, R396, R399): a tick on the tick port places the next boundary and goes on downstream. -/
def execTick (port beat : Nat) (time : TickTime) (runLength runPlace : Nat) (s : State) : Host.Outcome State Fault Refusal :=
  if !s.beat.running ∨ isTickRoot s ∨ getN s Key.tickPort ≠ port ∨ !portActive s port then .next s
  else
    let bad := tickDiffers s time
    let s := if bad then raise s Key.beatFlags 4 else s
    let s := if bad ∧ inRun s then beginHandover s else s
    let s := sendTicks (takeTick s beat time runLength runPlace) beat runLength runPlace
    .next { s with beat := { s.beat with tickRun := runLength } }

/-- TICK_LOST (R399): no tick for two periods; the engine keeps its boundaries on its own reference. -/
def execTickLost (s : State) : Host.Outcome State Fault Refusal :=
  if !s.beat.running ∨ isTickRoot s then .next s
  else
    let s := raise (setN s Key.beatSource 2) Key.beatFlags 1
    .next { s with beat := { s.beat with tickLost := true, tick := none } }

/-- PTP_LOST (R399): a root without PTP lock for two periods. -/
def execPtpLost (s : State) : Host.Outcome State Fault Refusal :=
  if !isTickRoot s ∨ s.beat.ptpLostFlag then .next s
  else
    let s := raise (setN (setN s Key.beatSource 2) Key.ptpState 1) Key.beatFlags 2
    .next { s with beat := { s.beat with ptpLocked := false, ptpLostFlag := true } }

/-- PTP_MESSAGE_RECEIVE (R398): the offset from the grandmaster and the lock, from a message of PTP_DOMAIN at the active core's port. -/
def execPtpMessageReceive (m : PtpMessage) (locked : Bool) (s : State) : Host.Outcome State Fault Refusal :=
  if getN s Key.bringupPhase < 2 ∨ m.port ≠ getN s Key.activeCore ∨ m.domain ≠ getN s Key.ptpDomain then .next s
  else
    let s := setN (setN s Key.ptpOffsetNs (unsigned 64 m.offsetNs)) Key.ptpState (if locked then 2 else 1)
    .next { s with beat := { s.beat with ptpLocked := locked, ptpLostFlag := s.beat.ptpLostFlag && !locked } }

/-- BEAT_SOURCE as R395 prefers it. -/
def refreshSource (s : State) : State := setN s Key.beatSource (sourceOf s)

/-- T(b) (R395), from the origin of the period in force (R394). -/
def beatTime (s : State) (b : Nat) : Nat :=
  getN s Key.beatEpochNs + s.beat.origin.2 + (b - s.beat.origin.1) * (1000 * getN s Key.beatPeriodUs)

/-- The number of the latest T(b) at or before a time; a root steers its boundaries to T(b) within ±200 ns (R397), and one that comes so much
early is that of the T(b) it is steered to. -/
def numberAt (s : State) (ns : Nat) : Nat :=
  s.beat.origin.1 + (ns + 200 - (getN s Key.beatEpochNs + s.beat.origin.2)) / (1000 * getN s Key.beatPeriodUs)

/-! ### Stretch (R403, R404) -/

/-- A stretch request goes upstream; the root keeps it for its next boundary, unless a run is in progress (R404, R415). -/
def requestStretch (s : State) : State :=
  if isTickRoot s then
    if s.beat.stretchLen = 0 then { s with beat := { s.beat with stretchReq := true } } else s
  else if portActive s (getN s Key.tickPort) then emit s (.stretchOut (getN s Key.tickPort)) else s

/-- STRETCH_REQUEST (R404): merged with the own ones and forwarded at once. -/
def execStretchRequest (port : Nat) (s : State) : Host.Outcome State Fault Refusal :=
  .next (if portActive s port then requestStretch s else s)

/-- The number of the boundary that comes, from the engine's own count (R395, R403): the last boundary of a run skips a number. -/
def ownNumber (s : State) (ptpTimeNs : Nat) : Nat :=
  let b := s.beat
  let now := beatNow s
  if b.stretchLen ≠ 0 then if b.stretchPlace + 1 = b.stretchLen then now + 2 else now + 1
  else if getN s Key.beatSource = 1 then numberAt s ptpTimeNs
  else now + 1

/-- The run's length and place at the boundary that comes, from the engine's own count. -/
def ownPlace (s : State) : Nat × Nat :=
  let b := s.beat
  if b.stretchLen ≠ 0 ∧ b.stretchPlace + 1 < b.stretchLen then (b.stretchLen, b.stretchPlace + 1) else (0, 0)

/-- Whether the root may begin a run at beat B (R404): the numbers skipped within the last 1,000, its own included. -/
def mayStretch (s : State) (b : Nat) : Bool :=
  let k := b + getN s Key.stretchRunBeats
  s.beat.stretchReq && getN s Key.stretchMaxPer1000 != 0 &&
    decide ((s.beat.skips.filter (fun x => k < x + 1000)).length + 1 ≤ getN s Key.stretchMaxPer1000)

/-- The root begins a run at the boundary just numbered, or discards the request (R404). -/
def rootStretch (s : State) : State :=
  if !isTickRoot s ∨ !s.beat.stretchReq ∨ s.beat.stretchLen ≠ 0 then s
  else if mayStretch s (beatNow s) then
    let n := getN s Key.stretchRunBeats
    let s := raise (count64 s Key.stretchRuns) Key.beatFlags 3
    { s with beat := { s.beat with
        stretchReq := false, stretchLen := n, stretchPlace := 0, skips := (beatNow s + n) :: s.beat.skips.take 31 } }
  else { s with beat := { s.beat with stretchReq := false } }

/-- The number that the run announced at a boundary skips (R403), among those kept. -/
def noteSkip (s : State) (n : Nat) (place : Nat × Nat) : State :=
  let k := n - place.2 + place.1
  if place.1 = 0 ∨ s.beat.skips.contains k then s else { s with beat := { s.beat with skips := k :: s.beat.skips.take 31 } }

/-- The number of the boundary that comes, with its place in a run: a tick's where the engine follows ticks, else the engine's own. -/
def nextNumber (s : State) (ptpTimeNs : Nat) : Nat × Nat × Nat :=
  match s.beat.tick with
  | some (t, len, pl) => if getN s Key.beatSource = 0 then (t, (len, pl)) else (ownNumber s ptpTimeNs, ownPlace s)
  | none => (ownNumber s ptpTimeNs, ownPlace s)

/-- The boundary gets its number (R395, R399, R403), and the run's place moves on. -/
def numberBoundary (s : State) (ptpTimeNs : Nat) : State :=
  let s := refreshSource s
  let old := beatNow s
  let wasRun := s.beat.stretchLen ≠ 0
  let n := (nextNumber s ptpTimeNs).1
  let place := (nextNumber s ptpTimeNs).2
  let began := !isTickRoot s ∧ place.1 ≠ 0 ∧ place.2 = 0
  let s := setN s Key.beatNumber (n % 2 ^ 64)
  let s := if wasRun ∧ old + 2 = n then count64 s Key.beatsSkipped else s
  let s := if began then count64 s Key.stretchRuns else s
  let s := if getN s Key.beatSource = 1 then setN s Key.beatOffsetNs (unsigned 32 ((ptpTimeNs : Int) - beatTime s n)) else s
  let s := noteSkip s n place
  rootStretch { s with beat := { s.beat with tick := none, stretchLen := place.1, stretchPlace := place.2 } }

/-- BEAT_PERIOD_US (R394): refused in RUN; the boundary is the origin of the new period. -/
def periodCheck (s : State) (_ : Nat) : Nat := if inRun s then stWrongState else stOk

/-- The boundary of the commit is the origin of the new period: its T(b) stays where it is. -/
def periodEffect (s : State) (v : Nat) : State :=
  let at_ := beatTime s (beatNow s) - getN s Key.beatEpochNs
  { setN s Key.beatPeriodUs v with beat := { s.beat with origin := (beatNow s, at_) } }

def execBeatPeriodUs (w : WReq) (s : State) : Host.Outcome State Fault Refusal :=
  .next (ownWrite s Key.beatPeriodUs w periodCheck periodEffect)

/-! ### The host lease (R407) -/

/-- A renewal: the boundaries count from 0, and a lapsed lease holds again. -/
def renewLease (s : State) : State := { s with beat := { s.beat with leaseBeat := 0, lapsed := false } }

/-- HOST_LEASE_BEATS: 0 turns the lease off; another value counts as a renewal. -/
def leaseBeatsEffect (s : State) (v : Nat) : State := renewLease (setN s Key.hostLeaseBeats v)

/-- HOST_LEASE_BEATS (R407). -/
def execHostLeaseBeats (w : WReq) (s : State) : Host.Outcome State Fault Refusal :=
  .next (ownWrite s Key.hostLeaseBeats w noCheck leaseBeatsEffect)

/-- A write of any value renews the lease. -/
def leaseEffect (s : State) (_ : Nat) : State := renewLease s

/-- HOST_LEASE (R407). -/
def execHostLease (w : WReq) (s : State) : Host.Outcome State Fault Refusal :=
  .next (ownWrite s Key.hostLease w noCheck leaseEffect)

/-- The lease lapses at the HOST_LEASE_BEATS-th boundary after the last renewal. -/
def lapseLease (s : State) : State :=
  let n := getN s Key.hostLeaseBeats
  if n = 0 ∨ s.beat.lapsed ∨ s.beat.leaseBeat < n then s
  else raise { s with beat := { s.beat with lapsed := true } } Key.beatFlags 5

/-- HOST_LEASE_EXPIRED (R407). -/
def execHostLeaseExpired (s : State) : Host.Outcome State Fault Refusal := .next (lapseLease s)

/-! ### The reference (R408, R409) -/

/-- The first eligible source in REF_PRIORITY; LOCAL, code 0, is always eligible. -/
def bestSource (s : State) : Option Nat :=
  ((slice (getDom s Key.refPriority) 0 4).map (fun b => b.toNat)).find? (fun c => c == 0 || s.beat.eligible.contains c)

/-- HOLDOVER is raised while no source of REF_PRIORITY is eligible (R409). -/
def raiseHoldover (s : State) : State := if bestSource s = none then raise s Key.clockFlags 1 else s

/-- A change of source (R409): REF_CHANGED, and the PLL in holdover, from which it locks to the new source after 10 s; in holdover as well while
there is none. -/
def selectRef (s : State) : State :=
  match bestSource s with
  | some c => if getN s Key.refSource = c then s else raise (setN (setN s Key.refSource c) Key.refState 1) Key.clockFlags 0
  | none => raiseHoldover (if getN s Key.refState = 0 then setN s Key.refState 1 else s)

/-- REF_SOURCE_LOSS (R408, R409). -/
def execRefSourceLoss (code : Nat) (s : State) : Host.Outcome State Fault Refusal :=
  .next (if s.beat.eligible.contains code then
    selectRef { s with beat := { s.beat with eligible := nsDel code s.beat.eligible } } else s)

/-- REF_ELIGIBLE (R408): after 10 s of lock. -/
def execRefEligible (code : Nat) (s : State) : Host.Outcome State Fault Refusal :=
  .next (if 1 ≤ code ∧ code ≤ 9 then
    selectRef { s with beat := { s.beat with eligible := nsIns code s.beat.eligible } } else s)

/-- HOLDOVER_EXPIRY (R409): 10 s of holdover are over; the PLL locks to the source it changed to, or runs free where there is none. -/
def execHoldoverExpiry (s : State) : Host.Outcome State Fault Refusal :=
  .next (if getN s Key.refState = 1 then setN s Key.refState (if (bestSource s).isSome then 0 else 2) else s)

/-! ### Spread spectrum, service outputs, enables (R412 to R414) -/

/-- The key of an SSC object. -/
def sscKey (pll : Nat) (rate : Bool) : Nat := if rate then Key.pllSscRateKhz pll else Key.pllSscDepth pll

/-- A PLL that does not offer spread spectrum refuses the write (R412). -/
def sscCheck (pll : Nat) (_ : State) (_ : Nat) : Nat := if pll ≤ 4 then stOk else stBadValue

def sscEffect (pll : Nat) (rate : Bool) (s : State) (v : Nat) : State := setN s (sscKey pll rate) v

/-- SSC_WRITE (R412). -/
def execSscWrite (pll : BitVec 3) (rate : Bool) (w : WReq) (s : State) : Host.Outcome State Fault Refusal :=
  .next (ownWrite s (sscKey pll.toNat rate) w (sscCheck pll.toNat) (sscEffect pll.toNat rate))

/-- The frequency of a service-clock source, in kHz (R413); the beat's pulse is far below the limit. -/
def clkoutSourceKHz (s : State) (code : Nat) : Nat :=
  match code with
  | 0 => 156250
  | 1 => 1000 * getN s Key.clockWestMhz
  | 2 => 1000 * getN s Key.clockEastMhz
  | 3 => 1500000
  | 4 => 1000000
  | 5 => 0
  | n => Config.clkoutKHz n

/-- The key of a service-clock object. -/
def clkoutKey (n : Nat) (sub : Nat) : Nat := 0x302000 + n * 256 + sub

/-- A setting above 400 MHz is refused (R413), judged on the values that the commit leaves. -/
def clkoutFits (s : State) (n : Nat) : Bool :=
  decide (clkoutSourceKHz s (getN s (clkoutKey n 0)) ≤ 400000 * getN s (clkoutKey n 1))

def clkoutCheck (n sub : Nat) (s : State) (v : Nat) : Nat :=
  if clkoutFits (setN s (clkoutKey n sub) v) n then stOk else stBadValue

/-- A pin follows its objects (R413): driven while ENABLE is 1 and its logic is clocked (R414), held low otherwise. -/
def drivePin (s : State) (n : Nat) : State :=
  let on := getN s (clkoutKey n 2) == 1 && bit (getN s Key.clockEnableMc) 4
  let pin : ClkPin := ⟨if on then some (getN s (clkoutKey n 0), getN s (clkoutKey n 1)) else none, 0⟩
  { s with beat := { s.beat with pins := vecOf 2 (fun i => if i = n then pin else s.beat.pins.toList.getD i pin) } }

def clkoutEffect (n sub : Nat) (s : State) (v : Nat) : State := drivePin (setN s (clkoutKey n sub) v) n

/-- The beat's source on a pin (R413): the divisor counts boundaries, and a pulse leaves at the last of them. -/
def pulsePin (s : State) (n : Nat) : State :=
  match s.beat.pins.toList[n]? with
  | some ⟨some (5, d), c⟩ =>
    let t := { s with beat := { s.beat with pins := vecOf 2 (fun i =>
      if i = n then ⟨some (5, d), if c + 1 < d then c + 1 else 0⟩ else s.beat.pins.toList.getD i ⟨none, 0⟩) } }
    if c + 1 < d then t else emit t (.clkPulse n)
  | _ => s

/-- CLKOUT_WRITE (R413). -/
def execClkoutWrite (n : Bool) (sub : BitVec 2) (w : WReq) (s : State) : Host.Outcome State Fault Refusal :=
  .next (ownWrite s (clkoutKey (b2n n) sub.toNat) w (clkoutCheck (b2n n) sub.toNat) (clkoutEffect (b2n n) sub.toNat))

/-- The key of a clock-enable object. -/
def enableKey (sub : Nat) : Nat := 0x303000 + sub

/-- The units present of a clock-enable object (R414: the bit of an absent unit reads 0). -/
def enablePresent (s : State) (sub : Nat) : Nat :=
  match sub with
  | 0 => sePresent s.variant
  | 1 => stackPresent s.variant
  | 2 => 0xFFFFFFFF
  | 3 => 0xFF
  | _ => 0x3F

/-- The stream engines that a placement uses. -/
def enginesUsed (p : Placement) : List Nat :=
  p.arms.map (fun a => a.1) ++ p.trims.map (fun t => t.se) ++ p.feeders.map (fun e => e.2.2.1) ++ p.senders.map (fun e => e.2.1) ++
    p.gradients.map (fun e => e.1)

/-- The units that the applied placement uses: stream engines of its arms, trims, feeders, senders and gradients, update units of its groups' stacks, gates of its
source table, and every Ethernet port where it has peers. -/
def unitsUsed (s : State) (sub : Nat) : Nat :=
  match s.placement with
  | none => 0
  | some p =>
    let mask (ns : List Nat) : Nat := ns.foldl (fun m n => m ||| 2 ^ n) 0
    match sub with
    | 0 => mask (enginesUsed p)
    | 1 => (groupDescs s).foldl (fun m d => m ||| gdMask d) 0
    | 2 => mask (p.sources.map (fun e => e.gate))
    | 3 => if 1 < p.replicas then 0xFF else 0
    | _ => 0

/-- A unit that the placement uses is not gated in RUN (R414), nor unit 3 of the management cores while one is standby (R536). -/
def enableCheck (sub : Nat) (s : State) (v : Nat) : Nat :=
  if inRun s ∧ unitsUsed s sub &&& (getN s (enableKey sub) - (getN s (enableKey sub) &&& v)) ≠ 0 then stWrongState
  else if sub = 4 ∧ bit (getN s (enableKey 4)) 3 ∧ !bit v 3 ∧ s.mgmt.mcaRuns ∧ s.mgmt.mcbRuns then stWrongState
  else stOk

/-- The objects of an index range put back to their defaults. -/
def clearObjs (s : State) (lo hi : Nat) : State :=
  { s with
    objs := s.objs.filter (fun e => decide (e.1 < lo) || decide (hi ≤ e.1))
    doms := s.doms.filter (fun e => decide (e.1 < lo) || decide (hi ≤ e.1)) }

/-- A unit gated or ungated starts from its reset state (R414). -/
def resetUnit (sub : Nat) (s : State) (n : Nat) : State :=
  match sub with
  | 0 =>
    let k := Key.seState n
    let s := clearObjs s k (k + 256)
    let mine (e : Nat) : Bool := e / 32 != n
    let str := { s.streams with
      queues := s.streams.queues.filter (fun e => mine e.1), trims := s.streams.trims.filter (fun e => mine (e.1 / 64)) }
    refreshSe { s with streams := str, cvus := s.cvus.filter (fun e => e.1 != 8 + n) } n
  | 1 =>
    let s := clearObjs s (Key.uuState n) (Key.uuState n + 256)
    { s with cvus := s.cvus.filter (fun e => e.1 != 40 + n), update := { s.update with
        engines := s.update.engines.filter (fun e => e.1 / 64 != n)
        fast := s.update.fast.filter (fun e => e.1 != n)
        sweep := s.update.sweep.filter (fun e => e.1 != n)
        sticky := stPut s.update.sticky n 0
        beatEv := stPut s.update.beatEv n 0 } }
  | 2 => { s with gates := { s.gates with
      slots := s.gates.slots.filter (fun x => x.gate != n)
      cursors := s.gates.cursors.filter (fun c => c.gate != n) } }
  | 3 =>
    let s := clearObjs s (Key.epState n) (Key.epState n + 256)
    { s with eth := { s.eth with resolved := s.eth.resolved.filter (fun e => e.1 != n) } }
  | _ =>
    if n < 4 then { s with cvus := s.cvus.filter (fun e => e.1 != n && e.1 != 4 + n) }
    else if n = 4 then drivePin (drivePin (clearObjs s 0x302000 0x302200) 0) 1
    else if n = 5 then { s with sec := { s.sec with tdi := false } }
    else s

/-- The units whose enable changes. -/
def enableEffect (sub : Nat) (s : State) (v : Nat) : State :=
  let old := getN s (enableKey sub)
  let new := v &&& enablePresent s sub
  let s := setN s (enableKey sub) new
  ((List.range 32).filter (fun n => bit old n != bit new n)).foldl (resetUnit sub) s

/-- CLOCK_ENABLE_WRITE (R414). -/
def execClockEnableWrite (sub : BitVec 3) (w : WReq) (s : State) : Host.Outcome State Fault Refusal :=
  .next (ownWrite s (enableKey sub.toNat) w (enableCheck sub.toNat) (enableEffect sub.toNat))

end Sys2Proof.Machine
end

