-- ==== Sys2Proof/Machine/Load.lean ====
section
/-! DEFINITION. The load checks of a placement (R34, R71, R88, R89, R167, R207, R219, R233, R244, R259, R266, R291, R299, R301, R304,
R308, R315, R335, R380, R401, R506, R537), and its application (R445, R483, R556). -/

namespace Sys2Proof.Machine

/-! ### Tile program words (07_tile_programs.md R166, R167, R170 to R173) -/

/-- Whether a field of a word holds a reserved code. -/
def tileCodeReserved (op w : Nat) : Bool :=
  let f (hi lo : Nat) := bits w hi lo
  match op with
  | 0x04 => f 57 55 == 7
  | 0x07 => decide (2 ≤ f 57 56)
  | 0x09 => decide (13 ≤ f 42 39) || (f 42 39 == 11 && decide (8 ≤ f 31 0)) || (f 42 39 == 12 && decide (8 ≤ f 31 0))
  | 0x0A => decide (5 ≤ f 54 52)
  | 0x10 => decide (5 ≤ f 57 54) || decide (6 ≤ f 46 44)
  | 0x11 => decide (4 ≤ f 57 54) || decide (6 ≤ f 46 44) || f 38 37 == 3
  | 0x12 => decide (5 ≤ f 57 54)
  | 0x19 => decide (5 ≤ f 54 52) || decide (6 ≤ f 48 46) || (f 54 52 != 4 && f 45 40 != 0)
  | 0x20 => decide (9 ≤ f 57 54) || decide (8 ≤ f 53 50)
  | 0x21 => decide (9 ≤ f 57 54) || decide (8 ≤ f 53 50)
  | 0x22 => decide (9 ≤ f 57 54) || decide (8 ≤ f 53 50) || decide (6 ≤ f 34 32)
  | 0x28 => decide (23 ≤ f 57 52)
  | 0x2A => decide (11 ≤ f 57 54) || decide (11 ≤ f 53 50)
  | 0x30 => decide (2 ≤ f 57 56)
  | _ => false

/-- Whether a word of a program window passes the check of R167. -/
def tileWordOk (w : Nat) : Bool :=
  let op := bits w 63 58
  opcodeKnown op && bits w 57 0 &&& (2 ^ 58 - 1 - fieldMask2 (tileFields0 op ++ tileFields1 op)) == 0 && !tileCodeReserved op w

/-! ### Cores (04_core.md R88, R89) -/

/-- A failed check: STATUS, place and index (R444). -/
abbrev LoadFail : Type := Nat × Nat × Nat

/-- The first failure of a list of checks. -/
def firstFail {α : Type} (f : α → Option LoadFail) : List α → Option LoadFail
  | [] => none
  | x :: xs => (f x).orElse (fun _ => firstFail f xs)

/-- A check that fails with BAD_VALUE at a place and an index. -/
def badIf (b : Bool) (place index : Nat) : Option LoadFail := if b then some (stBadValue, place, index) else none

/-- RING_TABLE entry n of a record: size and first page. -/
def cfgRing (cfg : List Byte) (n : Nat) : Nat × Nat := (field cfg (8 + 4 * n) 1, field cfg (9 + 4 * n) 1)

/-- The pages of a ring. -/
def ringPageList (cfg : List Byte) (n : Nat) : List Nat := upFrom (cfgRing cfg n).2 (cfgRing cfg n).1

/-- The ring that UNICAST_RINGS names for a channel, and that GROUP_RING names for an entry. -/
def cfgUnicast (cfg : List Byte) (vc : Nat) : Nat := bits (field cfg 4 2) (3 * vc - 1) (3 * vc - 3)
def cfgGroup (cfg : List Byte) (e : Nat) : Nat := bits (field cfg 0x28 48) (3 * e + 2) (3 * e)

/-- Whether a ring is in use. -/
def cfgRingUsed (cfg : List Byte) (n : Nat) : Bool := (cfgRing cfg n).1 != 0

/-- The GROUP_RING entry that a word joins its core to: group g of the rows at g and of the columns at 64 + g (R88); none where the word is
no joining MCJOIN (R171). -/
def wordJoin (w : Nat) : Option Nat :=
  if bits w 63 58 = 0x1A ∧ bit w 50 then some (64 * b2n (bit w 57) + bits w 56 51) else none

/-- Whether a core's record passes R89, for the groups that its program joins and the channels that it receives on (DESIGN CHOICE, assumption
log 20). -/
def cfgOk (p : CorePlan) (joins : List Nat) : Bool :=
  let c := p.cfg
  c.length == 128 && field c 0x7C 4 == crc32c (slice c 0 0x7C) &&
    decide (field c 0 1 ≤ 4) && decide (field c 1 1 ≤ 3) && decide (4 ≤ field c 2 1) && decide (field c 2 1 ≤ 32) &&
    decide (field c 3 1 ≤ 16) && bits (field c 4 2) 15 9 == 0 && field c 6 2 == 0 && field c 0x58 36 == 0 &&
    (List.range 8).all (fun n => decide ((cfgRing c n).1 ≤ 32) && decide ((cfgRing c n).2 ≤ 31) && field c (10 + 4 * n) 2 == 0 &&
      (!cfgRingUsed c n || decide ((cfgRing c n).1 + (cfgRing c n).2 ≤ field c 2 1))) &&
    noRepeat ((List.range 8).flatMap (ringPageList c)) &&
    p.receives.all (fun vc => decide (1 ≤ vc) && decide (vc ≤ 3) && cfgRingUsed c (cfgUnicast c vc)) &&
    joins.all (fun e => decide (e < 128) && cfgRingUsed c (cfgGroup c e))

/-- The SRAM that a plan loads. -/
def planSram (p : CorePlan) : Mem := p.image.foldl (fun m seg => memStore m seg.1 seg.2) []

/-- The instruction indexes of a window that the plan writes; every other word is the all-zero NOP. -/
def planWords (p : CorePlan) : List Nat :=
  ((planSram p).filter (fun c => decide (c.1 < (field p.cfg 1 1 + 1) * 16384))).map (fun c => c.1 / 8) |>.eraseDups

/-- The groups that a core's program joins: those of its MCJOIN words, and those that the plan declares. -/
def programJoins (p : CorePlan) : List Nat :=
  p.joins ++ (planWords p).filterMap (fun i => wordJoin (leNat (memBytes (planSram p) (8 * i) 8)))

/-- The load checks of a core's plan (R89, R167). -/
def coreFail (p : CorePlan) : Option LoadFail :=
  let at_ := coreWord p.core
  if !cfgOk p (programJoins p) then some (stBadValue, at_, 0)
  else firstFail (fun i => badIf (!tileWordOk (leNat (memBytes (planSram p) (8 * i) 8))) at_ i) (planWords p)

/-- A record for every logical core (R88). -/
def missingCore (s : State) (p : Placement) : Option LoadFail :=
  firstFail (fun id => badIf (corePlan p id).isNone (coreWord id) 0) (allCores s)

/-! ### Update programs (10_update_unit.md R241, R242, R244) -/

/-- The bits that an update instruction uses beyond its opcode (R241). -/
def updFields (op : Nat) : List (Nat × Nat) :=
  if op ≤ 0x02 then []
  else if op = 0x03 then [(25, 22), (3, 0)]
  else if op = 0x04 then [(21, 18), (7, 5), (3, 0)]
  else if op = 0x08 ∨ op = 0x10 then [(25, 8)]
  else if op = 0x0B ∨ op = 0x0C ∨ op = 0x0D then [(25, 18)]
  else if op ≤ 0x0F ∨ op = 0x13 then [(25, 14), (9, 9)]
  else if op ≤ 0x16 then [(25, 18)]
  else if op ≤ 0x19 then [(21, 18), (1, 0)]
  else [(25, 22), (1, 0)]

/-- The opcode and the operand code of a word. -/
abbrev updOp (w : W32) : Nat := bits w.toNat 31 26
abbrev updOpnd (w : W32) : Nat := bits w.toNat 3 0

/-- Whether a word alone passes R244 for a count of states: opcode, reserved bits and codes, states that are not there. -/
def updWordOk (nstate : Nat) (w : W32) : Bool :=
  let op := updOp w
  let o := updOpnd w
  decide (op ≤ 0x1A) && bits w.toNat 25 0 &&& (2 ^ 26 - 1 - fieldMask2 (updFields op)) == 0 &&
    (op != 0x03 || (decide (o ≤ 7) && (decide (o < 2) || decide ((o - 2) % 3 < nstate)))) &&
    (op != 0x04 || (decide (5 ≤ o) && decide (o ≤ 8) && bits w.toNat 6 5 != 3 &&
      (if o = 8 then bits w.toNat 7 5 == 0 else decide (o - 5 < nstate))))

/-- The index of PHASE. -/
def phaseAt (ws : List W32) : Nat := ws.findIdx (fun w => updOp w == 2)

/-- The indexes of the words that `f` picks. -/
def wordsWhere (ws : List W32) (f : W32 → Bool) : List Nat := (List.range ws.length).filter (fun i => f (ws.getD i 0))

/-- The first index that breaks the order rules of R244; none where they hold. -/
def updOrderFail (nstate : Nat) (ws : List W32) : Option Nat :=
  let n := ws.length
  let ph := phaseAt ws
  let phases := wordsWhere ws (fun w => updOp w == 2)
  let ends := wordsWhere ws (fun w => updOp w == 1)
  let stores (o : Nat) := wordsWhere ws (fun w => updOp w == 4 && updOpnd w == o)
  if decide (256 < n) then some 256
  else if ends != [n - 1] || n == 0 then some ((ends.head?).getD n)
  else if phases.length != 1 then some ((phases.getD 1 n))
  else
    match (List.range nstate).find? (fun k => !(match stores (5 + k) with
        | [i] => decide (i < ph)
        | _ => false)) with
    | some k => some (((stores (5 + k)).head?).getD ph)
    | none =>
      match stores 8 with
      | [i] =>
        if i < ph then some i
        else wordsWhere ws (fun w => decide (0x17 ≤ updOp w) && decide (updOp w ≤ 0x19)) |>.find? (fun i => decide (ph < i)) |>.orElse
          (fun _ => (wordsWhere ws (fun w => updOp w == 0x1A)).find? (fun i => decide (i < ph))) |>.orElse
          (fun _ => (wordsWhere ws (fun w => updOp w == 3 && decide (5 ≤ updOpnd w))).find? (fun i => decide (i < ph)))
      | is => some (is.getD 1 n)

/-- The load checks of a program for a count of states (R244): the program and the instruction index. -/
def programFail (n nstate : Nat) (ws : List W32) : Option LoadFail :=
  match wordsWhere ws (fun w => !updWordOk nstate w) with
  | i :: _ => some (stBadValue, n, i)
  | [] => (updOrderFail nstate ws).map (fun i => (stBadValue, n, i))

/-- The words of a program of the placement. -/
def placedProgram (p : Placement) (n : Nat) : Option (List W32) := (p.programs.find? (fun q => q.1 == n)).map (fun q => q.2)

/-! ### Groups (R232, R233, R301), regions (R299) and the arrays in them -/

/-- The entries of a region table of one stack: kind, first frame, frames (R325). -/
def regionsOf (table : List Byte) (st : Nat) : List (Nat × Nat × Nat) :=
  ((List.range 16).map (fun i => field table (128 * st + 8 * i) 8)).filterMap (fun v =>
    if bits v 55 32 = 0 then none else some (bits v 3 0, bits v 31 8, bits v 55 32))

/-- Whether two runs of frames overlap. -/
def framesMeet (a b : Nat × Nat) : Bool := decide (a.1 < b.1 + b.2) && decide (b.1 < a.1 + a.2)

/-- Whether no two regions of a list overlap. -/
def regionsApart : List (Nat × Nat × Nat) → Bool
  | [] => true
  | r :: rs => rs.all (fun q => !framesMeet r.2 q.2) && regionsApart rs

/-- Whether a stack is present and has not failed (R3, R297). -/
def stackUsable (s : State) (st : Nat) : Bool := bit (stackPresent s.variant) st && getN s (Key.msStackState st) != 2

/-- Whether a region table passes R299: reserved values, overlap, and the last frame; and R297: no region of a stack that is absent or
failed. -/
def regionsOk (s : State) (table : List Byte) : Bool :=
  (List.range 16).all (fun st => regionsOf table st == [] || stackUsable s st) && (List.range 256).all (fun i => let v := field table (8 * i) 8
    bits v 7 4 == 0 && bits v 63 56 == 0 && decide (bits v 3 0 ≤ 5) && decide (bits v 31 8 ≤ 1953124) &&
      decide (bits v 31 8 + bits v 55 32 ≤ 1953125)) &&
    (List.range 16).all (fun st => regionsApart (regionsOf table st))

/-- The first frame past `f` of the regions of a kind that hold `f`, followed through `n` regions that adjoin. -/
def kindReach (rs : List (Nat × Nat)) : Nat → Nat → Nat
  | 0, f => f
  | n + 1, f => match rs.find? (fun r => decide (r.1 ≤ f) && decide (f < r.1 + r.2)) with
    | some r => kindReach rs n (r.1 + r.2)
    | none => f

/-- Whether a run of frames of a stack lies in regions of one kind, which may adjoin; an empty run lies anywhere. -/
def insideKind (table : List Byte) (st kind first frames : Nat) : Bool :=
  let rs := ((regionsOf table st).filter (fun r => r.1 == kind)).map (fun r => r.2)
  decide (first + frames ≤ kindReach rs 16 first)

/-- The bytes of a region kind over all stacks. -/
def kindBytes (table : List Byte) (kind : Nat) : Nat :=
  ((List.range 16).map (fun st => (((regionsOf table st).filter (fun r => r.1 == kind)).map (fun r => 65536 * r.2.2)).sum)).sum

/-- Whether a descriptor alone passes R233 and R301 on an engine. -/
def groupOk (s : State) (p : Placement) (d : List Byte) : Bool :=
  let m := (gdStacks d).length
  d.length == 64 && field d 0x3C 4 == crc32c (slice d 0 0x3C) &&
    decide (gdGroup d < 4096) && decide (field d 2 1 ≤ 1) && (gdFmt d == 1 || gdFmt d == 3 || gdFmt d == 4) && decide (gdStates d ≤ 3) &&
    decide (gdProgram d ≤ 31) && decide (gdKey d ≤ 15) && decide (gdConsts d ≤ 63) && decide (field d 8 1 ≤ 1) &&
    (if gdSlow d then decide (1 ≤ gdDelay d) && decide (gdDelay d ≤ 8) else gdDelay d == 0) &&
    (gdRound d &&& 0xFB == 0 || gdRound d &&& 0xFB == 2) && field d 0x0B 5 == 0 && field d 0x24 24 == 0 &&
    (if gdVector d then gdFmt d == 1 && gdCols d == 0 && gdPanel d == 0 && decide (1 ≤ gdRows d) && m == 1
     else gdRows d % 32 == 0 && decide (32 ≤ gdRows d) && decide (gdRows d ≤ 1048576) &&
       gdCols d % 32 == 0 && decide (32 ≤ gdCols d) && decide (gdCols d ≤ 1048576) &&
       gdPanel d % 32 == 0 && decide (32 ≤ gdPanel d) && decide (gdPanel d ≤ 4096) &&
       decide (1 ≤ m) && gdCols d % m == 0 && gdLocal d % gdPanel d == 0 && gdRows d % gdPanel d == 0) &&
    (gdStacks d).all (stackUsable s) &&
    (placedProgram p (gdProgram d)).isSome

/-- The bytes of exchange array `n` of a group in a stack, INBOUND as array 6 (R304). -/
def exchangeArray (s : State) (d : List Byte) (st enc n : Nat) : Nat :=
  let ol := (ownedIn s d st).length
  if n < 2 then 1024 * gdBl d else if n < 4 then 512 * gdBl d else if n < 6 then 512 * ol else getN s Key.replicas * enc * ol

/-- The bytes of a group's exchange arrays in a stack (R304). -/
def exchangeBytes (s : State) (d : List Byte) (st enc : Nat) : Nat := exOff s d st 6 + exchangeArray s d st enc 6

/-- Whether each array of a group lies in regions of its kind (R299). -/
def arraysOk (s : State) (p : Placement) (d : List Byte) : Bool :=
  (gdStacks d).all (fun st =>
    (List.range 19).all (fun n => insideKind p.regions st 2 (gdBase d + arrOff d n / 65536) (frameUp (arrBytes d n) / 65536)) &&
      (List.range 7).all (fun n => insideKind p.regions st 3 (gdExch d + exOff s d st n / 65536)
        (frameUp (exchangeArray s d st (inboundSize s (gdGroup d)) n) / 65536)))

/-- The states that a program's groups have; of a program that no group names, as many as its operand codes can name. -/
def programStates (p : Placement) (n : Nat) : List Nat := (p.groups.filter (fun d => gdProgram d == n)).map gdStates

/-- The checks of a program that no group names (R244): those that hold for some count of states. -/
def spareProgramFail (p : Placement) (q : Nat × List W32) : Option LoadFail :=
  if programStates p q.1 != [] || (List.range 4).any (fun k => (programFail q.1 k q.2).isNone) then none else programFail q.1 3 q.2

/-- The checks of the group descriptors and of every program. -/
def groupsFail (s : State) (p : Placement) : Option LoadFail :=
  (firstFail (spareProgramFail p) p.programs).orElse fun _ => firstFail (fun i => let d := p.groups.getD i []
    if !groupOk s p d || !noRepeat (p.groups.map gdGroup) then some (stBadValue, i, 0)
    else ((placedProgram p (gdProgram d)).bind (programFail (gdProgram d) (gdStates d))).orElse (fun _ =>
      badIf (!arraysOk s p d) i 0)) (List.range p.groups.length)

/-! ### The gates' tables (11_gradient_exchange.md R259; R304), streams (12) and the rest -/

/-- The stacks that a gate reaches: those of its crescent (R258, R291). -/
def gateStack (gate st : Nat) : Bool := gate / 8 == st / 4

/-- The blocks of a gate's source table. -/
def gateTable (p : Placement) (gate : Nat) : List (Nat × Nat) :=
  ((p.sources.filter (fun e => e.gate == gate)).map (fun e => (e.group, e.block))).eraseDups

/-- Whether the source tables pass R259 and R291. -/
def sourcesOk (s : State) (p : Placement) : Bool :=
  p.sources.all (fun e =>
    decide (e.gate < 32) && inGrid s (keyCore e.source) && decide (e.pos ≤ 65535) &&
      (match groupDesc s e.group with
       | some d => decide (e.block < gdBlocks d) && gateStack e.gate (blockStack d e.block)
       | none => false) &&
      (p.sources.filter (fun f => f.group == e.group && f.block == e.block)).length == e.parts &&
      p.sources.all (fun f => !(f.group == e.group && f.block == e.block) || f.gate == e.gate))

/-- Whether each gate's spill area passes R304. -/
def spillsOk (s : State) (p : Placement) : Bool :=
  (List.range 32).all (fun g => gateTable p g == [] ||
    p.spills.any (fun x => x.1 == g && gateStack g x.2.1 && stackUsable s x.2.1 && decide ((p.depthMax + 1) * 10240 * (gateTable p g).length ≤ x.2.2.2) &&
      insideKind p.regions x.2.1 3 x.2.2.1 (frameUp x.2.2.2 / 65536)))

/-- Whether the compression table passes R266. -/
def compressionOk (p : Placement) : Bool :=
  p.compression.length == 4 * p.groups.length &&
    (List.range p.groups.length).all (fun i => methodOk (field p.compression (4 * i) 1) (field p.compression (4 * i + 1) 1) &&
      methodOk (field p.compression (4 * i + 2) 1) (field p.compression (4 * i + 3) 1))

/-- Whether the area of a ticket's data lies in a DATA region of a stack (R365). -/
def tokensOk (p : Placement) : Bool :=
  p.tokens.all (fun t => insideKind p.regions (addrStack t.1) 5 (addrOff t.1 / 65536) ((addrOff t.1 % 65536 + t.2 + 65535) / 65536))

/-- Whether the reserved bits of a map-source table are zero (R9, R324). -/
def mapTableOk (bs : List Byte) : Bool := (List.range (bs.length / 4)).all (fun i => bits (field bs (4 * i) 4) 31 18 == 0)

/-- Whether the arms pass R308 and R207, and the rings that streams feed R315. -/
def armsOk (s : State) (p : Placement) : Bool :=
  p.arms.all (fun a => decide (a.1 < 32) && bit (sePresent s.variant) a.1 && stackUsable s (a.1 / 2) && a.2.length == 64 &&
      descOk s a.1 a.2 && (!dsTrim a.2 || s.variant == .x)) &&
    p.arms.all (fun a => !dsTrim a.2 || decide ((trimPlan s a.1 a.2).rows ≤ 65536)) && p.mapSources.all (fun m => mapTableOk m.2) &&
    p.feeders.all (fun f => p.arms.all (fun a => !(a.1 == f.2.2.1 && dsQueue a.2 == f.2.2.2) ||
      (match corePlan p f.1 with
       | some c => decide (dsBuffer a.2 ≤ 4096 * (cfgRing c.cfg f.2.1).1)
       | none => false)))

/-- The stream engines and the update units that the placement uses pass R537. -/
def unitsOk (s : State) (p : Placement) : Bool :=
  (enginesUsed p).all (fun n => !bit (getN s Key.cvuFailedSe) n) &&
  p.groups.all (fun d => (gdStacks d).all (fun st => !bit (getN s Key.cvuFailedUu) st))

/-- Whether the landing and departure tables pass R335 and R506. -/
def tablesOk (s : State) (p : Placement) : Bool :=
  (List.range 128).all (fun i => let e := field p.departure (4 * i) 4
    e == 0 || (bits e 31 20 == 0 && decide (bits e 3 0 < podW s) && decide (bits e 7 4 < podH s))) &&
  (List.range 4096).all (fun i => let h := field p.landing (8 * i) 8
    h == 0 || (decide (i < 4095) && !headerRefused s (BitVec.ofNat 64 (bits h 54 0 + bits h 63 61 * 2 ^ 61)) 1))

/-- Whether the waypoint schedule passes R401. -/
def scheduleOk (p : Placement) : Bool :=
  let n := p.schedule.length / 16
  p.schedule.length % 16 == 0 && decide (n ≤ 4096) && noRepeat ((List.range n).map (fun i => field p.schedule (16 * i) 4)) &&
    (List.range n).all (fun i => decide (1 ≤ field p.schedule (16 * i + 4) 4) && decide (field p.schedule (16 * i + 4) 4 ≤ 92160) &&
      decide (field p.schedule (16 * i + 8) 2 ≤ p.milestoneOffset) && field p.schedule (16 * i + 10) 6 == 0)

/-- The in-flight depth D(i) of a stage: the smallest odd number at or above S − i (R226). -/
def inFlight (stages stage : Nat) : Nat := let n := stages - stage; if n % 2 = 1 then n else n + 1

/-- The in-flight depth of a placement's stage. -/
abbrev placedDepth (p : Placement) : Nat := inFlight p.stages p.stage

/-- Whether the declared activations fit (R380). -/
def activationsOk (p : Placement) : Bool :=
  decide ((placedDepth p + 1) * (p.layers.map Prod.fst).sum ≤ p.allowance) &&
    decide ((placedDepth p + 1) * (p.layers.map Prod.snd).sum ≤ kindBytes p.regions 4)

/-- The peer table: an entry for each rank, and a rank of the set (R270, 8300:02). -/
def peersOk (p : Placement) : Bool :=
  decide (1 ≤ p.replicas) && decide (p.replicas ≤ 65535) && decide (p.rank < p.replicas) && p.peers.length == 4 * p.replicas &&
    (List.range p.replicas).all (fun r => bits (field p.peers (4 * r) 4) 31 18 == 0)

/-! ### The tables installed -/

/-- The program table (8000:00). -/
def programBytes (p : Placement) : List Byte :=
  (List.range 32).flatMap (fun n => slice (((placedProgram p n).getD []).flatMap (fun w => leBytes 4 w.toNat)) 0 1024)

/-- The objects that the placement load writes. -/
def installObjs (s : State) (p : Placement) : State :=
  let s := setDom s Key.groupTable p.groups.flatten
  let s := setN s Key.groupCount p.groups.length
  let s := setDom s Key.programTable (programBytes p)
  let s := setN s Key.programsLoaded ((List.range 32).foldl (fun a n => if (placedProgram p n).isSome then a + 2 ^ n else a) 0)
  let s := setDom s Key.regionTable (slice p.regions 0 2048)
  let s := setN s Key.storeBytes ((p.groups.map (fun d => (gdStacks d).length * ((List.range 19).map (arrBytes d)).sum)).sum)
  let s := setN s Key.laybyBytes (kindBytes p.regions 4)
  let s := setDom s Key.waypointSchedule p.schedule
  let s := setN s Key.milestoneOffset p.milestoneOffset
  let s := setDom s Key.landingTable (slice p.landing 0 32768)
  let s := setDom s Key.departureTable (slice p.departure 0 512)
  let s := setN (setN s Key.replicas p.replicas) Key.rank p.rank
  let s := setDom s Key.peerTable p.peers
  let s := setDom s Key.compressionTable p.compression
  p.mapSources.foldl (fun s m => setDom s (Key.seMapSourceTable m.1) m.2) s

/-- The objects of the mapping (B000, B010:06). -/
def installMapping (s : State) (p : Placement) : State :=
  let s := setN (setN s Key.stage p.stage) Key.stages p.stages
  let s := setN (setN s Key.depth (placedDepth p)) Key.depthMax p.depthMax
  let s := setN (setN s Key.contextIndex p.contextIndex) Key.contextSize p.contextSize
  let s := setN (setN s Key.prevStage p.prev) Key.nextStage p.next
  let s := setDom (setN s Key.podSpare (b2n p.spare)) Key.placementHash p.hash
  let s := setN (setN s Key.microbatchesPerStep p.microbatches) Key.seqOrigin p.seqOrigin
  setN (setN s Key.stepOrigin p.stepOrigin) Key.actSramAllowance p.allowance

/-- The state as it would be with a placement's tables, for its checks. -/
def preview (s : State) (p : Placement) : State :=
  { installMapping (installObjs s p) p with placement := some p }

/-- The load checks that hold of the tables (BAD_VALUE with no place). -/
def tablesFail (t : State) (p : Placement) : Option LoadFail :=
  badIf (!(regionsOk t p.regions && compressionOk p && peersOk p && scheduleOk p && activationsOk p && tablesOk t p && tokensOk p)) 0 0

/-- The load checks of gates, spill areas, units and streams. -/
def streamsFail (t : State) (p : Placement) : Option LoadFail :=
  badIf (!(sourcesOk t p && spillsOk t p && unitsOk t p && armsOk t p)) 0 0

/-- GRID_MISMATCH (R34, R71). -/
def gridFail (s : State) (p : Placement) : Option LoadFail :=
  let ex := getN s Key.excludedFieldColumn
  let bad := p.columns != logicalCols s || (p.excluded.isSome && p.excluded != some ex) ||
    (p.dark.isSome && p.dark != some (getN s Key.darkBands))
  if bad then some (stGridMismatch, 0, 0) else none

/-- Every load check of the subject chapters. -/
def loadFail (s : State) (p : Placement) : Option LoadFail :=
  let t := preview s p
  (gridFail s p).orElse fun _ => (missingCore s p).orElse fun _ => (firstFail coreFail p.cores).orElse fun _ =>
    (tablesFail t p).orElse fun _ => (groupsFail t p).orElse fun _ => streamsFail t p

/-! ### Application (R445, R483, R556) -/

/-- The cores loaded: records, programs and SRAM-resident state (R88), each core HALTED until the entry into RUN starts it (R91, R485).
Nothing is written while a core is RUNNING or WAITING (R85); a core of a parked or dark field keeps its state. The writes are made at
the boundary that ends the load; from the end of its checks on the cores stand in LOADING (R91, R445; assumption log 6). -/
def loadCores (s : State) (p : Placement) : State :=
  p.cores.foldl (fun s plan =>
    let c := getCore s plan.core
    let n := loadCore s plan.core c plan
    match c.st with
    | .running => s
    | .waiting => s
    | .dead => s
    | .parked => setCore s plan.core { n with st := .parked, parkedFrom := .halted }
    | .reset => setCore s plan.core { n with st := .reset }
    | _ => setCore s plan.core n) s

/-- The streams of the placement's schedule armed, with no prediction (R211, R317). The layers' modes stay those in force until the next milestone (R215). -/
def armPlaced (s : State) (p : Placement) : State :=
  let s := { s with streams := { s.streams with queues := [], trims := [], rearm := [], served := [] } }
  p.arms.foldl (fun s a => armScheduled s a.1 a.2 []) s

/-- The gates, the exchange and the update units with no work. -/
def clearWork (s : State) (p : Placement) : State :=
  let st := { s.stp with work := [], wpCount := [], wpLate := [], windowEnd := none, admitted := [], causes := 0 }
  { s with
    update := { s.update with engines := [], fast := [], sweep := [], groups := [], order := [] }
    gates := ⟨p.sources, [], [], [], [], []⟩
    exch := ⟨[], [], [], [], [], [], [], none, [], [], [], none⟩
    stp := { st with replayPending := [], faultSeen := [], layersHeld := [], passed := [], outGrads := [], layby := [] } }

/-- The placement's tables, cores and streams in force. -/
def installPlacement (s : State) (p : Placement) : State :=
  let s := preview s p
  let s := armPlaced (clearWork (loadCores s p) p) p
  setN (setN (setN s Key.actSramBytes 0) Key.actLaybyBytes 0) Key.microbatchesHeld 0

/-- The lines of the arrays of every group in a region of bytes made +0 with clean poison bits. -/
def clearRange (s : State) (a n : Nat) : State :=
  { s with stk := { s.stk with
      mem := s.stk.mem.filter (fun c => !(decide (a ≤ c.1) && decide (c.1 < a + n)))
      poison := s.stk.poison.filter (fun l => !(decide (a ≤ 64 * l) && decide (64 * l < a + n))) } }

/-- Every pointer entry zero and every array +0 (R556). -/
def clearStore (s : State) : State :=
  (groupDescs s).foldl (fun s d => (gdStacks d).foldl (fun s st =>
    let s := clearRange s (stackAddr st (65536 * gdBase d)) (frameUp (storeBytes d))
    clearRange s (stackAddr st (65536 * gdExch d)) (frameUp (exchangeBytes s d st (inboundSize s (gdGroup d))))) s) s

/-- COMMIT_STEP and the step number (R12, R251). -/
def setSteps (s : State) (commit : Nat) : State :=
  { setN s Key.commitStep (commit % 2 ^ 64) with stp := { s.stp with step := (commit + 1) % 2 ^ 64 } }

/-- The keys and constant sets at their defaults, written and active (R556). -/
def defaultKeys (s : State) : State :=
  let s := (List.range 16).foldl (fun s n => setN (setN (setN (setN s (Key.keyLo n) 0) (Key.keyHi n) 0) (Key.keyActiveLo n) 0) (Key.keyActiveHi n) 0) s
  (List.range 64).foldl (fun s n => (List.range 12).foldl (fun s i => setN (setN s (Key.ksetK n i) 0) (Key.ksetKActive n i) 0) s) s

/-- The active keys and constants as a MILESTONE record holds them (R495). -/
def keyBytes (s : State) : List Byte :=
  (List.range 16).flatMap (fun n => leBytes 8 (getN s (Key.keyActiveLo n)) ++ leBytes 8 (getN s (Key.keyActiveHi n)))
def constBytes (s : State) : List Byte :=
  (List.range 64).flatMap (fun n => (List.range 12).flatMap (fun i => leBytes 4 (getN s (Key.ksetKActive n i))))

/-- The keys and the constants restored from the body of a MILESTONE record, staged and active (R253). -/
def restoreKeys (s : State) (b : List Byte) : State :=
  let s := (List.range 16).foldl (fun s n =>
    let lo := field b (8 + 16 * n) 8
    let hi := field b (16 + 16 * n) 8
    setN (setN (setN (setN s (Key.keyLo n) lo) (Key.keyHi n) hi) (Key.keyActiveLo n) lo) (Key.keyActiveHi n) hi) s
  (List.range 64).foldl (fun s n => (List.range 12).foldl (fun s i =>
    let v := field b (264 + 48 * n + 4 * i) 4
    setN (setN s (Key.ksetK n i) v) (Key.ksetKActive n i) v) s) s

/-- The t of a group in the newest record that updated it, among those given newest first. -/
def recordT (rs : List JRec) (g : Nat) : Nat :=
  let hit := rs.findSome? (fun r =>
    let n := field r.body 3336 2
    ((List.range n).find? (fun i => field r.body (3344 + 16 * i) 2 == g)).map (fun i => field r.body (3352 + 16 * i) 8))
  hit.getD 0

/-- COMMIT_STEP, the step, t, the keys and the constants restored from MILESTONE records given newest first (R253). -/
def restoreFrom (s : State) (rs : List JRec) : State :=
  match rs with
  | [] => s
  | r :: _ =>
    let s := restoreKeys (setSteps s (field r.body 0 8)) r.body
    (groupDescs s).foldl (fun s d => setGroup s (gdGroup d) { getGroup s (gdGroup d) with t := recordT rs (gdGroup d) }) s

/-- The records of the journal newer than the newest PLACEMENT record. -/
def sincePlacement (s : State) : List JRec := s.log.journal.takeWhile (fun r => r.typ != 14)

/-- The MILESTONE records written after the newest PLACEMENT record, newest first. -/
def milestones (s : State) : List JRec := (sincePlacement s).filter (fun r => r.typ == 2)

/-- The hash of the newest PLACEMENT record. -/
def journalledHash (s : State) : Option (List Byte) := (newestRec s 14).map (fun r => slice r.body 0 32)

/-- The values of a job that begins (R556). -/
def beginJob (s : State) : State := defaultKeys (setSteps s (getN s Key.stepOrigin + 2 ^ 64 - 1))

/-- PLACEMENT_LOAD applies a placement (R556). -/
def applyPlacement (s : State) (p : Placement) : State :=
  let same := journalledHash s = some p.hash
  let s := clearStore (installPlacement s p)
  if same then (if milestones s = [] then beginJob s else restoreFrom s (milestones s))
  else
    beginJob (journal s 14 (p.hash ++ leBytes 8 p.stepOrigin ++ leBytes 8 p.seqOrigin ++ leBytes 2 p.microbatches ++ leBytes 6 0))

end Sys2Proof.Machine
end

