-- ==== Sys2Proof/Machine/Commit.lean ====
section
/-! DEFINITION. The milestone (01_training_step.md R18 to R23; 10_update_unit.md R246 to R251; 11_gradient_exchange.md R267, R275 to R284;
15_job_mapping.md R389). -/

namespace Sys2Proof.Machine

/-! ### When a milestone is due (R18, R249, R280, R509, R511) -/

/-- Whether a slow group owes its sweep at a step: begun and not written, or due and not begun (R249). A hold set while the sweep is in flight
lets it commit (R255), one that stands keeps it from beginning (R281), and R246 waits for none that it holds. -/
def sweepOwed (s : State) (d : List Byte) (step : Nat) : Bool :=
  let g := getGroup s (gdGroup d)
  gdSlow d && !heldFor g step &&
    ((match g.sweep with
      | some x => sweepDue d x.window == step && !groupWritten s d step
      | none => false) ||
     (!g.hold && g.due.any (fun x => sweepDue d x.window == step)))

/-- Whether a group lets the milestone of a step take place: a fast group is written; a slow group has its reduced gradient; a group
with no update, or on hold, is not waited for (R18, R246, R276, R281). An update in flight when the hold was set commits (R255). Every micro-batch
of the step has settled for the group (R263). -/
def groupDone (s : State) (d : List Byte) : Bool :=
  let g := getGroup s (gdGroup d)
  (g.final || groupGates s (gdGroup d) == []) &&
    ((g.hold && !g.queued) || heldFor g s.stp.step || g.skip || (if gdSlow d then g.ready && g.queued else g.writtenThisStep))

/-- Whether every micro-batch of the step has ended its backward work. -/
def workDone (s : State) : Bool :=
  (upFrom (firstSeq s) (getN s Key.microbatchesPerStep)).all (fun q =>
    s.stp.work.any (fun w => !w.evaluation && w.seq == q && w.backwardEnded && !w.abandoned))

/-- Whether the comparison of the previous step is complete; before the first milestone there is none (R280). -/
def compareDone (s : State) : Bool :=
  s.exch.comparedStep == some (getN s Key.commitStep) ||
    getN s Key.commitStep == (getN s Key.stepOrigin + 2 ^ 64 - 1) % 2 ^ 64

/-- Whether a checkpoint dump is running (R509). -/
def dumpRuns (s : State) : Bool :=
  getN s (Key.jobState 4) == 1 && s.jobs.any (fun j => j.job == 4 && j.dump.isSome)

/-- Whether a milestone that a warm reset interrupted waits for its repetition before RUN (R253, R498). -/
def repeating (s : State) : Bool := getN s Key.bringupPhase == 6 && s.stp.work != []

/-- Whether the engine works on steps: in RUN or repeating a milestone, with a stage, and not between DRAIN_STEP and RESUME (R381,
R385). -/
def steps (s : State) : Bool :=
  (inRun s || repeating s) && s.placement.isSome && getN s Key.podSpare == 0 && decide (getN s Key.reshardPhase ≤ 1)

/-- Whether everything that the milestone awaits but sweeps and the comparison is there. -/
def milestoneReady (s : State) : Bool :=
  steps s && s.stp.windowEnd.isNone && workDone s && (groupDescs s).all (groupDone s)

/-- Whether the milestone takes place at this boundary. -/
def milestoneDue (s : State) : Bool :=
  milestoneReady s && compareDone s && !(groupDescs s).any (fun d => sweepOwed s d s.stp.step) && !dumpRuns s && !s.log.failed

/-- SWEEP_LATE and FINGERPRINT_LATE in a beat of their waits (R249, R280). -/
def lateMilestone (s : State) : State :=
  if !milestoneReady s then s
  else
    let s := if (groupDescs s).any (fun d => sweepOwed s d s.stp.step) then raise s Key.updateFlags 1 else s
    if compareDone s then s else raise s Key.replicaFlags 1

/-! ### The milestone's parts -/

/-- The groups that a milestone updates (R250): fast groups written, and slow groups whose sweep falls due. -/
def updatedGroups (s : State) : List (List Byte) :=
  (groupsInOrder s).filter (fun d =>
    let g := getGroup s (gdGroup d)
    !heldFor g s.stp.step && (if gdSlow d then (match g.sweep with
      | some x => sweepDue d x.window == s.stp.step && groupWritten s d s.stp.step
      | none => false)
    else g.writtenThisStep))

/-- The groups that a repair or a pull without ADOPT_STEP has written since the last milestone (R284). -/
def pulledGroups (s : State) : List (List Byte) := (groupsInOrder s).filter (fun d => (getGroup s (gdGroup d)).pulled)

/-- The staged keys and constants become active (R105, R252). -/
def activateKeys (s : State) : State :=
  let s := (List.range 16).foldl (fun s n =>
    setN (setN s (Key.keyActiveLo n) (getN s (Key.keyLo n))) (Key.keyActiveHi n) (getN s (Key.keyHi n))) s
  (List.range 64).foldl (fun s n => (List.range 12).foldl (fun s i => setN s (Key.ksetKActive n i) (getN s (Key.ksetK n i))) s) s

/-- The body of a MILESTONE record (R495). -/
def milestoneBody (s : State) (step : Nat) (gs : List (List Byte)) : List Byte :=
  leBytes 8 step ++ keyBytes s ++ constBytes s ++ leBytes 2 gs.length ++ leBytes 6 0 ++
    gs.flatMap (fun d => leBytes 2 (gdGroup d) ++ leBytes 6 0 ++ leBytes 8 (getGroup s (gdGroup d)).t)

/-- What R249 keeps of the step that a milestone opens: where it is the first after a window, that window with the constants and the key now
active; else what was kept. -/
def nextConsts (s : State) (d : List Byte) (step : Nat) (g : GroupSt) : Option (Nat × List W32 × W64 × W64) :=
  if gdSlow d ∧ (step + 1) % gdDelay d = 0 then some ((step + 1) / gdDelay d - 1, activeConsts s d, activeKey s d) else g.sweepConsts

/-- The windows that still wait for their sweep after the milestone of a step: those that are not past, with the constants and the key that are
theirs (R249). -/
def nextDue (d : List Byte) (step : Nat) (kept : Option (Nat × List W32 × W64 × W64)) (xs : List SlowWindow) : List SlowWindow :=
  (xs.filter (fun x => decide (step < sweepDue d x.window))).map (fun x =>
    match kept with
    | some c => if c.1 = x.window then { x with consts := some c.2 } else x
    | none => x)

/-- A group as a milestone leaves it: t advanced where updated, the selectors moved, the hold by the last comparison (R250, R267, R275,
R281), and nothing of the step. -/
def nextGroup (g : GroupSt) (step : Nat) (updated sweepEnds : Bool) (due : List SlowWindow) (consts : Option (Nat × List W32 × W64 × W64)) :
    GroupSt :=
  { g with
    t := if updated then g.t + 1 else g.t
    resSel := if g.resWrote then !g.resSel else g.resSel
    oresSel := if g.oresWrote then !g.oresSel else g.oresSel
    due := due
    sweepConsts := consts
    sweep := if sweepEnds then none else g.sweep
    hold := !g.agree
    resWrote := false
    oresWrote := false
    heldSteps := nsDel step g.heldSteps
    ready := false
    queued := false
    writtenThisStep := false
    included := 0
    excluded := 0
    settled := none
    final := false
    late := false
    gathered := []
    gatherD := none
    skip := false
    pulled := false }

/-- Whether a group's sweep ends at a milestone. -/
def sweepEnds (s : State) (d : List Byte) : Bool :=
  match (getGroup s (gdGroup d)).sweep with
  | some x => decide (sweepDue d x.window ≤ s.stp.step)
  | none => false

/-- Every group taken past the milestone of the current step, the keys and constants of the next being active. -/
def nextGroups (s : State) (updated : List (List Byte)) : State :=
  (groupDescs s).foldl (fun s d =>
    let g := getGroup s (gdGroup d)
    let kept := nextConsts s d s.stp.step g
    setGroup s (gdGroup d) (nextGroup g s.stp.step (updated.contains d) (sweepEnds s d) (nextDue d s.stp.step kept g.due) kept)) s

/-- The compression entries staged by SET_COMPRESSION enter the table (R266). -/
def applyCompression (s : State) : State :=
  let tab := s.exch.pendingComp.foldl (fun bs e => splice bs (4 * ((groupsInOrder s).map gdGroup).idxOf e.1) e.2) (getDom s Key.compressionTable)
  setDom { s with exch := { s.exch with pendingComp := [] } } Key.compressionTable tab

/-- The gates, the exchange and the waypoint counts at the beginning of a step (R260 to R264, R273, R277, R492). -/
def openStep (s : State) : State :=
  let gates := { s.gates with cursors := [], slots := [], reports := [], settled := [], backwardEnded := [] }
  let exch := { s.exch with accepted := [], unused := [], excused := [], sent := [], totals := [], fingerprints := [], divergedNext := [], repairNext := [] }
  let stp := { s.stp with wpCount := [], wpLate := [], replayPending := [], faultSeen := [], passed := [], outGrads := [] }
  setN { s with gates := gates, exch := exch, stp := stp, streams := { s.streams with served := [] }, update := { s.update with order := [] } } Key.excuse 0xFFFFFFFF

/-- The engine's FINGERPRINT for a step, sent to every other rank and accepted as its own (R279); the table keeps the records. -/
def sendFingerprint (s : State) (step : Nat) (updated : List Nat) : State :=
  let recs := fingerprintRecords s updated
  let s := setDom s Key.fingerprintTable recs
  let m := { ownMsg s 3 0 0 0 0 0 (groupDescs s).length 0 0 recs with step := step }
  let s := (otherRanks s).foldl (fun s r => sendMsg s (peerAddr s r) m) s
  acceptFingerprint s (sealMsg (ownAddr s) m)

/-- A pull begins for a group (R284, R507): its blocks are asked for. -/
def beginPull (s : State) (job group : Nat) (source : Option Nat) (all adopt : Bool) : State :=
  if s.pulls.any (fun p => p.job == job && p.group == group) then s
  else
    let n := match groupDesc s group with
      | some d => gdBlocks d
      | none => 0
    emit { s with pulls := s.pulls ++ [⟨job, group, source, all, adopt, 0, none, [], []⟩] } (.pullRequest job group source 0 n)

/-- The repairs that a milestone starts (R282, R283). -/
def startRepairs (s : State) (repairs : List (Nat × Nat)) (ovr : Option (Nat × Nat)) (differs : Bool) : State :=
  let s := repairs.foldl (fun s r => beginPull (raise s Key.replicaFlags 2) 5 r.1 (some (peerAddr s r.2)) false false) s
  match ovr with
  | some (g, r) => if differs then beginPull s 5 g (some (peerAddr s r)) false false else s
  | none => s

/-- Whether the engine's last compared fingerprint of a group differs from a rank's (R283). -/
def overrideDiffers (s : State) : Bool :=
  match s.exch.overrideDue with
  | some (g, r) => (groupDesc s g).isSome && r != getN s Key.rank && rankFingerprint s (getN s Key.rank) g != rankFingerprint s r g
  | none => false

/-- The evaluation tickets accepted and not completed. -/
def evalTickets (s : State) : List Ticket := s.host.tickets.filter (fun t => !t.ended && tkKind t.bytes == 2)

/-- The window that may follow a milestone opens (R22, R389), with the values that become active now. -/
def openWindow (s : State) : State :=
  let cfg := (getN s Key.evalWindowBeats, getN s Key.evalTicketsMax, getN s Key.evalPeriodSteps)
  let s := { s with stp := { s.stp with evalCfg := cfg } }
  if cfg.1 = 0 ∨ s.stp.step % max 1 cfg.2.2 ≠ 0 then s
  else
    let ts := evalTickets s
    let s := addN s Key.evalDeferred 64 (ts.length - cfg.2.1)
    { s with stp := { s.stp with windowEnd := some (beatNow s + cfg.1), admitted := (ts.take cfg.2.1).map (fun t => t.acceptId) } }

/-- PREDICT_MODE and ACT_WIDTH take effect; a change of either makes every row of the entry's streams predicted (R211). -/
def refreshLayers (s : State) : State :=
  let new (e : Nat) : Nat × Nat := (getN s (Key.layerPredictMode e), getN s (Key.layerActWidth e))
  { s with streams := { s.streams with
      trims := s.streams.trims.map (fun t =>
        if new (t.1 % 64) = layerMode s (t.1 % 64) then t else (t.1, { t.2 with predicted := none }))
      layers := (List.range 64).map (fun e => (e, new e)) } }

/-- The milestone of the current step (R18, R251): COMMIT_STEP, the journal, the fingerprints, and the step's advance. The completion of
the step's tickets follows at the end of the boundary (R19). -/
def milestone (s : State) : State :=
  let step := s.stp.step
  let updated := updatedGroups s
  let pulled := pulledGroups s
  let repairs := s.exch.repairNext
  let ovr := s.exch.overrideDue
  let differs := overrideDiffers s
  let s := setN s Key.commitStep step
  let s := nextGroups (activateKeys s) updated
  let s := journal s 2 (milestoneBody s step (updated ++ pulled.filter (fun d => !updated.contains d)))
  let s := openStep s
  let s := sendFingerprint s step (updated.map gdGroup)
  let s := applyCompression { s with exch := { s.exch with overrideDue := none } }
  let stp := { s.stp with step := (step + 1) % 2 ^ 64, openBeat := beatNow s, lastMilestoneBeat := beatNow s, milestoneDone := true }
  let s := refreshLayers (openWindow { s with stp := { stp with work := s.stp.work.filter (fun w => w.evaluation) } })
  refreshUnits (retryKept (startRepairs s repairs ovr differs))

/-- Every slot of a training ticket that the milestone of a step completes, with its work and exclusions as the step ends. -/
def completions (s : State) (step : Nat) : List (Ticket × Work × Nat) :=
  (s.host.tickets.filter (fun t => !t.ended && tkKind t.bytes == 1 && decide (tkStep t.bytes ≤ step))).map (fun t =>
    (t, (workOf s t.acceptId).getD (noWork t step), excludedGroups s t))

/-- The results of a milestone's tickets written (R19, R369). -/
def writeCompletions (s : State) (step : Nat) (cs : List (Ticket × Work × Nat)) : State :=
  cs.foldl (fun s c => endTicket (writeResultOf s c.1 step none c.2.1 c.2.2) c.1.acceptId) s

end Sys2Proof.Machine
end

