-- ==== Sys2Proof/Machine/Jobs.lean ====
section
/-! DEFINITION. The long operations (17_object_dictionary.md R441 to R445), the reshard (15_job_mapping.md R383 to R388), shard pulls and
checkpoint dumps (20_recovery.md R504 to R509; 11_gradient_exchange.md R284), and the placement load and memory test (R321, R322, R445). -/

namespace Sys2Proof.Machine

/-! ### A job's state (R442, R444) -/

abbrev jobIdle : Nat := 0
abbrev jobRunning : Nat := 1
abbrev jobSuspendedSt : Nat := 2
abbrev jobDone : Nat := 3
abbrev jobCancelled : Nat := 4
abbrev jobFailed : Nat := 5

/-- JOB_STATE of a job, 0 to 4. -/
def jobSt (s : State) (n : Nat) : Nat := getN s (Key.jobState n)

/-- What a job holds beside its objects. -/
def getJob (s : State) (n : Nat) : JobSt := (s.jobs.find? (fun j => j.job == n)).getD ⟨n, false, none, none⟩

/-- The state with a job's record replaced. -/
def putJob (s : State) (j : JobSt) : State := { s with jobs := s.jobs.filter (fun x => x.job != j.job) ++ [j] }

/-- The PARAMETERS of a job. -/
def jobParams (s : State) (n : Nat) : List Byte := getDom s (Key.jobParameters n)

/-- A job's state changes, and the change is journalled (R442, R495). -/
def setJobState (s : State) (n st : Nat) : State :=
  journal (setN s (Key.jobState n) st) 7
    (leBytes 2 (0x1200 + n) ++ leBytes 1 st ++ leBytes 1 0 ++ leBytes 2 (getN s (Key.jobResult n)) ++ leBytes 2 0)

/-- A job ends in a state with a STATUS, a place and an index, and the rest of DETAIL (R444). -/
def endJob (s : State) (n st status place index : Nat) (rest : List Byte) : State :=
  let s := setN s (Key.jobResult n) status
  let s := setDom s (Key.jobDetail n) (slice (leBytes 2 status ++ leBytes 2 0 ++ leBytes 4 place ++ leBytes 2 index ++ rest) 0 64)
  let s := setN s (Key.jobEndBeat n) (beatNow s)
  setJobState (putJob s ⟨n, false, none, none⟩) n st

/-- The pulls of a job dropped. -/
def dropPulls (s : State) (n : Nat) : State := { s with pulls := s.pulls.filter (fun p => p.job != n) }

/-! ### Blocks brought in (R238, R284, R386, R507) -/

/-- The components of a received block; a host image holds no TRN, which is the transpose of FWD (R217, R509). -/
def blockVals (d : List Byte) (b : BlockData) (image : Bool) : BlockVals :=
  let codes (bs : List Byte) := (List.range 256).map (fun i => field bs (gdW d * i) (gdW d))
  let fwd := codes b.fwd
  ⟨fwd, if gdVector d then [] else if image then transpose16 fwd else codes b.trn, b.scale,
    (List.range (gdStates d)).map (fun k => (List.range 256).map (fun i => field (b.states.getD k []) (2 * i) 2))⟩

/-- The slow-tier arrays of a block written: GACC in a slot, DUE0 and DUE1. -/
def writeSlow (s : State) (d : List Byte) (b : BlockData) (slot : Nat) : State :=
  let s := stkWrite s (blockAddr d b.block (arrGacc slot) 1024) (slice b.gacc 0 1024) false
  let s := stkWrite s (blockAddr d b.block (arrDue 0) 1024) (slice b.due0 0 1024) false
  stkWrite s (blockAddr d b.block (arrDue 1) 1024) (slice b.due1 0 1024) false

/-- The step that a pull stamps its blocks with (R284, R508). -/
def pullStamp (s : State) (p : Pull) (b : BlockData) : Nat := (if p.adopt then b.commit else s.stp.step) % 2 ^ 32

/-- A pulled block written into its inactive slot; WRITTEN and STAMP follow where its digest is the source's (R238, R284, R507). -/
def writePulled (s : State) (p : Pull) (d : List Byte) (b : BlockData) : State × Bool :=
  let v := blockVals d b p.source.isNone
  let stamp := pullStamp s p b
  let old := readPtr s d b.block
  let q := foldPtr s old
  let act := activeGacc s old
  let s := writeBlock s d b.block (1 - b2n q.active) v
  if blockDigest d b.block v ≠ b.digest.toNat then (s, false)
  else
    let slow := p.all && gdSlow d
    let s := if slow then writeSlow s d b (1 - act) else s
    let q := { q with written := true, stamp := stamp }
    (writePtr s d b.block (if slow then { q with gact := act == 1, gwritten := true, gstamp := stamp } else q), true)

/-- A reshard's block written into slot 0 of the target with its pointer entry cleared; its digest, over the number that the block has at
the source, is compared with the source's (R278, R386). -/
def writeResharded (s : State) (d : List Byte) (b : BlockData) (number : Nat) : State × Bool :=
  let v := blockVals d b false
  let s := writeBlock s d b.block 0 v
  let s := if gdSlow d then writeSlow s d b 0 else s
  (writePtr s d b.block ⟨false, false, false, false, 0, 0⟩, blockDigest d number v == b.digest.toNat)

/-- The state with a pull replaced. -/
def putPull (s : State) (p : Pull) : State :=
  { s with pulls := s.pulls.map (fun q => if q.job == p.job && q.group == p.group then p else q) }

/-- A block noted as written and verified. -/
def notePull (p : Pull) (b : BlockData) : Pull := { p with got := nsIns b.block p.got, t := b.t, commit := some b.commit }

/-- WRITTEN and GWRITTEN cleared again in the blocks that a pull has written, so that an unfinished pull never becomes active. -/
def undoPull (s : State) (p : Pull) : State :=
  match groupDesc s p.group with
  | none => s
  | some d => p.got.foldl (fun s b =>
      let q := readPtr s d b
      if stampCommitted s q.stamp then s else writePtr s d b { q with written := false, gwritten := q.gwritten && !p.all }) s

/-- Every pull of a job undone and dropped. -/
def undoPulls (s : State) (n : Nat) : State := dropPulls ((s.pulls.filter (fun p => p.job == n)).foldl undoPull s) n

/-! ### The reshard plan (R383, R384) -/

abbrev reshardPlan (s : State) : List Byte := getDom s Key.reshardPlan

/-- An entry of a reshard plan. -/
structure ReshardEntry where
  source : Nat
  dest : Nat
  srcGroup : Nat
  dstGroup : Nat
  srcFirst : Nat
  dstFirst : Nat
  count : Nat
  deriving DecidableEq, Repr

/-- The entries of a plan. -/
def reshardEntries (b : List Byte) : List ReshardEntry :=
  (List.range (field b 8 4)).map (fun i =>
    let a := 64 + 32 * i
    ⟨field b a 4, field b (a + 4) 4, field b (a + 8) 2, field b (a + 0x0A) 2, field b (a + 0x0C) 4, field b (a + 0x10) 4, field b (a + 0x14) 4⟩)

/-- The target image of a plan. -/
def reshardTarget (s : State) : Option Placement :=
  let b := reshardPlan s
  (s.images.find? (fun e => e.1 == frameKey (field b 6 1) (field b 0x0C 4))).map (fun e => e.2)

/-- Whether a plan's own form is right: magic, version, reserved values and CRC. -/
def planFormOk (b : List Byte) : Bool :=
  let n := field b 8 4
  decide (64 ≤ b.length) && b.length == 64 + 32 * n && field b 0 4 == 0x48525352 && field b 4 2 == 1 && decide (field b 6 1 ≤ 15) &&
    field b 7 1 == 0 && decide (1 ≤ n) && decide (n ≤ 65536) && field b 0x34 8 == 0 && field b 0x3C 4 == crc32c (slice b 0 0x3C) &&
    (List.range n).all (fun i => field b (64 + 32 * i + 0x18) 8 == 0) &&
    (reshardEntries b).all (fun e => decide (e.source < 2 ^ 18) && decide (e.dest < 2 ^ 18) && decide (1 ≤ e.count))

/-- The entries that name this engine as DEST. -/
def destEntries (s : State) : List ReshardEntry := (reshardEntries (reshardPlan s)).filter (fun e => e.dest == ownAddr s)

/-- Whether the DEST entries cover every block of every target group exactly once, and nothing else. -/
def coversOnce (es : List ReshardEntry) (groups : List (List Byte)) : Bool :=
  groups.all (fun d => (List.range (gdBlocks d)).all (fun b =>
    (es.filter (fun e => e.dstGroup == gdGroup d && decide (e.dstFirst ≤ b) && decide (b < e.dstFirst + e.count))).length == 1)) &&
  es.all (fun e => groups.any (fun d => gdGroup d == e.dstGroup && decide (e.dstFirst + e.count ≤ gdBlocks d)))

/-- Whether the SOURCE entries read blocks that the current placement holds. -/
def sourcesHeld (s : State) : Bool :=
  ((reshardEntries (reshardPlan s)).filter (fun e => e.source == ownAddr s)).all (fun e =>
    match groupDesc s e.srcGroup with
    | some d => decide (e.srcFirst + e.count ≤ gdBlocks d)
    | none => false)

/-- The regions of a target (R384). -/
def targetRegions (p : Placement) : List (Nat × Nat × Nat) :=
  (List.range 16).flatMap (fun st => ((regionsOf p.regions st).filter (fun r => r.1 != 0)).map (fun r => (st, r.2)))

/-- Whether a target region overlaps a region in use. -/
def targetOverlaps (s : State) (p : Placement) : Bool :=
  (targetRegions p).any (fun t => (regionsOf (getDom s Key.regionTable) t.1).any (fun r => r.1 != 0 && framesMeet t.2 r.2))

/-- The start checks of a reshard (R384). -/
def reshardCheck (s : State) : Nat :=
  let b := reshardPlan s
  if !planFormOk b then stBadValue
  else
    match reshardTarget s with
    | none => stBadValue
    | some p =>
      if p.hash ≠ slice b 0x10 32 || !coversOnce (destEntries s) p.groups || !sourcesHeld s || targetOverlaps s p then stBadValue
      else if !inRun s || getN s Key.reshardPhase != 0 || s.mgmt.handover != 0 then stWrongState
      else stOk

/-- A block of the active slots as the pull endpoint serves it (R284, R386). -/
def servedBlock (s : State) (d : List Byte) (b : Nat) : BlockData :=
  let p := readPtr s d b
  let slot := activeSlot s p
  let v := readBlock s d b slot
  let bytes (w : Nat) (cs : List Nat) := cs.flatMap (leBytes w)
  let slow (a : Nat) := if gdSlow d then stkRead s (blockAddr d b a 1024) 1024 else []
  ⟨b, (getGroup s (gdGroup d)).t, getN s Key.commitStep, bytes (gdW d) v.fwd, bytes (gdW d) v.trn, v.scale, v.states.map (bytes 2),
    slow (arrGacc (activeGacc s p)), slow (arrDue 0), slow (arrDue 1), BitVec.ofNat 64 (readDigest s d b slot)⟩

/-- A block of a target group written; where it verifies, it is counted (R386). -/
def takeResharded (s : State) (d : List Byte) (p : Pull) (b : BlockData) (number : Nat) : State × Bool :=
  let r := writeResharded s d b number
  (if r.2 then count64 (count64 (putPull r.1 (notePull p b)) Key.blocksReceived) (Key.jobProgressDone 2) else r.1, r.2)

/-- Block `i` of an entry whose SOURCE is its DEST: a copy between the engine's own stacks (R383). -/
def copyOwn (t : Placement) (e : ReshardEntry) (s : State) (i : Nat) : State :=
  match groupDesc s e.srcGroup, t.groups.find? (fun d => gdGroup d == e.dstGroup),
      s.pulls.find? (fun p => p.job == 2 && p.group == e.dstGroup) with
  | some src, some d, some p =>
    (takeResharded (count64 s Key.blocksSent) d p { servedBlock s src (e.srcFirst + i) with block := e.dstFirst + i } (e.srcFirst + i)).1
  | _, _, _ => s

/-- COPYING begins (R385): DRAIN_STEP is known, the target's arrays start at +0, the engine's own blocks are copied, and the other DEST
blocks asked for. -/
def enterCopying (s : State) : State :=
  let s := setN (setN s Key.drainStep (getN s Key.commitStep)) Key.reshardPhase 2
  match reshardTarget s with
  | none => s
  | some p =>
    let s := { s with stk := (clearStore (preview s p)).stk }
    let s := p.groups.foldl (fun s d => { s with pulls := s.pulls ++ [⟨2, gdGroup d, none, true, false, 0, none, [], []⟩] }) s
    (destEntries s).foldl (fun s e =>
      if e.source = ownAddr s then (List.range e.count).foldl (copyOwn p e) s
      else emit s (.pullRequest 2 e.srcGroup (some e.source) e.srcFirst e.count)) s

/-- A reshard starts (R385): DRAINING; a pod spare holds no ticket and passes through it at once, and takes part in the handover as
destination (R502). -/
def startReshard (s : State) : State :=
  let total := ((destEntries s).map (fun e => e.count)).sum
  let s := setN (setN (setN (setN s Key.blocksExpected total) Key.blocksReceived 0) Key.blocksSent 0) (Key.jobProgressTotal 2) total
  let s := setN s Key.reshardPhase 1
  if getN s Key.podSpare = 1 then
    let serial := field (reshardPlan s) 0x30 4
    let s := journal s 13 (leBytes 4 serial ++ leBytes 1 1 ++ leBytes 3 0)
    enterCopying (logEvent (raise s Key.recoveryFlags 4) 0xA [serial, 1])
  else s

/-- The draining ends at the boundary of the milestone after which no accepted ticket remains and no window is open (R385, R391). Tickets
end at milestones (R19) and in windows, and none is accepted meanwhile: where the last one ends in a window, or none was left at the start,
no further milestone can come, and the boundary that closes the window, or that begins the draining, is the one (DEDUCED, assumption log
69). -/
def endDraining (s : State) : State :=
  if getN s Key.reshardPhase = 1 ∧ jobSt s 2 = jobRunning ∧ outstanding s = 0 ∧ s.stp.windowEnd = none then enterCopying s else s

/-- What a reshard that is cancelled or fails leaves: the current placement, the phase NONE (R388). -/
def clearReshard (s : State) : State := setN (dropPulls s 2) Key.reshardPhase 0

/-- A reshard ends FAILED (R388, R393). -/
def failReshard (s : State) (status place index : Nat) : State :=
  endJob (clearReshard (raise s Key.mappingFlags 0)) 2 jobFailed status place index []

/-! ### The start checks and the starts of the other jobs (R321, R443, R445, R507, R509) -/

/-- The bytes of the region that a placement load may fill from a frame (R445): a PLACEMENT_IMAGE region that begins there, or what the
current table leaves UNUSED from there on. -/
def targetRoom (s : State) (st f : Nat) : Nat :=
  let rs := regionsOf (getDom s Key.regionTable) st
  match rs.find? (fun r => r.1 == 1 && r.2.1 == f) with
  | some r => 65536 * r.2.2
  | none =>
    if rs.any (fun r => r.1 != 0 && decide (r.2.1 ≤ f) && decide (f < r.2.1 + r.2.2)) then 0
    else
      let next := ((rs.filter (fun r => r.1 != 0 && decide (f < r.2.1))).map (fun r => r.2.1)).foldl min 1953125
      65536 * (next - f)

/-- The start checks of a placement load (R445, R485). -/
def placementCheck (s : State) : Nat :=
  let b := jobParams s 1
  let ph := getN s Key.bringupPhase
  if b.length ≠ 64 || decide (2 ≤ field b 0 1) || decide (2 ≤ field b 1 1) || decide (16 ≤ field b 2 1) || field b 3 1 != 0 ||
      field b 0x38 8 != 0 || !stackUsable s (field b 2 1) || field b 0x10 8 == 0 ||
      decide (targetRoom s (field b 2 1) (field b 4 4) < field b 0x10 8) ||
      (field b 0 1 == 1 && !inDataSpace (field b 8 8) (field b 0x10 8)) then stBadValue
  else if bit (field b 1 1) 0 && (ph == 7 || decide (ph ≤ 5)) then stWrongState
  else stOk

/-- The start checks of a shard pull (R501, R507). -/
def pullCheck (s : State) : Nat :=
  let b := jobParams s 3
  let ph := getN s Key.bringupPhase
  let all := bit (field b 1 1) 0
  if b.length ≠ 64 || decide (2 ≤ field b 0 1) || decide (8 ≤ field b 1 1) || decide (2 ^ 18 ≤ field b 4 4) || field b 0x38 8 != 0 ||
      (if all then field b 2 2 != 0 else (groupDesc s (field b 2 2)).isNone) then stBadValue
  else if ph == 6 || ph == 7 then stOk else stWrongState

/-- The start checks of a checkpoint dump (R509). -/
def dumpCheck (s : State) : Nat :=
  let b := jobParams s 4
  if b.length ≠ 64 || (slice b 16 48).any (fun x => x != 0) then stBadValue else stOk

/-- The start checks of a job (R443). -/
def startCheck (n : Nat) (s : State) : Nat :=
  match n with
  | 0 => if jobParams s 0 ≠ [] then stBadValue else if inRun s then stWrongState else stOk
  | 1 => placementCheck s
  | 2 => reshardCheck s
  | 3 => pullCheck s
  | _ => dumpCheck s

/-- The pulls of a SHARD_PULL begin (R507). -/
def startPull (s : State) : State :=
  let b := jobParams s 3
  let all := bit (field b 1 1) 0
  let adopt := bit (field b 1 1) 1
  let source := if field b 0 1 = 0 then some (field b 4 4) else none
  let gs := if all then groupDescs s else (groupDescs s).filter (fun d => gdGroup d == field b 2 2)
  let s := setN s (Key.jobProgressTotal 3) ((gs.map gdBlocks).sum)
  gs.foldl (fun s d => beginPull s 3 (gdGroup d) source all adopt) s

/-- What a job does as it starts. -/
def startEffect (n : Nat) (s : State) : State :=
  match n with
  | 0 => (List.range 16).foldl (fun s st => if stackUsable s st then setN s (Key.msStackState st) 3 else s) (setN s (Key.jobProgressTotal 0) 26)
  | 1 => setN s (Key.jobProgressTotal 1) (field (jobParams s 1) 0x10 8)
  | 2 => startReshard s
  | 3 => startPull s
  | _ => s

/-- Whether a job may be suspended now (R441). -/
def maySuspend (s : State) (n : Nat) : Bool := n == 0 || n == 3 || n == 4 || (n == 2 && getN s Key.reshardPhase == 2)

/-- The check of a committed COMMAND (R442, R443). -/
def commandCheck (n : Nat) (s : State) (v : Nat) : Nat :=
  let st := jobSt s n
  let pend := (getJob s n).suspendPending
  match v with
  | 0 => stOk
  | 1 => if st = jobRunning ∨ st = jobSuspendedSt then stWrongState else startCheck n s
  | 2 => if st = jobRunning ∧ !pend ∧ maySuspend s n then stOk else stWrongState
  | 3 => if st = jobSuspendedSt then stOk else stWrongState
  | _ => if st = jobRunning ∨ st = jobSuspendedSt ∨ (n = 2 ∧ getN s Key.reshardPhase = 3) then stOk else stWrongState

/-- START (R442). -/
def startJob (n : Nat) (s : State) : State :=
  let s := setN (setN (setN s (Key.jobStartBeat n) (beatNow s)) (Key.jobProgressDone n) 0) (Key.jobProgressTotal n) 0
  startEffect n (setJobState (putJob s ⟨n, false, none, none⟩) n jobRunning)

/-- A memory test that ends or is cancelled leaves every stack READY again. -/
def endTest (s : State) : State :=
  (List.range 16).foldl (fun s st => if getN s (Key.msStackState st) = 3 then setN s (Key.msStackState st) 0 else s) s

/-- RESUME of a suspended job; a dump after which a milestone has passed fails (R509). -/
def resumeJob (n : Nat) (s : State) : State :=
  match n, (getJob s n).dump with
  | 4, some (c, _) => if c = getN s Key.commitStep then setJobState s n jobRunning else endJob s 4 jobFailed stWrongState 0 0 []
  | _, _ => setJobState s n jobRunning

/-- CANCEL: the job's own cancel work, then CANCELLED (R388, R442). -/
def cancelJob (n : Nat) (s : State) : State :=
  let s := match n with
    | 0 => endTest s
    | 2 => clearReshard s
    | 3 => undoPulls s 3
    | _ => s
  endJob s n jobCancelled stOk 0 0 []

/-- The boundary after a placement load's checks have passed (R445): the placement is applied, and the job ends DONE. -/
def finishLoad (s : State) : State :=
  match (getJob s 1).load with
  | none => s
  | some p => endJob (setN (applyPlacement s p) (Key.jobProgressDone 1) (getN s (Key.jobProgressTotal 1))) 1 jobDone stOk 0 0 []

/-- The effect of a committed COMMAND. It reads back as 0. -/
def commandEffect (n : Nat) (s : State) (v : Nat) : State :=
  match v with
  | 1 => startJob n s
  | 2 => putJob s { getJob s n with suspendPending := true }
  | 3 => resumeJob n s
  | 4 => cancelJob n s
  | _ => s

/-- A committed COMMAND of a job; a job that ends at the same boundary has ended before (R446). -/
def command (n v : Nat) (w : WReq) (s : State) : State :=
  if 5 ≤ n then s else ownWrite (finishLoad s) (Key.jobCommand n) { w with val := v } (commandCheck n) (commandEffect n)

/-- JOB_START (R442, R443). -/
def execJobStart (job : Nat) (w : WReq) (s : State) : Host.Outcome State Fault Refusal := .next (command job 1 w s)

/-- JOB_SUSPEND (R442). -/
def execJobSuspend (job : Nat) (w : WReq) (s : State) : Host.Outcome State Fault Refusal := .next (command job 2 w s)

/-- JOB_RESUME (R442). -/
def execJobResume (job : Nat) (w : WReq) (s : State) : Host.Outcome State Fault Refusal := .next (command job 3 w s)

/-- JOB_CANCEL (R442). -/
def execJobCancel (job : Nat) (w : WReq) (s : State) : Host.Outcome State Fault Refusal := .next (command job 4 w s)

/-- The units that a memory test, a placement load or a dump has done, as its surroundings count them (R441). -/
def noteProgress (s : State) (n done : Nat) : State :=
  if n = 0 ∨ n = 1 ∨ n = 4 then
    setN s (Key.jobProgressDone n) (min (getN s (Key.jobProgressTotal n)) (max (getN s (Key.jobProgressDone n)) done))
  else s

/-- The progress of the running jobs at a boundary. -/
def boundaryProgress (s : State) (ps : List (Nat × Nat)) : State :=
  ps.foldl (fun s p => if jobSt s p.1 = jobRunning then noteProgress s p.1 p.2 else s) s

/-- JOB_SUSPENDED (R442): a pending suspend reaches the job's suspension point. -/
def execJobSuspended (job : Met Nat Nat) (s : State) : Host.Outcome State Fault Refusal :=
  .next (if jobSt s job.val = jobRunning ∧ (getJob s job.val).suspendPending then
    setJobState (putJob (noteProgress s job.val job.errs) { getJob s job.val with suspendPending := false }) job.val jobSuspendedSt else s)

/-- A write of PARAMETERS while the job runs is refused (R443). -/
def paramsCheck (n : Nat) (s : State) (_ : List Byte) : Nat :=
  if jobSt s n = jobRunning ∨ jobSt s n = jobSuspendedSt then stWrongState else stOk

/-! ### Blocks (R284, R386, R506, R507) -/

/-- Whether a block asked for is one that a SOURCE entry of the plan sends to the engine that asks (R385, R393). -/
def sendsReshard (s : State) (requester group block : Nat) : Bool :=
  (getN s Key.reshardPhase == 2 || getN s Key.reshardPhase == 3) &&
    (reshardEntries (reshardPlan s)).any (fun e => e.source == ownAddr s && e.dest == requester && e.srcGroup == group &&
      decide (e.srcFirst ≤ block) && decide (block < e.srcFirst + e.count))

/-- PULL_ENDPOINT_REQUEST (R506, R33): the pull endpoint serves a block of the active slots with its digest; a reshard counts the blocks
that its SOURCE entries send. -/
def execPullEndpointRequest (requester group : Nat) (block : Met Nat StackErrs) (s : State) : Host.Outcome State Fault Refusal :=
  .next (match groupDesc s group with
    | none => s
    | some d =>
      if !s.mgmt.pullOpen ∨ gdBlocks d ≤ block.val then s
      else
        let s := meetErrors s (blockStack d block.val) block.errs
        let s := if sendsReshard s requester group block.val then count64 s Key.blocksSent else s
        emit s (.block requester group (servedBlock s d block.val)))

/-- A block asked for again, by the group and the number that it has at the source, after its digest failed; the fourth failure ends the job
FAILED with BAD_VALUE (R386, R507). -/
def retryBlock (s : State) (p : Pull) (b : Nat) (source : Option Nat) (group number : Nat) (fail : State → State) : State :=
  let n := stGet p.tries b + 1
  if 3 < n then fail s
  else emit (putPull s { p with tries := stPut p.tries b n }) (.pullRequest p.job group source number 1)

/-- A SHARD_PULL ends FAILED: what it wrote never becomes active. -/
def failPull (s : State) (status place index : Nat) : State := endJob (undoPulls s 3) 3 jobFailed status place index []

/-- The last block of a group has come: its t is the source's; a repair is over (R284). -/
def pullComplete (s : State) (d : List Byte) (p : Pull) : State :=
  if p.got.length < gdBlocks d then s
  else
    let s := setGroup s p.group { getGroup s p.group with t := p.t, pulled := !p.adopt }
    if p.job = 5 then { s with pulls := s.pulls.filter (fun q => !(q.job == 5 && q.group == p.group)) } else s

/-- PULL_BLOCK_RECEIVE (R284, R507): a block of a running SHARD_PULL or of a repair. -/
def execPullBlockReceive (group : Nat) (b : Met BlockData StackErrs) (s : State) : Host.Outcome State Fault Refusal :=
  let errs := b.errs
  let b := b.val
  .next (match s.pulls.find? (fun p => p.group == group && (p.job == 5 || p.job == 3 && jobSt s 3 == jobRunning)), groupDesc s group with
    | some p, some d =>
      if gdBlocks d ≤ b.block ∨ p.got.contains b.block then s
      else
        let r := writePulled (meetErrors s (blockStack d b.block) errs) p d b
        if r.2 then
          let p := notePull p b
          let s := putPull r.1 p
          pullComplete (if p.job = 3 then count64 s (Key.jobProgressDone 3) else s) d p
        else retryBlock r.1 p b.block p.source group b.block (fun s => if p.job = 3 then failPull s stBadValue group b.block
          else { undoPull s p with pulls := s.pulls.filter (fun q => !(q.job == 5 && q.group == group)) })
    | _, _ => s)

/-- The entry that brings a target block. -/
def entryFor (s : State) (group block : Nat) : Option ReshardEntry :=
  (destEntries s).find? (fun e => e.dstGroup == group && decide (e.dstFirst ≤ block) && decide (block < e.dstFirst + e.count))

/-- RESHARD_BLOCK_RECEIVE (R386): a block of a target group, written and verified while the reshard is COPYING. -/
def execReshardBlockReceive (group : Nat) (b : Met BlockData StackErrs) (s : State) : Host.Outcome State Fault Refusal :=
  let errs := b.errs
  let b := b.val
  .next (if getN s Key.reshardPhase ≠ 2 ∨ jobSt s 2 ≠ jobRunning then s
    else match s.pulls.find? (fun p => p.job == 2 && p.group == group),
        (reshardTarget s).bind (fun t => t.groups.find? (fun d => gdGroup d == group)), entryFor s group b.block with
      | some p, some d, some e =>
        if gdBlocks d ≤ b.block ∨ p.got.contains b.block then s
        else
          let number := e.srcFirst + (b.block - e.dstFirst)
          let r := takeResharded (meetErrors s (blockStack d b.block) errs) d p b number
          if r.2 then r.1
          else retryBlock (raise r.1 Key.mappingFlags 1) p b.block (some e.source) e.srcGroup number
            (fun s => failReshard s stBadValue group b.block)
      | _, _, _ => s)

/-! ### The image of a checkpoint (R509) -/

/-- The header of an image. -/
def imageHeader (s : State) : List Byte :=
  let h := leBytes 4 0x4B504843 ++ leBytes 2 1 ++ leBytes 2 (groupDescs s).length ++ leBytes 8 (getN s Key.commitStep) ++
    leBytes 4 (ownAddr s) ++ leBytes 4 0 ++ slice (getDom s Key.placementHash) 0 32 ++ leBytes 4 0
  h ++ leBytes 4 (crc32c h)

/-- A group's header. -/
def imageGroupHeader (s : State) (d : List Byte) : List Byte :=
  let h := leBytes 2 (gdGroup d) ++ slice d 2 3 ++ slice d 8 1 ++ leBytes 2 0 ++ leBytes 8 (getGroup s (gdGroup d)).t ++
    leBytes 4 (gdBlocks d) ++ leBytes 8 0
  h ++ leBytes 4 (crc32c h)

/-- A block's record. -/
def imageBlock (s : State) (d : List Byte) (n : Nat) : List Byte :=
  let b := servedBlock s d n
  leBytes 8 n ++ b.fwd ++ (if gdScaled d then leBytes 1 b.scale else []) ++ b.states.flatten ++ b.gacc ++ b.due0 ++ b.due1 ++
    leBytes 8 b.digest.toNat

/-- The whole image. -/
def imageBytes (s : State) : List Byte :=
  imageHeader s ++ (groupsInOrder s).flatMap (fun d =>
    imageGroupHeader s d ++ (List.range (gdBlocks d)).flatMap (imageBlock s d))

/-- Whether the header of a host image is as R509 gives it: magic, version, the groups of the placement, reserved fields, CRC. -/
def hostHeaderOk (s : State) (h : List Byte) : Bool :=
  h.length == 64 && field h 0 4 == 0x4B504843 && field h 4 2 == 1 && field h 6 2 == (groupDescs s).length &&
    decide (field h 0x10 4 < 2 ^ 18) && field h 0x14 4 == 0 && field h 0x38 4 == 0 && field h 0x3C 4 == crc32c (slice h 0 0x3C)

/-- Whether a group header of a host image names a group as the placement holds it: group, kind, formats, states, tier and block count, with
its own CRC; its T may differ. -/
def hostGroupOk (s : State) (e : List Byte × List Byte) : Bool :=
  let own := imageGroupHeader s e.1
  let h := e.2
  h.length == 32 && slice h 0 8 == slice own 0 8 && slice h 0x10 12 == slice own 0x10 12 && field h 0x1C 4 == crc32c (slice h 0 0x1C)

/-- Whether a host image is the one that PARAMETERS name and matches the applied placement (R507, R509). -/
def hostImageOk (s : State) (params : List Byte) (i : HostImage) : Bool :=
  i.hash == slice params 0x18 32 && i.bytes == field params 0x10 8 && hostHeaderOk s i.header &&
    i.groups.length == (groupDescs s).length && ((groupsInOrder s).zip i.groups).all (hostGroupOk s)

/-- The t of every group pulled from a host image is the one of its group header (R509). -/
def takeImageT (s : State) (i : HostImage) : State :=
  ((groupsInOrder s).zip i.groups).foldl (fun s e =>
    let g := gdGroup e.1
    if s.pulls.any (fun p => p.job == 3 && p.group == g) then setGroup s g { getGroup s g with t := field e.2 8 8 } else s) s

/-! ### The ends (R442) -/

/-- The end of a memory test (R321, R322): the repairs and retirements are recorded, and every line is zero: no
image of a placement stands in the stacks any more. -/
def endMemoryTest (s : State) (o : JobOutcome) : State :=
  let s := o.framesRetired.foldl (fun s f => retireFrame s f.1 f.2) s
  let s := setN (setN (setN s Key.testRowsRepaired o.rowsRepaired) Key.testFramesRetired o.framesRetired.length) Key.testBeat (beatNow s)
  let s := noteProgress (endTest { s with stk := { s.stk with mem := [], poison := [], frameErrs := [] }, images := [] }) 0 o.done
  if o.status = stOk then endJob (setN s (Key.jobProgressDone 0) 26) 0 jobDone stOk 0 0 []
  else endJob s 0 jobFailed o.status o.place o.index []

/-- A core that a load finds RUNNING or WAITING refuses its configuration writes (R85); any other one that is up is LOADING (R91). -/
def beginLoad (s : State) (p : Placement) : State :=
  p.cores.foldl (fun s plan =>
    let c := getCore s plan.core
    match c.st with
    | .running => takeException s plan.core c excSramRegion c.pc 0 []
    | .waiting => takeException s plan.core c excSramRegion c.pc 0 []
    | .dead => s
    | .parked => s
    | .reset => s
    | _ => setCore s plan.core { c with st := .loading }) s

/-- The end of a placement load (R445): the hash, every load check; then, with APPLY, the cores are written, and the next boundary applies
the placement. -/
def endPlacementLoad (s : State) (o : JobOutcome) : State :=
  let b := jobParams s 1
  let s := noteProgress s 1 o.done
  let fail (st place index : Nat) := endJob s 1 jobFailed st place index []
  match o.placement with
  | none => fail (if o.status = stOk then stBadValue else o.status) o.place o.index
  | some p =>
    if o.status ≠ stOk then fail o.status o.place o.index
    else if p.hash ≠ slice b 0x18 32 then fail stBadValue 0 0
    else
      match loadFail s p with
      | some (st, place, index) => fail st place index
      | none =>
        let s := { s with images := amIns p s.images (frameKey (field b 2 1) (field b 4 4)) }
        let s := setN s (Key.jobProgressDone 1) (field b 0x10 8)
        if bit (field b 1 1) 0 then putJob (beginLoad s p) { getJob s 1 with load := some p }
        else endJob s 1 jobDone stOk 0 0 []

/-- The step j of R508. -/
def newestStep (s : State) : Nat :=
  match milestones s with
  | r :: _ => field r.body 0 8
  | [] => (getN s Key.stepOrigin + 2 ^ 64 - 1) % 2 ^ 64

/-- The training tickets that an ADOPT completes: those of step c, with LOSS lost (R508). -/
def adoptTickets (s : State) (c : Nat) : State :=
  let ts := s.host.tickets.filter (fun t => !t.ended && tkKind t.bytes == 1 && tkStep t.bytes == c)
  setN (ts.foldl (fun s t => completeTicket s t c (some 0x7FC00000)) s) Key.ticketsAdoptCompleted ts.length

/-- A group at an ADOPT: nothing of the step that it was in, which the source's is the successor of, or which is undone; `next` says which. -/
def adoptGroup (c : Nat) (next : Bool) (s : State) (d : List Byte) : State :=
  let g := getGroup s (gdGroup d)
  let g1 := { g with resWrote := g.resWrote && next, oresWrote := g.oresWrote && next }
  setGroup s (gdGroup d) { nextGroup g1 c false true g.due g.sweepConsts with hold := g.hold, passStep := none, passes := [] }

/-- The update units with nothing under way: the step that they worked for is not the one that goes on. -/
def dropUpdates (s : State) : State :=
  refreshUnits { s with update := { s.update with engines := [], fast := [], sweep := [], order := [] } }

/-- The engine adopts a source's COMMIT_STEP (R508); `whole` holds the groups that came with their slow-tier arrays (R507). -/
def adopt (s : State) (c source : Nat) (whole : List Nat) : State :=
  let next := c = (newestStep s + 1) % 2 ^ 64
  let s := setSteps s c
  let s := logEvent (raise (journal s 5 (leBytes 8 c ++ leBytes 4 source ++ leBytes 4 0)) Key.recoveryFlags 1) 0x10 [c % 2 ^ 32, c / 2 ^ 32]
  let s := if next then adoptTickets s c else setN s Key.ticketsAdoptCompleted 0
  let s := (groupDescs s).foldl (adoptGroup c (decide next)) (dropUpdates s)
  let s := ((groupDescs s).filter (fun d => whole.contains (gdGroup d))).foldl (adoptWindows c) s
  let s := openStep { s with stp := { s.stp with work := s.stp.work.filter (fun w => w.evaluation), openBeat := beatNow s } }
  retryKept (sendFingerprint s c ((groupDescs s).map gdGroup))

/-- A whole pull ends (R507, R508): with ADOPT_STEP the engine adopts the source's COMMIT_STEP `c`. -/
def closePull (s : State) (c : Nat) : State :=
  let b := jobParams s 3
  let j := newestStep s
  if !bit (field b 1 1) 1 then endJob (dropPulls s 3) 3 jobDone stOk 0 0 []
  else if c = j ∨ c = (j + 1) % 2 ^ 64 ∨ (bit (field b 1 1) 2 ∧ c < j) then
    let whole := (s.pulls.filter (fun p => p.job == 3 && p.all)).map (fun p => p.group)
    endJob (adopt (dropPulls s 3) c (if field b 0 1 = 0 then field b 4 4 else ownAddr s) whole) 3 jobDone stOk 0 0 []
  else failPull s stWrongState 0 0

/-- The end of a shard pull (R507 to R509): from a peer, once every block is in; from a host image, where it is the image named and matches
the placement. -/
def endShardPull (s : State) (o : JobOutcome) : State :=
  let b := jobParams s 3
  let mine := s.pulls.filter (fun p => p.job == 3)
  let whole := mine.all (fun p => match groupDesc s p.group with
    | some d => p.got.length == gdBlocks d
    | none => true)
  if o.status ≠ stOk then failPull s o.status o.place o.index
  else if field b 0 1 = 0 then
    if whole then closePull s ((mine.findSome? (fun p => p.commit)).getD o.sourceCommit) else s
  else match o.image with
    | none => failPull s stBadValue 0 0
    | some i =>
      if !hostImageOk s b i then failPull s stBadValue 0 0
      else if whole then closePull (takeImageT s i) (field i.header 8 8)
      else s

/-- The end of a reshard's copying (R385): COPIED once every DEST block is written and verified. On a pod spare DRAIN_STEP is the step
that its sources had committed. -/
def endReshard (s : State) (o : JobOutcome) : State :=
  if o.status ≠ stOk then failReshard s o.status o.place o.index
  else if getN s Key.reshardPhase ≠ 2 ∨ getN s Key.blocksReceived < getN s Key.blocksExpected then s
  else
    let c := ((s.pulls.filter (fun p => p.job == 2)).findSome? (fun p => p.commit)).getD o.sourceCommit
    let s := if getN s Key.podSpare = 1 then setN s Key.drainStep c else s
    endJob (setN s Key.reshardPhase 3) 2 jobDone stOk 0 0 []

/-- The end of a checkpoint dump: DETAIL names the image's length and hash (R509). -/
def endDump (s : State) (o : JobOutcome) : State :=
  if o.status ≠ stOk then endJob (noteProgress s 4 o.done) 4 jobFailed o.status o.place o.index []
  else match (getJob s 4).dump with
    | some (_, rest) => endJob (setN s (Key.jobProgressDone 4) (getN s (Key.jobProgressTotal 4))) 4 jobDone stOk 0 0 rest
    | none => s

/-- JOB_END (R442): a running job ends by itself. -/
def execJobEnd (job : Nat) (o : JobOutcome) (s : State) : Host.Outcome State Fault Refusal :=
  .next (if 5 ≤ job ∨ jobSt s job ≠ jobRunning ∨ (getJob s job).load.isSome then s
    else match job with
      | 0 => endMemoryTest s o
      | 1 => endPlacementLoad s o
      | 2 => endReshard s o
      | 3 => endShardPull s o
      | _ => endDump s o)

/-! ### The dump (R509) -/

/-- CHECKPOINT_DUMP (R509): at a milestone boundary the committed state is written to the host as one image; an image beyond the capacity
fails with BAD_RANGE. -/
def execCheckpointDump (s : State) : Host.Outcome State Fault Refusal :=
  let j := getJob s 4
  let b := jobParams s 4
  if jobSt s 4 ≠ jobRunning ∨ j.dump.isSome ∨ !s.stp.milestoneDone ∨ s.stp.lastMilestoneBeat ≠ beatNow s then .next s
  else
    let img := imageBytes s
    let cap := field b 8 8
    let t := setN (emit s (.hostWrite (field b 0 8) (img.take cap))) (Key.jobProgressTotal 4) img.length
    if cap < img.length then .next (endJob (setN t (Key.jobProgressDone 4) cap) 4 jobFailed stBadRange 0 0 [])
    else .next (putJob t { j with dump := some (getN s Key.commitStep, leBytes 8 img.length ++ sha256 img) })

/-! ### SWITCH, RESUME, REPLAY_STEP, PEER_SUBSTITUTE (R387, R504, R505) -/

/-- SWITCH is refused in any phase but COPIED. -/
def switchCheck (s : State) (_ : Nat) : Nat := if getN s Key.reshardPhase = 3 then stOk else stWrongState

/-- The target placement and its region table in force, with the t of every group as moved (R386, R387). -/
def switchEffect (s : State) (v : Nat) : State :=
  let s := setN s Key.switch v
  match v, reshardTarget s with
  | 1, some p =>
    let drain := getN s Key.drainStep
    let moved := s.pulls.filter (fun q => q.job == 2)
    let s := setSteps (installPlacement (dropPulls (suspendAll s) 2) p) drain
    let s := moved.foldl (fun s q => setGroup s q.group { getGroup s q.group with t := q.t }) s
    let s := (groupDescs s).foldl (adoptWindows drain) s
    resumeAll (setN s Key.reshardPhase 4)
  | _, _ => s

/-- SWITCH (R387). -/
def execSwitch (w : Met WReq (List (CoreId × List SramErr))) (s : State) : Host.Outcome State Fault Refusal :=
  .next (ownWrite s Key.switch w.val switchCheck (fun s v => metBy w.errs (fun s => switchEffect s v) s))

/-- RESUME is refused in any phase but SWITCHED. -/
def resumeCheck (s : State) (_ : Nat) : Nat := if getN s Key.reshardPhase = 4 then stOk else stWrongState

/-- LAST_RECOVERY_MS: how long the recovery has taken is no count of the engine's commands; the value is free (R517). -/
def recovered (s : State) : State :=
  let r := drawFree s
  setN r.2 Key.lastRecoveryMs (r.1 % 2 ^ 32)

/-- The phase NONE: the engine accepts tickets again, and the step opens. The FINGERPRINT of DRAIN_STEP goes to the new peers, now that every
engine of the job has switched, so that the comparison stands before the next milestone as after any (R280, R387; DEDUCED, assumption log
69). -/
def resumeEffect (s : State) (v : Nat) : State :=
  let s := setN s Key.resume v
  if v = 1 then
    let s := recovered <| setN { s with stp := { s.stp with openBeat := beatNow s } } Key.reshardPhase 0
    retryKept (sendFingerprint s (getN s Key.commitStep) ((groupDescs s).map gdGroup))
  else s

/-- RESUME (R387). -/
def execResume (w : WReq) (s : State) : Host.Outcome State Fault Refusal := .next (ownWrite s Key.resume w resumeCheck resumeEffect)

/-- Every micro-batch of the current step abandoned and replayed (R504); the object reads 0. -/
def replayEffect (s : State) (v : Nat) : State :=
  if v = 0 then s
  else
    let qs := ((s.stp.work.filter (fun w => !w.evaluation)).map (fun w => w.seq)).foldl (fun a q => nsIns q a) []
    if qs = [] then s else replayNow (abandon (suspendAll s) qs)

/-- REPLAY_STEP (R504). -/
def execReplayStep (w : Met WReq (List (CoreId × List SramErr))) (s : State) : Host.Outcome State Fault Refusal :=
  .next (ownWrite s Key.replayStep w.val noCheck (fun s v => metBy w.errs (fun s => replayEffect s v) s))

/-- A table of whole pairs with no reserved bit, at most 64 (R505). -/
def substituteCheck (_ : State) (bs : List Byte) : Nat :=
  if bs.length % 8 = 0 ∧ bs.length ≤ 512 ∧ (List.range (bs.length / 8)).all (fun i =>
      let v := field bs (8 * i) 8
      bits v 31 18 == 0 && bits v 63 50 == 0) then stOk else stBadValue

/-- The messages of the step go to the new addresses, in new flows (R492, R505). -/
def substituteEffect (s : State) (bs : List Byte) : State :=
  let s := setDom s Key.peerSubstitute bs
  (substPairs bs).foldl (fun s p =>
    let sent := s.exch.sent.map (fun e => if e.1 == p.1 then (p.2, sealMsg p.2 e.2) else e)
    let tx := s.eth.tx.filter (fun f => f.dest != p.1)
    resendStep { s with exch := { s.exch with sent := sent }, eth := { s.eth with tx := tx } } p.2) s

/-- PEER_SUBSTITUTE (R505). -/
def execPeerSubstitute (w : DReq) (s : State) : Host.Outcome State Fault Refusal :=
  .next (ownWriteDom s Key.peerSubstitute w substituteCheck substituteEffect)

end Sys2Proof.Machine
end

