-- ==== Sys2Proof/Machine/Session.lean ====
section
/-! DEFINITION. Parealo frames as bytes, their authentication, sessions and the closing of transactions (17_object_dictionary.md R418 to
R426, R439). -/

namespace Sys2Proof.Machine

/-! ### Frames (R419, R420, R425) -/

/-- The secret of a role by its code. -/
def secretOf (s : State) (role : Nat) : List Byte := slice (s.sec.secrets.getD role []) 0 32

/-- The MAC of R420: the first 16 bytes of HMAC-SHA-256. -/
def macOf (key bytes : List Byte) : List Byte := (hmacSha256 key bytes).take 16

/-- The 32-byte header of R419. -/
def frameHeader (kind role ops engine session epoch seq length : Nat) : List Byte :=
  leBytes 2 0x5041 ++ leBytes 1 1 ++ leBytes 1 kind ++ leBytes 1 role ++ leBytes 1 0 ++ leBytes 2 ops ++ leBytes 4 engine ++
    leBytes 4 session ++ leBytes 4 epoch ++ leBytes 4 seq ++ leBytes 2 length ++ leBytes 6 0

/-- An operation's 24-byte header and its padded data (R425). -/
def opWords (op flags idx sub len txn off change : Nat) (data : List Byte) : List Byte :=
  leBytes 1 op ++ leBytes 1 flags ++ leBytes 2 idx ++ leBytes 1 sub ++ leBytes 1 0 ++ leBytes 2 len ++ leBytes 4 txn ++ leBytes 4 off ++
    leBytes 8 change ++ padTo 8 data

/-- An operation of a REQUEST as bytes. -/
def opBytes : POp → List Byte
  | .read idx sub txn watch length offset change => opWords 1 (b2n watch) idx sub length txn offset change []
  | .write idx sub txn offset data => opWords 2 0 idx sub data.length txn offset 0 data
  | .begin_ => opWords 3 0 0 0 0 0 0 0 []
  | .commit txn => opWords 4 0 0 0 0 txn 0 0 []
  | .rollback txn => opWords 5 0 0 0 0 txn 0 0 []
  | .describe idx sub => opWords 6 0 idx sub 0 0 0 0 []

/-- The header and body of a received frame. -/
def requestBytes (f : PFrame) : List Byte :=
  let body := if f.kind = 3 then slice f.nonce 0 16 else f.ops.flatMap opBytes
  frameHeader f.kind f.role f.ops.length f.engine f.session f.epoch f.frameSeq (48 + body.length) ++ body

/-- A frame that the engine sends: kind, role, operations, session, FRAME_SEQ and body, under the role's secret. -/
def replyBytes (s : State) (kind role ops session seq : Nat) (body : List Byte) : List Byte :=
  let b := frameHeader kind role ops s.mgmt.address session s.log.epoch seq (48 + body.length) ++ body
  b ++ macOf (secretOf s role) b

/-- A frame goes out: as a datagram to the source of its request, or into MAILBOX_RESPONSE with BUSY cleared, RESPONSE_READY set and MSI-X vector 2 (R418). -/
def sendReply (s : State) (p : Path) (u : UdpEnds) (bytes : List Byte) : State :=
  match p with
  | .mailbox =>
    emit (setBar s (fun b => { b with mailboxBusy := false, mailboxReady := true, mailboxRequest := [], mailboxResponse := bytes })) (.msix 2)
  | _ => emit s (.frame p u.source u.sourcePort bytes)

/-- A frame discarded without a reply; the mailbox becomes free again. -/
def dropFrame (s : State) (p : Path) : State :=
  match p with
  | .mailbox => setBar s (fun b => { b with mailboxBusy := false, mailboxRequest := [] })
  | _ => s

/-! ### Sessions (R423) -/

/-- The session that a frame names: open for its role on its path (R421). -/
def findSession (s : State) (num role : Nat) (p : Path) : Option Session :=
  s.par.sessions.find? (fun x => x.num == num && roleCode x.role == role && x.path == p)

/-- The code of a path in SESSION_TABLE (R448). -/
def pathCode : Path → Nat
  | .mailbox => 0
  | .mgmtA => 1
  | .mgmtB => 2

/-- The open handle of a session. -/
def sessionHandle (s : State) (num : Nat) : Nat :=
  match s.par.txns.find? (fun t => t.session == num) with
  | some t => t.handle
  | none => 0

/-- SESSIONS_OPEN, SESSION_TABLE and TXN_OPEN follow the sessions and transactions. -/
def refreshPar (s : State) : State :=
  let recs := s.par.sessions.flatMap (fun x =>
    leBytes 4 x.num ++ leBytes 1 (roleCode x.role) ++ leBytes 1 (pathCode x.path) ++ leBytes 2 0 ++ leBytes 4 x.highest ++
      leBytes 4 (sessionHandle s x.num))
  let s := setN (setN s Key.sessionsOpen s.par.sessions.length) Key.txnOpen s.par.txns.length
  setDom s Key.sessionTable (slice recs 0 512)

/-- A session changed. -/
def setSession (s : State) (x : Session) : State :=
  { s with par := { s.par with sessions := s.par.sessions.map (fun y => if y.num == x.num then x else y) } }

/-- A transaction is closed. -/
def dropTxn (s : State) (handle : Nat) : State :=
  { s with par := { s.par with txns := s.par.txns.filter (fun t => t.handle != handle) } }

/-- A transaction is rolled back (R439). -/
def rollbackTxn (s : State) (handle : Nat) : State := count64 (dropTxn s handle) Key.txnRolledBack

/-- A session closes: its transaction is rolled back, unless its COMMIT waits for a boundary (R423, R446). -/
def closeSession (s : State) (num : Nat) : State :=
  let hs := (s.par.txns.filter (fun t => t.session == num && !t.committing)).map (fun t => t.handle)
  let s := hs.foldl rollbackTxn s
  refreshPar { s with par := { s.par with sessions := s.par.sessions.filter (fun x => x.num != num) } }

/-- Every session of a role closes (R527). -/
def closeRole (s : State) (role : Nat) : State :=
  ((s.par.sessions.filter (fun x => roleCode x.role == role)).map (fun x => x.num)).foldl closeSession s

/-- SESSION_EXPIRED (R423): SESSION_IDLE_MS has passed without an executed frame. -/
def execSessionExpired (session : Nat) (s : State) : Host.Outcome State Fault Refusal :=
  .next (if s.par.sessions.any (fun x => x.num == session) then closeSession (raise s Key.parealoFlags 1) session else s)

/-- The response of an operation of a session's frame is known (R426, R434). -/
def fillResponse (s : State) (session seq k : Nat) (bytes : List Byte) : State :=
  { s with par := { s.par with sessions := s.par.sessions.map (fun x =>
      if x.num == session then { x with open_ := x.open_.map (fun o =>
        if o.seq == seq then { o with resp := setAt (some bytes) o.resp k } else o) } else x) } }

/-- Whether a frame in execution can be answered: every operation executed, every response known. -/
def frameDone (o : OpenFrame) : Bool := decide (o.total ≤ o.next) && o.resp.all (fun r => r.isSome)

/-- A response sent again to each copy of its request that waited (R446). -/
def resendCopies (p : Path) (bytes : List Byte) (us : List UdpEnds) (s : State) : State :=
  us.foldl (fun s u => sendReply (count64 s Key.framesResent) p u bytes) s

/-- A frame answered: the RESPONSE goes out, is kept for the session, and the copies that waited receive it (R422, R426). -/
def answerFrame (s : State) (num seq : Nat) : State :=
  match s.par.sessions.find? (fun x => x.num == num) with
  | none => s
  | some x =>
    match x.open_.find? (fun o => o.seq == seq && frameDone o) with
    | none => s
    | some o =>
      let body := o.resp.flatMap (fun r => r.getD [])
      let bytes := replyBytes s 2 (roleCode x.role) o.resp.length x.num o.seq body
      let s := setSession s { x with
        open_ := x.open_.filter (fun y => y.seq != seq)
        kept := ((o.seq, o.mac, bytes) :: x.kept).take 16 }
      resendCopies x.path bytes o.copies (sendReply s x.path o.udp bytes)

/-- Every frame that can be answered is answered, session by session and in order. -/
def answerAll (s : State) : State :=
  (s.par.sessions.flatMap (fun x => x.open_.map (fun o => (x.num, o.seq)))).foldl (fun s e => answerFrame s e.1 e.2) s

end Sys2Proof.Machine
end

