-- ==== Sys2Proof/Machine/Security.lean ====
section
/-! DEFINITION. Identity, firmware trust and check-value units (21_security_check_values.md), and the service connector's 1149.1 port
(22_module_hardware.md R550). -/

namespace Sys2Proof.Machine

/-! ### Fuses (R518, R523) -/

/-- The ROLLBACK count: a step counts when either of its two bits is blown. -/
def rollbackCount (s : State) : Nat :=
  ((List.range 64).filter (fun i => bit s.sec.rollbackBits (2 * i) || bit s.sec.rollbackBits (2 * i + 1))).length

/-- FUSE_STATE, ROLLBACK_COUNT and LOCK_STATE follow the fuses and the unlock (R540). -/
def refreshFuses (s : State) : State :=
  let s := setN s Key.fuseState (s.sec.rootRevoked.toNat + 16 * b2n s.sec.provisioned + 32 * b2n s.sec.debugLocked)
  let s := setN s Key.rollbackCount (rollbackCount s)
  setN s Key.lockState (if s.sec.debugOpen then 2 else if s.sec.debugLocked then 1 else 0)

/-- The security state changed, and the objects that show it. -/
def setSec (s : State) (f : Security → Security) : State := refreshFuses { s with sec := f s.sec }

/-! ### Signed images (R519 to R521) -/

/-- A field of an image's header. -/
def imgField (i : FwImage) (off n : Nat) : Nat := field i.header off n

/-- The bytes of an image's header. -/
def imgBytes (i : FwImage) (off n : Nat) : List Byte := slice i.header off n

/-- The measurement of an image (R521). -/
def measurement (i : FwImage) : List Byte := sha256 (slice i.header 0 256)

/-- ROOT_SLOT names a slot that is not revoked. -/
def slotOk (s : State) (i : FwImage) : Bool := decide (imgField i 7 1 ≤ 3) && !bit s.sec.rootRevoked.toNat (imgField i 7 1)

/-- SECURITY_VERSION is at least the ROLLBACK count and at most 64. -/
def versionOk (s : State) (i : FwImage) : Bool := decide (rollbackCount s ≤ imgField i 0xC 4) && decide (imgField i 0xC 4 ≤ 64)

/-- The layout of R519: MAGIC, HEADER_VERSION, KIND, the reserved fields, the lengths. -/
def imageShape (kind : Nat) (i : FwImage) : Bool :=
  i.header.length == 256 && i.signature.length == 5396 && imgField i 0 4 == 0x44474D49 && imgField i 4 2 == 1 && imgField i 6 1 == kind &&
    imgField i 0x10 4 == i.body.length && decide (i.body.length ≤ 33554432) && imgField i 0x14 12 == 0 && imgField i 0x7C 4 == 0 &&
    imgField i 0xB0 76 == 0 && imgField i 0xFC 4 == 5396 && (kind == 4 || imgField i 0x90 32 == 0)

/-- The acceptance of an image (R521). -/
def imageOk (s : State) (kind : Nat) (i : FwImage) : Bool :=
  imageShape kind i && slotOk s i && sha256 (imgBytes i 0x40 60) == s.sec.rootHash.getD (imgField i 7 1) [] &&
    Config.hssVerify (imgBytes i 0x40 60) i.signature i.header && versionOk s i &&
    (imgField i 0x80 16 == 0 || imgBytes i 0x80 16 == s.sec.serial) && sha256 i.body == imgBytes i 0x20 32

/-! ### Banks (R521, R522) -/

/-- The banks of a kind. -/
def banksOf (s : State) (kind : Nat) : Bank × Bank := s.sec.banks.getD kind (⟨⟨[], [], []⟩, false⟩, ⟨⟨[], [], []⟩, false⟩)

/-- Bank A (0) or B of a kind. -/
def bankOf (s : State) (kind b : Nat) : Bank := if b = 0 then (banksOf s kind).1 else (banksOf s kind).2

/-- A bank replaced. -/
def setBank (s : State) (kind b : Nat) (v : Bank) : State :=
  let old := banksOf s kind
  setSec s (fun c => { c with banks := setAt (if b = 0 then (v, old.2) else (old.1, v)) c.banks kind })

/-- Whether a banked image passes R521 when it is verified again: it passed when it was staged, and the fuses still allow it. -/
def bankOk (s : State) (kind b : Nat) : Bool :=
  (bankOf s kind b).valid && slotOk s (bankOf s kind b).image && versionOk s (bankOf s kind b).image

/-- The bank that a verifier runs: the one that NEXT_BANK names, else the other (R521). -/
def chooseBank (s : State) (kind : Nat) : Option Nat :=
  let n := getN s (Key.fwNextBank kind)
  if bankOk s kind n then some n else if bankOk s kind (1 - n) then some (1 - n) else none

/-- The image of a bank runs: the objects of A021 to A024; FW_FALLBACK where it is not the bank that NEXT_BANK names. -/
def runBank (s : State) (kind b : Nat) : State :=
  let i := (bankOf s kind b).image
  let s := if b = getN s (Key.fwNextBank kind) then s else raise s Key.securityFlags 1
  let s := setN (setN s (Key.fwRunningVersion kind) (imgField i 8 4)) (Key.fwSecurityVersion kind) (imgField i 0xC 4)
  setDom (setN s (Key.fwBank kind) b) (Key.fwMeasurement kind) (measurement i)

/-! ### Staging (R522) -/

/-- The kind whose bring-up verification is running (R538). -/
def verifyingKind (s : State) (kind : Nat) : Bool :=
  let ph := getN s Key.bringupPhase
  (ph == 2 && (kind == 1 || kind == 2)) || (ph == 3 && kind == 3)

/-- The check of FW_STAGE_REQUEST. -/
def stageCheck (s : State) (bs : List Byte) : Nat :=
  let k := field bs 1 1
  if 1 < field bs 0 1 ∨ ¬(k ≤ 3 ∨ k = 5) ∨ field bs 2 6 ≠ 0 ∨ field bs 0x10 4 < 5652 ∨ 33560084 < field bs 0x10 4 ∨ field bs 0x14 12 ≠ 0 then
    stBadValue
  else if getN s Key.fwStageState = 1 ∨ verifyingKind s k then stWrongState
  else stOk

/-- The bank of a kind that is not running. -/
def idleBank (s : State) (kind : Nat) : Nat := 1 - getN s (Key.fwBank kind)

/-- Steps 1 and 2: VERIFYING, and the bank that is written over holds no valid image meanwhile. -/
def stageEffect (s : State) (bs : List Byte) : State :=
  let k := field bs 1 1
  let s := setN (setDom s Key.fwStageRequest bs) Key.fwStageState 1
  let s := setSec s (fun c => { c with staging := bs })
  if k ≤ 3 then setBank s k (idleBank s k) { bankOf s k (idleBank s k) with valid := false } else s

/-- Whether a revocation image may be applied: it spares its own slot and one slot at least (R522). -/
def revokeOk (s : State) (i : FwImage) : Bool :=
  let m := field i.body 0 1
  i.body.length == 1 && decide (m ≤ 15) && !bit m (imgField i 7 1) && (m ||| s.sec.rootRevoked.toNat) != 15

/-- The end of a staging: STAGED or REJECTED, with the status. -/
def stagingEnd (s : State) (state result : Nat) : State :=
  let s := setN (setN s Key.fwStageState state) Key.fwStageResult result
  setSec s (fun c => { c with staging := [] })

/-- Steps 3 and 4: the image copied is judged. -/
def stageFinish (s : State) (i : FwImage) : State :=
  let bs := s.sec.staging
  let k := field bs 1 1
  let ok := imageOk s k i && field bs 0x10 4 == 5652 + i.body.length && (k != 5 || revokeOk s i)
  if !ok then
    let s := if k ≤ 3 then setBank s k (idleBank s k) ⟨i, false⟩ else s
    raise (stagingEnd s 3 stBadValue) Key.securityFlags 0
  else if k = 5 then stagingEnd (setSec s (fun c => { c with rootRevoked := c.rootRevoked ||| BitVec.ofNat 4 (field i.body 0 1) })) 2 stOk
  else
    let b := idleBank s k
    stagingEnd (setN (setBank s k b ⟨i, true⟩) (Key.fwNextBank k) b) 2 stOk

/-- FW_STAGE_REQUEST (R522): the commit and the verification of the image copied; where a session's frame has committed the request
already, the verification. -/
def execFwStageRequest (w : DReq) (image : FwImage) (s : State) : Host.Outcome State Fault Refusal :=
  if getN s Key.fwStageState = 1 ∧ s.sec.staging = w.bytes then .next (stageFinish s image)
  else .next (ownWriteDom s Key.fwStageRequest w stageCheck (fun s bs => stageFinish (stageEffect s bs) image))

/-! ### Rollback (R523) -/

/-- The SECURITY_VERSION of the image that NEXT_BANK names for a kind. -/
def nextVersion (s : State) (kind : Nat) : Nat := imgField (bankOf s kind (getN s (Key.fwNextBank kind))).image 0xC 4

/-- The check of ROLLBACK_ADVANCE. -/
def advanceCheck (s : State) (v : Nat) : Nat :=
  if rollbackCount s < v ∧ v ≤ 64 ∧ (List.range 4).all (fun k => decide (v ≤ nextVersion s k)) then stOk else stBadValue

/-- The two bits of every step up to v are blown; the new count is journalled, in a record for which R495 names no type. -/
def advanceEffect (s : State) (v : Nat) : State :=
  let s := setSec s (fun c => { c with rollbackBits := c.rollbackBits ||| (4 ^ v - 1) })
  raise (journalOpen s (leBytes 4 (rollbackCount s) ++ leBytes 4 0)) Key.securityFlags 2

/-- ROLLBACK_ADVANCE (R523). -/
def execRollbackAdvance (w : WReq) (s : State) : Host.Outcome State Fault Refusal :=
  .next (ownWrite s Key.rollbackAdvance w advanceCheck advanceEffect)

/-! ### Quotes (R524, R525) -/

/-- The quote body of R525; `n` is QUOTE_SEQ. -/
def quoteBody (s : State) (nonce : List Byte) (n : Nat) : List Byte :=
  leBytes 4 0x544F5551 ++ leBytes 2 1 ++ leBytes 2 0 ++ leBytes 4 s.mgmt.address ++ leBytes 4 n ++ slice s.sec.serial 0 16 ++
    leBytes 8 (beatNow s) ++ leBytes 8 s.stp.step ++ slice nonce 0 32 ++ slice (getDom s (Key.fwMeasurement 0)) 0 32 ++
    slice (getDom s (Key.fwMeasurement 1)) 0 32 ++
    sha256 (slice (getDom s (Key.fwMeasurement 2)) 0 32 ++ slice (getDom s (Key.fwMeasurement 3)) 0 32) ++
    slice (getDom s Key.planHash) 0 32 ++ slice (getDom s Key.placementHash) 0 32 ++ leBytes 1 (rollbackCount s) ++
    leBytes 1 (getN s Key.lockState) ++ leBytes 1 (getN s Key.activeCore) ++ leBytes 1 s.sec.rootRevoked.toNat ++ leBytes 12 0

/-- The signature state moves to the next leaf before a signature is released; where a bottom tree is used up, the next one comes into
use, or is waited for, and the one after it is generated (R524). -/
def nextLeaf (s : State) : State :=
  let s := setSec s (fun c => { c with leaf := c.leaf + 1 })
  if s.sec.leaf % 2 ^ 15 ≠ 0 then s
  else if s.sec.treeReady then setSec s (fun c => { c with treeReady := false })
  else setN s Key.identityState 1

/-- The check of QUOTE_NONCE: the interval, given in ms since the last quote, and IDENTITY_STATE. -/
def quoteCheck (sinceMs : Option Nat) (s : State) (_ : List Byte) : Nat :=
  let soon := match sinceMs with
    | some t => decide (t < getN s Key.quoteMinIntervalMs)
    | none => false
  if soon = true ∨ getN s Key.identityState ≠ 0 ∨ 2 ^ 30 ≤ s.sec.leaf then stWrongState else stOk

/-- The quote is signed. -/
def quoteEffect (s : State) (nonce : List Byte) : State :=
  let n := (getN s Key.quoteSeq + 1) % 2 ^ 32
  let body := quoteBody s nonce n
  let sig := slice (Config.hssSign s.sec.identitySeed s.sec.leaf body) 0 5396
  let s := nextLeaf s
  let s := count64 (setN s Key.quoteSeq n) Key.signaturesUsed
  setSec (setDom s Key.quote (body ++ sig)) (fun c => { c with lastQuote := some 0 })

/-- QUOTE_NONCE (R525): `sinceLastMs` is the time since the last quote; before the first quote nothing has to pass. -/
def execQuoteNonce (w : DReq) (sinceLastMs : Nat) (s : State) : Host.Outcome State Fault Refusal :=
  .next (ownWriteDom s Key.quoteNonce w (quoteCheck (s.sec.lastQuote.map (fun _ => sinceLastMs))) quoteEffect)

/-- The time since the last quote in whole ms, by the beats since. -/
def quoteSince (s : State) : Option Nat := s.sec.lastQuote.map (fun n => n * getN s Key.beatPeriodUs / 1000)

/-- BOTTOM_TREE_GENERATED (R524). -/
def execBottomTreeGenerated (s : State) : Host.Outcome State Fault Refusal :=
  .next (if getN s Key.identityState = 1 then setN s Key.identityState 0
    else if getN s Key.identityState = 0 then setSec s (fun c => { c with treeReady := true })
    else s)

/-! ### Roles and the debug lock (R526 to R528) -/

/-- The check of ROLE_SECRET: the owner keeps a secret. -/
def secretCheck (role : Nat) (_ : State) (bs : List Byte) : Nat := if role = 2 ∧ leNat bs = 0 then stBadValue else stOk

/-- The new secret waits until the boundary's frames are answered. -/
def secretEffect (role : Nat) (s : State) (bs : List Byte) : State :=
  { s with par := { s.par with secretDue := s.par.secretDue ++ [(role, bs)] } }

/-- The new secrets take effect: the sessions of their roles close (R527). -/
def settleSecrets (s : State) : State :=
  s.par.secretDue.foldl (fun s e =>
    let s := setSec s (fun c => { c with secrets := setAt (slice e.2 0 32) c.secrets e.1 })
    closeRole (raise s Key.securityFlags 3) e.1) { s with par := { s.par with secretDue := [] } }

/-- ROLE_SECRET (R527). -/
def execRoleSecret (r : Role) (w : DReq) (s : State) : Host.Outcome State Fault Refusal :=
  .next (settleSecrets (ownWriteDom s (Key.roleSecret (roleCode r)) w (secretCheck (roleCode r)) (secretEffect (roleCode r))))

/-- DEBUG_NONCE (R528): the width of the number of tokens in the message is not given. -/
def debugNonce (s : State) : List Byte :=
  hmacSha256 (Config.debugKey s.sec.wrapKey) (leBytes 4 (getN s Key.bringupCount) ++ leBytes 4 s.sec.tokensWritten)

/-- The image that a debug token's bytes spell. -/
def tokenImage (bs : List Byte) : FwImage := ⟨bs.take 256, (bs.drop 256).take 5396, bs.drop 5652⟩

/-- The check of DEBUG_TOKEN. -/
def tokenCheck (s : State) (bs : List Byte) : Nat :=
  let i := tokenImage bs
  if imageOk s 4 i && i.body.isEmpty && imgBytes i 0x80 16 == s.sec.serial && imgBytes i 0x90 32 == debugNonce s then stOk else stBadValue

/-- Debugging is unlocked: the private instructions open, LOCK_STATE 2, flag and event. R514 gives the event no code: code and severity
are free. -/
def tokenEffect (s : State) (_ : List Byte) : State :=
  let s := raise (setSec s (fun c => { c with debugOpen := true })) Key.securityFlags 4
  let a := drawFree s
  let b := drawFree a.2
  logEventAs b.2 (0x13 + a.1 % 0xFFED) (b.1 % 4) []

/-- Every write of a token changes DEBUG_NONCE. -/
def tokenWritten (s : State) : State := touch { s with sec := { s.sec with tokensWritten := s.sec.tokensWritten + 1 } } Key.debugNonce

/-- DEBUG_TOKEN (R528). -/
def execDebugToken (w : DReq) (s : State) : Host.Outcome State Fault Refusal :=
  let t := ownWriteDom s Key.debugToken w tokenCheck tokenEffect
  .next (if writesOpen s w.role Key.debugToken && writeStatus s w.role w.inTxn Key.debugToken w.bytes == stOk then tokenWritten t else t)

/-! ### The 1149.1 port (R526, R550) -/

/-- The 1149.1 port works: the management supply is up and the service port is clocked (R414). -/
def jtagClocked (s : State) : Bool := s.power.management && bit (getN s Key.clockEnableMc) 5

/-- Whether the private instructions are open. -/
def jtagOpen (s : State) : Bool := jtagClocked s && (!s.sec.provisioned || s.sec.debugOpen)

/-- JTAG_PROVISION (R526): the four role secrets, and the engine address, which takes effect at the next bring-up (R378). -/
def execJtagProvision (secrets : List (List Byte)) (address : BitVec 18) (s : State) : Host.Outcome State Fault Refusal :=
  .next (if jtagOpen s then
      setSec (setN s Key.engineAddress address.toNat) (fun c => { c with secrets := (List.range 4).map (fun i => slice (secrets.getD i []) 0 32) })
    else s)

/-- LOCK (R526): refused while the owner secret is all zeros. -/
def execLock (s : State) : Host.Outcome State Fault Refusal :=
  .next (if !jtagOpen s ∨ leNat (secretOf s 2) = 0 then s
    else setSec s (fun c => { c with provisioned := true, debugLocked := true }))

/-- The 32 bits of IDCODE, the least significant first (R550). -/
def idcodeBits (s : State) : List Bool :=
  let v := 1 + 2 * (Config.manufacturerCode % 2 ^ 11) + 0x8401 * 2 ^ 12 + getN s Key.siliconStep % 16 * 2 ^ 28
  (List.range 32).map (bit v)

/-- IDCODE (R550); a gated port reads as zeros (R414). -/
def execIdcode (s : State) : Host.Outcome State Fault Refusal :=
  .next (if !s.power.management then s else emit s (.tdo (if jtagClocked s then idcodeBits s else List.replicate 32 false)))

/-- BYPASS (R526): the bypass register holds one bit; what was shifted in comes out at the next shift. A gated port reads as zeros and takes
nothing (R414). -/
def execBypass (tdi : Bool) (s : State) : Host.Outcome State Fault Refusal :=
  .next (if !s.power.management then s
    else if !jtagClocked s then emit s (.tdo [false])
    else { emit s (.tdo [s.sec.tdi]) with sec := { s.sec with tdi := tdi } })

/-! ### Check-value units (R530 to R535) -/

/-- Where a unit stands in `cvus`: MC-A 0 to 3, MC-B 4 to 7, stream engines from 8, update units from 40. -/
def cvuKey : CvuId → Nat
  | .mc c u => 4 * c + u
  | .se n => 8 + n
  | .uu n => 40 + n

/-- Whether a unit is there, powered and clocked: else a raw write is ignored (R414). -/
def cvuLive (s : State) : CvuId → Bool
  | .mc c u => decide (u < 4) && decide (c < 2) && bit (getN s Key.clockEnableMc) u && (if c = 0 then s.mgmt.mcaRuns else s.mgmt.mcbRuns)
  | .se n => decide (n < 32) && s.power.crescents && bit (getN s Key.clockEnableSe) n
  | .uu n => decide (n < 16) && s.power.crescents && bit (getN s Key.clockEnableUu) n

/-- A unit's registers. -/
def getCvu (s : State) (u : CvuId) : Cvu := amGet Cvu.default s.cvus (cvuKey u)

/-- A unit's registers replaced. -/
def setCvu (s : State) (u : CvuId) (c : Cvu) : State := { s with cvus := amIns c s.cvus (cvuKey u) }

/-- POLY of CONFIG. -/
def cvuPoly (c : Cvu) : Nat := c.config.toNat % 4

/-- The width of a check value (R531). -/
def cvuWidth (p : Nat) : Nat := if p ≤ 1 then 32 else if p = 2 then 64 else 16

/-- The polynomial in the order that the unit shifts it: reversed for the reflected ones (R531, R533). -/
def cvuTerms (p : Nat) : Nat := if p = 0 then 0x82F63B78 else if p = 1 then 0xEDB88320 else if p = 2 then 0x42F0E1EBA9EA3693 else 0x1021

/-- The initial value and the final XOR (R531). -/
def cvuInit (p : Nat) : Nat := if p ≤ 1 then 0xFFFFFFFF else if p = 2 then 0 else 0xFFFF
def cvuXor (p : Nat) : Nat := if p ≤ 1 then 0xFFFFFFFF else 0

/-- One of the eight steps of feed_byte (R533). -/
def cvuStep (p v : Nat) : Nat :=
  if p ≤ 1 then if v % 2 = 1 then (v / 2) ^^^ cvuTerms p else v / 2
  else
    let w := cvuWidth p
    if bit v (w - 1) then ((2 * v) ^^^ cvuTerms p) % 2 ^ w else 2 * v % 2 ^ w

/-- feed_byte (R533). -/
def cvuFeed (p v : Nat) (b : Byte) : Nat :=
  let v := if p ≤ 1 then v ^^^ b.toNat else v ^^^ (b.toNat * 2 ^ (cvuWidth p - 8))
  cvuStep p (cvuStep p (cvuStep p (cvuStep p (cvuStep p (cvuStep p (cvuStep p (cvuStep p v)))))))

/-- Bytes fed one after another. -/
def cvuFeedAll (p v : Nat) (bs : List Byte) : Nat := bs.foldl (cvuFeed p) v

/-- start (R533): the initial value, and the sequence word folded. -/
def cvuBegin (c : Cvu) : Cvu :=
  let n := match bits c.config.toNat 3 2 with
    | 1 => 4
    | 2 => 8
    | _ => 0
  { c with value := BitVec.ofNat 64 (cvuFeedAll (cvuPoly c) (cvuInit (cvuPoly c)) (leBytes n c.seqWord.toNat)), active := true }

/-- A data write into an open stream. -/
def cvuData (c : Cvu) (bs : List Byte) : Cvu := { c with value := BitVec.ofNat 64 (cvuFeedAll (cvuPoly c) c.value.toNat bs) }

/-- finalise (R533): the milepost folded where FOLD_MILEPOST is set, RESULT, MILEPOST. -/
def cvuEnd (c : Cvu) : Cvu :=
  let v := if bit c.config.toNat 4 then cvuFeedAll (cvuPoly c) c.value.toNat (leBytes 4 c.milepost.toNat) else c.value.toNat
  { c with value := BitVec.ofNat 64 v, result := BitVec.ofNat 64 (v ^^^ cvuXor (cvuPoly c)), milepost := c.milepost + 1, active := false }

/-- ORDER_ERROR (R535). -/
def orderError (s : State) : State := raise (count64 s Key.orderErrors) Key.cvuFlags 0

/-- A data write (R533, R535): ignored, with ORDER_ERROR, while no stream is open. -/
def cvuWrite (s : State) (u : CvuId) (bs : List Byte) : State :=
  if !cvuLive s u then s else if (getCvu s u).active then setCvu s u (cvuData (getCvu s u) bs) else orderError s

/-- A raw write of CONFIG, SEQ_WORD or MILEPOST by its offset (R532); reserved bits of CONFIG are ignored (R9). COMMAND, VALUE and the data
registers have rows of their own. -/
def cvuRegister (c : Cvu) (w : BitVec 16 × W64) : Cvu :=
  match w.1.toNat with
  | 0x00 => { c with config := BitVec.ofNat 32 (w.2.toNat % 32) }
  | 0x08 => { c with seqWord := w.2 }
  | 0x18 => { c with milepost := BitVec.ofNat 32 w.2.toNat }
  | _ => c

/-- START (R532, R533), after the register writes that come before it. -/
def execCvuStart (u : CvuAccess) (s : State) : Host.Outcome State Fault Refusal :=
  .next (if cvuLive s u.u then setCvu s u.u (cvuBegin (u.writes.foldl cvuRegister (getCvu s u.u))) else s)

/-- FINALISE (R533, R535). -/
def execCvuFinalise (u : CvuId) (s : State) : Host.Outcome State Fault Refusal :=
  .next (if !cvuLive s u then s else if (getCvu s u).active then setCvu s u (cvuEnd (getCvu s u)) else orderError s)

/-- DATA8 (R533). -/
def execData8 (u : CvuId) (v : Byte) (s : State) : Host.Outcome State Fault Refusal := .next (cvuWrite s u [v])

/-- DATA16 (R533): the low byte first. -/
def execData16 (u : CvuId) (v : BitVec 16) (s : State) : Host.Outcome State Fault Refusal := .next (cvuWrite s u (leBytes 2 v.toNat))

/-- DATA32 (R533): the low byte first. -/
def execData32 (u : CvuId) (v : W32) (s : State) : Host.Outcome State Fault Refusal := .next (cvuWrite s u (leBytes 4 v.toNat))

/-- A write of VALUE: the running value, in the low bits of its width, and ACTIVE (R532, R535). -/
def cvuResume (c : Cvu) (v : W64) : Cvu :=
  { c with value := BitVec.ofNat 64 (v.toNat % 2 ^ cvuWidth (cvuPoly c)), active := true }

/-- VALUE (R532, R535), after the register writes that come before it. -/
def execValue (u : CvuAccess) (v : W64) (s : State) : Host.Outcome State Fault Refusal :=
  .next (if cvuLive s u.u then setCvu s u.u (cvuResume (u.writes.foldl cvuRegister (getCvu s u.u)) v) else s)

/-- A unit after its self-test (R537): at reset. -/
def cvuReset (s : State) (u : CvuId) : State := { s with cvus := amDel s.cvus (cvuKey u) }

/-! ### The management cores' heartbeat (R510, R536) -/

/-- A heartbeat that fails at a core counts as missed. -/
def missHeartbeat (s : State) (b : Bool) : State :=
  let h := s.mgmt.hbMissed
  { s with mgmt := { s.mgmt with hbMissed := if b then (h.1, h.2 + 1) else (h.1 + 1, h.2) } }

/-- MGMT_HEARTBEAT (R536): the receiver is the other core; its unit 3 folds its own count of accepted heartbeats, so that a repeated,
stale or corrupt heartbeat fails. -/
def execMgmtHeartbeat (fromB : Bool) (bytes : List Byte) (s : State) : Host.Outcome State Fault Refusal :=
  let u := CvuId.mc (b2n (!fromB)) 3
  if !cvuLive s u ∨ !(s.mgmt.mcaRuns && s.mgmt.mcbRuns) then .next s
  else
    let c := cvuEnd (cvuData (cvuBegin (getCvu s u)) (slice bytes 0 30))
    if bytes.length = 32 ∧ field bytes 30 2 = c.result.toNat % 2 ^ 16 then
      let s := setCvu s u c
      let h := s.mgmt.hbMissed
      .next { s with mgmt := { s.mgmt with hbMissed := if fromB then (0, h.2) else (h.1, 0) } }
    else
      let s := setCvu s u { c with milepost := (getCvu s u).milepost }
      .next (missHeartbeat s (!fromB))

end Sys2Proof.Machine
end

