-- ==== Sys2Proof/Machine/Bringup.lean ====
section
/-! DEFINITION. Bring-up (19_bring_up.md), what a reset, a loss of input and its return do (R468, R469, R473, R551), the management
cores' failover (R510), and the entry into RUN and the leaving of it (R484, R485, R502). -/

namespace Sys2Proof.Machine

/-! ### What a start keeps (R298, R432, R451, R500) -/

/-- The objects of fixed size that the logbook, the fuses or the firmware store keep. -/
def keptNums : List Nat :=
  [Key.startMode, Key.parealoUdpPort, Key.engineAddress, Key.planSerial, Key.quoteSeq, Key.signaturesUsed, Key.eventSeq,
   Key.journalRecordSeq, Key.journalBytesWritten, Key.bringupCount, Key.activeCore, Key.lastStartKind, Key.commitStep, Key.fuseState,
   Key.rollbackCount, Key.lockState, Key.fwNextBank 0, Key.fwNextBank 1, Key.fwNextBank 2, Key.fwNextBank 3]

/-- The DOMAIN objects that are kept. -/
def keptDoms : List Nat :=
  [Key.mgmtAddressA, Key.mgmtAddressB, Key.linkPlan, Key.planHash, Key.eventsBySeverity, Key.placementHash]

/-- The entries of a map at given keys. -/
def keepKeys {α : Type} (ks : List Nat) (m : List (Nat × α)) : List (Nat × α) := m.filter (fun e => ks.contains e.1)

/-- The host attachment after a start: the tickets stand in the journal; a warm start keeps the link, the rings, the slots and the
queued tokens; no start loses the token of an accepted ticket (R367). -/
def restartHost (s : State) (warm : Bool) : HostIf :=
  let h := s.host
  let bar := { h.bar with mailboxBusy := false, mailboxReady := false, mailboxRequest := [], mailboxResponse := [] }
  let ts := h.tickets.map (fun t => { t with data := [], targets := [] })
  { State.reset.host with
    bar := if warm then bar else State.reset.host.bar
    slots := if warm then h.slots else []
    linkUp := warm && h.linkUp
    tickets := ts
    nextAccept := h.nextAccept
    queued := if warm then h.queued else h.queued.filter (fun t => t.status == 0) }

/-- Whether a reset interrupts a milestone that only updates were missing for, so that it is repeated after the redo (R253). -/
def repeatable (s : State) : Bool :=
  inRun s && workDone s && compareDone s &&
    (groupDescs s).all (fun d => (getGroup s (gdGroup d)).ready || (getGroup s (gdGroup d)).skip || (getGroup s (gdGroup d)).hold || heldFor (getGroup s (gdGroup d)) s.stp.step)

/-- Whether a warm start keeps the work of the step in progress: a reset that finds it repeatable, and one before RUN that finds it kept. -/
def keepsWork (s : State) : Bool := repeatable s || (s.mgmt.startKind == 1 && !s.mgmt.runEntered)

/-- What a bring-up begins from, or the engine is when off: everything at its default but what is kept. A warm start keeps the stacks and
with them, for the step in progress, the groups' states, the settled micro-batches and the contributions accepted (R253, R285). -/
def restartState (s : State) (warm : Bool) (phase : Nat) : State :=
  let r := State.reset
  let sec := { s.sec with debugOpen := s.sec.debugOpen && warm, tokensWritten := 0, staging := [], lastQuote := none, tdi := false }
  let grid := { r.grid with
    mapA := s.grid.mapA, mapB := s.grid.mapB, currentB := s.grid.currentB, unpowered := s.grid.unpowered, released := s.grid.released }
  let power := { r.power with input := s.power.input, management := s.power.management, crescents := warm && s.power.crescents }
  let stk := if warm then { s.stk with frameErrs := [], scrubPos := [] } else r.stk
  let update := if warm then { r.update with groups := s.update.groups, order := s.update.order } else r.update
  let keep := warm && keepsWork s
  let stp := { r.stp with step := s.stp.step, work := if keep then s.stp.work else [], passed := if keep then s.stp.passed else [] }
  let exch := if warm then { r.exch with comparedStep := s.exch.comparedStep, accepted := s.exch.accepted } else r.exch
  let gates := if warm then { r.gates with settled := s.gates.settled } else r.gates
  { r with
    pending := s.pending, variant := s.variant, out := s.out, free := s.free
    objs := keepKeys keptNums s.objs, doms := keepKeys keptDoms s.doms
    grid := grid, power := power, stk := stk, update := update, stp := stp, exch := exch, gates := gates, images := if warm then s.images else []
    log := s.log, sec := sec, host := restartHost s warm
    mgmt := { r.mgmt with startKind := if warm then 1 else 0, awaitStart := phase == 1, address := s.mgmt.address } }

/-- The engine at the beginning of a bring-up, or off. -/
def restart (s : State) (warm : Bool) (phase : Nat) : State :=
  let t := setN (restartState s warm phase) Key.bringupPhase phase
  let t := if warm then (List.range 16).foldl (fun t n =>
      if bit (stackPresent s.variant) n then setN t (Key.msStackState n) (if getN s (Key.msStackState n) = 2 then 2 else 1) else t) t
    else t
  let t := if warm then setN t Key.linkStatus (getN s Key.linkStatus) else t
  refreshFuses t

/-- A committed reset begins its bring-up once the boundary's frames are answered (R473). -/
def settleReset (s : State) : State :=
  match s.mgmt.resetDue with
  | 1 => restart s true 1
  | 2 => restart s false 1
  | _ => s

/-- The effect of RESET_REQUEST. -/
def resetEffect (s : State) (v : Nat) : State := { s with mgmt := { s.mgmt with resetDue := v } }

/-- RESET_REQUEST (R473): in any state. -/
def execResetRequest (w : WReq) (s : State) : Host.Outcome State Fault Refusal :=
  .next (settleReset (ownWrite s Key.resetRequest w noCheck resetEffect))

/-- RESET_N_LOW (R551): low for 1 ms. -/
def execResetNLow (s : State) : Host.Outcome State Fault Refusal :=
  .next (if !s.power.input ∨ s.power.resetLow then s
    else
      let t := restart s true 0
      { t with power := { t.power with resetLow := true } })

/-- RESET_N_RISE (R551, R473): the bring-up is cold where the low level has lasted 10.00 ms or more; a level shorter than 1 ms has had no
effect and has none. -/
def execResetNRise (lowUs : Nat) (s : State) : Host.Outcome State Fault Refusal :=
  .next (if !s.power.resetLow then s else restart s (decide (lowUs < 10000)) 1)

/-! ### The input (R449, R468, R469) -/

/-- POWER_FAIL (R468): rails off; on hold-up energy the failure is journalled. -/
def execPowerFail (s : State) : Host.Outcome State Fault Refusal :=
  if !s.power.input then .next s
  else
    let mv := getN s Key.inputVoltageMv
    let runs := s.mgmt.mcaRuns || s.mgmt.mcbRuns
    let s := if runs then logEvent (journal s 11 (leBytes 4 mv ++ leBytes 4 0)) 0xC [mv] else s
    let t := restart s false 0
    .next { t with power := { t.power with input := false, holdUp := true } }

/-- HOLD_UP_RUN_OUT (R469): nothing is powered. -/
def execHoldUpRunOut (s : State) : Host.Outcome State Fault Refusal :=
  .next (if s.power.holdUp then { s with power := { s.power with holdUp := false, management := false } } else s)

/-- INPUT_RISE (R449, R473): a cold bring-up begins; a RESET_N held low keeps the engine OFF. -/
def execInputRise (s : State) : Host.Outcome State Fault Refusal :=
  if s.power.input then .next s
  else
    let p := { s.power with input := true, management := true, holdUp := false }
    .next (restart { s with power := p } false 1)

/-! ### The heartbeat record (R405) -/

/-- Tickets accepted and not completed. -/
def ticketsOutstanding (s : State) : Nat := (s.host.tickets.filter (fun t => !t.ended)).length

/-- The 64 bytes of the heartbeat record. -/
def heartbeatBytes (s : State) (timeNs causes late : Nat) : List Byte :=
  let state := b2n (inRun s) + 2 * b2n (accepting s) + 4 * b2n (s.beat.stretchLen != 0) +
    8 * b2n s.beat.tickLost + 16 * b2n s.beat.ptpLostFlag +
    32 * b2n (getN s Key.refState != 0)
  let body := leBytes 8 (beatNow s) ++ leBytes 8 s.stp.step ++ leBytes 8 (if s.beat.ptpLocked then timeNs else 0) ++
    leBytes 8 (getN s Key.beatsOverrun) ++ leBytes 1 state ++ leBytes 1 causes ++ leBytes 1 (getN s Key.gridMode) ++ leBytes 1 0 ++
    leBytes 4 (ticketsOutstanding s) ++ leBytes 8 s.stp.lastMilestoneBeat ++ leBytes 4 late ++ leBytes 2 (getN s Key.groupsHeld) ++ leBytes 6 0
  body ++ leBytes 4 (crc32c body)

/-- The heartbeat record rewritten. -/
def writeHeartbeat (s : State) (timeNs causes late : Nat) : State := setDom s Key.heartbeat (heartbeatBytes s timeNs causes late)

/-! ### Phase 1 (R476, R498) -/

/-- The duration of a phase in PHASE_TIMES_MS: no count of the engine's commands; the value is free (R488). -/
def notePhase (s : State) (n : Nat) : State :=
  let r := drawFree s
  setDom r.2 Key.phaseTimesMs (splice (slice (getDom s Key.phaseTimesMs) 0 20) (4 * (n - 1)) (leBytes 4 (r.1 % 2 ^ 32)))

/-- The highest BEAT among the journal's records (R395). -/
def journalBeat (s : State) : Nat := s.log.journal.foldl (fun a r => max a r.beat) 0

/-- The job indices whose newest JOB_STATE record says RUNNING or SUSPENDED (R442). -/
def interruptedJobs (s : State) : List Nat :=
  (List.range 5).filter (fun n =>
    match s.log.journal.find? (fun r => r.typ == 7 && field r.body 0 2 == 0x1200 + n) with
    | some r => field r.body 2 1 == 1 || field r.body 2 1 == 2
    | none => false)

/-- The copy of the defect map with the higher GENERATION is current (R35). -/
def loadMap (s : State) : State :=
  let b := match s.grid.mapA, s.grid.mapB with
    | some a, some b => decide (a.generation < b.generation)
    | none, some _ => true
    | _, none => false
  let s := { s with grid := { s.grid with currentB := b } }
  if curMap s = none then logEvent (raiseNow s Key.gridFlags 3) 4 [] else s

/-- The self-test of the management cores' units (R537): the failed ones among 0 to 3 (MC-A) and 4 to 7 (MC-B). -/
def mcSelfTest (s : State) (failed : List Nat) : State :=
  let m := (List.range 8).foldl (fun a n => if failed.contains n then a + 2 ^ n else a) 0
  let s := setN s Key.cvuFailedMc m
  if m = 0 then s else raise s Key.cvuFlags 1

/-- Whether a core's units all pass, so that it may become active (R537): 0 MC-A, 1 MC-B. -/
def mayBeActive (s : State) (c : Nat) : Bool := bits (getN s Key.cvuFailedMc) (4 * c + 3) (4 * c) == 0

/-- The core that becomes active: the one the last journal record names where both may, else the one that may. -/
def chooseActive (s : State) : Option Nat :=
  let a := s.mgmt.mcaRuns && mayBeActive s 0
  let b := s.mgmt.mcbRuns && mayBeActive s 1
  let last := match s.log.journal with
    | r :: _ => r.writer
    | [] => 0
  if a && b then some (last % 2) else if a then some 0 else if b then some 1 else none

/-- The logbook read (R476, R498, R511): a journal that is not valid, and a signature state that is not (R524). -/
def readLogbook (s : State) (ok : Bool) : State :=
  let s := loadMap { s with log := { s.log with failed := !ok } }
  let s := setN s Key.beatNumber (journalBeat s)
  if ok then s
  else
    let s := logEvent (raise s Key.recoveryFlags 0) 0xF [0]
    raise (setN s Key.identityState 2) Key.securityFlags 5

/-- Whether a cold start is a full start (R474). -/
def fullStart (s : State) : Bool :=
  s.mgmt.startKind == 0 && (getN s Key.startMode == 1 || !s.log.stackMapsValid || getN s Key.bringupCount == 0)

/-- The epoch and the start journalled (R360, R473, R495). -/
def openEpoch (s : State) : State :=
  let e := (s.log.epoch + 1) % 2 ^ 32
  let s := setN { s with log := { s.log with epoch := e } } Key.epoch e
  let s := journal s 8 (leBytes 4 e ++ leBytes 4 0)
  let s := addN s Key.bringupCount 32 1
  let k := getN s Key.lastStartKind
  logEvent (journal s 9 (leBytes 1 k ++ leBytes 1 (getN s Key.activeCore) ++ leBytes 2 0 ++ leBytes 4 (getN s Key.bringupCount))) 0xD [k]

/-- Unit 3 of both management cores set for the heartbeats: CRC-16/CCITT with FOLD_MILEPOST (R536). -/
def heartbeatUnits (s : State) : State :=
  [CvuId.mc 0 3, CvuId.mc 1 3].foldl (fun s u => setCvu s u { Cvu.default with config := 0x13 }) s

/-- The endpoint trained, or going on training; on a warm start its link is kept (R451, R476). -/
def trainEndpoint (s : State) (env : MgmtEnv) : State :=
  if s.mgmt.startKind = 1 ∧ s.host.linkUp then s
  else if env.pcieTrained then
    setN { s with host := { s.host with linkUp := true } } Key.linkStatus (linkWord env.width env.rate)
  else s

/-- The address and the port that come into force (R378, R432). -/
def takeAddress (s : State) : State :=
  { s with mgmt := { s.mgmt with address := getN s Key.engineAddress, udpPort := getN s Key.parealoUdpPort } }

/-- Phase 1 where an active core runs. -/
def manage (s : State) (env : MgmtEnv) (active bank : Nat) : State :=
  let last := beatNow s
  let full := fullStart s
  let s := setN (setN s Key.activeCore active) Key.lastStartKind (s.mgmt.startKind + 4 * b2n full)
  let s := { s with mgmt := { s.mgmt with fullStart := full, awaitStart := false } }
  let s := openEpoch (runBank s 0 bank)
  let s := (interruptedJobs s).foldl (fun s n => endJob s n jobFailed stInterrupted 0 0 []) s
  let s := trainEndpoint { s with power := { s.power with crescents := true } } env
  let s := { s with par := { State.reset.par with isOpen := true } }
  let s := heartbeatUnits (setN (setN s Key.ptpState 1) Key.beatNumber last)
  setN (notePhase s 1) Key.bringupPhase 2

/-- MANAGEMENT (R476): the images verify by the banks and by what each core meets; with no verified image the boot ROMs offer the
firmware-recovery exchange alone (R521), if they can read the secrets. -/
def execManagement (env : MgmtEnv) (s : State) : Host.Outcome State Fault Refusal :=
  if !s.power.input ∨ s.power.resetLow ∨ getN s Key.bringupPhase ≠ 1 ∨ !s.mgmt.awaitStart then .next s
  else
    let bank := chooseBank s 0
    let s := takeAddress (mcSelfTest s env.cvuFailed)
    let s := { s with mgmt := { s.mgmt with mcaRuns := env.mcaOk && bank.isSome, mcbRuns := env.mcbOk && bank.isSome } }
    if !s.mgmt.mcaRuns && !s.mgmt.mcbRuns then
      let s := { s with mgmt := { s.mgmt with awaitStart := false, recovery := env.logbookOk } }
      .next (trainEndpoint s env)
    else
      let s := readLogbook s env.logbookOk
      match chooseActive s with
      | some c => .next (manage s env c (bank.getD 0))
      | none => .next { s with mgmt := { s.mgmt with awaitStart := false } }

/-! ### Phase 2 (R459, R477 to R480; R31, R39 to R41) -/

/-- LOSS_CAUSE of a field-state byte (R37). -/
def lossCause (b : Nat) : Nat := bits b 4 2

/-- Whether a field is not powered (R459). -/
def leftDark (s : State) (m : MapCopy) (f : Nat) : Bool :=
  let b := stGet m.fields f
  lostByte b && ((lossCause b == 2 && !s.grid.released.contains f) || (lossCause b == 4 && fieldUnpowered s f))

/-- The fields powered at this start; none has a map where neither copy is valid. -/
def poweredFields (s : State) : List Nat :=
  match curMap s with
  | some m => (List.range 90).filter (fun f => !leftDark s m f)
  | none => List.range 90

/-- The set point and the clocks, limited by R452. -/
def startClocks (s : State) : State :=
  let cap := clockLimit (getN s Key.vcoreMv)
  let s := setN (setN s Key.refSource 0) Key.refState 0
  applyClock (applyClock (setN s Key.vcoreAppliedMv (getN s Key.vcoreMv)) false (min (getN s Key.clockWestMhz) cap)) true
    (min (getN s Key.clockEastMhz) cap)

/-- The fields powered: each ramps and is then POWERED (R458, R459), but those whose controller fails (R456, R487). -/
def powerFields (s : State) (failed : List Nat) : State :=
  let s := { s with power := { s.power with computeRail := true } }
  (poweredFields s).foldl (fun s f =>
    if failed.contains f then raise (setN s (Key.regState f) 3) Key.powerFlags 1
    else setFieldPower (setN (setFieldPower (setN s (Key.regState f) 1) f 1) (Key.regState f) 2) f 2) s

/-- The fields that the core test tests (R474, R479): released ones, and in a full start every GOOD one. -/
def testedFields (s : State) (m : MapCopy) : List Nat :=
  (poweredFields s).filter (fun f => s.grid.released.contains f || (s.mgmt.fullStart && !lostByte (stGet m.fields f)))

/-- Whether a row of a field has a second defect. -/
def secondDefect (m : MapCopy) (f : Nat) : Bool := (List.range 32).any (fun i => bit (amGet 63 m.rows (f * 32 + i)) 8)

/-- The core at a key of the microcode mismatches. -/
def keyPhys (k : Nat) : PhysId := ⟨k % 330, k / 330⟩

/-- The defective cores found: those that fail the microcode CRC three times, and those that fail the test of a tested field. -/
def foundDefects (s : State) (m : MapCopy) (env : ClocksEnv) : List PhysId :=
  let own := (s.grid.microcode.filter (fun e => e.2 == 3)).map (fun e => keyPhys e.1)
  let micro := (own ++ env.microcodeFails).filter (fun p => (poweredFields s).contains (physField p))
  micro ++ env.testFails.filter (fun p => (testedFields s m).contains (physField p))

/-- The map as a start leaves it (R39, R41): retested fields good unless a row has a second defect, findings recorded with ORIGIN 1, and
fields whose controller fails lost with cause 2. -/
def startMap (s : State) (env : ClocksEnv) (m : MapCopy) : MapCopy :=
  let rel := s.grid.released.filter (fun f => (poweredFields s).contains f)
  let m1 := { m with fields := rel.foldl (fun fs f => stPut fs f 0) m.fields }
  let m2 := (foundDefects s m env).foldl (fun m p => recordDefect (physField p) (p.row % 32) (p.col % 33) 1 m) m1
  let m3 := rel.foldl (fun m f => if secondDefect m f then loseField f 1 m else m) m2
  (env.controllerFails.filter (fun f => (poweredFields s).contains f)).foldl (fun m f => loseField f 2 m) m3

/-- The fields lost at this start. -/
def newLosses (s : State) (old new : MapCopy) : List Nat :=
  (List.range 90).filter (fun f => lostByte (stGet new.fields f) && (!lostByte (stGet old.fields f) || s.grid.released.contains f))

/-- The grid mode fixed, with its objects (R31, R47, R75). -/
def setGrid (s : State) (mode ex : Nat) : State :=
  let n := if mode = 0 then 320 else if mode = 1 then 288 else 0
  let s := setN (setN (setN (setN s Key.gridMode mode) Key.logicalColumns n) Key.logicalCores (n * 288)) Key.excludedFieldColumn ex
  setN s Key.darkBands (darkBandsOf s)

/-- The map applied: findings written in one generation, the mode derived, the rows and fields in force (R40, R41). A
detour first applied here raises neither DETOUR_APPLIED nor SPARE_EXHAUSTED: whether R46 counts it as an event is not said (DESIGN CHOICE,
assumption log 91). -/
def fixGrid (s : State) (env : ClocksEnv) : State :=
  match curMap s with
  | none => setGrid { s with grid := { s.grid with runRows := [], runFields := [] } } 2 0xFF
  | some m =>
    let new := startMap s env m
    let lost := newLosses s m new
    let s := updateMap s (fun _ => new)
    let s := lost.foldl (fun s f => logEvent (raiseNow s Key.gridFlags 2) 3 [f, lossCause (stGet new.fields f)]) s
    let md := gridModeOf new.fields
    let s := { s with grid := { s.grid with runRows := new.rows, runFields := new.fields, released := [], microcode := [] } }
    setGrid s md.1 md.2

/-- The stacks present, in the state that phase 3 shows (R486). -/
def stacksTesting (s : State) : State :=
  (List.range 16).foldl (fun s n => if bit (stackPresent s.variant) n then setN s (Key.msStackState n) 3 else s) s

/-- Steps 4 to 7 of R477: the beat starts, the microcode is verified and delivered, and the grid is fixed. -/
def startGrid (s : State) (env : ClocksEnv) : State :=
  let s := setN (setN s Key.beatNumber ((beatNow s + 1) % 2 ^ 64)) Key.beatSource 2
  let s := writeHeartbeat { s with beat := { s.beat with running := true } } 0 0 0
  match chooseBank s 1 with
  | none => raise s Key.securityFlags 0
  | some b =>
    let s := fixGrid (runBank s 1 b) env
    setN (stacksTesting (notePhase s 2)) Key.bringupPhase 3

/-- CLOCKS_NETWORK (R477): a phase that lacks a verified image stops (R521). -/
def execClocksNetwork (env : ClocksEnv) (s : State) : Host.Outcome State Fault Refusal :=
  if getN s Key.bringupPhase ≠ 2 ∨ !s.power.input then .next s
  else
    let s := startClocks s
    match chooseBank s 2 with
    | none => .next (raise s Key.securityFlags 0)
    | some b => .next (startGrid (powerFields (runBank s 2 b) env.controllerFails) env)

/-- MICROCODE_MISMATCH (R478): two resends, then the core is recorded as defective when the grid is fixed. -/
def execMicrocodeMismatch (p : PhysId) (s : State) : Host.Outcome State Fault Refusal :=
  let k := p.row * 330 + p.col
  let n := stGet s.grid.microcode k
  if getN s Key.bringupPhase ≠ 2 ∨ 330 ≤ p.col ∨ 288 ≤ p.row ∨ 3 ≤ n then .next s
  else
    let s := { s with grid := { s.grid with microcode := stPut s.grid.microcode k (n + 1) } }
    .next (if n < 2 then addN s Key.microcodeResends 32 1 else s)

/-! ### Phases 3 and 4 (R481, R482) -/

/-- The self-test of the crescent units (R537): units from 8 stream engines, from 40 update units. -/
def crescentSelfTest (s : State) (failed : List Nat) : State :=
  let se := (List.range 32).foldl (fun a n => if failed.contains (8 + n) then a + 2 ^ n else a) 0
  let uu := (List.range 16).foldl (fun a n => if failed.contains (40 + n) then a + 2 ^ n else a) 0
  let s := setN (setN s Key.cvuFailedSe se) Key.cvuFailedUu uu
  if se = 0 ∧ uu = 0 then s else raise s Key.cvuFlags 1

/-- A stack brought up: FAILED, or READY with its remap table from the stack fault map (R297, R481). -/
def bringStack (failed : List Nat) (s : State) (n : Nat) : State :=
  if !bit (stackPresent s.variant) n then s
  else
    let s := setN s (Key.msFramesRetired n) ((s.log.stackMaps.filter (fun r => r.stack == n)).length)
    if failed.contains n then logEvent (raise (setN s (Key.msStackState n) 2) Key.stackFlags 3) 0x11 [n]
    else setN s (Key.msStackState n) 0

/-- The memory test of a full start (R321, R322). -/
def memoryTest (s : State) (env : MemEnv) : State :=
  let s := env.framesRetired.foldl (fun s f => retireFrame s f.1 f.2) s
  let s := setN (setN s Key.testRowsRepaired (env.rowsRepaired % 2 ^ 32)) Key.testFramesRetired (env.framesRetired.length % 2 ^ 32)
  let s := setN (setN s Key.testBeat (beatNow s)) Key.startMode 0
  { s with log := { s.log with stackMapsValid := true } }

/-- The stacks hold zeros on any start but a warm one (R298); their fault maps are those of the logbook. -/
def zeroStacks (s : State) : State :=
  let warm := s.mgmt.startKind = 1
  { s with stk := { s.stk with
    mem := if warm then s.stk.mem else [], poison := if warm then s.stk.poison else [], retired := s.log.stackMaps } }

/-- MEMORIES (R481): training, zeros on any start but a warm one (R298), and the test of a full start. -/
def execMemories (env : MemEnv) (s : State) : Host.Outcome State Fault Refusal :=
  if getN s Key.bringupPhase ≠ 3 ∨ !s.power.crescents then .next s
  else
    match chooseBank s 3 with
    | none => .next (raise s Key.securityFlags 0)
    | some b =>
      let s := crescentSelfTest (runBank s 3 b) env.cvuFailed
      let s := (List.range 16).foldl (bringStack env.trainFails) (zeroStacks s)
      let s := if s.mgmt.fullStart then memoryTest s env else s
      .next (setN (notePhase s 3) Key.bringupPhase 4)

/-- A port's training at its first try; its delay is measured by the training, and free here (R482). -/
def trainFirst (s : State) (p : Nat) : State :=
  let r := drawFree s
  trainPort r.2 p (r.1 % 2 ^ 32) 255

/-- The groups of the placement image that a warm start finds in the stacks by the journal: the pull endpoints serve them before any core
wakes, and in UNFIT mode too (R33, R482). -/
def keptGroups (s : State) : State :=
  match journalledHash s with
  | none => s
  | some h =>
    match (s.images.map (fun e => e.2)).find? (fun p => p.hash == h) with
    | some p => setN (setDom s Key.groupTable p.groups.flatten) Key.groupCount p.groups.length
    | none => s

/-- The pull endpoints open; a warm start serves the groups that the stacks keep (R33, R482). -/
def openPulls (s : State) : State :=
  let s := { s with mgmt := { s.mgmt with pullOpen := true } }
  if s.mgmt.startKind = 1 then keptGroups s else s

/-- The phase that LINKS leads to: in UNFIT mode bring-up ends there (R33, R480). -/
def afterLinks (s : State) : Nat := if getN s Key.gridMode = 2 then 8 else 5

/-- LINKS (R482): the ports that train in time, discovery, and the pull endpoints; in UNFIT mode bring-up ends (R33, R480). -/
def execLinks (epTrained aelifTrained : List Nat) (s : State) : Host.Outcome State Fault Refusal :=
  if getN s Key.bringupPhase ≠ 4 then .next s
  else
    let eps := (List.range 8).filter (fun p => epTrained.contains p && getN s (Key.epEnable p) == 1)
    let s := eps.foldl (fun s p => setN s (Key.epState p) 2) s
    let s := ((List.range 48).filter (fun p => aelifTrained.contains p)).foldl trainFirst s
    let s := refreshDiscovery (beginDiscovery (pumpFlows s))
    let s := openPulls s
    .next (setN (notePhase s 4) Key.bringupPhase (afterLinks s))

/-! ### Phase 5 (R483; R253) -/

/-- The fields that wake (R483): GOOD, powered, and not in the excluded column. -/
def wakingFields (s : State) : List Nat :=
  (List.range 90).filter (fun f =>
    f % 10 != getN s Key.excludedFieldColumn && fieldPower s f == 2 && !lostByte (stGet s.grid.runFields f))

/-- A field wakes from POWERED (R460 steps 1 and 3); a neighbour's current may have deferred it for a free time. -/
def wakeField (s : State) (f : Nat) : State :=
  let s := if wakeDeferred s f then
      let r := drawFree s
      addN (raise r.2 Key.powerFlags 4) (Key.pwrWakeDeferredUs f) 64 (r.1 % (1000 * getN s Key.wakeDeferLimitMs + 1))
    else s
  setFieldPower (setFieldPower s f 3) f 4

/-- Every logical core HALTED and unassigned, its SRAM cleared and its lanes seeded, where its field is awake (R483). -/
def haltCores (s : State) : State :=
  { s with cores := (allCores s).map (fun id =>
      (coreKey id, if fieldPower s (coreField s id) = 4 then
        { Core.default with st := .halted, lanes := seedLanes s id } else Core.default)) }

/-- A group after a warm start: as it was, with its t restored; of another step only its windows and its selectors are kept (R253, R254,
R285). -/
def restoreGroup (same : Bool) (old : GroupSt) (s : State) (d : List Byte) : State :=
  let g := getGroup s (gdGroup d)
  setGroup s (gdGroup d) (if same then { old with t := g.t } else { g with
    openWindow := old.openWindow, due := old.due, sweepConsts := old.sweepConsts, runSel := old.runSel, resSel := old.resSel, oresSel := old.oresSel })

/-- What of a group's update a warm start queues again: the items of a fast group, the passes of a slow one, and the items of its sweep; the
blocks already written are skipped (R238, R253). -/
def redoGroup (s : State) (d : List Byte) : State :=
  let g := getGroup s (gdGroup d)
  let s := match g.sweep with
    | some x => { s with update := { s.update with sweep := s.update.sweep ++ groupItems s d (sweepDue d x.window) true true } }
    | none => s
  if gdSlow d then (match g.passStep with
    | some st => queuePasses s d st g.passes true
    | none => s)
  else if g.queued && !g.writtenThisStep && !heldFor g s.stp.step then queueFast s d s.stp.step true
  else s

/-- The gates encode a final sum again from the sums and residuals that the stacks have kept, and the owners sum again from their inbound
areas (R285). -/
def redoExchange (s : State) (d : List Byte) : State := if (getGroup s (gdGroup d)).final then exchangeGroup s d else s

/-- The groups that a MILESTONE record lists. -/
def recordGroups (r : JRec) : List Nat :=
  (List.range (field r.body 3336 2)).map (fun i => field r.body (3344 + 16 * i) 2)

/-- The FINGERPRINT of the last milestone sent again where its comparison had not completed (R280, R492). -/
def resendFingerprint (s : State) : State :=
  match milestones s with
  | [] => s
  | r :: _ => if compareDone s then s else sendFingerprint s (getN s Key.commitStep) (recordGroups r)

/-- The placement of a warm start applied again, without clearing, and the values restored (R253, R285, R483, R556). -/
def restorePlacement (s : State) (p : Placement) : State :=
  let old := s
  let s := installPlacement s p
  let s := if milestones s = [] then beginJob s else restoreFrom s (milestones s)
  let same := decide (old.stp.step = s.stp.step)
  let s := (groupDescs s).foldl (fun s d => restoreGroup same (amGet GroupSt.default old.update.groups (gdGroup d)) s d) s
  if !same then s
  else
    let s := { s with
      stp := { s.stp with work := old.stp.work, passed := old.stp.passed }
      update := { s.update with order := old.update.order }
      gates := { s.gates with settled := old.gates.settled }
      exch := { s.exch with comparedStep := old.exch.comparedStep, accepted := old.exch.accepted } }
    resendFingerprint ((groupDescs s).foldl redoExchange (refreshUnits ((groupDescs s).foldl redoGroup s)))

/-- The placement image in the stacks that the journal names, if it passes the load checks. -/
def keptPlacement (s : State) : Option Placement :=
  match journalledHash s with
  | none => none
  | some h => ((s.images.map (fun e => e.2)).find? (fun p => p.hash == h)).filter (fun p => (loadFail s p).isNone)

/-- What a start does about the placement (R483): nothing after a cold start, or where the journal names none. -/
def warmPlacement (s : State) : State :=
  if s.mgmt.startKind ≠ 1 ∨ journalledHash s = none then s
  else match keptPlacement s with
    | some p => restorePlacement s p
    | none => setN (setN (setDom s Key.groupTable []) Key.groupCount 0) Key.placementLost 1

/-- COMPUTE (R483). -/
def execCompute (s : State) : Host.Outcome State Fault Refusal :=
  if getN s Key.bringupPhase ≠ 5 then .next s
  else
    let s := haltCores ((wakingFields s).foldl wakeField s)
    let s := warmPlacement s
    let work := if s.placement = none then [] else s.stp.work
    .next (setN (notePhase { s with stp := { s.stp with work := work } } 5) Key.bringupPhase 6)

/-- BRINGUP_RESTART (R480): once, at phase 2, as a quick start; the map written for the loss is applied. -/
def execBringupRestart (field : Nat) (s : State) : Host.Outcome State Fault Refusal :=
  let ph := getN s Key.bringupPhase
  if ph < 3 ∨ 6 < ph ∨ s.mgmt.restarted ∨ s.grid.lostThisStart = 0 ∨ !fieldLostNow s field then .next s
  else
    let r := State.reset
    let s := (List.range 90).foldl (fun s f => setN (setN s (Key.regState f) 0) (Key.pwrFieldPowerState f) 0) s
    let s := setDom (setDom s Key.fieldsParked (fieldMask [])) Key.fieldsDark (fieldMask (List.range 90))
    let grid := { s.grid with lostThisStart := 0, deaths := [], underWay := [], abandoned := [], detouring := false }
    let power := { s.power with fields := [], computeRail := false }
    let s := { s with cores := [], grid := grid, power := power, placement := none, mesh := r.mesh, streams := r.streams }
    .next (setN { s with mgmt := { s.mgmt with restarted := true, fullStart := false } } Key.bringupPhase 2)

/-! ### Failover (R510) -/

/-- FAILOVER (R510): the standby fences the active core off, journals, closes the sessions, and goes on. -/
def execFailover (s : State) : Host.Outcome State Fault Refusal :=
  let new := 1 - getN s Key.activeCore
  if !(s.mgmt.mcaRuns && s.mgmt.mcbRuns) ∨ !mayBeActive s new ∨ getN s Key.bringupPhase < 2 then .next s
  else
    let s := setN s Key.activeCore new
    let s := { s with
      mgmt := { s.mgmt with mcaRuns := new == 0, mcbRuns := new == 1, hbMissed := (0, 0) }
      beat := { s.beat with ptpLocked := false } }
    let s := logEvent (raise (journal s 12 (leBytes 1 new ++ leBytes 7 0)) Key.recoveryFlags 3) 0xB [new]
    let s := (s.par.sessions.map (fun x => x.num)).foldl closeSession (setN s Key.ptpState 1)
    .next (setBar s (fun b => { b with mailboxBusy := false, mailboxRequest := [] }))

/-! ### RUN (R484, R485, R502; R32) -/

/-- RUN_BLOCKERS (R484, R488); 0 in RUN. -/
def runBlockersOf (s : State) : Nat :=
  if inRun s then 0
  else
    let noPlan := getN s Key.podSpare = 1 ∧ getDom s Key.linkPlan = []
    let disc := getN s Key.discoveryState = 2 ∨ (s.aelif.plan ≠ [] ∧ neighboursSettled s = true)
    let period := bit (getN s Key.beatFlags) 4 || bit (stGet s.raised Key.beatFlags) 4
    let parked := (List.range 90).any (fun f => fieldPlaced s f && fieldParked s f)
    b2n (getN s Key.bringupPhase != 6) + 2 * b2n (s.placement.isNone || decide noPlan) + 4 * b2n (!decide disc) +
      8 * b2n (period || (!isTickRoot s && getN s Key.beatSource != 0)) + 16 * b2n parked

/-- Whether the engine may enter RUN: besides R484, no loss that R480 leaves in READY, a logbook that reads (R511), and no handover away
from here (R502); a milestone to be repeated comes first (R498). -/
def mayRun (s : State) : Bool :=
  !inRun s && runBlockersOf s == 0 && s.grid.lostThisStart == 0 && !s.log.failed && s.mgmt.handover == 0 && s.stp.work == []

/-- The powered fields of the excluded column parked with park cause 2 (R32, R459). -/
def parkExcluded (s : State) : State :=
  let ex := getN s Key.excludedFieldColumn
  ((List.range 90).filter (fun f => f % 10 == ex && fieldPower s f == 2)).foldl (fun s f => parkField s f 1) s

/-- The entry into RUN (R485). -/
def enterRun (s : State) : State :=
  let s := if s.mgmt.runEntered then s else parkExcluded (reportTickets s)
  let s := setN { s with mgmt := { s.mgmt with runEntered := true } } Key.bringupPhase 7
  let s := resumeAll { s with streams := { s.streams with stopped := false }, stp := { s.stp with openBeat := beatNow s } }
  recovered (logEvent (journal s 10 []) 0xE [])

/-- The leaving of RUN at step 7 of a handover (R502). -/
def leaveRun (s : State) : State :=
  let s := dropHeld (reportTickets (suspendAll s))
  setN { s with mgmt := { s.mgmt with handover := 3 } } Key.bringupPhase 6

end Sys2Proof.Machine
end

