-- ==== Sys2Proof/Machine/ObjRead.lean ====
section
/-! DEFINITION. The value of an object as a read finds it (17_object_dictionary.md R429 to R433): the stored values, and those that other
state gives: identity, the defect map, the core status table, the queues, the groups, the logs, the slots and the security objects. -/

namespace Sys2Proof.Machine

/-! ### Values that other state gives -/

/-- Field rows in GOOD fields of the running grid whose DEFECT_COL is between two columns (R47). -/
def goodRows (s : State) (lo hi : Nat) : Nat :=
  ((List.range 90).map (fun f =>
    if fieldLostNow s f then 0
    else ((List.range 32).filter (fun i => decide (lo ≤ rowEntry s f i % 64) && decide (rowEntry s f i % 64 ≤ hi))).length)).sum

/-- The records of QUEUE_STATUS of a stream engine (R324). -/
def queueRecords (s : State) (se : Nat) : List Byte :=
  (List.range 32).flatMap (fun n =>
    let q := getQueue s se n
    let left (d : Desc) : Nat := dsRunCount d.bytes - (if dsDir d.bytes = 0 then d.nextRun else d.done.length)
    let out := match q.current with
      | some d => leBytes 2 d.outstanding ++ leBytes 4 (left d)
      | none => leBytes 6 0
    leBytes 1 (b2n q.current.isSome + 2 * b2n q.shadow.isSome + 4 * b2n q.waiting) ++ [q.gen] ++ out ++ leBytes 8 0 ++
      slice q.completion 0 16)

/-- The records of GROUP_STATE (10_update_unit.md, object 8101:00). -/
def groupRecords (s : State) : List Byte :=
  (groupsInOrder s).flatMap (fun d =>
    let g := getGroup s (gdGroup d)
    leBytes 8 g.t ++ leBytes 1 (b2n (groupHeld s d) + 2 * b2n g.ready + 4 * b2n g.writtenThisStep) ++ leBytes 7 0)

/-- The records of TXN_OUTCOMES, newest first (R440). -/
def outcomeRecords (s : State) : List Byte :=
  ((s.log.journal.filter (fun r => r.typ == 6)).take 256).flatMap (fun r => slice r.body 0 24)

/-- The body of DEVICE_CERT and its signature (R524). -/
def certBytes (s : State) : List Byte :=
  let b := slice s.sec.serial 0 16 ++ slice (Config.identityKey s.sec.identitySeed) 0 60 ++ leBytes 1 (getN s Key.siliconStep) ++ leBytes 51 0
  b ++ Config.certSignature b

/-- The derived DOMAIN objects that are brought up to date whole. -/
def derivedDoms (s : State) : List (Nat × List Byte) :=
  [(Key.groupState, groupRecords s), (Key.eventLog, eventRecords s), (Key.txnOutcomes, outcomeRecords s)] ++
    ((List.range 32).filter (fun n => s.streams.queues.any (fun e => e.1 / 32 == n) || amHas s.doms (Key.seQueueStatus n))).map
      (fun n => (Key.seQueueStatus n, queueRecords s n))

/-- The objects that other state gives brought up to date, with their CHANGE (R433; assumption log 40). It stands before every Parealo
operation and every boundary's decisions. -/
def syncDerived (s : State) : State :=
  let s := refreshHeld s
  let s := setN (setN s Key.sparesFree (goodRows s 63 63)) Key.detoursActive (goodRows s 0 31)
  let s := (List.range 16).foldl (fun s n => setN s (Key.uuNumFlags n) (stGet s.update.sticky n)) s
  (derivedDoms s).foldl (fun s e => setDom s e.1 e.2) s

/-! ### Reading -/

/-- The bytes of an identity string (R5). -/
def identityBytes (s : State) (key : Nat) : List Byte :=
  (if key = Key.vendor then [0x49, 0x6B, 0x69, 0x6F, 0x73, 0x74, 0x65, 0x64]
   else if key = Key.part then [0x44, 0x57, 0x2D, 0x31]
   else if key = Key.orderingCode then
     [0x44, 0x57, 0x31, 0x2D, 0x38, 0x34] ++ (if s.variant = .x then [0x58] else [0x4C])
   else s.sec.serial).map (BitVec.setWidth 8)

/-- The status words of a snapshot, four bytes for each logical core (R107). -/
def coreTable (cores : Nat) (snap : Store) : List Byte := (List.range cores).flatMap (fun i => leBytes 4 (stGet snap i))

/-- A slot as BAR2 shows it (R369): header and payload. -/
def slotBytes (s : State) (k : Nat) : List Byte := slice (getSlot s k).header 0 64 ++ slice (getSlot s k).payload 0 payloadSize

/-- The size of the result slots. -/
abbrev slotsTotal : Nat := 268435456

/-- The bytes of a DOMAIN or STR object now; RESULT_SLOTS is read by slot (`slotsSlice`). -/
def readBytes (s : State) (key : Nat) : List Byte :=
  if key = Key.vendor ∨ key = Key.part ∨ key = Key.orderingCode ∨ key = Key.serial then identityBytes s key
  else if key = Key.unpoweredFields then fieldMask s.grid.unpowered
  else if key = Key.rootHashes then s.sec.rootHash.flatMap (fun h => slice h 0 32)
  else if key = Key.devicePublicKey then slice (Config.identityKey s.sec.identitySeed) 0 60
  else if key = Key.deviceCert then certBytes s
  else if key = Key.debugNonce then debugNonce s
  else if key = Key.defectMap then (match curMap s with
    | some m => mapBytes m
    | none => [])
  else if key = Key.coreStatusTable then coreTable (getN s Key.logicalCores) s.snapshot
  else if Key.groupState = key ∨ Key.eventLog = key ∨ Key.txnOutcomes = key ∨ (0x701000 ≤ key ∧ key ≤ 0x702F01 ∧ key % 256 = 1) then
    (match (derivedDoms s).find? (fun e => e.1 == key) with
     | some e => e.2
     | none => queueRecords s (key / 256 - 0x7010))
  else getDom s key

/-- `n` bytes of the result slots from an offset on, read live (R433). -/
def slotsSlice (s : State) (off n : Nat) : List Byte :=
  let n := min n (slotsTotal - off)
  let first := off / 65536
  let count := (off % 65536 + n + 65535) / 65536
  ((((upFrom first count).flatMap (slotBytes s)).drop (off % 65536)).take n)

/-- The map entry of a field row (R38), the field-state byte, and the detour mask as the stored map holds them (R47). What they
read, and SPARES_FREE, while no copy is valid is not said: here 0, and every row's spare free (DESIGN CHOICE, assumption log 91). -/
def mapNumber (s : State) (f sub : Nat) : Nat :=
  match curMap s with
  | none => 0
  | some m =>
    if sub = 0 then stGet m.fields f
    else if sub = 1 then ((List.range 32).map (fun i => if amGet 63 m.rows (f * 32 + i) % 64 ≤ 32 then 2 ^ i else 0)).sum
    else amGet 63 m.rows (f * 32 + (sub - 2))

/-- The value of an object of fixed size as a read finds it. -/
def readN (s : State) (key : Nat) : Nat :=
  let idx := key / 256
  if key = Key.sparesFree then goodRows s 63 63
  else if key = Key.detoursActive then goodRows s 0 31
  else if key = Key.defectMapGeneration then (match curMap s with
    | some m => m.generation
    | none => 0)
  else if 0x6010 ≤ idx ∧ idx ≤ 0x6069 then mapNumber s (idx - 0x6010) (key % 256)
  else if 0x6310 ≤ idx ∧ idx ≤ 0x631F then stGet s.update.sticky (idx - 0x6310)
  else getN s key

/-- The whole value of an object, with zeros for an absent, gated or unstarted unit's (R3, R414). -/
def objValue (s : State) (key : Nat) : List Byte :=
  let dead := unitAbsent s.variant key || unitGated s key || unitUnstarted s key
  match (objRow (key / 256) (key % 256)).bind (fun r => typeSize r.typ) with
  | some n => leBytes n (if dead then 0 else readN s key)
  | none =>
    if key = Key.resultSlots then []
    else
      let b := readBytes s key
      if dead then b.map (fun _ => 0) else b

/-- The CHANGE of an object (R433). -/
def changeOf (s : State) (key : Nat) : Nat := amGet 0 s.changes key

/-- The version of a DOMAIN that a CHANGE names: the current one, or one superseded and still held (R433). -/
def versionBytes (s : State) (key change : Nat) : Option (List Byte) :=
  if change = changeOf s key then some (objValue s key)
  else (s.par.old.find? (fun v => v.key == key && v.change == change)).map (fun v => v.bytes)

/-- The qualifying bits of a read (R428): gated or not yet started, and absent. -/
def readBits (s : State) (key : Nat) : Nat :=
  if unitAbsent s.variant key then 0x200 else if unitGated s key || unitUnstarted s key then 0x100 else 0

end Sys2Proof.Machine
end

