-- ==== Sys2Proof/Machine/ObjApply.lean ====
section
/-! DEFINITION. What a committed write of any object does, and the checks of its chapter that depend on state or on other values
(17_object_dictionary.md R434, R437, R557). The objects with a row of their own share that row's check and effect. -/

namespace Sys2Proof.Machine

/-- A check that depends on state, and the effect of a committed write, over the bytes written. -/
abbrev ObjCheck := State → List Byte → Nat
abbrev ObjEffect := State → List Byte → State

/-- The check and effect of an object of fixed size, over its number. -/
def numPair (c : State → Nat → Nat) (e : State → Nat → State) : ObjCheck × ObjEffect :=
  (fun s b => c s (leNat b), fun s b => e s (leNat b))

/-- A stored number, with a check of its own. -/
def numStore (key : Nat) (c : State → Nat → Nat) : ObjCheck × ObjEffect := numPair c (fun s v => setN s key v)

/-- A stored DOMAIN, with a check of its own. -/
def domStore (key : Nat) (c : State → List Byte → Nat) : ObjCheck × ObjEffect := (c, fun s b => setDom s key b)

/-- A Bool as OK or BAD_VALUE. -/
def okIf (b : Bool) : Nat := if b then stOk else stBadValue

/-- THROTTLE_C lies below PARK_C, and UNPARK_C at least 2 below it (R465), in the values that the commit leaves. -/
def heatLimitsFit (s : State) (_ : Nat) : Nat :=
  okIf (decide (getN s Key.throttleC < getN s Key.parkC) && decide (getN s Key.unparkC + 2 ≤ getN s Key.parkC))

/-- A gateway changed: its link address is not resolved yet, and is asked for where the port is UP (R352). -/
def gatewayEffect (p : Nat) (s : State) (b : List Byte) : State :=
  if getDom s (Key.epGateway p) = b then s
  else
    let s := setDom { s with eth := { s.eth with resolved := amDel s.eth.resolved p } } (Key.epGateway p) b
    if epSt s p = 2 then solicitGateway s p else s

/-- The check and effect of a write whose object has a row of its own or a check of its chapter. -/
def ownPair (key : Nat) : Option (ObjCheck × ObjEffect) :=
  let idx := key / 256
  let sub := key % 256
  if key = Key.linkPlan then some (planCheck, planEffect)
  else if 0x4000 ≤ idx ∧ idx ≤ 0x402F ∧ sub = 0x10 then some (numPair noCheck (portEnableEffect (idx - 0x4000)))
  else if key = Key.substituteTable then some (noCheck, fun s b => releaseHeld (setDom s key b))
  else if key = Key.beatPeriodUs then some (numPair periodCheck periodEffect)
  else if key = Key.hostLeaseBeats then some (numPair noCheck leaseBeatsEffect)
  else if key = Key.hostLease then some (numPair noCheck leaseEffect)
  else if 0x3010 ≤ idx ∧ idx ≤ 0x3017 then some (numPair (sscCheck (idx - 0x3010)) (sscEffect (idx - 0x3010) (sub == 1)))
  else if 0x3020 ≤ idx ∧ idx ≤ 0x3021 then some (numPair (clkoutCheck (idx - 0x3020) sub) (clkoutEffect (idx - 0x3020) sub))
  else if idx = 0x3030 then some (numPair (enableCheck sub) (enableEffect sub))
  else if key = Key.resetRequest then some (numPair noCheck resetEffect)
  else if 0x4410 ≤ idx ∧ idx ≤ 0x4417 ∧ sub = 7 then some (numPair noCheck (epEnableEffect (idx - 0x4410)))
  else if 0x4410 ≤ idx ∧ idx ≤ 0x4417 ∧ sub = 1 then some (noCheck, gatewayEffect (idx - 0x4410))
  else if key = Key.excuse then some (numPair noCheck excuseEffect)
  else if key = Key.override then some (numPair noCheck overrideEffect)
  else if key = Key.setCompression then some (numPair compressionCheck compressionEffect)
  else if key = Key.markCoreDefective then some (numPair markCheck markEffect)
  else if key = Key.releaseFieldLoss then some (numPair releaseCheck releaseEffect)
  else if key = Key.excludeField then some (numPair excludeCheck excludeEffect)
  else if 0x1200 ≤ idx ∧ idx ≤ 0x1204 ∧ sub = 1 then some (numPair (commandCheck (idx - 0x1200)) (commandEffect (idx - 0x1200)))
  else if 0x1200 ≤ idx ∧ idx ≤ 0x1204 ∧ sub = 2 then some (domStore key (paramsCheck (idx - 0x1200)))
  else if key = Key.switch then some (numPair switchCheck switchEffect)
  else if key = Key.resume then some (numPair resumeCheck resumeEffect)
  else if key = Key.replayStep then some (numPair noCheck replayEffect)
  else if key = Key.peerSubstitute then some (substituteCheck, substituteEffect)
  else none

/-- The same for power, security, streams and the others. -/
def ownPair2 (key : Nat) : Option (ObjCheck × ObjEffect) :=
  let idx := key / 256
  let sub := key % 256
  if key = Key.parkRequest then some (numPair parkCheck parkEffect)
  else if key = Key.wakeRequest then some (numPair wakeCheck wakeEffect)
  else if key = Key.vcoreMv then some (numPair vcoreCheck vcoreEffect)
  else if key = Key.clockWestMhz then some (numPair (clockCheck false) (clockEffect false))
  else if key = Key.clockEastMhz then some (numPair (clockCheck true) (clockEffect true))
  else if key = Key.throttleC ∨ key = Key.parkC ∨ key = Key.unparkC then some (numStore key heatLimitsFit)
  else if key = Key.refPriority then some (noCheck, fun s b => selectRef (setDom s key b))
  else if key = Key.fwStageRequest then some (stageCheck, stageEffect)
  else if key = Key.rollbackAdvance then some (numPair advanceCheck advanceEffect)
  else if key = Key.quoteNonce then some (fun s b => quoteCheck (quoteSince s) s b, quoteEffect)
  else if 0xA04000 ≤ key ∧ key ≤ 0xA04003 then some (secretCheck (key - 0xA04000), secretEffect (key - 0xA04000))
  else if key = Key.debugToken then some (tokenCheck, tokenEffect)
  else if 0x7010 ≤ idx ∧ idx ≤ 0x702F ∧ sub = 7 then some (armCheck (idx - 0x7010), fun s b => armDesc s (idx - 0x7010) b)
  else if 0x7010 ≤ idx ∧ idx ≤ 0x702F ∧ sub = 8 then some (numPair noCheck (cancelEffect (idx - 0x7010)))
  else if key = Key.resultRelease then some (numPair noCheck releaseSlot)
  else none

/-- The check and effect of a committed write of any object. -/
def objPair (key : Nat) : ObjCheck × ObjEffect :=
  match ownPair key, ownPair2 key with
  | some p, _ => p
  | none, some p => p
  | none, none =>
    match objKind key with
    | .w1c _ => numPair noCheck (fun s v => clearFlags s key v)
    | .emptier => numPair noCheck (fun s v => writeEmpty s key v)
    | .hiWater => numPair noCheck (fun s v => resetHighWater s key v)
    | .plain =>
      match (objRow (key / 256) (key % 256)).bind (fun r => typeSize r.typ) with
      | some _ => numStore key noCheck
      | none => domStore key noCheck

/-- Whether a write leaves its value in the object, so that the checks of a commit see it (R437 step 3). -/
def storesValue (key : Nat) : Bool :=
  match objRow (key / 256) (key % 256) with
  | some r => r.acc == 4 && r.kind == .plain
  | none => false

/-- The values that a commit leaves, as its checks of several values see them. -/
def previewWrites (s : State) (ws : List Staged) : State :=
  ws.foldl (fun t w =>
    if !storesValue w.key then t
    else match (objRow (w.key / 256) (w.key % 256)).bind (fun r => typeSize r.typ) with
      | some _ => setN t w.key (leNat w.bytes)
      | none => setDom t w.key w.bytes) s

/-- The status of one write of a commit: the checks of R557 in their order, those of its chapter over the values that the commit
leaves. -/
def decideWrite (s prev : State) (role : Role) (inTxn : Bool) (w : Staged) : Nat :=
  let st := writeStatus s role inTxn w.key w.bytes
  if st ≠ stOk then st else (objPair w.key).1 prev w.bytes

/-- A committed write applied. -/
def applyWrite (s : State) (w : Staged) : State := (objPair w.key).2 s w.bytes

/-- A decided write of a debug token changes the nonce (R528). -/
def countTokens (s : State) (ws : List Staged) : State :=
  (ws.filter (fun w => w.key == Key.debugToken)).foldl (fun s _ => tokenWritten s) s

/-- The first failing write of a commit, with its ordinal from 1. -/
def firstFailure (s prev : State) (role : Role) (inTxn : Bool) : Nat → List Staged → Option (Nat × Nat × Nat)
  | _, [] => none
  | n, w :: ws =>
    let st := decideWrite s prev role inTxn w
    if st = stOk then firstFailure s prev role inTxn (n + 1) ws else some (st, w.key, n)

/-- Whether a write acts on what other writes of its transaction leave: a COMMAND, judged after its PARAMETERS are applied (R443), and a
CANCEL, which an ARM of the same transaction comes before (R320). -/
def actsLast (w : Staged) : Bool :=
  let idx := w.key / 256
  (decide (0x1200 ≤ idx) && decide (idx ≤ 0x1204) && w.key % 256 == 1) || (decide (0x7010 ≤ idx) && decide (idx ≤ 0x702F) && w.key % 256 == 8)

/-- The writes of a transaction in the order in which they are applied: staging order, but for those that act on the others. -/
def applyOrder (ws : List Staged) : List Staged := ws.filter (fun w => !actsLast w) ++ ws.filter actsLast

/-- The writes of a transaction or a direct write decided: applied all at once in staging order, or none of them (R437). -/
def decideWrites (s : State) (role : Role) (inTxn : Bool) (ws : List Staged) : State × Option (Nat × Nat × Nat) :=
  match firstFailure s (previewWrites s ws) role inTxn 1 ws with
  | some f => (countTokens s ws, some f)
  | none => (countTokens ((applyOrder ws).foldl applyWrite s) ws, none)

/-- The objects that a chapter binds to a staged write: the generation of the defect map (R48). -/
def boundTo (key : Nat) : List Nat :=
  if key = Key.markCoreDefective ∨ key = Key.releaseFieldLoss ∨ key = Key.excludeField then [key, Key.defectMapGeneration] else [key]

/-- The first object of a transaction's conflict set that has changed since its BEGIN, with the ordinal of the staged write that it
belongs to, 0 for an object that was watched (R438). -/
def conflictOf (s : State) (t : Txn) : Option (Nat × Nat) :=
  let staged := (List.range t.staged.length).flatMap (fun i => match t.staged[i]? with
    | some w => (boundTo w.key).map (fun k => (k, i + 1))
    | none => [])
  (staged ++ t.watched.map (fun k => (k, 0))).find? (fun e => decide (t.change < changeOf s e.1))

end Sys2Proof.Machine
end

