-- ==== Sys2Proof/Machine/Parealo.lean ====
section
/-! DEFINITION. Parealo (17_object_dictionary.md R418 to R440): the mailbox doorbell, the judging of frames, sessions, and the operations of a
REQUEST. A row executes one operation: the first brings its frame in, and the last that can be answered sends the RESPONSE. -/

namespace Sys2Proof.Machine

/-! ### The mailbox (R418) -/

/-- Whether the endpoint takes frames: BAR0 answers, or the boot ROM's exchange is offered over a trained link (R521). -/
def mailboxLive (s : State) : Bool := barLive s || (s.host.linkUp && s.mgmt.recovery)

/-- MAILBOX_DOORBELL (R418): BUSY is set and the frame taken, the bytes that the host has put into MAILBOX_REQUEST with it, or, given none,
those that stand there; a doorbell written while BUSY is set is ignored and counted. -/
def execMailboxDoorbell (length : W32) (frame : List Byte) (s : State) : Host.Outcome State Fault Refusal :=
  let n := length.toNat
  .next (if !mailboxLive s || n == 0 || decide (4096 < n) then s
    else if s.host.bar.mailboxBusy then addN s Key.doorbellsIgnored 32 1
    else setBar s (fun b => { b with mailboxBusy := true, mailboxReady := false, mailboxRequest := slice (if frame.isEmpty then b.mailboxRequest else frame) 0 n }))

/-! ### Judging a frame (R418 to R422, R526) -/

/-- Whether a frame reaches the engine at all: Parealo is open or the boot ROM's exchange is offered, the module is provisioned, and the
path is the mailbox with BUSY set, or PAREALO_UDP_PORT on the active core's port. -/
def pathOpen (s : State) (p : Path) (u : UdpEnds) : Bool :=
  (s.par.isOpen || s.mgmt.recovery) && s.sec.provisioned &&
    (match p with
     | .mailbox => s.host.bar.mailboxBusy
     | .mgmtA => getN s Key.activeCore == 0 && u.destPort == s.mgmt.udpPort
     | .mgmtB => getN s Key.activeCore == 1 && u.destPort == s.mgmt.udpPort)

/-- Whether a frame breaks the form of R419: a reserved value, its length, a field that is 0 in its kind, the engine's address, or a kind
that only the engine sends. -/
def frameBad (s : State) (f : PFrame) : Bool :=
  f.reserved || !f.lengthOk || f.engine != s.mgmt.address || decide (3 < f.role) || decide (4096 < (requestBytes f).length + 16) ||
    (match f.kind with
     | 1 => f.ops.isEmpty || decide (64 < f.ops.length) || f.frameSeq == 0
     | 3 => !f.ops.isEmpty || f.nonce.length != 16 || f.session != 0 || f.epoch != 0 || f.frameSeq != 0
     | 5 => !f.ops.isEmpty || f.frameSeq != 0
     | _ => true) ||
    (s.mgmt.recovery && decide (f.role < 2))

/-- Whether a frame's MAC holds; a role whose secret is all zeros accepts none (R420, R526). -/
def macOk (s : State) (f : PFrame) : Bool :=
  decide (leNat (secretOf s f.role) ≠ 0) && f.mac == macOf (secretOf s f.role) (requestBytes f)

/-- A frame discarded and counted by its cause (R421). -/
def discard (s : State) (f : PFrame) (cause : Nat) : State := dropFrame (count64 s cause) f.path

/-- The verdict on a frame before its session's sequence is judged. -/
inductive FrameVerdict where
  | ignored
  | discarded (s : State)
  | opens
  | of (x : Session)
  deriving DecidableEq, Repr

/-- R421: the cases in which a frame is discarded, each counted once. A mailbox frame is the one that the doorbell gave. -/
def judgeFrame (s : State) (f : PFrame) : FrameVerdict :=
  if !pathOpen s f.path f.udp then .ignored
  else if frameBad s f then .discarded (discard s f Key.framesRejectedOther)
  else if f.path = .mailbox ∧ s.host.bar.mailboxRequest ≠ requestBytes f ++ f.mac then .ignored
  else if !macOk s f then .discarded (raise (discard s f Key.framesRejectedMac) Key.parealoFlags 0)
  else if f.kind = 3 then .opens
  else
    match findSession s f.session f.role f.path with
    | some x => if f.epoch = s.log.epoch then .of x else .discarded (discard s f Key.framesRejectedSession)
    | none => .discarded (discard s f Key.framesRejectedSession)

/-- The role of a code. -/
def roleOf : Nat → Role
  | 0 => .observer
  | 1 => .operator
  | 2 => .owner
  | _ => .service

/-- OPEN (R423): a new session, or SESSION_LIMIT. -/
def openSession (s : State) (f : PFrame) : State :=
  let body (st : Nat) := slice f.nonce 0 16 ++ leBytes 2 st ++ leBytes 6 0
  if 32 ≤ s.par.sessions.length then sendReply s f.path f.udp (replyBytes s 4 f.role 0 0 0 (body stSessionLimit))
  else
    let n := s.par.nextSession
    let s := { s with par := { s.par with sessions := s.par.sessions ++ [⟨n, roleOf f.role, f.path, 0, [], []⟩], nextSession := n + 1 } }
    sendReply (refreshPar s) f.path f.udp (replyBytes s 4 f.role 0 n 0 (body stOk))

/-- OPEN (R423). -/
def execParealoOpen (f : PFrame) (s : State) : Host.Outcome State Fault Refusal :=
  .next (match judgeFrame s f with
    | .ignored => s
    | .discarded t => t
    | .opens => openSession s f
    | .of _ => s)

/-- CLOSE (R423): the session closes and CLOSE_ACK answers. -/
def execParealoClose (f : PFrame) (s : State) : Host.Outcome State Fault Refusal :=
  .next (match judgeFrame s f with
    | .ignored => s
    | .discarded t => t
    | .opens => s
    | .of x =>
      if f.kind = 5 then sendReply (closeSession s x.num) f.path f.udp (replyBytes s 6 f.role 0 x.num 0 []) else s)

/-! ### The frame in execution (R422, R426) -/

/-- The bytes of a response operation (R426). -/
def respOp (op typ idx sub acc status total change : Nat) (data : List Byte) : List Byte :=
  leBytes 1 op ++ leBytes 1 typ ++ leBytes 2 idx ++ leBytes 1 sub ++ leBytes 1 acc ++ leBytes 2 data.length ++ leBytes 2 status ++
    leBytes 2 0 ++ leBytes 4 total ++ leBytes 8 change ++ padTo 8 data

/-- The size of an object's value. -/
def objTotal (s : State) (key : Nat) : Nat := if key = Key.resultSlots then slotsTotal else (objValue s key).length

/-- A response operation about an object. -/
def objResp (s : State) (op key status total : Nat) (data : List Byte) : List Byte :=
  match objRow (key / 256) (key % 256) with
  | some r => respOp op r.typ (key / 256) (key % 256) r.acc status total (changeOf s key) data
  | none => respOp op 0 (key / 256) (key % 256) 0 status 0 0 data

/-- The response to a COMMIT: the beat that the boundary opened, the first object that failed and its ordinal (R427). -/
def commitResp (s : State) (status key ordinal : Nat) : List Byte :=
  respOp 4 0 0 0 0 status 0 0 (leBytes 8 (beatNow s) ++ leBytes 2 (key / 256) ++ leBytes 1 (key % 256) ++ leBytes 1 0 ++ leBytes 4 ordinal)

/-- The bytes of an operation's response, as far as they are known before it is executed; a DOMAIN's data can always be cut. -/
def respSize (s : State) : POp → Nat
  | .read idx sub _ _ _ _ _ =>
    (match objRow idx sub with
     | some r => if r.typ = 12 then 24 else 24 + (padTo 8 (objValue s (idx * 256 + sub))).length
     | none => 24)
  | .write _ _ _ _ _ => 24
  | .begin_ => 32
  | .commit _ => 40
  | .rollback _ => 24
  | .describe _ _ => 40

/-- The bytes of a frame's responses so far. -/
def respUsed (o : OpenFrame) (ops : List POp) : Nat :=
  48 + ((List.range o.resp.length).map (fun i => match o.resp.getD i none, ops[i]? with
    | some b, _ => b.length
    | none, some (.commit _) => 40
    | none, _ => 24)).sum

/-- The bytes that responses of the operations to come take, as many as fit one after the other. -/
def prefixFits : Nat → List Nat → Nat
  | _, [] => 0
  | room, n :: ns => if n ≤ room then n + prefixFits (room - n) ns else 0

/-- The data bytes that a DOMAIN read may carry, so that no later operation is left out (R426). -/
def domainRoom (s : State) (o : OpenFrame) (ops : List POp) (k : Nat) : Nat :=
  let room := 4096 - (respUsed o ops + 24)
  (room - prefixFits room ((ops.drop (k + 1)).map (respSize s))) / 8 * 8

/-- The transaction that an operation names: none for 0, its record, or the status that refuses it (R557 check 1). -/
def namedTxn (s : State) (x : Session) (o : OpenFrame) (txn : Nat) : Sum Nat (Option Txn) :=
  if txn = 0 then .inr none
  else
    let h := if txn = 0xFFFFFFFF then o.txn else txn
    match s.par.txns.find? (fun t => t.handle == h && t.session == x.num && !t.committing) with
    | some t => .inr (some t)
    | none => .inl (if s.par.expired.contains (h, x.num) then stExpired else stNoTransaction)

/-- A transaction changed. -/
def setTxn (s : State) (t : Txn) : State :=
  { s with par := { s.par with txns := s.par.txns.map (fun y => if y.handle == t.handle then t else y) } }

/-- Whether the boot ROM's exchange serves an object's read (R521). -/
def recoveryReads (key : Nat) : Bool :=
  (decide (0x1000 ≤ key / 256) && decide (key / 256 ≤ 0x10FF)) || (decide (0xA000 ≤ key / 256) && decide (key / 256 ≤ 0xA02F))

/-! ### READ and DESCRIBE (R425, R427, R433) -/

/-- A DOMAIN segment: status, total and bytes (R433). -/
def readDomain (s : State) (key length offset change room : Nat) : Nat × Nat × List Byte :=
  let live := key == Key.resultSlots
  if offset = 0 ∧ change ≠ 0 then (stBadValue, objTotal s key, [])
  else
    match if offset = 0 ∨ live then some (objValue s key) else versionBytes s key change with
    | none => (stStale, objTotal s key, [])
    | some b =>
      let total := if live then slotsTotal else b.length
      if offset ≠ 0 ∧ total ≤ offset then (stBadRange, total, [])
      else
        let n := min (total - offset) (if length = 0 then room else min length room)
        let data := if live then slotsSlice s offset n else (b.drop offset).take n
        (if offset + n < total then 0x800 else stOk, total, data)

/-- A READ executed. -/
def opRead (s : State) (x : Session) (o : OpenFrame) (idx sub txn : Nat) (watch : Bool) (length offset change room : Nat) :
    State × Option (List Byte) :=
  let key := idx * 256 + sub
  match namedTxn s x o txn with
  | .inl st => (s, some (objResp s 1 key st (objTotal s key) []))
  | .inr t =>
    match objRow idx sub with
    | none => (s, some (objResp s 1 key stNoObject 0 []))
    | some r =>
      if s.mgmt.recovery && !recoveryReads key then (s, some (respOp 1 0 idx sub 0 stNoObject 0 0 []))
      else if r.acc = 3 then (s, some (objResp s 1 key stWriteOnly (objTotal s key) []))
      else
        let staged := (t.map (fun t => t.staged.any (fun w => w.key == key))).getD false
        let bits := readBits s key + 0x400 * b2n staged
        let s' := match t with
          | some t => if watch && !t.watched.contains key then setTxn s { t with watched := t.watched ++ [key] } else s
          | none => s
        if r.typ = 12 then
          let d := readDomain s key length offset change room
          if d.1 % 256 = stOk then (s', some (objResp s 1 key (d.1 + bits) d.2.1 d.2.2)) else (s, some (objResp s 1 key d.1 d.2.1 []))
        else if length ≠ 0 ∨ offset ≠ 0 ∨ change ≠ 0 then (s, some (objResp s 1 key stBadValue (objTotal s key) []))
        else (s', some (objResp s 1 key bits (objTotal s key) (objValue s key)))

/-- A DESCRIBE executed (R427). -/
def opDescribe (s : State) (idx sub : Nat) : State × Option (List Byte) :=
  let key := idx * 256 + sub
  match objRow idx sub with
  | none => (s, some (objResp s 6 key stNoObject 0 []))
  | some r =>
    if s.mgmt.recovery then (s, some (respOp 6 0 idx sub 0 stNoObject 0 0 []))
    else
      let dflt := match typeSize r.typ with
        | some _ => objDefault s.variant key
        | none => 0
      let data := leBytes 1 (if r.acc = 3 then 0 else 15) ++ leBytes 1 (if r.acc ≤ 1 then 0 else r.writers) ++ leBytes 6 0 ++ leBytes 8 dflt
      (s, some (objResp s 6 key stOk (objTotal s key) data))

/-! ### BEGIN, COMMIT and ROLLBACK (R436, R437, R439) -/

/-- A BEGIN executed. -/
def opBegin (s : State) (x : Session) (o : OpenFrame) : State × Option (List Byte) × OpenFrame :=
  let refuse (st : Nat) := (s, some (respOp 3 0 0 0 0 st 0 0 []), o)
  if s.mgmt.recovery then refuse stWrongState
  else if s.par.txns.any (fun t => t.session == x.num) ∨ 64 ≤ s.par.txns.length then refuse stTxnLimit
  else if x.role = .observer then refuse stRoleDenied
  else
    let h := s.par.nextHandle
    let s := journalOpen s (leBytes 4 h ++ leBytes 4 x.num)
    let t : Txn := ⟨h, x.num, x.role, s.change, 0, [], [], false⟩
    let s := { s with par := { s.par with txns := s.par.txns ++ [t], nextHandle := h + 1 } }
    (refreshPar s, some (respOp 3 0 0 0 0 stOk 0 0 (leBytes 4 h)), { o with txn := h })

/-- Something waits for the boundary, in order of arrival (R437). -/
def addDue (s : State) (d : Due) : State := { s with par := { s.par with due := s.par.due ++ [d] } }

/-- A COMMIT executed: it waits for its boundary. -/
def opCommit (s : State) (x : Session) (o : OpenFrame) (k txn : Nat) : State × Option (List Byte) :=
  if s.mgmt.recovery then (s, some (commitResp s stWrongState 0 0))
  else
    match namedTxn s x o txn with
    | .inl st => (s, some (commitResp s st 0 0))
    | .inr none => (s, some (commitResp s stNoTransaction 0 0))
    | .inr (some t) => (addDue (setTxn s { t with committing := true }) (.commit t.handle x.num o.seq k), none)

/-- A ROLLBACK executed (R439). -/
def opRollback (s : State) (x : Session) (o : OpenFrame) (txn : Nat) : State × Option (List Byte) :=
  let answer (s : State) (st : Nat) := (s, some (respOp 5 0 0 0 0 st 0 0 []))
  if s.mgmt.recovery then answer s stWrongState
  else
    match namedTxn s x o txn with
    | .inl st => answer s st
    | .inr none => answer s stNoTransaction
    | .inr (some t) => answer (refreshPar (rollbackTxn s t.handle)) stOk

/-! ### WRITE (R434, R436) -/

/-- The DOMAIN bytes that a transaction has staged. -/
def stagedBytes (ws : List Staged) : Nat :=
  ((ws.filter (fun w => match objRow (w.key / 256) (w.key % 256) with
    | some r => r.typ == 12
    | none => false)).map (fun w => w.bytes.length)).sum

/-- The value staged after a segment: a segment at OFFSET 0 begins a new one. -/
def stagedValue (t : Txn) (key offset : Nat) (data : List Byte) : List Byte :=
  if offset = 0 then data else ((t.staged.find? (fun w => w.key == key)).map (fun w => w.bytes)).getD [] ++ data

/-- The staged writes with one more; a second write of an object takes the first one's place. -/
def stage (t : Txn) (w : Staged) : List Staged :=
  if t.staged.any (fun v => v.key == w.key) then t.staged.map (fun v => if v.key == w.key then w else v) else t.staged ++ [w]

/-- Whether staging would pass a limit of R436. -/
def pastLimits (s : State) (t : Txn) (ws : List Staged) : Bool :=
  decide (256 < ws.length) || decide (4194304 < stagedBytes ws) ||
    decide (16777216 < ((s.par.txns.filter (fun u => u.handle != t.handle)).map (fun u => stagedBytes u.staged)).sum + stagedBytes ws)

/-- The status of a staged write, checked at once (R436, R557). Of a DOMAIN staged in segments the range of what is there is checked; its least
length is judged once it is whole, at the commit. -/
def stageStatus (s : State) (role : Role) (t : Txn) (key offset : Nat) (data : List Byte) : Nat :=
  let v := stagedValue t key offset data
  if pastLimits s t (stage t ⟨key, v⟩) then stTxnLimit
  else
    let a := accessStatus s role true key
    if a ≠ stOk then a
    else
      match objRow (key / 256) (key % 256) with
      | none => stNoObject
      | some r =>
        match typeSize r.typ with
        | some n => if data.length ≠ n then stBadType else if offset ≠ 0 ∨ !r.rng.ok (leNat data) then stBadValue else stOk
        | none =>
          if offset ≠ 0 ∧ v.length ≠ offset + data.length then stBadRange
          else if r.rng.okPart v then stOk else stBadValue

/-- The status of a direct write as it arrives (R434, R557). -/
def directStatus (s : State) (role : Role) (key offset : Nat) (data : List Byte) : Nat :=
  let a := accessStatus s role false key
  if a ≠ stOk then a
  else
    match (objRow (key / 256) (key % 256)).bind (fun r => typeSize r.typ) with
    | some n => if data.length ≠ n then stBadType else if offset ≠ 0 then stBadValue else writeStatus s role false key data
    | none => if offset ≠ 0 then stBadRange else writeStatus s role false key data

/-- A WRITE in the boot ROM's exchange takes effect at once (R521). -/
def recoveryWrite (s : State) (x : Session) (key offset : Nat) (data : List Byte) : State × Option (List Byte) :=
  let answer (s : State) (st : Nat) := (s, some (objResp s 2 key st (objTotal s key) []))
  if key ≠ Key.fwStageRequest ∧ key ≠ Key.resetRequest then (s, some (respOp 2 0 (key / 256) (key % 256) 0 stNoObject 0 0 []))
  else if x.role ≠ .owner then answer s stRoleDenied
  else
    let st := directStatus s x.role key offset data
    if st ≠ stOk then answer s st
    else
      let r := decideWrites s x.role false [⟨key, data⟩]
      answer r.1 ((r.2.map (fun f => f.1)).getD stOk)

/-- A WRITE executed: staged, or waiting for the boundary as a direct write. -/
def opWrite (s : State) (x : Session) (o : OpenFrame) (k idx sub txn offset : Nat) (data : List Byte) : State × Option (List Byte) :=
  let key := idx * 256 + sub
  let answer (s : State) (st : Nat) := (s, some (objResp s 2 key st (objTotal s key) []))
  match namedTxn s x o txn with
  | .inl st => answer s st
  | .inr none =>
    if s.mgmt.recovery then recoveryWrite s x key offset data
    else
      let st := directStatus s x.role key offset data
      if st ≠ stOk then answer s st else (addDue s (.direct x.num o.seq k x.role key data), none)
  | .inr (some t) =>
    let st := stageStatus s x.role t key offset data
    if st ≠ stOk then answer s st
    else answer (setTxn s { t with staged := stage t ⟨key, stagedValue t key offset data⟩ }) stOk

/-! ### The rows -/

/-- One operation executed: the state, its response (none: it waits for a boundary), and the frame. -/
def runOp (s : State) (x : Session) (o : OpenFrame) (ops : List POp) (k : Nat) : POp → State × Option (List Byte) × OpenFrame
  | .read idx sub txn watch length offset change =>
    let r := opRead s x o idx sub txn watch length offset change (domainRoom s o ops k)
    (r.1, r.2, o)
  | .write idx sub txn offset data => let r := opWrite s x o k idx sub txn offset data; (r.1, r.2, o)
  | .begin_ => opBegin s x o
  | .commit txn => let r := opCommit s x o k txn; (r.1, r.2, o)
  | .rollback txn => let r := opRollback s x o txn; (r.1, r.2, o)
  | .describe idx sub => let r := opDescribe s idx sub; (r.1, r.2, o)

/-- A frame of a session replaced. -/
def setFrame (s : State) (num : Nat) (o : OpenFrame) : State :=
  { s with par := { s.par with sessions := s.par.sessions.map (fun x =>
      if x.num == num then { x with open_ := x.open_.map (fun y => if y.seq == o.seq then o else y) } else x) } }

/-- Operation `k` of a frame in execution: executed where its response fits, and the frame answered where it is complete (R426). In the
boot ROM a committed reset begins once its frame is answered. -/
def stepFrame (s : State) (x : Session) (o : OpenFrame) (ops : List POp) (k : Nat) (op : POp) : State :=
  let s := syncDerived s
  let r := runOp s x o ops k op
  let size := match r.2.1, op with
    | some b, _ => b.length
    | none, .commit _ => 40
    | none, _ => 24
  let s := if 4096 < respUsed o ops + size then setFrame s x.num { o with total := k }
    else setFrame r.1 x.num { r.2.2 with next := k + 1, resp := o.resp ++ [r.2.1] }
  let s := answerFrame s x.num o.seq
  if s.mgmt.recovery && !(s.par.sessions.any (fun y => y.open_.any (fun z => !frameDone z))) then settleReset s else s

/-- A REQUEST enters execution (R422). -/
def beginFrame (s : State) (x : Session) (f : PFrame) : State :=
  let o : OpenFrame := ⟨f.frameSeq, f.mac, f.ops.length, 0, [], 0, f.udp, []⟩
  refreshPar (setSession (count64 s Key.framesExecuted) { x with highest := f.frameSeq, open_ := x.open_ ++ [o] })

/-- A frame at or below the highest sequence number executed: the kept response goes out again, a copy waits for the execution under
way, or the frame is discarded (R422, R446). -/
def repeatFrame (s : State) (x : Session) (f : PFrame) : State :=
  match x.kept.find? (fun e => e.1 == f.frameSeq && e.2.1 == f.mac) with
  | some e => sendReply (count64 s Key.framesResent) f.path f.udp e.2.2
  | none =>
    match x.open_.find? (fun o => o.seq == f.frameSeq && o.mac == f.mac) with
    | some o => setFrame s x.num { o with copies := o.copies ++ [f.udp] }
    | none => discard s f Key.framesRejectedOther

/-- Operation `k` of a REQUEST: the first one judges the frame and brings it in, once the frames before it have executed their
operations. -/
def requestOp (f : PFrame) (k : Nat) (op : POp) (s : State) : State :=
  match judgeFrame s f with
  | .ignored => s
  | .discarded t => if k = 0 then t else s
  | .opens => s
  | .of x =>
    if f.kind ≠ 1 then s
    else if k = 0 then
      if f.frameSeq ≤ x.highest then repeatFrame s x f
      else if x.open_.any (fun o => decide (o.next < o.total)) then s
      else
        let s := beginFrame s x f
        match findSession s f.session f.role f.path with
        | none => s
        | some x =>
          match x.open_.find? (fun o => o.seq == f.frameSeq) with
          | none => s
          | some o => stepFrame s x o f.ops 0 op
    else
      match x.open_.find? (fun o => o.seq == f.frameSeq && o.mac == f.mac && o.next == k && decide (k < o.total)) with
      | none => s
      | some o => stepFrame s x o f.ops k op

/-- A frame that is no REQUEST of this kind of operation is judged all the same where it is discarded. -/
def judgeOnly (f : PFrame) (k : Nat) (s : State) : State :=
  match judgeFrame s f with
  | .discarded t => if k = 0 then t else s
  | _ => s

/-- READ (R424 to R427, R433). -/
def execParealoRead (f : PFrame) (k : Nat) (s : State) : Host.Outcome State Fault Refusal :=
  .next (match f.ops[k]? with
    | some (.read idx sub txn watch length offset change) => requestOp f k (.read idx sub txn watch length offset change) s
    | _ => judgeOnly f k s)

/-- WRITE (R424, R434, R436). -/
def execParealoWrite (f : PFrame) (k : Nat) (s : State) : Host.Outcome State Fault Refusal :=
  .next (match f.ops[k]? with
    | some (.write idx sub txn offset data) => requestOp f k (.write idx sub txn offset data) s
    | _ => judgeOnly f k s)

/-- BEGIN (R424, R436). -/
def execParealoBegin (f : PFrame) (k : Nat) (s : State) : Host.Outcome State Fault Refusal :=
  .next (match f.ops[k]? with
    | some .begin_ => requestOp f k .begin_ s
    | _ => judgeOnly f k s)

/-- COMMIT (R437). -/
def execCommitOp (f : PFrame) (k : Nat) (s : State) : Host.Outcome State Fault Refusal :=
  .next (match f.ops[k]? with
    | some (.commit txn) => requestOp f k (.commit txn) s
    | _ => judgeOnly f k s)

/-- ROLLBACK (R439). -/
def execParealoRollback (f : PFrame) (k : Nat) (s : State) : Host.Outcome State Fault Refusal :=
  .next (match f.ops[k]? with
    | some (.rollback txn) => requestOp f k (.rollback txn) s
    | _ => judgeOnly f k s)

/-- DESCRIBE (R427). -/
def execDescribe (f : PFrame) (k : Nat) (s : State) : Host.Outcome State Fault Refusal :=
  .next (match f.ops[k]? with
    | some (.describe idx sub) => requestOp f k (.describe idx sub) s
    | _ => judgeOnly f k s)

/-! ### Expiry (R439) -/

/-- A transaction is rolled back at a boundary for its age, and TXN_EXPIRED is raised. -/
def expireTxn (s : State) (t : Txn) : State :=
  let s := { s with par := { s.par with expired := (t.handle, t.session) :: s.par.expired } }
  refreshPar (raise (rollbackTxn s t.handle) Key.parealoFlags 3)

/-- TXN_EXPIRED (R439): TXN_TIMEOUT_BEATS after the BEGIN of a transaction that waits for no COMMIT. -/
def execTxnExpired (handle : Nat) (s : State) : Host.Outcome State Fault Refusal :=
  .next (match s.par.txns.find? (fun t => t.handle == handle && !t.committing) with
    | some t => expireTxn s t
    | none => s)

end Sys2Proof.Machine
end

