-- ==== Sys2Proof/Machine/Boundary.lean ====
section
/-! DEFINITION. The beat boundary (01_training_step.md R20; 16_beat_clocks.md R394 to R405; 17_object_dictionary.md R434 to R440): the milestone,
the commits, the snapshot and the gathering of flags, and what else the chapters place at a boundary. -/

namespace Sys2Proof.Machine

/-! ### Waypoints, the milestone's lateness, and overruns (R21, R402) -/

/-- The waypoints found late at the boundary just numbered: due before it, with reports missing, and not late already (R402). -/
def lateWaypoints (s : State) : List Nat :=
  if !steps s || s.stp.windowEnd.isSome then []
  else ((scheduleEntries s).filter (fun e =>
    decide (s.stp.openBeat + e.2.2 < beatNow s) && decide (stGet s.stp.wpCount e.1 < e.2.1) && !s.stp.wpLate.contains e.1)).map (fun e => e.1)

/-- The late waypoints noted: cause and count (R402). They stay late for the rest of the step that they belong to. -/
def noteLate (step : Nat) (s : State) (ids : List Nat) : State :=
  if ids = [] then s
  else
    let s := addN (overrunCause s 0) Key.waypointsLate 64 ids.length
    if step = s.stp.step then { s with stp := { s.stp with wpLate := ids ++ s.stp.wpLate } } else s

/-- Whether a micro-batch of the step waits for a predecessor that has not been accepted (R14). -/
def forwardWaits (s : State) (seq : Nat) : Bool :=
  let first := stepFirstSeq s s.stp.step
  (ticketOf s 1 seq).isSome && !begun s false seq && (upFrom first (seq - first)).any (fun q => (ticketOf s 1 q).isNone && !begun s false q)

/-- Whether a micro-batch's backward work waits for its output gradients or the backward work before it (R227). -/
def backwardWaits (s : State) (seq : Nat) : Bool :=
  s.stp.work.any (fun w => !w.evaluation && w.seq == seq && w.forwardEnded && !w.backwardBegun && !w.abandoned) && !backwardReady s seq

/-- Whether the work that a mark stands for waits: the forward one of kind 0, the backward one of kind 1. -/
def markWaits (s : State) (m : WpMark) : Bool :=
  let seq := stepFirstSeq s s.stp.step + m.k
  (m.kind == 0 && forwardWaits s seq) || (m.kind == 1 && backwardWaits s seq)

/-- Any beat that a micro-batch waits beyond its waypoint's beat is an overrun (R14, R227): its own waypoint, found late, marks it, and it still
waits. -/
def noteWaits (s : State) : State :=
  match s.placement with
  | none => s
  | some p =>
    if steps s && s.stp.windowEnd.isNone && p.marks.any (fun m => s.stp.wpLate.contains m.waypoint && markWaits s m) then overrunCause s 0
    else s

/-- A milestone that has not taken place by the boundary after its beat (R21, R402). -/
def noteMilestoneLate (s : State) : State :=
  if steps s && s.stp.windowEnd.isNone && decide (s.stp.openBeat + getN s Key.milestoneOffset < beatNow s) then overrunCause s 1 else s

/-- Whether every ticket admitted to the window has been completed (R22). -/
def windowDone (s : State) : Bool :=
  s.stp.admitted.all (fun id => s.host.tickets.all (fun t => t.acceptId != id || t.ended))

/-- The evaluation window at a boundary that closes beat `old`: a beat added to it is an overrun; its end opens the step (R22, R390). -/
def windowBoundary (s : State) (old : Nat) : State :=
  match s.stp.windowEnd with
  | none => s
  | some e =>
    let s := if e ≤ old then count64 (overrunCause s 2) Key.evalExtendedBeats else s
    if e ≤ beatNow s ∧ windowDone s then
      let stp := { s.stp with
        windowEnd := none, admitted := [], openBeat := beatNow s, work := s.stp.work.filter (fun w => !w.evaluation) }
      count64 { s with stp := stp } Key.windowsRun
    else s

/-- The causes of R402 for the beat just ended; a detour under way and a hold last from beat to beat. -/
def beatCauses (s : State) : Nat := (s.stp.causes ||| (if s.grid.detouring || s.stp.hold then 8 else 0)).toNat

/-- The beat just ended recorded as an overrun, once whatever the number of causes (R402); one with cause WAYPOINT_LATE asks for a stretch
(R404). -/
def noteOverrun (s : State) (old : Nat) : State :=
  let c := beatCauses s
  if c = 0 then s
  else
    let s := setN (count64 (raise s Key.beatFlags 0) Key.beatsOverrun) Key.lastOverrunBeat old
    let s := (List.range 4).foldl (fun s i => if bit c i then count64 s (Key.overrunsByCause i) else s) s
    if bit c 0 then requestStretch s else s

/-- The aggregate flag words as NUMERIC_FLAGS has them (R370). -/
def flagWords (s : State) : Nat :=
  getN s Key.arrayNumFlags % 16 + getN s Key.vectorNumFlags % 16 * 16 + getN s Key.compactionNumFlags % 16 * 256 +
    getN s Key.updateNumFlags % 16 * 4096

/-- A micro-batch's share of the beat just ended (R370): its overrun and its flags. -/
def countWork (overrun : Bool) (flags old : Nat) (w : Work) : Work :=
  let ended := if w.evaluation then w.forwardEnded else w.backwardEnded
  if w.forwardBeat ≤ old ∧ (!ended ∨ old ≤ w.endBeat) then
    { w with overruns := w.overruns + b2n overrun, flags := w.flags ||| flags }
  else w

/-! ### The commits (R434, R436 to R440) -/

/-- The record of an outcome (R440). -/
def outcomeBody (s : State) (t : Txn) (status key : Nat) : List Byte :=
  leBytes 4 t.handle ++ leBytes 2 status ++ leBytes 2 (key / 256) ++ leBytes 1 (key % 256) ++ leBytes 3 0 ++ leBytes 8 (beatNow s) ++
    leBytes 4 t.session

/-- A transaction decided (R437, R438): the status, the object that failed and its ordinal. -/
def decideTxn (s : State) (t : Txn) : State × Nat × Nat × Nat :=
  match conflictOf s t with
  | some c => (raise s Key.parealoFlags 2, stConflict, c.1, c.2)
  | none =>
    match decideWrites s t.role true t.staged with
    | (s, some f) => (s, f.1, f.2.1, f.2.2)
    | (s, none) => (s, stOk, 0, 0)

/-- A COMMIT or a direct write decided at the boundary; the outcome of a transaction is journalled before its response (R440). -/
def decideDue (s : State) (d : Due) : State :=
  let s := syncDerived s
  match d with
  | .direct session seq k role key bytes =>
    let r := decideWrites s role false [⟨key, bytes⟩]
    let st := (r.2.map (fun f => f.1)).getD stOk
    fillResponse r.1 session seq k (objResp r.1 2 key st (objTotal r.1 key) [])
  | .commit handle session seq k =>
    match s.par.txns.find? (fun t => t.handle == handle && t.committing) with
    | none => s
    | some t =>
      let r := decideTxn s t
      let s := journal (dropTxn r.1 handle) 6 (outcomeBody r.1 t r.2.1 r.2.2.1)
      let s := count64 s (if r.2.1 = stOk then Key.txnCommitted else Key.txnFailed)
      refreshPar (fillResponse s session seq k (commitResp s r.2.1 r.2.2.1 r.2.2.2))

/-- Everything that waited for the boundary decided in order of arrival (R437). -/
def decideAll (s : State) : State := s.par.due.foldl decideDue { s with par := { s.par with due := [] } }

/-- Transactions grow older, and those whose time is over are rolled back (R439). -/
def ageTxns (s : State) : State :=
  let older := s.par.txns.map (fun t => { t with beats := t.beats + 1 })
  let s := { s with par := { s.par with txns := older } }
  (s.par.txns.filter (fun t => !t.committing && decide (getN s Key.txnTimeoutBeats ≤ t.beats))).foldl expireTxn s

/-- Superseded versions held no longer than R433 asks: 20 ms and 16 boundaries after the one, or the time before it, that superseded them. -/
def ageVersions (s : State) : State :=
  let old := (s.par.old.map (fun v => { v with age := v.age + 1 })).filter (fun v =>
    decide (v.age ≤ 16) || decide ((v.age - 1) * getN s Key.beatPeriodUs < 20000))
  { s with par := { s.par with old := old } }

/-! ### The snapshot (R107) -/

/-- The status words of the logical cores that are not zero. -/
def takeSnapshot (s : State) : Store :=
  let n := logicalCols s
  ((s.cores.filter (fun e => inGrid s (keyCore e.1) && statusWord e.2 != 0)).map (fun e =>
    ((keyCore e.1).row * n + (keyCore e.1).col, statusWord e.2)))

/-- Logical cores in each state of the snapshot (object 6201:00 to 08). -/
def countStates (s : State) (snap : Store) : State :=
  let total := getN s Key.logicalCores
  (List.range 9).foldl (fun s n =>
    let listed := (snap.filter (fun e => e.2 % 16 == n)).length
    setN s (Key.coresInState n) (if n = 0 then total - snap.length + listed else listed)) s

/-- The snapshot of every logical core's status word (R107). -/
def snapshotCores (s : State) : State :=
  let snap := takeSnapshot s
  let s := countStates (setN s Key.snapshotBeat (beatNow s)) snap
  if snap = s.snapshot then s
  else
    let v : OldVersion := ⟨Key.coreStatusTable, changeOf s Key.coreStatusTable, 0, coreTable (getN s Key.logicalCores) s.snapshot⟩
    touch { s with snapshot := snap, par := { s.par with old := v :: s.par.old } } Key.coreStatusTable

/-! ### Streams (R316) -/

/-- Whether a queue has runs left. -/
def runsLeft (q : Queue) : Bool :=
  match q.current with
  | none => false
  | some d => !d.cancelled && decide ((if dsDir d.bytes = 0 then d.nextRun else d.done.length) < dsRunCount d.bytes)

/-- Every queue's waiting bit, and the beat's record of moved flits begun anew. -/
def noteWaiting (s : State) : State :=
  let qs := s.streams.queues.map (fun e => (e.1, { e.2 with waiting := runsLeft e.2 && !e.2.moved, moved := false }))
  { s with streams := { s.streams with queues := qs.filter (fun e => e.2 != Queue.default) } }

/-- The cores that hold back the flits of a queue, or that it waits for: those whose full ring it feeds, or the senders of a
mesh-to-stack queue. -/
def queueCores (s : State) (p : Placement) (k : Nat) (q : Queue) : List CoreId :=
  match q.current with
  | none => []
  | some d =>
    if dsDir d.bytes = 1 then (p.senders.filter (fun f => f.2.1 * 32 + f.2.2 == k)).map (fun f => f.1)
    else (p.feeders.filter (fun f => f.2.2.1 * 32 + f.2.2.2 == k &&
      decide (ringLines (getCore s f.1) f.2.1 ≤ ringHeld (getCore s f.1) f.2.1))).map (fun f => f.1)

/-- The queue that feeds the ring on which a core waits. -/
def coreQueues (s : State) (p : Placement) (c : CoreId) : List Nat :=
  match (getCore s c).st, (getCore s c).wait with
  | .waiting, some (.ring r _) => (p.feeders.filter (fun f => f.1 == c && f.2.1 == r)).map (fun f => f.2.2.1 * 32 + f.2.2.2)
  | _, _ => []

/-- The graph of R316 from waiting queue to waiting queue, through a core. -/
def waitGraph (s : State) : List (Nat × List Nat) :=
  match s.placement with
  | none => []
  | some p =>
    let ws := s.streams.queues.filter (fun e => e.2.waiting)
    let ks := ws.map (fun e => e.1)
    ws.map (fun e => (e.1, ((queueCores s p e.1 e.2).flatMap (coreQueues s p)).filter ks.contains))

/-- The nodes that still have a successor, after dropping those that have none, `n` times. -/
def pruneGraph : Nat → List (Nat × List Nat) → List (Nat × List Nat)
  | 0, g => g
  | n + 1, g =>
    let ks := g.map (fun e => e.1)
    pruneGraph n ((g.map (fun e => (e.1, e.2.filter ks.contains))).filter (fun e => e.2 != []))

/-- The first successors from a node on. -/
def walkGraph (g : List (Nat × List Nat)) : Nat → Nat → List Nat
  | 0, _ => []
  | n + 1, k => k :: (match g.find? (fun e => e.1 == k) with
    | some (_, t :: _) => walkGraph g n t
    | _ => [])

/-- The queues of a cycle, from the first that a walk meets again. -/
def findCycle (s : State) : List Nat :=
  let g := waitGraph s
  let r := pruneGraph g.length g
  match r with
  | [] => []
  | e :: _ =>
    match (walkGraph r (r.length + 1) e.1).getLast? with
    | none => []
    | some k =>
      let w := walkGraph r r.length k
      w.take 1 ++ (w.drop 1).takeWhile (fun x => x != k)

/-- STREAM_CYCLE (R316): a cycle present at 4 boundaries in a row is flagged, captured where the capture is empty, and written as an
event. -/
def streamCycle (s : State) : State :=
  let s := noteWaiting s
  let cyc := findCycle s
  let n := if cyc = [] then 0 else s.streams.cycleCount + 1
  let s := { s with streams := { s.streams with cycleCount := n } }
  if n < 4 then s
  else
    let s := raise s Key.streamFlags 0
    let entries := (cyc.take 8).map (fun k => leBytes 2 (k / 32 + 32 * (k % 32)))
    let bytes := (entries ++ List.replicate (8 - entries.length) (leBytes 2 0xFFFF)).flatMap id
    let s := if getN s Key.cycleCaptureEmpty = 1 then
        setN (setN (setDom s Key.cycleCapture bytes) Key.cycleCaptureBeat (beatNow s)) Key.cycleCaptureEmpty 0 else s
    if n = 4 then logEvent s 7 [(cyc.map (fun k => k / 32 + 32 * (k % 32))).headD 0] else s

/-! ### Activations held (R305, R379) -/

/-- The bytes that one micro-batch stores for a layer: SRAM and layby. -/
def layerBytes (s : State) (key : Nat) : Nat × Nat :=
  match s.placement with
  | none => (0, 0)
  | some p => p.layers.getD (key % 2 ^ 32) (0, 0)

/-- A total and its high-water mark. -/
def setHigh (s : State) (key high v : Nat) : State := setN (setN s key v) high (max v (getN s high))

/-- The totals of R379, LAYBY_USED from the copies held (R305, R324), and their high-water marks. -/
def noteHeld (s : State) : State :=
  let ls := s.stp.layersHeld
  let sram := (ls.map (fun k => (layerBytes s k).1)).sum
  let layby := (ls.map (fun k => (layerBytes s k).2)).sum
  let mbs := (((ls.filter (fun k => layerBytes s k != (0, 0))).map (fun k => k / 2 ^ 32)).foldl (fun a q => nsIns q a) []).length
  let s := setHigh s Key.actSramBytes Key.actSramHighWater sram
  let s := setHigh s Key.actLaybyBytes Key.actLaybyHighWater layby
  let s := setHigh s Key.microbatchesHeld Key.microbatchesHeldHighWater mbs
  setHigh s Key.laybyUsed Key.laybyHighWater ((s.stp.layby.map (fun r => r.bytes)).sum)

/-! ### The logbook (R497, R511) -/

/-- The newest record of each type that is live for its type alone, the ACCEPT records of tickets that have not ended, the JOB_STATE
records of jobs under way, and the newest 256 outcomes (R497). -/
def liveRecords (s : State) : List JRec :=
  let newest := [14, 2, 8, 9, 12, 5].flatMap (fun t => (newestRec s t).toList)
  let accepts := s.log.journal.filter (fun r => r.typ == 1 &&
    s.host.tickets.any (fun t => !t.ended && t.acceptId == field r.body 0 8))
  let jobs := ((List.range 5).filter (fun n => getN s (Key.jobState n) == 1 || getN s (Key.jobState n) == 2)).flatMap (fun n =>
    (s.log.journal.find? (fun r => r.typ == 7 && field r.body 0 2 == 0x1200 + n)).toList)
  newest ++ accepts ++ jobs ++ (s.log.journal.filter (fun r => r.typ == 6)).take 256

/-- The bytes of the journal's ring (R493). -/
def journalRing : Nat := 236 * 2 ^ 20

/-- Records, newest first, each with the bytes written from its beginning to the head; `n` is what lies above the first. -/
def withAges : Nat → List JRec → List (Nat × JRec)
  | _, [] => []
  | n, r :: rs => (n + recordBytes r, r) :: withAges (n + recordBytes r) rs

/-- The live records that the write position comes near, oldest first. How near it may come is not said: here 4 MiB, more than a boundary's
records take (DESIGN CHOICE, assumption log 97). -/
def agedRecords (s : State) : List JRec :=
  let live := (liveRecords s).map (fun r => r.seq)
  (((withAges 0 s.log.journal).filter (fun e => decide (journalRing < e.1 + 2 ^ 22) && live.contains e.2.seq)).map (fun e => e.2)).reverse

/-- Live records written again at the head before the ring overwrites them (R497). The newest MILESTONE follows a PLACEMENT that is written
again, as it did before (R508, R556). -/
def rewriteLive (s : State) : State :=
  let aged := agedRecords s
  let last := if aged.any (fun r => r.typ == 14) then (newestRec s 2).toList else []
  (aged.filter (fun r => !last.any (fun m => m.seq == r.seq)) ++ last).foldl (fun s r => journal s r.typ r.body) s

/-- The records that the ring still holds. -/
def dropOverwritten (s : State) : State :=
  { s with log := { s.log with
      journal := ((withAges 0 s.log.journal).filter (fun e => decide (e.1 ≤ journalRing))).map (fun e => e.2) } }

/-- A logbook write that fails its read-back (R511). -/
def logbookFails (s : State) : State :=
  if s.log.failed then s else logEvent (raise { s with log := { s.log with failed := true } } Key.recoveryFlags 0) 0xF [0]

/-- Whether the boundary's work writes the journal: a milestone, or the outcome of a transaction. -/
def writesJournal (s : State) : Bool :=
  milestoneDue s || s.par.due.any (fun d => match d with
    | .commit _ _ _ _ => true
    | .direct _ _ _ _ _ _ => false)

/-! ### The boundary -/

/-- The cores' part: WAITB against the new number, and the boundaries that a core waits in SYNC (R165, R193, R194). -/
def coreBoundary (s : State) (c : Core) : Core :=
  let c := match c.st, c.wait with
    | .waiting, some (.sync _ _ _) => { c with syncBeats := c.syncBeats + 1 }
    | _, _ => c
  wakeCore s c

/-- NEIGHBOUR_MISSING while it keeps the engine in READY, and BRIDGE_UNAVAILABLE from then on while a planned skip port is not ACTIVE (R344). -/
def noteNeighbours (s : State) : State :=
  if getN s Key.bringupPhase < 6 ∨ s.aelif.plan = [] then s
  else
    let s := if inRun s || neighboursSettled s then s else raise s Key.discoveryFlags 2
    if (List.range 4).any (fun d => (skipPorts d).any (fun p => portPlanned s p && !portActive s p)) then raise s Key.discoveryFlags 3 else s

/-- A handover that waits for a reshard (R391): a reshard that a lost field meets in COPYING ends FAILED; the handover begins once none is
active. -/
def settleHandover (s : State) : State :=
  let s := if s.mgmt.handover ≠ 4 then s
    else
      let s := { s with mgmt := { s.mgmt with handover := 1 } }
      if getN s Key.reshardPhase = 2 then failReshard s stInterrupted 0 0 else s
  if s.mgmt.handover = 1 ∧ getN s Key.reshardPhase = 0 then beginHandover s else s

/-- Entry into RUN, or the engine's leaving it for a handover, and what blocks the entry (R484, R485, R502). -/
def runBoundary (s : State) (leave : Bool) : State :=
  let s := if leave && inRun s && s.mgmt.handover == 2 then leaveRun s else s
  let s := if mayRun s then enterRun s else s
  noteNeighbours (setN s Key.runBlockers (runBlockersOf s))

/-- Groups whose update the last micro-batch or a free pass held back, and messages that could not be written (R17, R248, R273). -/
def retryWork (s : State) : State :=
  tryUpdates (retryFlows (retryKept s))

/-- The first part of a boundary: its number, what the links, the fields and the jobs changed before it (R349, R446, R458), the milestone, the window, and the
jobs that end at it. The second component is what the milestone completes, with its step. -/
def openBoundary (env : BoundaryEnv) (s : State) : State × Nat × List (Ticket × Work × Nat) :=
  let old := beatNow s
  let s := settleFields (linkBoundary (syncDerived (numberBoundary s env.ptpTimeNs)))
  let s := boundaryProgress (finishLoad s) env.progress
  let s := if !env.journalOk && writesJournal s then logbookFails s else s
  let step := s.stp.step
  let due := milestoneDue s
  let cs := if due then completions s step else []
  let s := windowBoundary (if due then milestone s else lateMilestone s) old
  (settleHandover (endDraining s), step, cs)

/-- The check of the waypoint schedule, after the flags are gathered (R399): what is late, what waits, and the overrun. The second component is
the set of causes. -/
def checkSchedule (old step : Nat) (late : List Nat) (s : State) : State × Nat :=
  let s := noteMilestoneLate (noteWaits (noteLate step s late))
  (noteOverrun s old, beatCauses s)

/-- The second part: commits, the lease, expiries, the snapshot, the flags, and the check of the schedule. The second component is the set of
overrun causes. -/
def flagBoundary (old step : Nat) (late : List Nat) (s : State) : State × Nat :=
  let s := { s with beat := { s.beat with leaseBeat := s.beat.leaseBeat + 1 } }
  let s := ageTxns (lapseLease (decideAll s))
  let s := raiseHoldover (snapshotCores s)
  let empties := stGet s.clears Key.invalidCaptureEmpty
  let s := gatherFlags (gatherNumeric s old)
  checkSchedule old step late (if empties = 1 then emptyCapture s Key.invalidCaptureEmpty else s)

/-- The third part: cores, power, links, streams, the service clocks, and the results of the milestone's tickets. -/
def workBoundary (env : BoundaryEnv) (old step causes : Nat) (cs : List (Ticket × Work × Nat)) (s : State) : State :=
  let count := countWork (causes != 0) (flagWords s) old
  let s := { s with stp := { s.stp with work := s.stp.work.map count, causes := 0 } }
  let s := writeCompletions s step (cs.map (fun c => (c.1, count c.2.1, c.2.2)))
  let s := mapCores s (fun _ c => coreBoundary s c)
  let s := powerBoundary s env.coolantIn env.coolantOut
  let s := aelifBoundary s
  let s := if isTickRoot s then sendTicks s (beatNow s) s.beat.stretchLen s.beat.stretchPlace else s
  retryWork (noteHeld (streamCycle (pulsePin (pulsePin s 0) 1)))

/-- The lowest of some identifiers; 0 of none (R405). -/
def lowestOf (ids : List Nat) : Nat :=
  match ids with
  | [] => 0
  | a :: rest => rest.foldl min a

/-- The last part: RUN, the logbook, the heartbeat record, what reads back as 0, the ages, and the frames answered. `seq` is the newest record
that the boundary found: where one was written since and the read-back failed, the logbook has failed (R511). -/
def closeBoundary (env : BoundaryEnv) (seq causes : Nat) (late : List Nat) (s : State) : State :=
  let s := runBoundary s env.leaveRun
  let s := dropOverwritten (rewriteLive (addN s Key.logbookCorrected 64 env.logbookCorrected))
  let s := if !env.journalOk && getN s Key.journalRecordSeq != seq then logbookFails s else s
  let s := setN s Key.journalLiveBytes (((liveRecords s).map recordBytes).sum % 2 ^ 32)
  let s := writeHeartbeat (refreshHeld s) env.ptpTimeNs causes (lowestOf late)
  let s := ageVersions (setN s Key.replayStep 0)
  let since := s.sec.lastQuote.map (fun n => n + 1)
  let s := { s with sec := { s.sec with lastQuote := since } }
  settleReset (settleSecrets (answerAll (syncDerived s)))

/-- The boundary's work, in its order. What is late is judged against the step that the boundary found, in which a milestone that takes place at
it has yet to count its reports (R402). -/
def boundaryWork (env : BoundaryEnv) (s : State) : State :=
  let old := beatNow s
  let late := lateWaypoints (numberBoundary s env.ptpTimeNs)
  let a := openBoundary env s
  let b := flagBoundary old a.2.1 late a.1
  closeBoundary env (getN s Key.journalRecordSeq) b.2 late (workBoundary env old a.2.1 b.2 a.2.2 b.1)

/-- BEAT_BOUNDARY: nothing happens while no beat runs (before phase 2 of a bring-up). -/
def execBeatBoundary (env : BoundaryEnv) (s : State) : Host.Outcome State Fault Refusal :=
  .next (if s.beat.running then metBy env.sramErrs (metStacks env.stackErrs (boundaryWork env)) s else s)

end Sys2Proof.Machine
end

