-- ==== Sys2Proof/Machine/Dispatch.lean ====
section
/-! DEFINITION. The meaning of each command: one arm per constructor of Instr. -/

namespace Sys2Proof.Machine

def exec (i : Instr) (s : State) : Host.Outcome State Fault Refusal :=
  match i with
  | .nop iss => Sys2Proof.Machine.execNop iss s
  | .halt iss => Sys2Proof.Machine.execHalt iss s
  | .loop iss ln target => Sys2Proof.Machine.execLoop iss ln target s
  | .lset iss ln src xs imm => Sys2Proof.Machine.execLset iss ln src xs imm s
  | .br iss cond xa xb target => Sys2Proof.Machine.execBr iss cond xa xb target s
  | .waitb iss rel xs count => Sys2Proof.Machine.execWaitb iss rel xs count s
  | .wp iss report waypoint => Sys2Proof.Machine.execWp iss report waypoint s
  | .syncInit iss barrier xr word expected => Sys2Proof.Machine.execSyncInit iss barrier xr word expected s
  | .syncWait iss barrier xr word => Sys2Proof.Machine.execSyncWait iss barrier xr word s
  | .xli iss xd imm => Sys2Proof.Machine.execXli iss xd imm s
  | .xop iss xd xa xb func immb imm => Sys2Proof.Machine.execXop iss xd xa xb func immb imm s
  | .agset iss an field src xs imm => Sys2Proof.Machine.execAgset iss an field src xs imm s
  | .lda iss dst an post exp rows xs ap ppost => Sys2Proof.Machine.execLda iss dst an post exp rows xs ap ppost s
  | .ldat iss dst an post rows xs width srcRowsM1 => Sys2Proof.Machine.execLdat iss dst an post rows xs width srcRowsM1 s
  | .stv iss src an post xs => Sys2Proof.Machine.execStv iss src an post xs s
  | .send iss an post flitsM1 vc trailer xq xh => Sys2Proof.Machine.execSend iss an post flitsM1 vc trailer xq xh s
  | .recv iss ring dst exp rows flitsM1 => Sys2Proof.Machine.execRecv iss ring dst exp rows flitsM1 s
  | .mcjoin iss column group join => Sys2Proof.Machine.execMcjoin iss column group join s
  | .mma iss m fault => Sys2Proof.Machine.execMma iss m fault s
  | .mmas iss m drop ixsel fault => Sys2Proof.Machine.execMmas iss m drop ixsel fault s
  | .mmax iss m pass fault => Sys2Proof.Machine.execMmax iss m pass fault s
  | .accz iss acc => Sys2Proof.Machine.execAccz iss acc s
  | .accout iss acc ad post xs parity => Sys2Proof.Machine.execAccout iss acc ad post xs parity s
  | .vop iss func ad aa ab ac scalb xb post count => Sys2Proof.Machine.execVop iss func ad aa ab ac scalb xb post count s
  | .vred iss func ad aa postD postA count => Sys2Proof.Machine.execVred iss func ad aa postD postA count s
  | .vcvt iss f => Sys2Proof.Machine.execVcvt iss f s
  | .index24 iss asel ixsel => Sys2Proof.Machine.execIndex24 iss asel ixsel s
  | .zeroMap iss asel ad post => Sys2Proof.Machine.execZeroMap iss asel ad post s
  | .rngk iss ad post key stepSrc xs xi form count => Sys2Proof.Machine.execRngk iss ad post key stepSrc xs xi form count s
  | .rngf iss ad post form count => Sys2Proof.Machine.execRngf iss ad post form count s
  | .chk iss ringSrc an post flitsM1 xq xd poison => Sys2Proof.Machine.execChk iss ringSrc an post flitsM1 xq xd poison s
  | .flg iss unit xd clear => Sys2Proof.Machine.execFlg iss unit xd clear s
  | .updateNop e => Sys2Proof.Machine.execUpdateNop e s
  | .updEnd e => Sys2Proof.Machine.execUpdEnd e s
  | .phase e => Sys2Proof.Machine.execPhase e s
  | .ld e vd opnd => Sys2Proof.Machine.execLd e vd opnd s
  | .st e va opnd sat rnd => Sys2Proof.Machine.execSt e va opnd sat rnd s
  | .fadd e o => Sys2Proof.Machine.execFadd e o s
  | .fsub e o => Sys2Proof.Machine.execFsub e o s
  | .fmul e o => Sys2Proof.Machine.execFmul e o s
  | .fma e o => Sys2Proof.Machine.execFma e o s
  | .fmin e o => Sys2Proof.Machine.execFmin e o s
  | .fmax e o => Sys2Proof.Machine.execFmax e o s
  | .fabs e vd va => Sys2Proof.Machine.execFabs e vd va s
  | .fneg e vd va => Sys2Proof.Machine.execFneg e vd va s
  | .fsgn e vd va => Sys2Proof.Machine.execFsgn e vd va s
  | .cmplt e o => Sys2Proof.Machine.execCmplt e o s
  | .cmple e o => Sys2Proof.Machine.execCmple e o s
  | .sel e o => Sys2Proof.Machine.execSel e o s
  | .rcp e vd va => Sys2Proof.Machine.execRcp e vd va s
  | .rsqrt e vd va => Sys2Proof.Machine.execRsqrt e vd va s
  | .div e o => Sys2Proof.Machine.execDiv e o s
  | .sqrt e vd va => Sys2Proof.Machine.execSqrt e vd va s
  | .exp2 e vd va => Sys2Proof.Machine.execExp2 e vd va s
  | .log2 e vd va => Sys2Proof.Machine.execLog2 e vd va s
  | .rsum e sreg va => Sys2Proof.Machine.execRsum e sreg va s
  | .rssq e sreg va => Sys2Proof.Machine.execRssq e sreg va s
  | .rmax e sreg va => Sys2Proof.Machine.execRmax e sreg va s
  | .sbc e vd sreg => Sys2Proof.Machine.execSbc e vd sreg s
  | .updateWorkItem e => Sys2Proof.Machine.execUpdateWorkItem e s
  | .accumulationPass unit group block => Sys2Proof.Machine.execAccumulationPass unit group block s
  | .slowSweep group => Sys2Proof.Machine.execSlowSweep group s
  | .beatBoundary env => Sys2Proof.Machine.execBeatBoundary env s
  | .fieldShutDrainEnd field => Sys2Proof.Machine.execFieldShutDrainEnd field s
  | .wakeProceed field => Sys2Proof.Machine.execWakeProceed field s
  | .wakeDeferLimitExpiry field => Sys2Proof.Machine.execWakeDeferLimitExpiry field s
  | .hostLeaseExpired => Sys2Proof.Machine.execHostLeaseExpired s
  | .txnExpired handle => Sys2Proof.Machine.execTxnExpired handle s
  | .syncTimeout core => Sys2Proof.Machine.execSyncTimeout core s
  | .subTail v => Sys2Proof.Machine.execSubTail v s
  | .ticketRead t => Sys2Proof.Machine.execTicketRead t s
  | .acceptanceTokenWrite => Sys2Proof.Machine.execAcceptanceTokenWrite s
  | .accHead v => Sys2Proof.Machine.execAccHead v s
  | .release v => Sys2Proof.Machine.execRelease v s
  | .ringBaseWrite reg v => Sys2Proof.Machine.execRingBaseWrite reg v s
  | .mailboxDoorbell length frame => Sys2Proof.Machine.execMailboxDoorbell length frame s
  | .pcieLinkReset => Sys2Proof.Machine.execPcieLinkReset s
  | .microbatchForwardStart seq => Sys2Proof.Machine.execMicrobatchForwardStart seq s
  | .backwardStart seq => Sys2Proof.Machine.execBackwardStart seq s
  | .evaluationComplete acceptId => Sys2Proof.Machine.execEvaluationComplete acceptId s
  | .partialReceive ep source flits => Sys2Proof.Machine.execPartialReceive ep source flits s
  | .runningSumApply gate group block seq => Sys2Proof.Machine.execRunningSumApply gate group block seq s
  | .settle group seq => Sys2Proof.Machine.execSettle group seq s
  | .settleWaitExpiry gate seq => Sys2Proof.Machine.execSettleWaitExpiry gate seq s
  | .contribReceive m => Sys2Proof.Machine.execContribReceive m s
  | .gatherReceive m => Sys2Proof.Machine.execGatherReceive m s
  | .fingerprintReceive m => Sys2Proof.Machine.execFingerprintReceive m s
  | .peerLate group => Sys2Proof.Machine.execPeerLate group s
  | .excuse w => Sys2Proof.Machine.execExcuse w s
  | .override w => Sys2Proof.Machine.execOverride w s
  | .setCompression w => Sys2Proof.Machine.execSetCompression w s
  | .keySlotWrite slot high w => Sys2Proof.Machine.execKeySlotWrite slot high w s
  | .constantSetWrite set k w => Sys2Proof.Machine.execConstantSetWrite set k w s
  | .datagramData d => Sys2Proof.Machine.execDatagramData d s
  | .datagramAck d => Sys2Proof.Machine.execDatagramAck d s
  | .datagramEncap d => Sys2Proof.Machine.execDatagramEncap d s
  | .transportMessageSend dest encap => Sys2Proof.Machine.execTransportMessageSend dest encap s
  | .ackDelayExpiry source encap => Sys2Proof.Machine.execAckDelayExpiry source encap s
  | .retxTimeout dest encap => Sys2Proof.Machine.execRetxTimeout dest encap s
  | .epPortUp port => Sys2Proof.Machine.execEpPortUp port s
  | .epPortDown port => Sys2Proof.Machine.execEpPortDown port s
  | .epEnable port w => Sys2Proof.Machine.execEpEnable port w s
  | .dataFrameReceive port f => Sys2Proof.Machine.execDataFrameReceive port f s
  | .controlFrameReceive port f => Sys2Proof.Machine.execControlFrameReceive port f s
  | .signpostReceive port f => Sys2Proof.Machine.execSignpostReceive port f s
  | .signpostSend port => Sys2Proof.Machine.execSignpostSend port s
  | .aelifReplayTimeout port => Sys2Proof.Machine.execAelifReplayTimeout port s
  | .lossOfLock port => Sys2Proof.Machine.execLossOfLock port s
  | .portTrained port delayPs => Sys2Proof.Machine.execPortTrained port delayPs s
  | .portDown port peerLast => Sys2Proof.Machine.execPortDown port peerLast s
  | .neighbourAbsent d => Sys2Proof.Machine.execNeighbourAbsent d s
  | .tick port beat time runLength runPlace => Sys2Proof.Machine.execTick port beat time runLength runPlace s
  | .tickLost => Sys2Proof.Machine.execTickLost s
  | .ptpLost => Sys2Proof.Machine.execPtpLost s
  | .stretchRequest port => Sys2Proof.Machine.execStretchRequest port s
  | .linkPlan w => Sys2Proof.Machine.execLinkPlan w s
  | .portEnable port w => Sys2Proof.Machine.execPortEnable port w s
  | .substituteTable w => Sys2Proof.Machine.execSubstituteTable w s
  | .pullEndpointRequest requester group block => Sys2Proof.Machine.execPullEndpointRequest requester group block s
  | .pullBlockReceive group b => Sys2Proof.Machine.execPullBlockReceive group b s
  | .reshardBlockReceive group b => Sys2Proof.Machine.execReshardBlockReceive group b s
  | .arm se w => Sys2Proof.Machine.execArm se w s
  | .armPacket ep p => Sys2Proof.Machine.execArmPacket ep p s
  | .cancel se w => Sys2Proof.Machine.execCancel se w s
  | .stackGrant stack late errs => Sys2Proof.Machine.execStackGrant stack late errs s
  | .descriptorComplete se queue => Sys2Proof.Machine.execDescriptorComplete se queue s
  | .inboundPacket crescent endpoint p => Sys2Proof.Machine.execInboundPacket crescent endpoint p s
  | .mapPacketReceive ep p => Sys2Proof.Machine.execMapPacketReceive ep p s
  | .trimmedTileSend se queue stallNs errs => Sys2Proof.Machine.execTrimmedTileSend se queue stallNs errs s
  | .mapWaitExpiry se queue errs => Sys2Proof.Machine.execMapWaitExpiry se queue errs s
  | .stackScrub stack errs => Sys2Proof.Machine.execStackScrub stack errs s
  | .scrubRowRead core row errs => Sys2Proof.Machine.execScrubRowRead core row errs s
  | .sramCorrectedWriteback core word => Sys2Proof.Machine.execSramCorrectedWriteback core word s
  | .ringDelivery core vc => Sys2Proof.Machine.execRingDelivery core vc s
  | .packetRoute at_ out pick wire => Sys2Proof.Machine.execPacketRoute at_ out pick wire s
  | .heartbeatPulse p parityOk progress => Sys2Proof.Machine.execHeartbeatPulse p parityOk progress s
  | .coreSilent p => Sys2Proof.Machine.execCoreSilent p s
  | .coreDead p heartbeat => Sys2Proof.Machine.execCoreDead p heartbeat s
  | .detour p => Sys2Proof.Machine.execDetour p s
  | .microbatchReplay => Sys2Proof.Machine.execMicrobatchReplay s
  | .coreExceptionReport core => Sys2Proof.Machine.execCoreExceptionReport core s
  | .coreSuspend core => Sys2Proof.Machine.execCoreSuspend core s
  | .coreResume core => Sys2Proof.Machine.execCoreResume core s
  | .syncArrival root barrier epoch word => Sys2Proof.Machine.execSyncArrival root barrier epoch word s
  | .syncRelease core barrier epoch => Sys2Proof.Machine.execSyncRelease core barrier epoch s
  | .waypointReport waypoint core step => Sys2Proof.Machine.execWaypointReport waypoint core step s
  | .inputSample mv ma => Sys2Proof.Machine.execInputSample mv ma s
  | .powerFail => Sys2Proof.Machine.execPowerFail s
  | .inputRise => Sys2Proof.Machine.execInputRise s
  | .regulatorStatusReport r => Sys2Proof.Machine.execRegulatorStatusReport r s
  | .regulatorReportMissed field => Sys2Proof.Machine.execRegulatorReportMissed field s
  | .phaseFailed field phase => Sys2Proof.Machine.execPhaseFailed field phase s
  | .crackSuspect field sensor => Sys2Proof.Machine.execCrackSuspect field sensor s
  | .thermalSample field readings => Sys2Proof.Machine.execThermalSample field readings s
  | .unparkHoldExpiry field => Sys2Proof.Machine.execUnparkHoldExpiry field s
  | .parkRequest w => Sys2Proof.Machine.execParkRequest w s
  | .wakeRequest w => Sys2Proof.Machine.execWakeRequest w s
  | .vcoreMv w => Sys2Proof.Machine.execVcoreMv w s
  | .clockHalfWrite east w => Sys2Proof.Machine.execClockHalfWrite east w s
  | .sscWrite pll rate w => Sys2Proof.Machine.execSscWrite pll rate w s
  | .clkoutWrite n sub w => Sys2Proof.Machine.execClkoutWrite n sub w s
  | .clockEnableWrite sub w => Sys2Proof.Machine.execClockEnableWrite sub w s
  | .beatPeriodUs w => Sys2Proof.Machine.execBeatPeriodUs w s
  | .hostLease w => Sys2Proof.Machine.execHostLease w s
  | .hostLeaseBeats w => Sys2Proof.Machine.execHostLeaseBeats w s
  | .refSourceLoss code => Sys2Proof.Machine.execRefSourceLoss code s
  | .refEligible code => Sys2Proof.Machine.execRefEligible code s
  | .holdoverExpiry => Sys2Proof.Machine.execHoldoverExpiry s
  | .parealoOpen f => Sys2Proof.Machine.execParealoOpen f s
  | .parealoClose f => Sys2Proof.Machine.execParealoClose f s
  | .sessionExpired session => Sys2Proof.Machine.execSessionExpired session s
  | .parealoRead f k => Sys2Proof.Machine.execParealoRead f k s
  | .parealoWrite f k => Sys2Proof.Machine.execParealoWrite f k s
  | .parealoBegin f k => Sys2Proof.Machine.execParealoBegin f k s
  | .commitOp f k => Sys2Proof.Machine.execCommitOp f k s
  | .parealoRollback f k => Sys2Proof.Machine.execParealoRollback f k s
  | .describe f k => Sys2Proof.Machine.execDescribe f k s
  | .w1cFlagClear idx sub w => Sys2Proof.Machine.execW1cFlagClear idx sub w s
  | .captureEmpty idx sub w => Sys2Proof.Machine.execCaptureEmpty idx sub w s
  | .highWaterReset idx sub w => Sys2Proof.Machine.execHighWaterReset idx sub w s
  | .markCoreDefective w => Sys2Proof.Machine.execMarkCoreDefective w s
  | .releaseFieldLoss w => Sys2Proof.Machine.execReleaseFieldLoss w s
  | .excludeField w => Sys2Proof.Machine.execExcludeField w s
  | .jobStart job w => Sys2Proof.Machine.execJobStart job w s
  | .jobSuspend job w => Sys2Proof.Machine.execJobSuspend job w s
  | .jobResume job w => Sys2Proof.Machine.execJobResume job w s
  | .jobCancel job w => Sys2Proof.Machine.execJobCancel job w s
  | .jobSuspended job => Sys2Proof.Machine.execJobSuspended job s
  | .jobEnd job o => Sys2Proof.Machine.execJobEnd job o s
  | .checkpointDump => Sys2Proof.Machine.execCheckpointDump s
  | .switch w => Sys2Proof.Machine.execSwitch w s
  | .resume w => Sys2Proof.Machine.execResume w s
  | .replayStep w => Sys2Proof.Machine.execReplayStep w s
  | .peerSubstitute w => Sys2Proof.Machine.execPeerSubstitute w s
  | .resetRequest w => Sys2Proof.Machine.execResetRequest w s
  | .resetNLow => Sys2Proof.Machine.execResetNLow s
  | .resetNRise lowUs => Sys2Proof.Machine.execResetNRise lowUs s
  | .management env => Sys2Proof.Machine.execManagement env s
  | .clocksNetwork env => Sys2Proof.Machine.execClocksNetwork env s
  | .microcodeMismatch p => Sys2Proof.Machine.execMicrocodeMismatch p s
  | .memories env => Sys2Proof.Machine.execMemories env s
  | .links epTrained aelifTrained => Sys2Proof.Machine.execLinks epTrained aelifTrained s
  | .compute => Sys2Proof.Machine.execCompute s
  | .bringupRestart field => Sys2Proof.Machine.execBringupRestart field s
  | .failover => Sys2Proof.Machine.execFailover s
  | .mgmtHeartbeat fromB bytes => Sys2Proof.Machine.execMgmtHeartbeat fromB bytes s
  | .fwStageRequest w image => Sys2Proof.Machine.execFwStageRequest w image s
  | .rollbackAdvance w => Sys2Proof.Machine.execRollbackAdvance w s
  | .quoteNonce w sinceLastMs => Sys2Proof.Machine.execQuoteNonce w sinceLastMs s
  | .roleSecret r w => Sys2Proof.Machine.execRoleSecret r w s
  | .debugToken w => Sys2Proof.Machine.execDebugToken w s
  | .jtagProvision secrets address => Sys2Proof.Machine.execJtagProvision secrets address s
  | .lock => Sys2Proof.Machine.execLock s
  | .idcode => Sys2Proof.Machine.execIdcode s
  | .bypass tdi => Sys2Proof.Machine.execBypass tdi s
  | .cvuStart u => Sys2Proof.Machine.execCvuStart u s
  | .cvuFinalise u => Sys2Proof.Machine.execCvuFinalise u s
  | .data8 u v => Sys2Proof.Machine.execData8 u v s
  | .data16 u v => Sys2Proof.Machine.execData16 u v s
  | .data32 u v => Sys2Proof.Machine.execData32 u v s
  | .value u v => Sys2Proof.Machine.execValue u v s
  | .ptpMessageReceive m locked => Sys2Proof.Machine.execPtpMessageReceive m locked s
  | .neighborDiscoveryReceive port advert target linkAddr => Sys2Proof.Machine.execNeighborDiscoveryReceive port advert target linkAddr s
  | .holdUpRunOut => Sys2Proof.Machine.execHoldUpRunOut s
  | .bottomTreeGenerated => Sys2Proof.Machine.execBottomTreeGenerated s
  | .lastFrameSeqRequest lostPort viaPort => Sys2Proof.Machine.execLastFrameSeqRequest lostPort viaPort s
  | .regulatorLoopSample field droopMv outputMv => Sys2Proof.Machine.execRegulatorLoopSample field droopMv outputMv s
  | .pcieLinkTrained width rate => Sys2Proof.Machine.execPcieLinkTrained width rate s

end Sys2Proof.Machine
end

