-- ==== Sys2Proof/Safety.lean ====
section
/-! DEFINITION. Safe runs and safe states, in the terms that the statements use: a run that never stops, the canonical form of every memory,
and the conditions under which a tile instruction issues and an update-program instruction runs. -/

namespace Sys2Proof.Machine

/-- A run is safe from a state: no step of it ends in a fault or a refusal. -/
def SafeFrom (s : State) : Prop := ∀ k, ∃ t, Host.Core.run Sys2Proof.core k s = .next t

/-- The canonical form of the memories: of every core's SRAM and of the stacks. -/
def memoriesOk (cores : List (Nat × Core)) (mem : Mem) : Prop :=
  (∀ e ∈ cores, Memory.wf e.2.sram = true) ∧ Memory.wf mem = true

/-- Every memory of the engine is in its canonical form. -/
def State.MemOk (s : State) : Prop := memoriesOk s.cores s.stk.mem

/-- A core's SRAM is in its canonical form. -/
def Core.MemOk (c : Core) : Prop := Memory.wf c.sram = true

/-- What an instruction leaves at issue has its memories in canonical form. -/
def TOut.MemOk : TOut → Prop
  | .exc _ => True
  | .hold => True
  | .wait s c _ => s.MemOk ∧ c.MemOk
  | .done s c _ => s.MemOk ∧ c.MemOk
  | .late s c _ _ => s.MemOk ∧ c.MemOk
  | .halt s c => s.MemOk ∧ c.MemOk

/-- Where a command answers a next state, its memories are in canonical form. -/
def OutOk (o : Host.Outcome State Fault Refusal) : Prop := ∀ t, o = .next t → t.MemOk

/-! ### The issue of a tile instruction -/

/-- The core as an instruction finds it: its lane generators advanced (R103), progress noted for its heartbeat (R97); a RUNNING core waits
for nothing. -/
def issueCore (s : State) (i : Issue) : Core :=
  { getCore s i.core with
    lanes := (getCore s i.core).lanes.map (fun l => advanceLaneBy l i.cycles)
    wait := if (getCore s i.core).st = .running then none else (getCore s i.core).wait
    progressed := true }

/-- An instruction issues on its core: in the grid, RUNNING (R91), no SRAM error met (R81), and no exception of its fetch (R168). -/
structure Issues (s : State) (i : Issue) : Prop where
  inGrid : inGrid s i.core = true
  running : (getCore s i.core).st = .running
  clean : i.errs = []
  fetch : fetchExc (issueCore s i) = none

/-- The word at the core's program counter spells the instruction (R166, R170 to R173). -/
def Stands (s : State) (i : Issue) (o : Instr) : Prop :=
  ∃ w, instrWord o = some w ∧ spells (fetchWord (issueCore s i)) w = true

/-- The state after an instruction that leaves `c` for its core completes, the next instruction at `pc`. -/
def completed (s : State) (i : Issue) (c : Core) (pc : Nat) : State :=
  setCore s i.core { c with st := .running, wait := none, pc := pc }

/-- What a register-only instruction leaves alone in its core: everything but X, the loop counters, the generators, the membership bits,
the flag words, the waypoint registers and the program counter. -/
structure SameData (c d : Core) : Prop where
  sram : d.sram = c.sram
  poisonLines : d.poisonLines = c.poisonLines
  acc : d.acc = c.acc
  stg : d.stg = c.stg
  ringWr : d.ringWr = c.ringWr
  ringRd : d.ringRd = c.ringRd
  ix : d.ix = c.ix
  ex32 : d.ex32 = c.ex32
  cfg : d.cfg = c.cfg
  lanes : d.lanes = c.lanes

/-! ### Update programs -/

/-- A program engine that exists holds a work item of a group of the table (R230, R239). -/
structure Holds (s : State) (e : EngId) (w : WorkItem) (d : List Byte) : Prop where
  exists_ : engExists s e = true
  item : (getEng s e).item = some w
  group : groupDesc s w.group = some d

/-! ### Committed writes -/

/-- A committed write passes the checks 2 to 10 of R557. -/
structure Accepted (s : State) (key : Nat) (w : WReq) : Prop where
  open_ : writesOpen s w.role key = true
  checks : reqStatus s key w = stOk

/-- The same of a DOMAIN object's write. -/
structure AcceptedDom (s : State) (key : Nat) (w : DReq) : Prop where
  open_ : writesOpen s w.role key = true
  checks : writeStatus s w.role w.inTxn key w.bytes = stOk

end Sys2Proof.Machine
end

