-- ==== Sys2Proof/Certificates/Slice0/Obligations.lean ====
section
/-! DEFINITION. The statements of this slice, for the provers. -/

open Sys2Proof Sys2Proof.Machine

/-- O1. For every command c and state s, a step of s with c put in front of its queue is exec of c on s; a step on an empty queue
answers the same state. (00_scope.md, 95_what_each_step_holds.md) -/
def Obligations.StepRunsTheFrontCommand : Prop :=
  ∀ (s : State),
    (∀ c : Instr, step (s.queue c) = exec c s) ∧
    (s.pending = [] → step s = .next s)

/-- O2. From every state, any number of steps answers a next state: what the manual calls a fault is a state of the engine, never a
stop of the model. (00_scope.md, 07_tile_programs.md, 16_beat_clocks.md) -/
def Obligations.EveryRunIsSafe : Prop := ∀ s : State, SafeFrom s

/-- O3. From every state whose memories are in canonical form (addresses strictly rising, no entry equal to what an unlisted address
reads as), a step that answers a next state answers one whose memories are in canonical form. (04_core.md, 12_streams_memory.md) -/
def Obligations.StepKeepsMemoriesCanonical : Prop :=
  ∀ s t : State, s.MemOk → step s = .next t → t.MemOk

/-- O4. State.reset has every memory in canonical form, no command waiting, no session, no ticket and no placement; every object of
fixed size has its default, such as 1,000 for BEAT_PERIOD_US and 720 for VCORE_MV. Where the tables give a per-module default,
the value is the one that assumption log 4 names. (R394, R417, R432, R452, R472, R475) -/
def Obligations.ResetLeavesTheDefaults : Prop :=
  State.reset.MemOk ∧ State.reset.pending = [] ∧ State.reset.par.isOpen = false ∧ State.reset.par.sessions = [] ∧
  State.reset.host.tickets = [] ∧ State.reset.placement = none ∧ State.reset.cores = [] ∧ inRun State.reset = false ∧
  (∀ key, getN State.reset key = objDefault .x key) ∧ getN State.reset Key.beatPeriodUs = 1000 ∧ getN State.reset Key.vcoreMv = 720

/-- O5. X0 reads as zero and a write to X0 changes nothing; a write of another register is read back from it and from no other; the
pair of an even register has X[n] in bits 31:0 and X[n+1] in bits 63:32; an odd register in a pair field of SEND, RNGK or VCVT
raises ILLEGAL_OPERAND where the instruction issues. (R162) -/
def Obligations.RegisterFileReadsBack : Prop :=
  (∀ (c : Core) (n : BitVec 5) (v : W32),
    xget c 0 = 0 ∧ xset c 0 v = c ∧
    (n ≠ 0 → xget (xset c n v) n = v) ∧
    (∀ m : BitVec 5, m ≠ n → xget (xset c n v) m = xget c m) ∧
    (xodd n = false → (xpair c n).toNat = (xget c (n + 1)).toNat * 2 ^ 32 + (xget c n).toNat)) ∧
  (∀ (s : State) (i : Issue) (n : BitVec 5), Issues s i → xodd n = true →
    let illegal := fun (o : Instr) => Stands s i o → ∃ t, exec o s = .next t ∧ (getCore t i.core).st = .faulted ∧
      (getCore t i.core).excCause = excIllegalOperand
    (∀ an post flits vc trailer xq, illegal (.send i an post flits vc trailer xq n)) ∧
    (∀ ad post key stepSrc xs form count, illegal (.rngk i ad post key stepSrc xs n form count)) ∧
    (∀ ad post key stepSrc xi form count, illegal (.rngk i ad post key stepSrc n xi form count)) ∧
    (∀ f : VcvtFields, f.xi = n → illegal (.vcvt i f)) ∧
    (∀ f : VcvtFields, f.xs = n → illegal (.vcvt i f)))

/-- O6. On a core where they issue and stand at the program counter: NOP changes nothing but the program counter; HALT leaves the
core HALTED once every packet has left its send port, and until then stays at issue; LOOP counts down and branches while its
counter exceeds one, else clears it and falls through; LSET loads a counter from IMM or X[XS]; BR goes to TARGET where its
condition holds and else to the next instruction. Each of these is said to answer a next state with its own effect: NOP, HALT,
LOOP, LSET, BR. (R170, R178) -/
def Obligations.ControlInstructionsComplete : Prop :=
  ∀ (s : State) (i : Issue), Issues s i →
    let c := issueCore s i
    (Stands s i (.nop i) → exec (.nop i) s = .next (completed s i c (c.pc + 1))) ∧
    (sendsHeld s i.core = 0 → (Stands s i (.halt i) → exec (.halt i) s = .next (setCore s i.core { c with st := .halted, wait := none, pc := c.pc + 1 }))) ∧
    (0 < sendsHeld s i.core → (Stands s i (.halt i) → exec (.halt i) s = .next (s))) ∧
    (∀ (ln : BitVec 2) (target : BitVec 13), 1 < c.loops[ln.toNat].toNat →
      (Stands s i (.loop i ln target) → exec (.loop i ln target) s =
        .next (completed s i { c with loops := c.loops.set ln.toNat (c.loops[ln.toNat] - 1) } target.toNat))) ∧
    (∀ (ln : BitVec 2) (target : BitVec 13), c.loops[ln.toNat].toNat ≤ 1 →
      (Stands s i (.loop i ln target) → exec (.loop i ln target) s = .next (completed s i { c with loops := c.loops.set ln.toNat 0 } (c.pc + 1)))) ∧
    (∀ (ln : BitVec 2) (src : Bool) (xs : BitVec 5) (imm : W32),
      (Stands s i (.lset i ln src xs imm) → exec (.lset i ln src xs imm) s =
        .next (completed s i { c with loops := c.loops.set ln.toNat (if src then xget c xs else imm) } (c.pc + 1)))) ∧
    (∀ (xa xb : BitVec 5) (target : BitVec 13),
      let a := xget c xa
      let b := xget c xb
      let go := fun (p : Prop) [Decidable p] => completed s i c (if p then target.toNat else c.pc + 1)
      (Stands s i (.br i 0 xa xb target) → exec (.br i 0 xa xb target) s = .next (go True)) ∧
      (Stands s i (.br i 1 xa xb target) → exec (.br i 1 xa xb target) s = .next (go (a = b))) ∧
      (Stands s i (.br i 2 xa xb target) → exec (.br i 2 xa xb target) s = .next (go (a ≠ b))) ∧
      (Stands s i (.br i 3 xa xb target) → exec (.br i 3 xa xb target) s = .next (go (a.toInt < b.toInt))) ∧
      (Stands s i (.br i 4 xa xb target) → exec (.br i 4 xa xb target) s = .next (go (b.toInt ≤ a.toInt))) ∧
      (Stands s i (.br i 5 xa xb target) → exec (.br i 5 xa xb target) s = .next (go (a.toNat < b.toNat))) ∧
      (Stands s i (.br i 6 xa xb target) → exec (.br i 6 xa xb target) s = .next (go (b.toNat ≤ a.toNat))))

/-- O7. On a core where they issue and stand at the program counter: XLI writes IMM; AGSET sets the named field of a generator (BASE
also moves the cursor, RESET rewinds it); MCJOIN sets or clears one membership bit; FLG puts the sticky word of the named units
into XD and clears the CLEAR bits there; WP writes WAYPOINT[11:0] and, with REPORT and fewer than four reports queued, queues a
report. Each of these is said to answer a next state with its own effect: WP, XLI, AGSET, MCJOIN, FLG. (R170, R178, R183, R189,
R195) -/
def Obligations.ScalarInstructionsComplete : Prop :=
  ∀ (s : State) (i : Issue), Issues s i →
    let c := issueCore s i
    (∀ (xd : BitVec 5) (imm : W32), (Stands s i (.xli i xd imm) → exec (.xli i xd imm) s = .next (completed s i (xset c xd imm) (c.pc + 1)))) ∧
    (∀ (an : BitVec 3) (src : Bool) (xs : BitVec 5) (imm : BitVec 20),
      let v : W32 := if src then xget c xs else imm.setWidth 32
      let g := agGet c an
      (v.toNat ≤ 0x7FFFF → (Stands s i (.agset i an 0 src xs imm) → exec (.agset i an 0 src xs imm) s = .next (completed s i
        (agPut c an { g with base := v.truncate 19, cursor := v.truncate 19, innerLeft := g.innerCount }) (c.pc + 1)))) ∧
      (0 < v.toNat → v.toNat ≤ 8191 → (Stands s i (.agset i an 1 src xs imm) → exec (.agset i an 1 src xs imm) s = .next (completed s i
        (agPut c an { g with innerCount := v.truncate 13 }) (c.pc + 1)))) ∧
      (Stands s i (.agset i an 2 src xs imm) → exec (.agset i an 2 src xs imm) s = .next (completed s i (agPut c an { g with innerStep := v.truncate 20 }) (c.pc + 1))) ∧
      (Stands s i (.agset i an 3 src xs imm) → exec (.agset i an 3 src xs imm) s = .next (completed s i (agPut c an { g with outerStep := v.truncate 20 }) (c.pc + 1))) ∧
      (Stands s i (.agset i an 4 src xs imm) → exec (.agset i an 4 src xs imm) s = .next (completed s i
        (agPut c an { g with cursor := g.base, innerLeft := g.innerCount }) (c.pc + 1)))) ∧
    (∀ group : BitVec 6,
      (Stands s i (.mcjoin i false group true) → exec (.mcjoin i false group true) s =
        .next (completed s i { c with rowGroups := c.rowGroups ||| 1#64 <<< group.toNat } (c.pc + 1))) ∧
      (Stands s i (.mcjoin i false group false) → exec (.mcjoin i false group false) s =
        .next (completed s i { c with rowGroups := c.rowGroups &&& ~~~(1#64 <<< group.toNat) } (c.pc + 1))) ∧
      (Stands s i (.mcjoin i true group true) → exec (.mcjoin i true group true) s =
        .next (completed s i { c with colGroups := c.colGroups ||| 1#64 <<< group.toNat } (c.pc + 1))) ∧
      (Stands s i (.mcjoin i true group false) → exec (.mcjoin i true group false) s =
        .next (completed s i { c with colGroups := c.colGroups &&& ~~~(1#64 <<< group.toNat) } (c.pc + 1)))) ∧
    (∀ (xd : BitVec 5) (clear : BitVec 4),
      (Stands s i (.flg i 0 xd clear) → exec (.flg i 0 xd clear) s =
        .next (completed s i (xset { c with stickyA := c.stickyA &&& ~~~clear } xd (c.stickyA.setWidth 32)) (c.pc + 1))) ∧
      (Stands s i (.flg i 1 xd clear) → exec (.flg i 1 xd clear) s =
        .next (completed s i (xset { c with stickyV := c.stickyV &&& ~~~clear } xd (c.stickyV.setWidth 32)) (c.pc + 1))) ∧
      (s.variant = .x → (Stands s i (.flg i 2 xd clear) → exec (.flg i 2 xd clear) s =
        .next (completed s i (xset { c with stickyC := c.stickyC &&& ~~~clear } xd (c.stickyC.setWidth 32)) (c.pc + 1)))) ∧
      (s.variant = .x → (Stands s i (.flg i 3 xd clear) → exec (.flg i 3 xd clear) s =
        .next (completed s i (xset { c with
          stickyA := c.stickyA &&& ~~~clear, stickyV := c.stickyV &&& ~~~clear, stickyC := c.stickyC &&& ~~~clear }
          xd ((c.stickyA ||| c.stickyV ||| c.stickyC).setWidth 32)) (c.pc + 1)))) ∧
      (s.variant = .l → (Stands s i (.flg i 2 xd clear) → exec (.flg i 2 xd clear) s = .next (completed s i (xset c xd 0) (c.pc + 1))))) ∧
    (∀ w : W32,
      (Stands s i (.wp i false w) → exec (.wp i false w) s = .next (completed s i { c with waypoint := w.setWidth 12 } (c.pc + 1))) ∧
      (c.reports.length < 4 → (Stands s i (.wp i true w) → exec (.wp i true w) s =
        .next (completed s i { c with waypoint := w.setWidth 12, reports := c.reports ++ [⟨w, beatNow s⟩] } (c.pc + 1)))))

/-- O8. On a core where it issues, XOP writes X[XD]: sums, differences and products modulo 2^32, the bitwise functions, shifts by
bits [4:0] of the second operand, the signed minimum and maximum, and the SPECIAL values (column, row, BEAT, STEP,
LOGICAL_COLUMNS, core number); AGREAD of one of the eight generators completes with some value in XD. Each of these is said to
answer a next state with its own effect: XOP. (R170, R178, R165) -/
def Obligations.XopComputes : Prop :=
  ∀ (s : State) (i : Issue) (xd xa xb : BitVec 5) (immb : Bool) (imm : W32), Issues s i →
    let c := issueCore s i
    let a := xget c xa
    let b := if immb then imm else xget c xb
    let gives := fun (func : BitVec 4) (v : W32) => (Stands s i (.xop i xd xa xb func immb imm) → exec (.xop i xd xa xb func immb imm) s = .next (completed s i (xset c xd v) (c.pc + 1)))
    gives 0 (BitVec.ofNat 32 (a.toNat + b.toNat)) ∧
    gives 1 (BitVec.ofInt 32 ((a.toNat : Int) - b.toNat)) ∧
    gives 2 (a &&& b) ∧ gives 3 (a ||| b) ∧ gives 4 (a ^^^ b) ∧
    gives 5 (BitVec.ofNat 32 (a.toNat * 2 ^ (b.toNat % 32))) ∧
    gives 6 (BitVec.ofNat 32 (a.toNat / 2 ^ (b.toNat % 32))) ∧
    gives 7 (BitVec.ofInt 32 (a.toInt / 2 ^ (b.toNat % 32))) ∧
    gives 8 (BitVec.ofNat 32 (a.toNat * b.toNat)) ∧
    gives 9 (BitVec.ofInt 32 (min a.toInt b.toInt)) ∧
    gives 10 (BitVec.ofInt 32 (max a.toInt b.toInt)) ∧
    (b = 0 → gives 11 (BitVec.ofNat 32 i.core.col)) ∧ (b = 1 → gives 11 (BitVec.ofNat 32 i.core.row)) ∧
    (b = 2 → gives 11 (BitVec.ofNat 32 (beatNow s))) ∧ (b = 3 → gives 11 (BitVec.ofNat 32 (beatNow s / 2 ^ 32))) ∧
    (b = 4 → gives 11 (BitVec.ofNat 32 s.stp.step)) ∧ (b = 5 → gives 11 (BitVec.ofNat 32 (s.stp.step / 2 ^ 32))) ∧
    (b = 6 → gives 11 (BitVec.ofNat 32 (logicalCols s))) ∧
    (b = 7 → gives 11 (BitVec.ofNat 32 (i.core.row * logicalCols s + i.core.col))) ∧
    (b.toNat < 8 → Stands s i (.xop i xd xa xb 12 immb imm) →
      ∃ v t, exec (.xop i xd xa xb 12 immb imm) s = .next t ∧ getCore t i.core =
      { xset c xd v with st := .running, wait := none, pc := c.pc + 1 })

/-- O9. On a core where they issue and stand at the program counter, WAITB ABS proceeds when BEAT[31:0] minus X[XS] is zero or more
as a signed number, counting in WAITB_LATE when it is above zero, and else the core is WAITING; WAITB REL waits for BEAT[31:0]
plus COUNT; a waiting core proceeds at the target. SYNC INIT writes EXPECTED into an aligned word of the data region whose
arrivals are fewer; SYNC WAIT stores the raised epoch, injects the one-flit VC0 arrival for its root and waits; when RELEASED is
set a core that waits in it proceeds and clears it. How the arrival lays out its flit is the model's choice (assumption log 21).
Each of these is said to answer a next state with its own effect: WAITB, SYNC_INIT, SYNC_WAIT. (R191, R192, R194) -/
def Obligations.WaitsAndBarriers : Prop :=
  ∀ (s : State) (i : Issue), inGrid s i.core = true → i.errs = [] → fetchExc (issueCore s i) = none →
    let c := issueCore s i
    let now : W32 := BitVec.ofNat 32 (beatNow s)
    (c.st = .running →
      (∀ (xs : BitVec 5) (count : BitVec 16), now = xget c xs →
        (Stands s i (.waitb i false xs count) → exec (.waitb i false xs count) s = .next (completed s i c (c.pc + 1)))) ∧
      (∀ (xs : BitVec 5) (count : BitVec 16), 0 < (now - xget c xs).toInt →
        (Stands s i (.waitb i false xs count) → exec (.waitb i false xs count) s = .next (completed (count64 s Key.waitbLate) i c (c.pc + 1)))) ∧
      (∀ (xs : BitVec 5) (count : BitVec 16), (now - xget c xs).toInt < 0 →
        (Stands s i (.waitb i false xs count) → exec (.waitb i false xs count) s = .next (setCore s i.core { c with st := .waiting, wait := some (.beat (xget c xs)) }))) ∧
      (∀ (xs : BitVec 5) (count : BitVec 16), count ≠ 0 →
        (Stands s i (.waitb i true xs count) → exec (.waitb i true xs count) s =
          .next (setCore s i.core { c with st := .waiting, wait := some (.beat (now + count.setWidth 32)) })))) ∧
    (∀ (rel : Bool) (xs : BitVec 5) (count : BitVec 16) (target : W32), c.st = .waiting → c.wait = some (.beat target) →
      0 ≤ (now - target).toInt → (Stands s i (.waitb i rel xs count) → exec (.waitb i rel xs count) s = .next (completed s i c (c.pc + 1)))) ∧
    (∀ (b : BitVec 4) (xr : BitVec 5) (word : BitVec 19) (expected : BitVec 16), c.st = .running →
      let r := (xget c xr).toNat
      r < 2 ^ 18 → inGrid s ⟨r % 512, r / 512⟩ = true → word.toNat % 8 = 0 → stageEnd c ≤ word.toNat → word.toNat + 8 ≤ contextBase →
      (expected ≠ 0 → leNat (sramRead c word.toNat 2) < expected.toNat → (Stands s i (.syncInit i b xr word expected) → exec (.syncInit i b xr word expected) s =
        .next (completed s i (sramWrite c (word.toNat + 2) (leBytes 2 expected.toNat) false) (c.pc + 1)))) ∧
      (let e := memRead c.sram (word.toNat + 4) + 1
       (Stands s i (.syncWait i b xr word) → exec (.syncWait i b xr word) s =
        .next (setCore (inject s i.core (arrivalPacket ⟨r % 512, r / 512⟩ b e word)) i.core
          { sramWrite c (word.toNat + 4) [e] false with st := .waiting, wait := some (.sync b e word), syncBeats := 0 })))) ∧
    (∀ (b : BitVec 4) (xr : BitVec 5) (e : Byte) (word word' : BitVec 19), c.st = .waiting → c.wait = some (.sync b e word) →
      bit (memRead c.sram (word.toNat + 5)).toNat 0 = true →
      (Stands s i (.syncWait i b xr word') → exec (.syncWait i b xr word') s = .next (completed s i
        { sramWrite c (word.toNat + 5) [memRead c.sram (word.toNat + 5) &&& 0xFE] false with syncBeats := 0 } (c.pc + 1))))

/-- O10. On a core where they issue and stand at the program counter, with aligned and readable operands: LDA of XREG writes the
little-endian word at the generator's address; LDA of a tile fills it with the expansion of its rows (base + r times X[XS]
modulo 2^19), and unexpanded, byte x of row r of a tile of n rows is byte x at the row's address; LDAT puts element j of source
row i into element i of tile row j and keeps every other byte. Each of these is said to answer a next state with its own effect:
LDA, LDAT. (R171, R179, R164, R176) -/
def Obligations.LoadsFillRegistersAndTiles : Prop :=
  ∀ (s : State) (i : Issue), Issues s i →
    let c := issueCore s i
    (∀ (an : BitVec 3) (post : Bool) (exp rows : BitVec 3) (xs : BitVec 5) (ap : BitVec 3) (ppost : Bool),
      let a := (agGet c an).cursor.toNat
      a % 4 = 0 → mayRead c a 4 = true →
      (Stands s i (.lda i 4 an post exp rows xs ap ppost) → exec (.lda i 4 an post exp rows xs ap ppost) s = .next (completed s i
        (xset (consume (agTake c an post).2 (sramPoisoned c a 4)) xs (BitVec.ofNat 32 (leNat (sramRead c a 4)))) (c.pc + 1)))) ∧
    (∀ (dst : BitVec 4) (an : BitVec 3) (post : Bool) (exp rows : BitVec 3) (xs : BitVec 5) (ap : BitVec 3) (ppost : Bool) (r : Nat),
      let c1 := (agTake c an post).2
      let pa := (agGet c1 ap).cursor.toNat
      let as := rowAddrs (agGet c an).cursor.toNat (xget c xs) r
      let len := packedSize exp.toNat / r
      let d := gatherRows c as len
      let t := expandTile exp.toNat (sramRead c pa 64) (wholePoison c exp (sramPoisoned c pa 64)) (tables c) (d.map Prod.fst) (d.map Prod.snd)
      dst.toNat < 4 → rowCode rows = some r → expandBad c exp rows = false → misaligned 8 as = false →
      (∀ a ∈ as, mayRead c a len = true) → (exp ≠ 0 → pa % 64 = 0 ∧ mayRead c pa 64 = true) → tileBusy c dst.toNat = false →
      (Stands s i (.lda i dst an post exp rows xs ap ppost) → exec (.lda i dst an post exp rows xs ap ppost) s = .next (completed s i
        (stgFill (consume (if exp = 0 then c1 else (agTake c1 ap ppost).2) (t.2.1.any id)) dst.toNat t.1 t.2.1 t.2.2) (c.pc + 1))) ∧
      (exp = 0 → t.1.length = 1024 ∧
        ∀ n x, n < r → x < 1024 / r → t.1[n * (1024 / r) + x]? = some (memRead c.sram (as.getD n 0 + x)))) ∧
    (∀ (dst : BitVec 4) (an : BitVec 3) (post : Bool) (rows : BitVec 3) (xs : BitVec 5) (width : BitVec 2) (m1 : BitVec 6) (r : Nat),
      let w := 2 ^ width.toNat
      let n := m1.toNat + 1
      let as := rowAddrs (agGet c an).cursor.toNat (xget c xs) n
      let old := stgGet c dst.toNat
      dst.toNat < 4 → rowCode rows = some r → width ≠ 3 → n ≤ 1024 / (r * w) → misaligned 8 as = false →
      (∀ a ∈ as, mayRead c a (r * w) = true) → tileBusy c dst.toNat = false →
      Stands s i (.ldat i dst an post rows xs width m1) →
        ∃ d, exec (.ldat i dst an post rows xs width m1) s = .next (completed s i d (c.pc + 1)) ∧
        d.sram = c.sram ∧ d.x = c.x ∧ (stgGet d dst.toNat).fill = old.fill + 1 ∧ (stgGet d dst.toNat).scales = old.scales ∧
        (∀ k j b, k < n → j < r → b < w →
          (stgGet d dst.toNat).bytes[j * (1024 / r) + k * w + b]? = some (memRead c.sram (as.getD k 0 + j * w + b))) ∧
        (∀ p, (∀ k j b, k < n → j < r → b < w → p ≠ j * (1024 / r) + k * w + b) →
          (stgGet d dst.toNat).bytes[p]? = old.bytes[p]?))

/-- O11. On a core where they issue and stand at the program counter, with aligned and writable addresses: STV of XREG stores the
word little-endian; STV of a tile and ACCOUT write segment k to base + k times X[XS], with its poison (ACCOUT of words that
agree with their parity bits); INDEX_2_4 classifies the bytes of the A tile into the index set with its tag; ZERO_MAP writes the
64-bit map at the address with bits [2:0] zero, whose bit j is 1 exactly when byte j of any of the tile's sixteen segments is
nonzero or any segment is poisoned, and raises SRAM_REGION where it may not write. Each of these is said to answer a next state
with its own effect: STV, ACCOUT, INDEX_2_4, ZERO_MAP. (R171, R172, R179, R199, R206, R133) -/
def Obligations.StoresWriteSegments : Prop :=
  (∀ (s : State) (i : Issue), Issues s i →
     let c := issueCore s i
     (∀ (an : BitVec 3) (post : Bool) (xs : BitVec 5),
       let a := (agGet c an).cursor.toNat
       a % 4 = 0 → mayWrite c a 4 = true →
       (Stands s i (.stv i 4 an post xs) → exec (.stv i 4 an post xs) s = .next (completed s i
         (sramWrite (agTake c an post).2 a (leBytes 4 (xget c xs).toNat) false) (c.pc + 1)))) ∧
     (∀ (src : BitVec 4) (an : BitVec 3) (post : Bool) (xs : BitVec 5),
       let as := rowAddrs (agGet c an).cursor.toNat (xget c xs) 16
       let t := stgGet c src.toNat
       src.toNat < 4 → misaligned 64 as = false → (∀ a ∈ as, mayWrite c a 64 = true) →
       (Stands s i (.stv i src an post xs) → exec (.stv i src an post xs) s = .next (completed s i
         (writeSegs (agTake c an post).2 as (fun k => (slice t.bytes.toList (64 * k) 64, t.poison[k]?.getD false))) (c.pc + 1)))) ∧
     (∀ (acc : BitVec 2) (ad : BitVec 3) (post : Bool) (xs : BitVec 5),
       let as := rowAddrs (agGet c ad).cursor.toNat (xget c xs) 16
       let t := accGet c acc
       namesOpen c acc = false → parityBad t 256 = false → misaligned 64 as = false → (∀ a ∈ as, mayWrite c a 64 = true) →
       (Stands s i (.accout i acc ad post xs false) → exec (.accout i acc ad post xs false) s = .next (completed s i
         (consume (writeSegs (agTake c ad post).2 as
           (fun k => ((List.range 16).flatMap (fun w => leBytes 4 (t.words[16 * k + w]?.getD 0).toNat), t.poison))) t.poison)
         (c.pc + 1)))) ∧
     (s.variant = .x →
       (∀ asel ixsel : Bool, (Stands s i (.index24 i asel ixsel) → exec (.index24 i asel ixsel) s = .next (completed s i
         (ixPut c ixsel ⟨(stgGet c (if asel then 1 else 0)).bytes.toList.map byteClass, some (asel, (stgGet c (if asel then 1 else 0)).fill)⟩)
         (c.pc + 1)))) ∧
       (∀ (asel : Bool) (ad : BitVec 3) (post : Bool),
         let a := (agGet c ad).cursor.toNat / 8 * 8
         mayWrite c a 8 = true →
         (Stands s i (.zeroMap i asel ad post) → exec (.zeroMap i asel ad post) s = .next (completed s i
           (sramWrite (agTake c ad post).2 a (leBytes 8 (zeroMapOf (stgGet c (if asel then 1 else 0)))) false) (c.pc + 1))))) ∧
     (s.variant = .l → ∀ (asel ixsel : Bool) (ad : BitVec 3) (post : Bool) (m : MmaFields) (drop : Bool) (f : ArrayFault),
       let absent := fun (o : Instr) => Stands s i o → exec o s = .next (takeException s i.core c excUnitAbsent c.pc 0 [])
       absent (.index24 i asel ixsel) ∧ absent (.zeroMap i asel ad post) ∧ absent (.mmas i m drop ixsel f))) ∧
  (∀ (s : State) (i : Issue) (asel : Bool) (ad : BitVec 3) (post : Bool), Issues s i → s.variant = .x →
     let c := issueCore s i
     let a := (agGet c ad).cursor.toNat / 8 * 8
     let t := stgGet c (if asel then 1 else 0)
     (mayWrite c a 8 = false → (Stands s i (.zeroMap i asel ad post) → exec (.zeroMap i asel ad post) s = .next (takeException s i.core c excSramRegion c.pc 0 []))) ∧
     (mayWrite c a 8 = true → Stands s i (.zeroMap i asel ad post) →
        ∃ d, exec (.zeroMap i asel ad post) s = .next (completed s i d (c.pc + 1)) ∧
       (∀ j, j < 64 → ((leNat (sramRead d a 8)).testBit j = true ↔
         (∃ g, g < 16 ∧ t.bytes[64 * g + j]?.getD 0 ≠ 0) ∨ (true ∈ t.poison.toList))) ∧
       (∀ b, b < a ∨ a + 8 ≤ b → memRead d.sram b = memRead c.sram b) ∧
       d.ix = c.ix ∧ d.stickyC = c.stickyC ∧ d.beatC = c.beatC ∧ d.x = c.x))

/-- O12. On a core where they issue and stand at the program counter: SEND of a readable, aligned block with an accepted header with
at most one packet in its send port, injects the flits with their poison, LENGTH set, and the check trailer where asked, and
with two stays at issue; RECV waits while its ring holds too few flits, SKIP advances the read pointer, and a fill takes the
flits at the read pointer; CHK of an SRAM block writes 2 on poison, else 0 where the CRC-32C over the sequence and the payload
is the trailer's, else 1, poisoning the payload lines where POISON is set. Each of these is said to answer a next state with its
own effect: SEND, RECV, CHK. (R171, R173, R174, R181, R182, R188, R177) -/
def Obligations.SendReceiveCheckComplete : Prop :=
  ∀ (s : State) (i : Issue), Issues s i →
    let c := issueCore s i
    (∀ (an : BitVec 3) (post : Bool) (m1 : BitVec 6) (vc : BitVec 2) (trailer : Bool) (xq xh : BitVec 5),
      let a := (agGet c an).cursor.toNat
      let n := m1.toNat + 1
      let h := withLength (xpair c xh) (n + b2n trailer)
      let data : List Flit := (List.range n).map (fun k => ⟨sramRead c (a + 64 * k) 64, sramPoisoned c (a + 64 * k) 64⟩)
      let tail : List Flit := if trailer then
        [⟨leBytes 4 (crc32c (leBytes 4 (xget c xq).toNat ++ sramRead c a (64 * n))) ++ List.replicate 60 0, false⟩] else []
      vc ≠ 0 → xodd xh = false → n + b2n trailer ≤ 64 → a % 64 = 0 → mayRead c a (64 * n) = true → headerRefused s h vc.toNat = false →
      (2 ≤ sendsHeld s i.core → (Stands s i (.send i an post m1 vc trailer xq xh) → exec (.send i an post m1 vc trailer xq xh) s = .next (s))) ∧
      (sendsHeld s i.core < 2 → (Stands s i (.send i an post m1 vc trailer xq xh) → exec (.send i an post m1 vc trailer xq xh) s = .next (completed (inject s i.core ⟨h, vc, data ++ tail⟩) i
        (consume (agTake c an post).2 (anyPoison data)) (c.pc + 1))))) ∧
    (∀ (ring exp rows : BitVec 3) (m1 : BitVec 6), ringPages c ring.toNat ≠ 0 → m1.toNat + 1 ≤ ringHeld c ring.toNat →
      (Stands s i (.recv i ring 4 exp rows m1) → exec (.recv i ring 4 exp rows m1) s = .next (completed s i (ringAdvance c ring.toNat (m1.toNat + 1)) (c.pc + 1)))) ∧
    (∀ (ring exp rows : BitVec 3) (m1 : BitVec 6), ringPages c ring.toNat ≠ 0 → ringHeld c ring.toNat < m1.toNat + 1 →
      (Stands s i (.recv i ring 4 exp rows m1) → exec (.recv i ring 4 exp rows m1) s =
        .next (setCore s i.core { c with st := .waiting, wait := some (.ring ring.toNat (m1.toNat + 1)) }))) ∧
    (∀ (ring dst exp rows : BitVec 3),
      let need := packedSize exp.toNat / 64 + b2n (exp != 0)
      let fs := ringFlits c ring.toNat need
      let param := if exp = 0 then ([], false) else fs.headD ([], false)
      let data := if exp = 0 then fs else fs.drop 1
      let t := expandTile exp.toNat param.1 (wholePoison c exp param.2) (tables c) (data.flatMap Prod.fst) (data.flatMap (fun f => List.replicate 64 f.2))
      ringPages c ring.toNat ≠ 0 → dst.toNat < 4 → rowCode rows ≠ none → expandBad c exp rows = false → need ≤ ringHeld c ring.toNat →
      tileBusy c dst.toNat = false →
      (Stands s i (.recv i ring dst exp rows 0) → exec (.recv i ring dst exp rows 0) s = .next (completed s i
        (stgFill (consume (ringAdvance c ring.toNat need) (t.2.1.any id)) dst.toNat t.1 t.2.1 t.2.2) (c.pc + 1)))) ∧
    (∀ (an : BitVec 3) (post : Bool) (m1 : BitVec 6) (xq xd : BitVec 5) (poison : Bool),
      let a := (agGet c an).cursor.toNat
      let n := m1.toNat + 1
      let c1 := (agTake c an post).2
      let ls := (List.range (n + 1)).map (fun k => a + 64 * k)
      let payload := (ls.take n).flatMap (fun l => sramRead c l 64)
      let good := crc32c (leBytes 4 (xget c xq).toNat ++ payload) = field (sramRead c (a + 64 * n) 64) 0 4
      a % 64 = 0 → mayRead c a (64 * (n + 1)) = true →
      (ls.any (fun l => sramPoisoned c l 64) = true →
        (Stands s i (.chk i false an post m1 xq xd poison) → exec (.chk i false an post m1 xq xd poison) s = .next (completed s i (xset (consume c1 true) xd 2) (c.pc + 1)))) ∧
      (ls.any (fun l => sramPoisoned c l 64) = false → good →
        (Stands s i (.chk i false an post m1 xq xd poison) → exec (.chk i false an post m1 xq xd poison) s = .next (completed s i (xset c1 xd 0) (c.pc + 1)))) ∧
      (ls.any (fun l => sramPoisoned c l 64) = false → ¬good →
        (Stands s i (.chk i false an post m1 xq xd poison) → exec (.chk i false an post m1 xq xd poison) s = .next (completed s i
          (xset (if poison then { c1 with poisonLines := (ls.take n).foldl (fun ps l => nsIns (l / 64) ps) c1.poisonLines } else c1) xd 1)
          (c.pc + 1))))) ∧
    (∀ (ring : BitVec 3) (post : Bool) (m1 : BitVec 6) (xq xd : BitVec 5) (poison : Bool),
      let n := m1.toNat + 1
      ringPages c ring.toNat ≠ 0 →
      (ringHeld c ring.toNat < n + 1 → (Stands s i (.chk i true ring post m1 xq xd poison) → exec (.chk i true ring post m1 xq xd poison) s =
        .next (setCore s i.core { c with st := .waiting, wait := some (.ring ring.toNat (n + 1)) }))) ∧
      (n + 1 ≤ ringHeld c ring.toNat → Stands s i (.chk i true ring post m1 xq xd poison) →
        ∃ d, exec (.chk i true ring post m1 xq xd poison) s = .next (completed s i d (c.pc + 1)) ∧
        d.ringRd = c.ringRd ∧ d.ringWr = c.ringWr ∧ d.sram = c.sram))

/-- O13. On a core where they issue and stand at the program counter, with valid operands, clean segments and a fault-free array:
ACCZ writes 256 words of +0 and clears the poison bit; MMA leaves in its tile the accumulation of the chunk where the
comparisons pass, counts the chunk and its cycles, and changes no SRAM, register or other tile, and where they fail twice the
core is FAULTED with ARRAY_CHECK; the passes of an EX32 chunk open it and go on, and pass 5 does as MMA does and closes it; MMAS
does the same over the elements that the selector feeds. Each of these is said to answer a next state with its own effect: MMA,
MMAS, MMAX, ACCZ. (R111, R119, R121, R126, R127, R132, R134, R137, R184) -/
def Obligations.ArrayInstructionsComplete : Prop :=
  ∀ (s : State) (i : Issue), Issues s i →
    let c := issueCore s i
    let clean : ArrayFault := ⟨[], [], false, false, false⟩
    (∀ acc : BitVec 2, namesOpen c acc = false →
      (Stands s i (.accz i acc) → exec (.accz i acc) s = .next (completed s i (accPut c acc ⟨Vector.replicate 256 0, 0, false⟩) (c.pc + 1)))) ∧
    (∀ (m : MmaFields) (pass : BitVec 3) (f : ArrayFault), arrayOperandBad 2 m = false → pass.toNat < 5 → mmaxBad c m pass.toNat = false →
      (Stands s i (.mmax i m pass f) → exec (.mmax i m pass f) s = .next (completed (addN s Key.arrayBusyCycles 64 32) i
        { c with ex32 := some ⟨m, pass.toNat + 1⟩ } (c.pc + 1)))) ∧
    (∀ m : MmaFields,
      let chunk := chunkOf c m noMask
      let r := tryChunk (getN s Key.checkTolUlp) chunk (m.kcM1.toNat + 1) []
      let new := accumulateTile (accGet c m.acc).words.toList chunk r.cells
      let after := fun (t : State) (cycles : Nat) =>
        let d := getCore t i.core
        (r.ok = true → d.st = .running ∧ d.pc = c.pc + 1 ∧
          accGet d m.acc = accOf (vecOf 256 (fun k => new.1.getD k 0)) (accGet c m.acc).poison ∧
          (∀ k : BitVec 2, k ≠ m.acc → accGet d k = accGet c k) ∧
          d.sram = c.sram ∧ d.x = c.x ∧ d.stg = c.stg ∧ d.ex32 = none ∧
          getN t Key.chunksChecked = satAdd 64 (getN s Key.chunksChecked) 1 ∧
          getN t Key.arrayBusyCycles = satAdd 64 (getN s Key.arrayBusyCycles) cycles) ∧
        (r.ok = false → d.st = .faulted ∧ d.excCause = excArrayCheck ∧ (accGet d m.acc).poison = true)
      instrPoisoned c m = false → parityBad (accGet c m.acc) (chunk.a.length * chunk.b.length) = false →
      (arrayOperandBad 0 m = false → c.ex32 = none → Stands s i (.mma i m clean) →
        ∃ t, exec (.mma i m clean) s = .next t ∧ after t (chunkCycles m.shape m.fmt)) ∧
      (arrayOperandBad 2 m = false → mmaxBad c m 5 = false → Stands s i (.mmax i m 5 clean) →
        ∃ t, exec (.mmax i m 5 clean) s = .next t ∧ after t 32)) ∧
    (∀ (m : MmaFields) (drop ixsel : Bool), s.variant = .x → arrayOperandBad 1 m = false → c.ex32 = none → instrPoisoned c m = false →
      let set := if (ixGet c ixsel).tag = some (m.asel, (stgGet c (aTile m)).fill) then ixGet c ixsel else buildIndex c m.asel
      let sel := selectChunk c m drop set
      let chunk := chunkOf c m (fun r k => !sel.fed.contains (r, k))
      let r := tryChunk (getN s Key.checkTolUlp) chunk (m.kcM1.toNat + 1) []
      parityBad (accGet c m.acc) (chunk.a.length * chunk.b.length) = false → sel.beyond = false → Stands s i (.mmas i m drop ixsel clean) →
      ∃ t, exec (.mmas i m drop ixsel clean) s = .next t ∧
        let d := getCore t i.core
        (r.ok = true → d.st = .running ∧ d.pc = c.pc + 1 ∧
          accGet d m.acc = accOf (vecOf 256 (fun k => (accumulateTile (accGet c m.acc).words.toList chunk r.cells).1.getD k 0))
            (accGet c m.acc).poison ∧
          ixGet d ixsel = set ∧ d.sram = c.sram ∧ d.x = c.x ∧ d.stg = c.stg ∧
          getN t Key.mmasChunks = satAdd 64 (getN s Key.mmasChunks) 1) ∧
        (r.ok = false → d.st = .faulted ∧ d.excCause = excArrayCheck ∧ getN t Key.mmasChunks = getN s Key.mmasChunks))

/-- O14. An MMA whose first computation fails is counted as a mismatch with CHECK_MISMATCH set; where the retry passes the result is
the retry's and RETRIES_PASSED rises; where it fails too, the core enters FAULTED with cause ARRAY_CHECK, the recorded program
counter names the next instruction, the ARRAY_FAULT report leaves with the data of the failed check and the other core flags do
not change. (R131, R132, R137, R169) -/
def Obligations.FailedChunkRaisesArrayCheck : Prop :=
  ∀ (s : State) (i : Issue) (m : MmaFields) (f : ArrayFault), Issues s i → Stands s i (.mma i m f) → arrayOperandBad 0 m = false →
    (issueCore s i).ex32 = none →
    let c := issueCore s i
    let chunk := chunkOf c m noMask
    let first := tryChunk (getN s Key.checkTolUlp) chunk (m.kcM1.toNat + 1) f.first
    let second := tryChunk (getN s Key.checkTolUlp) chunk (m.kcM1.toNat + 1) f.retry
    first.ok = false ∨ f.addersFirst = true →
    ∃ t, exec (.mma i m f) s = .next t ∧ getN t Key.mismatchesTotal = satAdd 64 (getN s Key.mismatchesTotal) 1 ∧
      bit (getN t Key.arrayFlags) 0 = true ∧
      (second.ok = true → f.addersRetry = false → (getCore t i.core).st = .running ∧
        getN t Key.retriesPassed = satAdd 64 (getN s Key.retriesPassed) 1 ∧
        (accGet (getCore t i.core) m.acc).words =
          vecOf 256 (fun k => (accumulateTile (accGet c m.acc).words.toList chunk second.cells).1.getD k 0)) ∧
      (second.ok = false ∨ f.addersRetry = true → (getCore t i.core).st = .faulted ∧ (getCore t i.core).excCause = excArrayCheck ∧
        (getCore t i.core).excPc = c.pc + 1 ∧ (accGet (getCore t i.core) m.acc).poison = true ∧
        bit (getN t Key.arrayFlags) 1 = true ∧
        t.out = s.out ++ [.vc0Report 1 ([coreWord i.core, excArrayCheck, c.pc + 1] ++ checkData s i.core m first)] ∧
        getN t Key.coreFlags = getN s Key.coreFlags)

/-- O15. On a core where they issue and stand at the program counter, with COUNT at least one, even registers in the pair fields,
known formats, and every vector's addresses aligned and in its regions, each completes at the next instruction and leaves X and
the tiles alone; with COUNT 1, VOP writes its function of the lanes of a, b and c, VRED its tree over the lanes, VCVT its
sixteen conversions, and RNGK and RNGF their sixteen draws, raw or as FP32 in [0, 1), and every other SRAM byte stays. Each of
these is said to answer a next state with its own effect: VOP, VRED, VCVT, RNGK, RNGF. (R100, R101, R103, R104, R143, R162,
R164, R173, R185, R186) -/
def Obligations.VectorInstructionsComplete : Prop :=
  ∀ (s : State) (i : Issue), Issues s i →
    let c := issueCore s i
    let at_ := fun (n : BitVec 3) => (agGet c n).cursor.toNat
    let same := fun (d : Core) => d.x = c.x ∧ d.stg = c.stg ∧ d.acc = c.acc
    let others := fun (d : Core) (a n : Nat) => ∀ b, b < a ∨ a + n ≤ b → memRead d.sram b = memRead c.sram b
    (∀ (func : BitVec 6) (ad aa ab ac : BitVec 3) (scalb : Bool) (xb : BitVec 5) (post : BitVec 4) (count : BitVec 14) (ra rb rc : Bool),
      vopReads func.toNat = some (ra, rb, rc) → count ≠ 0 →
      let useB := rb && !scalb
      let v := (agVectors [ad, aa, ab, ac] (vopUses ad aa ab ac useB rc post) count.toNat c).1
      (∀ as ∈ v, as.getD 0 0 % 4 = 0 ∧ mayWrite c (as.getD 0 0) 64 = true ∧ as.getD 1 0 % 4 = 0 ∧ mayRead c (as.getD 1 0) 64 = true ∧
        (useB = true → as.getD 2 0 % 4 = 0 ∧ mayRead c (as.getD 2 0) 64 = true) ∧
        (rc = true → as.getD 3 0 % 4 = 0 ∧ mayRead c (as.getD 3 0) 64 = true)) →
      Stands s i (.vop i func ad aa ab ac scalb xb post count) →
      ∃ d, exec (.vop i func ad aa ab ac scalb xb post count) s = .next (completed s i d (c.pc + 1)) ∧ same d ∧
        (count = 1 → others d (at_ ad) 64 ∧
          let lane := fun (n : BitVec 3) (l : Nat) => BitVec.ofNat 32 (leNat (sramRead c (at_ n + 4 * l) 4))
          ∀ l, l < 16 → sramRead d (at_ ad + 4 * l) 4 = leBytes 4 (vopElem func.toNat (lane aa l)
            (if useB then lane ab l else xget c xb) (if rc then lane ac l else 0)).1.toNat)) ∧
    (∀ (func : BitVec 2) (ad aa : BitVec 3) (pd pa : Bool) (count : BitVec 14), count ≠ 0 →
      let v := (agVectors [ad, aa] (agUses [(ad, pd), (aa, pa)]) count.toNat c).1
      (∀ as ∈ v, (∀ a ∈ as, a % 4 = 0) ∧ mayWrite c (as.getD 0 0) 4 = true ∧ mayRead c (as.getD 1 0) 64 = true) →
      Stands s i (.vred i func ad aa pd pa count) →
      ∃ d, exec (.vred i func ad aa pd pa count) s = .next (completed s i d (c.pc + 1)) ∧ same d ∧
        (count = 1 → others d (at_ ad) 4 ∧
          sramRead d (at_ ad) 4 = leBytes 4 (vredVector func (vecRead c (at_ aa))).1.toNat)) ∧
    (∀ f : VcvtFields, f.count ≠ 0 → f.srcf.toNat ≤ 10 → f.dstf.toNat ≤ 10 → (f.srcf = 0 ∨ f.dstf = 0) →
      xodd f.xi = false → xodd f.xs = false →
      let v := (agVectors [f.ad, f.aa] (agUses [(f.ad, f.postD), (f.aa, f.postA)]) f.count.toNat c).1
      (∀ as ∈ v, (∀ a ∈ as, a % 4 = 0) ∧ mayWrite c (as.getD 0 0) (vecLen f.dstf.toNat) = true ∧
        mayRead c (as.getD 1 0) (vecLen f.srcf.toNat) = true) →
      Stands s i (.vcvt i f) →
      ∃ d, exec (.vcvt i f) s = .next (completed s i d (c.pc + 1)) ∧ same d ∧
        (f.count = 1 → others d (at_ f.ad) (vecLen f.dstf.toNat) ∧
          sramRead d (at_ f.ad) (vecLen f.dstf.toNat) = leBytes (vecLen f.dstf.toNat) (pack (fmtBits f.dstf.toNat)
            ((List.range 16).map (fun l => (vcvtElem f (element f.srcf.toNat (sramRead c (at_ f.aa) (vecLen f.srcf.toNat)) l)
              (vcvtDraw s c f 0 l)).1))))) ∧
    (∀ (ad : BitVec 3) (post : Bool) (key : BitVec 4) (src : Bool) (xs xi : BitVec 5) (form : Bool) (count : BitVec 14), count ≠ 0 →
      let v := (agVectors [ad] (agUses [(ad, post)]) count.toNat c).1
      (∀ as ∈ v, (∀ a ∈ as, a % 4 = 0 ∧ mayWrite c a 64 = true)) →
      let writes := fun (d : Core) (draw : Nat → W32) => same d ∧ (count = 1 → others d (at_ ad) 64 ∧
        ∀ l, l < 16 → sramRead d (at_ ad + 4 * l) 4 = leBytes 4 (if form then unitF32 (draw l) else draw l).toNat)
      (xodd xi = false → xodd xs = false → Stands s i (.rngk i ad post key src xs xi form count) →
        ∃ d, exec (.rngk i ad post key src xs xi form count) s = .next (completed s i d (c.pc + 1)) ∧
          writes d (fun l =>
            keyed32 (BitVec.ofNat 64 (getN s (Key.keyActiveLo key.toNat))) (BitVec.ofNat 64 (getN s (Key.keyActiveHi key.toNat)))
              (if src then xpair c xs else BitVec.ofNat 64 s.stp.step) (xpair c xi + BitVec.ofNat 64 l))) ∧
      (Stands s i (.rngf i ad post form count) →
        ∃ d, exec (.rngf i ad post form count) s = .next (completed s i d (c.pc + 1)) ∧
          writes d (fun l => free32 (c.lanes[l]?.getD 0))))

/-- O16. Where NOP, HALT, LOOP, LSET, BR, WAITB, WP, XLI, XOP, AGSET, MCJOIN or FLG stands at the program counter, issues and raises
no exception (HALT with its send port empty, a reporting WP with room in its queue), the core keeps its SRAM, poison, tiles,
rings, index sets, configuration and lanes; X changes only at XD of XLI, XOP and FLG; every other core is unchanged, and nothing
else of the engine changes but, by WAITB, the count of late waits (and the model's free counter, by AGREAD). (R161, R178, R183,
R184, R189, R194, R195) -/
def Obligations.RegisterInstructionsKeepData : Prop :=
  ∀ (s t : State) (i : Issue), Issues s i →
    let c := issueCore s i
    let d := getCore t i.core
    let keeps := fun (o : Instr) (xd : BitVec 5) => Stands s i o → exec o s = .next t → d.st ≠ .faulted →
      SameData c d ∧ (∀ n, n ≠ xd → xget d n = xget c n) ∧ (∀ k, coreKey k ≠ coreKey i.core → getCore t k = getCore s k) ∧
      (∀ k, k ≠ Key.waitbLate → getN t k = getN s k) ∧
      t = { s with cores := t.cores, objs := t.objs, change := t.change, changes := t.changes, free := t.free }
    let still := fun (o : Instr) => Stands s i o → exec o s = .next t → d.st ≠ .faulted → t.objs = s.objs ∧ t.changes = s.changes
    keeps (.nop i) 0 ∧ (sendsHeld s i.core = 0 → keeps (.halt i) 0) ∧
    (∀ ln target, keeps (.loop i ln target) 0) ∧
    (∀ ln src xs imm, keeps (.lset i ln src xs imm) 0) ∧
    (∀ cond xa xb target, keeps (.br i cond xa xb target) 0) ∧
    (∀ rel xs count, keeps (.waitb i rel xs count) 0) ∧
    (∀ report w, (report = true → c.reports.length < 4) → keeps (.wp i report w) 0 ∧ still (.wp i report w)) ∧
    (∀ xd imm, keeps (.xli i xd imm) xd ∧ still (.xli i xd imm)) ∧
    (∀ xd xa xb func immb imm, keeps (.xop i xd xa xb func immb imm) xd ∧ still (.xop i xd xa xb func immb imm)) ∧
    (∀ an fld src xs imm, keeps (.agset i an fld src xs imm) 0 ∧ still (.agset i an fld src xs imm)) ∧
    (∀ column group join, keeps (.mcjoin i column group join) 0 ∧ still (.mcjoin i column group join)) ∧
    (∀ unit xd clear, keeps (.flg i unit xd clear) xd ∧ still (.flg i unit xd clear))

/-- O17. Where one of these stands at the program counter, issues and raises no exception, every SRAM byte of its core outside the
bytes that the instruction names as stored (the sixteen segments, the word, the map, each vector at its generator's address, the
barrier word) reads as before, every X register and every other core is unchanged. (R171, R179, R185, R186, R192, R206) -/
def Obligations.StoringInstructionsTouchOnlyTheirBytes : Prop :=
  ∀ (s t : State) (i : Issue), Issues s i →
    let c := issueCore s i
    let d := getCore t i.core
    let keeps := fun (o : Instr) (stored : List (Nat × Nat)) => Stands s i o → exec o s = .next t → d.st ≠ .faulted →
      (∀ a, (∀ e ∈ stored, a < e.1 ∨ e.1 + e.2 ≤ a) → memRead d.sram a = memRead c.sram a) ∧ d.x = c.x ∧
      (∀ k, coreKey k ≠ coreKey i.core → getCore t k = getCore s k)
    let at_ := fun (n : BitVec 3) => (agGet c n).cursor.toNat
    let vectors := fun (v : List (List Nat)) (len : Nat) => v.map (fun as => (as.getD 0 0, len))
    (∀ (an : BitVec 3) (post : Bool) (xs : BitVec 5), keeps (.stv i 4 an post xs) [(at_ an, 4)]) ∧
    (∀ (src : BitVec 4) (an : BitVec 3) (post : Bool) (xs : BitVec 5), src ≠ 4 →
      keeps (.stv i src an post xs) ((rowAddrs (at_ an) (xget c xs) 16).map (fun a => (a, 64)))) ∧
    (∀ (acc : BitVec 2) (ad : BitVec 3) (post : Bool) (xs : BitVec 5) (parity : Bool),
      keeps (.accout i acc ad post xs parity) ((rowAddrs (at_ ad) (xget c xs) 16).map (fun a => (a, 64)))) ∧
    (∀ (asel : Bool) (ad : BitVec 3) (post : Bool), keeps (.zeroMap i asel ad post) [(at_ ad / 8 * 8, 8)]) ∧
    (∀ (func : BitVec 6) (ad aa ab ac : BitVec 3) (scalb : Bool) (xb : BitVec 5) (post : BitVec 4) (count : BitVec 14) (ra rb rc : Bool),
      vopReads func.toNat = some (ra, rb, rc) → keeps (.vop i func ad aa ab ac scalb xb post count)
        (vectors (agVectors [ad, aa, ab, ac] (vopUses ad aa ab ac (rb && !scalb) rc post) count.toNat c).1 64)) ∧
    (∀ (func : BitVec 2) (ad aa : BitVec 3) (pd pa : Bool) (count : BitVec 14),
      keeps (.vred i func ad aa pd pa count) (vectors (agVectors [ad, aa] (agUses [(ad, pd), (aa, pa)]) count.toNat c).1 4)) ∧
    (∀ f : VcvtFields, keeps (.vcvt i f)
      (vectors (agVectors [f.ad, f.aa] (agUses [(f.ad, f.postD), (f.aa, f.postA)]) f.count.toNat c).1 (vecLen f.dstf.toNat))) ∧
    (∀ (ad : BitVec 3) (post : Bool) (key : BitVec 4) (src : Bool) (xs xi : BitVec 5) (form : Bool) (count : BitVec 14),
      keeps (.rngk i ad post key src xs xi form count) (vectors (agVectors [ad] (agUses [(ad, post)]) count.toNat c).1 64) ∧
      keeps (.rngf i ad post form count) (vectors (agVectors [ad] (agUses [(ad, post)]) count.toNat c).1 64)) ∧
    (∀ (b : BitVec 4) (xr : BitVec 5) (word : BitVec 19) (expected : BitVec 16),
      keeps (.syncInit i b xr word expected) [(word.toNat, 2), (word.toNat + 2, 2)] ∧ keeps (.syncWait i b xr word) [(word.toNat + 4, 1)])

/-- O18. Taking an exception with a cause of R168: the core is FAULTED, the cause and program counter are recorded and it waits for
nothing; its count rises; where the capture was empty it holds the core, the cause, the program counter and the beat, and is no
longer empty, and a full capture stays; every cause but ARRAY_CHECK sets CORE_EXCEPTION and sends the CORE_EXCEPTION report,
ARRAY_CHECK sends the ARRAY_FAULT report; no other core changes. An instruction that issues where the fetch raises an exception
takes it. (R94, R95, R132, R168, R169) -/
def Obligations.ExceptionsRecordAndReport : Prop :=
  (∀ (s : State) (id : CoreId) (c : Core) (code pc chunkPc : Nat) (report : List Nat), 1 ≤ code → code ≤ 12 →
    let t := takeException s id c code pc chunkPc report
    let d := getCore t id
    d.st = .faulted ∧ d.excCause = code ∧ d.excPc = pc ∧ d.pc = pc ∧ d.wait = none ∧ d.x = c.x ∧
    getN t (Key.excCount 0 + code - 1) = satAdd 32 (getN s (Key.excCount 0 + code - 1)) 1 ∧
    (getN s Key.excCaptureEmpty = 1 → getN t Key.excCaptureCore = coreWord id ∧ getN t Key.excCaptureCause = code ∧
      getN t Key.excCapturePc = pc ∧ getN t Key.excCaptureChunkPc = chunkPc ∧ getN t Key.excCaptureBeat = beatNow s ∧
      getN t Key.excCaptureEmpty = 0) ∧
    (getN s Key.excCaptureEmpty ≠ 1 → getN t Key.excCaptureCore = getN s Key.excCaptureCore ∧
      getN t Key.excCaptureCause = getN s Key.excCaptureCause ∧ getN t Key.excCapturePc = getN s Key.excCapturePc) ∧
    (code ≠ excArrayCheck → bit (getN t Key.coreFlags) 2 = true ∧ t.out = s.out ++ [.vc0Report 2 [coreWord id, code, pc]]) ∧
    (code = excArrayCheck → getN t Key.coreFlags = getN s Key.coreFlags ∧ t.out = s.out ++ [.vc0Report 1 ([coreWord id, code, pc] ++ report)]) ∧
    (∀ k, coreKey k ≠ coreKey id → getCore t k = getCore s k)) ∧
  (∀ (s : State) (i : Issue) (code : Nat), inGrid s i.core = true → (getCore s i.core).st = .running → i.errs = [] →
    fetchExc (issueCore s i) = some code →
    let taken := fun (o : Instr) => exec o s = .next (takeException s i.core (issueCore s i) code (issueCore s i).pc 0 [])
    taken (.nop i) ∧ taken (.halt i) ∧ (∀ x m, taken (.xli i x m)) ∧ (∀ n a b g, taken (.br i n a b g)) ∧
    (∀ a, taken (.accz i a)) ∧ (∀ m f, taken (.mma i m f)) ∧ (∀ q n p m v e x h, taken (.send i q p m v e x h) ∧ taken (.rngf i q p n (m.setWidth 14))))

/-- O19. For a running core, CORE_SUSPEND followed by CORE_RESUME gives a running core with the same X registers, generators, loop
counters, program counter and ring read pointers (as 32-bit numbers), lanes, sticky words, accumulators with their poison, and
staging tiles with their poison and scales (their fill counts advance by one), and every SRAM byte below the context area is
unchanged. (R92, R93, R96, R135) -/
def Obligations.SuspendThenResumeKeepsTheContext : Prop :=
  ∀ (s : State) (id : CoreId),
    let c := getCore s id
    c.st = .running →
    ∃ t u, exec (.coreSuspend id) s = .next t ∧ (getCore t id).st = .suspended ∧ exec (.coreResume ⟨id, []⟩) t = .next u ∧
      let d := getCore u id
      d.st = .running ∧ d.wait = none ∧ d.x = c.x ∧ d.ag = c.ag ∧ d.loops = c.loops ∧ d.pc = c.pc % 2 ^ 32 ∧
      (∀ r : Fin 8, d.ringRd[r] = c.ringRd[r] % 2 ^ 32) ∧ d.ringWr = c.ringWr ∧
      d.lanes = c.lanes ∧ d.stickyA = c.stickyA ∧ d.stickyV = c.stickyV ∧ d.stickyC = c.stickyC ∧
      (∀ k : Fin 4, d.acc[k].words = c.acc[k].words ∧ d.acc[k].poison = c.acc[k].poison) ∧
      (∀ k : Fin 4, d.stg[k] = { c.stg[k] with fill := c.stg[k].fill + 1 }) ∧
      (∀ a, a < contextBase → memRead d.sram a = memRead c.sram a)

/-- O20. On an existing engine that holds a work item of a group of the table, NOP changes no register, and FADD, FSUB, FMUL, FMA,
FMIN, FMAX, FABS, FNEG, FSGN, CMPLT, CMPLE, SEL, RCP, RSQRT, DIV, SQRT, EXP2 and LOG2 write VD (VB and VC may name K registers)
and no other register; the unit's busy cycles rise by the opcode's cycles for each pass, and neither the stacks nor another
engine change. Each of these is said to answer a next state with its own effect: UPDATE_NOP, FADD, FSUB, FMUL, FMA, FMIN, FMAX,
FABS, FNEG, FSGN, CMPLT, CMPLE, SEL, RCP, RSQRT, DIV, SQRT, EXP2, LOG2. (R241, R243, R155, R257) -/
def Obligations.UpdateArithmeticComplete : Prop :=
  ∀ (s : State) (e : EngId) (w : WorkItem) (d : List Byte), Holds s e w d →
    let p := getEng s e
    let ran := fun (c : Instr) (q : PEng) (cycles : Nat) => ∃ t, exec c s = .next t ∧ getEng t e = { q with begun := true } ∧
      getN t (Key.uuEngineBusyCycles e.unit) = satAdd 64 (getN s (Key.uuEngineBusyCycles e.unit)) (4 * w.blocks * cycles) ∧
      t.stk = s.stk ∧ (∀ e', engKey e' ≠ engKey e → getEng t e' = getEng s e') ∧ t.update.groups = s.update.groups
    let val := fun (n : BitVec 4) (k : Bool) (i : Nat) =>
      if k then p.k.getD n.toNat 0 else (p.v.getD n.toNat []).getD i 0
    let gives := fun (c : Instr) (o : UOps) (cycles : Nat) (f : W32 → W32 → W32 → W32) =>
      ran c { p with v := setAt ((List.range (256 * w.blocks)).map
        (fun i => f (val o.va false i) (val o.vb o.kb i) (val o.vc o.kc i))) p.v o.vd.toNat } cycles
    ran (.updateNop e) p 1 ∧
    (∀ o : UOps,
      gives (.fadd e o) o 1 (fun a b _ => (f32Add a b).1) ∧ gives (.fsub e o) o 1 (fun a b _ => (f32Sub a b).1) ∧
      gives (.fmul e o) o 1 (fun a b _ => (f32Mul a b).1) ∧ gives (.fma e o) o 1 (fun a b c => (f32Fma a b c).1) ∧
      gives (.fmin e o) o 1 (fun a b _ => f32Min a b) ∧ gives (.fmax e o) o 1 (fun a b _ => f32Max a b) ∧
      gives (.cmplt e o) o 1 (fun a b _ => f32Bool (f32Lt a b)) ∧
      gives (.cmple e o) o 1 (fun a b _ => f32Bool (f32Lt a b || f32Eq a b)) ∧
      gives (.sel e o) o 1 (fun a b c => f32Canon (if f32Lt 0 c || f32Lt c 0 then a else b)) ∧
      gives (.div e o) o 4 (fun a b _ => (f32Div a b).1)) ∧
    (∀ vd va : BitVec 4,
      let o := uOps1 vd va
      gives (.fabs e vd va) o 1 (fun a _ _ => f32Abs a) ∧ gives (.fneg e vd va) o 1 (fun a _ _ => f32Neg a) ∧
      gives (.fsgn e vd va) o 1 (fun a _ _ => f32Sgn a) ∧ gives (.rcp e vd va) o 4 (fun a _ _ => (f32Rcp a).1) ∧
      gives (.rsqrt e vd va) o 4 (fun a _ _ => (f32Rsqrt a).1) ∧ gives (.sqrt e vd va) o 4 (fun a _ _ => (f32Sqrt a).1) ∧
      gives (.exp2 e vd va) o 4 (fun a _ _ => (f32Trans 17 a).1) ∧ gives (.log2 e vd va) o 4 (fun a _ _ => (f32Trans 18 a).1))

/-- O21. On an existing engine that holds a work item of a group of the table: PHASE enters the weight phase; LD, whose reads meet
no error, writes the operand's words, those read ahead or those of every block in the stacks, into VD and remembers poison; ST
of NWGT and of a new state keeps VA, or its conversion to BF16, with padding +0; the reductions add the tree of each pass into
SREG in ascending order of pass, or take the maximum of magnitudes; SBC writes SREG into every lane of VD. No other register and
no stack byte changes. Each of these is said to answer a next state with its own effect: PHASE, LD, ST, RSUM, RSSQ, RMAX, SBC.
(R234, R240, R242, R243, R244, R246) -/
def Obligations.UpdateLoadsStoresReductionsComplete : Prop :=
  ∀ (s : State) (e : EngId) (w : WorkItem) (d : List Byte), Holds s e w d →
    let p := getEng s e
    let ran := fun (c : Instr) (q : PEng) => ∃ t, exec c s = .next t ∧ getEng t e = { q with begun := true } ∧ t.stk = s.stk ∧
      (∀ e', engKey e' ≠ engKey e → getEng t e' = getEng s e')
    let a := fun (va : BitVec 4) (i : Nat) => (p.v.getD va.toNat []).getD i 0
    ran (.phase e) { p with weightPhase := true } ∧
    (∀ vd opnd : BitVec 4, ldKnown d opnd.toNat = true →
      let blocks := (upFrom w.block w.blocks).map (ldBlock s d w p opnd.toNat)
      (p.ops.find? (fun x => x.1 == opnd.toNat) = none → ran (.ld ⟨e, ⟨[], [], 0⟩⟩ vd opnd) { p with
        v := setAt (blocks.flatMap Prod.fst) p.v vd.toNat
        poisoned := p.poisoned || blocks.any Prod.snd }) ∧
      (∀ ws bad, p.ops.find? (fun x => x.1 == opnd.toNat) = some (opnd.toNat, ws, bad) →
        ran (.ld ⟨e, ⟨[], [], 0⟩⟩ vd opnd) { p with v := setAt ws p.v vd.toNat, poisoned := p.poisoned || bad })) ∧
    (w.slow = false → ∀ b,
      ldBlock s d w p 0 b = (readWords s (blockAddr d b arrGrad 1024) 256, stkPoisoned s (blockAddr d b arrGrad 1024) 1024)) ∧
    (∀ (va : BitVec 4) (sat : Bool) (rnd : BitVec 2),
      ran (.st e va 8 sat rnd) { p with nwgt := (List.range (256 * w.blocks)).map (fun i => if itemPad d w i then 0 else a va i) }) ∧
    (∀ (va opnd : BitVec 4) (sat : Bool) (rnd : BitVec 2) (k : Nat), opnd.toNat = 5 + k → k < gdStates d → k < 3 → rnd ≠ 3 →
      ran (.st e va opnd sat rnd) { p with ns := setAt ((List.range (256 * w.blocks)).map (fun i =>
        if itemPad d w i then 0 else BitVec.ofNat 16 (convertTo 1 (a va i) rnd.toNat
          (updateDraw p.key w.stamp w.group (1 + k) (256 * w.block + i)) sat).1)) p.ns k }) ∧
    (∀ (sreg : BitVec 2) (va : BitVec 4),
      let passes := (List.range (4 * w.blocks)).map (fun n =>
        (List.range 64).map (fun l => if itemPad d w (64 * n + l) then 0 else a va (64 * n + l)))
      let red := fun (f : W32 → List W32 → W32) => { p with s := setAt (passes.foldl f (p.s.getD sreg.toNat 0)) p.s sreg.toNat }
      ran (.rsum e sreg va) (red (fun acc vs => (f32Add acc (treeReduce f32Add 6 (vs, 0)).1).1)) ∧
      ran (.rssq e sreg va) (red (fun acc vs => (f32Add acc (treeReduce f32Add 6 (vs.map (fun v => (f32Mul v v).1), 0)).1).1)) ∧
      ran (.rmax e sreg va) (red (fun acc vs => f32Max acc (treeReduce (fun x y => (f32Max x y, 0)) 6 (vs.map f32Abs, 0)).1))) ∧
    (∀ (vd : BitVec 4) (sreg : BitVec 2),
      ran (.sbc e vd sreg) { p with v := setAt (List.replicate (256 * w.blocks) (p.s.getD sreg.toNat 0)) p.v vd.toNat })

/-- O22. With no reshard in COPYING or COPIED, a free existing engine takes the first item of its unit's queue that is no
accumulation pass, and a sweep item only where none waits, with V, S and the outputs at +0, K0 to K11 the active constants and
the key of its draws held, and runs the words of the group's program over it in their order; an engine whose program is under
way takes the next into its second work buffer, with the operands read ahead. END of a live clean item raises its conversion
flags, writes its outputs, counts it and leaves a one-block item's block WRITTEN with its STAMP; of a poisoned one it counts the
item as poisoned, holds its group for the step, drops what waits of the group for it and, where the capture is empty, records
group and block; the engine then goes on with its next item or is free. Each of these is said to answer a next state with its
own effect: END, UPDATE_WORK_ITEM. (R230, R238, R239, R245, R246, R247, R257) -/
def Obligations.WorkItemsBeginAndEnd : Prop :=
  (∀ (s : State) (e : EngId) (w : WorkItem) (d : List Byte) (errs : StackErrs),
    engExists s e = true → (getEng s e).item = none → groupDesc s w.group = some d → updatesStopped s = false →
    let begun := fun (rest : State) => refreshUnit (setEng rest e (freshEng s d w [])) e.unit
    (s.update.fast.find? (fun x => x.1 == e.unit) = some (e.unit, w) → w.pass = false →
      let t := begun { s with update := { s.update with fast := s.update.fast.erase (e.unit, w) } }
      exec (.updateWorkItem ⟨e, errs⟩) s = .next ((programWords s (gdProgram d)).foldl (runUWord e) (meetErrors t e.unit errs))) ∧
    (s.update.fast.find? (fun x => x.1 == e.unit) = none → s.update.sweep.find? (fun x => x.1 == e.unit) = some (e.unit, w) →
      let t := begun { s with update := { s.update with sweep := s.update.sweep.erase (e.unit, w) } }
      exec (.updateWorkItem ⟨e, errs⟩) s = .next ((programWords s (gdProgram d)).foldl (runUWord e) (meetErrors t e.unit errs))) ∧
    (let p := freshEng s d w []
     p.v = List.replicate 16 (List.replicate (256 * w.blocks) 0) ∧ p.s = List.replicate 4 0 ∧ p.item = some w ∧ p.poisoned = false ∧
     p.nwgt = List.replicate (256 * w.blocks) 0 ∧ p.ns = List.replicate 3 (List.replicate (256 * w.blocks) 0) ∧
     (w.slow = false → (∀ i, i < 12 → p.k.getD i 0 = BitVec.ofNat 32 (getN s (Key.ksetKActive (gdConsts d) i))) ∧
       p.key = (BitVec.ofNat 64 (getN s (Key.keyActiveLo (gdKey d))), BitVec.ofNat 64 (getN s (Key.keyActiveHi (gdKey d))))))) ∧
  (∀ (s : State) (e : EngId) (w : WorkItem) (d : List Byte), engExists s e = true → (getEng s e).item.isSome = true →
    (getEng s e).begun = true → (getEng s e).next = none → groupDesc s w.group = some d → updatesStopped s = false →
    s.update.fast.find? (fun x => x.1 == e.unit) = some (e.unit, w) → w.pass = false →
    ∃ t ops, exec (.updateWorkItem ⟨e, ⟨[], [], 0⟩⟩) s = .next t ∧ getEng t e = { getEng s e with next := some ⟨w, ops⟩ } ∧
      t.update.fast = s.update.fast.erase (e.unit, w) ∧ t.stk = s.stk ∧ ops.length = 2 + gdStates d ∧
      (∀ n, n < 2 + gdStates d → ops.find? (fun x => x.1 == n) =
        some (n, ((upFrom w.block w.blocks).map (ldBlock s d w PEng.default n)).flatMap Prod.fst,
          ((upFrom w.block w.blocks).map (ldBlock s d w PEng.default n)).any Prod.snd))) ∧
  (∀ (s : State) (e : EngId) (w : WorkItem) (d : List Byte) (errs : StackErrs), Holds s e w d → itemLive s w = true →
    let p := getEng s e
    (p.poisoned = false → ∃ t, exec (.updEnd ⟨e, errs⟩) s = .next t ∧
      t = nextItem (finishItem (meetErrors (convertFlags (busy s e.unit 1) e.unit d w p) e.unit errs) d w p) e ∧
      getN t Key.workItemsDone = satAdd 64 (getN s Key.workItemsDone) 1 ∧
      (p.next = none → getEng t e = PEng.default) ∧
      (w.blocks = 1 → (readPtr t d w.block).written = true ∧ (readPtr t d w.block).stamp = w.stamp % 2 ^ 32)) ∧
    (p.poisoned = true → ∃ t, exec (.updEnd ⟨e, errs⟩) s = .next t ∧
      getN t Key.poisonedItems = satAdd 64 (getN s Key.poisonedItems) 1 ∧ getN t Key.workItemsDone = getN s Key.workItemsDone ∧
      (p.next = none → getEng t e = PEng.default) ∧
      heldFor (getGroup t w.group) w.stamp = true ∧
      (∀ x ∈ t.update.fast ++ t.update.sweep, ¬(x.2.group = w.group ∧ x.2.stamp = w.stamp)) ∧
      (getN s Key.poisonCaptureEmpty = 1 → getN t Key.poisonCaptureGroup = w.group ∧ getN t Key.poisonCaptureBlock = w.block)))

/-- O23. For the accumulation pass that heads its unit's queue: with clean operands it writes the elementwise sum (GRAD alone in a
window's first step, padding +0) to DUE of the window in a window's last step, and else, unless that was done, to the inactive
GACC slot, whose pointer entry (apart from the slot) turns GWRITTEN with GSTAMP; it leaves every other byte of the stacks, and
its block is done (or, as the last block, closes the pass step); a poisoned operand holds the group for the step instead.
SLOW_SWEEP of a group not on hold, outside COPYING and COPIED, with a due window whose constants are known and no sweep under
way, starts the sweep of that window and queues its items. Each of these is said to answer a next state with its own effect:
ACCUMULATION_PASS, SLOW_SWEEP. (R234, R237, R246, R247, R248, R249) -/
def Obligations.AccumulationPassesAndSweeps : Prop :=
  (∀ (s : State) (unit group block : Nat) (w : WorkItem) (d : List Byte), groupDesc s group = some d →
    s.update.fast.find? (fun x => x.1 == unit) = some (unit, w) → w.pass = true → w.group = group → w.block = block →
    let step := w.stamp
    let grad := readWords s (blockAddr d block arrGrad 1024) 256
    let p := readPtr s d block
    let act := activeGacc s p
    let due := blockAddr d block (arrDue (step / gdDelay d)) 1024
    let gacc := blockAddr d block (arrGacc (1 - act)) 1024
    let ptr := blockAddr d block arrPointer 16
    let old := readWords s (blockAddr d block (arrGacc act) 1024) 256
    let sum := (List.range 256).map (fun i =>
      if isPad d block i then 0 else if step % gdDelay d = 0 then grad.getD i 0 else (f32Add (old.getD i 0) (grad.getD i 0)).1)
    (passPoisoned s d step block = false →
      ∃ t, exec (.accumulationPass unit group ⟨block, ⟨[], [], 0⟩⟩) s = .next t ∧
        (block ∈ (getGroup t group).passes ∨ (getGroup t group).passStep = none) ∧
        t.update.fast = s.update.fast.erase (unit, w) ∧
        (step % gdDelay d + 1 = gdDelay d → readWords t due 256 = sum ∧
          (∀ a, a < due ∨ due + 1024 ≤ a → memRead t.stk.mem a = memRead s.stk.mem a)) ∧
        (step % gdDelay d + 1 ≠ gdDelay d → (p.gwritten = true ∧ p.gstamp = step % 2 ^ 32 → t.stk = s.stk) ∧
          (p.gwritten = false ∨ p.gstamp ≠ step % 2 ^ 32 →
            (readPtr t d block).gwritten = true ∧ (readPtr t d block).gstamp = step % 2 ^ 32 ∧
            (ptr + 16 ≤ gacc ∨ gacc + 1024 ≤ ptr → readWords t gacc 256 = sum) ∧
            (∀ a, (a < gacc ∨ gacc + 1024 ≤ a) → (a < ptr ∨ ptr + 16 ≤ a) → memRead t.stk.mem a = memRead s.stk.mem a)))) ∧
    (passPoisoned s d step block = true →
      ∃ t, exec (.accumulationPass unit group ⟨block, ⟨[], [], 0⟩⟩) s = .next t ∧ heldFor (getGroup t group) step = true ∧
        getN t Key.poisonedItems = satAdd 64 (getN s Key.poisonedItems) 1)) ∧
  (∀ (s : State) (group : Nat) (x : SlowWindow) (rest : List SlowWindow) (d : List Byte), groupDesc s group = some d →
    (getGroup s group).due = x :: rest → x.consts.isSome = true → (getGroup s group).sweep = none → (getGroup s group).hold = false →
    updatesStopped s = false →
    ∃ t, exec (.slowSweep group) s = .next t ∧ (getGroup t group).sweep = some x ∧ (getGroup t group).due = rest ∧
      t.update.sweep = s.update.sweep ++ groupItems s d (sweepDue d x.window) true false ∧ t.stk = s.stk)

/-- O24. On a running grid, in a field that is not parked: a scrubbed row with an uncorrectable word poisons its line, counts the
line where it was clean and sets SRAM_UNCORRECTED, and with a corrected word counts it and marks it for write-back, which
SRAM_CORRECTED_WRITEBACK ends; a counted core that passes parity and has made progress or stands idle since its last pulse has
HEARTBEAT_OK set; a core or an unused spare found silent is reported once until its next pulse; CORE_SUSPEND suspends a RUNNING
or WAITING core and CORE_RESUME sets it going again, its wait evaluated anew; a core that has waited long enough in SYNC takes
SYNC_TIMEOUT. Each of these is said to answer a next state with its own effect: SYNC_TIMEOUT, SCRUB_ROW_READ,
SRAM_CORRECTED_WRITEBACK, HEARTBEAT_PULSE, CORE_SILENT, CORE_SUSPEND, CORE_RESUME. (R81, R82, R83, R92, R97, R98, R99, R109,
R193, R196) -/
def Obligations.CoreServicesComplete : Prop :=
  ∀ (s : State) (id : CoreId),
    let c := getCore s id
    (∀ (row : BitVec 11) (word : Nat), inGrid s id = true → inParked s id = false → word < 65536 →
      word / 32 = row.toNat →
      (∃ t, exec (.scrubRowRead id row [⟨word, false⟩]) s = .next t ∧ word / 8 ∈ (getCore t id).poisonLines ∧
        (getCore t id).uncorrSeen = true ∧ (getCore t id).sram = c.sram ∧ bit (getN t Key.coreFlags) 1 = true ∧
        getN t Key.sramUncorrectedTotal =
          (if word / 8 ∈ c.poisonLines then getN s Key.sramUncorrectedTotal else satAdd 64 (getN s Key.sramUncorrectedTotal) 1)) ∧
      (∃ t, exec (.scrubRowRead id row [⟨word, true⟩]) s = .next t ∧ word ∈ (getCore t id).writeback ∧
        (getCore t id).poisonLines = c.poisonLines ∧ (getCore t id).sram = c.sram ∧
        getN t Key.sramCorrectedTotal = satAdd 64 (getN s Key.sramCorrectedTotal) 1 ∧ bit (getN t Key.coreFlags) 0 = true)) ∧
    (∀ word : Nat, ∃ t, exec (.sramCorrectedWriteback id word) s = .next t ∧ word ∉ (getCore t id).writeback ∧
      getCore t id = { c with writeback := (getCore t id).writeback }) ∧
    (∀ p : PhysId, logicalOf s p = some id → heartCounted c = true →
      (∀ progress : Bool, progress = true ∨ c.progressed = true ∨ heartIdle c = true →
        exec (.heartbeatPulse p true progress) s =
          .next (setCore s id { c with heartbeatOk := true, silentReported := false, progressed := heartIdle c })) ∧
      (∀ progress : Bool, exec (.heartbeatPulse p false progress) s = .next s) ∧
      (c.progressed = false → heartIdle c = false → exec (.heartbeatPulse p true false) s = .next s) ∧
      (c.silentReported = false → exec (.coreSilent p) s = .next (emit
        (setCore s id { c with heartbeatOk := false, silentReported := true }) (.vc0Report 4 [physWord p]))) ∧
      (c.silentReported = true → exec (.coreSilent p) s = .next s)) ∧
    (∀ p : PhysId, logicalOf s p = none → unusedSpare s p = true → physWord p ∉ s.grid.spareSilent →
      ∃ t, exec (.coreSilent p) s = .next t ∧ physWord p ∈ t.grid.spareSilent ∧ t.cores = s.cores ∧
        t.out = s.out ++ [.vc0Report 4 [physWord p]]) ∧
    ((c.st = .running ∨ c.st = .waiting) → ∃ t, exec (.coreSuspend id) s = .next t ∧ (getCore t id).st = .suspended ∧
      (getCore t id).x = c.x ∧ (∀ k, coreKey k ≠ coreKey id → getCore t k = getCore s k)) ∧
    (c.st = .suspended → ∃ t, exec (.coreResume ⟨id, []⟩) s = .next t ∧ (∀ k, coreKey k ≠ coreKey id → getCore t k = getCore s k) ∧
      (c.wait = none → getCore t id = { restoreContext c with st := .running, wait := none }) ∧
      (∀ b, c.wait = some (.beat b) → (getCore t id).st = (if beatReached s b then .running else .waiting) ∧
        (getCore t id).pc = (restoreContext c).pc + b2n (beatReached s b) ∧ (getCore t id).sram = c.sram) ∧
      (∀ r need, c.wait = some (.ring r need) →
        (getCore t id).st = (if need ≤ ringHeld (restoreContext c) r then .running else .waiting) ∧ (getCore t id).sram = c.sram) ∧
      (∀ b e w, c.wait = some (.sync b e w) →
        let released := bit (memRead c.sram (w.toNat + 5)).toNat 0
        (getCore t id).st = (if released then .running else .waiting) ∧
        bit (memRead (getCore t id).sram (w.toNat + 5)).toNat 0 = false)) ∧
    (∀ (b : BitVec 4) (e : Byte) (word : BitVec 19), c.st = .waiting → c.wait = some (.sync b e word) →
      getN s Key.syncTimeoutBeats ≤ c.syncBeats →
      exec (.syncTimeout id) s = .next (takeException s id c excSyncTimeout c.pc 0 []))

/-- O25. SYNC_ARRIVAL, whose reads meet no error, adds one to ARRIVED in the root's word and, where that reaches EXPECTED, takes
EXPECTED off and broadcasts the release of the barrier and epoch that arrived, which enters the root's router at once where its
local lane has room and its row takes head flits, and waits at the core where not; SYNC_RELEASE lets a core that waits on the
barrier at that epoch proceed to the next instruction with RELEASED clear, sets RELEASED in the word of a suspended core, and
changes nothing for another epoch or barrier. Each of these is said to answer a next state with its own effect: SYNC_ARRIVAL,
SYNC_RELEASE. (R55, R74, R192, R193, R196) -/
def Obligations.BarrierRootCountsAndReleases : Prop :=
  ∀ (s : State) (id : CoreId) (b : BitVec 4) (epoch : Byte) (word : BitVec 19),
    let c := getCore s id
    let a := word.toNat
    let arrived := leNat (sramRead c a 2)
    let expected := leNat (sramRead c (a + 2) 2)
    let now := fun (t : State) => leNat (sramRead (getCore t id) a 2)
    let others := fun (t : State) => ∀ x, x ≠ a → x ≠ a + 1 → memRead (getCore t id).sram x = memRead c.sram x
    (arrived + 1 < 65536 → (expected = 0 ∨ arrived + 1 < expected) →
      ∃ t, exec (.syncArrival id b epoch ⟨word, []⟩) s = .next t ∧ now t = arrived + 1 ∧ others t ∧ t.mesh = s.mesh ∧ t.out = s.out) ∧
    (0 < expected → arrived + 1 < 65536 →
      let k := laneKey id 4 0 false
      let q := waitKey id 4 0
      ∃ t, exec (.syncArrival id b epoch ⟨word, []⟩) s = .next t ∧ now t = (arrived + 1) % expected ∧ others t ∧
        (arrived + 1 = expected → getWaiting s q = [] → (8 ≤ (getLane s k).flits.length ∨ rowClosed s id = true) →
          getWaiting t q = portFlits (releasePacket b epoch) ∧ getLane t k = getLane s k) ∧
        (arrived + 1 = expected → getWaiting s q = [] → (getLane s k).flits.length < 8 → (getLane s k).sink = false → rowClosed s id = false →
          getWaiting t q = [] ∧ ∃ m, (getLane t k).flits = (getLane s k).flits ++ [m] ∧ m.hdr = (releasePacket b epoch).hdr ∧
            hdrMode m.hdr = 4 ∧ m.vc = 0 ∧ m.head = true ∧ m.tail = true ∧ m.leg = .spread ∧
            m.flit = ⟨slice [b.setWidth 8, epoch] 0 64, false⟩)) ∧
    (memRead c.sram (a + 4) = epoch →
      (∀ e', c.wait = some (.sync b e' word) → c.st = .waiting →
        ∃ t, exec (.syncRelease id b ⟨epoch, []⟩) s = .next t ∧ (getCore t id).st = .running ∧ (getCore t id).wait = none ∧
          (getCore t id).pc = c.pc + 1 ∧ bit (memRead (getCore t id).sram (a + 5)).toNat 0 = false ∧
          (∀ x, x ≠ a + 5 → memRead (getCore t id).sram x = memRead c.sram x)) ∧
      (∀ e', c.wait = some (.sync b e' word) → c.st = .suspended →
        ∃ t, exec (.syncRelease id b ⟨epoch, []⟩) s = .next t ∧ (getCore t id).st = .suspended ∧ (getCore t id).wait = c.wait ∧
          bit (memRead (getCore t id).sram (a + 5)).toNat 0 = true)) ∧
    (∀ (b' : BitVec 4) (e' : Byte) (errs : List SramErr), c.wait = some (.sync b e' word) →
      (b' ≠ b ∨ memRead c.sram (a + 4) ≠ epoch) → exec (.syncRelease id b' ⟨epoch, errs⟩) s = .next s)

/-- O26. For a core that is not parked, in a field that is not, whose ring has a free line, the first flit granted on a channel is
written to the 64 bytes at the ring's write pointer and leaves the local port, the line after it is the next of the ring, or its
first after its last, a poisoned flit poisons its line and a clean one clears it, and every other SRAM byte reads as before; an
instruction that waits for the ring and now finds its flits issues again. Each of these is said to answer a next state with its
own effect: RING_DELIVERY. (R82, R86, R87, R177) -/
def Obligations.RingsTakeFlitsInOrder : Prop :=
  ∀ (s : State) (id : CoreId) (vc : BitVec 2) (m : MFlit),
    let c := getCore s id
    let r := ringFor c m.hdr m.vc
    let a := ringAddr c r (ringWrPtr c r)
    c.arrivals.find? (fun q => q.vc == vc) = some m → c.st ≠ .parked → inParked s id = false → ringHeld c r < ringLines c r → r < 8 → a % 64 = 0 →
    (∀ b e w, c.wait ≠ some (.sync b e w)) → (∀ b, c.wait ≠ some (.beat b)) →
    ∃ t, exec (.ringDelivery id vc) s = .next t ∧
      let d := getCore t id
      sramRead d a 64 = slice m.flit.data 0 64 ∧
      (m.flit.poison = true → a / 64 ∈ d.poisonLines) ∧ (m.flit.poison = false → a / 64 ∉ d.poisonLines) ∧
      ringAddr d r (ringWrPtr d r) = (if ringWrPtr c r % ringLines c r + 1 = ringLines c r then ringBase c r else a + 64) ∧
      d.ringRd = c.ringRd ∧ d.arrivals = c.arrivals.eraseP (fun q => q.vc == vc) ∧
      (∀ b, b < a ∨ a + 64 ≤ b → memRead d.sram b = memRead c.sram b) ∧ d.x = c.x ∧ t.mesh = s.mesh ∧
      (∀ need, c.st = .waiting → c.wait = some (.ring r need) → ringWrPtr c r < 2 * ringLines c r → need ≤ ringHeld c r + 1 →
        d.st = .running ∧ d.pc = c.pc)

/-- O27. PACKET_ROUTE at an output, where the other outputs of each ready packet grant its channel too, grants a ready lane of VC0,
but for a flit of VC1 to VC3 after 16 of VC0 in a row; where no lane has a flit and credit it only takes in what the router's
core holds. Where the core holds nothing to inject, a flit whose packet takes this one output leaves its lane; towards the next
router of the same field it joins the lane of its channel there, with its head's outputs decided; at its core, on VC1 to VC3, it
is granted a line of its ring; an uncorrectable error poisons it, and one in the route header has the router take the packet in,
set HEADER_LOST and capture the header as received. A unicast takes the column first, then the row. No other lane changes. Each
of these is said to answer a next state with its own effect: PACKET_ROUTE. (R52, R53, R54, R55, R56, R59, R60, R61, R66, R72,
R87) -/
def Obligations.RoutersGrantAndForwardFlits : Prop :=
  (∀ (s : State) (at_ : CoreId) (out pick : Nat) (wire : WireFlit),
    (readyLanes s at_ out 0 ≠ [] → (∀ k ∈ readyLanes s at_ out 0, forkAgreed s at_ out 0 k = true) →
      (getOut s (outKey at_ out)).vc0Run < 16 → grantVc s at_ out = some (0, readyLanes s at_ out 0)) ∧
    (∀ vc, 0 < vc → vc < 4 → readyLanes s at_ out vc ≠ [] → (∀ k ∈ readyLanes s at_ out vc, forkAgreed s at_ out vc k = true) →
      16 ≤ (getOut s (outKey at_ out)).vc0Run → ∃ v ks, grantVc s at_ out = some (v, ks) ∧ v ≠ 0) ∧
    (out < 5 → (∀ vc, vc < 4 → readyLanes (fillRouter s at_) at_ out vc = []) →
      exec (.packetRoute at_ out pick wire) s = .next (fillRouter s at_))) ∧
  (∀ (s : State) (at_ : CoreId) (out pick vc k : Nat) (ks : List Nat) (leg : Leg) (m : MFlit) (rest : List MFlit) (x : WireErr)
      (others : List (Nat × WireErr)),
    inGrid s at_ = true → logicalCols s ≤ 320 → getWaiting s (waitKey at_ 4 0) = [] → getWaiting s (waitKey at_ 4 1) = [] →
    grantVc s at_ out = some (vc, ks) → ks[pick % ks.length]? = some k →
    (getLane s k).flits = m :: rest → m.vc.toNat = vc → frontOuts (getLane s k) m = [(out, leg)] →
    getFifo s (fifoKey at_ (k / 8 % 5) vc) = [] →
    let left : Lane := { getLane s k with flits := rest, route := if m.tail then none else some [(out, leg)] }
    (out = 4 → vc ≠ 0 →
      ∃ t, exec (.packetRoute at_ out pick ⟨x, others⟩) s = .next t ∧ getLane t k = left ∧
        (∀ k', k' ≠ k → getLane t k' = getLane s k') ∧
        (getCore t at_).arrivals = (getCore s at_).arrivals ++ [{ m with leg := leg }]) ∧
    (∀ c, out < 4 → meshStep s at_ out = some c → crosses s at_ c = false →
      let k2 := laneKey c (facing out) vc (slipLeg m.hdr leg)
      (x.raw = none → (getLane s k2).sink = false →
        ∃ t, exec (.packetRoute at_ out pick ⟨x, others⟩) s = .next t ∧ getLane t k = left ∧
          (getLane t k2).flits = (getLane s k2).flits ++ [{ m with
            leg := leg
            raw := none
            flit := if x.bad then { m.flit with poison := true } else m.flit
            outs := if m.head then routeOf s c m.hdr leg else [] }] ∧
          (∀ k', k' ≠ k → k' ≠ k2 → getLane t k' = getLane s k') ∧ t.cores = s.cores ∧
          (x.bad = true → getN t Key.poisonedFlits = satAdd 64 (getN s Key.poisonedFlits) 1 ∧ bit (getN t Key.meshFlags) 1 = true) ∧
          (0 < x.corrected → bit (getN t Key.meshFlags) 0 = true)) ∧
      (∀ h, x.raw = some h → m.head = true →
        ∃ t, exec (.packetRoute at_ out pick ⟨x, others⟩) s = .next t ∧ getLane t k = left ∧
          (getLane t k2).flits = (getLane s k2).flits ∧ (getLane t k2).sink = !m.tail ∧ bit (getN t Key.meshFlags) 2 = true ∧
          t.cores = s.cores ∧ (getN s Key.captureEmpty = 1 → getN t Key.headerLostCapture = h.toNat ∧ getN t Key.captureEmpty = 0)))) ∧
  (∀ (s : State) (at_ : CoreId) (h : W64), hdrMode h = 0 →
    (at_.col < hdrCol h → routeOf s at_ h .unicast = [(1, .unicast)]) ∧
    (hdrCol h < at_.col → routeOf s at_ h .unicast = [(3, .unicast)]) ∧
    (at_.col = hdrCol h → at_.row < hdrRow h → routeOf s at_ h .unicast = [(2, .unicast)]) ∧
    (at_.col = hdrCol h → hdrRow h < at_.row → routeOf s at_ h .unicast = [(0, .unicast)]) ∧
    (at_.col = hdrCol h → at_.row = hdrRow h → routeOf s at_ h .unicast = [(4, .unicast)]))

/-- O28. CORE_DEAD of a live logical core marks it DEAD, sets CORE_DEAD and logs it; with an unused spare and no other death in its
row it waits for the detour where its field is not shut, else its field is lost and detours of other rows that are under way go
on. DETOUR begins the detour of every waiting row; with no flit in the mesh it gives each its entry and counts it, and with a
barrier message in flight it waits. MICROBATCH_REPLAY ends it and adds the abandoned micro-batches to those replayed.
CORE_EXCEPTION_REPORT of a faulted core reloads it and records the overrun, and a repeated fault holds every tile program. Each
of these is said to answer a next state with its own effect: CORE_DEAD, DETOUR, MICROBATCH_REPLAY, CORE_EXCEPTION_REPORT. (R41,
R42, R43, R44, R45, R74, R95, R99, R193) -/
def Obligations.CoreDeathDetourReplay : Prop :=
  (∀ (s : State) (p : PhysId) (id : CoreId) (heartbeat : Bool), logicalOf s p = some id → (getCore s id).st ≠ .dead →
    (getCore s id).st ≠ .parked → inParked s id = false →
    let same := (s.grid.underWay ++ s.grid.deaths).filter (fun d => physRow d == physRow p)
    ∃ t, exec (.coreDead p heartbeat) s = .next t ∧ (getCore t id).st = .dead ∧ (getCore t id).heartbeatOk = false ∧
      bit (getN t Key.coreFlags) 3 = true ∧
      (entryInForce s p % 64 = 63 → same = [] → noDetour s (physField p) = false →
        t.grid.deaths = s.grid.deaths ++ [p] ∧ t.grid.runFields = s.grid.runFields) ∧
      (entryInForce s p % 64 ≠ 63 ∨ same ≠ [] →
        fieldLostNow t (physField p) = true ∧ (∀ d ∈ t.grid.deaths, physField d ≠ physField p) ∧
        t.grid.underWay = s.grid.underWay.filter (fun d => physRow d != physRow p))) ∧
  (∀ (s : State) (p : PhysId) (errs : List (CoreId × List SramErr)), p ∈ detourDeaths s → s.grid.underWay = [] →
    ∃ t, exec (.detour ⟨p, errs⟩) s = .next t ∧ t.grid.deaths = [] ∧ t.grid.detouring = true ∧ t.stp.causes.getLsbD 3 = true ∧
      t.stp.suspended = true ∧
      (meshFlits s = [] → s.mesh.lanes = [] → t.grid.underWay = [] ∧
        ((∀ d ∈ detourDeaths s, physRow d = physRow p → d = p) → amGet 63 t.grid.runRows (physRow p) = p.col % 33 + 128) ∧
        getN t Key.detoursRuntime = (detourDeaths s).foldl (fun n _ => satAdd 16 n 1) (getN s Key.detoursRuntime) ∧
        bit (getN t Key.gridFlags) 0 = true ∧ bit (getN t Key.gridFlags) 1 = true) ∧
      (barrierInFlight s = true → t.grid.underWay = detourDeaths s ∧ t.grid.runRows = s.grid.runRows)) ∧
  (∀ (s : State) (p : PhysId) (errs : List (CoreId × List SramErr)), s.grid.underWay ≠ [] → meshFlits s = [] → s.mesh.lanes = [] →
    ∃ t, exec (.detour ⟨p, errs⟩) s = .next t ∧ t.grid.underWay = [] ∧
      getN t Key.detoursRuntime = s.grid.underWay.foldl (fun n _ => satAdd 16 n 1) (getN s Key.detoursRuntime)) ∧
  (∀ (s : State), s.grid.detouring = true → s.grid.deaths = [] → s.grid.underWay = [] →
    ∃ t, exec (.microbatchReplay) s = .next t ∧ t.grid.detouring = false ∧ t.grid.abandoned = [] ∧
      t.stp.replayPending = s.grid.abandoned.foldl (fun a q => nsIns q a) s.stp.replayPending ∧
      t.stp.suspended = (s.stp.suspended && (s.stp.hold || !inRun s)) ∧ t.stp.causes.getLsbD 3 = true) ∧
  (∀ (s : State) (id : CoreId) (errs : List (CoreId × List SramErr)), (getCore s id).st = .faulted → (getCore s id).excCause ≠ excArrayCheck →
    (faultRepeats s id (getCore s id) = false → ∃ t, exec (.coreExceptionReport ⟨id, errs⟩) s = .next t ∧
      (getCore t id).st ≠ .faulted ∧ t.stp.causes.getLsbD 3 = true) ∧
    (faultRepeats s id (getCore s id) = true → ∃ t, exec (.coreExceptionReport ⟨id, errs⟩) s = .next t ∧ t.stp.hold = true ∧
      t.stp.suspended = true ∧ bit (getN t Key.coreFlags) 4 = true ∧ t.stp.causes.getLsbD 3 = true))

/-- O29. WAYPOINT_REPORT of a scheduled waypoint, of the current step and not yet complete, raises its count; where that completes
it, a forward-end mark has the micro-batch's forward ended; a report of no scheduled waypoint, of another step or of a complete
waypoint only counts in REPORTS_UNMATCHED. The report leaves its core's queue. Each of these is said to answer a next state with
its own effect: WAYPOINT_REPORT. (R402, R379) -/
def Obligations.WaypointReportsAreCounted : Prop :=
  ∀ (s : State) (w : W32) (id : CoreId) (step : Nat),
    let entry := (scheduleEntries s).find? (fun e => e.1 == w.toNat)
    let n := stGet s.stp.wpCount w.toNat
    let left := (getCore s id).reports.eraseP (fun r => r.waypoint == w)
    (∀ due k, entry = some (w.toNat, due, k) → step = s.stp.step → n < due →
      ∃ t, exec (.waypointReport w id step) s = .next t ∧ stGet t.stp.wpCount w.toNat = n + 1 ∧ (getCore t id).reports = left ∧
        (n + 1 < due → t.stp.work = s.stp.work) ∧
        (∀ p mk, n + 1 = due → s.placement = some p → p.marks.filter (fun m : WpMark => m.waypoint == w.toNat) = [mk] → mk.kind = 0 →
          ∀ x ∈ t.stp.work, x.seq = stepFirstSeq s s.stp.step + mk.k → x.evaluation = false → x.forwardEnded = true)) ∧
    ((entry = none ∨ (∃ id' due k, entry = some (id', due, k) ∧ (step ≠ s.stp.step ∨ due ≤ n))) →
      ∃ t, exec (.waypointReport w id step) s = .next t ∧ getN t Key.reportsUnmatched = satAdd 64 (getN s Key.reportsUnmatched) 1 ∧
        t.stp = s.stp ∧ (getCore t id).reports = left)

/-- O30. An accepted write of EXCLUDE_FIELD names a field below 90 as LOST with cause 5 in the current copy, whose generation is one
higher, unless it was LOST; of RELEASE_FIELD_LOSS puts the field among those retested at bring-up; of MARK_CORE_DEFECTIVE in
range records the core by the rules of R41; each is answered OK and leaves the row entries and field states in force as they
are. Without a valid map copy each is answered WRONG_STATE and changes nothing. Each of these is said to answer a next state
with its own effect: MARK_CORE_DEFECTIVE, RELEASE_FIELD_LOSS, EXCLUDE_FIELD. (R37, R41, R48, R49, R555) -/
def Obligations.OwnerWritesTheDefectMap : Prop :=
  ∀ (s : State) (w : WReq),
    let runs := fun (t : State) => t.grid.runRows = s.grid.runRows ∧ t.grid.runFields = s.grid.runFields ∧ t.cores = s.cores
    (∀ m, curMap s = some m →
      (Accepted s Key.excludeField w → w.val < 90 →
        ∃ t, exec (.excludeField w) s = .next t ∧ runs t ∧ t.out = s.out ++ [.objStatus Key.excludeField stOk] ∧
          (lostByte (stGet m.fields w.val) = true → curMap t = some m) ∧
          (lostByte (stGet m.fields w.val) = false → ∃ m', curMap t = some m' ∧ stGet m'.fields w.val = 21 ∧
            m'.generation = (m.generation + 1) % 2 ^ 32 ∧ m'.rows = m.rows)) ∧
      (Accepted s Key.releaseFieldLoss w → ¬(w.val ≤ 89 ∧ fieldUnpowered s w.val = true) →
        ∃ t, exec (.releaseFieldLoss w) s = .next t ∧ runs t ∧ w.val ∈ t.grid.released ∧ curMap t = some m ∧
          t.out = s.out ++ [.objStatus Key.releaseFieldLoss stOk]) ∧
      (Accepted s Key.markCoreDefective w → bits w.val 3 0 ≤ 9 → bits w.val 7 4 ≤ 8 → bits w.val 18 13 ≤ 32 →
        let f := 10 * bits w.val 7 4 + bits w.val 3 0
        let m' := recordDefect f (bits w.val 12 8) (bits w.val 18 13) 3 m
        ∃ t, exec (.markCoreDefective w) s = .next t ∧ runs t ∧ t.out = s.out ++ [.objStatus Key.markCoreDefective stOk] ∧
          (m' = m → curMap t = some m) ∧
          (m' ≠ m → ∃ n, curMap t = some n ∧ n.fields = m'.fields ∧ n.rows = m'.rows ∧ n.generation = (m.generation + 1) % 2 ^ 32))) ∧
    (curMap s = none →
      (Accepted s Key.excludeField w → exec (.excludeField w) s = .next (emit s (.objStatus Key.excludeField stWrongState))) ∧
      (Accepted s Key.releaseFieldLoss w → exec (.releaseFieldLoss w) s = .next (emit s (.objStatus Key.releaseFieldLoss stWrongState))) ∧
      (Accepted s Key.markCoreDefective w → bits w.val 3 0 ≤ 9 → bits w.val 7 4 ≤ 8 → bits w.val 18 13 ≤ 32 →
        exec (.markCoreDefective w) s = .next (emit s (.objStatus Key.markCoreDefective stWrongState))))

/-- O31. With the endpoint live: SUB_TAIL takes an index below the ring's size that does not make a non-empty ring empty; ACC_HEAD
takes an index not beyond ACC_TAIL; while both rings are empty a base takes a 4 KiB-aligned address and a size a power of two
from 64 to 65,536, whose indices restart at 0 (the model's choice, assumption log 62); every other write changes nothing but
RING_WRITES_IGNORED. With the endpoint not live nothing changes. Each of these is said to answer a next state with its own
effect: SUB_TAIL, ACC_HEAD, RING_BASE_WRITE. (R363, R368, R486) -/
def Obligations.RingRegistersTakeWrites : Prop :=
  ∀ s : State,
    let b := s.host.bar
    let ignored : Host.Outcome State Fault Refusal := .next (addN s Key.ringWritesIgnored 32 1)
    (barLive s = true →
      (∀ v : W32, v.toNat < b.subEntries.toNat → (v = b.subHead → v = b.subTail) →
        exec (.subTail v) s = .next { s with host := { s.host with bar := { b with subTail := v } } }) ∧
      (∀ v : W32, (b.subEntries.toNat ≤ v.toNat ∨ (v = b.subHead ∧ v ≠ b.subTail)) → exec (.subTail v) s = ignored) ∧
      (∀ v : W32, v.toNat < b.accEntries.toNat →
        (ringDist b.accEntries.toNat b.accHead.toNat v.toNat ≤ ringDist b.accEntries.toNat b.accHead.toNat b.accTail.toNat →
          exec (.accHead v) s = .next { s with host := { s.host with bar := { b with accHead := v } } }) ∧
        (ringDist b.accEntries.toNat b.accHead.toNat b.accTail.toNat < ringDist b.accEntries.toNat b.accHead.toNat v.toNat →
          exec (.accHead v) s = ignored)) ∧
      (∀ v : W32, b.accEntries.toNat ≤ v.toNat → exec (.accHead v) s = ignored) ∧
      (b.subHead = b.subTail → b.accTail = b.accHead → ∀ v : W64,
        (v.toNat % 4096 = 0 →
          exec (.ringBaseWrite 0x0 v) s = .next { s with host := { s.host with bar := { b with subBase := v } } } ∧
          exec (.ringBaseWrite 0x18 v) s = .next { s with host := { s.host with bar := { b with accBase := v } } }) ∧
        (v.toNat % 4096 ≠ 0 → exec (.ringBaseWrite 0x0 v) s = ignored ∧ exec (.ringBaseWrite 0x18 v) s = ignored) ∧
        (∀ k, 6 ≤ k → k ≤ 16 → v.toNat % 2 ^ 32 = 2 ^ k →
          exec (.ringBaseWrite 0x8 v) s = .next { s with host := { s.host with
            bar := { b with subEntries := v.setWidth 32, subHead := 0, subTail := 0 } } } ∧
          exec (.ringBaseWrite 0x20 v) s = .next { s with host := { s.host with
            bar := { b with accEntries := v.setWidth 32, accHead := 0, accTail := 0 } } }) ∧
        ((∀ k, 6 ≤ k → k ≤ 16 → v.toNat % 2 ^ 32 ≠ 2 ^ k) →
          exec (.ringBaseWrite 0x8 v) s = ignored ∧ exec (.ringBaseWrite 0x20 v) s = ignored)) ∧
      ((b.subHead ≠ b.subTail ∨ b.accTail ≠ b.accHead) → ∀ v : W64, exec (.ringBaseWrite 0x0 v) s = ignored ∧
        exec (.ringBaseWrite 0x8 v) s = ignored ∧ exec (.ringBaseWrite 0x18 v) s = ignored ∧ exec (.ringBaseWrite 0x20 v) s = ignored)) ∧
    (barLive s = false → ∀ (v : W32) (r : BitVec 16) (w : W64),
      exec (.subTail v) s = .next s ∧ exec (.accHead v) s = .next s ∧ exec (.ringBaseWrite r w) s = .next s)

/-- O32. Where the ring holds a ticket, the acceptance ring has room and the ring is read, TICKET_READ passes the ticket: a refused
ticket is counted under its status and answered with a token of that status (a DUPLICATE with the accepted ticket's ACCEPT_ID);
an accepted one takes the next ACCEPT_ID, makes its slot PENDING, is journalled as ACCEPT with its 64 bytes, keeps a copy of its
data and is answered with a token of status 0; a token is written with MSI-X 0, or queued while the link is down. Each of these
is said to answer a next state with its own effect: TICKET_READ. (R12, R365, R366, R367, R368) -/
def Obligations.TicketsAreAcceptedOrRefused : Prop :=
  ∀ (s : State) (e : TicketEnv),
    let b := slice e.bytes 0 64
    let r := s.host.bar
    let head := if r.subHead.toNat + 1 < r.subEntries.toNat then r.subHead + 1 else 0
    (2 ≤ getN s Key.bringupPhase → r.subEntries ≠ 0 → r.accEntries ≠ 0 → r.subHead ≠ r.subTail → s.host.queued.length < tokenRoom s →
      outstanding s < getN s Key.maxOutstanding → ringUnread s = false →
      let refused := fun (status acceptId : Nat) => ∃ t, exec (.ticketRead e) s = .next t ∧ t.host.bar.subHead = head ∧
        getN t (Key.ticketsRefused (status - 1)) = satAdd 64 (getN s (Key.ticketsRefused (status - 1))) 1 ∧
        t.host.tickets = s.host.tickets ∧ t.host.slots = s.host.slots ∧ t.log = s.log ∧
        (s.host.linkUp = true → s.host.queued = [] →
          t.out = s.out ++ [.token r.accTail.toNat (tokenBytes ⟨status, r.subHead.toNat, tkSeq b, acceptId, tkTag b⟩ r.phase), .msix 0]) ∧
        (s.host.linkUp = false → t.host.queued = s.host.queued ++ [⟨status, r.subHead.toNat, tkSeq b, acceptId, tkTag b⟩])
      (notRunning s = true → refused 6 0) ∧
      (notRunning s = false →
        (badTicket b = true → refused 1 0) ∧
        (badTicket b = false →
          (tkKind b = 2 → s.stp.evalCfg.1 = 0 → refused 7 0) ∧
          (tkKind b ≠ 2 ∨ s.stp.evalCfg.1 ≠ 0 →
            (wrongStep s b = true → refused 2 0) ∧
            (wrongStep s b = false →
              (∀ d, duplicateOf s b = some d → refused 3 d.acceptId) ∧
              (duplicateOf s b = none →
                (slotState (getSlot s (tkSlot b)) ≠ 0 → refused 4 0) ∧
                (slotState (getSlot s (tkSlot b)) = 0 →
                  (ticketData s e = none → refused 5 0) ∧
                  (∀ data, ticketData s e = some data → ∃ t, exec (.ticketRead e) s = .next t ∧ t.host.bar.subHead = head ∧
                    t.host.nextAccept = s.host.nextAccept + 1 ∧
                    (∃ targets, t.host.tickets = s.host.tickets ++ [⟨s.host.nextAccept, b, data, targets, false, none⟩]) ∧
                    slotState (getSlot t (tkSlot b)) = 1 ∧
                    (∃ j, t.log.journal = j :: s.log.journal ∧ j.typ = 1 ∧ j.body = leBytes 8 s.host.nextAccept ++ leBytes 24 0 ++ b) ∧
                    getN t Key.ticketsAccepted = satAdd 64 (getN s Key.ticketsAccepted) 1 ∧
                    (s.host.linkUp = true → s.host.queued = [] → t.out = s.out ++ [.token r.accTail.toNat
                      (tokenBytes ⟨0, r.subHead.toNat, tkSeq b, s.host.nextAccept, tkTag b⟩ r.phase), .msix 0]))))))))) ∧
      (ringUnread s = true ∨ tokenRoom s ≤ s.host.queued.length ∨ getN s Key.maxOutstanding ≤ outstanding s ∨ r.subHead = r.subTail →
        exec (.ticketRead e) s = .next s)

/-- O33. ACCEPTANCE_TOKEN_WRITE writes the oldest queued token at ACC_TAIL with the PHASE in force, advances ACC_TAIL, inverting
PHASE at the wrap, and raises MSI-X 0; RELEASE of a READY slot with its generation frees it, of a NOT_COMPLETED one also
journals the release and forgets the ticket, and any other is counted as ignored; PCIE_LINK_RESET brings the link down with
PCIE_LINK_RESET raised and keeps rings, tickets and slots; training brings it up. Each of these is said to answer a next state
with its own effect: ACCEPTANCE_TOKEN_WRITE, RELEASE, PCIE_LINK_RESET, PCIE_LINK_TRAINED. (R362, R366, R367, R371, R491) -/
def Obligations.TokensSlotsAndTheLink : Prop :=
  (∀ (s : State) (k : Token) (ks : List Token), s.host.queued = k :: ks → s.host.linkUp = true → 0 < tokenRoom s →
    let r := s.host.bar
    let wraps := r.accTail.toNat + 1 = r.accEntries.toNat
    ∃ t, exec .acceptanceTokenWrite s = .next t ∧ t.host.queued = ks ∧
      t.out = s.out ++ [.token r.accTail.toNat (tokenBytes k r.phase), .msix 0] ∧
      (wraps → t.host.bar.accTail = 0 ∧ t.host.bar.phase = !r.phase) ∧
      (¬wraps → t.host.bar.accTail = r.accTail + 1 ∧ t.host.bar.phase = r.phase)) ∧
  (∀ (s : State) (v : W32), barLive s = true →
    let k := bits v.toNat 11 0
    let r := getSlot s k
    let owner := field r.header 0x28 8
    (slotState r = 2 → slotGen r = bits v.toNat 31 16 → ∃ t, exec (.release v) s = .next t ∧ slotState (getSlot t k) = 0 ∧
      slotGen (getSlot t k) = slotGen r ∧ t.host.tickets = s.host.tickets ∧ t.log = s.log) ∧
    (slotState r = 3 → slotGen r = bits v.toNat 31 16 → ∃ t, exec (.release v) s = .next t ∧ slotState (getSlot t k) = 0 ∧
      (∀ x ∈ t.host.tickets, x.acceptId ≠ owner) ∧
      (∃ j, t.log.journal = j :: s.log.journal ∧ j.typ = 4 ∧ j.body = leBytes 8 owner)) ∧
    ((slotState r ≠ 2 ∧ slotState r ≠ 3) ∨ slotGen r ≠ bits v.toNat 31 16 →
      exec (.release v) s = .next (count64 s Key.releasesIgnored))) ∧
  (∀ s : State, ∃ t, exec .pcieLinkReset s = .next t ∧ t.host = { s.host with linkUp := false } ∧ getN t Key.linkStatus = 0 ∧
    bit (stGet t.raised Key.pcieFlags) 2 = true ∧ t.cores = s.cores ∧ t.log = s.log) ∧
  (∀ (s : State) (width rate : Nat), ∃ t, exec (.pcieLinkTrained width rate) s = .next t ∧ t.host = { s.host with linkUp := true } ∧
    getN t Key.linkStatus = width % 32 + 32 * (rate % 16))

/-- O34. In RUN with no programs suspended: the first pending replay begins; outside a window, a micro-batch of the current step
with an accepted ticket, all before it begun, begins where the in-flight depth allows it; in a window an admitted evaluation
begins in its order; BACKWARD_START begins a micro-batch whose forward has ended, whose output gradients are all in, whose slot
in the pattern has come and whose predecessor's backward has ended; EVALUATION_COMPLETE journals EVAL_COMPLETE with the commit
step, counts it, writes its slot READY with MSI-X 1 and ends the ticket. Each of these is said to answer a next state with its
own effect: MICROBATCH_FORWARD_START, BACKWARD_START, EVALUATION_COMPLETE. (R14, R22, R23, R43, R226, R227, R370) -/
def Obligations.MicrobatchesBeginAndEnd : Prop :=
  (∀ (s : State) (seq : Nat), inRun s = true → s.stp.suspended = false →
    (∀ rest, s.stp.replayPending = seq :: rest → ∃ t, exec (.microbatchForwardStart seq) s = .next t ∧ t.stp.replayPending = rest ∧
      (∀ w ∈ t.stp.work, w.seq = seq → w.abandoned = false)) ∧
    (∀ k, s.stp.replayPending = [] → s.stp.windowEnd = none → ticketOf s 1 seq = some k → tkStep k.bytes = s.stp.step →
      getN s Key.reshardPhase ≤ 1 → begun s false seq = false → depthAllows s seq = true →
      (∀ q, stepFirstSeq s s.stp.step ≤ q → q < seq → begun s false q = true) →
      exec (.microbatchForwardStart seq) s = .next { s with stp := { s.stp with
        work := s.stp.work ++ [⟨tkSeq k.bytes, s.stp.step, false, k.acceptId, beatNow s, false, false, false, 0, 0, 0, false, []⟩] } }) ∧
    (∀ k, s.stp.replayPending = [] → s.stp.windowEnd ≠ none → ticketOf s 2 seq = some k → k.acceptId ∈ s.stp.admitted →
      begun s true seq = false → admittedBefore s seq = true →
      exec (.microbatchForwardStart seq) s = .next { s with stp := { s.stp with
        work := s.stp.work ++ [⟨tkSeq k.bytes, s.stp.step, true, k.acceptId, beatNow s, false, false, false, 0, 0, 0, false, []⟩] } }) ∧
    (∀ w ∈ s.stp.work, w.evaluation = false → w.seq = seq → w.forwardEnded = true → w.backwardBegun = false → w.abandoned = false →
      gradsIn s seq = true → slotReached s seq = true →
      (seq = stepFirstSeq s s.stp.step ∨ ∃ v ∈ s.stp.work, v.evaluation = false ∧ v.seq + 1 = seq ∧ v.backwardEnded = true) →
      ∃ t, exec (.backwardStart seq) s = .next t ∧ { w with backwardBegun := true } ∈ t.stp.work ∧
        t.stp.work.length = s.stp.work.length)) ∧
  (∀ (s : State) (id : Nat) (w : Work) (k : Ticket), workOf s id = some w → w.evaluation = true → w.abandoned = false → s.log.failed = false →
    s.host.tickets.find? (fun t => t.acceptId == id && !t.ended) = some k →
    ∃ t, exec (.evaluationComplete id) s = .next t ∧
      (∃ j, t.log.journal = j :: s.log.journal ∧ j.typ = 3 ∧ j.body = leBytes 8 id ++ leBytes 8 (getN s Key.commitStep)) ∧
      getN t Key.evalTicketsDone = satAdd 64 (getN s Key.evalTicketsDone) 1 ∧
      slotState (getSlot t (tkSlot k.bytes)) = 2 ∧
      slotGen (getSlot t (tkSlot k.bytes)) = (slotGen (getSlot s (tkSlot k.bytes)) + 1) % 65536 ∧
      t.out = s.out ++ [.msix 1] ∧ (∀ x ∈ t.host.tickets, x.acceptId = id → x.ended = true) ∧
      (∀ v ∈ t.stp.work, v.acceptId = id → v.forwardEnded = true ∧ v.endBeat = beatNow s))

/-- O35. At a gate whose clock runs: a packet that is not 17 flits long, or that is clean and fits none of the four positions from
the cursor on, changes nothing but its count and flag. A poisoned packet is taken at the cursor and a clean one at the first
position that it fits; the cursor then names the next position; a position already accepted, or of a settled micro-batch, is
counted as a duplicate; any other adds its 256 words to the exact sums of its slot, with its poison, and where all 768 slots of
the gate are in use the oldest incomplete block is spilled. Exact sums do not depend on the order of the terms. Each of these is
said to answer a next state with its own effect: PARTIAL_RECEIVE. (R258, R259, R260, R261, R265) -/
def Obligations.PartialsAreMatchedAndSummed : Prop :=
  (∀ (s : State) (crescent endpoint gate : Nat) (source : CoreId) (flits : List Flit),
    gateAt crescent endpoint = some gate → bit (getN s Key.clockEnableGates) gate = true →
    let es := sourceEntries s gate (coreKey source)
    let c := cursorOf s gate (coreKey source)
    let fits := fun (q : Cursor) => trailerHolds (partialWord es q) (flitBytes (flits.take 16)) (flitBytes (flits.drop 16))
    let busy := s.gates.slots.filter (fun x => x.gate == gate && !x.spilled && !x.applied)
    (flits.length ≠ 17 ∨ es = [] ∨ (anyPoison flits = false ∧ ∀ q ∈ cursorWindow es.length c, fits q = false) →
      exec (.partialReceive ⟨crescent, endpoint⟩ source ⟨flits, ⟨[], [], 0⟩⟩) s =
        .next (raise (count64 s Key.partialsDiscarded) Key.exchangeFlags 1)) ∧
    (∀ (q : Cursor) (e : SourceEntry), flits.length = 17 → es[q.pos]? = some e →
      (anyPoison flits = true ∧ q = c) ∨ (anyPoison flits = false ∧ (cursorWindow es.length c).find? fits = some q) →
      (partialSeen s e q.seq = true →
        exec (.partialReceive ⟨crescent, endpoint⟩ source ⟨flits, ⟨[], [], 0⟩⟩) s =
          .next (count64 (setCursor s (cursorNext es.length q)) Key.duplicatesDiscarded)) ∧
      (partialSeen s e q.seq = false →
        let found := findSlot s gate e.group e.block q.seq
        let old := found.getD ⟨gate, e.group, e.block, q.seq, [], List.replicate 256 ElemSum.zero, false, false, false⟩
        old.spilled = false →
        (busy.length < 768 ∨ found.isSome = true →
          ∃ t x, exec (.partialReceive ⟨crescent, endpoint⟩ source ⟨flits, ⟨[], [], 0⟩⟩) s = .next t ∧ cursorNext es.length q ∈ t.gates.cursors ∧
            findSlot t gate e.group e.block q.seq = some x ∧ x.accepted = old.accepted ++ [(coreKey source, e.pos)] ∧
            x.poison = (old.poison || anyPoison flits) ∧
            (∀ i, i < 256 → x.sums.getD i ElemSum.zero = (old.sums.getD i ElemSum.zero).add ((partialWords e flits).getD i 0)) ∧
            t.stk = s.stk ∧ t.cores = s.cores ∧ t.update = s.update) ∧
        (∀ y, 768 ≤ busy.length → found = none → busy.find? (fun x => !slotFull s x) = some y →
          ∃ t x y', exec (.partialReceive ⟨crescent, endpoint⟩ source ⟨flits, ⟨[], [], 0⟩⟩) s = .next t ∧
            findSlot t gate e.group e.block q.seq = some x ∧ x.accepted = [(coreKey source, e.pos)] ∧
            findSlot t gate y.group y.block y.seq = some y' ∧ y'.spilled = true ∧ y'.accepted = y.accepted ∧
            getN t Key.gateSpills = satAdd 64 (getN s Key.gateSpills) 1)))) ∧
  (∀ (a : ElemSum) (v w : W32), (a.add v).add w = (a.add w).add v)

/-- O36. A full slot whose predecessor has settled writes, for every element, the committed value plus the exact sum, rounded once,
into the uncommitted buffer (the committed value counting as +0 before the first included micro-batch) and nothing else in the
stacks; a poisoned one writes nothing and reports POISONED. SETTLE with only CLEAN reports flips the selector and counts it as
included; with a POISONED or MISSING report it leaves the selector and counts the exclusion under POISONED where any report is
that, else under MISSING; after the step's last micro-batch the group's sum is final. SETTLE_WAIT_EXPIRY of an ended micro-batch
reports MISSING for each unsettled group of the gate that lacks a partial and has no report, and changes nothing else. Each of
these is said to answer a next state with its own effect: RUNNING_SUM_APPLY, SETTLE, SETTLE_WAIT_EXPIRY. (R262, R263, R264) -/
def Obligations.RunningSumsSettleAndExpire : Prop :=
  (∀ (s : State) (gate group block seq : Nat) (d : List Byte) (x : Slot), groupDesc s group = some d →
    findSlot s gate group block seq = some x → slotFull s x = true → x.applied = false → x.spilled = false →
    isSettled s group seq = false →
    predecessorSettled s group seq = true →
    let g := getGroup s group
    let committed := exAddr s d block (exRun (b2n g.runSel))
    let target := exAddr s d block (exRun (1 - b2n g.runSel))
    let old := fun i => if g.included = 0 then 0 else (readWords s committed 256).getD i 0
    let poisoned := x.poison || (g.included != 0 && stkPoisoned s committed 1024)
    ∃ t, exec (.runningSumApply gate group block ⟨seq, ⟨[], [], 0⟩⟩) s = .next t ∧
      (poisoned = false →
        readWords t target 256 = (List.range 256).map (fun i => (x.sums.getD i ElemSum.zero).applyTo (old i)) ∧
        (∀ a, a < target ∨ target + 1024 ≤ a → memRead t.stk.mem a = memRead s.stk.mem a)) ∧
      (poisoned = true → t.stk = s.stk ∧
        (reportOf s gate group seq ≠ some .clean → reportOf t gate group seq = some .poisoned)) ∧
      t.update = s.update ∧ t.objs = s.objs) ∧
  (∀ (s : State) (group seq : Nat) (d : List Byte), groupDesc s group = some d → groupGates s group ≠ [] →
    firstSeq s ≤ seq → seq ≤ lastSeq s → isSettled s group seq = false → predecessorSettled s group seq = true →
    let g := getGroup s group
    let reported := fun (r : Report) => ∃ k ∈ groupGates s group, reportOf s k group seq = some r
    ((∀ k ∈ groupGates s group, reportOf s k group seq = some .clean) → ∃ u,
      exec (.settle group ⟨seq, ⟨[], [], 0⟩⟩) s = .next (if seq = lastSeq s then groupFinal u d else u) ∧
      getGroup u group = { g with runSel := !g.runSel, included := g.included + 1, settled := some seq } ∧
      isSettled u group seq = true ∧ u.stk = s.stk ∧ u.objs = s.objs) ∧
    ((reported .poisoned ∨ reported .missing) → ∃ u,
      exec (.settle group ⟨seq, ⟨[], [], 0⟩⟩) s = .next (if seq = lastSeq s then groupFinal u d else u) ∧
      getGroup u group = { g with excluded := g.excluded + 1, settled := some seq } ∧ isSettled u group seq = true ∧ u.stk = s.stk ∧
      bit (stGet u.raised Key.exchangeFlags) 0 = true ∧
      (reported .poisoned → getN u Key.excludedPoisoned = satAdd 64 (getN s Key.excludedPoisoned) 1 ∧
        getN u Key.excludedMissing = getN s Key.excludedMissing) ∧
      (¬reported .poisoned → getN u Key.excludedMissing = satAdd 64 (getN s Key.excludedMissing) 1 ∧
        getN u Key.excludedPoisoned = getN s Key.excludedPoisoned))) ∧
  (∀ (s : State) (gate seq : Nat), (∃ e ∈ s.gates.backwardEnded, e.1 = seq) →
    ∃ t, exec (.settleWaitExpiry gate seq) s = .next t ∧ t = { s with gates := { s.gates with reports := t.gates.reports } } ∧
      (∀ group ∈ gateGroups s gate, isSettled s group seq = false → partialLacks s gate group seq = true →
        reportOf s gate group seq = none → reportOf t gate group seq = some .missing) ∧
      (∀ r ∈ s.gates.reports, r ∈ t.gates.reports))

/-- O37. A message with a failed CHECK, a reserved value, a rank out of range, another source or replica count, or a shape that does
not fit is counted as rejected and changes nothing else; a copy of an accepted message is counted, with DUP_CONFLICT where it
differs; one for the next step is kept; a new CONTRIB is accepted for its group with its encodings in the INBOUND area, or, of
an excused rank, put aside, a new GATHER writes its decompressed blocks into GRAD and counts them as gathered, and a new
FINGERPRINT is kept for the comparison, which, once every rank's is there, marks each group as agreeing exactly where all
fingerprints are equal. Each of these is said to answer a next state with its own effect: CONTRIB_RECEIVE, GATHER_RECEIVE,
FINGERPRINT_RECEIVE. (R266, R271, R272, R273, R274, R276, R277, R280, R281, R304) -/
def Obligations.ExchangeMessagesAreJudgedAndTaken : Prop :=
  ∀ (s : State) (m : XMsg) (i : Instr), (m.typ = 1 ∧ i = .contribReceive ⟨m, ⟨[], [], 0⟩⟩) ∨ (m.typ = 2 ∧ i = .gatherReceive m) ∨ (m.typ = 3 ∧ i = .fingerprintReceive m) →
    let stepOf := if m.typ = 3 then m.step + 1 else m.step
    let sound := m.check.toNat = xCheck (ownAddr s) m ∧ xReserved m = false ∧ m.rank < getN s Key.replicas ∧
      m.source = peerAddr s m.rank ∧ m.replicas = getN s Key.replicas ∧ xShapeOk s m = true
    (¬sound ∨ (stepOf ≠ s.stp.step ∧ stepOf ≠ s.stp.step + 1) → exec i s = .next (count64 s Key.messagesRejected)) ∧
    (∀ a, sound → stepOf = s.stp.step ∨ stepOf = s.stp.step + 1 → (acceptedMsgs s).find? (sameMsg m) = some a →
      exec i s = .next (if a = m then count64 s Key.duplicatesDiscarded
        else raise (count64 s Key.duplicatesDiscarded) Key.exchangeFlags 4)) ∧
    (sound → (acceptedMsgs s).any (sameMsg m) = false → stepOf = s.stp.step + 1 → s.exch.nextStep.any (sameMsg m) = false →
      exec i s = .next { s with exch := { s.exch with nextStep := s.exch.nextStep ++ [m] } }) ∧
    (sound → (acceptedMsgs s).any (sameMsg m) = false → stepOf = s.stp.step → gatherWaits s m = false →
      (∀ d, m.typ = 1 → groupDesc s m.group = some d → m.rank ∈ s.exch.excused → ∃ t, exec i s = .next t ∧
        t.exch = { s.exch with unused := s.exch.unused ++ [m] } ∧ t.update = s.update ∧
        (m.blockCount = 1 →
          let a := inboundAddr s d m.rank m.firstBlock (inboundSize s m.group)
          let n := encSize m.method m.kcode
          stkRead t a n = slice m.payload 0 n ∧ (∀ x, x < a ∨ a + n ≤ x → memRead t.stk.mem x = memRead s.stk.mem x))) ∧
      (∀ d, m.typ = 1 → groupDesc s m.group = some d → m.rank ∉ s.exch.excused → ∃ t, exec i s = .next t ∧ m ∈ t.exch.accepted ∧
        (∀ r, r < getN s Key.replicas → r ≠ m.rank → r ∉ s.exch.excused → (∀ x ∈ s.exch.accepted, x.typ = 1 → x.rank ≠ r) →
          m.blockCount = 1 →
          let a := inboundAddr s d m.rank m.firstBlock (inboundSize s m.group)
          let n := encSize m.method m.kcode
          stkRead t a n = slice m.payload 0 n ∧ (∀ x, x < a ∨ a + n ≤ x → memRead t.stk.mem x = memRead s.stk.mem x))) ∧
      (∀ d, m.typ = 2 → groupDesc s m.group = some d → ∃ t, exec i s = .next t ∧ m ∈ t.exch.accepted ∧
        (∀ b, m.firstBlock ≤ b → b < m.firstBlock + m.blockCount → b ∈ (getGroup t m.group).gathered) ∧
        (m.flags = 1 → t.stk = s.stk ∧ (getGroup t m.group).skip = true ∧ bit (stGet t.raised Key.exchangeFlags) 5 = true) ∧
        (m.flags = 0 → m.blockCount = 1 →
          let a := blockAddr d m.firstBlock arrGrad 1024
          readWords t a 256 = padZero d m.firstBlock (decodeBlock m.method m.kcode (slice m.payload 0 (encSize m.method m.kcode))) ∧
          (∀ x, x < a ∨ a + 1024 ≤ x → memRead t.stk.mem x = memRead s.stk.mem x))) ∧
      (m.typ = 3 → ∃ t, exec i s = .next t ∧ m ∈ t.exch.fingerprints ∧
        (s.exch.comparedStep ≠ some (getN s Key.commitStep) →
          (∀ r, r < getN s Key.replicas → ∃ f ∈ s.exch.fingerprints ++ [m], f.rank = r ∧ f.step = getN s Key.commitStep) →
          ∀ d ∈ groupDescs s, ((getGroup t (gdGroup d)).agree = true ↔
            ∀ r, r < getN s Key.replicas → rankFingerprint t r (gdGroup d) = rankFingerprint t 0 (gdGroup d)))))

/-- O38. An accepted write of EXCUSE stands in for every contribution of its rank; of OVERRIDE waits for the milestone; of
SET_COMPRESSION, whose range holds the valid methods, where the group is loaded and the area fits, is staged for the milestone
and is refused with BAD_VALUE otherwise; of a key half or a constant is staged in its own object and changes no other. PEER_LATE
of a group whose sum has been final for PEER_LATE_BEATS without a complete gradient raises the flag, once, and records the
lowest rank outstanding. Each of these is said to answer a next state with its own effect: PEER_LATE, EXCUSE, OVERRIDE,
SET_COMPRESSION, KEY_SLOT_WRITE, CONSTANT_SET_WRITE. (R105, R252, R277, R283, R287, R304) -/
def Obligations.ExchangeObjectsAndLatePeers : Prop :=
  (∀ (s : State) (w : WReq), Accepted s Key.excuse w → ∃ t, exec (.excuse ⟨w, ⟨[], [], 0⟩⟩) s = .next t ∧ getN t Key.excuse = w.val ∧
    .objStatus Key.excuse 0 ∈ t.out ∧ (w.val < getN s Key.replicas → w.val ∈ t.exch.excused ∧ ∀ g b, contribThere t g w.val b = true)) ∧
  (∀ (s : State) (w : WReq), Accepted s Key.override w → ∃ t, exec (.override w) s = .next t ∧ getN t Key.override = w.val ∧
    t.out = s.out ++ [.objStatus Key.override 0] ∧ t.update = s.update ∧
    t.exch = { s.exch with overrideDue := if w.val = 0xFFFFFFFF then none else some (bits w.val 11 0, bits w.val 27 12) }) ∧
  (∀ (s : State) (w : WReq), Accepted s Key.setCompression w →
    let fits := (∃ d, groupDesc s (bits w.val 11 0) = some d) ∧
      encSize (bits w.val 23 16) (bits w.val 31 24) ≤ inboundSize s (bits w.val 11 0)
    (fits → ∃ t, exec (.setCompression w) s = .next t ∧ t.out = s.out ++ [.objStatus Key.setCompression 0] ∧
      amGet [] t.exch.pendingComp (bits w.val 11 0) = slice (leBytes 8 w.val) 2 4 ∧
      getDom t Key.compressionTable = getDom s Key.compressionTable) ∧
    (¬fits → exec (.setCompression w) s = .next (emit s (.objStatus Key.setCompression 7)))) ∧
  (∀ (s : State) (slot : BitVec 4) (high : Bool) (w : WReq),
    let key := if high then Key.keyHi slot.toNat else Key.keyLo slot.toNat
    Accepted s key w → ∃ t, exec (.keySlotWrite slot high w) s = .next t ∧ getN t key = w.val ∧ t.out = s.out ++ [.objStatus key 0] ∧
      (∀ k, k ≠ key → getN t k = getN s k) ∧ t.cores = s.cores) ∧
  (∀ (s : State) (set : BitVec 6) (k : Nat) (w : WReq), k < 12 → Accepted s (Key.ksetK set.toNat k) w →
    ∃ t, exec (.constantSetWrite set k w) s = .next t ∧ getN t (Key.ksetK set.toNat k) = w.val ∧
      t.out = s.out ++ [.objStatus (Key.ksetK set.toNat k) 0] ∧ (∀ x, x ≠ Key.ksetK set.toNat k → getN t x = getN s x) ∧
      t.update = s.update) ∧
  (∀ (s : State) (group : Nat) (d : List Byte), groupDesc s group = some d →
    let g := getGroup s group
    (g.final = true → g.hold = false → g.ready = false → g.late = false → g.finalBeat + getN s Key.peerLateBeats ≤ beatNow s →
      ∃ t, exec (.peerLate group) s = .next t ∧ getGroup t group = { g with late := true } ∧
        bit (stGet t.raised Key.exchangeFlags) 2 = true ∧ (∀ r, lateRank s d = some r → getN t Key.peerLateRank = r) ∧ t.stk = s.stk) ∧
    (g.final = false ∨ g.hold = true ∨ g.ready = true ∨ g.late = true ∨ beatNow s < g.finalBeat + getN s Key.peerLateBeats →
      exec (.peerLate group) s = .next s))

/-- O39. A waiting message leaves in all its segments, numbered next, where the window has room, a port is UP and, for DATA, no
ENCAP message waits, and otherwise stays; a datagram with an extension header, a failed check, a reserved value, another
destination, an unknown source or an old epoch is discarded and counted; an admitted segment of an incomplete message, where no
read meets an error, is held; an admitted ACK moves the cumulative value and drops what it covers; an ENCAP message next in
order moves its flow; a due ACK leaves on the flow's port, or is owed while none is UP; and a retransmission sends the oldest
message's unreported segments again and doubles the wait up to 64. Each of these is said to answer a next state with its own
effect: DATAGRAM_DATA, DATAGRAM_ACK, DATAGRAM_ENCAP, TRANSPORT_MESSAGE_SEND, ACK_DELAY_EXPIRY, RETX_TIMEOUT. (R352, R355, R356,
R357, R358, R359, R360, R361, R375, R377) -/
def Obligations.TransportSendsReceivesAndRetries : Prop :=
  let sound := fun (s : State) (kind : Nat) (via : Arrival) (d : Datagram) => via.extHeader = false ∧ d.udpOk = true ∧
    d.check.toNat = dgCheck d ∧ d.kind = kind ∧ dgReservedOk d = true ∧ d.dest = ownAddr s ∧ knownSource s d.source = true
  let same := fun (s : State) (d : Datagram) => heldEpoch s d.source = none ∨ heldEpoch s d.source = some d.epoch
  let noEncap := fun (s : State) => ∀ g ∈ s.eth.tx, g.encap = true → g.waiting = []
  let segment := fun (s : State) (dest : Nat) (encap : Bool) (seq p : Nat) (bs : List Byte) (i : Nat) =>
    let d := ownDatagram s (flowKind encap) (b2n (i + 1 == segCount bs)) dest seq i (segCount bs) ((bs.drop (8192 * i)).take 8192)
    Out.datagram p (envelopeOf s p d) d
  (∀ (s : State) (dest : Nat) (encap : Bool) (f : TxFlow) (bs : List Byte) (rest : List (List Byte)), findTx s dest encap = some f →
    f.waiting = bs :: rest → (encap = false → noEncap s) →
    (f.unacked.length < getN s Key.windowMessages → upPorts s ≠ [] → ∃ t p, exec (.transportMessageSend dest encap) s = .next t ∧
      portFor s f.next (ownAddr s) = some p ∧
      findTx t dest encap = some { f with waiting := rest, next := f.next + 1, unacked := f.unacked ++ [⟨f.next, bs, [], true⟩] } ∧
      t.out = s.out ++ (List.range (segCount bs)).map (segment s dest encap f.next p bs) ∧
      getN t Key.segmentsSent = satAdd 64 (getN s Key.segmentsSent) (segCount bs)) ∧
    (getN s Key.windowMessages ≤ f.unacked.length ∨ upPorts s = [] → exec (.transportMessageSend dest encap) s = .next s)) ∧
  (∀ (s : State) (via : Arrival) (d : Datagram) (errs : StackErrs) (i : Instr) (kind : Nat),
    (kind = 1 ∧ i = .datagramData ⟨⟨via, d⟩, errs⟩) ∨ (kind = 2 ∧ i = .datagramAck ⟨via, d⟩) ∨ (kind = 3 ∧ i = .datagramEncap ⟨via, d⟩) →
    ¬sound s kind via d ∨ (∃ e, heldEpoch s d.source = some e ∧ d.epoch < e) →
    exec i s = .next (discardDatagram (countArrival s via d))) ∧
  (∀ (s : State) (via : Arrival) (d : Datagram), sound s 1 via d → same s d →
    let f := rxFlow s d false
    let m := rxMsg f d
    f.cum < d.msgSeq → m.written = false → m.held.any (fun h => h.1 == d.segment) = false → d.flags = 0 →
    rxComplete { m with held := m.held ++ [(d.segment, d.payload)] } = false →
    ∃ t g, exec (.datagramData ⟨⟨via, d⟩, ⟨[], [], 0⟩⟩) s = .next t ∧ findRx t d.source false = some g ∧ g.cum = f.cum ∧ g.fresh = true ∧
      { m with held := m.held ++ [(d.segment, d.payload)] } ∈ g.msgs ∧ heldEpoch t d.source = some d.epoch ∧
      t.out = s.out ∧ t.exch = s.exch) ∧
  (∀ (s : State) (via : Arrival) (d : Datagram), sound s 3 via d → same s d →
    let f := rxFlow s d true
    d.msgSeq = f.cum + 1 → rxMsg f d = ⟨d.msgSeq, 1, [], false⟩ →
    ∃ t g, exec (.datagramEncap ⟨via, d⟩) s = .next t ∧ findRx t d.source true = some g ∧ d.msgSeq ≤ g.cum ∧
      (∀ m ∈ g.msgs, m.seq ≠ d.msgSeq)) ∧
  (∀ (s : State) (via : Arrival) (d : Datagram) (f : TxFlow), sound s 2 via d → same s d →
    ackOk d.payload = true → findTx s d.source (field d.payload 0 1 == 3) = some f →
    ∃ t g, exec (.datagramAck ⟨via, d⟩) s = .next t ∧ findTx t d.source (field d.payload 0 1 == 3) = some g ∧
      g.cum = max f.cum (min d.msgSeq (f.next - 1)) ∧ g.waiting = f.waiting ∧ g.next = f.next ∧
      (f.cum < g.cum → g.backoff = 1) ∧ (g.cum = f.cum → g.backoff = f.backoff) ∧
      g.unacked.map (fun m => (m.seq, m.bytes)) = (f.unacked.filter (fun m => decide (g.cum < m.seq))).map (fun m => (m.seq, m.bytes))) ∧
  (∀ (s : State) (source : Nat) (encap : Bool) (f : RxFlow), findRx s source encap = some f →
    (f.fresh = true → upPorts s ≠ [] → ∃ t p, exec (.ackDelayExpiry source encap) s = .next t ∧ portFor s f.cum (ownAddr s) = some p ∧
      findRx t source encap = some { f with fresh := false, owed := false } ∧
      (let d := ownDatagram s 2 0 source f.cum 0 0 (ackPayload f)
       t.out = s.out ++ [.datagram p (envelopeOf s p d) d])) ∧
    (f.fresh = true → upPorts s = [] → ∃ t, exec (.ackDelayExpiry source encap) s = .next t ∧
      findRx t source encap = some { f with owed := true } ∧ t.out = s.out) ∧
    (f.fresh = false → exec (.ackDelayExpiry source encap) s = .next s)) ∧
  (∀ (s : State) (dest : Nat) (encap : Bool) (f : TxFlow) (m : TxMsg) (ms : List TxMsg), findTx s dest encap = some f →
    f.unacked = m :: ms → (encap = false → noEncap s) →
    (upPorts s ≠ [] → ∃ t p, exec (.retxTimeout dest encap) s = .next t ∧ portFor s m.seq (ownAddr s) = some p ∧
      findTx t dest encap = some { f with backoff := min (2 * f.backoff) 64 } ∧
      t.out = s.out ++ (unreceived m).map (segment s dest encap m.seq p m.bytes)) ∧
    (upPorts s = [] → exec (.retxTimeout dest encap) s = .next s))

/-- O40. EP_PORT_UP makes a port that is neither DISABLED nor gated UP; with no message waiting, a Neighbor Solicitation for its
GATEWAY leaves where that is set and not resolved, and then each ACK that waited for a port; EP_PORT_DOWN makes a port that is
UP or TRAINING DOWN and raises its flag; an accepted EP_ENABLE of 0 disables the port and of 1 lets a disabled one train; on an
UP port an advertisement of the gateway is kept and a solicitation for the port's address is answered; PTP_MESSAGE_RECEIVE, once
the clocks run, of a message of PTP_DOMAIN at the active core's port writes the offset in 64-bit two's complement and the state,
2 while locked and 1 while not, and of another domain changes nothing. Each of these is said to answer a next state with its own
effect: EP_PORT_UP, EP_PORT_DOWN, EP_ENABLE, PTP_MESSAGE_RECEIVE, NEIGHBOR_DISCOVERY_RECEIVE. (R352, R353, R356, R375, R398,
R414, R548) -/
def Obligations.EthernetPortsAndPtp : Prop :=
  (∀ (s : State) (port : BitVec 3),
    (epSt s port.toNat ≠ 3 → bit (getN s Key.clockEnableEp) port.toNat = true →
      let gateway := getDom s (Key.epGateway port.toNat)
      ∃ t, exec (.epPortUp port) s = .next t ∧ epSt t port.toNat = 2 ∧ (∀ f ∈ s.eth.rx, f.owed = true → ∃ g ∈ t.eth.rx, g.owed = false ∧
          g.source = f.source ∧ g.encap = f.encap) ∧
        ((∀ f ∈ s.eth.tx, f.waiting = []) → t.out = s.out ++
          (if s.eth.resolved.any (fun e => e.1 == port.toNat) || gateway.all (fun b => b == 0) then [] else [.solicit port.toNat gateway]) ++
          (s.eth.rx.filter (fun f => f.owed)).filterMap (fun f => (portFor t f.cum (ownAddr t)).map (fun p =>
            let d := ownDatagram t 2 0 f.source f.cum 0 0 (ackPayload f)
            Out.datagram p (envelopeOf t p d) d)))) ∧
    (epSt s port.toNat = 3 ∨ bit (getN s Key.clockEnableEp) port.toNat = false → exec (.epPortUp port) s = .next s) ∧
    (epSt s port.toNat = 1 ∨ epSt s port.toNat = 2 → ∃ t, exec (.epPortDown port) s = .next t ∧ epSt t port.toNat = 0 ∧
      bit (stGet t.raised Key.ethFlags) 3 = true ∧ t.eth = s.eth) ∧
    (epSt s port.toNat = 0 ∨ epSt s port.toNat = 3 → exec (.epPortDown port) s = .next s)) ∧
  (∀ (s : State) (port : BitVec 3) (w : WReq), Accepted s (Key.epEnable port.toNat) w →
    ∃ t, exec (.epEnable port w) s = .next t ∧ getN t (Key.epEnable port.toNat) = w.val ∧
      (w.val = 0 → epSt t port.toNat = 3) ∧ (w.val ≠ 0 → epSt s port.toNat = 3 → epSt t port.toNat = 1) ∧
      (w.val ≠ 0 → epSt s port.toNat ≠ 3 → epSt t port.toNat = epSt s port.toNat) ∧
      t.out = s.out ++ [.objStatus (Key.epEnable port.toNat) 0]) ∧
  (∀ (s : State) (port : BitVec 3) (target linkAddr : List Byte), epSt s port.toNat = 2 →
    (target = getDom s (Key.epGateway port.toNat) → ∃ t, exec (.neighborDiscoveryReceive port true target linkAddr) s = .next t ∧
      t = { s with eth := { s.eth with resolved := t.eth.resolved } } ∧ amGet [] t.eth.resolved port.toNat = linkAddr) ∧
    (target = portAddress s port.toNat → exec (.neighborDiscoveryReceive port false target linkAddr) s =
      .next (emit s (.neighbour port.toNat (target ++ beBytes 6 (getN s (Key.epMacAddress port.toNat)))))) ∧
    (target ≠ portAddress s port.toNat → exec (.neighborDiscoveryReceive port false target linkAddr) s = .next s)) ∧
  (∀ (s : State) (m : PtpMessage) (locked : Bool),
    (2 ≤ getN s Key.bringupPhase → m.port = getN s Key.activeCore → m.domain = getN s Key.ptpDomain →
      ∃ t, exec (.ptpMessageReceive m locked) s = .next t ∧ getN t Key.ptpOffsetNs = unsigned 64 m.offsetNs ∧
        getN t Key.ptpState = (if locked then 2 else 1) ∧ t.beat.ptpLocked = locked ∧
        (∀ k, k ≠ Key.ptpOffsetNs → k ≠ Key.ptpState → getN t k = getN s k)) ∧
    (m.domain ≠ getN s Key.ptpDomain → exec (.ptpMessageReceive m locked) s = .next s))

/-- O41. A port that is not ACTIVE takes no frame. On an ACTIVE port: a DATA frame that is damaged or malformed is discarded and
answered with a CONTROL frame that carries NAK; a good one whose number is the next is accepted, moves the last number accepted,
ends the NAK state and counts its payload; a good CONTROL frame drops what its ACK_SEQ covers, and with NAK has the rest sent
again in order, or has the port retrain at the sixteenth NAK within a ms; another CONTROL frame only has its FEC report counted;
the replay timeout sends every unacknowledged frame again in order and counts them. Each of these is said to answer a next state
with its own effect: DATA_FRAME_RECEIVE, CONTROL_FRAME_RECEIVE, AELIF_REPLAY_TIMEOUT. (R329, R330, R332, R333, R334) -/
def Obligations.AelifFramesAreTakenInOrder : Prop :=
  let recentNaks := fun (s : State) (p : Nat) => ((getPort s p).naks.filter (fun b => decide (beatNow s < b + nakBeats s))).length
  (∀ (s : State) (port : Nat) (f : AFrame), port < 48 → portActive s port = false →
    exec (.dataFrameReceive port f) s = .next s ∧ exec (.controlFrameReceive port f) s = .next s ∧ exec (.aelifReplayTimeout port) s = .next s) ∧
  (∀ (s : State) (port : Nat) (f : AFrame), port < 48 → portActive s port = true →
    frameOk f = false ∨ f.typ ≠ 0 ∨ f.flits = [] ∨ 32 < f.flits.length →
    ∃ t g, exec (.dataFrameReceive port f) s = .next t ∧ t.out = s.out ++ [.aelif port g] ∧ g.typ = 1 ∧ g.nak = true ∧ g.flits = [] ∧
      g.ackSeq = (getPort s port).rxSeq ∧ (getPort t port).rxSeq = (getPort s port).rxSeq ∧ (getPort t port).nakState = true ∧
      t.mesh = s.mesh) ∧
  (∀ (s : State) (port : Nat) (f : AFrame), port < 48 → portActive s port = true → frameOk f = true → f.typ = 0 →
    f.flits ≠ [] → f.flits.length ≤ 32 → f.frameSeq = (getPort s port).rxSeq + 1 →
    ∃ t, exec (.dataFrameReceive port f) s = .next t ∧ (getPort t port).rxSeq = f.frameSeq ∧ (getPort t port).nakState = false ∧
      getN t (Key.portPayloadRx port) = satAdd 64 (getN s (Key.portPayloadRx port)) (64 * f.flits.length)) ∧
  (∀ (s : State) (port : Nat) (f : AFrame), port < 48 → portActive s port = true → frameOk f = true → f.typ = 1 → f.flits = [] →
    (∀ q ∈ upFrom (12 * portDir port) 12, (getPort s q).queue = []) → recentNaks s port + 1 < 16 →
    ∃ (t : State) (fs : List AFrame), exec (.controlFrameReceive port f) s = .next t ∧
      (getPort t port).unacked = ackedFrames f.ackSeq (getPort s port).unacked ∧
      t.out = s.out ++ fs.map (fun g => .aelif port g) ∧
      fs.map (fun g => g.frameSeq) = (if f.nak then (ackedFrames f.ackSeq (getPort s port).unacked).map (fun g => g.frameSeq) else [])) ∧
  (∀ (s : State) (port : Nat) (f : AFrame), port < 48 → portActive s port = true → frameOk f = true → f.typ = 1 → f.flits = [] →
    f.nak = true → 16 ≤ recentNaks s port + 1 → ∃ t, exec (.controlFrameReceive port f) s = .next t ∧
      bit (stGet t.raised (Key.portFlags port)) 3 = true ∧ (getN t (Key.portState port) = 1 ∨ getN t (Key.portState port) = 2)) ∧
  (∀ (s : State) (port : Nat) (f : AFrame), port < 48 → portActive s port = true → frameOk f = false ∨ f.typ ≠ 1 ∨ f.flits ≠ [] →
    exec (.controlFrameReceive port f) s = .next (countFec s port f)) ∧
  (∀ (s : State) (port : Nat), port < 48 → portActive s port = true →
    ∃ (t : State) (fs : List AFrame), exec (.aelifReplayTimeout port) s = .next t ∧ t.out = s.out ++ fs.map (fun g => .aelif port g) ∧
      fs.map (fun g => g.frameSeq) = (getPort s port).unacked.map (fun g => g.frameSeq) ∧
      (getPort t port).unacked = (getPort s port).unacked ∧
      ((getPort s port).unacked ≠ [] → getN t (Key.portFramesReplayed port) = satAdd 64 (getN s (Key.portFramesReplayed port)) (getPort s port).unacked.length))

/-- O42. LOSS_OF_LOCK of a trained port has it retrain, or go DOWN at RETRAIN_LIMIT retrains within a minute; PORT_TRAINED leaves a
port that waits for its signpost CLASSIFYING with its delay, and classifies one that has it; PORT_DOWN of a port neither
DISABLED nor UNPLANNED makes it DOWN, and asks the peer on another ACTIVE port for the last frame that it accepted; PORT_ENABLE
stops or starts its port; LAST_FRAME_SEQ_REQUEST is answered on another ACTIVE port of the direction; SIGNPOST_SEND sends the
port's signpost in a frame with the acknowledgement and the next credit; a well-formed signpost is kept, has a CLASSIFYING port
classified, and makes the port UNPLANNED with cause 6 where it names another peer in RUN; NEIGHBOUR_ABSENT records the absence,
and whether the engine beyond is absent, and leaves the bridge to the boundary; LINK_PLAN is installed only where it is valid
and the engine not in RUN; SUBSTITUTE_TABLE is taken. Each of these is said to answer a next state with its own effect:
SIGNPOST_RECEIVE, SIGNPOST_SEND, LOSS_OF_LOCK, PORT_TRAINED, PORT_DOWN, NEIGHBOUR_ABSENT, LINK_PLAN, PORT_ENABLE,
SUBSTITUTE_TABLE, LAST_FRAME_SEQ_REQUEST. (R333, R339, R340, R341, R342, R343, R345, R347, R351) -/
def Obligations.AelifPortsAndDiscovery : Prop :=
  (∀ (s : State) (port : Nat), port < 48 → 3 ≤ portSt s port → portSt s port ≤ 6 →
    let past := ((getPort s port).retrains ++ [beatNow s]).filter (fun b => decide (beatNow s < b + minuteBeats s))
    ∃ t, exec (.lossOfLock port) s = .next t ∧ bit (stGet t.raised (Key.portFlags port)) 3 = true ∧
      getN t (Key.portState port) = (if getN s Key.retrainLimit ≤ past.length then 1 else 2) ∧ (getPort t port).retrains = past) ∧
  (∀ (s : State) (port delayPs : Nat) (last : BitVec 8), port < 48 → portSt s port ≠ 0 → portSt s port ≠ 7 →
    ∃ t, exec (.portTrained port ⟨delayPs, last⟩) s = .next t ∧
      getN t (Key.portLinkDelayPs port) = delayPs ∧ (getPort t port).trained = true ∧
      ((getPort s port).trained = false ∨ (getPort s port).heard = false ∨ portSt s port = 6 → getN t (Key.portState port) = 3) ∧
      ((getPort s port).trained = true → (getPort s port).heard = true → portSt s port ≠ 6 →
        4 ≤ getN t (Key.portState port) ∧ getN t (Key.portState port) ≤ 6)) ∧
  (∀ (s : State) (port : Nat) (last : BitVec 8), port < 48 → portSt s port ≠ 0 →
    ∃ t, exec (.portDown port last) s = .next t ∧
      (portSt s port ≠ 5 → portSt s port ≠ 7 → getN t (Key.portState port) = 1 ∧ (getPort t port).trained = false) ∧
      (portSt s port = 5 ∨ portSt s port = 7 → getN t (Key.portState port) = getN s (Key.portState port)) ∧
      ((getPort s port).unacked ≠ [] → ∀ q, q ≠ port → portDir q = portDir port → portActive s q = true →
        ∃ via, .lastSeqRequest port via ∈ t.out)) ∧
  (∀ (s : State) (port : Nat) (w : WReq), port < 48 → Accepted s (Key.portEnable port) w →
    let old := getN s (Key.portEnable port)
    ∃ t, exec (.portEnable port w) s = .next t ∧ getN t (Key.portEnable port) = w.val ∧
      t.out = s.out ++ [.objStatus (Key.portEnable port) 0] ∧
      (w.val = old → getN t (Key.portState port) = getN s (Key.portState port)) ∧
      (w.val ≠ old → w.val = 0 → getN t (Key.portState port) = 7 ∧ (getPort t port).trained = false) ∧
      (w.val ≠ old → w.val ≠ 0 → getN t (Key.portState port) = (if 4 ≤ getN s Key.bringupPhase then 2 else 1))) ∧
  (∀ (s : State) (lost via : Nat), via < 48 → portDir via = portDir lost → portActive s via = true →
    exec (.lastFrameSeqRequest lost via) s = .next (emit s (.lastSeq via (getPort s lost).rxSeq))) ∧
  (∀ (s : State) (port : Nat), port < 48 → (getPort s port).trained = true → 3 ≤ portSt s port → portSt s port ≤ 6 →
    let r := getPort s port
    ∃ t g, exec (.signpostSend port) s = .next t ∧ t.out = s.out ++ [.aelif port g] ∧ g.typ = 2 ∧ g.vc = 0 ∧
      g.flits = [⟨signpostBytes s port, false⟩] ∧ g.ackSeq = r.rxSeq ∧ g.nak = r.nakState ∧ g.creditVc.toNat = r.turn % 4 ∧
      g.creditCount = r.freed.getD (r.turn % 4) 0 % 4096 ∧ getPort t port = { r with turn := (r.turn + 1) % 4 } ∧ t.objs = s.objs) ∧
  (∀ (s : State) (port : Nat) (f : AFrame), port < 48 → (getPort s port).trained = true → 2 ≤ portSt s port → portSt s port ≠ 7 →
    let bs := flitBytes f.flits
    let wellFormed := frameOk f = true ∧ f.typ = 2 ∧ bs.length = 64 ∧ field bs 0 4 / 2 ^ 18 = 0 ∧ field bs 7 1 / 8 = 0 ∧
      field bs 0x0D 1 = 0 ∧ field bs 0x0E 2 = 0 ∧ field bs 0x38 8 = 0 ∧ field bs 4 1 ≤ 47
    let recent := ((getPort s port).naks.filter (fun b => decide (beatNow s < b + nakBeats s))).length
    (wellFormed → ∃ t, exec (.signpostReceive port f) s = .next t ∧ getDom t (Key.portPeerSignpost port) = bs ∧
      (f.nak = false ∨ recent + 1 < 16 → (getPort t port).heard = true ∧
        (peerReplaced s port bs = true → getN t (Key.portState port) = 5 ∧ getN t (Key.portUnplannedCause port) = 6 ∧
          bit (stGet t.raised Key.discoveryFlags) 4 = true) ∧
        (peerReplaced s port bs = false → portSt s port = 3 → 4 ≤ getN t (Key.portState port) ∧ getN t (Key.portState port) ≤ 6))) ∧
    (¬wellFormed → exec (.signpostReceive port f) s = .next (countFec s port f))) ∧
  (∀ (s : State) (d : Dir) (beyond : Bool),
    (neighbourPlanned s (dirNum d) = true →
      ∃ t, exec (.neighbourAbsent ⟨d, beyond⟩) s = .next t ∧ t.aelif.absent = nsIns (dirNum d) s.aelif.absent ∧
        t.aelif.beyond = (if beyond then nsIns (dirNum d) s.aelif.beyond else nsDel (dirNum d) s.aelif.beyond) ∧
        getN t Key.bridgedDirections = getN s Key.bridgedDirections ∧ t.out = s.out) ∧
    (neighbourPlanned s (dirNum d) = false → exec (.neighbourAbsent ⟨d, beyond⟩) s = .next s)) ∧
  (∀ (s : State) (w : DReq), AcceptedDom s Key.linkPlan w →
    (planOk s w.bytes = true → inRun s = false → ∃ t, exec (.linkPlan w) s = .next t ∧ getDom t Key.linkPlan = w.bytes ∧
      getDom t Key.planHash = sha256 w.bytes ∧ getN t Key.planSerial = field w.bytes 0x0C 4 ∧ t.aelif = s.aelif ∧
      t.out = s.out ++ [.objStatus Key.linkPlan 0]) ∧
    (planOk s w.bytes = false → exec (.linkPlan w) s = .next (emit s (.objStatus Key.linkPlan 7))) ∧
    (planOk s w.bytes = true → inRun s = true → exec (.linkPlan w) s = .next (emit s (.objStatus Key.linkPlan 10)))) ∧
  (∀ (s : State) (w : DReq), AcceptedDom s Key.substituteTable w → ∃ t, exec (.substituteTable w) s = .next t ∧
    getDom t Key.substituteTable = w.bytes ∧ .objStatus Key.substituteTable 0 ∈ t.out)

/-- O43. TICK on the tick port of a running engine that is not the root, its interval fitting, leaves on every downstream port and
sets BEAT_OFFSET_NS; it places the next boundary and makes the tick the source where the ticks are not lost or the engine has
come within 40 ns of them; an interval outside a stretch run that differs from the period of an engine that follows the ticks is
flagged; TICK_LOST of a running engine and PTP_LOST make the own reference the source, with their flags; STRETCH_REQUEST is kept
at the root outside a run and forwarded elsewhere; BEAT_PERIOD_US is refused in RUN, and elsewhere keeps the time of the
boundary that takes it; HOST_LEASE and HOST_LEASE_BEATS renew the lease, which HOST_LEASE_EXPIRED lapses only after its beats;
REF_SOURCE_LOSS and REF_ELIGIBLE select the first eligible source of REF_PRIORITY, a change leaving the PLL in holdover, or
holdover where none is eligible; HOLDOVER_EXPIRY locks it to the source, or makes it FREE-RUN where there is none. Each of these
is said to answer a next state with its own effect: HOST_LEASE_EXPIRED, TICK, TICK_LOST, PTP_LOST, STRETCH_REQUEST,
BEAT_PERIOD_US, HOST_LEASE, HOST_LEASE_BEATS, REF_SOURCE_LOSS, REF_ELIGIBLE, HOLDOVER_EXPIRY. (R348, R394, R395, R396, R399,
R404, R407, R408, R409) -/
def Obligations.TicksReferencesAndTheLease : Prop :=
  (∀ (s : State) (port beat ns len place : Nat) (off : Int), s.beat.running = true → isTickRoot s = false → getN s Key.tickPort = port →
    portActive s port = true →
    ∃ t, exec (.tick port beat ⟨ns, off⟩ len place) s = .next t ∧ getN t Key.beatOffsetNs = unsigned 32 off ∧
      t.beat.tickRun = len ∧
      (s.beat.tickLost = false ∨ off.natAbs ≤ 40 → t.beat.tick = some (tickNumber s beat, len, place) ∧ t.beat.tickLost = false ∧
        getN t Key.beatSource = 0) ∧
      (s.beat.tickLost = true → 40 < off.natAbs → t.beat.tick = s.beat.tick ∧ t.beat.tickLost = true ∧
        getN t Key.beatSource = getN s Key.beatSource) ∧
      (s.beat.tickLost = true ∨ s.beat.tickRun ≠ 0 ∨ ns = 0 ∨ periodMismatch s ns = false →
        t.out = s.out ++ (tickPorts s).map (fun p => .tickOut p (beat % 2 ^ 48) len place) ∧ t.raised = s.raised) ∧
      (s.beat.tickLost = false → s.beat.tickRun = 0 → ns ≠ 0 → periodMismatch s ns = true →
        bit (stGet t.raised Key.beatFlags) 4 = true)) ∧
  (∀ s : State, s.beat.running = true → isTickRoot s = false → ∃ t, exec .tickLost s = .next t ∧ getN t Key.beatSource = 2 ∧
    t.beat = { s.beat with tickLost := true, tick := none } ∧ bit (stGet t.raised Key.beatFlags) 1 = true ∧
    (∀ k, k ≠ Key.beatSource → getN t k = getN s k)) ∧
  (∀ s : State, isTickRoot s = true → s.beat.ptpLostFlag = false → ∃ t, exec .ptpLost s = .next t ∧ getN t Key.beatSource = 2 ∧
    t.beat.ptpLocked = false ∧ t.beat.ptpLostFlag = true ∧ bit (stGet t.raised Key.beatFlags) 2 = true) ∧
  (∀ (s : State) (port : Nat), portActive s port = true →
    (isTickRoot s = true → s.beat.stretchLen = 0 →
      exec (.stretchRequest port) s = .next { s with beat := { s.beat with stretchReq := true } }) ∧
    (isTickRoot s = true → s.beat.stretchLen ≠ 0 → exec (.stretchRequest port) s = .next s) ∧
    (isTickRoot s = false → portActive s (getN s Key.tickPort) = true →
      exec (.stretchRequest port) s = .next (emit s (.stretchOut (getN s Key.tickPort))))) ∧
  (∀ (s : State) (w : WReq), Accepted s Key.beatPeriodUs w →
    (inRun s = false → ∃ t, exec (.beatPeriodUs w) s = .next t ∧ getN t Key.beatPeriodUs = w.val ∧
      beatTime t (beatNow s) = beatTime s (beatNow s) ∧ t.out = s.out ++ [.objStatus Key.beatPeriodUs 0]) ∧
    (inRun s = true → exec (.beatPeriodUs w) s = .next (emit s (.objStatus Key.beatPeriodUs 10)))) ∧
  (∀ (s : State) (w : WReq), Accepted s Key.hostLease w → exec (.hostLease w) s =
    .next (emit { s with beat := { s.beat with leaseBeat := 0, lapsed := false } } (.objStatus Key.hostLease 0))) ∧
  (∀ (s : State) (w : WReq), Accepted s Key.hostLeaseBeats w → ∃ t, exec (.hostLeaseBeats w) s = .next t ∧
    getN t Key.hostLeaseBeats = w.val ∧ t.beat = { s.beat with leaseBeat := 0, lapsed := false } ∧
    t.out = s.out ++ [.objStatus Key.hostLeaseBeats 0]) ∧
  (∀ s : State, let n := getN s Key.hostLeaseBeats
    (n ≠ 0 → s.beat.lapsed = false → n ≤ s.beat.leaseBeat → ∃ t, exec .hostLeaseExpired s = .next t ∧ t.beat.lapsed = true ∧
      bit (stGet t.raised Key.beatFlags) 5 = true ∧ t.objs = s.objs) ∧
    (n = 0 ∨ s.beat.lapsed = true ∨ s.beat.leaseBeat < n → exec .hostLeaseExpired s = .next s)) ∧
  (∀ (s : State) (code : Nat) (i : Instr) (now : List Nat),
    (s.beat.eligible.contains code = true ∧ i = .refSourceLoss code ∧ now = nsDel code s.beat.eligible) ∨
      (1 ≤ code ∧ code ≤ 9 ∧ i = .refEligible code ∧ now = nsIns code s.beat.eligible) →
    let best := ((slice (getDom s Key.refPriority) 0 4).map (fun b => b.toNat)).find? (fun c => c == 0 || now.contains c)
    ∃ t, exec i s = .next t ∧ t.beat = { s.beat with eligible := now } ∧
      (∀ c, best = some c → getN t Key.refSource = c ∧
        (getN s Key.refSource = c → getN t Key.refState = getN s Key.refState ∧ t.raised = s.raised) ∧
        (getN s Key.refSource ≠ c → getN t Key.refState = 1 ∧ bit (stGet t.raised Key.clockFlags) 0 = true)) ∧
      (best = none → getN t Key.refSource = getN s Key.refSource ∧ bit (stGet t.raised Key.clockFlags) 1 = true ∧
        (getN s Key.refState = 0 → getN t Key.refState = 1) ∧
        (getN s Key.refState ≠ 0 → getN t Key.refState = getN s Key.refState))) ∧
  (∀ s : State, (getN s Key.refState = 1 → ∃ t, exec .holdoverExpiry s = .next t ∧ getN t Key.refState = (if (bestSource s).isSome then 0 else 2) ∧
      (∀ k, k ≠ Key.refState → getN t k = getN s k)) ∧
    (getN s Key.refState ≠ 1 → exec .holdoverExpiry s = .next s))

/-- O44. Accepted writes: spread spectrum is taken for PLLs 0 to 4 and refused with BAD_VALUE elsewhere; a service-clock setting is
taken where source over divider stays within 400 MHz, and its pin is driven while it is enabled and its logic clocked; a clock
enable keeps the bits of units present and resets a unit whose enable changes, but in RUN a used unit is not gated, nor unit 3
of the management cores while both run; the set point moves where both halves' clocks lie within its limit; a half's clock is
taken within the limit and applied, its fabric clock following up to 1,500 MHz, while a throttled half stays at the lower of the
two. Each of these is said to answer a next state with its own effect: VCORE_MV, CLOCK_HALF_WRITE, SSC_WRITE, CLKOUT_WRITE,
CLOCK_ENABLE_WRITE. (R411, R412, R413, R414, R452, R466) -/
def Obligations.ClockObjectsTakeWrites : Prop :=
  (∀ (s : State) (pll : BitVec 3) (rate : Bool) (w : WReq), Accepted s (sscKey pll.toNat rate) w →
    (pll.toNat ≤ 4 → ∃ t, exec (.sscWrite pll rate w) s = .next t ∧ getN t (sscKey pll.toNat rate) = w.val ∧
      t.out = s.out ++ [.objStatus (sscKey pll.toNat rate) 0]) ∧
    (4 < pll.toNat → exec (.sscWrite pll rate w) s = .next (emit s (.objStatus (sscKey pll.toNat rate) 7)))) ∧
  (∀ (s : State) (n : Bool) (sub : BitVec 2) (w : WReq),
    let key := clkoutKey (b2n n) sub.toNat
    let after := setN s key w.val
    Accepted s key w →
    (clkoutSourceKHz after (getN after (clkoutKey (b2n n) 0)) ≤ 400000 * getN after (clkoutKey (b2n n) 1) →
      ∃ t, exec (.clkoutWrite n sub w) s = .next t ∧ t.objs = after.objs ∧ t.out = s.out ++ [.objStatus key 0] ∧
        t.beat.pins.toList[b2n n]? = some ⟨if getN after (clkoutKey (b2n n) 2) = 1 ∧ bit (getN s Key.clockEnableMc) 4 = true then
          some (getN after (clkoutKey (b2n n) 0), getN after (clkoutKey (b2n n) 1)) else none, 0⟩) ∧
    (400000 * getN after (clkoutKey (b2n n) 1) < clkoutSourceKHz after (getN after (clkoutKey (b2n n) 0)) →
      exec (.clkoutWrite n sub w) s = .next (emit s (.objStatus key 7)))) ∧
  (∀ (s : State) (sub : BitVec 3) (w : WReq), Accepted s (enableKey sub.toNat) w →
    let old := getN s (enableKey sub.toNat)
    let new := w.val &&& enablePresent s sub.toNat
    let standby := sub.toNat = 4 ∧ bit old 3 = true ∧ bit w.val 3 = false ∧ s.mgmt.mcaRuns = true ∧ s.mgmt.mcbRuns = true
    let kept := (inRun s = true ∧ unitsUsed s sub.toNat &&& (old - (old &&& w.val)) ≠ 0) ∨ standby
    (kept →
      exec (.clockEnableWrite sub w) s = .next (emit s (.objStatus (enableKey sub.toNat) 10))) ∧
    (¬kept → ∃ t, exec (.clockEnableWrite sub w) s = .next t ∧ getN t (enableKey sub.toNat) = new ∧
        t.out = s.out ++ [.objStatus (enableKey sub.toNat) 0] ∧
        (sub.toNat = 0 → ∀ n q, n < 32 → q < 32 → bit old n ≠ bit new n → getQueue t n q = Queue.default) ∧
        (sub.toNat = 2 → ∀ n, n < 32 → bit old n ≠ bit new n → ∀ x ∈ t.gates.slots, x.gate ≠ n))) ∧
  (∀ (s : State) (w : WReq), Accepted s Key.vcoreMv w →
    let fits := getN s Key.clockWestMhz ≤ clockLimit w.val ∧ getN s Key.clockEastMhz ≤ clockLimit w.val
    (fits → ∃ t, exec (.vcoreMv w) s = .next t ∧ getN t Key.vcoreMv = w.val ∧ getN t Key.vcoreAppliedMv = w.val ∧
      t.out = s.out ++ [.objStatus Key.vcoreMv 0]) ∧
    (¬fits → exec (.vcoreMv w) s = .next (emit s (.objStatus Key.vcoreMv 7)))) ∧
  (∀ (s : State) (east : Bool) (w : WReq), Accepted s (halfWritten east) w →
    let fits := w.val ≤ clockLimit (getN s Key.vcoreMv) ∧ getN s (halfWritten (!east)) ≤ clockLimit (getN s Key.vcoreMv)
    let applied := if getN s (halfApplied east) < getN s (halfWritten east) then min (getN s (halfApplied east)) w.val else w.val
    (fits → ∃ t, exec (.clockHalfWrite east w) s = .next t ∧ getN t (halfWritten east) = w.val ∧
      getN t (halfApplied east) = applied ∧ getN t (halfFabric east) = min applied 1500 ∧
      getN t (halfApplied (!east)) = getN s (halfApplied (!east)) ∧ t.out = s.out ++ [.objStatus (halfWritten east) 0]) ∧
    (¬fits → exec (.clockHalfWrite east w) s = .next (emit s (.objStatus (halfWritten east) 7))))

/-- O45. While no beat runs BEAT_BOUNDARY does nothing. On an engine that counts its own beats, outside a stretch, with nothing
committed for the boundary: BEAT_NUMBER advances by one; every flag raised in the beat is set in its word; the numeric flags of
the units that raised them are set; a set lease whose beats have all passed lapses; the lease counts one boundary more; the
coolant temperatures are written. (That an idle stretch of time needs no command is the model's choice, assumption log 1.) Each
of these is said to answer a next state with its own effect: BEAT_BOUNDARY. (R157, R214, R395, R407, R434, R467) -/
def Obligations.BeatBoundaryNumbersAndGathers : Prop :=
  (∀ (s : State) (env : BoundaryEnv), s.beat.running = false → exec (.beatBoundary env) s = .next s) ∧
  (∀ (s : State) (env : BoundaryEnv), s.beat.running = true → s.beat.tick = none → s.beat.stretchLen = 0 →
    getN s Key.beatEpochNs = 0 → s.par.due = [] → s.mgmt.resetDue = 0 →
    ∃ t, exec (.beatBoundary env) s = .next t ∧ getN t Key.beatNumber = (beatNow s + 1) % 2 ^ 64 ∧
      t.beat.leaseBeat = s.beat.leaseBeat + 1 ∧ t.pending = s.pending ∧
      (getN s Key.hostLeaseBeats ≠ 0 → getN s Key.hostLeaseBeats ≤ s.beat.leaseBeat + 1 → t.beat.lapsed = true) ∧
      (∀ w ∈ gatheredWords, ∀ b, b < w.2 → bit (stGet s.raised w.1) b = true → bit (getN t w.1) b = true) ∧
      (∀ id b, b < 4 → (getCore s id).beatA.getLsbD b = true → bit (getN t Key.arrayNumFlags) b = true) ∧
      (∀ id b, b < 4 → (getCore s id).beatV.getLsbD b = true → bit (getN t Key.vectorNumFlags) b = true) ∧
      getN t Key.coolantInlet = unsigned 16 env.coolantIn ∧ getN t Key.coolantOutlet = unsigned 16 env.coolantOut)

/-- O46. A valid descriptor is armed as CURRENT of its queue, or as SHADOW while CURRENT is held, with the next generation; ARM
refuses an invalid one with BAD_VALUE and a full queue with QUEUE_FULL, ARM_PACKET counts either with its flag; CANCEL marks
CURRENT; a finished CURRENT leaves its 16-byte completion word and SHADOW takes its place; an inbound packet whose trailer names
a run not yet written stores its lines, with their poison, at the run's address and nowhere else, counted where it comes late,
and any other is counted as discarded. Each of these is said to answer a next state with its own effect: ARM, ARM_PACKET,
CANCEL, DESCRIPTOR_COMPLETE, INBOUND_PACKET. (R227, R306, R307, R308, R310, R311, R317, R318, R319, R324) -/
def Obligations.StreamsArmTakeAndComplete : Prop :=
  let taken := fun (s : State) (se : Nat) (b : List Byte) (t : State) =>
    let q := getQueue s se (dsQueue b)
    (q.current = none → getQueue t se (dsQueue b) = { q with current := some (newDesc b (q.gen + 1)), gen := q.gen + 1, tile := 0 } ∧
      getN t (Key.seState se) = 1) ∧
    (q.current ≠ none → getQueue t se (dsQueue b) = { q with shadow := some (newDesc b (q.gen + 1)), gen := q.gen + 1 }) ∧
    (∀ e, e ≠ dsQueue b → e < 32 → getQueue t se e = getQueue s se e) ∧ t.stk = s.stk
  (∀ (s : State) (se : Nat) (w : DReq), se < 32 → AcceptedDom s (Key.seArm se) w →
    (descOk s se w.bytes = true → canArm s se w.bytes = true → ∃ t, exec (.arm se w) s = .next t ∧ taken s se w.bytes t ∧
      t.out = s.out ++ [.objStatus (Key.seArm se) 0]) ∧
    (descOk s se w.bytes = true → canArm s se w.bytes = false → exec (.arm se w) s = .next (emit s (.objStatus (Key.seArm se) 14))) ∧
    (descOk s se w.bytes = false → exec (.arm se w) s = .next (emit s (.objStatus (Key.seArm se) 7)))) ∧
  (∀ (s : State) (crescent endpoint se : Nat) (p : Packet), endpointSe 0 crescent endpoint = some se → seLive s se = true →
    let b := flitBytes p.flits
    let good := p.flits.length = 1 ∧ anyPoison p.flits = false ∧ descOk s se b = true ∧ canArm s se b = true
    (good → ∃ t, exec (.armPacket ⟨crescent, endpoint⟩ p) s = .next t ∧ taken s se b t) ∧
    (¬good → exec (.armPacket ⟨crescent, endpoint⟩ p) s = .next (raise (count64 s (Key.seArmsRefused se)) Key.streamFlags 1))) ∧
  (∀ (s : State) (se : Nat) (w : WReq), se < 32 → Accepted s (Key.seCancel se) w →
    let q := getQueue s se w.val
    ∃ t, exec (.cancel se w) s = .next t ∧ getQueue t se w.val = { q with current := q.current.map (fun d => { d with cancelled := true }) } ∧
      t.out = s.out ++ [.objStatus (Key.seCancel se) 0] ∧ t.stk = s.stk) ∧
  (∀ (s : State) (se queue : Nat) (d : Desc), (getQueue s se queue).current = some d →
    let q := getQueue s se queue
    let word := [d.generation] ++ leBytes 1 (if d.cancelled then 2 else if d.poisoned then 1 else 0) ++
      leBytes 2 (min d.late 0xFFFF) ++ leBytes 4 (dsSequence d.bytes) ++ leBytes 8 (beatNow s)
    (descOver s se queue d = true → ∃ t, exec (.descriptorComplete se queue) s = .next t ∧ t.stk = s.stk ∧
      (getQueue t se queue).completion = word ∧
      (s.streams.rearm = [] → getQueue t se queue = { q with current := q.shadow, shadow := none, tile := 0, completion := word }) ∧
      (∀ p g, s.placement = some p → g ∈ p.gradients → g.1 = se → g.2.1 = queue → dsDir d.bytes = 1 → d.cancelled = false →
        (queueKey se queue, dsSequence d.bytes) ∈ t.stp.outGrads)) ∧
    (descOver s se queue d = false → exec (.descriptorComplete se queue) s = .next s)) ∧
  (∀ (s : State) (crescent i queue : Nat) (p : Packet) (late : Bool), crescent < 4 → i < 8 → queue < 16 → seLive s (8 * crescent + i) = true →
    let se := 8 * crescent + i
    let at_ := 0x80 + 16 * i + queue
    let q := getQueue s se queue
    (∀ d, q.current = some d → dsDir d.bytes = 1 → d.cancelled = false →
      (∀ j, inboundRun d p = some j → d.done.contains j = false →
        let a := (runAt d.bytes (dsDest d.bytes) j).toNat
        let k := dsRunBytes d.bytes / 64
        ∃ t d', exec (.inboundPacket crescent at_ ⟨p, late⟩) s = .next t ∧ (getQueue t se queue).current = some d' ∧
          d'.done = nsIns j d.done ∧ d'.late = d.late + b2n late ∧
          (late = true → getN t (Key.seLateRuns se) = satAdd 64 (getN s (Key.seLateRuns se)) 1 ∧ bit (stGet t.raised Key.streamFlags) 2 = true) ∧
          d'.poisoned = (d.poisoned || anyPoison (p.flits.take k)) ∧
          (∀ i f, i < k → p.flits[i]? = some f → stkRead t (a + 64 * i) 64 = slice f.data 0 64) ∧
          (∀ x, x < a ∨ a + 64 * k ≤ x → memRead t.stk.mem x = memRead s.stk.mem x)) ∧
      (inboundRun d p = none ∨ (∃ j, inboundRun d p = some j ∧ d.done.contains j = true) →
        exec (.inboundPacket crescent at_ ⟨p, late⟩) s = .next (count64 s (Key.seInboundDiscarded se)))) ∧
    (q.current = none ∨ (∃ d, q.current = some d ∧ (dsDir d.bytes ≠ 1 ∨ d.cancelled = true)) →
      exec (.inboundPacket crescent at_ ⟨p, late⟩) s = .next (count64 s (Key.seInboundDiscarded se))))

/-- O47. On a READY stack the granted queue's descriptor moves to its next run, counted with its lateness, a stack-to-stack run
copies its bytes and a trimmed run keeps the slot that it read, and counts only where a row of it is predicted; without an
eligible queue nothing happens. A good map packet ORs its rows into the nonzero set of every stream of its entry and micro-batch
whose tile is still to send, and one that has none, or that is bad, is counted as discarded; TRIMMED_TILE_SEND sends a fetched
tile with every row in mode 0 and with the nonzero rows where every map covers it, and else waits; MAP_WAIT_EXPIRY sends it with
every row and counts the late map. STACK_SCRUB moves to the next line; a line with an uncorrectable error is counted and
poisoned. Each of these is said to answer a next state with its own effect: STACK_GRANT, MAP_PACKET_RECEIVE, TRIMMED_TILE_SEND,
MAP_WAIT_EXPIRY, STACK_SCRUB. (R207, R209, R210, R294, R295, R296, R297, R303, R306, R314, R324) -/
def Obligations.GrantsTrimsAndScrubs : Prop :=
  (∀ (s : State) (stack : Nat) (late : Bool) (errs : StackErrs), stack < 16 → getN s (Key.msStackState stack) = 0 →
    (grantChoice s stack = none → exec (.stackGrant stack late errs) s = .next s) ∧
    (∀ se qn d, grantChoice s stack = some (se, qn, d) →
      ∃ t d', exec (.stackGrant stack late errs) s = .next t ∧ (getQueue t se qn).current = some d' ∧ d'.nextRun = d.nextRun + 1 ∧
        d'.late = d.late + b2n (late && (!dsTrim d.bytes || rowsGranted s se d.bytes d.nextRun != [])) ∧ d'.bytes = d.bytes ∧ (getQueue t se qn).moved = true ∧
        (dsTrim d.bytes = false ∨ rowsGranted s se d.bytes d.nextRun ≠ [] →
          getN t (Key.seRunsIssued se) = satAdd 64 (getN s (Key.seRunsIssued se)) 1 ∧
          (late = true → getN t (Key.seLateRuns se) = satAdd 64 (getN s (Key.seLateRuns se)) 1 ∧ bit (stGet t.raised Key.streamFlags) 2 = true)) ∧
        (dsTrim d.bytes = true → rowsGranted s se d.bytes d.nextRun = [] → getN t (Key.seRunsIssued se) = getN s (Key.seRunsIssued se)) ∧
        (dsTrim d.bytes = true →
          (getTrim t se d.bytes).runs = (getTrim s se d.bytes).runs ++ [(d.nextRun, runSlot s stack d.bytes)]) ∧
        (dsTrim d.bytes = false → dsDir d.bytes = 2 → errs = ⟨[], [], 0⟩ → dsRunBytes d.bytes % 64 = 0 →
          let n := dsRunBytes d.bytes
          let a := streamByte d.bytes (d.nextRun * n) + slotOff s d.bytes (runSlot s stack d.bytes)
          let b := dsDest d.bytes + d.nextRun * n
          a + n ≤ b ∨ b + n ≤ a →
            stkRead t b n = stkRead s a n ∧ (∀ x, x < b ∨ b + n ≤ x → memRead t.stk.mem x = memRead s.stk.mem x)))) ∧
  (∀ (s : State) (crescent endpoint se : Nat) (p : Packet), endpointSe 0x10 crescent endpoint = some se → seLive s se = true →
    let h := flitBytes (p.flits.take 1)
    let e := field h 0 1
    let qs := (trimQueues s se e (field h 4 4)).filter (mapInTime s se h)
    (mapPacketOk p = false ∨ qs = [] → e < 64 →
      exec (.mapPacketReceive ⟨crescent, endpoint⟩ p) s = .next (count64 s (Key.layerMapsDiscarded e))) ∧
    (64 ≤ e → exec (.mapPacketReceive ⟨crescent, endpoint⟩ p) s = .next s) ∧
    (mapPacketOk p = true → qs ≠ [] → ∃ t, exec (.mapPacketReceive ⟨crescent, endpoint⟩ p) s = .next t ∧ t.stk = s.stk ∧ t.objs = s.objs ∧
      (∀ qd ∈ qs, ∀ r, r ∈ (getTrim t se qd.2.bytes).nonzero ↔ r ∈ (getTrim s se qd.2.bytes).nonzero ∨
        ∃ qe ∈ qs, trimKey se qe.2.bytes = trimKey se qd.2.bytes ∧
          r ∈ mapRows (flitBytes ((p.flits.drop 1).take (field h 1 1))) (field h 8 4) (layerMode s e).2 (trimPlan s se qe.2.bytes).rows))) ∧
  (∀ (s : State) (se queue stallNs : Nat) (errs : StackErrs) (d : Desc), tileReady s se queue = some d →
    let e := dsEntry d.bytes
    let m := layerMode s e
    let rows := tileRows (getQueue s se queue) (trimPlan s se d.bytes)
    let t0 := getTrim s se d.bytes
    let sent := fun (t : State) (n : Nat) => (getQueue t se queue).tile = (getQueue s se queue).tile + 1 ∧
      getN t (Key.layerRowsTotal e) = satAdd 64 (getN s (Key.layerRowsTotal e)) rows.length ∧
      getN t (Key.layerRowsNonzero e) = satAdd 64 (getN s (Key.layerRowsNonzero e)) n
    (m.1 = 0 → ∃ t, exec (.trimmedTileSend se queue stallNs errs) s = .next t ∧ sent t rows.length) ∧
    (m.1 ≠ 0 → mapsCover s se d.bytes t0 m.2 rows = true → ∃ t, exec (.trimmedTileSend se queue stallNs errs) s = .next t ∧
      sent t (rows.filter t0.nonzero.contains).length ∧ exec (.mapWaitExpiry se queue errs) s = .next s) ∧
    (m.1 ≠ 0 → mapsCover s se d.bytes t0 m.2 rows = false → exec (.trimmedTileSend se queue stallNs errs) s = .next s ∧
      ∃ t, exec (.mapWaitExpiry se queue errs) s = .next t ∧ sent t rows.length ∧ bit (stGet t.raised Key.sparsityFlags) 4 = true ∧
        getN t (Key.layerMapsLate e) = satAdd 64 (getN s (Key.layerMapsLate e)) 1)) ∧
  (∀ (s : State) (stack : Nat), stack < 16 → bit (stackPresent s.variant) stack = true → getN s (Key.msStackState stack) = 0 →
    let l := stGet s.stk.scrubPos stack
    let line := stack * 2 ^ 31 + l
    let next := if (l + 1) * 64 < dataBytes then l + 1 else 0
    (∀ errs, ∃ t, exec (.stackScrub stack errs) s = .next t ∧ stGet t.stk.scrubPos stack = next ∧ t.stk.mem = s.stk.mem ∧
      (errs = ⟨[], [], 0⟩ → t.objs = s.objs ∧ t.stk.poison = s.stk.poison)) ∧
    (l * 64 < dataBytes → ∃ t, exec (.stackScrub stack ⟨[], [line], 0⟩) s = .next t ∧ stGet t.stk.scrubPos stack = next ∧
      t.stk.poison.contains line = true ∧
      getN t (Key.msUncorrected stack) = satAdd 64 (getN s (Key.msUncorrected stack)) 1 ∧ t.stk.mem = s.stk.mem))

/-- O48. An open pull endpoint answers a request for a block of a loaded group with the block's active components and digest, counts
one that a SOURCE entry of a reshard sends, and otherwise says nothing. A block that a pull awaits and whose digest holds is
written to the inactive slot with WRITTEN set and the pull's stamp, and noted; one whose digest fails is asked for again, up to
three times. A reshard's verified block clears its pointer entry and is counted; one that fails raises the flag and is asked for
again, up to three times. A reshard's digest is over the number that the block has at the source, and the block is asked for by
that number and group. Each of these is said to answer a next state with its own effect: PULL_ENDPOINT_REQUEST,
PULL_BLOCK_RECEIVE, RESHARD_BLOCK_RECEIVE. (R237, R238, R284, R386, R506, R507) -/
def Obligations.BlocksAreServedAndPulled : Prop :=
  (∀ (s : State) (requester group block : Nat) (d : List Byte), groupDesc s group = some d →
    (s.mgmt.pullOpen = true → block < gdBlocks d → ∃ t, exec (.pullEndpointRequest requester group ⟨block, ⟨[], [], 0⟩⟩) s = .next t ∧
      t.out = s.out ++ [.block requester group (servedBlock s d block)] ∧ t.stk = s.stk ∧ t.update = s.update ∧
      getN t Key.blocksSent = (if sendsReshard s requester group block then satAdd 64 (getN s Key.blocksSent) 1 else getN s Key.blocksSent)) ∧
    (s.mgmt.pullOpen = false ∨ gdBlocks d ≤ block → exec (.pullEndpointRequest requester group ⟨block, ⟨[], [], 0⟩⟩) s = .next s)) ∧
  (∀ (s : State) (group : Nat) (b : BlockData) (p : Pull) (d : List Byte), groupDesc s group = some d →
    s.pulls.find? (fun p => p.group == group && (p.job == 5 || p.job == 3 && jobSt s 3 == jobRunning)) = some p →
    b.block < gdBlocks d → p.got.contains b.block = false →
    (blockDigest d b.block (blockVals d b p.source.isNone) = b.digest.toNat → ∃ t, exec (.pullBlockReceive group ⟨b, ⟨[], [], 0⟩⟩) s = .next t ∧
      (readPtr t d b.block).written = true ∧ (readPtr t d b.block).stamp = pullStamp s p b ∧
      (readPtr t d b.block).active = (activeSlot s (readPtr s d b.block) == 1) ∧
      ((getGroup t group).t = b.t ∨ ∃ x ∈ t.pulls, x.group = group ∧ b.block ∈ x.got)) ∧
    (blockDigest d b.block (blockVals d b p.source.isNone) ≠ b.digest.toNat → stGet p.tries b.block < 3 →
      ∃ t, exec (.pullBlockReceive group ⟨b, ⟨[], [], 0⟩⟩) s = .next t ∧ t.out = s.out ++ [.pullRequest p.job group p.source b.block 1] ∧
        t.update = s.update ∧ t.objs = s.objs)) ∧
  (∀ (s : State) (group : Nat) (b : BlockData) (p : Pull) (d : List Byte) (e : ReshardEntry), getN s Key.reshardPhase = 2 → jobSt s 2 = jobRunning →
    s.pulls.find? (fun p => p.job == 2 && p.group == group) = some p →
    (reshardTarget s).bind (fun t => t.groups.find? (fun d => gdGroup d == group)) = some d →
    entryFor s group b.block = some e → b.block < gdBlocks d → p.got.contains b.block = false →
    let number := e.srcFirst + (b.block - e.dstFirst)
    (blockDigest d number (blockVals d b false) = b.digest.toNat → ∃ t, exec (.reshardBlockReceive group ⟨b, ⟨[], [], 0⟩⟩) s = .next t ∧
      readPtr t d b.block = ⟨false, false, false, false, 0, 0⟩ ∧
      getN t Key.blocksReceived = satAdd 64 (getN s Key.blocksReceived) 1 ∧ t.out = s.out) ∧
    (blockDigest d number (blockVals d b false) ≠ b.digest.toNat → stGet p.tries b.block < 3 →
      ∃ t, exec (.reshardBlockReceive group ⟨b, ⟨[], [], 0⟩⟩) s = .next t ∧ bit (stGet t.raised Key.mappingFlags) 1 = true ∧
        t.out = s.out ++ [.pullRequest 2 e.srcGroup (some e.source) number 1] ∧
        getN t Key.blocksReceived = getN s Key.blocksReceived))

/-- O49. INPUT_SAMPLE of a present input writes voltage, current and the mean power of the last ten samples; POWER_FAIL turns the
engine OFF on hold-up, journalling the failure while a management core runs; HOLD_UP_RUN_OUT unpowers the management; INPUT_RISE
begins a cold bring-up with the stacks empty. A report of a regulator that is on writes the current; a reported failure, a third
missed report or the sixth lost phase is a controller failure: state FAULT, the field dark and LOST with cause 2; a lost phase
lowers the rating to 30 A a phase; a loop sample writes the readings and their minimum; a suspected crack is flagged, logged
and, where asked for, parked at the boundary. Each of these is said to answer a next state with its own effect: INPUT_SAMPLE,
POWER_FAIL, INPUT_RISE, REGULATOR_STATUS_REPORT, REGULATOR_REPORT_MISSED, PHASE_FAILED, CRACK_SUSPECT, HOLD_UP_RUN_OUT,
REGULATOR_LOOP_SAMPLE. (R449, R450, R453, R454, R455, R456, R457, R468, R469, R473, R551) -/
def Obligations.InputAndRegulators : Prop :=
  let failed := fun (t : State) (f : Nat) => getN t (Key.regState f) = 3 ∧ fieldPower t f = 0 ∧ stGet t.grid.runFields f = 9
  (∀ (s : State) (mv ma : Nat), s.power.input = true →
    let ws := ((mv * ma) :: s.power.samples).take 10
    ∃ t, exec (.inputSample mv ma) s = .next t ∧ getN t Key.inputVoltageMv = mv % 2 ^ 32 ∧ getN t Key.inputCurrentMa = ma % 2 ^ 32 ∧
      getN t Key.inputPowerW = ws.sum / ws.length / 1000000 % 2 ^ 32 ∧ t.power.samples = ws ∧ t.cores = s.cores) ∧
  (∀ s : State, s.power.input = true → ∃ t, exec .powerFail s = .next t ∧ t.power.input = false ∧ t.power.holdUp = true ∧
    t.power.computeRail = false ∧ getN t Key.bringupPhase = 0 ∧
    ((s.mgmt.mcaRuns = true ∨ s.mgmt.mcbRuns = true) → ∃ j, t.log.journal = j :: s.log.journal ∧ j.typ = 11 ∧
      j.body = leBytes 4 (getN s Key.inputVoltageMv) ++ leBytes 4 0) ∧
    (s.mgmt.mcaRuns = false → s.mgmt.mcbRuns = false → t.log = s.log)) ∧
  (∀ s : State, s.power.holdUp = true → exec .holdUpRunOut s =
    .next { s with power := { s.power with holdUp := false, management := false } }) ∧
  (∀ s : State, s.power.input = false → ∃ t, exec .inputRise s = .next t ∧ t.power.input = true ∧ t.power.management = true ∧
    t.power.holdUp = false ∧ getN t Key.bringupPhase = 1 ∧ t.mgmt.startKind = 0 ∧ t.stk.mem = [] ∧ t.cores = [] ∧ t.log = s.log) ∧
  (∀ (s : State) (r : RegReport), regOn s r.field = true →
    (r.failed = false → ∃ t, exec (.regulatorStatusReport r) s = .next t ∧ getN t (Key.regFieldCurrentA r.field) = r.currentA % 65536 ∧
      (getField t r.field).missed = 0 ∧ getN t (Key.regState r.field) = getN s (Key.regState r.field)) ∧
    (r.failed = true → ∃ t, exec (.regulatorStatusReport r) s = .next t ∧ failed t r.field)) ∧
  (∀ (s : State) (f : Nat), regOn s f = true →
    ((getField s f).missed < 2 → exec (.regulatorReportMissed f) s =
      .next (setField s f { getField s f with missed := (getField s f).missed + 1 })) ∧
    (2 ≤ (getField s f).missed → ∃ t, exec (.regulatorReportMissed f) s = .next t ∧ failed t f)) ∧
  (∀ (s : State) (f : Nat) (phase : BitVec 4), f < 90 → bit (getN s (Key.regPhasesOk f)) phase.toNat = true → getN s (Key.regState f) ≠ 3 →
    let ok := setBit (getN s (Key.regPhasesOk f)) phase.toNat false
    let n := ((List.range 12).filter (bit ok)).length
    ∃ t, exec (.phaseFailed f phase) s = .next t ∧ getN t (Key.regPhasesOk f) = ok ∧ getN t (Key.regCurrentRatingA f) = 30 * n ∧
      bit (stGet t.raised Key.powerFlags) 0 = true ∧ (n ≤ 6 → regOn s f = true → failed t f) ∧
      (6 < n ∨ regOn s f = false → getN t (Key.regState f) = getN s (Key.regState f))) ∧
  (∀ (s : State) (f : Nat) (droop : List Nat) (out : Nat), regOn s f = true → droop.length = 64 → (∀ x ∈ droop, x < 65536) →
    ∃ t, exec (.regulatorLoopSample f droop out) s = .next t ∧ getDom t (Key.drpDroopReadings f) = droop.flatMap (leBytes 2) ∧
      (∀ i, i < 64 → bit (getN s (Key.drpSensorMask f)) i = false → getN t (Key.drpDroopMinMv f) ≤ droop.getD i 0) ∧
      (min (getN s Key.vcoreAppliedMv + 60) 860 ≤ out → bit (stGet t.raised Key.powerFlags) 5 = true) ∧
      (out < min (getN s Key.vcoreAppliedMv + 60) 860 → t.raised = s.raised)) ∧
  (∀ (s : State) (f sensor : Nat), f < 90 → sensor < 64 → crackHolds s f sensor = true →
    (∀ e ∈ (getField s f).cracks, e.1 ≠ sensor) →
    ∃ t e, exec (.crackSuspect f sensor) s = .next t ∧
    bit (stGet t.raised Key.powerFlags) 2 = true ∧ t.log.events.head? = some e ∧ e.code = 5 ∧ e.detail = [f, sensor] ∧
    (getN s Key.crackCaptureEmpty = 1 → getN t Key.crackCaptureField = f ∧ getN t Key.crackCaptureSensor = sensor ∧
      getN t Key.crackCaptureBeat = beatNow s ∧ getN t Key.crackCaptureEmpty = 0) ∧
    (getN s Key.crackAction = 1 → (getField t f).parkDue = true) ∧
    (getN s Key.crackAction ≠ 1 → (getField t f).parkDue = (getField s f).parkDue) ∧ exec (.crackSuspect f sensor) t = .next t)

/-- O50. With at most eight sensors failed, THERMAL_SAMPLE writes the highest reading of the sensors that work; at TRIP_C a field
whose regulator is on goes dark and is LOST with cause 3; below that, at PARK_C a field that is up parks with cause 1; from
SHUT_C on a field whose regulator is on is due to be shut. With more than eight failed a field that is up parks with cause 5.
UNPARK_HOLD_EXPIRY of a field parked by heat and cooled makes it due to wake. PARK_REQUEST has a field that is up park with
cause 3, and WAKE_REQUEST has one that is parked wake, unless a neighbour's current defers it; both are refused where the field
is placed and in RUN, and the wake where causes 1, 2 or 5 hold. WAKE_PROCEED and WAKE_DEFER_LIMIT_EXPIRY have a deferred field
wake; FIELD_SHUT_DRAIN_END turns a drained field dark and LOST with cause 3. (That PARKING and WAKING last until the next
boundary is the model's choice, assumption log 64.) Each of these is said to answer a next state with its own effect:
FIELD_SHUT_DRAIN_END, WAKE_PROCEED, WAKE_DEFER_LIMIT_EXPIRY, THERMAL_SAMPLE, UNPARK_HOLD_EXPIRY, PARK_REQUEST, WAKE_REQUEST.
(R69, R458, R460, R462, R463, R464, R465) -/
def Obligations.FieldsHeatParkAndWake : Prop :=
  let up := fun (s : State) (f : Nat) => 2 ≤ fieldPower s f ∧ fieldPower s f ≤ 4
  (∀ (s : State) (f : Nat) (xs : List Int) (temp : Int), f < 90 →
    let old := getN s (Key.thmThermalFailed f)
    let bad := (failedSensors old xs).foldl (fun m i => m ||| 2 ^ i) old
    let deg := fun k => 10 * (getN s k : Int)
    let failed := ((List.range 16).filter (bit bad)).length
    (8 < failed → up s f → (∀ x, fieldTempOf bad xs = some x → x < deg Key.tripC) → ∃ t, exec (.thermalSample f xs) s = .next t ∧
      getN t (Key.thmThermalFailed f) = bad ∧ fieldPower t f = 5 ∧ bit (getN t (Key.pwrParkCauses f)) 4 = true) ∧
    (failed ≤ 8 → fieldTempOf bad xs = some temp →
    ∃ t, exec (.thermalSample f xs) s = .next t ∧ getN t (Key.thmFieldTemp f) = unsigned 16 temp ∧
      getN t (Key.thmThermalFailed f) = bad ∧
      (regOn s f = true → deg Key.tripC ≤ temp → fieldPower t f = 0 ∧ getN t (Key.regState f) = 0 ∧ stGet t.grid.runFields f = 13) ∧
      (regOn s f = true → temp < deg Key.tripC → deg Key.shutC ≤ temp → (getField t f).shutDue = true) ∧
      (temp < deg Key.tripC → deg Key.parkC ≤ temp → up s f → bit (getN s (Key.pwrParkCauses f)) 0 = false →
        fieldPower t f = 5 ∧ bit (getN t (Key.pwrParkCauses f)) 0 = true ∧ bit (stGet t.raised Key.thermalFlags) 1 = true) ∧
      (temp < deg Key.tripC → temp < deg Key.parkC → fieldPower t f = fieldPower s f))) ∧
  (∀ (s : State) (f : Nat), f < 90 → bit (getN s (Key.pwrParkCauses f)) 0 = true → fieldTemp s f ≤ 10 * (getN s Key.unparkC : Int) →
    exec (.unparkHoldExpiry f) s = .next (setField s f { getField s f with wakeDue := true })) ∧
  (∀ (s : State) (w : WReq), Accepted s Key.parkRequest w → w.val ≤ 89 →
    (inRun s = true → fieldPlaced s w.val = true → exec (.parkRequest w) s = .next (emit s (.objStatus Key.parkRequest 10))) ∧
    (inRun s = false ∨ fieldPlaced s w.val = false → up s w.val → ∃ t, exec (.parkRequest w) s = .next t ∧
      fieldPower t w.val = 5 ∧ bit (getN t (Key.pwrParkCauses w.val)) 2 = true ∧ getN t Key.parkRequest = w.val ∧
      t.out = s.out ++ [.objStatus Key.parkRequest 0])) ∧
  (∀ (s : State) (w : WReq), Accepted s Key.wakeRequest w → w.val ≤ 89 →
    let barred := (inRun s = true ∧ fieldPlaced s w.val = true) ∨ getN s (Key.pwrParkCauses w.val) &&& 0x13 ≠ 0
    (barred → exec (.wakeRequest w) s = .next (emit s (.objStatus Key.wakeRequest 10))) ∧
    (¬barred → fieldParked s w.val = true → wakeDeferred s w.val = false → ∃ t, exec (.wakeRequest w) s = .next t ∧
      fieldPower t w.val = 3 ∧ getN t (Key.pwrParkCauses w.val) = 0 ∧ .objStatus Key.wakeRequest 0 ∈ t.out) ∧
    (¬barred → fieldParked s w.val = true → wakeDeferred s w.val = true → ∃ t, exec (.wakeRequest w) s = .next t ∧
      fieldPower t w.val = fieldPower s w.val ∧ (getField t w.val).wakeWaiting = true ∧ bit (stGet t.raised Key.powerFlags) 4 = true)) ∧
  (∀ (s : State) (f : Nat), f < 90 → (getField s f).wakeWaiting = true →
    (wakeDeferred s f = true → exec (.wakeProceed f) s = .next s) ∧
    (wakeDeferred s f = false → ∃ t n, exec (.wakeProceed f) s = .next t ∧ fieldPower t f = 3 ∧ n ≤ 1000 * getN s Key.wakeDeferLimitMs ∧
      getN t (Key.pwrWakeDeferredUs f) = satAdd 64 (getN s (Key.pwrWakeDeferredUs f)) n) ∧
    (∃ t, exec (.wakeDeferLimitExpiry f) s = .next t ∧ fieldPower t f = 3 ∧ (getField t f).wakeWaiting = false ∧
      getN t (Key.pwrWakeDeferredUs f) = satAdd 64 (getN s (Key.pwrWakeDeferredUs f)) (1000 * getN s Key.wakeDeferLimitMs))) ∧
  (∀ (s : State) (f : Nat), regOn s f = true → (getField s f).draining = true → ∃ t, exec (.fieldShutDrainEnd f) s = .next t ∧
    getN t (Key.regState f) = 0 ∧ fieldPower t f = 0 ∧ stGet t.grid.runFields f = 13)

/-- O51. MAILBOX_DOORBELL takes the frame that comes with it, or else stands in MAILBOX_REQUEST, and sets BUSY, and while BUSY it is
ignored and counted. A frame of wrong form or with a MAC that fails is discarded and counted, with its flag, by every row that
would execute it. An OPEN that passes gives a session the next number, with path and role, and answers it; with 32 sessions open
it answers SESSION_LIMIT. A CLOSE that passes ends the session and its transaction and answers kind 6. SESSION_EXPIRED and
TXN_EXPIRED end a session or a transaction with their flags, and an expired transaction is counted as rolled back. A repeat of a
frame whose response is kept receives that response again, whatever its operation. A reply goes to the UDP source of its
request, or into the mailbox with MSI-X vector 2. Each of these is said to answer a next state with its own effect: TXN_EXPIRED,
MAILBOX_DOORBELL, OPEN, CLOSE, SESSION_EXPIRED. (R418, R419, R420, R421, R422, R423, R439, R446) -/
def Obligations.ParealoSessionsOpenAndClose : Prop :=
  let replied := fun (s t : State) (f : PFrame) (r : List Byte) =>
    (f.path ≠ .mailbox → t.out = s.out ++ [.frame f.path f.udp.source f.udp.sourcePort r]) ∧
    (f.path = .mailbox → t.out = s.out ++ [.msix 2] ∧ t.host.bar.mailboxResponse = r ∧ t.host.bar.mailboxReady = true ∧
      t.host.bar.mailboxBusy = false)
  (∀ (s : State) (length : W32) (frame : List Byte), mailboxLive s = true → 0 < length.toNat → length.toNat ≤ 4096 →
    (s.host.bar.mailboxBusy = false → ∃ t, exec (.mailboxDoorbell length frame) s = .next t ∧ t.host.bar.mailboxBusy = true ∧
      t.host.bar.mailboxReady = false ∧ t.host.bar.mailboxRequest = slice (if frame = [] then s.host.bar.mailboxRequest else frame) 0 length.toNat ∧ t.par = s.par ∧ t.out = s.out) ∧
    (s.host.bar.mailboxBusy = true → ∃ t, exec (.mailboxDoorbell length frame) s = .next t ∧ t.host = s.host ∧
      getN t Key.doorbellsIgnored = satAdd 32 (getN s Key.doorbellsIgnored) 1)) ∧
  (∀ (s : State) (f : PFrame), pathOpen s f.path f.udp = true →
    ∀ row ∈ [Instr.parealoOpen f, .parealoClose f, .parealoRead f 0, .parealoWrite f 0, .parealoBegin f 0, .commitOp f 0,
        .parealoRollback f 0, .describe f 0],
      (frameBad s f = true → ∃ t, exec row s = .next t ∧ t.par = s.par ∧ t.out = s.out ∧
        getN t Key.framesRejectedOther = satAdd 64 (getN s Key.framesRejectedOther) 1) ∧
      (frameBad s f = false → (f.path = .mailbox → s.host.bar.mailboxRequest = requestBytes f ++ f.mac) → macOk s f = false →
        ∃ t, exec row s = .next t ∧ t.par = s.par ∧ t.out = s.out ∧ bit (stGet t.raised Key.parealoFlags) 0 = true ∧
          getN t Key.framesRejectedMac = satAdd 64 (getN s Key.framesRejectedMac) 1)) ∧
  (∀ (s : State) (f : PFrame), judgeFrame s f = .opens →
    (s.par.sessions.length < 32 →
      let n := s.par.nextSession
      let r := replyBytes s 4 f.role 0 n 0 (slice f.nonce 0 16 ++ leBytes 2 0 ++ leBytes 6 0)
      ∃ t, exec (.parealoOpen f) s = .next t ∧ t.par.sessions = s.par.sessions ++ [⟨n, roleOf f.role, f.path, 0, [], []⟩] ∧
        t.par.nextSession = n + 1 ∧ getN t Key.sessionsOpen = s.par.sessions.length + 1 ∧
        replied s t f r) ∧
    (32 ≤ s.par.sessions.length → ∃ t, exec (.parealoOpen f) s = .next t ∧ t.par = s.par ∧
      replied s t f (replyBytes s 4 f.role 0 0 0 (slice f.nonce 0 16 ++ leBytes 2 19 ++ leBytes 6 0)))) ∧
  (∀ (s : State) (f : PFrame) (x : Session), judgeFrame s f = .of x → f.kind = 5 →
    ∃ t, exec (.parealoClose f) s = .next t ∧ t.par.sessions = s.par.sessions.filter (fun y => y.num != x.num) ∧
      (∀ y ∈ t.par.txns, y ∈ s.par.txns ∧ (y.session ≠ x.num ∨ y.committing = true)) ∧
      replied s t f (replyBytes s 6 f.role 0 x.num 0 [])) ∧
  (∀ (s : State) (n : Nat), (∃ x ∈ s.par.sessions, x.num = n) → ∃ t, exec (.sessionExpired n) s = .next t ∧
    t.par.sessions = s.par.sessions.filter (fun y => y.num != n) ∧ bit (stGet t.raised Key.parealoFlags) 1 = true ∧
    (∀ y ∈ t.par.txns, y.session ≠ n ∨ y.committing = true)) ∧
  (∀ (s : State) (h : Nat) (u : Txn), s.par.txns.find? (fun y => y.handle == h && !y.committing) = some u →
    ∃ t, exec (.txnExpired h) s = .next t ∧ (∀ y ∈ t.par.txns, y.handle ≠ h) ∧ (h, u.session) ∈ t.par.expired ∧
      getN t Key.txnRolledBack = satAdd 64 (getN s Key.txnRolledBack) 1 ∧ bit (stGet t.raised Key.parealoFlags) 3 = true) ∧
  (∀ (s : State) (f : PFrame) (x : Session) (op : POp) (e : Nat × List Byte × List Byte), judgeFrame s f = .of x → f.kind = 1 →
    f.ops.head? = some op → f.frameSeq ≤ x.highest → x.kept.find? (fun e => e.1 == f.frameSeq && e.2.1 == f.mac) = some e →
    let row : Instr := match op with
      | .read _ _ _ _ _ _ _ => .parealoRead f 0
      | .write _ _ _ _ _ => .parealoWrite f 0
      | .begin_ => .parealoBegin f 0
      | .commit _ => .commitOp f 0
      | .rollback _ => .parealoRollback f 0
      | .describe _ _ => .describe f 0
    ∃ t, exec row s = .next t ∧ replied s t f e.2.2 ∧ t.par = s.par ∧
      getN t Key.framesResent = satAdd 64 (getN s Key.framesResent) 1)

/-- O52. For a REQUEST of one operation that passes the judgement, outside the boot ROM's exchange: READ answers the object's value
with its qualifying bits, NO_OBJECT where there is none, WRITE_ONLY where it has no value to read, and of a DOMAIN the segment
of the version asked for, with MORE where bytes remain, or STALE where that version is gone (RESULT_SLOTS, which is read live,
aside); DESCRIBE answers its layout, writers and default; a direct WRITE is refused at once by the checks of R557 or waits for
the boundary; a WRITE in a transaction is staged; BEGIN opens one transaction for a session, at most 64, and not for an
observer; COMMIT waits for the boundary; ROLLBACK drops the transaction and is counted. The session's highest FRAME_SEQ follows,
and a response is kept with its request's MAC. Each of these is said to answer a next state with its own effect: READ, WRITE,
BEGIN, COMMIT_OP, ROLLBACK, DESCRIBE. (R422, R425, R426, R427, R433, R434, R436, R437, R439, R557) -/
def Obligations.ParealoOperationsExecute : Prop :=
  ∀ (s : State) (f : PFrame) (x : Session) (op : POp), judgeFrame s f = .of x → f.kind = 1 → f.ops = [op] → x.highest < f.frameSeq →
    x.open_ = [] → s.mgmt.recovery = false →
    let s1 := syncDerived (beginFrame s x f)
    let answers := fun (i : Instr) (what : State → List Byte → Prop) => ∃ t body, exec i s = .next t ∧ what t body ∧
      (let r := replyBytes s 2 f.role 1 x.num f.frameSeq body
       (f.path ≠ .mailbox → t.out = s.out ++ [.frame f.path f.udp.source f.udp.sourcePort r]) ∧
       (f.path = .mailbox → t.out = s.out ++ [.msix 2] ∧ t.host.bar.mailboxResponse = r ∧ t.host.bar.mailboxReady = true ∧
         t.host.bar.mailboxBusy = false) ∧ ∃ y ∈ t.par.sessions, y.num = x.num ∧ y.highest = f.frameSeq ∧ y.open_ = [] ∧
         y.kept.head? = some (f.frameSeq, f.mac, r))
    let waits := fun (i : Instr) (due : Due) (what : State → Prop) => ∃ t, exec i s = .next t ∧ t.out = s.out ∧
      t.par.due = s.par.due ++ [due] ∧ what t ∧ ∃ y ∈ t.par.sessions, y.num = x.num ∧ y.highest = f.frameSeq ∧ y.kept = x.kept
    let named := fun (h : Nat) (u : Txn) => h ≠ 0 ∧ h ≠ 0xFFFFFFFF ∧
      s.par.txns.find? (fun y => y.handle == h && y.session == x.num && !y.committing) = some u
    (∀ idx sub txn watch length offset change, op = .read idx sub txn watch length offset change → sub < 256 → txn = 0 →
      (objRow idx sub = none → answers (.parealoRead f 0) (fun _ b => b = respOp 1 0 idx sub 0 1 0 0 [])) ∧
      (∀ r, objRow idx sub = some r → r.acc = 3 → answers (.parealoRead f 0) (fun _ b =>
        let key := idx * 256 + sub
        b = respOp 1 r.typ idx sub 3 stWriteOnly (objTotal s1 key) (changeOf s1 key) [])) ∧
      (∀ r, objRow idx sub = some r → r.acc ≠ 3 →
        let key := idx * 256 + sub
        let v := objValue s1 key
        let n := if length = 0 then 4024 else min length 4024
        (r.typ ≠ 12 → length = 0 → offset = 0 → change = 0 → v.length ≤ 4024 → answers (.parealoRead f 0) (fun _ b =>
          b = respOp 1 r.typ idx sub r.acc (readBits s1 key) v.length (changeOf s1 key) v)) ∧
        (r.typ = 12 → key ≠ Key.resultSlots → offset = 0 → change = 0 → answers (.parealoRead f 0) (fun _ b =>
          b = respOp 1 12 idx sub r.acc ((if n < v.length then 0x800 else 0) + readBits s1 key) v.length (changeOf s1 key) (v.take n))) ∧
        (r.typ = 12 → key ≠ Key.resultSlots → offset ≠ 0 →
          (versionBytes s1 key change = none → answers (.parealoRead f 0) (fun _ b =>
            b = respOp 1 12 idx sub r.acc stStale (objTotal s1 key) (changeOf s1 key) [])) ∧
          (∀ u, versionBytes s1 key change = some u → offset < u.length → answers (.parealoRead f 0) (fun _ b =>
            b = respOp 1 12 idx sub r.acc ((if offset + n < u.length then 0x800 else 0) + readBits s1 key) u.length (changeOf s1 key)
              ((u.drop offset).take n)))))) ∧
    (∀ idx sub r, op = .describe idx sub → sub < 256 → objRow idx sub = some r → answers (.describe f 0) (fun _ b =>
      let key := idx * 256 + sub
      b = respOp 6 r.typ idx sub r.acc 0 (objTotal s1 key) (changeOf s1 key) (leBytes 1 (if r.acc = 3 then 0 else 15) ++
        leBytes 1 (if r.acc ≤ 1 then 0 else r.writers) ++ leBytes 6 0 ++
        leBytes 8 (if (typeSize r.typ).isSome then objDefault s.variant key else 0)))) ∧
    (∀ idx sub txn offset data, op = .write idx sub txn offset data → sub < 256 →
      let key := idx * 256 + sub
      (txn = 0 → directStatus s1 x.role key offset data = 0 →
        waits (.parealoWrite f 0) (.direct x.num f.frameSeq 0 x.role key data) (fun t => t.par.txns = s.par.txns)) ∧
      (txn = 0 → directStatus s1 x.role key offset data ≠ 0 → answers (.parealoWrite f 0) (fun t b => t.par.due = s.par.due ∧
        t.par.txns = s.par.txns ∧ field b 8 2 = directStatus s1 x.role key offset data)) ∧
      (∀ u, named txn u → stageStatus s1 x.role u key offset data = 0 → answers (.parealoWrite f 0) (fun t b => t.par.due = s.par.due ∧
        { u with staged := stage u ⟨key, stagedValue u key offset data⟩ } ∈ t.par.txns ∧ field b 8 2 = 0))) ∧
    (op = .begin_ → ((∃ y ∈ s.par.txns, y.session = x.num) ∨ 64 ≤ s.par.txns.length → answers (.parealoBegin f 0) (fun t b =>
        t.par.txns = s.par.txns ∧ b = respOp 3 0 0 0 0 13 0 0 [])) ∧
      ((∀ y ∈ s.par.txns, y.session ≠ x.num) → s.par.txns.length < 64 → x.role = .observer → answers (.parealoBegin f 0) (fun t b =>
        t.par.txns = s.par.txns ∧ b = respOp 3 0 0 0 0 2 0 0 [])) ∧
      ((∀ y ∈ s.par.txns, y.session ≠ x.num) → s.par.txns.length < 64 → x.role ≠ .observer → answers (.parealoBegin f 0) (fun t b =>
        b = respOp 3 0 0 0 0 0 0 0 (leBytes 4 s.par.nextHandle) ∧ t.par.nextHandle = s.par.nextHandle + 1 ∧
        ∃ c, t.par.txns = s.par.txns ++ [⟨s.par.nextHandle, x.num, x.role, c, 0, [], [], false⟩]))) ∧
    (∀ txn, op = .commit txn → (∀ u, named txn u → waits (.commitOp f 0) (.commit txn x.num f.frameSeq 0) (fun t =>
        { u with committing := true } ∈ t.par.txns)) ∧
      (txn = 0 → answers (.commitOp f 0) (fun t b => t.par.due = s.par.due ∧ field b 8 2 = 12))) ∧
    (∀ txn, op = .rollback txn → (∀ u, named txn u → answers (.parealoRollback f 0) (fun t b => b = respOp 5 0 0 0 0 0 0 0 [] ∧
        (∀ y ∈ t.par.txns, y.handle ≠ txn) ∧ getN t Key.txnRolledBack = satAdd 64 (getN s1 Key.txnRolledBack) 1)) ∧
      (txn = 0 → answers (.parealoRollback f 0) (fun t b => b = respOp 5 0 0 0 0 12 0 0 [] ∧ t.par.txns = s.par.txns)))

/-- O53. An accepted W1C_FLAG_CLEAR clears exactly the written ones of a flag that the engine sets at the event, and hands the ones
to the gathering for the others. CAPTURE_EMPTY with 1 sets the EMPTY object and zeroes the capture's values, or waits for the
gathering for the INVALID capture; with 0 it changes nothing. HIGH_WATER_RESET leaves 0. Every listed row whose write fails a
check of R557 answers that status and changes nothing else, and where writes are not open it changes nothing at all. Each of
these is said to answer a next state with its own effect: W1C_FLAG_CLEAR, CAPTURE_EMPTY, HIGH_WATER_RESET. (R158, R324, R379,
R428, R434, R521, R557) -/
def Obligations.FlagsCapturesAndRefusedWrites : Prop :=
  (∀ (s : State) (idx sub m : Nat) (w : WReq), sub < 256 → objKind (idx * 256 + sub) = .w1c m → Accepted s (idx * 256 + sub) w →
    let key := idx * 256 + sub
    ∃ t, exec (.w1cFlagClear idx sub w) s = .next t ∧ t.out = s.out ++ [.objStatus key 0] ∧ t.raised = s.raised ∧
      (eventFlags key = true → t.clears = s.clears ∧ ∀ i, bit (getN t key) i = (bit (getN s key) i && !bit w.val i)) ∧
      (eventFlags key = false → getN t key = getN s key ∧
        ∀ i, bit (stGet t.clears key) i = (bit (stGet s.clears key) i || bit w.val i))) ∧
  (∀ (s : State) (idx sub : Nat) (w : WReq), sub < 256 → objKind (idx * 256 + sub) = .emptier → Accepted s (idx * 256 + sub) w →
    let key := idx * 256 + sub
    (w.val = 0 → exec (.captureEmpty idx sub w) s = .next (emit s (.objStatus key 0))) ∧
    (w.val ≠ 0 → key = Key.invalidCaptureEmpty → ∃ t, exec (.captureEmpty idx sub w) s = .next t ∧ t.objs = s.objs ∧
      stGet t.clears key = 1 ∧ t.out = s.out ++ [.objStatus key 0]) ∧
    (w.val ≠ 0 → key ≠ Key.invalidCaptureEmpty → ∃ t, exec (.captureEmpty idx sub w) s = .next t ∧ getN t key = 1 ∧
      t.out = s.out ++ [.objStatus key 0] ∧ t.clears = s.clears ∧
      ∀ i, (captureSubs key).1 ≤ i → i ≤ (captureSubs key).2 → idx * 256 + i ≠ Key.cycleCapture → idx * 256 + i ≠ key →
        getN t (idx * 256 + i) = 0)) ∧
  (∀ (s : State) (idx sub : Nat) (w : WReq), sub < 256 → objKind (idx * 256 + sub) = .hiWater → Accepted s (idx * 256 + sub) w →
    let key := idx * 256 + sub
    ∃ t, exec (.highWaterReset idx sub w) s = .next t ∧ getN t key = 0 ∧ t.out = s.out ++ [.objStatus key 0] ∧
      ∀ k, k ≠ key → getN t k = getN s k) ∧
  (∀ (s : State) (w : WReq) (stks : StackErrs) (errs : List (CoreId × List SramErr)),
    ∀ e ∈ [(Instr.setCompression w, Key.setCompression), (.excuse ⟨w, stks⟩, Key.excuse), (.override w, Key.override),
      (.hostLease w, Key.hostLease), (.hostLeaseBeats w, Key.hostLeaseBeats), (.beatPeriodUs w, Key.beatPeriodUs),
      (.parkRequest w, Key.parkRequest), (.wakeRequest w, Key.wakeRequest), (.vcoreMv w, Key.vcoreMv),
      (.markCoreDefective w, Key.markCoreDefective), (.releaseFieldLoss w, Key.releaseFieldLoss), (.excludeField w, Key.excludeField),
      (.switch ⟨w, errs⟩, Key.switch), (.resume w, Key.resume), (.replayStep ⟨w, errs⟩, Key.replayStep), (.rollbackAdvance w, Key.rollbackAdvance)],
    (writesOpen s w.role e.2 = false → exec e.1 s = .next s) ∧
    (writesOpen s w.role e.2 = true → reqStatus s e.2 w ≠ 0 → exec e.1 s = .next (emit s (.objStatus e.2 (reqStatus s e.2 w))))) ∧
  (∀ (s : State) (w : DReq), ∀ e ∈ [(Instr.linkPlan w, Key.linkPlan), (.substituteTable w, Key.substituteTable),
      (.peerSubstitute w, Key.peerSubstitute), (.quoteNonce w 0, Key.quoteNonce)],
    (writesOpen s w.role e.2 = false → exec e.1 s = .next s) ∧
    (writesOpen s w.role e.2 = true → writeStatus s w.role w.inTxn e.2 w.bytes ≠ 0 →
      exec e.1 s = .next (emit s (.objStatus e.2 (writeStatus s w.role w.inTxn e.2 w.bytes)))))

/-- O54. JOB_START of a job that is neither RUNNING nor SUSPENDED runs its start checks and makes it RUNNING, journalled, at this
beat with no progress; JOB_SUSPEND is pending until JOB_SUSPENDED; JOB_RESUME runs it again, but a dump fails after a milestone
has passed; JOB_CANCEL leaves CANCELLED, and each is refused with WRONG_STATE in any other state. JOB_END ends a running job
DONE or FAILED with its status; a memory test leaves every line zero, a load keeps the image, and with APPLY waits for the
boundary, a reshard reaches COPIED, a dump names its image. A load that waits for the boundary ends before a command of a job is
taken at it. CHECKPOINT_DUMP writes the image at a milestone boundary, or fails with BAD_RANGE. Each of these is said to answer
a next state with its own effect: JOB_START, JOB_SUSPEND, JOB_RESUME, JOB_CANCEL, JOB_SUSPENDED, JOB_END, CHECKPOINT_DUMP.
(R321, R441, R442, R443, R444, R445, R507, R509) -/
def Obligations.JobsRunAndEnd : Prop :=
  (∀ (s : State) (n : Nat) (w : WReq), ∀ row ∈ [Instr.jobStart n w, .jobSuspend n w, .jobResume n w, .jobCancel n w], n < 5 →
    exec row s = exec row (finishLoad s) ∧ (getJob (finishLoad s) 1).load = none ∧
    (∀ p, (getJob s 1).load = some p → jobSt (finishLoad s) 1 = 3 ∧ getN (finishLoad s) (Key.jobResult 1) = 0)) ∧
  (∀ (s : State) (n : Nat) (w : WReq), n < 5 → (getJob s 1).load = none → Accepted s (Key.jobCommand n) { w with val := 1 } →
    let out := fun st => exec (.jobStart n w) s = .next (emit s (.objStatus (Key.jobCommand n) st))
    (jobSt s n = 1 ∨ jobSt s n = 2 → out 10) ∧
    (jobSt s n ≠ 1 → jobSt s n ≠ 2 → startCheck n s ≠ 0 → out (startCheck n s)) ∧
    (jobSt s n ≠ 1 → jobSt s n ≠ 2 → startCheck n s = 0 → ∃ t, exec (.jobStart n w) s = .next t ∧ jobSt t n = 1 ∧
      getN t (Key.jobStartBeat n) = beatNow s ∧ (n ≠ 2 ∨ getN s Key.podSpare ≠ 1 → getN t (Key.jobProgressDone n) = 0) ∧ (getJob t n).suspendPending = false ∧
      .objStatus (Key.jobCommand n) 0 ∈ t.out ∧
      ∃ r ∈ t.log.journal, r.typ = 7 ∧ field r.body 0 2 = 0x1200 + n ∧ field r.body 2 1 = 1)) ∧
  (∀ (s : State) (n : Nat) (w : WReq), n < 5 → (getJob s 1).load = none → Accepted s (Key.jobCommand n) { w with val := 2 } →
    let may := jobSt s n = 1 ∧ (getJob s n).suspendPending = false ∧ maySuspend s n = true
    (may → ∃ t, exec (.jobSuspend n w) s = .next t ∧ jobSt t n = 1 ∧ (getJob t n).suspendPending = true ∧
      ∀ units, ∃ u, exec (.jobSuspended ⟨n, units⟩) t = .next u ∧ jobSt u n = 2 ∧ (getJob u n).suspendPending = false ∧
        (n = 0 ∨ n = 1 ∨ n = 4 → getN u (Key.jobProgressDone n) =
          min (getN t (Key.jobProgressTotal n)) (max (getN t (Key.jobProgressDone n)) units))) ∧
    (¬may → exec (.jobSuspend n w) s = .next (emit s (.objStatus (Key.jobCommand n) 10)))) ∧
  (∀ (s : State) (n units : Nat), n < 5 → jobSt s n ≠ 1 ∨ (getJob s n).suspendPending = false →
    exec (.jobSuspended ⟨n, units⟩) s = .next s) ∧
  (∀ (s : State) (n : Nat) (w : WReq), n < 5 → (getJob s 1).load = none → Accepted s (Key.jobCommand n) { w with val := 3 } →
    (jobSt s n ≠ 2 → exec (.jobResume n w) s = .next (emit s (.objStatus (Key.jobCommand n) 10))) ∧
    (jobSt s n = 2 → n ≠ 4 ∨ (getJob s n).dump = none → ∃ t, exec (.jobResume n w) s = .next t ∧ jobSt t n = 1) ∧
    (∀ c rest, jobSt s n = 2 → n = 4 → (getJob s n).dump = some (c, rest) → ∃ t, exec (.jobResume n w) s = .next t ∧
      (c = getN s Key.commitStep → jobSt t n = 1) ∧ (c ≠ getN s Key.commitStep → jobSt t n = 5 ∧ getN t (Key.jobResult n) = 10))) ∧
  (∀ (s : State) (n : Nat) (w : WReq), n < 5 → (getJob s 1).load = none → Accepted s (Key.jobCommand n) { w with val := 4 } →
    let may := jobSt s n = 1 ∨ jobSt s n = 2 ∨ (n = 2 ∧ getN s Key.reshardPhase = 3)
    (may → ∃ t, exec (.jobCancel n w) s = .next t ∧ jobSt t n = 4 ∧ getN t (Key.jobResult n) = 0 ∧
      getN t (Key.jobEndBeat n) = beatNow s ∧ (n = 2 → getN t Key.reshardPhase = 0) ∧ (n = 2 ∨ n = 3 → ∀ p ∈ t.pulls, p.job ≠ n)) ∧
    (¬may → exec (.jobCancel n w) s = .next (emit s (.objStatus (Key.jobCommand n) 10)))) ∧
  (∀ (s : State) (n : Nat) (o : JobOutcome), jobSt s n ≠ 1 ∨ (getJob s n).load ≠ none → exec (.jobEnd n o) s = .next s) ∧
  (∀ (s : State) (o : JobOutcome), jobSt s 0 = 1 → (getJob s 0).load = none → ∃ t, exec (.jobEnd 0 o) s = .next t ∧ t.stk.mem = [] ∧
    t.stk.poison = [] ∧ t.images = [] ∧ getN t (Key.jobResult 0) = o.status ∧ getN t Key.testRowsRepaired = o.rowsRepaired ∧
    jobSt t 0 = if o.status = 0 then 3 else 5) ∧
  (∀ (s : State) (o : JobOutcome), jobSt s 1 = 1 → (getJob s 1).load = none →
    let b := jobParams s 1
    let found := fun p => loadFail (noteProgress s 1 o.done) p
    (∀ st, o.placement = none → o.status = st → st ≠ 0 → ∃ t, exec (.jobEnd 1 o) s = .next t ∧ jobSt t 1 = 5 ∧
      getN t (Key.jobResult 1) = st ∧ t.images = s.images) ∧
    (∀ p, o.placement = some p → o.status = 0 → p.hash ≠ slice b 0x18 32 → ∃ t, exec (.jobEnd 1 o) s = .next t ∧ jobSt t 1 = 5 ∧
      getN t (Key.jobResult 1) = 7 ∧ t.images = s.images) ∧
    (∀ p, o.placement = some p → o.status = 0 → p.hash = slice b 0x18 32 → ∀ fail, found p = some fail →
      ∃ t, exec (.jobEnd 1 o) s = .next t ∧ jobSt t 1 = 5 ∧ getN t (Key.jobResult 1) = fail.1 ∧ t.images = s.images) ∧
    (∀ p, o.placement = some p → o.status = 0 → p.hash = slice b 0x18 32 → found p = none → ∃ t, exec (.jobEnd 1 o) s = .next t ∧
      t.placement = s.placement ∧ t.images = amIns p s.images (frameKey (field b 2 1) (field b 4 4)) ∧
      (bit (field b 1 1) 0 = false → jobSt t 1 = 3 ∧ getN t (Key.jobResult 1) = 0) ∧
      (bit (field b 1 1) 0 = true → jobSt t 1 = 1 ∧ (getJob t 1).load = some p))) ∧
  (∀ (s : State) (o : JobOutcome), jobSt s 2 = 1 → (getJob s 2).load = none →
    (o.status ≠ 0 → ∃ t, exec (.jobEnd 2 o) s = .next t ∧ jobSt t 2 = 5 ∧ getN t Key.reshardPhase = 0 ∧
      bit (stGet t.raised Key.mappingFlags) 0 = true ∧ ∀ p ∈ t.pulls, p.job ≠ 2) ∧
    (o.status = 0 → getN s Key.reshardPhase = 2 → getN s Key.blocksExpected ≤ getN s Key.blocksReceived →
      ∃ t, exec (.jobEnd 2 o) s = .next t ∧ jobSt t 2 = 3 ∧ getN t Key.reshardPhase = 3) ∧
    (o.status = 0 → getN s Key.blocksReceived < getN s Key.blocksExpected → exec (.jobEnd 2 o) s = .next s)) ∧
  (∀ (s : State) (o : JobOutcome), jobSt s 3 = 1 → (getJob s 3).load = none → o.status ≠ 0 → ∃ t, exec (.jobEnd 3 o) s = .next t ∧
    jobSt t 3 = 5 ∧ getN t (Key.jobResult 3) = o.status ∧ ∀ p ∈ t.pulls, p.job ≠ 3) ∧
  (∀ (s : State) (o : JobOutcome), jobSt s 4 = 1 → (getJob s 4).load = none →
    (o.status ≠ 0 → ∃ t, exec (.jobEnd 4 o) s = .next t ∧ jobSt t 4 = 5 ∧ getN t (Key.jobResult 4) = o.status) ∧
    (∀ e, o.status = 0 → (getJob s 4).dump = some e → ∃ t, exec (.jobEnd 4 o) s = .next t ∧ jobSt t 4 = 3 ∧
      getN t (Key.jobProgressDone 4) = getN s (Key.jobProgressTotal 4) ∧ slice (getDom t (Key.jobDetail 4)) 10 54 = slice e.2 0 54)) ∧
  (∀ (s : State), jobSt s 4 = 1 → (getJob s 4).dump = none →
    let img := imageBytes s
    let b := jobParams s 4
    (s.stp.milestoneDone = true → s.stp.lastMilestoneBeat = beatNow s →
      (field b 8 8 < img.length → ∃ t, exec .checkpointDump s = .next t ∧ jobSt t 4 = 5 ∧ getN t (Key.jobResult 4) = 17) ∧
      (img.length ≤ field b 8 8 → ∃ t, exec .checkpointDump s = .next t ∧ jobSt t 4 = 1 ∧
        t.out = s.out ++ [.hostWrite (field b 0 8) img] ∧ getN t (Key.jobProgressTotal 4) = img.length ∧
        (getJob t 4).dump = some (getN s Key.commitStep, leBytes 8 img.length ++ sha256 img))) ∧
    (s.stp.milestoneDone = false ∨ s.stp.lastMilestoneBeat ≠ beatNow s → exec .checkpointDump s = .next s))

/-- O55. SWITCH is refused in any phase but COPIED and then puts the target placement in force at DRAIN_STEP, with each moved
group's t; RESUME is refused in any phase but SWITCHED and then leaves NONE with the step opened now. REPLAY_STEP, with no
core's detour outstanding, abandons every micro-batch of the current step for replay, and waits for the detours otherwise.
PEER_SUBSTITUTE refuses a table with a broken pair, and for a pair the messages sent this step and the frames in flight go to
the new address. Each of these is said to answer a next state with its own effect: SWITCH, RESUME, REPLAY_STEP, PEER_SUBSTITUTE.
(R43, R386, R387, R388, R492, R504, R505) -/
def Obligations.SwitchResumeReplaySubstitute : Prop :=
  (∀ (s : State) (w : WReq) (errs : List (CoreId × List SramErr)), Accepted s Key.switch w →
    (getN s Key.reshardPhase ≠ 3 → exec (.switch ⟨w, errs⟩) s = .next (emit s (.objStatus Key.switch 10))) ∧
    (∀ p, getN s Key.reshardPhase = 3 → w.val = 1 → reshardTarget s = some p → ∃ t, exec (.switch ⟨w, errs⟩) s = .next t ∧
      getN t Key.reshardPhase = 4 ∧ getN t Key.commitStep = getN s Key.drainStep % 2 ^ 64 ∧
      t.stp.step = (getN s Key.drainStep + 1) % 2 ^ 64 ∧ t.placement = some p ∧ .objStatus Key.switch 0 ∈ t.out ∧
      (∀ q ∈ t.pulls, q.job ≠ 2) ∧ (∀ q, s.pulls.filter (fun q => q.job == 2) = [q] → (getGroup t q.group).t = q.t))) ∧
  (∀ (s : State) (w : WReq), Accepted s Key.resume w →
    (getN s Key.reshardPhase ≠ 4 → exec (.resume w) s = .next (emit s (.objStatus Key.resume 10))) ∧
    (getN s Key.reshardPhase = 4 → w.val = 1 → ∃ t, exec (.resume w) s = .next t ∧ getN t Key.reshardPhase = 0 ∧
      t.stp.openBeat = beatNow s ∧ t.stp.step = s.stp.step ∧ t.placement = s.placement ∧
      .objStatus Key.resume 0 ∈ t.out)) ∧
  (∀ (s : State) (w : WReq) (errs : List (CoreId × List SramErr)), Accepted s Key.replayStep w →
    (w.val = 0 → exec (.replayStep ⟨w, errs⟩) s = .next (emit s (.objStatus Key.replayStep 0))) ∧
    (∀ u ∈ s.stp.work, w.val ≠ 0 → u.evaluation = false → s.grid.deaths = [] → s.grid.underWay = [] → s.grid.abandoned = [] →
      ∃ t, exec (.replayStep ⟨w, errs⟩) s = .next t ∧ .objStatus Key.replayStep 0 ∈ t.out ∧
        (∀ q, q ∈ t.stp.replayPending ↔ (∃ v ∈ s.stp.work, v.evaluation = false ∧ v.seq = q) ∨ q ∈ s.stp.replayPending) ∧ t.grid.abandoned = [] ∧
        (∀ v ∈ t.stp.work, v.evaluation = false → v.abandoned = true ∧ v.forwardEnded = false ∧ v.backwardEnded = false) ∧
        bit (stGet t.raised Key.recoveryFlags) 2 = true) ∧
    (∀ u ∈ s.stp.work, w.val ≠ 0 → u.evaluation = false → s.grid.deaths ≠ [] ∨ s.grid.underWay ≠ [] → ∃ t, exec (.replayStep ⟨w, errs⟩) s = .next t ∧
      u.seq ∈ t.grid.abandoned ∧ t.stp.work = s.stp.work ∧ t.stp.suspended = true)) ∧
  (∀ (s : State) (w : DReq), AcceptedDom s Key.peerSubstitute w →
    (substituteCheck s w.bytes ≠ 0 → exec (.peerSubstitute w) s = .next (emit s (.objStatus Key.peerSubstitute 7))) ∧
    (substituteCheck s w.bytes = 0 → ∃ t, exec (.peerSubstitute w) s = .next t ∧ .objStatus Key.peerSubstitute 0 ∈ t.out ∧
      getDom t Key.peerSubstitute = w.bytes ∧
      ∀ a b, substPairs w.bytes = [(a, b)] → a ≠ b → (∀ e ∈ t.exch.sent, e.1 ≠ a) ∧ (∀ f ∈ t.eth.tx, f.dest ≠ a)))

/-- O56. An accepted RESET_REQUEST answers and begins phase 1: 1 warm, which keeps the stacks, 2 cold, which loses them; either
keeps the defect maps, the logbook, the secrets and COMMIT_STEP. RESET_N_LOW does the warm part and waits; RESET_N_RISE begins
phase 1, cold from 10 ms on. FAILOVER of two running cores makes the other one active alone, journals and reports it, closes
every session and frees the mailbox. MGMT_HEARTBEAT that checks advances the receiver's milepost and clears its missed count,
and one that fails adds to it. BRINGUP_RESTART goes back to phase 2 once, with nothing powered and no placement.
MICROCODE_MISMATCH resends twice, and a third one marks the core. Each of these is said to answer a next state with its own
effect: RESET_REQUEST, RESET_N_LOW, RESET_N_RISE, MICROCODE_MISMATCH, BRINGUP_RESTART, FAILOVER, MGMT_HEARTBEAT. (R298, R432,
R451, R473, R478, R480, R510, R536, R551) -/
def Obligations.ResetsAndFailover : Prop :=
  let keeps := fun (s t : State) => t.grid.mapA = s.grid.mapA ∧ t.grid.mapB = s.grid.mapB ∧ t.log = s.log ∧ t.sec.secrets = s.sec.secrets ∧
    getN t Key.commitStep = getN s Key.commitStep ∧ t.cores = [] ∧ t.par = State.reset.par ∧ t.placement = none
  let warm := fun (s t : State) => t.stk.mem = s.stk.mem ∧ t.stk.poison = s.stk.poison ∧ t.host.linkUp = s.host.linkUp ∧ t.images = s.images
  let cold := fun (t : State) => t.stk.mem = [] ∧ t.host.linkUp = false ∧ t.images = []
  (∀ (s : State) (w : WReq), Accepted s Key.resetRequest w → w.val = 1 ∨ w.val = 2 → ∃ t, exec (.resetRequest w) s = .next t ∧
    getN t Key.bringupPhase = 1 ∧ t.mgmt.awaitStart = true ∧ keeps s t ∧ t.out = s.out ++ [.objStatus Key.resetRequest 0] ∧
    t.pending = s.pending ∧ (w.val = 1 → t.mgmt.startKind = 1 ∧ warm s t) ∧ (w.val = 2 → t.mgmt.startKind = 0 ∧ cold t)) ∧
  (∀ (s : State), s.power.input = true → s.power.resetLow = false → ∃ t, exec .resetNLow s = .next t ∧ getN t Key.bringupPhase = 0 ∧
    t.power.resetLow = true ∧ t.mgmt.awaitStart = false ∧ keeps s t ∧ warm s t ∧ t.out = s.out) ∧
  (∀ (s : State) (us : Nat), s.power.resetLow = true → ∃ t, exec (.resetNRise us) s = .next t ∧ getN t Key.bringupPhase = 1 ∧
    t.power.resetLow = false ∧ t.mgmt.awaitStart = true ∧ keeps s t ∧ (us < 10000 → t.mgmt.startKind = 1 ∧ warm s t) ∧
    (10000 ≤ us → t.mgmt.startKind = 0 ∧ cold t)) ∧
  (∀ (s : State) (us : Nat), s.power.resetLow = false → exec (.resetNRise us) s = .next s) ∧
  (∀ (s : State), getN s Key.activeCore ≤ 1 → 2 ≤ getN s Key.bringupPhase →
    let new := 1 - getN s Key.activeCore
    (s.mgmt.mcaRuns = true → s.mgmt.mcbRuns = true → mayBeActive s new = true → ∃ t e, exec .failover s = .next t ∧
      getN t Key.activeCore = new ∧ t.mgmt.mcaRuns = (new == 0) ∧ t.mgmt.mcbRuns = (new == 1) ∧ t.par.sessions = [] ∧
      t.host.bar.mailboxBusy = false ∧ bit (stGet t.raised Key.recoveryFlags) 3 = true ∧ t.beat.ptpLocked = false ∧
      t.log.events.head? = some e ∧ e.code = 0xB ∧ e.detail = [new] ∧ (∃ r ∈ t.log.journal, r.typ = 12 ∧ r.writer = new)) ∧
    (s.mgmt.mcaRuns = false ∨ s.mgmt.mcbRuns = false ∨ mayBeActive s new = false → exec .failover s = .next s)) ∧
  (∀ (s : State) (fromB : Bool) (bytes : List Byte),
    let u := CvuId.mc (b2n (!fromB)) 3
    cvuLive s u = true → s.mgmt.mcaRuns = true → s.mgmt.mcbRuns = true →
    let c := cvuEnd (cvuData (cvuBegin (getCvu s u)) (slice bytes 0 30))
    let missed := fun (x : State) => if fromB then x.mgmt.hbMissed.1 else x.mgmt.hbMissed.2
    let ok := bytes.length = 32 ∧ field bytes 30 2 = c.result.toNat % 2 ^ 16
    ∃ t, exec (.mgmtHeartbeat fromB bytes) s = .next t ∧
      (ok → missed t = 0 ∧ (getCvu t u).milepost = (getCvu s u).milepost + 1) ∧
      (¬ok → missed t = missed s + 1 ∧ (getCvu t u).milepost = (getCvu s u).milepost)) ∧
  (∀ (s : State) (f : Nat), fieldLostNow s f = true → s.grid.lostThisStart ≠ 0 → 3 ≤ getN s Key.bringupPhase →
    getN s Key.bringupPhase ≤ 6 → (s.mgmt.restarted = true → exec (.bringupRestart f) s = .next s) ∧
    (s.mgmt.restarted = false → ∃ t, exec (.bringupRestart f) s = .next t ∧ getN t Key.bringupPhase = 2 ∧ t.mgmt.restarted = true ∧
      t.mgmt.fullStart = false ∧ t.cores = [] ∧ t.placement = none ∧ (∀ g, g < 90 → fieldPower t g = 0) ∧ t.stk = s.stk ∧
      t.par.sessions = s.par.sessions)) ∧
  (∀ (s : State) (p : PhysId), getN s Key.bringupPhase = 2 → p.col < 330 → p.row < 288 →
    let n := fun (x : State) => stGet x.grid.microcode (p.row * 330 + p.col)
    (n s < 3 → ∃ t, exec (.microcodeMismatch p) s = .next t ∧ n t = n s + 1 ∧
      (n s < 2 → getN t Key.microcodeResends = satAdd 32 (getN s Key.microcodeResends) 1) ∧ (n s = 2 → t.objs = s.objs)) ∧
    (3 ≤ n s → exec (.microcodeMismatch p) s = .next s))

/-- O57. MANAGEMENT with a verified image and a readable logbook opens Parealo and the crescent rails in phase 2, with the next
epoch, the start counted and recorded, and the beat number that the journal proves; with no core running it offers only the boot
ROM's exchange. CLOCKS_NETWORK with its images starts the beat, powers the fields and derives the grid in phase 3 (said for a
start with no failures, no released fields and no mismatches), and without one stays and flags it. MEMORIES brings every present
stack READY, or FAILED with its flag, zero on any start but a warm one. LINKS opens the pull endpoints and goes to COMPUTE, or
ends UNFIT. COMPUTE, after a cold start, wakes the fields and leaves every core of an awake field HALTED with its seeded lanes.
Each of these is said to answer a next state with its own effect: MANAGEMENT, CLOCKS_NETWORK, MEMORIES, LINKS, COMPUTE. (R31,
R298, R321, R476, R477, R480, R481, R482, R483, R486, R521, R537) -/
def Obligations.BringUpPhases : Prop :=
  (∀ (s : State) (env : MgmtEnv), s.power.input = true → s.power.resetLow = false → getN s Key.bringupPhase = 1 → s.mgmt.awaitStart = true →
    (∀ b, chooseBank s 0 = some b → env.mcaOk = true → env.logbookOk = true → env.cvuFailed = [] →
      ∃ t, exec (.management env) s = .next t ∧ getN t Key.bringupPhase = 2 ∧ t.par.isOpen = true ∧ t.par.sessions = [] ∧
        t.mgmt.awaitStart = false ∧ t.mgmt.mcaRuns = true ∧ t.mgmt.mcbRuns = env.mcbOk ∧ (env.mcbOk = false → getN t Key.activeCore = 0) ∧
        t.power.crescents = true ∧ t.log.epoch = (s.log.epoch + 1) % 2 ^ 32 ∧ getN t Key.epoch = (s.log.epoch + 1) % 2 ^ 32 ∧
        getN t Key.bringupCount = satAdd 32 (getN s Key.bringupCount) 1 ∧ beatNow t = journalBeat s ∧
        getN t Key.lastStartKind = s.mgmt.startKind + 4 * b2n (fullStart s) ∧
        (env.pcieTrained = true → t.host.linkUp = true)) ∧
    (chooseBank s 0 = none ∨ (env.mcaOk = false ∧ env.mcbOk = false) → ∃ t, exec (.management env) s = .next t ∧
      getN t Key.bringupPhase = 1 ∧ t.par = s.par ∧ t.mgmt.mcaRuns = false ∧ t.mgmt.mcbRuns = false ∧
      t.mgmt.recovery = env.logbookOk)) ∧
  (∀ (s : State), getN s Key.bringupPhase = 2 → s.power.input = true →
    (∀ env, chooseBank s 2 = none → ∃ t, exec (.clocksNetwork env) s = .next t ∧ getN t Key.bringupPhase = 2 ∧
      bit (stGet t.raised Key.securityFlags) 0 = true) ∧
    (∀ b c m, chooseBank s 2 = some b → chooseBank s 1 = some c → curMap s = some m → s.grid.released = [] → s.grid.microcode = [] →
      ∃ t, exec (.clocksNetwork ⟨[], [], []⟩) s = .next t ∧ getN t Key.bringupPhase = 3 ∧ beatNow t = (beatNow s + 1) % 2 ^ 64 ∧
        t.beat.running = true ∧ getN t Key.vcoreAppliedMv = getN s Key.vcoreMv ∧ curMap t = some m ∧ t.grid.runRows = m.rows ∧
        getN t Key.gridMode = (gridModeOf m.fields).1 ∧ getN t Key.excludedFieldColumn = (gridModeOf m.fields).2 ∧
        logicalCols t = (if (gridModeOf m.fields).1 = 0 then 320 else if (gridModeOf m.fields).1 = 1 then 288 else 0) ∧
        (∀ f ∈ poweredFields s, getN t (Key.regState f) = 2 ∧ fieldPower t f = 2))) ∧
  (∀ (s : State) (env : MemEnv), getN s Key.bringupPhase = 3 → s.power.crescents = true →
    (chooseBank s 3 = none → ∃ t, exec (.memories env) s = .next t ∧ getN t Key.bringupPhase = 3 ∧
      bit (stGet t.raised Key.securityFlags) 0 = true) ∧
    (∀ b, chooseBank s 3 = some b → ∃ t, exec (.memories env) s = .next t ∧ getN t Key.bringupPhase = 4 ∧
      t.stk.mem = (if s.mgmt.startKind = 1 then s.stk.mem else []) ∧
      (s.mgmt.fullStart = true → getN t Key.startMode = 0 ∧ t.log.stackMapsValid = true ∧
        getN t Key.testRowsRepaired = env.rowsRepaired % 2 ^ 32) ∧
      (s.mgmt.fullStart = false → ∀ n, n < 16 → bit (stackPresent s.variant) n = true →
        getN t (Key.msStackState n) = (if n ∈ env.trainFails then 2 else 0) ∧
        (n ∈ env.trainFails → bit (stGet t.raised Key.stackFlags) 3 = true)))) ∧
  (∀ (s : State) (eps ports : List Nat), getN s Key.bringupPhase = 4 → ∃ t, exec (.links eps ports) s = .next t ∧
    t.mgmt.pullOpen = true ∧ getN t Key.bringupPhase = (if getN s Key.gridMode = 2 then 8 else 5) ∧
    (∀ p ∈ eps, p < 8 → getN s (Key.epEnable p) = 1 → getN t (Key.epState p) = 2)) ∧
  (∀ (s : State), getN s Key.bringupPhase = 5 → s.mgmt.startKind ≠ 1 → logicalCols s ≤ 320 → ∃ t, exec .compute s = .next t ∧
    getN t Key.bringupPhase = 6 ∧ t.placement = s.placement ∧
    (∀ f ∈ wakingFields s, fieldPower t f = 4) ∧
    (∀ id, inGrid s id = true → getCore t id = if fieldPower t (coreField s id) = 4 then
      { Core.default with st := .halted, lanes := seedLanes s id } else Core.default))

/-- O58. FW_STAGE_REQUEST is refused by its checks; an image that passes goes into the bank that is not running, named next, STAGED;
one that fails leaves that bank invalid, REJECTED with BAD_VALUE and the flag; a revocation image revokes its slots.
ROLLBACK_ADVANCE blows both bits of every step up to the value. QUOTE_NONCE signs the quote body under the next leaf.
ROLE_SECRET replaces a secret, closes the role's sessions, and an owner secret of zeros is refused. A DEBUG_TOKEN that passes
unlocks debugging, and each one written changes the nonce. BOTTOM_TREE_GENERATED ends the wait. JTAG_PROVISION, LOCK, IDCODE and
BYPASS answer as R526 and R550 say, and a gated port as zeros. Each of these is said to answer a next state with its own effect:
FW_STAGE_REQUEST, ROLLBACK_ADVANCE, QUOTE_NONCE, ROLE_SECRET, DEBUG_TOKEN, JTAG_PROVISION, LOCK, IDCODE, BYPASS,
BOTTOM_TREE_GENERATED. (R520, R521, R522, R523, R524, R525, R526, R527, R528, R540, R550) -/
def Obligations.SecurityRowsComplete : Prop :=
  (∀ (s : State) (w : DReq) (i : FwImage), AcceptedDom s Key.fwStageRequest w → getN s Key.fwStageState ≠ 1 →
    let k := field w.bytes 1 1
    let b := idleBank s k
    let whole := imageOk s k i = true ∧ field w.bytes 0x10 4 = 5652 + i.body.length
    (stageCheck s w.bytes ≠ 0 → exec (.fwStageRequest w i) s = .next (emit s (.objStatus Key.fwStageRequest (stageCheck s w.bytes)))) ∧
    (stageCheck s w.bytes = 0 → k ≤ 3 → s.sec.banks.length = 4 → ∃ t, exec (.fwStageRequest w i) s = .next t ∧
      t.out = s.out ++ [.objStatus Key.fwStageRequest 0] ∧ bankOf t k (1 - b) = bankOf s k (1 - b) ∧
      (whole → getN t Key.fwStageState = 2 ∧ getN t Key.fwStageResult = 0 ∧ getN t (Key.fwNextBank k) = b ∧ bankOf t k b = ⟨i, true⟩) ∧
      (¬whole → getN t Key.fwStageState = 3 ∧ getN t Key.fwStageResult = 7 ∧ (bankOf t k b).valid = false ∧
        bit (stGet t.raised Key.securityFlags) 0 = true)) ∧
    (stageCheck s w.bytes = 0 → k = 5 → whole → revokeOk s i = true → ∃ t, exec (.fwStageRequest w i) s = .next t ∧
      getN t Key.fwStageState = 2 ∧ t.sec.rootRevoked = s.sec.rootRevoked ||| BitVec.ofNat 4 (field i.body 0 1))) ∧
  (∀ (s : State) (w : WReq), Accepted s Key.rollbackAdvance w →
    (advanceCheck s w.val ≠ 0 → exec (.rollbackAdvance w) s = .next (emit s (.objStatus Key.rollbackAdvance 7))) ∧
    (advanceCheck s w.val = 0 → ∃ t, exec (.rollbackAdvance w) s = .next t ∧ w.val ≤ rollbackCount t ∧
      getN t Key.rollbackCount = rollbackCount t ∧ bit (stGet t.raised Key.securityFlags) 2 = true ∧
      (∀ n, bit t.sec.rollbackBits n = (bit s.sec.rollbackBits n || decide (n < 2 * w.val))))) ∧
  (∀ (s : State) (w : DReq) (ms : Nat), AcceptedDom s Key.quoteNonce w →
    let check := quoteCheck (s.sec.lastQuote.map (fun _ => ms)) s w.bytes
    let n := (getN s Key.quoteSeq + 1) % 2 ^ 32
    let body := quoteBody s w.bytes n
    (check ≠ 0 → exec (.quoteNonce w ms) s = .next (emit s (.objStatus Key.quoteNonce 10))) ∧
    (check = 0 → ∃ t, exec (.quoteNonce w ms) s = .next t ∧ getN t Key.quoteSeq = n ∧ t.sec.leaf = s.sec.leaf + 1 ∧
      getN t Key.signaturesUsed = satAdd 64 (getN s Key.signaturesUsed) 1 ∧
      getDom t Key.quote = body ++ slice (Config.hssSign s.sec.identitySeed s.sec.leaf body) 0 5396)) ∧
  (∀ (s : State) (r : Role) (w : DReq), AcceptedDom s (Key.roleSecret (roleCode r)) w → s.par.secretDue = [] →
    s.sec.secrets.length = 4 →
    (r = .owner → leNat w.bytes = 0 → exec (.roleSecret r w) s = .next (emit s (.objStatus (Key.roleSecret 2) 7))) ∧
    (r ≠ .owner ∨ leNat w.bytes ≠ 0 → ∃ t, exec (.roleSecret r w) s = .next t ∧
      t.sec.secrets = setAt (slice w.bytes 0 32) s.sec.secrets (roleCode r) ∧ (∀ x ∈ t.par.sessions, x ∈ s.par.sessions ∧ x.role ≠ r) ∧
      bit (stGet t.raised Key.securityFlags) 3 = true ∧ .objStatus (Key.roleSecret (roleCode r)) 0 ∈ t.out)) ∧
  (∀ (s : State) (w : DReq), AcceptedDom s Key.debugToken w → ∃ t, exec (.debugToken w) s = .next t ∧
    t.sec.tokensWritten = s.sec.tokensWritten + 1 ∧ .objStatus Key.debugToken (tokenCheck s w.bytes) ∈ t.out ∧
    (tokenCheck s w.bytes = 0 → t.sec.debugOpen = true ∧ getN t Key.lockState = 2 ∧ bit (stGet t.raised Key.securityFlags) 4 = true) ∧
    (tokenCheck s w.bytes ≠ 0 → t.sec.debugOpen = s.sec.debugOpen ∧ t.raised = s.raised)) ∧
  (∀ (s : State), (getN s Key.identityState = 1 → ∃ t, exec .bottomTreeGenerated s = .next t ∧ getN t Key.identityState = 0) ∧
    (getN s Key.identityState = 0 → ∃ t, exec .bottomTreeGenerated s = .next t ∧ t.sec.treeReady = true)) ∧
  (∀ (s : State) (xs : List (List Byte)) (a : BitVec 18),
    (jtagOpen s = true → ∃ t, exec (.jtagProvision xs a) s = .next t ∧ getN t Key.engineAddress = a.toNat ∧
      t.sec.secrets = (List.range 4).map (fun i => slice (xs.getD i []) 0 32)) ∧
    (jtagOpen s = false → exec (.jtagProvision xs a) s = .next s ∧ exec .lock s = .next s) ∧
    (leNat (secretOf s 2) = 0 → exec .lock s = .next s) ∧
    (jtagOpen s = true → leNat (secretOf s 2) ≠ 0 → ∃ t, exec .lock s = .next t ∧ t.sec.provisioned = true ∧
      t.sec.debugLocked = true ∧ bit (getN t Key.fuseState) 4 = true ∧ bit (getN t Key.fuseState) 5 = true)) ∧
  (∀ (s : State) (tdi : Bool),
    (jtagClocked s = true → ∃ t bs, exec .idcode s = .next t ∧ t.out = s.out ++ [.tdo bs] ∧ bs.length = 32 ∧ bs.head? = some true ∧
      (bs.drop 12).take 16 = (List.range 16).map (bit 0x8401) ∧
      (bs.drop 28) = (List.range 4).map (bit (getN s Key.siliconStep))) ∧
    (jtagClocked s = true → ∃ t, exec (.bypass tdi) s = .next t ∧ t.out = s.out ++ [.tdo [s.sec.tdi]] ∧ t.sec.tdi = tdi) ∧
    (s.power.management = true → bit (getN s Key.clockEnableMc) 5 = false →
      exec .idcode s = .next (emit s (.tdo (List.replicate 32 false))) ∧ exec (.bypass tdi) s = .next (emit s (.tdo [false]))))

/-- O59. Commands START (after any writes of its registers, whose reserved bits are ignored), one DATA8 for each byte, and FINALISE
in the queue of a live unit with CONFIG's POLY, SEQ_BYTES and FOLD_MILEPOST zero run to the end and leave in RESULT the CRC-32C
of the bytes, whatever the unit held before. DATA16 and DATA32 feed their bytes as DATA8 would, the low byte first. FINALISE
advances the milepost and ends the stream, VALUE sets the running value and opens it. Data and FINALISE with no open stream are
ignored, with ORDER_ERROR counted; a unit that is absent, off or gated ignores everything. Each of these is said to answer a
next state with its own effect: START, FINALISE, DATA8, DATA16, DATA32, VALUE. (R530, R531, R532, R533, R535, R188) -/
def Obligations.CheckValueUnitsCompute : Prop :=
  (∀ (s : State) (u : CvuId) (ws : List (BitVec 16 × W64)) (bs : List Byte), cvuLive s u = true →
    (ws.foldl cvuRegister (getCvu s u)).config.toNat % 32 = 0 →
    ∃ t, Host.Core.run Sys2Proof.core (bs.length + 2) { s with pending := .cvuStart ⟨u, ws⟩ :: (bs.map (fun b => Instr.data8 u b) ++ [.cvuFinalise u]) } =
        .next t ∧ (getCvu t u).result.toNat = crc32c bs ∧ (getCvu t u).active = false ∧ t.pending = [] ∧ t.raised = s.raised) ∧
  (∀ (s : State) (u : CvuId), cvuLive s u = true →
    (∀ ws : List (BitVec 16 × W64),
      let c := ws.foldl cvuRegister (getCvu s u)
      (∃ t, exec (.cvuStart ⟨u, ws⟩) s = .next t ∧ (getCvu t u).active = true ∧ (getCvu t u).milepost = c.milepost ∧
        (getCvu t u).config = c.config ∧ (bits c.config.toNat 3 2 = 0 → (getCvu t u).value.toNat = cvuInit (cvuPoly c))) ∧
      (∀ v : W64, ∃ t, exec (.value ⟨u, ws⟩ v) s = .next t ∧ (getCvu t u).active = true ∧ (getCvu t u).config = c.config ∧
        (getCvu t u).value.toNat = v.toNat % 2 ^ cvuWidth (cvuPoly c))) ∧
    (∀ v : W64, ∃ t, exec (.cvuStart ⟨u, [(0, v)]⟩) s = .next t ∧ (getCvu t u).config.toNat = v.toNat % 32) ∧
    ((getCvu s u).active = true →
      (∃ t, exec (.cvuFinalise u) s = .next t ∧ (getCvu t u).active = false ∧
        (getCvu t u).milepost = (getCvu s u).milepost + 1 ∧ (bit (getCvu s u).config.toNat 4 = false → (getCvu t u).result.toNat =
          (getCvu s u).value.toNat ^^^ cvuXor (cvuPoly (getCvu s u)))) ∧
      (∀ v : Byte, ∃ t, exec (.data8 u v) s = .next t ∧
        (getCvu t u).value.toNat = cvuFeed (cvuPoly (getCvu s u)) (getCvu s u).value.toNat v % 2 ^ 64) ∧
      (∀ v : BitVec 16, ∃ a b t, exec (.data8 u (v.extractLsb' 0 8)) s = .next a ∧ exec (.data8 u (v.extractLsb' 8 8)) a = .next b ∧
        exec (.data16 u v) s = .next t ∧ getCvu t u = getCvu b u) ∧
      (∀ v : W32, ∃ a b t, exec (.data16 u (v.extractLsb' 0 16)) s = .next a ∧ exec (.data16 u (v.extractLsb' 16 16)) a = .next b ∧
        exec (.data32 u v) s = .next t ∧ getCvu t u = getCvu b u)) ∧
    ((getCvu s u).active = false → ∀ (v : Byte) (x : BitVec 16) (y : W32),
      ∀ row ∈ [Instr.cvuFinalise u, .data8 u v, .data16 u x, .data32 u y], ∃ t, exec row s = .next t ∧ t.cvus = s.cvus ∧ getN t Key.orderErrors = satAdd 64 (getN s Key.orderErrors) 1 ∧
        bit (stGet t.raised Key.cvuFlags) 0 = true)) ∧
  (∀ (s : State) (u : CvuId) (ws : List (BitVec 16 × W64)) (v : Byte) (x : BitVec 16) (y : W32) (z : W64), cvuLive s u = false →
    ∀ row ∈ [Instr.cvuStart ⟨u, ws⟩, .cvuFinalise u, .data8 u v, .data16 u x, .data32 u y, .value ⟨u, ws⟩ z], exec row s = .next s)

/-- O60. For each POLY of the table, commands START, one DATA8 for each byte, and FINALISE in the queue of a live unit with no
SEQ_BYTES and no milepost fold run to the end and leave in RESULT the check value of those bytes by the table's width,
polynomial, initial value and final XOR, with input and output reflection as listed (a reflected value shifts right under the
reversed polynomial); over the nine ASCII bytes "123456789" it is the listed check value. (R531) -/
def Obligations.FourCheckValues : Prop :=
  let reverse := fun (w v : Nat) => ((List.range w).map (fun i => if v.testBit i then 2 ^ (w - 1 - i) else 0)).sum
  let feed := fun (reflected : Bool) (w poly v : Nat) (b : Byte) =>
    if reflected then
      (List.range 8).foldl (fun v _ => if v.testBit 0 then (v / 2) ^^^ reverse w poly else v / 2) (v ^^^ b.toNat)
    else
      (List.range 8).foldl (fun v _ => if v.testBit (w - 1) then ((2 * v) ^^^ poly) % 2 ^ w else 2 * v % 2 ^ w)
        (v ^^^ (b.toNat * 2 ^ (w - 8)))
  let table : List (Nat × Nat × Nat × Bool × Nat × Nat × Nat) :=
    [(0, 32, 0x1EDC6F41, true, 0xFFFFFFFF, 0xFFFFFFFF, 0xE3069283), (1, 32, 0x04C11DB7, true, 0xFFFFFFFF, 0xFFFFFFFF, 0xCBF43926),
     (2, 64, 0x42F0E1EBA9EA3693, false, 0, 0, 0x6C40DF5F0B497347), (3, 16, 0x1021, false, 0xFFFF, 0, 0x29B1)]
  ∀ (s : State) (u : CvuId) (ws : List (BitVec 16 × W64)) (bs : List Byte) (p w poly : Nat) (reflected : Bool) (init fin check : Nat), cvuLive s u = true →
    (p, w, poly, reflected, init, fin, check) ∈ table → (ws.foldl cvuRegister (getCvu s u)).config.toNat % 32 = p →
    ∃ t, Host.Core.run Sys2Proof.core (bs.length + 2)
        { s with pending := .cvuStart ⟨u, ws⟩ :: (bs.map (fun b => Instr.data8 u b) ++ [.cvuFinalise u]) } = .next t ∧
      (getCvu t u).result.toNat = (bs.foldl (feed reflected w poly) init) ^^^ fin ∧
      (bs = (List.range 9).map (fun i => BitVec.ofNat 8 (0x31 + i)) → (getCvu t u).result.toNat = check)
end

