-- ==== Sys2Proof/Laws/Maps.lean ====
section
/-! SUPPORT. What the map operations do: a read after a write, and the canonical form is kept. -/

namespace Sys2Proof.Machine

/-! ### Reads after writes: they hold of every list -/

@[simp] theorem amGet_ins_same {α : Type} (d v : α) (m : List (Nat × α)) (k : Nat) : amGet d (amIns v m k) k = v := by
  induction m with
  | nil => simp [amIns, amGet]
  | cons e m ih =>
    obtain ⟨k', v'⟩ := e
    unfold amIns
    split
    · simp [amGet]
    · split
      · simp [amGet]
      · next h1 h2 => simp [amGet, h1, ih]

theorem amGet_ins_other {α : Type} (d v : α) (m : List (Nat × α)) (k j : Nat) (h : j ≠ k) :
    amGet d (amIns v m k) j = amGet d m j := by
  induction m with
  | nil => simp [amIns, amGet, h]
  | cons e m ih =>
    obtain ⟨k', v'⟩ := e
    unfold amIns
    split
    · next hq => subst hq; simp [amGet, h]
    · split
      · simp [amGet, h]
      · simp [amGet, ih]

theorem amGet_del_same {α : Type} (d : α) (m : List (Nat × α)) (k : Nat) : amGet d (amDel m k) k = d := by
  induction m with
  | nil => rfl
  | cons e m ih =>
    obtain ⟨k', v'⟩ := e
    unfold amDel
    split
    · exact ih
    · next h => simp [amGet, h, ih]

theorem amGet_del_other {α : Type} (d : α) (m : List (Nat × α)) (k j : Nat) (h : j ≠ k) :
    amGet d (amDel m k) j = amGet d m j := by
  induction m with
  | nil => rfl
  | cons e m ih =>
    obtain ⟨k', v'⟩ := e
    unfold amDel
    split
    · next hq => subst hq; simp [amGet, h, ih]
    · simp [amGet, ih]

/-- What a write leaves: the key reads the value written. -/
@[simp] theorem amGet_put_same {α : Type} [DecidableEq α] (d v : α) (m : List (Nat × α)) (k : Nat) :
    amGet d (amPut d v m k) k = v := by
  unfold amPut
  split
  · next hv => rw [amGet_del_same d m k, hv]
  · exact amGet_ins_same d v m k

/-- What a write leaves: every other key reads as before. -/
theorem amGet_put_other {α : Type} [DecidableEq α] (d v : α) (m : List (Nat × α)) (k j : Nat) (hj : j ≠ k) :
    amGet d (amPut d v m k) j = amGet d m j := by
  unfold amPut
  split
  · exact amGet_del_other d m k j hj
  · exact amGet_ins_other d v m k j hj

/-! ### The canonical form -/

theorem amRising_mono {α : Type} (m : List (Nat × α)) (lo lo' : Nat) (h : amRising lo m = true) (hl : lo' ≤ lo) :
    amRising lo' m = true := by
  cases m with
  | nil => rfl
  | cons e m =>
    simp only [amRising, Bool.and_eq_true, decide_eq_true_eq] at h ⊢
    exact ⟨by omega, h.2⟩

theorem amIns_rising {α : Type} (v : α) (m : List (Nat × α)) (lo k : Nat) (h : amRising lo m = true) (hk : lo ≤ k) :
    amRising lo (amIns v m k) = true := by
  induction m generalizing lo with
  | nil => simp [amIns, amRising, hk]
  | cons e m ih =>
    obtain ⟨k', v'⟩ := e
    simp only [amRising, Bool.and_eq_true, decide_eq_true_eq] at h
    unfold amIns
    split
    · next hq => subst hq; simp [amRising, hk, h.2]
    · split
      · next hl =>
        simp only [amRising, Bool.and_eq_true, decide_eq_true_eq]
        exact ⟨hk, by omega, h.2⟩
      · simp only [amRising, Bool.and_eq_true, decide_eq_true_eq]
        exact ⟨h.1, ih _ h.2 (by omega)⟩

theorem amDel_rising {α : Type} (m : List (Nat × α)) (lo k : Nat) (h : amRising lo m = true) :
    amRising lo (amDel m k) = true := by
  induction m generalizing lo with
  | nil => rfl
  | cons e m ih =>
    obtain ⟨k', v'⟩ := e
    simp only [amRising, Bool.and_eq_true, decide_eq_true_eq] at h
    unfold amDel
    split
    · exact amRising_mono _ _ _ (ih _ h.2) (by omega)
    · simp [amRising, h.1, ih _ h.2]

theorem amIns_all {α : Type} (p : Nat × α → Bool) (v : α) (m : List (Nat × α)) (k : Nat) (h : m.all p = true)
    (hv : p (k, v) = true) : (amIns v m k).all p = true := by
  induction m with
  | nil => simp [amIns, hv]
  | cons e m ih =>
    obtain ⟨k', v'⟩ := e
    simp only [List.all_cons, Bool.and_eq_true] at h
    unfold amIns
    split
    · simp [hv, h.2]
    · split
      · simp [hv, h.1, h.2]
      · simp [h.1, ih h.2]

theorem amDel_all {α : Type} (p : Nat × α → Bool) (m : List (Nat × α)) (k : Nat) (h : m.all p = true) :
    (amDel m k).all p = true := by
  induction m with
  | nil => simp [amDel]
  | cons e m ih =>
    obtain ⟨k', v'⟩ := e
    simp only [List.all_cons, Bool.and_eq_true] at h
    unfold amDel
    split
    · exact ih h.2
    · simp [h.1, ih h.2]

/-- A write keeps the canonical form. -/
theorem amPut_wf {α : Type} [DecidableEq α] (d v : α) (m : List (Nat × α)) (k : Nat) (h : amWf d m = true) :
    amWf d (amPut d v m k) = true := by
  simp only [amWf, Bool.and_eq_true] at h ⊢
  unfold amPut
  split
  · exact ⟨amDel_rising m 0 k h.1, amDel_all _ m k h.2⟩
  · next hv => exact ⟨amIns_rising v m 0 k h.1 (Nat.zero_le _), amIns_all _ v m k h.2 (by simp [hv])⟩

/-! ### Memory -/

/-- A byte written reads back. -/
@[simp] theorem memRead_write_same (m : Mem) (a : Nat) (b : Byte) : memRead (memWrite m a b) a = b :=
  amGet_put_same 0 b m a

/-- A byte write leaves every other byte. -/
theorem memRead_write_other (m : Mem) (a j : Nat) (b : Byte) (h : j ≠ a) : memRead (memWrite m a b) j = memRead m j :=
  amGet_put_other 0 b m a j h

/-- A byte outside a store reads as before. -/
theorem memRead_store_other (m : Mem) (a : Nat) (bs : List Byte) (j : Nat) (hj : j < a ∨ a + bs.length ≤ j) :
    memRead (memStore m a bs) j = memRead m j := by
  induction bs generalizing m a with
  | nil => rfl
  | cons b bs ih =>
    simp only [List.length_cons] at hj
    rw [memStore, ih _ _ (by omega), memRead_write_other _ _ _ _ (by omega)]

/-- What a store leaves: the bytes read back. -/
theorem memBytes_store_same (m : Mem) (a : Nat) (bs : List Byte) : memBytes (memStore m a bs) a bs.length = bs := by
  induction bs generalizing m a with
  | nil => rfl
  | cons b bs ih =>
    rw [List.length_cons, memStore, memBytes, ih, memRead_store_other _ _ _ _ (by omega), memRead_write_same]

/-- A byte write keeps memory's canonical form. -/
@[simp] theorem memWrite_wf (m : Mem) (a : Nat) (b : Byte) (h : Memory.wf m = true) : Memory.wf (memWrite m a b) = true :=
  amPut_wf 0 b m a h

/-- A store of bytes keeps memory's canonical form. -/
@[simp] theorem memStore_wf (m : Mem) (a : Nat) (bs : List Byte) (h : Memory.wf m = true) :
    Memory.wf (memStore m a bs) = true := by
  induction bs generalizing m a with
  | nil => exact h
  | cons b bs ih => exact ih _ _ (memWrite_wf m a b h)

end Sys2Proof.Machine
end

