-- ==== Sys2Proof/Laws/Memories.lean ====
section
/-! SUPPORT. The canonical form of the memories through the shared operations: what each leaves of it. -/

namespace Sys2Proof.Machine

theorem memOk_mk {pending variant objs doms change changes raised clears cores snapshot grid mesh power stk streams update gates exch eth aelif
  host stp beat par jobs pulls log sec cvus mgmt placement images opsLow out free}
    (h : memoriesOk cores stk.mem) :
    State.MemOk ⟨pending, variant, objs, doms, change, changes, raised, clears, cores, snapshot, grid, mesh, power, stk, streams, update,
      gates, exch, eth, aelif, host, stp, beat, par, jobs, pulls, log, sec, cvus, mgmt, placement, images, opsLow, out, free⟩ := h

theorem memOk_of {s : State} (h : memoriesOk s.cores s.stk.mem) : s.MemOk := h

theorem memOk_to {s : State} (h : s.MemOk) : memoriesOk s.cores s.stk.mem := h

theorem coreOk_mk {st excCause excPc cfg pc x ag loops acc stg ringWr ringRd lanes stickyA stickyV stickyC beatA beatV beatC ix
  ex32 sram poisonLines writeback wait syncBeats role heartbeatOk silentReported uncorrSeen poisonSeen waypoint reports rowGroups
  colGroups vc0Held arrivals parkedFrom startDue progressed lastArrival}
    (h : Memory.wf sram = true) :
    Core.MemOk ⟨st, excCause, excPc, cfg, pc, x, ag, loops, acc, stg, ringWr, ringRd, lanes, stickyA, stickyV, stickyC,
      beatA, beatV, beatC, ix, ex32, sram, poisonLines, writeback, wait, syncBeats, role, heartbeatOk, silentReported,
      uncorrSeen, poisonSeen, waypoint, reports, rowGroups, colGroups, vc0Held, arrivals, parkedFrom, startDue,
      progressed, lastArrival⟩ := h

theorem coreOk_to {c : Core} (h : c.MemOk) : Memory.wf c.sram = true := h

/-- A let of a state: what is known of the value is known of the name. -/
theorem memOk_cut (x : State) {P : Prop} (h : x.MemOk) (k : x.MemOk → P) : P := k h

theorem coreOk_cut (x : Core) {P : Prop} (h : x.MemOk) (k : x.MemOk → P) : P := k h

theorem pairOk_cut (x : State × Core) {P : Prop} (h : x.1.MemOk) (h' : x.2.MemOk) (k : x.1.MemOk → x.2.MemOk → P) : P := k h h'

theorem fstOk_cut {α : Type} (x : State × α) {P : Prop} (h : x.1.MemOk) (k : x.1.MemOk → P) : P := k h

theorem sndOk_cut {α : Type} (x : α × State) {P : Prop} (h : x.2.MemOk) (k : x.2.MemOk → P) : P := k h

theorem sndCoreOk_cut {α : Type} (x : α × Core) {P : Prop} (h : x.2.MemOk) (k : x.2.MemOk → P) : P := k h

theorem stacks_cut (_ : Stacks) {P : Prop} (k : P) : P := k

theorem funOk_cut {α : Type} (x : State → α → State) {P : Prop} (h : ∀ s a, s.MemOk → (x s a).MemOk)
    (k : (∀ s a, s.MemOk → (x s a).MemOk) → P) : P := k h

theorem fun1Ok_cut (x : State → State) {P : Prop} (h : ∀ s, s.MemOk → (x s).MemOk) (k : (∀ s, s.MemOk → (x s).MemOk) → P) : P := k h

theorem funPair_cut {α β : Type} (x : State → α → State × β) {P : Prop} (h : ∀ s a, s.MemOk → (x s a).1.MemOk)
    (k : (∀ s a, s.MemOk → (x s a).1.MemOk) → P) : P := k h

theorem funConst_cut {α β : Type} (x : α → State × β) {P : Prop} (h : ∀ a, (x a).1.MemOk) (k : (∀ a, (x a).1.MemOk) → P) : P := k h

theorem snd_core_eq {α : Type} {p : α × Core} {a : α} {c : Core} (e : p = (a, c)) (h : p.2.MemOk) : c.MemOk := by
  rw [e] at h; exact h

theorem fst_state_eq {α : Type} {p : State × α} {a : α} {c : State} (e : p = (c, a)) (h : p.1.MemOk) : c.MemOk := by
  rw [e] at h; exact h

theorem snd_state_eq {α : Type} {p : α × State} {a : α} {c : State} (e : p = (a, c)) (h : p.2.MemOk) : c.MemOk := by
  rw [e] at h; exact h

theorem memOk_foldl {α : Type} (g : State → α → State) (hg : ∀ s x, s.MemOk → (g s x).MemOk) (l : List α) :
    ∀ s : State, s.MemOk → (l.foldl g s).MemOk := by
  induction l with
  | nil => exact fun _ h => h
  | cons x l ih => exact fun s h => ih _ (hg s x h)

theorem memOk_foldl_fst {α β : Type} (g : State × β → α → State × β) (hg : ∀ p x, p.1.MemOk → (g p x).1.MemOk) (l : List α) :
    ∀ p : State × β, p.1.MemOk → (l.foldl g p).1.MemOk := by
  induction l with
  | nil => exact fun _ h => h
  | cons x l ih => exact fun p h => ih _ (hg p x h)

theorem coreOk_foldl {α : Type} (g : Core → α → Core) (hg : ∀ s x, s.MemOk → (g s x).MemOk) (l : List α) :
    ∀ s : Core, s.MemOk → (l.foldl g s).MemOk := by
  induction l with
  | nil => exact fun _ h => h
  | cons x l ih => exact fun s h => ih _ (hg s x h)

theorem rising_filter {α : Type} (p : Nat × α → Bool) (m : List (Nat × α)) (lo : Nat) (h : amRising lo m = true) :
    amRising lo (m.filter p) = true := by
  induction m generalizing lo with
  | nil => rfl
  | cons e m ih =>
    obtain ⟨k, v⟩ := e
    simp only [amRising, Bool.and_eq_true, decide_eq_true_eq] at h
    rw [List.filter_cons]
    split
    · simp [amRising, h.1, ih _ h.2]
    · exact amRising_mono _ _ _ (ih _ h.2) (by omega)

theorem filter_wf (p : Nat × Byte → Bool) (m : Mem) (h : Memory.wf m = true) : Memory.wf (m.filter p) = true := by
  simp only [Memory.wf, amWf, Bool.and_eq_true, List.all_eq_true] at h ⊢
  exact ⟨rising_filter p m 0 h.1, fun e he => h.2 e (List.mem_filter.1 he).1⟩

theorem setN_memOk (s : State) (key v : Nat) (h : s.MemOk) : (setN s key v).MemOk := by
  unfold setN; split <;> exact h

theorem setDom_memOk (s : State) (key : Nat) (bs : List Byte) (h : s.MemOk) : (setDom s key bs).MemOk := by
  unfold setDom; split <;> exact h

theorem coreDefault_memOk : Core.default.MemOk := rfl

theorem amGet_core_memOk (k : Nat) (m : List (Nat × Core)) (h : ∀ e ∈ m, Memory.wf e.2.sram = true) :
    (amGet Core.default m k).MemOk := by
  induction m with
  | nil => exact coreDefault_memOk
  | cons e m ih =>
    obtain ⟨k', v⟩ := e
    unfold amGet
    split
    · exact h (k', v) (by simp)
    · exact ih (fun e he => h e (by simp [he]))

theorem getCore_memOk (s : State) (c : CoreId) (h : s.MemOk) : (getCore s c).MemOk := amGet_core_memOk _ _ h.1

theorem amIns_mem {α : Type} (v : α) (m : List (Nat × α)) (k : Nat) (e : Nat × α) (h : e ∈ amIns v m k) : e = (k, v) ∨ e ∈ m := by
  induction m with
  | nil => simpa [amIns] using h
  | cons x m ih =>
    obtain ⟨k', v'⟩ := x
    unfold amIns at h
    split at h
    · rcases List.mem_cons.1 h with h | h
      · exact .inl h
      · exact .inr (by simp [h])
    · split at h
      · rcases List.mem_cons.1 h with h | h
        · exact .inl h
        · exact .inr h
      · rcases List.mem_cons.1 h with h | h
        · exact .inr (by simp [h])
        · rcases ih h with h | h
          · exact .inl h
          · exact .inr (by simp [h])

theorem setCore_memOk (s : State) (c : CoreId) (v : Core) (h : s.MemOk) (hv : v.MemOk) : (setCore s c v).MemOk := by
  refine ⟨fun e he => ?_, h.2⟩
  rcases amIns_mem _ _ _ _ he with he | he
  · rw [he]; exact hv
  · exact h.1 e he

theorem mapCores_memOk (s : State) (f : CoreId → Core → Core) (h : s.MemOk) (hf : ∀ i c, c.MemOk → (f i c).MemOk) :
    (mapCores s f).MemOk := by
  refine ⟨fun e he => ?_, h.2⟩
  obtain ⟨x, hx, rfl⟩ := List.mem_map.1 he
  exact hf _ _ (h.1 x hx)

theorem sramWrite_memOk (c : Core) (a : Nat) (bs : List Byte) (p : Bool) (h : c.MemOk) : (sramWrite c a bs p).MemOk :=
  memStore_wf c.sram a bs h

theorem outOk_next (s : State) (h : s.MemOk) : OutOk (.next s) := fun _ e => Host.Outcome.next.inj e ▸ h

theorem tDone (s : State) (c : Core) (n : Nat) (h : s.MemOk) (hc : c.MemOk) : TOut.MemOk (.done s c n) := ⟨h, hc⟩
theorem tLate (s : State) (c : Core) (n : Nat) (r : List Nat) (h : s.MemOk) (hc : c.MemOk) : TOut.MemOk (.late s c n r) := ⟨h, hc⟩
theorem tHalt (s : State) (c : Core) (h : s.MemOk) (hc : c.MemOk) : TOut.MemOk (.halt s c) := ⟨h, hc⟩
theorem tWait (s : State) (c : Core) (w : Wait) (h : s.MemOk) (hc : c.MemOk) : TOut.MemOk (.wait s c w) := ⟨h, hc⟩

end Sys2Proof.Machine
end

