-- ==== Sys2Proof/Laws/KeepsOps.lean ====
section
/-! SUPPORT. The operations of Machine/Ops.lean keep every memory in canonical form: one lemma for each. -/

namespace Sys2Proof.Machine

theorem addN_memOk : ∀ x0 x1 x2 x3, State.MemOk x0 → State.MemOk (addN x0 x1 x2 x3) := by
  intro x0 x1 x2 x3 h0
  unfold addN
  repeat' first
    | with_reducible assumption
    | with_reducible apply setN_memOk

theorem count64_memOk : ∀ x0 x1, State.MemOk x0 → State.MemOk (count64 x0 x1) := by
  intro x0 x1 h0
  unfold count64
  repeat' first
    | with_reducible assumption
    | with_reducible apply addN_memOk

theorem emit_memOk : ∀ x0 x1, State.MemOk x0 → State.MemOk (emit x0 x1) := by
  intro x0 x1 h0
  unfold emit
  repeat' first
    | with_reducible assumption
    | (with_reducible refine memOk_mk ?_; with_reducible refine memOk_to ?_)

theorem raise_memOk : ∀ x0 x1 x2, State.MemOk x0 → State.MemOk (raise x0 x1 x2) := by
  intro x0 x1 x2 h0
  unfold raise
  repeat' first
    | with_reducible assumption
    | (with_reducible refine memOk_mk ?_; with_reducible refine memOk_to ?_)

theorem raiseNow_memOk : ∀ x0 x1 x2, State.MemOk x0 → State.MemOk (raiseNow x0 x1 x2) := by
  intro x0 x1 x2 h0
  unfold raiseNow
  repeat' first
    | with_reducible assumption
    | with_reducible apply addN_memOk
    | with_reducible apply setN_memOk

theorem logEventAs_memOk : ∀ x0 x1 x2 x3, State.MemOk x0 → State.MemOk (logEventAs x0 x1 x2 x3) := by
  intro x0 x1 x2 x3 h0
  unfold logEventAs
  repeat' first
    | with_reducible assumption
    | (extract_lets +onlyGivenNames x; refine memOk_cut x ?_ ?_ <;> [(dsimp only [x]; clear x); (clear_value x; intro _)])
    | (extract_lets +onlyGivenNames x; clear_value x)
    | with_reducible apply setN_memOk
    | with_reducible apply setDom_memOk
    | with_reducible apply emit_memOk
    | split
    | (with_reducible refine memOk_mk ?_; with_reducible refine memOk_to ?_)

theorem logEvent_memOk : ∀ x0 x1 x2, State.MemOk x0 → State.MemOk (logEvent x0 x1 x2) := by
  intro x0 x1 x2 h0
  unfold logEvent
  repeat' first
    | with_reducible assumption
    | with_reducible apply logEventAs_memOk

theorem journal_memOk : ∀ x0 x1 x2, State.MemOk x0 → State.MemOk (journal x0 x1 x2) := by
  intro x0 x1 x2 h0
  unfold journal
  repeat' first
    | with_reducible assumption
    | (extract_lets +onlyGivenNames x; refine memOk_cut x ?_ ?_ <;> [(dsimp only [x]; clear x); (clear_value x; intro _)])
    | (extract_lets +onlyGivenNames x; clear_value x)
    | with_reducible apply setN_memOk
    | with_reducible apply addN_memOk
    | (with_reducible refine memOk_mk ?_; with_reducible refine memOk_to ?_)

theorem journalOpen_memOk : ∀ x0 x1, State.MemOk x0 → State.MemOk (journalOpen x0 x1) := by
  intro x0 x1 h0
  unfold journalOpen
  repeat' first
    | with_reducible assumption
    | with_reducible apply journal_memOk
    | (with_reducible refine memOk_mk ?_; with_reducible refine memOk_to ?_)

theorem drawFree_memOk : ∀ x0, State.MemOk x0 → State.MemOk ((drawFree x0).2) := by
  intro x0 h0
  unfold drawFree
  repeat' first
    | with_reducible assumption
    | (with_reducible refine memOk_mk ?_; with_reducible refine memOk_to ?_)

end Sys2Proof.Machine
end

