-- ==== Sys2Proof/Laws/KeepsFlags.lean ====
section
/-! SUPPORT. The operations of Machine/Flags.lean keep every memory in canonical form: one lemma for each. -/

namespace Sys2Proof.Machine

theorem flagArray_memOk : ∀ x0 x1, Core.MemOk x0 → Core.MemOk (flagArray x0 x1) := by
  intro x0 x1 h0
  unfold flagArray
  repeat' first
    | with_reducible assumption
    | (with_reducible refine coreOk_mk ?_; with_reducible refine coreOk_to ?_)

theorem flagVector_memOk : ∀ x0 x1, Core.MemOk x0 → Core.MemOk (flagVector x0 x1) := by
  intro x0 x1 h0
  unfold flagVector
  repeat' first
    | with_reducible assumption
    | (with_reducible refine coreOk_mk ?_; with_reducible refine coreOk_to ?_)

theorem flagCompaction_memOk : ∀ x0 x1, Core.MemOk x0 → Core.MemOk (flagCompaction x0 x1) := by
  intro x0 x1 h0
  unfold flagCompaction
  repeat' first
    | with_reducible assumption
    | (with_reducible refine coreOk_mk ?_; with_reducible refine coreOk_to ?_)

theorem flagUpdate_memOk : ∀ x0 x1 x2, State.MemOk x0 → State.MemOk (flagUpdate x0 x1 x2) := by
  intro x0 x1 x2 h0
  unfold flagUpdate
  repeat' first
    | with_reducible assumption
    | (extract_lets +onlyGivenNames x; clear_value x)
    | (with_reducible refine memOk_mk ?_; with_reducible refine memOk_to ?_)

theorem countBits_memOk (s : State) (base ev n : Nat) (h : s.MemOk) : (countBits s base ev n).MemOk := by
  induction n generalizing s with
  | zero => exact h
  | succ n ih =>
    unfold countBits
    extract_lets x
    have hx : x.MemOk := ih _ h
    split
    · exact addN_memOk _ _ _ _ hx
    · exact hx

theorem gatherWord_memOk : ∀ x0 x1 x2, State.MemOk x0 → State.MemOk (gatherWord x0 x1 x2) := by
  intro x0 x1 x2 h0
  unfold gatherWord
  repeat' first
    | with_reducible assumption
    | (extract_lets +onlyGivenNames x; refine memOk_cut x ?_ ?_ <;> [(dsimp only [x]; clear x); (clear_value x; intro _)])
    | with_reducible apply countBits_memOk
    | with_reducible apply setN_memOk

theorem gatherNumeric_memOk : ∀ x0 x1, State.MemOk x0 → State.MemOk (gatherNumeric x0 x1) := by
  intro x0 x1 h0
  unfold gatherNumeric
  repeat' first
    | with_reducible assumption
    | with_reducible intro _
    | (extract_lets +onlyGivenNames x; refine memOk_cut x ?_ ?_ <;> [(dsimp only [x]; clear x); (clear_value x; intro _)])
    | (extract_lets +onlyGivenNames x; clear_value x)
    | with_reducible apply gatherWord_memOk
    | with_reducible apply mapCores_memOk
    | with_reducible apply setN_memOk
    | split
    | (with_reducible refine memOk_mk ?_; with_reducible refine memOk_to ?_)
    | (with_reducible refine coreOk_mk ?_; with_reducible refine coreOk_to ?_)

theorem gatherFlag_memOk : ∀ x0 x1 x2, State.MemOk x0 → State.MemOk (gatherFlag x0 x1 x2) := by
  intro x0 x1 x2 h0
  unfold gatherFlag
  repeat' first
    | with_reducible assumption
    | (extract_lets +onlyGivenNames x; refine memOk_cut x ?_ ?_ <;> [(dsimp only [x]; clear x); (clear_value x; intro _)])
    | (extract_lets +onlyGivenNames x; clear_value x)
    | with_reducible apply countBits_memOk
    | with_reducible apply setN_memOk

theorem gatherFlags_memOk : ∀ x0, State.MemOk x0 → State.MemOk (gatherFlags x0) := by
  intro x0 h0
  unfold gatherFlags
  repeat' first
    | with_reducible assumption
    | (extract_lets +onlyGivenNames x; refine memOk_cut x ?_ ?_ <;> [(dsimp only [x]; clear x); (clear_value x; intro _)])
    | (extract_lets +onlyGivenNames x; clear_value x)
    | with_reducible apply gatherFlag_memOk
    | (with_reducible apply memOk_foldl; intro _ _ _)
    | (with_reducible refine memOk_mk ?_; with_reducible refine memOk_to ?_)

end Sys2Proof.Machine
end

