-- ==== Sys2Proof/Laws/KeepsOperands.lean ====
section
/-! SUPPORT. The operations of Machine/Operands.lean keep every memory in canonical form: one lemma for each. -/

namespace Sys2Proof.Machine

theorem xset_memOk : ∀ x0 x1 x2, Core.MemOk x0 → Core.MemOk (xset x0 x1 x2) := by
  intro x0 x1 x2 h0
  unfold xset
  repeat' first
    | with_reducible assumption
    | split
    | (with_reducible refine coreOk_mk ?_; with_reducible refine coreOk_to ?_)

theorem agPut_memOk : ∀ x0 x1 x2, Core.MemOk x0 → Core.MemOk (agPut x0 x1 x2) := by
  intro x0 x1 x2 h0
  unfold agPut
  repeat' first
    | with_reducible assumption
    | (with_reducible refine coreOk_mk ?_; with_reducible refine coreOk_to ?_)

theorem agTake_memOk : ∀ x0 x1 x2, Core.MemOk x0 → Core.MemOk ((agTake x0 x1 x2).2) := by
  intro x0 x1 x2 h0
  unfold agTake
  repeat' first
    | with_reducible assumption
    | (extract_lets +onlyGivenNames x; clear_value x)
    | with_reducible apply agPut_memOk

theorem consume_memOk : ∀ x0 x1, Core.MemOk x0 → Core.MemOk (consume x0 x1) := by
  intro x0 x1 h0
  unfold consume
  repeat' first
    | with_reducible assumption
    | split
    | (with_reducible refine coreOk_mk ?_; with_reducible refine coreOk_to ?_)

theorem cfgWrite_memOk : ∀ x0 x1 x2, Core.MemOk x0 → Core.MemOk (cfgWrite x0 x1 x2) := by
  intro x0 x1 x2 h0
  unfold cfgWrite
  repeat' first
    | with_reducible assumption
    | with_reducible intro _
    | split
    | (with_reducible refine coreOk_mk ?_; with_reducible refine coreOk_to ?_)
    | exact memStore_wf _ _ _ (by assumption)

theorem ringAdvance_memOk : ∀ x0 x1 x2, Core.MemOk x0 → Core.MemOk (ringAdvance x0 x1 x2) := by
  intro x0 x1 x2 h0
  unfold ringAdvance
  repeat' first
    | with_reducible assumption
    | with_reducible intro _
    | split
    | (with_reducible refine coreOk_mk ?_; with_reducible refine coreOk_to ?_)

theorem stgFill_memOk : ∀ x0 x1 x2 x3 x4, Core.MemOk x0 → Core.MemOk (stgFill x0 x1 x2 x3 x4) := by
  intro x0 x1 x2 x3 x4 h0
  unfold stgFill
  repeat' first
    | with_reducible assumption
    | (with_reducible refine coreOk_mk ?_; with_reducible refine coreOk_to ?_)

theorem saveContext_memOk : ∀ x0, Core.MemOk x0 → Core.MemOk (saveContext x0) := by
  intro x0 h0
  unfold saveContext
  repeat' first
    | with_reducible assumption
    | with_reducible intro _
    | (extract_lets +onlyGivenNames x; with_reducible refine coreOk_cut x ?_ ?_ <;> [(dsimp only [x]; clear x); (clear_value x; intro _)])
    | (extract_lets +onlyGivenNames x; clear_value x)
    | with_reducible apply hf
    | with_reducible apply sramWrite_memOk
    | (with_reducible apply coreOk_foldl; intro _ _ _)

theorem restoreContext_memOk : ∀ x0, Core.MemOk x0 → Core.MemOk (restoreContext x0) := by
  intro x0 h0
  unfold restoreContext
  repeat' first
    | with_reducible assumption
    | with_reducible intro _
    | (extract_lets +onlyGivenNames x; clear_value x)
    | with_reducible apply hf
    | split
    | with_reducible refine fst_state_eq (by with_reducible assumption) ?_
    | with_reducible refine snd_state_eq (by with_reducible assumption) ?_
    | with_reducible refine snd_core_eq (by with_reducible assumption) ?_
    | (with_reducible refine coreOk_mk ?_; with_reducible refine coreOk_to ?_)

end Sys2Proof.Machine
end

