-- ==== Sys2Proof/Laws/KeepsTile.lean ====
section
/-! SUPPORT. The operations of Machine/Tile.lean keep every memory in canonical form: one lemma for each. -/

namespace Sys2Proof.Machine

theorem sramError_memOk1 (sc : State × Core) (e : SramErr) (h : sc.1.MemOk) : (sramError sc e).1.MemOk := by
  unfold sramError
  dsimp only
  split
  · exact h
  · split
    · exact count64_memOk _ _ (raiseNow_memOk _ _ _ h)
    · split
      · exact raiseNow_memOk _ _ _ h
      · exact count64_memOk _ _ (raiseNow_memOk _ _ _ h)

theorem sramError_memOk2 (sc : State × Core) (e : SramErr) (h : sc.2.MemOk) : (sramError sc e).2.MemOk := by
  unfold sramError
  dsimp only
  split
  · exact h
  · split <;> exact h

theorem sramErrors_memOk (es : List SramErr) (sc : State × Core) (h : sc.1.MemOk) (hc : sc.2.MemOk) :
    (es.foldl sramError sc).1.MemOk ∧ (es.foldl sramError sc).2.MemOk := by
  induction es generalizing sc with
  | nil => exact ⟨h, hc⟩
  | cons e es ih => exact ih _ (sramError_memOk1 sc e h) (sramError_memOk2 sc e hc)

theorem sramErrors_memOk1 (es : List SramErr) (sc : State × Core) (h : sc.1.MemOk) (hc : sc.2.MemOk) :
    (es.foldl sramError sc).1.MemOk := (sramErrors_memOk es sc h hc).1

theorem sramErrors_memOk2 (es : List SramErr) (sc : State × Core) (h : sc.1.MemOk) (hc : sc.2.MemOk) :
    (es.foldl sramError sc).2.MemOk := (sramErrors_memOk es sc h hc).2

theorem takeException_memOk (s : State) (id : CoreId) (c : Core) (code pc chunkPc : Nat) (report : List Nat) (h : s.MemOk) (hc : c.MemOk) :
    (takeException s id c code pc chunkPc report).MemOk := by
  unfold takeException
  extract_lets c' s1 s2 s3
  have hc' : c'.MemOk := saveContext_memOk _ hc
  have h1 : s1.MemOk := setCore_memOk _ _ _ h hc'
  have h2 : s2.MemOk := addN_memOk _ _ _ _ h1
  have h3 : s3.MemOk := by
    dsimp only [s3]
    split
    · exact setN_memOk _ _ _ (setN_memOk _ _ _ (setN_memOk _ _ _ (setN_memOk _ _ _ (setN_memOk _ _ _ (setN_memOk _ _ _ h2)))))
    · exact h2
  split
  · exact emit_memOk _ _ h3
  · exact emit_memOk _ _ (raiseNow_memOk _ _ _ h3)

theorem tileIssue_memOk (i : Issue) (word : Nat) (mine : Wait → Bool) (body : Core → State → TOut) (s : State)
    (hb : ∀ c t, c.MemOk → State.MemOk t → (body c t).MemOk) (h : s.MemOk) : (tileIssue i word mine body s).MemOk := by
  unfold tileIssue
  extract_lets c0 c1
  have h0 : c0.MemOk := getCore_memOk s i.core h
  split
  · have h1 : c1.MemOk := h0
    have he := sramErrors_memOk i.errs (s, c1) h h1
    generalize i.errs.foldl sramError (s, c1) = sc at he
    obtain ⟨s1, c2⟩ := sc
    dsimp only at he ⊢
    split
    · exact takeException_memOk _ _ _ _ _ _ _ he.1 he.2
    · split
      · split
        · exact takeException_memOk _ _ _ _ _ _ _ he.1 he.2
        · exact h
      have hB := hb c2 s1 he.2 he.1
      split
      · exact takeException_memOk _ _ _ _ _ _ _ he.1 he.2
      · exact h
      · next e => rw [e] at hB; exact setCore_memOk _ _ _ hB.1 hB.2
      · next e => rw [e] at hB; exact setCore_memOk _ _ _ hB.1 hB.2
      · next e => rw [e] at hB; exact setCore_memOk _ _ _ hB.1 hB.2
      · next e => rw [e] at hB; exact takeException_memOk _ _ _ _ _ _ _ hB.1 hB.2
  · exact h

theorem TOut_next_memOk : ∀ x0 x1, State.MemOk x0 → Core.MemOk x1 → TOut.MemOk (TOut.next x0 x1) := by
  intro x0 x1 h0 h1
  unfold TOut.next
  repeat' first
    | with_reducible assumption
    | with_reducible apply tDone

theorem unlessExc_memOk : ∀ x0 x1, TOut.MemOk x1 → TOut.MemOk (unlessExc x0 x1) := by
  intro x0 x1 h0
  unfold unlessExc
  repeat' first
    | with_reducible assumption
    | exact trivial
    | split

end Sys2Proof.Machine
end

