-- ==== Sys2Proof/Laws/KeepsInject.lean ====
section
/-! SUPPORT. The operations of Machine/Inject.lean keep every memory in canonical form: one lemma for each. -/

namespace Sys2Proof.Machine

theorem setLane_memOk : ∀ x0 x1 x2, State.MemOk x0 → State.MemOk (setLane x0 x1 x2) := by
  intro x0 x1 x2 h0
  unfold setLane
  repeat' first
    | with_reducible assumption
    | with_reducible intro _
    | with_reducible apply State_stk_memOk
    | split
    | (with_reducible refine memOk_mk ?_; with_reducible refine memOk_to ?_)

theorem missBroadcast_memOk : ∀ x0 x1 x2 x3, State.MemOk x0 → State.MemOk (missBroadcast x0 x1 x2 x3) := by
  intro x0 x1 x2 x3 h0
  unfold missBroadcast
  repeat' first
    | with_reducible assumption
    | with_reducible intro _
    | (extract_lets +onlyGivenNames x; clear_value x)
    | with_reducible apply hf
    | (with_reducible apply memOk_foldl; intro _ _ _)
    | (with_reducible apply memOk_foldl_fst; intro _ _ _)
    | (with_reducible apply coreOk_foldl; intro _ _ _)
    | split
    | with_reducible refine fst_state_eq (by with_reducible assumption) ?_
    | with_reducible refine snd_state_eq (by with_reducible assumption) ?_
    | with_reducible refine snd_core_eq (by with_reducible assumption) ?_
    | (with_reducible refine memOk_mk ?_; with_reducible refine memOk_to ?_)

theorem logBroadcast_memOk : ∀ x0 x1, State.MemOk x0 → State.MemOk (logBroadcast x0 x1) := by
  intro x0 x1 h0
  unfold logBroadcast
  repeat' first
    | with_reducible assumption
    | with_reducible intro _
    | with_reducible apply missBroadcast_memOk
    | split
    | with_reducible refine fst_state_eq (by with_reducible assumption) ?_
    | with_reducible refine snd_state_eq (by with_reducible assumption) ?_
    | with_reducible refine snd_core_eq (by with_reducible assumption) ?_
    | (with_reducible refine memOk_mk ?_; with_reducible refine memOk_to ?_)

theorem headerLost_memOk : ∀ x0 x1 x2, State.MemOk x0 → State.MemOk (headerLost x0 x1 x2) := by
  intro x0 x1 x2 h0
  unfold headerLost
  repeat' first
    | with_reducible assumption
    | with_reducible intro _
    | (extract_lets +onlyGivenNames x; with_reducible refine memOk_cut x ?_ ?_ <;> [(dsimp only [x]; clear x); (clear_value x; intro _)])
    | (extract_lets +onlyGivenNames x; clear_value x)
    | with_reducible apply hf
    | with_reducible apply raiseNow_memOk
    | with_reducible apply setN_memOk
    | split

theorem enterLane_memOk : ∀ x0 x1 x2 x3, State.MemOk x0 → State.MemOk (enterLane x0 x1 x2 x3) := by
  intro x0 x1 x2 x3 h0
  unfold enterLane
  repeat' first
    | with_reducible assumption
    | with_reducible intro _
    | (extract_lets +onlyGivenNames x; with_reducible refine memOk_cut x ?_ ?_ <;> [(dsimp only [x]; clear x); (clear_value x; intro _)])
    | (extract_lets +onlyGivenNames x; clear_value x)
    | with_reducible apply hf
    | with_reducible apply setLane_memOk
    | with_reducible apply headerLost_memOk
    | with_reducible apply missBroadcast_memOk
    | split

theorem setWaiting_memOk : ∀ x0 x1 x2, State.MemOk x0 → State.MemOk (setWaiting x0 x1 x2) := by
  intro x0 x1 x2 h0
  unfold setWaiting
  repeat' first
    | with_reducible assumption
    | with_reducible intro _
    | split
    | with_reducible refine fst_state_eq (by with_reducible assumption) ?_
    | with_reducible refine snd_state_eq (by with_reducible assumption) ?_
    | with_reducible refine snd_core_eq (by with_reducible assumption) ?_
    | (with_reducible refine memOk_mk ?_; with_reducible refine memOk_to ?_)

theorem enterPort_memOk : ∀ x0 x1 x2 x3, State.MemOk x0 → State.MemOk (enterPort x0 x1 x2 x3) := by
  intro x0 x1 x2 x3 h0
  unfold enterPort
  repeat' first
    | with_reducible assumption
    | with_reducible intro _
    | with_reducible apply enterLane_memOk

theorem fillLocal_memOk : ∀ x0 x1 x2 x3, State.MemOk x0 → State.MemOk (fillLocal x0 x1 x2 x3) := by
  intro x0 x1 x2 x3 h0
  induction x3 generalizing x0 with
  | zero =>
    unfold fillLocal
    repeat' first
      | with_reducible assumption
  | succ n ih =>
    unfold fillLocal
    repeat' first
      | with_reducible assumption
      | with_reducible intro _
      | with_reducible apply ih
      | with_reducible apply enterPort_memOk
      | with_reducible apply setWaiting_memOk
      | split

theorem injectAt_memOk : ∀ x0 x1 x2 x3, State.MemOk x0 → State.MemOk (injectAt x0 x1 x2 x3) := by
  intro x0 x1 x2 x3 h0
  unfold injectAt
  repeat' first
    | with_reducible assumption
    | with_reducible intro _
    | (extract_lets +onlyGivenNames x; clear_value x)
    | with_reducible apply hf
    | with_reducible apply setWaiting_memOk
    | with_reducible apply logBroadcast_memOk
    | split

theorem inject_memOk : ∀ x0 x1 x2, State.MemOk x0 → State.MemOk (inject x0 x1 x2) := by
  intro x0 x1 x2 h0
  unfold inject
  repeat' first
    | with_reducible assumption
    | with_reducible intro _
    | with_reducible apply fillLocal_memOk
    | with_reducible apply injectAt_memOk

end Sys2Proof.Machine
end

