-- ==== Sys2Proof/Laws/KeepsTileControl.lean ====
section
/-! SUPPORT. The operations of Machine/TileControl.lean keep every memory in canonical form: one lemma for each. -/

namespace Sys2Proof.Machine

theorem execNop_memOk : ∀ x0 x1, State.MemOk x1 → OutOk (execNop x0 x1) := by
  intro x0 x1 h0
  unfold execNop
  repeat' first
    | with_reducible assumption
    | with_reducible intro _
    | with_reducible apply tileIssue_memOk
    | with_reducible apply TOut_next_memOk
    | with_reducible apply outOk_next

theorem execHalt_memOk : ∀ x0 x1, State.MemOk x1 → OutOk (execHalt x0 x1) := by
  intro x0 x1 h0
  unfold execHalt
  repeat' first
    | with_reducible assumption
    | with_reducible intro _
    | with_reducible apply tileIssue_memOk
    | with_reducible apply outOk_next
    | with_reducible apply tDone
    | with_reducible apply tWait
    | with_reducible apply tHalt
    | with_reducible apply tLate
    | exact trivial
    | split

theorem execLoop_memOk : ∀ x0 x1 x2 x3, State.MemOk x3 → OutOk (execLoop x0 x1 x2 x3) := by
  intro x0 x1 x2 x3 h0
  unfold execLoop
  repeat' first
    | with_reducible assumption
    | with_reducible intro _
    | (extract_lets +onlyGivenNames x; clear_value x)
    | with_reducible apply hf
    | with_reducible apply tileIssue_memOk
    | with_reducible apply tDone
    | with_reducible apply TOut_next_memOk
    | with_reducible apply outOk_next
    | split
    | (with_reducible refine coreOk_mk ?_; with_reducible refine coreOk_to ?_)

theorem execLset_memOk : ∀ x0 x1 x2 x3 x4 x5, State.MemOk x5 → OutOk (execLset x0 x1 x2 x3 x4 x5) := by
  intro x0 x1 x2 x3 x4 x5 h0
  unfold execLset
  repeat' first
    | with_reducible assumption
    | with_reducible intro _
    | with_reducible apply tileIssue_memOk
    | with_reducible apply TOut_next_memOk
    | with_reducible apply outOk_next
    | split
    | (with_reducible refine coreOk_mk ?_; with_reducible refine coreOk_to ?_)

theorem execBr_memOk : ∀ x0 x1 x2 x3 x4 x5, State.MemOk x5 → OutOk (execBr x0 x1 x2 x3 x4 x5) := by
  intro x0 x1 x2 x3 x4 x5 h0
  unfold execBr
  repeat' first
    | with_reducible assumption
    | with_reducible intro _
    | with_reducible apply tileIssue_memOk
    | with_reducible apply tDone
    | with_reducible apply TOut_next_memOk
    | with_reducible apply outOk_next
    | exact trivial
    | split

theorem execWaitb_memOk : ∀ x0 x1 x2 x3 x4, State.MemOk x4 → OutOk (execWaitb x0 x1 x2 x3 x4) := by
  intro x0 x1 x2 x3 x4 h0
  unfold execWaitb
  repeat' first
    | with_reducible assumption
    | with_reducible intro _
    | (extract_lets +onlyGivenNames x; clear_value x)
    | with_reducible apply hf
    | with_reducible apply tileIssue_memOk
    | with_reducible apply TOut_next_memOk
    | with_reducible apply count64_memOk
    | with_reducible apply tWait
    | with_reducible apply outOk_next
    | exact trivial
    | split

theorem execWp_memOk : ∀ x0 x1 x2 x3, State.MemOk x3 → OutOk (execWp x0 x1 x2 x3) := by
  intro x0 x1 x2 x3 h0
  unfold execWp
  repeat' first
    | with_reducible assumption
    | with_reducible intro _
    | (extract_lets +onlyGivenNames x; with_reducible refine coreOk_cut x ?_ ?_ <;> [(dsimp only [x]; clear x); (clear_value x; intro _)])
    | (extract_lets +onlyGivenNames x; clear_value x)
    | with_reducible apply hf
    | with_reducible apply tileIssue_memOk
    | with_reducible apply TOut_next_memOk
    | with_reducible apply outOk_next
    | exact trivial
    | split
    | with_reducible refine fst_state_eq (by with_reducible assumption) ?_
    | with_reducible refine snd_state_eq (by with_reducible assumption) ?_
    | with_reducible refine snd_core_eq (by with_reducible assumption) ?_
    | (with_reducible refine coreOk_mk ?_; with_reducible refine coreOk_to ?_)

theorem judgeBarrier_memOk1 : ∀ x0 x1 x2 x3, State.MemOk x0 → Core.MemOk x2 → State.MemOk ((judgeBarrier x0 x1 x2 x3).1) := by
  intro x0 x1 x2 x3 h0 h1
  unfold judgeBarrier
  repeat' first
    | with_reducible assumption
    | with_reducible intro _
    | (extract_lets +onlyGivenNames x; clear_value x)
    | with_reducible apply hf
    | with_reducible apply logBroadcast_memOk
    | with_reducible apply inject_memOk
    | with_reducible apply sramWrite_memOk
    | (with_reducible apply memOk_foldl; intro _ _ _)
    | split

theorem judgeBarrier_memOk2 : ∀ x0 x1 x2 x3, State.MemOk x0 → Core.MemOk x2 → Core.MemOk ((judgeBarrier x0 x1 x2 x3).2) := by
  intro x0 x1 x2 x3 h0 h1
  unfold judgeBarrier
  repeat' first
    | with_reducible assumption
    | with_reducible intro _
    | (extract_lets +onlyGivenNames x; clear_value x)
    | with_reducible apply hf
    | with_reducible apply logBroadcast_memOk
    | with_reducible apply inject_memOk
    | with_reducible apply sramWrite_memOk
    | split

theorem execSyncInit_memOk : ∀ x0 x1 x2 x3 x4 x5, State.MemOk x5 → OutOk (execSyncInit x0 x1 x2 x3 x4 x5) := by
  intro x0 x1 x2 x3 x4 x5 h0
  unfold execSyncInit
  repeat' first
    | with_reducible assumption
    | with_reducible intro _
    | (extract_lets +onlyGivenNames x; with_reducible refine pairOk_cut x ?_ ?_ ?_ <;> [(dsimp only [x]; clear x); (dsimp only [x]; clear x); (clear_value x; intro _ _)])
    | (extract_lets +onlyGivenNames x; clear_value x)
    | with_reducible apply hf
    | with_reducible apply tileIssue_memOk
    | with_reducible apply unlessExc_memOk
    | with_reducible apply judgeBarrier_memOk1
    | with_reducible apply judgeBarrier_memOk2
    | with_reducible apply sramWrite_memOk
    | with_reducible apply TOut_next_memOk
    | with_reducible apply outOk_next

theorem execSyncWait_memOk : ∀ x0 x1 x2 x3 x4, State.MemOk x4 → OutOk (execSyncWait x0 x1 x2 x3 x4) := by
  intro x0 x1 x2 x3 x4 h0
  unfold execSyncWait
  repeat' first
    | with_reducible assumption
    | with_reducible intro _
    | (extract_lets +onlyGivenNames x; with_reducible refine coreOk_cut x ?_ ?_ <;> [(dsimp only [x]; clear x); (clear_value x; intro _)])
    | (extract_lets +onlyGivenNames x; clear_value x)
    | with_reducible apply hf
    | with_reducible apply tileIssue_memOk
    | with_reducible apply TOut_next_memOk
    | with_reducible apply sramWrite_memOk
    | with_reducible apply unlessExc_memOk
    | with_reducible apply tWait
    | with_reducible apply inject_memOk
    | with_reducible apply outOk_next
    | exact trivial
    | split
    | with_reducible refine fst_state_eq (by with_reducible assumption) ?_
    | with_reducible refine snd_state_eq (by with_reducible assumption) ?_
    | with_reducible refine snd_core_eq (by with_reducible assumption) ?_
    | (with_reducible refine coreOk_mk ?_; with_reducible refine coreOk_to ?_)

theorem execXli_memOk : ∀ x0 x1 x2 x3, State.MemOk x3 → OutOk (execXli x0 x1 x2 x3) := by
  intro x0 x1 x2 x3 h0
  unfold execXli
  repeat' first
    | with_reducible assumption
    | with_reducible intro _
    | with_reducible apply tileIssue_memOk
    | with_reducible apply TOut_next_memOk
    | with_reducible apply xset_memOk
    | with_reducible apply outOk_next

theorem execXop_memOk : ∀ x0 x1 x2 x3 x4 x5 x6 x7, State.MemOk x7 → OutOk (execXop x0 x1 x2 x3 x4 x5 x6 x7) := by
  intro x0 x1 x2 x3 x4 x5 x6 x7 h0
  unfold execXop
  repeat' first
    | with_reducible assumption
    | with_reducible intro _
    | (extract_lets +onlyGivenNames x; with_reducible refine sndOk_cut x ?_ ?_ <;> [(dsimp only [x]; clear x); (clear_value x; intro _)])
    | (extract_lets +onlyGivenNames x; clear_value x)
    | with_reducible apply hf
    | with_reducible apply tileIssue_memOk
    | with_reducible apply TOut_next_memOk
    | with_reducible apply xset_memOk
    | with_reducible apply drawFree_memOk
    | with_reducible apply outOk_next
    | exact trivial
    | split

theorem execAgset_memOk : ∀ x0 x1 x2 x3 x4 x5 x6, State.MemOk x6 → OutOk (execAgset x0 x1 x2 x3 x4 x5 x6) := by
  intro x0 x1 x2 x3 x4 x5 x6 h0
  unfold execAgset
  repeat' first
    | with_reducible assumption
    | with_reducible intro _
    | with_reducible apply tileIssue_memOk
    | with_reducible apply TOut_next_memOk
    | with_reducible apply agPut_memOk
    | with_reducible apply outOk_next
    | exact trivial
    | split

theorem execMcjoin_memOk : ∀ x0 x1 x2 x3 x4, State.MemOk x4 → OutOk (execMcjoin x0 x1 x2 x3 x4) := by
  intro x0 x1 x2 x3 x4 h0
  unfold execMcjoin
  repeat' first
    | with_reducible assumption
    | with_reducible intro _
    | (extract_lets +onlyGivenNames x; clear_value x)
    | with_reducible apply hf
    | with_reducible apply tileIssue_memOk
    | with_reducible apply TOut_next_memOk
    | with_reducible apply outOk_next
    | split
    | (with_reducible refine coreOk_mk ?_; with_reducible refine coreOk_to ?_)

theorem execFlg_memOk : ∀ x0 x1 x2 x3 x4, State.MemOk x4 → OutOk (execFlg x0 x1 x2 x3 x4) := by
  intro x0 x1 x2 x3 x4 h0
  unfold execFlg
  repeat' first
    | with_reducible assumption
    | with_reducible intro _
    | (extract_lets +onlyGivenNames x; with_reducible refine coreOk_cut x ?_ ?_ <;> [(dsimp only [x]; clear x); (clear_value x; intro _)])
    | (extract_lets +onlyGivenNames x; clear_value x)
    | with_reducible apply hf
    | with_reducible apply tileIssue_memOk
    | with_reducible apply TOut_next_memOk
    | with_reducible apply xset_memOk
    | with_reducible apply outOk_next
    | split
    | (with_reducible refine coreOk_mk ?_; with_reducible refine coreOk_to ?_)

end Sys2Proof.Machine
end

