-- ==== Sys2Proof/Laws/KeepsTileMove.lean ====
section
/-! SUPPORT. The operations of Machine/TileMove.lean keep every memory in canonical form: one lemma for each. -/

namespace Sys2Proof.Machine

theorem execLda_memOk : ∀ x0 x1 x2 x3 x4 x5 x6 x7 x8 x9, State.MemOk x9 → OutOk (execLda x0 x1 x2 x3 x4 x5 x6 x7 x8 x9) := by
  intro x0 x1 x2 x3 x4 x5 x6 x7 x8 x9 h0
  unfold execLda
  repeat' first
    | with_reducible assumption
    | with_reducible intro _
    | (extract_lets +onlyGivenNames x; clear_value x)
    | with_reducible apply hf
    | with_reducible apply tileIssue_memOk
    | with_reducible apply agTake_memOk
    | with_reducible apply unlessExc_memOk
    | with_reducible apply TOut_next_memOk
    | with_reducible apply xset_memOk
    | with_reducible apply consume_memOk
    | with_reducible apply stgFill_memOk
    | with_reducible apply outOk_next
    | exact trivial
    | split

theorem execLdat_memOk : ∀ x0 x1 x2 x3 x4 x5 x6 x7 x8, State.MemOk x8 → OutOk (execLdat x0 x1 x2 x3 x4 x5 x6 x7 x8) := by
  intro x0 x1 x2 x3 x4 x5 x6 x7 x8 h0
  unfold execLdat
  repeat' first
    | with_reducible assumption
    | with_reducible intro _
    | (extract_lets +onlyGivenNames x; clear_value x)
    | with_reducible apply hf
    | with_reducible apply tileIssue_memOk
    | with_reducible apply agTake_memOk
    | with_reducible apply unlessExc_memOk
    | with_reducible apply TOut_next_memOk
    | with_reducible apply stgFill_memOk
    | with_reducible apply consume_memOk
    | with_reducible apply outOk_next
    | exact trivial
    | split

theorem writeSegs_memOk : ∀ x0 x1 x2, Core.MemOk x0 → Core.MemOk (writeSegs x0 x1 x2) := by
  intro x0 x1 x2 h0
  unfold writeSegs
  repeat' first
    | with_reducible assumption
    | with_reducible apply sramWrite_memOk
    | (with_reducible apply coreOk_foldl; intro _ _ _)

theorem execStv_memOk : ∀ x0 x1 x2 x3 x4 x5, State.MemOk x5 → OutOk (execStv x0 x1 x2 x3 x4 x5) := by
  intro x0 x1 x2 x3 x4 x5 h0
  unfold execStv
  repeat' first
    | with_reducible assumption
    | with_reducible intro _
    | (extract_lets +onlyGivenNames x; clear_value x)
    | with_reducible apply hf
    | with_reducible apply tileIssue_memOk
    | with_reducible apply agTake_memOk
    | with_reducible apply unlessExc_memOk
    | with_reducible apply TOut_next_memOk
    | with_reducible apply sramWrite_memOk
    | with_reducible apply writeSegs_memOk
    | with_reducible apply outOk_next
    | split
    | with_reducible refine fst_state_eq (by with_reducible assumption) ?_
    | with_reducible refine snd_state_eq (by with_reducible assumption) ?_
    | with_reducible refine snd_core_eq (by with_reducible assumption) ?_

theorem execSend_memOk : ∀ x0 x1 x2 x3 x4 x5 x6 x7 x8, State.MemOk x8 → OutOk (execSend x0 x1 x2 x3 x4 x5 x6 x7 x8) := by
  intro x0 x1 x2 x3 x4 x5 x6 x7 x8 h0
  unfold execSend
  repeat' first
    | with_reducible assumption
    | with_reducible intro _
    | (extract_lets +onlyGivenNames x; clear_value x)
    | with_reducible apply hf
    | with_reducible apply tileIssue_memOk
    | with_reducible apply agTake_memOk
    | with_reducible apply unlessExc_memOk
    | with_reducible apply inject_memOk
    | with_reducible apply consume_memOk
    | with_reducible apply TOut_next_memOk
    | with_reducible apply outOk_next
    | with_reducible apply tDone
    | with_reducible apply tWait
    | with_reducible apply tHalt
    | with_reducible apply tLate
    | exact trivial
    | split

theorem execRecv_memOk : ∀ x0 x1 x2 x3 x4 x5 x6, State.MemOk x6 → OutOk (execRecv x0 x1 x2 x3 x4 x5 x6) := by
  intro x0 x1 x2 x3 x4 x5 x6 h0
  unfold execRecv
  repeat' first
    | with_reducible assumption
    | with_reducible intro _
    | (extract_lets +onlyGivenNames x; clear_value x)
    | with_reducible apply hf
    | with_reducible apply tileIssue_memOk
    | with_reducible apply unlessExc_memOk
    | with_reducible apply tWait
    | with_reducible apply TOut_next_memOk
    | with_reducible apply ringAdvance_memOk
    | with_reducible apply stgFill_memOk
    | with_reducible apply consume_memOk
    | with_reducible apply outOk_next
    | exact trivial
    | split

theorem execChk_memOk : ∀ x0 x1 x2 x3 x4 x5 x6 x7 x8, State.MemOk x8 → OutOk (execChk x0 x1 x2 x3 x4 x5 x6 x7 x8) := by
  intro x0 x1 x2 x3 x4 x5 x6 x7 x8 h0
  unfold execChk
  repeat' first
    | with_reducible assumption
    | with_reducible intro _
    | (extract_lets +onlyGivenNames x; with_reducible refine coreOk_cut x ?_ ?_ <;> [(dsimp only [x]; clear x); (clear_value x; intro _)])
    | (extract_lets +onlyGivenNames x; clear_value x)
    | with_reducible apply hf
    | with_reducible apply tileIssue_memOk
    | with_reducible apply agTake_memOk
    | with_reducible apply unlessExc_memOk
    | with_reducible apply tWait
    | with_reducible apply consume_memOk
    | with_reducible apply TOut_next_memOk
    | with_reducible apply xset_memOk
    | with_reducible apply outOk_next
    | split
    | with_reducible refine fst_state_eq (by with_reducible assumption) ?_
    | with_reducible refine snd_state_eq (by with_reducible assumption) ?_
    | with_reducible refine snd_core_eq (by with_reducible assumption) ?_
    | (with_reducible refine coreOk_mk ?_; with_reducible refine coreOk_to ?_)

end Sys2Proof.Machine
end

