-- ==== Sys2Proof/Laws/KeepsTileArray.lean ====
section
/-! SUPPORT. The operations of Machine/TileArray.lean keep every memory in canonical form: one lemma for each. -/

namespace Sys2Proof.Machine

theorem accPut_memOk : ∀ x0 x1 x2, Core.MemOk x0 → Core.MemOk (accPut x0 x1 x2) := by
  intro x0 x1 x2 h0
  unfold accPut
  repeat' first
    | with_reducible assumption
    | (with_reducible refine coreOk_mk ?_; with_reducible refine coreOk_to ?_)

theorem poisonAcc_memOk1 : ∀ x0 x1 x2, State.MemOk x0 → Core.MemOk x1 → State.MemOk ((poisonAcc x0 x1 x2).1) := by
  intro x0 x1 x2 h0 h1
  unfold poisonAcc
  repeat' first
    | with_reducible assumption
    | (extract_lets +onlyGivenNames x; clear_value x)
    | with_reducible apply count64_memOk
    | split

theorem poisonAcc_memOk2 : ∀ x0 x1 x2, State.MemOk x0 → Core.MemOk x1 → Core.MemOk ((poisonAcc x0 x1 x2).2) := by
  intro x0 x1 x2 h0 h1
  unfold poisonAcc
  repeat' first
    | with_reducible assumption
    | (extract_lets +onlyGivenNames x; clear_value x)
    | with_reducible apply accPut_memOk

theorem checkMismatch_memOk : ∀ x0 x1 x2 x3 x4, State.MemOk x0 → State.MemOk (checkMismatch x0 x1 x2 x3 x4) := by
  intro x0 x1 x2 x3 x4 h0
  unfold checkMismatch
  repeat' first
    | with_reducible assumption
    | with_reducible intro _
    | (extract_lets +onlyGivenNames x; with_reducible refine memOk_cut x ?_ ?_ <;> [(dsimp only [x]; clear x); (clear_value x; intro _)])
    | (extract_lets +onlyGivenNames x; clear_value x)
    | with_reducible apply setN_memOk
    | with_reducible apply count64_memOk
    | with_reducible apply raiseNow_memOk
    | split

theorem countOps_memOk : ∀ x0 x1, State.MemOk x0 → State.MemOk (countOps x0 x1) := by
  intro x0 x1 h0
  unfold countOps
  repeat' first
    | with_reducible assumption
    | (extract_lets +onlyGivenNames x; clear_value x)
    | with_reducible apply addN_memOk
    | (with_reducible refine memOk_mk ?_; with_reducible refine memOk_to ?_)

theorem readParity_memOk1 : ∀ x0 x1 x2 x3 x4, State.MemOk x0 → Core.MemOk x1 → State.MemOk ((readParity x0 x1 x2 x3 x4).1) := by
  intro x0 x1 x2 x3 x4 h0 h1
  unfold readParity
  repeat' first
    | with_reducible assumption
    | with_reducible intro _
    | (extract_lets +onlyGivenNames x; with_reducible refine pairOk_cut x ?_ ?_ ?_ <;> [(dsimp only [x]; clear x); (dsimp only [x]; clear x); (clear_value x; intro _ _)])
    | with_reducible apply poisonAcc_memOk1
    | with_reducible apply poisonAcc_memOk2
    | with_reducible apply raiseNow_memOk
    | split

theorem readParity_memOk2 : ∀ x0 x1 x2 x3 x4, State.MemOk x0 → Core.MemOk x1 → Core.MemOk ((readParity x0 x1 x2 x3 x4).2) := by
  intro x0 x1 x2 x3 x4 h0 h1
  unfold readParity
  repeat' first
    | with_reducible assumption
    | with_reducible intro _
    | (extract_lets +onlyGivenNames x; with_reducible refine pairOk_cut x ?_ ?_ ?_ <;> [(dsimp only [x]; clear x); (dsimp only [x]; clear x); (clear_value x; intro _ _)])
    | with_reducible apply poisonAcc_memOk1
    | with_reducible apply poisonAcc_memOk2
    | with_reducible apply raiseNow_memOk
    | split

theorem finishChunk_memOk1 : ∀ x0 x1 x2 x3 x4 x5, State.MemOk x0 → Core.MemOk x1 → State.MemOk ((finishChunk x0 x1 x2 x3 x4 x5).1) := by
  intro x0 x1 x2 x3 x4 x5 h0 h1
  unfold finishChunk
  repeat' first
    | with_reducible assumption
    | with_reducible intro _
    | (extract_lets +onlyGivenNames x; with_reducible refine pairOk_cut x ?_ ?_ ?_ <;> [(dsimp only [x]; clear x); (dsimp only [x]; clear x); (clear_value x; intro _ _)])
    | (extract_lets +onlyGivenNames x; clear_value x)
    | with_reducible apply hf
    | with_reducible apply readParity_memOk1
    | with_reducible apply readParity_memOk2
    | with_reducible apply flagArray_memOk
    | with_reducible apply accPut_memOk
    | with_reducible apply poisonAcc_memOk1
    | with_reducible apply poisonAcc_memOk2
    | with_reducible apply consume_memOk
    | split

theorem finishChunk_memOk2 : ∀ x0 x1 x2 x3 x4 x5, State.MemOk x0 → Core.MemOk x1 → Core.MemOk ((finishChunk x0 x1 x2 x3 x4 x5).2) := by
  intro x0 x1 x2 x3 x4 x5 h0 h1
  unfold finishChunk
  repeat' first
    | with_reducible assumption
    | with_reducible intro _
    | (extract_lets +onlyGivenNames x; with_reducible refine pairOk_cut x ?_ ?_ ?_ <;> [(dsimp only [x]; clear x); (dsimp only [x]; clear x); (clear_value x; intro _ _)])
    | (extract_lets +onlyGivenNames x; clear_value x)
    | with_reducible apply hf
    | with_reducible apply readParity_memOk1
    | with_reducible apply readParity_memOk2
    | with_reducible apply flagArray_memOk
    | with_reducible apply accPut_memOk
    | with_reducible apply poisonAcc_memOk1
    | with_reducible apply poisonAcc_memOk2
    | with_reducible apply consume_memOk
    | split

theorem runChunk_memOk : ∀ x0 x1 x2 x3 x4 x5 x6 x7, State.MemOk x0 → Core.MemOk x2 → TOut.MemOk (runChunk x0 x1 x2 x3 x4 x5 x6 x7) := by
  intro x0 x1 x2 x3 x4 x5 x6 x7 h0 h1
  unfold runChunk
  repeat' first
    | with_reducible assumption
    | with_reducible intro _
    | (extract_lets +onlyGivenNames x; with_reducible refine memOk_cut x ?_ ?_ <;> [(dsimp only [x]; clear x); (clear_value x; intro _)])
    | (extract_lets +onlyGivenNames x; with_reducible refine coreOk_cut x ?_ ?_ <;> [(dsimp only [x]; clear x); (clear_value x; intro _)])
    | (extract_lets +onlyGivenNames x; with_reducible refine pairOk_cut x ?_ ?_ ?_ <;> [(dsimp only [x]; clear x); (dsimp only [x]; clear x); (clear_value x; intro _ _)])
    | (extract_lets +onlyGivenNames x; clear_value x)
    | with_reducible apply hf
    | with_reducible apply addN_memOk
    | with_reducible apply countOps_memOk
    | with_reducible apply count64_memOk
    | with_reducible apply flagArray_memOk
    | with_reducible apply finishChunk_memOk1
    | with_reducible apply finishChunk_memOk2
    | with_reducible apply TOut_next_memOk
    | with_reducible apply checkMismatch_memOk
    | with_reducible apply readParity_memOk1
    | with_reducible apply readParity_memOk2
    | with_reducible apply poisonAcc_memOk1
    | with_reducible apply poisonAcc_memOk2
    | with_reducible apply raiseNow_memOk
    | with_reducible apply tLate
    | exact trivial
    | split

theorem dropEx32_memOk : ∀ x0, Core.MemOk x0 → Core.MemOk (dropEx32 x0) := by
  intro x0 h0
  unfold dropEx32
  repeat' first
    | with_reducible assumption
    | (with_reducible refine coreOk_mk ?_; with_reducible refine coreOk_to ?_)

theorem execMma_memOk : ∀ x0 x1 x2 x3, State.MemOk x3 → OutOk (execMma x0 x1 x2 x3) := by
  intro x0 x1 x2 x3 h0
  unfold execMma
  repeat' first
    | with_reducible assumption
    | with_reducible intro _
    | with_reducible apply tileIssue_memOk
    | with_reducible apply unlessExc_memOk
    | with_reducible apply runChunk_memOk
    | with_reducible apply outOk_next

theorem execMmax_memOk : ∀ x0 x1 x2 x3 x4, State.MemOk x4 → OutOk (execMmax x0 x1 x2 x3 x4) := by
  intro x0 x1 x2 x3 x4 h0
  unfold execMmax
  repeat' first
    | with_reducible assumption
    | with_reducible intro _
    | with_reducible apply tileIssue_memOk
    | with_reducible apply unlessExc_memOk
    | with_reducible apply runChunk_memOk
    | with_reducible apply dropEx32_memOk
    | with_reducible apply TOut_next_memOk
    | with_reducible apply addN_memOk
    | with_reducible apply outOk_next
    | split
    | with_reducible refine fst_state_eq (by with_reducible assumption) ?_
    | with_reducible refine snd_state_eq (by with_reducible assumption) ?_
    | with_reducible refine snd_core_eq (by with_reducible assumption) ?_
    | (with_reducible refine coreOk_mk ?_; with_reducible refine coreOk_to ?_)

theorem execAccz_memOk : ∀ x0 x1 x2, State.MemOk x2 → OutOk (execAccz x0 x1 x2) := by
  intro x0 x1 x2 h0
  unfold execAccz
  repeat' first
    | with_reducible assumption
    | with_reducible intro _
    | with_reducible apply tileIssue_memOk
    | with_reducible apply unlessExc_memOk
    | with_reducible apply TOut_next_memOk
    | with_reducible apply accPut_memOk
    | with_reducible apply outOk_next

theorem execAccout_memOk : ∀ x0 x1 x2 x3 x4 x5 x6, State.MemOk x6 → OutOk (execAccout x0 x1 x2 x3 x4 x5 x6) := by
  intro x0 x1 x2 x3 x4 x5 x6 h0
  unfold execAccout
  repeat' first
    | with_reducible assumption
    | with_reducible intro _
    | (extract_lets +onlyGivenNames x; clear_value x)
    | with_reducible apply hf
    | with_reducible apply tileIssue_memOk
    | with_reducible apply agTake_memOk
    | with_reducible apply unlessExc_memOk
    | with_reducible apply readParity_memOk1
    | with_reducible apply readParity_memOk2
    | with_reducible apply TOut_next_memOk
    | with_reducible apply consume_memOk
    | with_reducible apply writeSegs_memOk
    | with_reducible apply outOk_next

theorem ixPut_memOk : ∀ x0 x1 x2, Core.MemOk x0 → Core.MemOk (ixPut x0 x1 x2) := by
  intro x0 x1 x2 h0
  unfold ixPut
  repeat' first
    | with_reducible assumption
    | split
    | (with_reducible refine coreOk_mk ?_; with_reducible refine coreOk_to ?_)

theorem indexBeyond_memOk1 : ∀ x0 x1 x2 x3, State.MemOk x0 → Core.MemOk x2 → State.MemOk ((indexBeyond x0 x1 x2 x3).1) := by
  intro x0 x1 x2 x3 h0 h1
  unfold indexBeyond
  repeat' first
    | with_reducible assumption
    | with_reducible intro _
    | (extract_lets +onlyGivenNames x; with_reducible refine memOk_cut x ?_ ?_ <;> [(dsimp only [x]; clear x); (clear_value x; intro _)])
    | (extract_lets +onlyGivenNames x; with_reducible refine pairOk_cut x ?_ ?_ ?_ <;> [(dsimp only [x]; clear x); (dsimp only [x]; clear x); (clear_value x; intro _ _)])
    | (extract_lets +onlyGivenNames x; clear_value x)
    | with_reducible apply setN_memOk
    | with_reducible apply poisonAcc_memOk1
    | with_reducible apply poisonAcc_memOk2
    | with_reducible apply raise_memOk
    | with_reducible apply count64_memOk
    | split

theorem indexBeyond_memOk2 : ∀ x0 x1 x2 x3, State.MemOk x0 → Core.MemOk x2 → Core.MemOk ((indexBeyond x0 x1 x2 x3).2) := by
  intro x0 x1 x2 x3 h0 h1
  unfold indexBeyond
  repeat' first
    | with_reducible assumption
    | with_reducible intro _
    | (extract_lets +onlyGivenNames x; with_reducible refine pairOk_cut x ?_ ?_ ?_ <;> [(dsimp only [x]; clear x); (dsimp only [x]; clear x); (clear_value x; intro _ _)])
    | with_reducible apply setN_memOk
    | with_reducible apply poisonAcc_memOk1
    | with_reducible apply poisonAcc_memOk2

theorem countWritten_memOk : ∀ x0 x1, TOut.MemOk x1 → TOut.MemOk (countWritten x0 x1) := by
  intro x0 x1 h0
  cases x1 with
  | done s c pc => exact ⟨count64_memOk _ _ h0.1, h0.2⟩
  | _ => exact h0

theorem execMmas_memOk : ∀ x0 x1 x2 x3 x4 x5, State.MemOk x5 → OutOk (execMmas x0 x1 x2 x3 x4 x5) := by
  intro x0 x1 x2 x3 x4 x5 h0
  unfold execMmas
  repeat' first
    | with_reducible assumption
    | with_reducible intro _
    | (extract_lets +onlyGivenNames x; with_reducible refine memOk_cut x ?_ ?_ <;> [(dsimp only [x]; clear x); (clear_value x; intro _)])
    | (extract_lets +onlyGivenNames x; with_reducible refine coreOk_cut x ?_ ?_ <;> [(dsimp only [x]; clear x); (clear_value x; intro _)])
    | (extract_lets +onlyGivenNames x; with_reducible refine pairOk_cut x ?_ ?_ ?_ <;> [(dsimp only [x]; clear x); (dsimp only [x]; clear x); (clear_value x; intro _ _)])
    | (extract_lets +onlyGivenNames x; clear_value x)
    | with_reducible apply hf
    | with_reducible apply tileIssue_memOk
    | with_reducible apply unlessExc_memOk
    | with_reducible apply count64_memOk
    | with_reducible apply ixPut_memOk
    | with_reducible apply raise_memOk
    | with_reducible apply addN_memOk
    | with_reducible apply flagCompaction_memOk
    | with_reducible apply indexBeyond_memOk1
    | with_reducible apply indexBeyond_memOk2
    | with_reducible apply countWritten_memOk
    | with_reducible apply runChunk_memOk
    | with_reducible apply outOk_next
    | split

theorem execIndex24_memOk : ∀ x0 x1 x2 x3, State.MemOk x3 → OutOk (execIndex24 x0 x1 x2 x3) := by
  intro x0 x1 x2 x3 h0
  unfold execIndex24
  repeat' first
    | with_reducible assumption
    | with_reducible intro _
    | with_reducible apply tileIssue_memOk
    | with_reducible apply unlessExc_memOk
    | with_reducible apply TOut_next_memOk
    | with_reducible apply ixPut_memOk
    | with_reducible apply outOk_next

theorem execZeroMap_memOk : ∀ x0 x1 x2 x3 x4, State.MemOk x4 → OutOk (execZeroMap x0 x1 x2 x3 x4) := by
  intro x0 x1 x2 x3 x4 h0
  unfold execZeroMap
  repeat' first
    | with_reducible assumption
    | with_reducible intro _
    | (extract_lets +onlyGivenNames x; clear_value x)
    | with_reducible apply hf
    | with_reducible apply tileIssue_memOk
    | with_reducible apply agTake_memOk
    | with_reducible apply unlessExc_memOk
    | with_reducible apply TOut_next_memOk
    | with_reducible apply sramWrite_memOk
    | with_reducible apply outOk_next

end Sys2Proof.Machine
end

