-- ==== Sys2Proof/Laws/KeepsTileVector.lean ====
section
/-! SUPPORT. The operations of Machine/TileVector.lean keep every memory in canonical form: one lemma for each. -/

namespace Sys2Proof.Machine

theorem agStep_memOk : ∀ x0 x1, Core.MemOk x0 → Core.MemOk ((agStep x0 x1).2) := by
  intro x0 x1 h0
  unfold agStep
  repeat' first
    | with_reducible assumption
    | with_reducible apply agTake_memOk
    | (with_reducible apply coreOk_foldl; intro _ _ _)

theorem agVectors_memOk (fields : List (BitVec 3)) (us : List AgUse) (n : Nat) (c : Core) (h : c.MemOk) :
    (agVectors fields us n c).2.MemOk := by
  induction n generalizing c with
  | zero => exact h
  | succ n ih => exact ih _ (agStep_memOk c us h)

theorem vopVector_memOk (func : Nat) (useB useC : Bool) (x : W32) (d : Core) (as : List Nat) (h : d.MemOk) :
    (vopVector func useB useC x d as).MemOk := sramWrite_memOk _ _ _ _ (flagVector_memOk _ _ (consume_memOk _ _ h))

theorem execVop_memOk : ∀ x0 x1 x2 x3 x4 x5 x6 x7 x8 x9 x10, State.MemOk x10 → OutOk (execVop x0 x1 x2 x3 x4 x5 x6 x7 x8 x9 x10) := by
  intro x0 x1 x2 x3 x4 x5 x6 x7 x8 x9 x10 h0
  unfold execVop
  repeat' first
    | with_reducible assumption
    | with_reducible intro _
    | (extract_lets +onlyGivenNames x; with_reducible refine sndCoreOk_cut x ?_ ?_ <;> [(dsimp only [x]; clear x); (clear_value x; intro _)])
    | (extract_lets +onlyGivenNames x; clear_value x)
    | with_reducible apply hf
    | with_reducible apply tileIssue_memOk
    | with_reducible apply agVectors_memOk
    | with_reducible apply unlessExc_memOk
    | with_reducible apply TOut_next_memOk
    | with_reducible apply vopVector_memOk
    | (with_reducible apply coreOk_foldl; intro _ _ _)
    | with_reducible apply outOk_next
    | exact trivial
    | split

theorem vredOne_memOk (func : BitVec 2) (d : Core) (as : List Nat) (h : d.MemOk) : (vredOne func d as).MemOk :=
  sramWrite_memOk _ _ _ _ (flagVector_memOk _ _ (consume_memOk _ _ h))

theorem execVred_memOk : ∀ x0 x1 x2 x3 x4 x5 x6 x7, State.MemOk x7 → OutOk (execVred x0 x1 x2 x3 x4 x5 x6 x7) := by
  intro x0 x1 x2 x3 x4 x5 x6 x7 h0
  unfold execVred
  repeat' first
    | with_reducible assumption
    | with_reducible intro _
    | (extract_lets +onlyGivenNames x; with_reducible refine sndCoreOk_cut x ?_ ?_ <;> [(dsimp only [x]; clear x); (clear_value x; intro _)])
    | (extract_lets +onlyGivenNames x; clear_value x)
    | with_reducible apply hf
    | with_reducible apply tileIssue_memOk
    | with_reducible apply agVectors_memOk
    | with_reducible apply unlessExc_memOk
    | with_reducible apply TOut_next_memOk
    | with_reducible apply vredOne_memOk
    | (with_reducible apply coreOk_foldl; intro _ _ _)
    | with_reducible apply outOk_next

theorem writeSamples_memOk : ∀ x0 x1 x2 x3, Core.MemOk x0 → Core.MemOk (writeSamples x0 x1 x2 x3) := by
  intro x0 x1 x2 x3 h0
  unfold writeSamples
  repeat' first
    | with_reducible assumption
    | (extract_lets +onlyGivenNames x; clear_value x)
    | with_reducible apply sramWrite_memOk
    | (with_reducible apply coreOk_foldl; intro _ _ _)

theorem execRngk_memOk : ∀ x0 x1 x2 x3 x4 x5 x6 x7 x8 x9, State.MemOk x9 → OutOk (execRngk x0 x1 x2 x3 x4 x5 x6 x7 x8 x9) := by
  intro x0 x1 x2 x3 x4 x5 x6 x7 x8 x9 h0
  unfold execRngk
  repeat' first
    | with_reducible assumption
    | with_reducible intro _
    | (extract_lets +onlyGivenNames x; with_reducible refine sndCoreOk_cut x ?_ ?_ <;> [(dsimp only [x]; clear x); (clear_value x; intro _)])
    | (extract_lets +onlyGivenNames x; clear_value x)
    | with_reducible apply hf
    | with_reducible apply tileIssue_memOk
    | with_reducible apply agVectors_memOk
    | with_reducible apply unlessExc_memOk
    | with_reducible apply TOut_next_memOk
    | with_reducible apply writeSamples_memOk
    | with_reducible apply outOk_next

theorem execRngf_memOk : ∀ x0 x1 x2 x3 x4 x5, State.MemOk x5 → OutOk (execRngf x0 x1 x2 x3 x4 x5) := by
  intro x0 x1 x2 x3 x4 x5 h0
  unfold execRngf
  repeat' first
    | with_reducible assumption
    | with_reducible intro _
    | (extract_lets +onlyGivenNames x; with_reducible refine sndCoreOk_cut x ?_ ?_ <;> [(dsimp only [x]; clear x); (clear_value x; intro _)])
    | (extract_lets +onlyGivenNames x; clear_value x)
    | with_reducible apply hf
    | with_reducible apply tileIssue_memOk
    | with_reducible apply agVectors_memOk
    | with_reducible apply unlessExc_memOk
    | with_reducible apply TOut_next_memOk
    | with_reducible apply writeSamples_memOk
    | with_reducible apply outOk_next

theorem vcvtOne_memOk (f : VcvtFields) (draw : Nat → Nat → W32) (d : Core) (e : List Nat × Nat) (h : d.MemOk) :
    (vcvtOne f draw d e).MemOk := sramWrite_memOk _ _ _ _ (flagVector_memOk _ _ (consume_memOk _ _ h))

theorem execVcvt_memOk : ∀ x0 x1 x2, State.MemOk x2 → OutOk (execVcvt x0 x1 x2) := by
  intro x0 x1 x2 h0
  unfold execVcvt
  repeat' first
    | with_reducible assumption
    | with_reducible intro _
    | (extract_lets +onlyGivenNames x; with_reducible refine sndCoreOk_cut x ?_ ?_ <;> [(dsimp only [x]; clear x); (clear_value x; intro _)])
    | (extract_lets +onlyGivenNames x; clear_value x)
    | with_reducible apply hf
    | with_reducible apply tileIssue_memOk
    | with_reducible apply agVectors_memOk
    | with_reducible apply unlessExc_memOk
    | with_reducible apply TOut_next_memOk
    | with_reducible apply vcvtOne_memOk
    | (with_reducible apply coreOk_foldl; intro _ _ _)
    | with_reducible apply outOk_next

end Sys2Proof.Machine
end

