-- ==== Sys2Proof/Laws/KeepsControl.lean ====
section
/-! SUPPORT. The operations of Machine/Control.lean keep every memory in canonical form: one lemma for each. -/

namespace Sys2Proof.Machine

theorem touch_memOk : ∀ x0 x1, State.MemOk x0 → State.MemOk (touch x0 x1) := by
  intro x0 x1 h0
  unfold touch
  repeat' first
    | with_reducible assumption
    | (with_reducible refine memOk_mk ?_; with_reducible refine memOk_to ?_)

theorem overrunCause_memOk : ∀ x0 x1, State.MemOk x0 → State.MemOk (overrunCause x0 x1) := by
  intro x0 x1 h0
  unfold overrunCause
  repeat' first
    | with_reducible assumption
    | (extract_lets +onlyGivenNames x; clear_value x)
    | (with_reducible refine memOk_mk ?_; with_reducible refine memOk_to ?_)

theorem writeMap_memOk : ∀ x0 x1 x2, State.MemOk x0 → State.MemOk (writeMap x0 x1 x2) := by
  intro x0 x1 x2 h0
  unfold writeMap
  repeat' first
    | with_reducible assumption
    | (extract_lets +onlyGivenNames x; refine memOk_cut x ?_ ?_ <;> [(dsimp only [x]; clear x); (clear_value x; intro _)])
    | (extract_lets +onlyGivenNames x; clear_value x)
    | with_reducible apply touch_memOk
    | (with_reducible apply memOk_foldl; intro _ _ _)
    | split
    | (with_reducible refine memOk_mk ?_; with_reducible refine memOk_to ?_)

theorem updateMap_memOk : ∀ x0 x1, State.MemOk x0 → State.MemOk (updateMap x0 x1) := by
  intro x0 x1 h0
  unfold updateMap
  repeat' first
    | with_reducible assumption
    | with_reducible apply writeMap_memOk
    | split

theorem setField_memOk : ∀ x0 x1 x2, State.MemOk x0 → State.MemOk (setField x0 x1 x2) := by
  intro x0 x1 x2 h0
  unfold setField
  repeat' first
    | with_reducible assumption
    | (extract_lets +onlyGivenNames x; clear_value x)
    | (with_reducible refine memOk_mk ?_; with_reducible refine memOk_to ?_)

theorem beginHandover_memOk : ∀ x0, State.MemOk x0 → State.MemOk (beginHandover x0) := by
  intro x0 h0
  unfold beginHandover
  repeat' first
    | with_reducible assumption
    | (extract_lets +onlyGivenNames x; refine memOk_cut x ?_ ?_ <;> [(dsimp only [x]; clear x); (clear_value x; intro _)])
    | (extract_lets +onlyGivenNames x; clear_value x)
    | with_reducible apply journal_memOk
    | with_reducible apply logEvent_memOk
    | with_reducible apply raise_memOk
    | split
    | (with_reducible refine memOk_mk ?_; with_reducible refine memOk_to ?_)

theorem fieldLoss_memOk : ∀ x0 x1 x2, State.MemOk x0 → State.MemOk (fieldLoss x0 x1 x2) := by
  intro x0 x1 x2 h0
  unfold fieldLoss
  repeat' first
    | with_reducible assumption
    | (extract_lets +onlyGivenNames x; refine memOk_cut x ?_ ?_ <;> [(dsimp only [x]; clear x); (clear_value x; intro _)])
    | (extract_lets +onlyGivenNames x; clear_value x)
    | with_reducible apply updateMap_memOk
    | with_reducible apply logEvent_memOk
    | with_reducible apply raiseNow_memOk
    | with_reducible apply beginHandover_memOk
    | split
    | (with_reducible refine memOk_mk ?_; with_reducible refine memOk_to ?_)

theorem Core_proceed_memOk : ∀ x0, Core.MemOk x0 → Core.MemOk (Core.proceed x0) := by
  intro x0 h0
  unfold Core.proceed
  repeat' first
    | with_reducible assumption
    | with_reducible intro _
    | split
    | (with_reducible refine coreOk_mk ?_; with_reducible refine coreOk_to ?_)

theorem wakeCore_memOk : ∀ x0 x1, State.MemOk x0 → Core.MemOk x1 → Core.MemOk (wakeCore x0 x1) := by
  intro x0 x1 h0 h1
  unfold wakeCore
  repeat' first
    | with_reducible assumption
    | with_reducible intro _
    | with_reducible apply Core_proceed_memOk
    | with_reducible apply sramWrite_memOk
    | split
    | (with_reducible refine coreOk_mk ?_; with_reducible refine coreOk_to ?_)

theorem suspendCore_memOk : ∀ x0, Core.MemOk x0 → Core.MemOk (suspendCore x0) := by
  intro x0 h0
  unfold suspendCore
  repeat' first
    | with_reducible assumption
    | with_reducible intro _
    | with_reducible apply saveContext_memOk
    | split
    | (with_reducible refine coreOk_mk ?_; with_reducible refine coreOk_to ?_)

theorem resumeCore_memOk : ∀ x0 x1, State.MemOk x0 → Core.MemOk x1 → Core.MemOk (resumeCore x0 x1) := by
  intro x0 x1 h0 h1
  unfold resumeCore
  repeat' first
    | with_reducible assumption
    | with_reducible intro _
    | with_reducible apply wakeCore_memOk
    | with_reducible apply restoreContext_memOk
    | split
    | (with_reducible refine coreOk_mk ?_; with_reducible refine coreOk_to ?_)

theorem startCore_memOk : ∀ x0, Core.MemOk x0 → Core.MemOk (startCore x0) := by
  intro x0 h0
  unfold startCore
  repeat' first
    | with_reducible assumption
    | with_reducible intro _
    | split
    | (with_reducible refine coreOk_mk ?_; with_reducible refine coreOk_to ?_)

theorem readErrs_memOk2 : ∀ x0 x1 x2 x3, State.MemOk x3.1 → Core.MemOk x3.2 → Core.MemOk (readErrs x0 x1 x2 x3).2 := by
  intro x0 x1 x2 x3 h0 h1
  unfold readErrs
  repeat' first
    | with_reducible assumption
    | with_reducible intro _
    | with_reducible apply sramError_memOk1
    | with_reducible apply sramError_memOk2
    | with_reducible apply sramErrors_memOk1
    | with_reducible apply sramErrors_memOk2

theorem readErrs_memOk1 : ∀ x0 x1 x2 x3, State.MemOk x3.1 → Core.MemOk x3.2 → State.MemOk (readErrs x0 x1 x2 x3).1 := by
  intro x0 x1 x2 x3 h0 h1
  unfold readErrs
  repeat' first
    | with_reducible assumption
    | with_reducible intro _
    | with_reducible apply sramError_memOk1
    | with_reducible apply sramError_memOk2
    | (with_reducible apply memOk_foldl; intro _ _ _)
    | (with_reducible apply memOk_foldl_fst; intro _ _ _)

theorem syncErrs_memOk2 : ∀ x0 x1, State.MemOk x1.1 → Core.MemOk x1.2 → Core.MemOk (syncErrs x0 x1).2 := by
  intro x0 x1 h0 h1
  unfold syncErrs
  repeat' first
    | with_reducible assumption
    | with_reducible intro _
    | with_reducible apply readErrs_memOk1
    | with_reducible apply readErrs_memOk2
    | split

theorem syncErrs_memOk1 : ∀ x0 x1, State.MemOk x1.1 → Core.MemOk x1.2 → State.MemOk (syncErrs x0 x1).1 := by
  intro x0 x1 h0 h1
  unfold syncErrs
  repeat' first
    | with_reducible assumption
    | with_reducible intro _
    | with_reducible apply readErrs_memOk1
    | with_reducible apply readErrs_memOk2
    | split

theorem contextErrs_memOk : ∀ x0 x1 x2, State.MemOk x0 → State.MemOk (contextErrs x0 x1 x2) := by
  intro x0 x1 x2 h0
  unfold contextErrs
  repeat' first
    | with_reducible assumption
    | with_reducible intro _
    | (extract_lets +onlyGivenNames x; with_reducible refine coreOk_cut x ?_ ?_ <;> [(dsimp only [x]; clear x); (clear_value x; intro _)])
    | (extract_lets +onlyGivenNames x; with_reducible refine pairOk_cut x ?_ ?_ ?_ <;> [(dsimp only [x]; clear x); (dsimp only [x]; clear x); (clear_value x; intro _ _)])
    | (extract_lets +onlyGivenNames x; clear_value x)
    | with_reducible apply hf
    | with_reducible apply getCore_memOk
    | with_reducible apply syncErrs_memOk1
    | with_reducible apply syncErrs_memOk2
    | with_reducible apply readErrs_memOk1
    | with_reducible apply readErrs_memOk2
    | with_reducible apply setCore_memOk
    | split

theorem metBy_memOk : ∀ x0 x1 x2, (∀ s, State.MemOk s → State.MemOk (x1 s)) → State.MemOk x2 → State.MemOk (metBy x0 x1 x2) := by
  intro x0 x1 x2 h0 h1
  unfold metBy
  repeat' first
    | with_reducible assumption
    | with_reducible intro _
    | (extract_lets +onlyGivenNames x; with_reducible refine memOk_cut x ?_ ?_ <;> [(dsimp only [x]; clear x); (clear_value x; intro _)])
    | (extract_lets +onlyGivenNames x; clear_value x)
    | with_reducible apply hf
    | with_reducible apply h0
    | split
    | with_reducible refine fst_state_eq (by with_reducible assumption) ?_
    | with_reducible refine snd_state_eq (by with_reducible assumption) ?_
    | with_reducible refine snd_core_eq (by with_reducible assumption) ?_
    | (with_reducible refine memOk_mk ?_; with_reducible refine memOk_to ?_)

theorem suspendAll_memOk : ∀ x0, State.MemOk x0 → State.MemOk (suspendAll x0) := by
  intro x0 h0
  unfold suspendAll
  repeat' first
    | with_reducible assumption
    | with_reducible intro _
    | (extract_lets +onlyGivenNames x; refine memOk_cut x ?_ ?_ <;> [(dsimp only [x]; clear x); (clear_value x; intro _)])
    | (extract_lets +onlyGivenNames x; clear_value x)
    | with_reducible apply mapCores_memOk
    | with_reducible apply suspendCore_memOk
    | (with_reducible refine memOk_mk ?_; with_reducible refine memOk_to ?_)

theorem resumeAll_memOk : ∀ x0, State.MemOk x0 → State.MemOk (resumeAll x0) := by
  intro x0 h0
  unfold resumeAll
  repeat' first
    | with_reducible assumption
    | with_reducible intro _
    | (extract_lets +onlyGivenNames x; with_reducible refine memOk_cut x ?_ ?_ <;> [(dsimp only [x]; clear x); (clear_value x; intro _)])
    | (extract_lets +onlyGivenNames x; clear_value x)
    | with_reducible apply hf
    | with_reducible apply contextErrs_memOk
    | with_reducible apply mapCores_memOk
    | with_reducible apply startCore_memOk
    | with_reducible apply resumeCore_memOk
    | (with_reducible apply memOk_foldl; intro _ _ _)
    | (with_reducible apply memOk_foldl_fst; intro _ _ _)
    | (with_reducible apply coreOk_foldl; intro _ _ _)
    | split
    | with_reducible refine fst_state_eq (by with_reducible assumption) ?_
    | with_reducible refine snd_state_eq (by with_reducible assumption) ?_
    | with_reducible refine snd_core_eq (by with_reducible assumption) ?_
    | (with_reducible refine memOk_mk ?_; with_reducible refine memOk_to ?_)

theorem freshCore_memOk : ∀ x0 x1 x2, State.MemOk x0 → Core.MemOk x2 → Core.MemOk (freshCore x0 x1 x2) := fun _ _ _ _ h => h

theorem imageLoad_wf (segs : List (Nat × List Byte)) (m : Mem) (h : Memory.wf m = true) :
    Memory.wf (segs.foldl (fun m seg => memStore m seg.1 seg.2) m) = true := by
  induction segs generalizing m with
  | nil => exact h
  | cons x xs ih => exact ih _ (memStore_wf _ _ _ h)

theorem loadCore_memOk : ∀ x0 x1 x2 x3, State.MemOk x0 → Core.MemOk x2 → Core.MemOk (loadCore x0 x1 x2 x3) := by
  intro x0 x1 x2 x3 _ h
  exact coreOk_foldl _ (fun c seg hc => cfgWrite_memOk c seg.1 seg.2 hc) _ _ (filter_wf _ _ h)

theorem reloadCore_memOk : ∀ x0 x1 x2, State.MemOk x0 → Core.MemOk x2 → State.MemOk (reloadCore x0 x1 x2) := by
  intro x0 x1 x2 h0 h1
  unfold reloadCore
  repeat' first
    | with_reducible assumption
    | with_reducible intro _
    | (extract_lets +onlyGivenNames x; with_reducible refine coreOk_cut x ?_ ?_ <;> [(dsimp only [x]; clear x); (clear_value x; intro _)])
    | (extract_lets +onlyGivenNames x; clear_value x)
    | with_reducible apply hf
    | with_reducible apply freshCore_memOk
    | with_reducible apply loadCore_memOk
    | with_reducible apply setCore_memOk
    | split
    | with_reducible refine fst_state_eq (by with_reducible assumption) ?_
    | with_reducible refine snd_state_eq (by with_reducible assumption) ?_
    | with_reducible refine snd_core_eq (by with_reducible assumption) ?_
    | (with_reducible refine memOk_mk ?_; with_reducible refine memOk_to ?_)
    | (with_reducible refine coreOk_mk ?_; with_reducible refine coreOk_to ?_)

theorem abandon_memOk : ∀ x0 x1, State.MemOk x0 → State.MemOk (abandon x0 x1) := by
  intro x0 x1 h0
  unfold abandon
  repeat' first
    | with_reducible assumption
    | with_reducible intro _
    | split
    | (with_reducible refine memOk_mk ?_; with_reducible refine memOk_to ?_)

theorem resetCursors_memOk : ∀ x0 x1, State.MemOk x0 → State.MemOk (resetCursors x0 x1) := by
  intro x0 x1 h0
  unfold resetCursors
  repeat' first
    | with_reducible assumption
    | (extract_lets +onlyGivenNames x; clear_value x)
    | (with_reducible refine memOk_mk ?_; with_reducible refine memOk_to ?_)

theorem forgetWork_memOk : ∀ x0 x1, State.MemOk x0 → State.MemOk (forgetWork x0 x1) := by
  intro x0 x1 h0
  unfold forgetWork
  repeat' first
    | with_reducible assumption
    | with_reducible intro _
    | (extract_lets +onlyGivenNames x; clear_value x)
    | with_reducible apply hf
    | split
    | (with_reducible refine memOk_mk ?_; with_reducible refine memOk_to ?_)

theorem replayNow_memOk : ∀ x0, State.MemOk x0 → State.MemOk (replayNow x0) := by
  intro x0 h0
  unfold replayNow
  repeat' first
    | with_reducible assumption
    | with_reducible intro _
    | (extract_lets +onlyGivenNames x; with_reducible refine memOk_cut x ?_ ?_ <;> [(dsimp only [x]; clear x); (clear_value x; intro _)])
    | (extract_lets +onlyGivenNames x; clear_value x)
    | with_reducible apply hf
    | with_reducible apply forgetWork_memOk
    | with_reducible apply resumeAll_memOk
    | with_reducible apply raise_memOk
    | with_reducible apply resetCursors_memOk
    | (with_reducible apply memOk_foldl; intro _ _ _)
    | (with_reducible apply memOk_foldl_fst; intro _ _ _)
    | (with_reducible apply coreOk_foldl; intro _ _ _)
    | split
    | with_reducible refine fst_state_eq (by with_reducible assumption) ?_
    | with_reducible refine snd_state_eq (by with_reducible assumption) ?_
    | with_reducible refine snd_core_eq (by with_reducible assumption) ?_
    | (with_reducible refine memOk_mk ?_; with_reducible refine memOk_to ?_)

theorem dropHeld_memOk : ∀ x0, State.MemOk x0 → State.MemOk (dropHeld x0) := by
  intro x0 h0
  unfold dropHeld
  repeat' first
    | with_reducible assumption
    | with_reducible intro _
    | with_reducible apply mapCores_memOk
    | split
    | with_reducible refine fst_state_eq (by with_reducible assumption) ?_
    | with_reducible refine snd_state_eq (by with_reducible assumption) ?_
    | with_reducible refine snd_core_eq (by with_reducible assumption) ?_
    | (with_reducible refine memOk_mk ?_; with_reducible refine memOk_to ?_)
    | (with_reducible refine coreOk_mk ?_; with_reducible refine coreOk_to ?_)

end Sys2Proof.Machine
end

