-- ==== Sys2Proof/Laws/KeepsCoreRows.lean ====
section
/-! SUPPORT. The operations of Machine/CoreRows.lean keep every memory in canonical form: one lemma for each. -/

namespace Sys2Proof.Machine

theorem execScrubRowRead_memOk : ∀ x0 x1 x2 x3, State.MemOk x3 → OutOk (execScrubRowRead x0 x1 x2 x3) := by
  intro x0 x1 x2 x3 h0
  unfold execScrubRowRead
  repeat' first
    | with_reducible assumption
    | with_reducible intro _
    | (extract_lets +onlyGivenNames x; with_reducible refine pairOk_cut x ?_ ?_ ?_ <;> [(dsimp only [x]; clear x); (dsimp only [x]; clear x); (clear_value x; intro _ _)])
    | (extract_lets +onlyGivenNames x; clear_value x)
    | with_reducible apply hf
    | with_reducible apply sramError_memOk1
    | with_reducible apply sramError_memOk2
    | with_reducible apply getCore_memOk
    | with_reducible apply setCore_memOk
    | with_reducible apply sramErrors_memOk1
    | with_reducible apply sramErrors_memOk2
    | with_reducible apply outOk_next
    | split

theorem execSramCorrectedWriteback_memOk : ∀ x0 x1 x2, State.MemOk x2 → OutOk (execSramCorrectedWriteback x0 x1 x2) := by
  intro x0 x1 x2 h0
  unfold execSramCorrectedWriteback
  repeat' first
    | with_reducible assumption
    | (extract_lets +onlyGivenNames x; refine coreOk_cut x ?_ ?_ <;> [(dsimp only [x]; clear x); (clear_value x; intro _)])
    | with_reducible apply setCore_memOk
    | with_reducible apply getCore_memOk
    | with_reducible apply outOk_next
    | (with_reducible refine coreOk_mk ?_; with_reducible refine coreOk_to ?_)

theorem ringWrite_memOk : ∀ x0 x1 x2, Core.MemOk x0 → Core.MemOk (ringWrite x0 x1 x2) := by
  intro x0 x1 x2 h0
  unfold ringWrite
  repeat' first
    | with_reducible assumption
    | with_reducible intro _
    | (extract_lets +onlyGivenNames x; with_reducible refine coreOk_cut x ?_ ?_ <;> [(dsimp only [x]; clear x); (clear_value x; intro _)])
    | with_reducible apply sramWrite_memOk
    | split
    | (with_reducible refine coreOk_mk ?_; with_reducible refine coreOk_to ?_)

theorem execRingDelivery_memOk : ∀ x0 x1 x2, State.MemOk x2 → OutOk (execRingDelivery x0 x1 x2) := by
  intro x0 x1 x2 h0
  unfold execRingDelivery
  repeat' first
    | with_reducible assumption
    | with_reducible intro _
    | (extract_lets +onlyGivenNames x; with_reducible refine coreOk_cut x ?_ ?_ <;> [(dsimp only [x]; clear x); (clear_value x; intro _)])
    | (extract_lets +onlyGivenNames x; clear_value x)
    | with_reducible apply hf
    | with_reducible apply getCore_memOk
    | with_reducible apply ringWrite_memOk
    | with_reducible apply setCore_memOk
    | with_reducible apply wakeCore_memOk
    | with_reducible apply outOk_next
    | split
    | (with_reducible refine coreOk_mk ?_; with_reducible refine coreOk_to ?_)

theorem execHeartbeatPulse_memOk : ∀ x0 x1 x2 x3, State.MemOk x3 → OutOk (execHeartbeatPulse x0 x1 x2 x3) := by
  intro x0 x1 x2 x3 h0
  unfold execHeartbeatPulse
  repeat' first
    | with_reducible assumption
    | with_reducible intro _
    | (extract_lets +onlyGivenNames x; with_reducible refine coreOk_cut x ?_ ?_ <;> [(dsimp only [x]; clear x); (clear_value x; intro _)])
    | (extract_lets +onlyGivenNames x; clear_value x)
    | with_reducible apply getCore_memOk
    | with_reducible apply setCore_memOk
    | with_reducible apply outOk_next
    | split
    | (with_reducible refine memOk_mk ?_; with_reducible refine memOk_to ?_)
    | (with_reducible refine coreOk_mk ?_; with_reducible refine coreOk_to ?_)

theorem execCoreSilent_memOk : ∀ x0 x1, State.MemOk x1 → OutOk (execCoreSilent x0 x1) := by
  intro x0 x1 h0
  unfold execCoreSilent
  repeat' first
    | with_reducible assumption
    | with_reducible intro _
    | (extract_lets +onlyGivenNames x; with_reducible refine coreOk_cut x ?_ ?_ <;> [(dsimp only [x]; clear x); (clear_value x; intro _)])
    | (extract_lets +onlyGivenNames x; clear_value x)
    | with_reducible apply emit_memOk
    | with_reducible apply getCore_memOk
    | with_reducible apply setCore_memOk
    | with_reducible apply outOk_next
    | split
    | (with_reducible refine memOk_mk ?_; with_reducible refine memOk_to ?_)
    | (with_reducible refine coreOk_mk ?_; with_reducible refine coreOk_to ?_)

theorem execCoreSuspend_memOk : ∀ x0 x1, State.MemOk x1 → OutOk (execCoreSuspend x0 x1) := by
  intro x0 x1 h0
  unfold execCoreSuspend
  repeat' first
    | with_reducible assumption
    | with_reducible apply setCore_memOk
    | with_reducible apply suspendCore_memOk
    | with_reducible apply getCore_memOk
    | with_reducible apply outOk_next

theorem execCoreResume_memOk : ∀ x0 x1, State.MemOk x1 → OutOk (execCoreResume x0 x1) := by
  intro x0 x1 h0
  unfold execCoreResume
  repeat' first
    | with_reducible assumption
    | with_reducible intro _
    | (extract_lets +onlyGivenNames x; with_reducible refine memOk_cut x ?_ ?_ <;> [(dsimp only [x]; clear x); (clear_value x; intro _)])
    | (extract_lets +onlyGivenNames x; clear_value x)
    | with_reducible apply hf
    | with_reducible apply contextErrs_memOk
    | with_reducible apply setCore_memOk
    | with_reducible apply resumeCore_memOk
    | with_reducible apply getCore_memOk
    | with_reducible apply outOk_next

theorem execSyncTimeout_memOk : ∀ x0 x1, State.MemOk x1 → OutOk (execSyncTimeout x0 x1) := by
  intro x0 x1 h0
  unfold execSyncTimeout
  repeat' first
    | with_reducible assumption
    | with_reducible intro _
    | (extract_lets +onlyGivenNames x; with_reducible refine coreOk_cut x ?_ ?_ <;> [(dsimp only [x]; clear x); (clear_value x; intro _)])
    | (extract_lets +onlyGivenNames x; clear_value x)
    | with_reducible apply getCore_memOk
    | with_reducible apply takeException_memOk
    | with_reducible apply outOk_next
    | split

theorem execSyncArrival_memOk : ∀ x0 x1 x2 x3 x4, State.MemOk x4 → OutOk (execSyncArrival x0 x1 x2 x3 x4) := by
  intro x0 x1 x2 x3 x4 h0
  unfold execSyncArrival
  repeat' first
    | with_reducible assumption
    | with_reducible intro _
    | (extract_lets +onlyGivenNames x; with_reducible refine coreOk_cut x ?_ ?_ <;> [(dsimp only [x]; clear x); (clear_value x; intro _)])
    | (extract_lets +onlyGivenNames x; with_reducible refine pairOk_cut x ?_ ?_ ?_ <;> [(dsimp only [x]; clear x); (dsimp only [x]; clear x); (clear_value x; intro _ _)])
    | (extract_lets +onlyGivenNames x; with_reducible refine fstOk_cut x ?_ ?_ <;> [(dsimp only [x]; clear x); (clear_value x; intro _)])
    | (extract_lets +onlyGivenNames x; with_reducible refine sndCoreOk_cut x ?_ ?_ <;> [(dsimp only [x]; clear x); (clear_value x; intro _)])
    | (extract_lets +onlyGivenNames x; clear_value x)
    | with_reducible apply hf
    | with_reducible apply readErrs_memOk1
    | with_reducible apply readErrs_memOk2
    | with_reducible apply getCore_memOk
    | with_reducible apply sramWrite_memOk
    | with_reducible apply judgeBarrier_memOk1
    | with_reducible apply judgeBarrier_memOk2
    | with_reducible apply setCore_memOk
    | with_reducible apply outOk_next
    | split
    | with_reducible refine fst_state_eq (by with_reducible assumption) ?_
    | with_reducible refine snd_state_eq (by with_reducible assumption) ?_
    | with_reducible refine snd_core_eq (by with_reducible assumption) ?_
    | (with_reducible refine memOk_mk ?_; with_reducible refine memOk_to ?_)
    | (with_reducible refine coreOk_mk ?_; with_reducible refine coreOk_to ?_)

theorem setReleased_memOk : ∀ x0 x1, Core.MemOk x0 → Core.MemOk (setReleased x0 x1) := by
  intro x0 x1 h0
  unfold setReleased
  repeat' first
    | with_reducible assumption
    | with_reducible apply sramWrite_memOk

theorem execSyncRelease_memOk : ∀ x0 x1 x2 x3, State.MemOk x3 → OutOk (execSyncRelease x0 x1 x2 x3) := by
  intro x0 x1 x2 x3 h0
  unfold execSyncRelease
  repeat' first
    | with_reducible assumption
    | with_reducible intro _
    | (extract_lets +onlyGivenNames x; with_reducible refine coreOk_cut x ?_ ?_ <;> [(dsimp only [x]; clear x); (clear_value x; intro _)])
    | (extract_lets +onlyGivenNames x; with_reducible refine pairOk_cut x ?_ ?_ ?_ <;> [(dsimp only [x]; clear x); (dsimp only [x]; clear x); (clear_value x; intro _ _)])
    | (extract_lets +onlyGivenNames x; with_reducible refine fstOk_cut x ?_ ?_ <;> [(dsimp only [x]; clear x); (clear_value x; intro _)])
    | (extract_lets +onlyGivenNames x; with_reducible refine sndCoreOk_cut x ?_ ?_ <;> [(dsimp only [x]; clear x); (clear_value x; intro _)])
    | (extract_lets +onlyGivenNames x; clear_value x)
    | with_reducible apply hf
    | with_reducible apply getCore_memOk
    | with_reducible apply readErrs_memOk1
    | with_reducible apply readErrs_memOk2
    | with_reducible apply setCore_memOk
    | with_reducible apply wakeCore_memOk
    | with_reducible apply setReleased_memOk
    | with_reducible apply outOk_next
    | split

theorem coreExceptionReport_memOk : ∀ x0 x1, State.MemOk x1 → State.MemOk (coreExceptionReport x0 x1) := by
  intro x0 x1 h0
  unfold coreExceptionReport
  repeat' first
    | with_reducible assumption
    | with_reducible intro _
    | (extract_lets +onlyGivenNames x; with_reducible refine memOk_cut x ?_ ?_ <;> [(dsimp only [x]; clear x); (clear_value x; intro _)])
    | (extract_lets +onlyGivenNames x; with_reducible refine coreOk_cut x ?_ ?_ <;> [(dsimp only [x]; clear x); (clear_value x; intro _)])
    | (extract_lets +onlyGivenNames x; clear_value x)
    | with_reducible apply hf
    | with_reducible apply getCore_memOk
    | with_reducible apply suspendAll_memOk
    | with_reducible apply overrunCause_memOk
    | with_reducible apply logEvent_memOk
    | with_reducible apply raiseNow_memOk
    | with_reducible apply abandon_memOk
    | with_reducible apply reloadCore_memOk
    | with_reducible apply replayNow_memOk
    | split
    | with_reducible refine fst_state_eq (by with_reducible assumption) ?_
    | with_reducible refine snd_state_eq (by with_reducible assumption) ?_
    | with_reducible refine snd_core_eq (by with_reducible assumption) ?_
    | (with_reducible refine memOk_mk ?_; with_reducible refine memOk_to ?_)

theorem execCoreExceptionReport_memOk : ∀ x0 x1, State.MemOk x1 → OutOk (execCoreExceptionReport x0 x1) := by
  intro x0 x1 h0
  unfold execCoreExceptionReport
  repeat' first
    | with_reducible assumption
    | with_reducible intro _
    | with_reducible apply metBy_memOk
    | with_reducible apply coreExceptionReport_memOk
    | with_reducible apply outOk_next

theorem modifyWork_memOk : ∀ x0 x1 x2, State.MemOk x0 → State.MemOk (modifyWork x0 x1 x2) := by
  intro x0 x1 x2 h0
  unfold modifyWork
  repeat' first
    | with_reducible assumption
    | (extract_lets +onlyGivenNames x; clear_value x)
    | (with_reducible refine memOk_mk ?_; with_reducible refine memOk_to ?_)

end Sys2Proof.Machine
end

