-- ==== Sys2Proof/Laws/KeepsObjWrite.lean ====
section
/-! SUPPORT. The operations of Machine/ObjWrite.lean keep every memory in canonical form: one lemma for each. -/

namespace Sys2Proof.Machine

theorem ownWrite_memOk : ∀ x0 x1 x2 x3 x4, State.MemOk x0 → (∀ y00 y01, State.MemOk y00 → State.MemOk ((x4) y00 y01)) → State.MemOk (ownWrite x0 x1 x2 x3 x4) := by
  intro x0 x1 x2 x3 x4 h0 h1
  unfold ownWrite
  repeat' first
    | with_reducible assumption
    | (extract_lets +onlyGivenNames x; refine memOk_cut x ?_ ?_ <;> [(dsimp only [x]; clear x); (clear_value x; intro _)])
    | (extract_lets +onlyGivenNames x; clear_value x)
    | with_reducible apply h1
    | with_reducible apply emit_memOk
    | split

theorem ownWriteDom_memOk : ∀ x0 x1 x2 x3 x4, State.MemOk x0 → (∀ y00 y01, State.MemOk y00 → State.MemOk ((x4) y00 y01)) → State.MemOk (ownWriteDom x0 x1 x2 x3 x4) := by
  intro x0 x1 x2 x3 x4 h0 h1
  unfold ownWriteDom
  repeat' first
    | with_reducible assumption
    | (extract_lets +onlyGivenNames x; refine memOk_cut x ?_ ?_ <;> [(dsimp only [x]; clear x); (clear_value x; intro _)])
    | (extract_lets +onlyGivenNames x; clear_value x)
    | with_reducible apply h1
    | with_reducible apply emit_memOk
    | split

theorem clearFlags_memOk : ∀ x0 x1 x2, State.MemOk x0 → State.MemOk (clearFlags x0 x1 x2) := by
  intro x0 x1 x2 h0
  unfold clearFlags
  repeat' first
    | with_reducible assumption
    | with_reducible apply setN_memOk
    | split
    | (with_reducible refine memOk_mk ?_; with_reducible refine memOk_to ?_)

theorem emptyCapture_memOk : ∀ x0 x1, State.MemOk x0 → State.MemOk (emptyCapture x0 x1) := by
  intro x0 x1 h0
  unfold emptyCapture
  repeat' first
    | with_reducible assumption
    | (extract_lets +onlyGivenNames x; refine memOk_cut x ?_ ?_ <;> [(dsimp only [x]; clear x); (clear_value x; intro _)])
    | (extract_lets +onlyGivenNames x; clear_value x)
    | with_reducible apply setDom_memOk
    | with_reducible apply setN_memOk
    | (with_reducible apply memOk_foldl; intro _ _ _)
    | split

theorem writeEmpty_memOk : ∀ x0 x1 x2, State.MemOk x0 → State.MemOk (writeEmpty x0 x1 x2) := by
  intro x0 x1 x2 h0
  unfold writeEmpty
  repeat' first
    | with_reducible assumption
    | with_reducible apply emptyCapture_memOk
    | split
    | (with_reducible refine memOk_mk ?_; with_reducible refine memOk_to ?_)

theorem resetHighWater_memOk : ∀ x0 x1 x2, State.MemOk x0 → State.MemOk (resetHighWater x0 x1 x2) := by
  intro x0 x1 x2 h0
  unfold resetHighWater
  repeat' first
    | with_reducible assumption
    | with_reducible apply setN_memOk

theorem execW1cFlagClear_memOk : ∀ x0 x1 x2 x3, State.MemOk x3 → OutOk (execW1cFlagClear x0 x1 x2 x3) := by
  intro x0 x1 x2 x3 h0
  unfold execW1cFlagClear
  repeat' first
    | with_reducible assumption
    | with_reducible intro _
    | (extract_lets +onlyGivenNames x; clear_value x)
    | with_reducible apply ownWrite_memOk
    | with_reducible apply clearFlags_memOk
    | with_reducible apply outOk_next
    | split

theorem execCaptureEmpty_memOk : ∀ x0 x1 x2 x3, State.MemOk x3 → OutOk (execCaptureEmpty x0 x1 x2 x3) := by
  intro x0 x1 x2 x3 h0
  unfold execCaptureEmpty
  repeat' first
    | with_reducible assumption
    | with_reducible intro _
    | (extract_lets +onlyGivenNames x; clear_value x)
    | with_reducible apply ownWrite_memOk
    | with_reducible apply writeEmpty_memOk
    | with_reducible apply outOk_next
    | split

theorem execHighWaterReset_memOk : ∀ x0 x1 x2 x3, State.MemOk x3 → OutOk (execHighWaterReset x0 x1 x2 x3) := by
  intro x0 x1 x2 x3 h0
  unfold execHighWaterReset
  repeat' first
    | with_reducible assumption
    | with_reducible intro _
    | (extract_lets +onlyGivenNames x; clear_value x)
    | with_reducible apply ownWrite_memOk
    | with_reducible apply resetHighWater_memOk
    | with_reducible apply outOk_next
    | split

end Sys2Proof.Machine
end

