-- ==== Sys2Proof/Laws/KeepsAelif.lean ====
section
/-! SUPPORT. The operations of Machine/Aelif.lean keep every memory in canonical form: one lemma for each. -/

namespace Sys2Proof.Machine

theorem setPort_memOk : ∀ x0 x1 x2, State.MemOk x0 → State.MemOk (setPort x0 x1 x2) := by
  intro x0 x1 x2 h0
  unfold setPort
  repeat' first
    | with_reducible assumption
    | (extract_lets +onlyGivenNames x; clear_value x)
    | (with_reducible refine memOk_mk ?_; with_reducible refine memOk_to ?_)

theorem planEffect_memOk : ∀ x0 x1, State.MemOk x0 → State.MemOk (planEffect x0 x1) := by
  intro x0 x1 h0
  unfold planEffect
  repeat' first
    | with_reducible assumption
    | with_reducible apply setN_memOk
    | with_reducible apply setDom_memOk

theorem execLinkPlan_memOk : ∀ x0 x1, State.MemOk x1 → OutOk (execLinkPlan x0 x1) := by
  intro x0 x1 h0
  unfold execLinkPlan
  repeat' first
    | with_reducible assumption
    | with_reducible intro _
    | with_reducible apply ownWriteDom_memOk
    | with_reducible apply planEffect_memOk
    | with_reducible apply outOk_next

theorem refreshDiscovery_memOk : ∀ x0, State.MemOk x0 → State.MemOk (refreshDiscovery x0) := by
  intro x0 h0
  unfold refreshDiscovery
  repeat' first
    | with_reducible assumption
    | (extract_lets +onlyGivenNames x; refine memOk_cut x ?_ ?_ <;> [(dsimp only [x]; clear x); (clear_value x; intro _)])
    | with_reducible apply setN_memOk

theorem beginDiscovery_memOk : ∀ x0, State.MemOk x0 → State.MemOk (beginDiscovery x0) := by
  intro x0 h0
  unfold beginDiscovery
  repeat' first
    | with_reducible assumption
    | (extract_lets +onlyGivenNames x; refine memOk_cut x ?_ ?_ <;> [(dsimp only [x]; clear x); (clear_value x; intro _)])
    | (extract_lets +onlyGivenNames x; clear_value x)
    | with_reducible apply setN_memOk
    | split
    | (with_reducible refine memOk_mk ?_; with_reducible refine memOk_to ?_)

theorem sendFrame_memOk : ∀ x0 x1 x2, State.MemOk x0 → State.MemOk (sendFrame x0 x1 x2) := by
  intro x0 x1 x2 h0
  unfold sendFrame
  repeat' first
    | with_reducible assumption
    | (extract_lets +onlyGivenNames x; clear_value x)
    | with_reducible apply emit_memOk
    | with_reducible apply setPort_memOk

theorem sendControl_memOk : ∀ x0 x1, State.MemOk x0 → State.MemOk (sendControl x0 x1) := by
  intro x0 x1 h0
  unfold sendControl
  repeat' first
    | with_reducible assumption
    | with_reducible intro _
    | with_reducible apply sendFrame_memOk

theorem freeFlits_memOk : ∀ x0 x1, State.MemOk x0 → State.MemOk (freeFlits x0 x1) := by
  intro x0 x1 h0
  unfold freeFlits
  repeat' first
    | with_reducible assumption
    | with_reducible intro _
    | (extract_lets +onlyGivenNames x; clear_value x)
    | with_reducible apply hf
    | with_reducible apply setPort_memOk
    | split

theorem sendNext_memOk : ∀ x0 x1, State.MemOk x0 → State.MemOk (sendNext x0 x1) := by
  intro x0 x1 h0
  unfold sendNext
  repeat' first
    | with_reducible assumption
    | with_reducible intro _
    | (extract_lets +onlyGivenNames x; clear_value x)
    | with_reducible apply hf
    | with_reducible apply sendFrame_memOk
    | with_reducible apply freeFlits_memOk
    | with_reducible apply addN_memOk
    | with_reducible apply setPort_memOk
    | split

theorem sendAll_memOk (s : State) (p n : Nat) (h : s.MemOk) : (sendAll s p n).MemOk := by
  induction n generalizing s with
  | zero => exact h
  | succ n ih => exact ih _ (sendNext_memOk s p h)

theorem pumpDir_memOk : ∀ x0 x1, State.MemOk x0 → State.MemOk (pumpDir x0 x1) := by
  intro x0 x1 h0
  unfold pumpDir
  repeat' first
    | with_reducible assumption
    | with_reducible apply sendAll_memOk
    | (with_reducible apply memOk_foldl; intro _ _ _)

theorem replayPort_memOk : ∀ x0 x1, State.MemOk x0 → State.MemOk (replayPort x0 x1) := by
  intro x0 x1 h0
  unfold replayPort
  repeat' first
    | with_reducible assumption
    | (extract_lets +onlyGivenNames x; refine memOk_cut x ?_ ?_ <;> [(dsimp only [x]; clear x); (clear_value x; intro _)])
    | (extract_lets +onlyGivenNames x; clear_value x)
    | with_reducible apply raise_memOk
    | with_reducible apply addN_memOk
    | with_reducible apply sendFrame_memOk
    | (with_reducible apply memOk_foldl; intro _ _ _)
    | split

theorem ethEnqueue_memOk : ∀ x0 x1 x2 x3, State.MemOk x0 → State.MemOk (ethEnqueue x0 x1 x2 x3) := by
  intro x0 x1 x2 x3 h0
  unfold ethEnqueue
  repeat' first
    | with_reducible assumption
    | (extract_lets +onlyGivenNames x; clear_value x)
    | (with_reducible refine memOk_mk ?_; with_reducible refine memOk_to ?_)

theorem crescentInject_memOk : ∀ x0 x1 x2 x3, State.MemOk x0 → State.MemOk (crescentInject x0 x1 x2 x3) := by
  intro x0 x1 x2 x3 h0
  unfold crescentInject
  repeat' first
    | with_reducible assumption
    | with_reducible intro _
    | with_reducible apply injectAt_memOk
    | split

theorem landPacket_memOk : ∀ x0 x1, State.MemOk x0 → State.MemOk (landPacket x0 x1) := by
  intro x0 x1 h0
  unfold landPacket
  repeat' first
    | with_reducible assumption
    | with_reducible intro _
    | (extract_lets +onlyGivenNames x; with_reducible refine memOk_cut x ?_ ?_ <;> [(dsimp only [x]; clear x); (clear_value x; intro _)])
    | (extract_lets +onlyGivenNames x; clear_value x)
    | with_reducible apply hf
    | with_reducible apply freeFlits_memOk
    | with_reducible apply crescentInject_memOk
    | (with_reducible apply memOk_foldl; intro _ _ _)
    | (with_reducible apply memOk_foldl_fst; intro _ _ _)
    | (with_reducible apply coreOk_foldl; intro _ _ _)
    | split

theorem holdFrames_memOk : ∀ x0 x1 x2, State.MemOk x0 → State.MemOk (holdFrames x0 x1 x2) := by
  intro x0 x1 x2 h0
  unfold holdFrames
  repeat' first
    | with_reducible assumption
    | (extract_lets +onlyGivenNames x; clear_value x)
    | (with_reducible refine memOk_mk ?_; with_reducible refine memOk_to ?_)

theorem enqueue_memOk : ∀ x0 x1 x2, State.MemOk x0 → State.MemOk (enqueue x0 x1 x2) := by
  intro x0 x1 x2 h0
  unfold enqueue
  repeat' first
    | with_reducible assumption
    | with_reducible intro _
    | (extract_lets +onlyGivenNames x; clear_value x)
    | with_reducible apply hf
    | with_reducible apply setPort_memOk

theorem leaveBy_memOk : ∀ x0 x1 x2, State.MemOk x0 → State.MemOk (leaveBy x0 x1 x2) := by
  intro x0 x1 x2 h0
  unfold leaveBy
  repeat' first
    | with_reducible assumption
    | with_reducible intro _
    | (extract_lets +onlyGivenNames x; clear_value x)
    | with_reducible apply hf
    | with_reducible apply freeFlits_memOk
    | with_reducible apply ethEnqueue_memOk
    | with_reducible apply pumpDir_memOk
    | with_reducible apply enqueue_memOk
    | with_reducible apply holdFrames_memOk
    | (with_reducible apply memOk_foldl; intro _ _ _)
    | (with_reducible apply memOk_foldl_fst; intro _ _ _)
    | (with_reducible apply coreOk_foldl; intro _ _ _)
    | split

theorem routeFrames_memOk (s : State) (n : Nat) (fs : List QFrame) (h : s.MemOk) : (routeFrames s n fs).MemOk := by
  induction n generalizing fs with
  | zero => exact holdFrames_memOk _ _ _ h
  | succ n ih =>
    unfold routeFrames
    split
    · exact h
    · split
      · exact landPacket_memOk _ _ h
      · split
        · dsimp only
          split
          · exact holdFrames_memOk _ _ _ h
          · exact ih _
        · exact leaveBy_memOk _ _ _ h

theorem departPacket_memOk : ∀ x0 x1 x2 x3, State.MemOk x0 → State.MemOk (departPacket x0 x1 x2 x3) := by
  intro x0 x1 x2 x3 h0
  unfold departPacket
  repeat' first
    | with_reducible assumption
    | with_reducible intro _
    | (extract_lets +onlyGivenNames x; clear_value x)
    | with_reducible apply hf
    | with_reducible apply routeFrames_memOk

theorem releaseHeld_memOk : ∀ x0, State.MemOk x0 → State.MemOk (releaseHeld x0) := by
  intro x0 h0
  unfold releaseHeld
  repeat' first
    | with_reducible assumption
    | with_reducible intro _
    | (extract_lets +onlyGivenNames x; with_reducible refine memOk_cut x ?_ ?_ <;> [(dsimp only [x]; clear x); (clear_value x; intro _)])
    | (extract_lets +onlyGivenNames x; clear_value x)
    | with_reducible apply hf
    | with_reducible apply routeFrames_memOk
    | (with_reducible apply memOk_foldl; intro _ _ _)
    | (with_reducible apply memOk_foldl_fst; intro _ _ _)
    | (with_reducible apply coreOk_foldl; intro _ _ _)
    | split
    | with_reducible refine fst_state_eq (by with_reducible assumption) ?_
    | with_reducible refine snd_state_eq (by with_reducible assumption) ?_
    | with_reducible refine snd_core_eq (by with_reducible assumption) ?_
    | (with_reducible refine memOk_mk ?_; with_reducible refine memOk_to ?_)

theorem takeAcks_memOk : ∀ x0 x1 x2, State.MemOk x0 → State.MemOk (takeAcks x0 x1 x2) := by
  intro x0 x1 x2 h0
  unfold takeAcks
  repeat' first
    | with_reducible assumption
    | (extract_lets +onlyGivenNames x; clear_value x)
    | with_reducible apply setPort_memOk

theorem retrain_memOk : ∀ x0 x1, State.MemOk x0 → State.MemOk (retrain x0 x1) := by
  intro x0 x1 h0
  unfold retrain
  repeat' first
    | with_reducible assumption
    | (extract_lets +onlyGivenNames x; refine memOk_cut x ?_ ?_ <;> [(dsimp only [x]; clear x); (clear_value x; intro _)])
    | (extract_lets +onlyGivenNames x; clear_value x)
    | with_reducible apply setPort_memOk
    | with_reducible apply refreshDiscovery_memOk
    | with_reducible apply setN_memOk
    | with_reducible apply raise_memOk

theorem answerAcks_memOk : ∀ x0 x1 x2, State.MemOk x0 → State.MemOk (answerAcks x0 x1 x2) := by
  intro x0 x1 x2 h0
  unfold answerAcks
  repeat' first
    | with_reducible assumption
    | (extract_lets +onlyGivenNames x; refine memOk_cut x ?_ ?_ <;> [(dsimp only [x]; clear x); (clear_value x; intro _)])
    | with_reducible apply retrain_memOk
    | with_reducible apply replayPort_memOk
    | with_reducible apply pumpDir_memOk
    | split

theorem countFec_memOk : ∀ x0 x1 x2, State.MemOk x0 → State.MemOk (countFec x0 x1 x2) := by
  intro x0 x1 x2 h0
  unfold countFec
  repeat' first
    | with_reducible assumption
    | with_reducible intro _
    | with_reducible apply addN_memOk

theorem rejectFrame_memOk : ∀ x0 x1, State.MemOk x0 → State.MemOk (rejectFrame x0 x1) := by
  intro x0 x1 h0
  unfold rejectFrame
  repeat' first
    | with_reducible assumption
    | (extract_lets +onlyGivenNames x; clear_value x)
    | with_reducible apply sendControl_memOk
    | with_reducible apply setPort_memOk

theorem dropPartial_memOk : ∀ x0 x1 x2, State.MemOk x0 → State.MemOk (dropPartial x0 x1 x2) := by
  intro x0 x1 x2 h0
  unfold dropPartial
  repeat' first
    | with_reducible assumption
    | with_reducible intro _
    | (extract_lets +onlyGivenNames x; clear_value x)
    | with_reducible apply hf
    | with_reducible apply setPort_memOk

theorem crossFrame_memOk : ∀ x0 x1 x2, State.MemOk x0 → State.MemOk (crossFrame x0 x1 x2) := by
  intro x0 x1 x2 h0
  unfold crossFrame
  repeat' first
    | with_reducible assumption
    | with_reducible intro _
    | (extract_lets +onlyGivenNames x; with_reducible refine memOk_cut x ?_ ?_ <;> [(dsimp only [x]; clear x); (clear_value x; intro _)])
    | (extract_lets +onlyGivenNames x; clear_value x)
    | with_reducible apply hf
    | with_reducible apply dropPartial_memOk
    | with_reducible apply setPort_memOk
    | with_reducible apply routeFrames_memOk
    | split

theorem acceptFrame_memOk : ∀ x0 x1 x2, State.MemOk x0 → State.MemOk (acceptFrame x0 x1 x2) := by
  intro x0 x1 x2 h0
  unfold acceptFrame
  repeat' first
    | with_reducible assumption
    | (extract_lets +onlyGivenNames x; refine memOk_cut x ?_ ?_ <;> [(dsimp only [x]; clear x); (clear_value x; intro _)])
    | (extract_lets +onlyGivenNames x; clear_value x)
    | with_reducible apply setPort_memOk
    | with_reducible apply sendControl_memOk
    | with_reducible apply crossFrame_memOk
    | with_reducible apply addN_memOk

theorem execDataFrameReceive_memOk : ∀ x0 x1 x2, State.MemOk x2 → OutOk (execDataFrameReceive x0 x1 x2) := by
  intro x0 x1 x2 h0
  unfold execDataFrameReceive
  repeat' first
    | with_reducible assumption
    | (extract_lets +onlyGivenNames x; refine memOk_cut x ?_ ?_ <;> [(dsimp only [x]; clear x); (clear_value x; intro _)])
    | with_reducible apply countFec_memOk
    | with_reducible apply rejectFrame_memOk
    | with_reducible apply takeAcks_memOk
    | with_reducible apply acceptFrame_memOk
    | with_reducible apply answerAcks_memOk
    | with_reducible apply outOk_next
    | split

theorem execControlFrameReceive_memOk : ∀ x0 x1 x2, State.MemOk x2 → OutOk (execControlFrameReceive x0 x1 x2) := by
  intro x0 x1 x2 h0
  unfold execControlFrameReceive
  repeat' first
    | with_reducible assumption
    | (extract_lets +onlyGivenNames x; refine memOk_cut x ?_ ?_ <;> [(dsimp only [x]; clear x); (clear_value x; intro _)])
    | with_reducible apply countFec_memOk
    | with_reducible apply answerAcks_memOk
    | with_reducible apply takeAcks_memOk
    | with_reducible apply outOk_next
    | split

theorem execAelifReplayTimeout_memOk : ∀ x0 x1, State.MemOk x1 → OutOk (execAelifReplayTimeout x0 x1) := by
  intro x0 x1 h0
  unfold execAelifReplayTimeout
  repeat' first
    | with_reducible assumption
    | with_reducible apply replayPort_memOk
    | with_reducible apply outOk_next
    | split

theorem execLossOfLock_memOk : ∀ x0 x1, State.MemOk x1 → OutOk (execLossOfLock x0 x1) := by
  intro x0 x1 h0
  unfold execLossOfLock
  repeat' first
    | with_reducible assumption
    | (extract_lets +onlyGivenNames x; clear_value x)
    | with_reducible apply retrain_memOk
    | with_reducible apply outOk_next
    | split

theorem resumeFrames_memOk : ∀ x0 x1 x2, State.MemOk x0 → State.MemOk (resumeFrames x0 x1 x2) := by
  intro x0 x1 x2 h0
  unfold resumeFrames
  repeat' first
    | with_reducible assumption
    | with_reducible intro _
    | (extract_lets +onlyGivenNames x; with_reducible refine memOk_cut x ?_ ?_ <;> [(dsimp only [x]; clear x); (clear_value x; intro _)])
    | (extract_lets +onlyGivenNames x; with_reducible refine funOk_cut x ?_ ?_ <;> [(dsimp only [x]; clear x); (clear_value x; intro hf)])
    | (extract_lets +onlyGivenNames x; clear_value x)
    | with_reducible apply hf
    | with_reducible apply setPort_memOk
    | with_reducible apply enqueue_memOk
    | with_reducible apply pumpDir_memOk
    | with_reducible apply raise_memOk
    | (with_reducible apply memOk_foldl; intro _ _ _)
    | (with_reducible apply memOk_foldl_fst; intro _ _ _)
    | (with_reducible apply coreOk_foldl; intro _ _ _)
    | split

theorem askPeer_memOk : ∀ x0 x1, State.MemOk x0 → State.MemOk (askPeer x0 x1) := by
  intro x0 x1 h0
  unfold askPeer
  repeat' first
    | with_reducible assumption
    | with_reducible intro _
    | with_reducible apply emit_memOk
    | split

theorem execPortDown_memOk : ∀ x0 x1 x2, State.MemOk x2 → OutOk (execPortDown x0 x1 x2) := by
  intro x0 x1 x2 h0
  unfold execPortDown
  repeat' first
    | with_reducible assumption
    | with_reducible intro _
    | (extract_lets +onlyGivenNames x; with_reducible refine memOk_cut x ?_ ?_ <;> [(dsimp only [x]; clear x); (clear_value x; intro _)])
    | (extract_lets +onlyGivenNames x; clear_value x)
    | with_reducible apply hf
    | with_reducible apply setN_memOk
    | with_reducible apply setPort_memOk
    | with_reducible apply raise_memOk
    | with_reducible apply refreshDiscovery_memOk
    | with_reducible apply resumeFrames_memOk
    | with_reducible apply askPeer_memOk
    | with_reducible apply outOk_next
    | split

theorem execLastFrameSeqRequest_memOk : ∀ x0 x1 x2, State.MemOk x2 → OutOk (execLastFrameSeqRequest x0 x1 x2) := by
  intro x0 x1 x2 h0
  unfold execLastFrameSeqRequest
  repeat' first
    | with_reducible assumption
    | with_reducible apply emit_memOk
    | with_reducible apply outOk_next
    | split

theorem portEnableEffect_memOk : ∀ x0 x1 x2, State.MemOk x1 → State.MemOk (portEnableEffect x0 x1 x2) := by
  intro x0 x1 x2 h0
  unfold portEnableEffect
  repeat' first
    | with_reducible assumption
    | (extract_lets +onlyGivenNames x; refine memOk_cut x ?_ ?_ <;> [(dsimp only [x]; clear x); (clear_value x; intro _)])
    | (extract_lets +onlyGivenNames x; clear_value x)
    | with_reducible apply setN_memOk
    | with_reducible apply refreshDiscovery_memOk
    | with_reducible apply setPort_memOk
    | split

theorem execPortEnable_memOk : ∀ x0 x1 x2, State.MemOk x2 → OutOk (execPortEnable x0 x1 x2) := by
  intro x0 x1 x2 h0
  unfold execPortEnable
  repeat' first
    | with_reducible assumption
    | with_reducible intro _
    | with_reducible apply ownWrite_memOk
    | with_reducible apply portEnableEffect_memOk
    | with_reducible apply outOk_next
    | split

theorem execSignpostSend_memOk : ∀ x0 x1, State.MemOk x1 → OutOk (execSignpostSend x0 x1) := by
  intro x0 x1 h0
  unfold execSignpostSend
  repeat' first
    | with_reducible assumption
    | with_reducible intro _
    | with_reducible apply sendFrame_memOk
    | with_reducible apply outOk_next
    | split

theorem settlePort_memOk : ∀ x0 x1 x2, State.MemOk x0 → State.MemOk (settlePort x0 x1 x2) := by
  intro x0 x1 x2 h0
  unfold settlePort
  repeat' first
    | with_reducible assumption
    | with_reducible intro _
    | (extract_lets +onlyGivenNames x; with_reducible refine memOk_cut x ?_ ?_ <;> [(dsimp only [x]; clear x); (clear_value x; intro _)])
    | (extract_lets +onlyGivenNames x; clear_value x)
    | with_reducible apply hf
    | with_reducible apply setN_memOk
    | with_reducible apply raise_memOk
    | split

theorem classifyPort_memOk : ∀ x0 x1, State.MemOk x0 → State.MemOk (classifyPort x0 x1) := by
  intro x0 x1 h0
  unfold classifyPort
  repeat' first
    | with_reducible assumption
    | with_reducible intro _
    | (extract_lets +onlyGivenNames x; with_reducible refine memOk_cut x ?_ ?_ <;> [(dsimp only [x]; clear x); (clear_value x; intro _)])
    | (extract_lets +onlyGivenNames x; clear_value x)
    | with_reducible apply hf
    | with_reducible apply setN_memOk
    | with_reducible apply settlePort_memOk
    | (with_reducible apply memOk_foldl; intro _ _ _)
    | (with_reducible apply memOk_foldl_fst; intro _ _ _)
    | (with_reducible apply coreOk_foldl; intro _ _ _)
    | split

theorem presentAgain_memOk : ∀ x0 x1, State.MemOk x0 → State.MemOk (presentAgain x0 x1) := by
  intro x0 x1 h0
  unfold presentAgain
  repeat' first
    | with_reducible assumption
    | (extract_lets +onlyGivenNames x; clear_value x)
    | split
    | (with_reducible refine memOk_mk ?_; with_reducible refine memOk_to ?_)

theorem takeSignpost_memOk : ∀ x0 x1 x2, State.MemOk x0 → State.MemOk (takeSignpost x0 x1 x2) := by
  intro x0 x1 x2 h0
  unfold takeSignpost
  repeat' first
    | with_reducible assumption
    | with_reducible intro _
    | (extract_lets +onlyGivenNames x; with_reducible refine memOk_cut x ?_ ?_ <;> [(dsimp only [x]; clear x); (clear_value x; intro _)])
    | (extract_lets +onlyGivenNames x; clear_value x)
    | with_reducible apply hf
    | with_reducible apply setDom_memOk
    | with_reducible apply setPort_memOk
    | with_reducible apply raise_memOk
    | with_reducible apply setN_memOk
    | with_reducible apply refreshDiscovery_memOk
    | with_reducible apply logEvent_memOk
    | with_reducible apply pumpDir_memOk
    | with_reducible apply presentAgain_memOk
    | with_reducible apply classifyPort_memOk
    | split

theorem execSignpostReceive_memOk : ∀ x0 x1 x2, State.MemOk x2 → OutOk (execSignpostReceive x0 x1 x2) := by
  intro x0 x1 x2 h0
  unfold execSignpostReceive
  repeat' first
    | with_reducible assumption
    | with_reducible intro _
    | (extract_lets +onlyGivenNames x; with_reducible refine memOk_cut x ?_ ?_ <;> [(dsimp only [x]; clear x); (clear_value x; intro _)])
    | (extract_lets +onlyGivenNames x; clear_value x)
    | with_reducible apply hf
    | with_reducible apply countFec_memOk
    | with_reducible apply answerAcks_memOk
    | with_reducible apply takeSignpost_memOk
    | with_reducible apply takeAcks_memOk
    | with_reducible apply outOk_next
    | split

theorem reclassify_memOk : ∀ x0 x1, State.MemOk x0 → State.MemOk (reclassify x0 x1) := by
  intro x0 x1 h0
  unfold reclassify
  repeat' first
    | with_reducible assumption
    | with_reducible intro _
    | (extract_lets +onlyGivenNames x; clear_value x)
    | with_reducible apply hf
    | with_reducible apply dupRoles_memOk
    | with_reducible apply classifyPort_memOk
    | (with_reducible apply memOk_foldl; intro _ _ _)
    | split

theorem forgetBuffer_memOk : ∀ x0 x1, State.MemOk x0 → State.MemOk (forgetBuffer x0 x1) := by
  intro x0 x1 h0
  unfold forgetBuffer
  repeat' first
    | with_reducible assumption
    | with_reducible intro _
    | (extract_lets +onlyGivenNames x; clear_value x)
    | with_reducible apply hf
    | split
    | with_reducible refine fst_state_eq (by with_reducible assumption) ?_
    | with_reducible refine snd_state_eq (by with_reducible assumption) ?_
    | with_reducible refine snd_core_eq (by with_reducible assumption) ?_
    | (with_reducible refine memOk_mk ?_; with_reducible refine memOk_to ?_)

theorem trainPort_memOk : ∀ x0 x1 x2 x3, State.MemOk x0 → State.MemOk (trainPort x0 x1 x2 x3) := by
  intro x0 x1 x2 x3 h0
  unfold trainPort
  repeat' first
    | with_reducible assumption
    | with_reducible intro _
    | (extract_lets +onlyGivenNames x; with_reducible refine memOk_cut x ?_ ?_ <;> [(dsimp only [x]; clear x); (clear_value x; intro _)])
    | (extract_lets +onlyGivenNames x; clear_value x)
    | with_reducible apply hf
    | with_reducible apply forgetBuffer_memOk
    | with_reducible apply reclassify_memOk
    | with_reducible apply beginDiscovery_memOk
    | with_reducible apply setN_memOk
    | with_reducible apply setPort_memOk
    | with_reducible apply classifyPort_memOk
    | with_reducible apply pumpDir_memOk
    | with_reducible apply refreshDiscovery_memOk
    | split

theorem execPortTrained_memOk : ∀ x0 x1 x2, State.MemOk x2 → OutOk (execPortTrained x0 x1 x2) := by
  intro x0 x1 x2 h0
  unfold execPortTrained
  repeat' first
    | with_reducible assumption
    | with_reducible intro _
    | with_reducible apply trainPort_memOk
    | with_reducible apply outOk_next

theorem execNeighbourAbsent_memOk : ∀ x0 x1, State.MemOk x1 → OutOk (execNeighbourAbsent x0 x1) := by
  intro x0 x1 h0
  unfold execNeighbourAbsent
  repeat' first
    | with_reducible assumption
    | (extract_lets +onlyGivenNames x; refine memOk_cut x ?_ ?_ <;> [(dsimp only [x]; clear x); (clear_value x; intro _)])
    | (extract_lets +onlyGivenNames x; clear_value x)
    | with_reducible apply setN_memOk
    | with_reducible apply outOk_next
    | split
    | (with_reducible refine memOk_mk ?_; with_reducible refine memOk_to ?_)

theorem execSubstituteTable_memOk : ∀ x0 x1, State.MemOk x1 → OutOk (execSubstituteTable x0 x1) := by
  intro x0 x1 h0
  unfold execSubstituteTable
  repeat' first
    | with_reducible assumption
    | with_reducible intro _
    | with_reducible apply ownWriteDom_memOk
    | with_reducible apply releaseHeld_memOk
    | with_reducible apply setDom_memOk
    | with_reducible apply outOk_next

theorem dropReplay_memOk : ∀ x0 x1, State.MemOk x0 → State.MemOk (dropReplay x0 x1) := by
  intro x0 x1 h0
  unfold dropReplay
  repeat' first
    | with_reducible assumption
    | (extract_lets +onlyGivenNames x; clear_value x)
    | with_reducible apply holdFrames_memOk
    | with_reducible apply setPort_memOk
    | with_reducible apply addN_memOk

theorem applyBridges_memOk : ∀ x0, State.MemOk x0 → State.MemOk (applyBridges x0) := by
  intro x0 h0
  unfold applyBridges
  repeat' first
    | with_reducible assumption
    | (extract_lets +onlyGivenNames x; refine memOk_cut x ?_ ?_ <;> [(dsimp only [x]; clear x); (clear_value x; intro _)])
    | (extract_lets +onlyGivenNames x; clear_value x)
    | with_reducible apply setN_memOk
    | with_reducible apply dropReplay_memOk
    | (with_reducible apply memOk_foldl; intro _ _ _)

theorem reassign_memOk : ∀ x0 x1, State.MemOk x0 → State.MemOk (reassign x0 x1) := by
  intro x0 x1 h0
  unfold reassign
  repeat' first
    | with_reducible assumption
    | with_reducible intro _
    | (extract_lets +onlyGivenNames x; clear_value x)
    | with_reducible apply hf
    | with_reducible apply enqueue_memOk
    | with_reducible apply holdFrames_memOk
    | with_reducible apply setPort_memOk
    | (with_reducible apply memOk_foldl; intro _ _ _)
    | (with_reducible apply memOk_foldl_fst; intro _ _ _)
    | (with_reducible apply coreOk_foldl; intro _ _ _)
    | split

theorem assignPorts_memOk : ∀ x0, State.MemOk x0 → State.MemOk (assignPorts x0) := by
  intro x0 h0
  unfold assignPorts
  repeat' first
    | with_reducible assumption
    | with_reducible intro _
    | (extract_lets +onlyGivenNames x; with_reducible refine memOk_cut x ?_ ?_ <;> [(dsimp only [x]; clear x); (clear_value x; intro _)])
    | (extract_lets +onlyGivenNames x; clear_value x)
    | with_reducible apply hf
    | with_reducible apply reassign_memOk
    | (with_reducible apply memOk_foldl; intro _ _ _)
    | (with_reducible apply memOk_foldl_fst; intro _ _ _)
    | (with_reducible apply coreOk_foldl; intro _ _ _)
    | split
    | with_reducible refine fst_state_eq (by with_reducible assumption) ?_
    | with_reducible refine snd_state_eq (by with_reducible assumption) ?_
    | with_reducible refine snd_core_eq (by with_reducible assumption) ?_
    | (with_reducible refine memOk_mk ?_; with_reducible refine memOk_to ?_)

theorem idleControl_memOk : ∀ x0 x1, State.MemOk x0 → State.MemOk (idleControl x0 x1) := by
  intro x0 x1 h0
  unfold idleControl
  repeat' first
    | with_reducible assumption
    | with_reducible intro _
    | with_reducible apply sendControl_memOk
    | split

theorem linkBoundary_memOk : ∀ x0, State.MemOk x0 → State.MemOk (linkBoundary x0) := by
  intro x0 h0
  unfold linkBoundary
  repeat' first
    | with_reducible assumption
    | with_reducible intro _
    | with_reducible apply assignPorts_memOk
    | with_reducible apply applyBridges_memOk

theorem aelifBoundary_memOk : ∀ x0, State.MemOk x0 → State.MemOk (aelifBoundary x0) := by
  intro x0 h0
  unfold aelifBoundary
  repeat' first
    | with_reducible assumption
    | with_reducible intro _
    | (extract_lets +onlyGivenNames x; with_reducible refine memOk_cut x ?_ ?_ <;> [(dsimp only [x]; clear x); (clear_value x; intro _)])
    | (extract_lets +onlyGivenNames x; clear_value x)
    | with_reducible apply hf
    | with_reducible apply pumpDir_memOk
    | with_reducible apply releaseHeld_memOk
    | with_reducible apply refreshDiscovery_memOk
    | with_reducible apply idleControl_memOk
    | (with_reducible apply memOk_foldl; intro _ _ _)

end Sys2Proof.Machine
end

