-- ==== Sys2Proof/Laws/KeepsMesh.lean ====
section
/-! SUPPORT. The operations of Machine/Mesh.lean keep every memory in canonical form: one lemma for each. -/

namespace Sys2Proof.Machine

theorem setFifo_memOk : ∀ x0 x1 x2, State.MemOk x0 → State.MemOk (setFifo x0 x1 x2) := by
  intro x0 x1 x2 h0
  unfold setFifo
  repeat' first
    | with_reducible assumption
    | with_reducible intro _
    | split
    | (with_reducible refine memOk_mk ?_; with_reducible refine memOk_to ?_)

theorem markEntering_memOk : ∀ x0 x1 x2 x3, State.MemOk x0 → State.MemOk (markEntering x0 x1 x2 x3) := by
  intro x0 x1 x2 x3 h0
  unfold markEntering
  repeat' first
    | with_reducible assumption
    | with_reducible intro _
    | split
    | with_reducible refine fst_state_eq (by with_reducible assumption) ?_
    | with_reducible refine snd_state_eq (by with_reducible assumption) ?_
    | with_reducible refine snd_core_eq (by with_reducible assumption) ?_
    | (with_reducible refine memOk_mk ?_; with_reducible refine memOk_to ?_)

theorem drainFifo_memOk : ∀ x0 x1 x2 x3 x4, State.MemOk x0 → State.MemOk (drainFifo x0 x1 x2 x3 x4) := by
  intro x0 x1 x2 x3 x4 h0
  induction x4 generalizing x0 with
  | zero => exact h0
  | succ n ih =>
    unfold drainFifo
    split
    · exact h0
    · dsimp only
      split
      · exact h0
      · split
        · exact ih _ (enterLane_memOk _ _ _ _ (setFifo_memOk _ _ _ h0))
        · exact h0

theorem sendLink_memOk : ∀ x0 x1 x2 x3 x4, State.MemOk x0 → State.MemOk (sendLink x0 x1 x2 x3 x4) := by
  intro x0 x1 x2 x3 x4 h0
  unfold sendLink
  repeat' first
    | with_reducible assumption
    | with_reducible intro _
    | (extract_lets +onlyGivenNames x; clear_value x)
    | with_reducible apply drainFifo_memOk
    | with_reducible apply setFifo_memOk
    | with_reducible apply enterLane_memOk
    | split

theorem ejectVc0_memOk : ∀ x0 x1, State.MemOk x0 → State.MemOk (ejectVc0 x0 x1) := by
  intro x0 x1 h0
  unfold ejectVc0
  repeat' first
    | with_reducible assumption
    | with_reducible intro _
    | (extract_lets +onlyGivenNames x; with_reducible refine coreOk_cut x ?_ ?_ <;> [(dsimp only [x]; clear x); (clear_value x; intro _)])
    | (extract_lets +onlyGivenNames x; clear_value x)
    | with_reducible apply hf
    | with_reducible apply getCore_memOk
    | with_reducible apply emit_memOk
    | with_reducible apply setCore_memOk
    | (with_reducible apply memOk_foldl; intro _ _ _)
    | split
    | (with_reducible refine coreOk_mk ?_; with_reducible refine coreOk_to ?_)

theorem deliverCore_memOk : ∀ x0 x1 x2, State.MemOk x0 → State.MemOk (deliverCore x0 x1 x2) := by
  intro x0 x1 x2 h0
  unfold deliverCore
  repeat' first
    | with_reducible assumption
    | with_reducible intro _
    | (extract_lets +onlyGivenNames x; with_reducible refine coreOk_cut x ?_ ?_ <;> [(dsimp only [x]; clear x); (clear_value x; intro _)])
    | (extract_lets +onlyGivenNames x; clear_value x)
    | with_reducible apply getCore_memOk
    | with_reducible apply ejectVc0_memOk
    | with_reducible apply setCore_memOk
    | split
    | (with_reducible refine coreOk_mk ?_; with_reducible refine coreOk_to ?_)

theorem deliverEndpoint_memOk : ∀ x0 x1 x2 x3, State.MemOk x0 → State.MemOk (deliverEndpoint x0 x1 x2 x3) := by
  intro x0 x1 x2 x3 h0
  unfold deliverEndpoint
  repeat' first
    | with_reducible assumption
    | with_reducible intro _
    | with_reducible apply departPacket_memOk
    | with_reducible apply emit_memOk
    | split

theorem leaveMesh_memOk : ∀ x0 x1 x2 x3, State.MemOk x0 → State.MemOk (leaveMesh x0 x1 x2 x3) := by
  intro x0 x1 x2 x3 h0
  unfold leaveMesh
  repeat' first
    | with_reducible assumption
    | with_reducible intro _
    | (extract_lets +onlyGivenNames x; with_reducible refine memOk_cut x ?_ ?_ <;> [(dsimp only [x]; clear x); (clear_value x; intro _)])
    | (extract_lets +onlyGivenNames x; clear_value x)
    | with_reducible apply hf
    | with_reducible apply deliverEndpoint_memOk
    | split
    | with_reducible refine fst_state_eq (by with_reducible assumption) ?_
    | with_reducible refine snd_state_eq (by with_reducible assumption) ?_
    | with_reducible refine snd_core_eq (by with_reducible assumption) ?_
    | (with_reducible refine memOk_mk ?_; with_reducible refine memOk_to ?_)

theorem putOut_memOk : ∀ x0 x1 x2 x3, State.MemOk x0 → State.MemOk (putOut x0 x1 x2 x3) := by
  intro x0 x1 x2 x3 h0
  unfold putOut
  repeat' first
    | with_reducible assumption
    | with_reducible intro _
    | (extract_lets +onlyGivenNames x; clear_value x)
    | with_reducible apply hf
    | with_reducible apply deliverCore_memOk
    | with_reducible apply sendLink_memOk
    | with_reducible apply markEntering_memOk
    | with_reducible apply leaveMesh_memOk
    | split

theorem setOut_memOk : ∀ x0 x1 x2, State.MemOk x0 → State.MemOk (setOut x0 x1 x2) := by
  intro x0 x1 x2 h0
  unfold setOut
  repeat' first
    | with_reducible assumption
    | with_reducible intro _
    | split
    | (with_reducible refine memOk_mk ?_; with_reducible refine memOk_to ?_)

theorem granted_memOk : ∀ x0 x1 x2 x3 x4 x5, State.MemOk x0 → State.MemOk (granted x0 x1 x2 x3 x4 x5) := by
  intro x0 x1 x2 x3 x4 x5 h0
  unfold granted
  repeat' first
    | with_reducible assumption
    | with_reducible intro _
    | (extract_lets +onlyGivenNames x; clear_value x)
    | with_reducible apply hf
    | with_reducible apply setOut_memOk

theorem wireErrors_memOk : ∀ x0 x1 x2, State.MemOk x0 → State.MemOk ((wireErrors x0 x1 x2).1) := by
  intro x0 x1 x2 h0
  unfold wireErrors
  repeat' first
    | with_reducible assumption
    | with_reducible intro _
    | (extract_lets +onlyGivenNames x; with_reducible refine memOk_cut x ?_ ?_ <;> [(dsimp only [x]; clear x); (clear_value x; intro _)])
    | (extract_lets +onlyGivenNames x; clear_value x)
    | with_reducible apply hf
    | with_reducible apply raiseNow_memOk
    | with_reducible apply count64_memOk
    | (with_reducible apply memOk_foldl; intro _ _ _)
    | split

theorem moveCopy_memOk : ∀ x0 x1 x2 x3 x4, State.MemOk x0 → State.MemOk (moveCopy x0 x1 x2 x3 x4) := by
  intro x0 x1 x2 x3 x4 h0
  unfold moveCopy
  repeat' first
    | with_reducible assumption
    | with_reducible intro _
    | (extract_lets +onlyGivenNames x; with_reducible refine memOk_cut x ?_ ?_ <;> [(dsimp only [x]; clear x); (clear_value x; intro _)])
    | (extract_lets +onlyGivenNames x; with_reducible refine fstOk_cut x ?_ ?_ <;> [(dsimp only [x]; clear x); (clear_value x; intro _)])
    | (extract_lets +onlyGivenNames x; clear_value x)
    | with_reducible apply hf
    | with_reducible apply putOut_memOk
    | with_reducible apply wireErrors_memOk
    | with_reducible apply addN_memOk
    | split

theorem moveFront_memOk : ∀ x0 x1 x2 x3 x4 x5, State.MemOk x0 → State.MemOk (moveFront x0 x1 x2 x3 x4 x5) := by
  intro x0 x1 x2 x3 x4 x5 h0
  unfold moveFront
  repeat' first
    | with_reducible assumption
    | with_reducible intro _
    | (extract_lets +onlyGivenNames x; with_reducible refine memOk_cut x ?_ ?_ <;> [(dsimp only [x]; clear x); (clear_value x; intro _)])
    | (extract_lets +onlyGivenNames x; clear_value x)
    | with_reducible apply hf
    | with_reducible apply setLane_memOk
    | with_reducible apply moveCopy_memOk
    | with_reducible apply granted_memOk
    | with_reducible apply drainFifo_memOk
    | (with_reducible apply memOk_foldl; intro _ _ _)
    | (with_reducible apply memOk_foldl_fst; intro _ _ _)
    | (with_reducible apply coreOk_foldl; intro _ _ _)
    | split

theorem crossIn_memOk : ∀ x0 x1 x2 x3 x4, State.MemOk x0 → State.MemOk (crossIn x0 x1 x2 x3 x4) := by
  intro x0 x1 x2 x3 x4 h0
  unfold crossIn
  repeat' first
    | with_reducible assumption
    | with_reducible intro _
    | (extract_lets +onlyGivenNames x; with_reducible refine memOk_cut x ?_ ?_ <;> [(dsimp only [x]; clear x); (clear_value x; intro _)])
    | (extract_lets +onlyGivenNames x; with_reducible refine fstOk_cut x ?_ ?_ <;> [(dsimp only [x]; clear x); (clear_value x; intro _)])
    | (extract_lets +onlyGivenNames x; clear_value x)
    | with_reducible apply hf
    | with_reducible apply markEntering_memOk
    | with_reducible apply setWaiting_memOk
    | with_reducible apply wireErrors_memOk
    | with_reducible apply enterPort_memOk
    | split

theorem fillRouter_memOk : ∀ x0 x1, State.MemOk x0 → State.MemOk (fillRouter x0 x1) := by
  intro x0 x1 h0
  unfold fillRouter
  repeat' first
    | with_reducible assumption
    | with_reducible intro _
    | with_reducible apply fillLocal_memOk

theorem execPacketRoute_memOk : ∀ x0 x1 x2 x3 x4, State.MemOk x4 → OutOk (execPacketRoute x0 x1 x2 x3 x4) := by
  intro x0 x1 x2 x3 x4 h0
  unfold execPacketRoute
  repeat' first
    | with_reducible assumption
    | with_reducible intro _
    | (extract_lets +onlyGivenNames x; with_reducible refine memOk_cut x ?_ ?_ <;> [(dsimp only [x]; clear x); (clear_value x; intro _)])
    | (extract_lets +onlyGivenNames x; clear_value x)
    | with_reducible apply hf
    | with_reducible apply fillRouter_memOk
    | with_reducible apply crossIn_memOk
    | with_reducible apply moveFront_memOk
    | with_reducible apply outOk_next
    | split

end Sys2Proof.Machine
end

