-- ==== Sys2Proof/Laws/KeepsGrid.lean ====
section
/-! SUPPORT. The operations of Machine/Grid.lean keep every memory in canonical form: one lemma for each. -/

namespace Sys2Proof.Machine

theorem openRows_memOk : ∀ x0, State.MemOk x0 → State.MemOk (openRows x0) := by
  intro x0 h0
  unfold openRows
  repeat' first
    | with_reducible assumption
    | with_reducible intro _
    | with_reducible apply drainFifo_memOk
    | (with_reducible apply memOk_foldl; intro _ _ _)
    | split
    | (with_reducible refine memOk_mk ?_; with_reducible refine memOk_to ?_)

theorem noSpare_memOk : ∀ x0 x1 x2, State.MemOk x0 → State.MemOk (noSpare x0 x1 x2) := by
  intro x0 x1 x2 h0
  unfold noSpare
  repeat' first
    | with_reducible assumption
    | with_reducible intro _
    | (extract_lets +onlyGivenNames x; with_reducible refine memOk_cut x ?_ ?_ <;> [(dsimp only [x]; clear x); (clear_value x; intro _)])
    | (extract_lets +onlyGivenNames x; clear_value x)
    | with_reducible apply hf
    | with_reducible apply updateMap_memOk
    | with_reducible apply fieldLoss_memOk
    | with_reducible apply openRows_memOk
    | (with_reducible apply memOk_foldl; intro _ _ _)
    | (with_reducible apply memOk_foldl_fst; intro _ _ _)
    | (with_reducible apply coreOk_foldl; intro _ _ _)
    | split
    | with_reducible refine fst_state_eq (by with_reducible assumption) ?_
    | with_reducible refine snd_state_eq (by with_reducible assumption) ?_
    | with_reducible refine snd_core_eq (by with_reducible assumption) ?_
    | (with_reducible refine memOk_mk ?_; with_reducible refine memOk_to ?_)

theorem execCoreDead_memOk : ∀ x0 x1 x2, State.MemOk x2 → OutOk (execCoreDead x0 x1 x2) := by
  intro x0 x1 x2 h0
  unfold execCoreDead
  repeat' first
    | with_reducible assumption
    | with_reducible intro _
    | (extract_lets +onlyGivenNames x; with_reducible refine memOk_cut x ?_ ?_ <;> [(dsimp only [x]; clear x); (clear_value x; intro _)])
    | (extract_lets +onlyGivenNames x; with_reducible refine coreOk_cut x ?_ ?_ <;> [(dsimp only [x]; clear x); (clear_value x; intro _)])
    | (extract_lets +onlyGivenNames x; clear_value x)
    | with_reducible apply hf
    | with_reducible apply getCore_memOk
    | with_reducible apply setCore_memOk
    | with_reducible apply logEvent_memOk
    | with_reducible apply raiseNow_memOk
    | with_reducible apply noSpare_memOk
    | with_reducible apply outOk_next
    | split
    | with_reducible refine fst_state_eq (by with_reducible assumption) ?_
    | with_reducible refine snd_state_eq (by with_reducible assumption) ?_
    | with_reducible refine snd_core_eq (by with_reducible assumption) ?_
    | (with_reducible refine memOk_mk ?_; with_reducible refine memOk_to ?_)
    | (with_reducible refine coreOk_mk ?_; with_reducible refine coreOk_to ?_)

theorem detourRow_memOk : ∀ x0 x1, State.MemOk x0 → State.MemOk (detourRow x0 x1) := by
  intro x0 x1 h0
  unfold detourRow
  repeat' first
    | with_reducible assumption
    | with_reducible intro _
    | (extract_lets +onlyGivenNames x; with_reducible refine memOk_cut x ?_ ?_ <;> [(dsimp only [x]; clear x); (clear_value x; intro _)])
    | (extract_lets +onlyGivenNames x; clear_value x)
    | with_reducible apply hf
    | with_reducible apply raiseNow_memOk
    | with_reducible apply addN_memOk
    | with_reducible apply logEvent_memOk
    | with_reducible apply setCore_memOk
    | with_reducible apply getCore_memOk
    | with_reducible apply reloadCore_memOk
    | with_reducible apply coreDefault_memOk
    | (with_reducible apply memOk_foldl; intro _ _ _)
    | split
    | with_reducible refine fst_state_eq (by with_reducible assumption) ?_
    | with_reducible refine snd_state_eq (by with_reducible assumption) ?_
    | with_reducible refine snd_core_eq (by with_reducible assumption) ?_
    | (with_reducible refine memOk_mk ?_; with_reducible refine memOk_to ?_)
    | (with_reducible refine coreOk_mk ?_; with_reducible refine coreOk_to ?_)

theorem detourGo_memOk : ∀ x0, State.MemOk x0 → State.MemOk (detourGo x0) := by
  intro x0 h0
  unfold detourGo
  repeat' first
    | with_reducible assumption
    | with_reducible intro _
    | (extract_lets +onlyGivenNames x; with_reducible refine memOk_cut x ?_ ?_ <;> [(dsimp only [x]; clear x); (clear_value x; intro _)])
    | (extract_lets +onlyGivenNames x; clear_value x)
    | with_reducible apply detourRow_memOk
    | with_reducible apply openRows_memOk
    | (with_reducible apply memOk_foldl; intro _ _ _)
    | split
    | (with_reducible refine memOk_mk ?_; with_reducible refine memOk_to ?_)

theorem detourBegin_memOk : ∀ x0, State.MemOk x0 → State.MemOk (detourBegin x0) := by
  intro x0 h0
  unfold detourBegin
  repeat' first
    | with_reducible assumption
    | with_reducible intro _
    | (extract_lets +onlyGivenNames x; with_reducible refine memOk_cut x ?_ ?_ <;> [(dsimp only [x]; clear x); (clear_value x; intro _)])
    | (extract_lets +onlyGivenNames x; clear_value x)
    | with_reducible apply hf
    | with_reducible apply getCore_memOk
    | with_reducible apply abandon_memOk
    | with_reducible apply suspendAll_memOk
    | with_reducible apply updateMap_memOk
    | split
    | (with_reducible refine memOk_mk ?_; with_reducible refine memOk_to ?_)

theorem copyErrs_memOk : ∀ x0 x1, State.MemOk x0 → State.MemOk (copyErrs x0 x1) := by
  intro x0 x1 h0
  unfold copyErrs
  repeat' first
    | with_reducible assumption
    | with_reducible intro _
    | (extract_lets +onlyGivenNames x; with_reducible refine pairOk_cut x ?_ ?_ ?_ <;> [(dsimp only [x]; clear x); (dsimp only [x]; clear x); (clear_value x; intro _ _)])
    | (extract_lets +onlyGivenNames x; clear_value x)
    | with_reducible apply hf
    | with_reducible apply sramError_memOk1
    | with_reducible apply sramError_memOk2
    | with_reducible apply getCore_memOk
    | with_reducible apply setCore_memOk
    | with_reducible apply sramErrors_memOk1
    | with_reducible apply sramErrors_memOk2
    | (with_reducible apply memOk_foldl; intro _ _ _)
    | (with_reducible apply memOk_foldl_fst; intro _ _ _)
    | (with_reducible apply coreOk_foldl; intro _ _ _)
    | split

theorem detourOn_memOk : ∀ x0 x1, State.MemOk x1 → State.MemOk (detourOn x0 x1) := by
  intro x0 x1 h0
  unfold detourOn
  repeat' first
    | with_reducible assumption
    | with_reducible intro _
    | (extract_lets +onlyGivenNames x; clear_value x)
    | with_reducible apply hf
    | with_reducible apply detourGo_memOk
    | with_reducible apply copyErrs_memOk
    | with_reducible apply overrunCause_memOk
    | with_reducible apply contextErrs_memOk
    | (with_reducible apply memOk_foldl; intro _ _ _)
    | (with_reducible apply memOk_foldl_fst; intro _ _ _)
    | (with_reducible apply coreOk_foldl; intro _ _ _)
    | split

theorem execDetour_memOk : ∀ x0 x1, State.MemOk x1 → OutOk (execDetour x0 x1) := by
  intro x0 x1 h0
  unfold execDetour
  repeat' first
    | with_reducible assumption
    | with_reducible intro _
    | with_reducible apply detourOn_memOk
    | with_reducible apply detourBegin_memOk
    | with_reducible apply outOk_next
    | split

theorem execMicrobatchReplay_memOk : ∀ x0, State.MemOk x0 → OutOk (execMicrobatchReplay x0) := by
  intro x0 h0
  unfold execMicrobatchReplay
  repeat' first
    | with_reducible assumption
    | with_reducible intro _
    | with_reducible apply overrunCause_memOk
    | with_reducible apply replayNow_memOk
    | with_reducible apply outOk_next
    | split

theorem markEffect_memOk : ∀ x0 x1, State.MemOk x0 → State.MemOk (markEffect x0 x1) := by
  intro x0 x1 h0
  unfold markEffect
  repeat' first
    | with_reducible assumption
    | with_reducible apply updateMap_memOk
    | with_reducible apply setN_memOk

theorem execMarkCoreDefective_memOk : ∀ x0 x1, State.MemOk x1 → OutOk (execMarkCoreDefective x0 x1) := by
  intro x0 x1 h0
  unfold execMarkCoreDefective
  repeat' first
    | with_reducible assumption
    | with_reducible intro _
    | with_reducible apply ownWrite_memOk
    | with_reducible apply markEffect_memOk
    | with_reducible apply outOk_next

theorem releaseEffect_memOk : ∀ x0 x1, State.MemOk x0 → State.MemOk (releaseEffect x0 x1) := by
  intro x0 x1 h0
  unfold releaseEffect
  repeat' first
    | with_reducible assumption
    | (extract_lets +onlyGivenNames x; refine memOk_cut x ?_ ?_ <;> [(dsimp only [x]; clear x); (clear_value x; intro _)])
    | (extract_lets +onlyGivenNames x; clear_value x)
    | with_reducible apply setN_memOk
    | (with_reducible refine memOk_mk ?_; with_reducible refine memOk_to ?_)

theorem execReleaseFieldLoss_memOk : ∀ x0 x1, State.MemOk x1 → OutOk (execReleaseFieldLoss x0 x1) := by
  intro x0 x1 h0
  unfold execReleaseFieldLoss
  repeat' first
    | with_reducible assumption
    | with_reducible intro _
    | with_reducible apply ownWrite_memOk
    | with_reducible apply releaseEffect_memOk
    | with_reducible apply outOk_next

theorem excludeEffect_memOk : ∀ x0 x1, State.MemOk x0 → State.MemOk (excludeEffect x0 x1) := by
  intro x0 x1 h0
  unfold excludeEffect
  repeat' first
    | with_reducible assumption
    | (extract_lets +onlyGivenNames x; refine memOk_cut x ?_ ?_ <;> [(dsimp only [x]; clear x); (clear_value x; intro _)])
    | with_reducible apply setN_memOk
    | with_reducible apply updateMap_memOk
    | split

theorem execExcludeField_memOk : ∀ x0 x1, State.MemOk x1 → OutOk (execExcludeField x0 x1) := by
  intro x0 x1 h0
  unfold execExcludeField
  repeat' first
    | with_reducible assumption
    | with_reducible intro _
    | with_reducible apply ownWrite_memOk
    | with_reducible apply excludeEffect_memOk
    | with_reducible apply outOk_next

end Sys2Proof.Machine
end

