-- ==== Sys2Proof/Laws/KeepsStore.lean ====
section
/-! SUPPORT. The operations of Machine/Store.lean keep every memory in canonical form: one lemma for each. -/

namespace Sys2Proof.Machine

theorem stkWrite_memOk (s : State) (a : Nat) (bs : List Byte) (p : Bool) (h : s.MemOk) : (stkWrite s a bs p).MemOk :=
  ⟨h.1, memStore_wf _ _ _ h.2⟩

theorem stkWriteParts_memOk : ∀ x0 x1, State.MemOk x0 → State.MemOk (stkWriteParts x0 x1) :=
  fun _ ws h => ⟨h.1, imageLoad_wf ws _ h.2⟩

theorem retireFrame_memOk : ∀ x0 x1 x2, State.MemOk x0 → State.MemOk (retireFrame x0 x1 x2) := by
  intro x0 x1 x2 h0
  unfold retireFrame
  repeat' first
    | with_reducible assumption
    | with_reducible intro _
    | (extract_lets +onlyGivenNames x; with_reducible refine stacks_cut x ?_; dsimp only [x]; clear x)
    | (extract_lets +onlyGivenNames x; clear_value x)
    | with_reducible apply hf
    | with_reducible apply setN_memOk
    | with_reducible apply logEvent_memOk
    | with_reducible apply raise_memOk
    | split
    | with_reducible refine fst_state_eq (by with_reducible assumption) ?_
    | with_reducible refine snd_state_eq (by with_reducible assumption) ?_
    | with_reducible refine snd_core_eq (by with_reducible assumption) ?_
    | (with_reducible refine memOk_mk ?_; with_reducible refine memOk_to ?_)

theorem lineCorrected_memOk : ∀ x0 x1, State.MemOk x0 → State.MemOk (lineCorrected x0 x1) := by
  intro x0 x1 h0
  unfold lineCorrected
  repeat' first
    | with_reducible assumption
    | with_reducible intro _
    | (extract_lets +onlyGivenNames x; with_reducible refine memOk_cut x ?_ ?_ <;> [(dsimp only [x]; clear x); (clear_value x; intro _)])
    | (extract_lets +onlyGivenNames x; with_reducible refine stacks_cut x ?_; dsimp only [x]; clear x)
    | (extract_lets +onlyGivenNames x; clear_value x)
    | with_reducible apply raise_memOk
    | with_reducible apply count64_memOk
    | with_reducible apply retireFrame_memOk
    | split
    | (with_reducible refine memOk_mk ?_; with_reducible refine memOk_to ?_)

theorem lineUncorrected_memOk : ∀ x0 x1, State.MemOk x0 → State.MemOk (lineUncorrected x0 x1) := by
  intro x0 x1 h0
  unfold lineUncorrected
  repeat' first
    | with_reducible assumption
    | with_reducible intro _
    | (extract_lets +onlyGivenNames x; with_reducible refine memOk_cut x ?_ ?_ <;> [(dsimp only [x]; clear x); (clear_value x; intro _)])
    | (extract_lets +onlyGivenNames x; with_reducible refine stacks_cut x ?_; dsimp only [x]; clear x)
    | (extract_lets +onlyGivenNames x; clear_value x)
    | with_reducible apply raise_memOk
    | with_reducible apply count64_memOk
    | with_reducible apply retireFrame_memOk
    | split
    | (with_reducible refine memOk_mk ?_; with_reducible refine memOk_to ?_)

theorem onDieReports_memOk : ∀ x0 x1 x2, State.MemOk x0 → State.MemOk (onDieReports x0 x1 x2) := by
  intro x0 x1 x2 h0
  unfold onDieReports
  repeat' first
    | with_reducible assumption
    | with_reducible intro _
    | with_reducible apply raise_memOk
    | with_reducible apply addN_memOk
    | split

theorem meetErrors_memOk : ∀ x0 x1 x2, State.MemOk x0 → State.MemOk (meetErrors x0 x1 x2) := by
  intro x0 x1 x2 h0
  unfold meetErrors
  repeat' first
    | with_reducible assumption
    | with_reducible intro _
    | (extract_lets +onlyGivenNames x; with_reducible refine memOk_cut x ?_ ?_ <;> [(dsimp only [x]; clear x); (clear_value x; intro _)])
    | (extract_lets +onlyGivenNames x; clear_value x)
    | with_reducible apply lineCorrected_memOk
    | with_reducible apply onDieReports_memOk
    | with_reducible apply lineUncorrected_memOk
    | (with_reducible apply memOk_foldl; intro _ _ _)

theorem meetErrorsOf_memOk : ∀ x0 x1 x2, State.MemOk x0 → State.MemOk (meetErrorsOf x0 x1 x2) := by
  intro x0 x1 x2 h0
  unfold meetErrorsOf
  repeat' first
    | with_reducible assumption
    | with_reducible intro _
    | with_reducible apply meetErrors_memOk
    | (with_reducible apply memOk_foldl; intro _ _ _)
    | split

theorem metStacks_memOk : ∀ x0 x1 x2, (∀ s, State.MemOk s → State.MemOk (x1 s)) → State.MemOk x2 → State.MemOk (metStacks x0 x1 x2) := by
  intro x0 x1 x2 h0 h1
  unfold metStacks
  repeat' first
    | with_reducible assumption
    | with_reducible intro _
    | with_reducible apply meetErrorsOf_memOk
    | with_reducible apply h0

theorem writePtr_memOk : ∀ x0 x1 x2 x3, State.MemOk x0 → State.MemOk (writePtr x0 x1 x2 x3) := by
  intro x0 x1 x2 x3 h0
  unfold writePtr
  repeat' first
    | with_reducible assumption
    | with_reducible apply stkWrite_memOk

theorem writeRest_memOk : ∀ x0 x1 x2 x3 x4, State.MemOk x1 → State.MemOk (writeRest x0 x1 x2 x3 x4) := by
  intro x0 x1 x2 x3 x4 h0
  unfold writeRest
  repeat' first
    | with_reducible assumption
    | with_reducible intro _
    | (extract_lets +onlyGivenNames x; with_reducible refine memOk_cut x ?_ ?_ <;> [(dsimp only [x]; clear x); (clear_value x; intro _)])
    | (extract_lets +onlyGivenNames x; clear_value x)
    | with_reducible apply hf
    | with_reducible apply stkWrite_memOk
    | (with_reducible apply memOk_foldl; intro _ _ _)
    | split

theorem writeBlocks_memOk : ∀ x0 x1 x2, State.MemOk x0 → State.MemOk (writeBlocks x0 x1 x2) := by
  intro x0 x1 x2 h0
  unfold writeBlocks
  repeat' first
    | with_reducible assumption
    | with_reducible intro _
    | (extract_lets +onlyGivenNames x; with_reducible refine memOk_cut x ?_ ?_ <;> [(dsimp only [x]; clear x); (clear_value x; intro _)])
    | (extract_lets +onlyGivenNames x; clear_value x)
    | with_reducible apply hf
    | with_reducible apply stkWriteParts_memOk
    | with_reducible apply writeRest_memOk
    | (with_reducible apply memOk_foldl; intro _ _ _)

theorem writeBlock_memOk : ∀ x0 x1 x2 x3 x4, State.MemOk x0 → State.MemOk (writeBlock x0 x1 x2 x3 x4) := by
  intro x0 x1 x2 x3 x4 h0
  unfold writeBlock
  repeat' first
    | with_reducible assumption
    | with_reducible intro _
    | with_reducible apply writeBlocks_memOk

theorem setGroup_memOk : ∀ x0 x1 x2, State.MemOk x0 → State.MemOk (setGroup x0 x1 x2) := by
  intro x0 x1 x2 h0
  unfold setGroup
  repeat' first
    | with_reducible assumption
    | (extract_lets +onlyGivenNames x; clear_value x)
    | (with_reducible refine memOk_mk ?_; with_reducible refine memOk_to ?_)

end Sys2Proof.Machine
end

