-- ==== Sys2Proof/Laws/KeepsUpdate.lean ====
section
/-! SUPPORT. The operations of Machine/Update.lean keep every memory in canonical form: one lemma for each. -/

namespace Sys2Proof.Machine

theorem setEng_memOk : ∀ x0 x1 x2, State.MemOk x0 → State.MemOk (setEng x0 x1 x2) := by
  intro x0 x1 x2 h0
  unfold setEng
  repeat' first
    | with_reducible assumption
    | (extract_lets +onlyGivenNames x; clear_value x)
    | (with_reducible refine memOk_mk ?_; with_reducible refine memOk_to ?_)

theorem refreshUnit_memOk : ∀ x0 x1, State.MemOk x0 → State.MemOk (refreshUnit x0 x1) := by
  intro x0 x1 h0
  unfold refreshUnit
  repeat' first
    | with_reducible assumption
    | with_reducible intro _
    | (extract_lets +onlyGivenNames x; clear_value x)
    | with_reducible apply hf
    | with_reducible apply setN_memOk

theorem refreshUnits_memOk : ∀ x0, State.MemOk x0 → State.MemOk (refreshUnits x0) := by
  intro x0 h0
  unfold refreshUnits
  repeat' first
    | with_reducible assumption
    | with_reducible apply refreshUnit_memOk
    | (with_reducible apply memOk_foldl; intro _ _ _)

theorem queueFast_memOk : ∀ x0 x1 x2 x3, State.MemOk x0 → State.MemOk (queueFast x0 x1 x2 x3) := by
  intro x0 x1 x2 x3 h0
  unfold queueFast
  repeat' first
    | with_reducible assumption
    | (extract_lets +onlyGivenNames x; clear_value x)
    | with_reducible apply refreshUnits_memOk
    | (with_reducible refine memOk_mk ?_; with_reducible refine memOk_to ?_)

theorem queuePasses_memOk : ∀ x0 x1 x2 x3 x4, State.MemOk x0 → State.MemOk (queuePasses x0 x1 x2 x3 x4) := by
  intro x0 x1 x2 x3 x4 h0
  unfold queuePasses
  repeat' first
    | with_reducible assumption
    | with_reducible intro _
    | with_reducible apply refreshUnits_memOk
    | split
    | (with_reducible refine memOk_mk ?_; with_reducible refine memOk_to ?_)

theorem dropItems_memOk : ∀ x0 x1 x2, State.MemOk x0 → State.MemOk (dropItems x0 x1 x2) := by
  intro x0 x1 x2 h0
  unfold dropItems
  repeat' first
    | with_reducible assumption
    | with_reducible intro _
    | (extract_lets +onlyGivenNames x; clear_value x)
    | with_reducible apply refreshUnits_memOk
    | split
    | (with_reducible refine memOk_mk ?_; with_reducible refine memOk_to ?_)

theorem refreshHeld_memOk : ∀ x0, State.MemOk x0 → State.MemOk (refreshHeld x0) := by
  intro x0 h0
  unfold refreshHeld
  repeat' first
    | with_reducible assumption
    | with_reducible intro _
    | with_reducible apply setN_memOk

theorem takeItem_memOk (s : State) (u : Nat) (h : s.MemOk) (p : WorkItem × State) (e : takeItem s u = some p) : p.2.MemOk := by
  unfold takeItem at e
  split at e
  · cases e
  · split at e
    · split at e <;> cases e
      exact h
    · split at e <;> cases e
      exact h

theorem runItem_memOk : ∀ x0 x1 x2, State.MemOk x0 → State.MemOk (runItem x0 x1 x2) := by
  intro x0 x1 x2 h0
  unfold runItem
  repeat' first
    | with_reducible assumption
    | with_reducible intro _
    | with_reducible apply refreshUnit_memOk
    | with_reducible apply setEng_memOk
    | split

theorem startItem_memOk (s : State) (e : EngId) (h : s.MemOk) : (startItem s e).MemOk := by
  unfold startItem
  split
  · exact h
  · split
    · exact h
    · next w t he => exact runItem_memOk _ _ _ (takeItem_memOk _ _ h _ he)

theorem nextItem_memOk : ∀ x0 x1, State.MemOk x0 → State.MemOk (nextItem x0 x1) := by
  intro x0 x1 h0
  unfold nextItem
  repeat' first
    | with_reducible assumption
    | with_reducible intro _
    | with_reducible apply refreshUnit_memOk
    | with_reducible apply setEng_memOk
    | with_reducible apply runItem_memOk
    | split

theorem busy_memOk : ∀ x0 x1 x2, State.MemOk x0 → State.MemOk (busy x0 x1 x2) := by
  intro x0 x1 x2 h0
  unfold busy
  repeat' first
    | with_reducible assumption
    | with_reducible apply addN_memOk

theorem uStep_memOk : ∀ x0 x1 x2 x3, State.MemOk x3 → State.MemOk (uStep x0 x1 x2 x3) := by
  intro x0 x1 x2 x3 h0
  unfold uStep
  repeat' first
    | with_reducible assumption
    | (extract_lets +onlyGivenNames x; refine memOk_cut x ?_ ?_ <;> [(dsimp only [x]; clear x); (clear_value x; intro _)])
    | (extract_lets +onlyGivenNames x; clear_value x)
    | with_reducible apply startItem_memOk
    | with_reducible apply busy_memOk
    | with_reducible apply flagUpdate_memOk
    | with_reducible apply setEng_memOk
    | split

theorem uArith_memOk : ∀ x0 x1 x2 x3 x4, State.MemOk x4 → State.MemOk (uArith x0 x1 x2 x3 x4) := by
  intro x0 x1 x2 x3 x4 h0
  unfold uArith
  repeat' first
    | with_reducible assumption
    | with_reducible apply uStep_memOk

theorem bufferItem_memOk (s : State) (e : EngId) (errs : StackErrs) (h : s.MemOk) : (bufferItem s e errs).MemOk := by
  unfold bufferItem
  extract_lets p
  split
  · exact h
  · split
    · exact h
    · next w t he =>
      exact refreshUnit_memOk _ _ (setEng_memOk _ _ _ (meetErrors_memOk _ _ _ (takeItem_memOk _ _ h _ he)))

theorem stampBlock_memOk : ∀ x0 x1 x2 x3, State.MemOk x2 → State.MemOk (stampBlock x0 x1 x2 x3) := by
  intro x0 x1 x2 x3 h0
  unfold stampBlock
  repeat' first
    | with_reducible assumption
    | with_reducible intro _
    | (extract_lets +onlyGivenNames x; with_reducible refine memOk_cut x ?_ ?_ <;> [(dsimp only [x]; clear x); (clear_value x; intro _)])
    | (extract_lets +onlyGivenNames x; clear_value x)
    | with_reducible apply writePtr_memOk
    | with_reducible apply raise_memOk
    | with_reducible apply count64_memOk
    | split

theorem commitBlocks_memOk : ∀ x0 x1 x2 x3 x4 x5, State.MemOk x0 → State.MemOk (commitBlocks x0 x1 x2 x3 x4 x5) := by
  intro x0 x1 x2 x3 x4 x5 h0
  unfold commitBlocks
  repeat' first
    | with_reducible assumption
    | with_reducible intro _
    | (extract_lets +onlyGivenNames x; with_reducible refine memOk_cut x ?_ ?_ <;> [(dsimp only [x]; clear x); (clear_value x; intro _)])
    | (extract_lets +onlyGivenNames x; clear_value x)
    | with_reducible apply hf
    | with_reducible apply writeBlocks_memOk
    | with_reducible apply stampBlock_memOk
    | (with_reducible apply memOk_foldl; intro _ _ _)

theorem convertFlags_memOk : ∀ x0 x1 x2 x3 x4, State.MemOk x0 → State.MemOk (convertFlags x0 x1 x2 x3 x4) := by
  intro x0 x1 x2 x3 x4 h0
  unfold convertFlags
  repeat' first
    | with_reducible assumption
    | with_reducible intro _
    | with_reducible apply flagUpdate_memOk

theorem finishItem_memOk : ∀ x0 x1 x2 x3, State.MemOk x0 → State.MemOk (finishItem x0 x1 x2 x3) := by
  intro x0 x1 x2 x3 h0
  unfold finishItem
  repeat' first
    | with_reducible assumption
    | with_reducible intro _
    | (extract_lets +onlyGivenNames x; with_reducible refine memOk_cut x ?_ ?_ <;> [(dsimp only [x]; clear x); (clear_value x; intro _)])
    | (extract_lets +onlyGivenNames x; clear_value x)
    | with_reducible apply count64_memOk
    | with_reducible apply commitBlocks_memOk
    | with_reducible apply setGroup_memOk
    | split

theorem unwriteGroup_memOk : ∀ x0 x1 x2, State.MemOk x0 → State.MemOk (unwriteGroup x0 x1 x2) := by
  intro x0 x1 x2 h0
  unfold unwriteGroup
  repeat' first
    | with_reducible assumption
    | (extract_lets +onlyGivenNames x; clear_value x)
    | with_reducible apply writePtr_memOk
    | (with_reducible apply memOk_foldl; intro _ _ _)
    | split

theorem notePoison_memOk : ∀ x0 x1 x2, State.MemOk x0 → State.MemOk (notePoison x0 x1 x2) := by
  intro x0 x1 x2 h0
  unfold notePoison
  repeat' first
    | with_reducible assumption
    | with_reducible intro _
    | (extract_lets +onlyGivenNames x; with_reducible refine memOk_cut x ?_ ?_ <;> [(dsimp only [x]; clear x); (clear_value x; intro _)])
    | (extract_lets +onlyGivenNames x; clear_value x)
    | with_reducible apply setN_memOk
    | with_reducible apply raise_memOk
    | with_reducible apply count64_memOk
    | split

theorem poisonItem_memOk : ∀ x0 x1 x2 x3 x4, State.MemOk x0 → State.MemOk (poisonItem x0 x1 x2 x3 x4) := by
  intro x0 x1 x2 x3 x4 h0
  unfold poisonItem
  repeat' first
    | with_reducible assumption
    | with_reducible intro _
    | (extract_lets +onlyGivenNames x; with_reducible refine memOk_cut x ?_ ?_ <;> [(dsimp only [x]; clear x); (clear_value x; intro _)])
    | (extract_lets +onlyGivenNames x; clear_value x)
    | with_reducible apply hf
    | with_reducible apply notePoison_memOk
    | with_reducible apply setGroup_memOk
    | with_reducible apply dropItems_memOk
    | with_reducible apply unwriteGroup_memOk
    | split

theorem uEnd_memOk : ∀ x0 x1 x2, State.MemOk x2 → State.MemOk (uEnd x0 x1 x2) := by
  intro x0 x1 x2 h0
  unfold uEnd
  repeat' first
    | with_reducible assumption
    | with_reducible intro _
    | (extract_lets +onlyGivenNames x; with_reducible refine memOk_cut x ?_ ?_ <;> [(dsimp only [x]; clear x); (clear_value x; intro _)])
    | (extract_lets +onlyGivenNames x; clear_value x)
    | with_reducible apply startItem_memOk
    | with_reducible apply busy_memOk
    | with_reducible apply nextItem_memOk
    | with_reducible apply convertFlags_memOk
    | with_reducible apply poisonItem_memOk
    | with_reducible apply finishItem_memOk
    | with_reducible apply meetErrors_memOk
    | split

theorem execUpdateNop_memOk : ∀ x0 x1, State.MemOk x1 → OutOk (execUpdateNop x0 x1) := by
  intro x0 x1 h0
  unfold execUpdateNop
  repeat' first
    | with_reducible assumption
    | with_reducible apply uStep_memOk
    | with_reducible apply outOk_next

theorem execUpdEnd_memOk : ∀ x0 x1, State.MemOk x1 → OutOk (execUpdEnd x0 x1) := by
  intro x0 x1 h0
  unfold execUpdEnd
  repeat' first
    | with_reducible assumption
    | with_reducible intro _
    | with_reducible apply uEnd_memOk
    | with_reducible apply outOk_next

theorem uPhase_memOk : ∀ x0 x1, State.MemOk x1 → State.MemOk (uPhase x0 x1) := by
  intro x0 x1 h0
  unfold uPhase
  repeat' first
    | with_reducible assumption
    | (extract_lets +onlyGivenNames x; refine memOk_cut x ?_ ?_ <;> [(dsimp only [x]; clear x); (clear_value x; intro _)])
    | (extract_lets +onlyGivenNames x; clear_value x)
    | with_reducible apply startItem_memOk
    | with_reducible apply busy_memOk
    | with_reducible apply setEng_memOk
    | split

theorem execPhase_memOk : ∀ x0 x1, State.MemOk x1 → OutOk (execPhase x0 x1) := by
  intro x0 x1 h0
  unfold execPhase
  repeat' first
    | with_reducible assumption
    | with_reducible apply uPhase_memOk
    | with_reducible apply outOk_next

theorem uLd_memOk : ∀ x0 x1 x2 x3, State.MemOk x3 → State.MemOk (uLd x0 x1 x2 x3) := by
  intro x0 x1 x2 x3 h0
  unfold uLd
  repeat' first
    | with_reducible assumption
    | with_reducible apply uStep_memOk

theorem execLd_memOk : ∀ x0 x1 x2 x3, State.MemOk x3 → OutOk (execLd x0 x1 x2 x3) := by
  intro x0 x1 x2 x3 h0
  unfold execLd
  repeat' first
    | with_reducible assumption
    | with_reducible intro _
    | (extract_lets +onlyGivenNames x; with_reducible refine memOk_cut x ?_ ?_ <;> [(dsimp only [x]; clear x); (clear_value x; intro _)])
    | (extract_lets +onlyGivenNames x; clear_value x)
    | with_reducible apply startItem_memOk
    | with_reducible apply uLd_memOk
    | with_reducible apply meetErrors_memOk
    | with_reducible apply outOk_next
    | split

theorem uSt_memOk : ∀ x0 x1 x2 x3 x4 x5, State.MemOk x5 → State.MemOk (uSt x0 x1 x2 x3 x4 x5) := by
  intro x0 x1 x2 x3 x4 x5 h0
  unfold uSt
  repeat' first
    | with_reducible assumption
    | with_reducible apply uStep_memOk

theorem execSt_memOk : ∀ x0 x1 x2 x3 x4 x5, State.MemOk x5 → OutOk (execSt x0 x1 x2 x3 x4 x5) := by
  intro x0 x1 x2 x3 x4 x5 h0
  unfold execSt
  repeat' first
    | with_reducible assumption
    | with_reducible apply uSt_memOk
    | with_reducible apply outOk_next

theorem execFadd_memOk : ∀ x0 x1 x2, State.MemOk x2 → OutOk (execFadd x0 x1 x2) := by
  intro x0 x1 x2 h0
  unfold execFadd
  repeat' first
    | with_reducible assumption
    | with_reducible apply uArith_memOk
    | with_reducible apply outOk_next

theorem execFsub_memOk : ∀ x0 x1 x2, State.MemOk x2 → OutOk (execFsub x0 x1 x2) := by
  intro x0 x1 x2 h0
  unfold execFsub
  repeat' first
    | with_reducible assumption
    | with_reducible apply uArith_memOk
    | with_reducible apply outOk_next

theorem execFmul_memOk : ∀ x0 x1 x2, State.MemOk x2 → OutOk (execFmul x0 x1 x2) := by
  intro x0 x1 x2 h0
  unfold execFmul
  repeat' first
    | with_reducible assumption
    | with_reducible apply uArith_memOk
    | with_reducible apply outOk_next

theorem execFma_memOk : ∀ x0 x1 x2, State.MemOk x2 → OutOk (execFma x0 x1 x2) := by
  intro x0 x1 x2 h0
  unfold execFma
  repeat' first
    | with_reducible assumption
    | with_reducible apply uArith_memOk
    | with_reducible apply outOk_next

theorem execFmin_memOk : ∀ x0 x1 x2, State.MemOk x2 → OutOk (execFmin x0 x1 x2) := by
  intro x0 x1 x2 h0
  unfold execFmin
  repeat' first
    | with_reducible assumption
    | with_reducible apply uArith_memOk
    | with_reducible apply outOk_next

theorem execFmax_memOk : ∀ x0 x1 x2, State.MemOk x2 → OutOk (execFmax x0 x1 x2) := by
  intro x0 x1 x2 h0
  unfold execFmax
  repeat' first
    | with_reducible assumption
    | with_reducible apply uArith_memOk
    | with_reducible apply outOk_next

theorem execFabs_memOk : ∀ x0 x1 x2 x3, State.MemOk x3 → OutOk (execFabs x0 x1 x2 x3) := by
  intro x0 x1 x2 x3 h0
  unfold execFabs
  repeat' first
    | with_reducible assumption
    | with_reducible apply uArith_memOk
    | with_reducible apply outOk_next

theorem execFneg_memOk : ∀ x0 x1 x2 x3, State.MemOk x3 → OutOk (execFneg x0 x1 x2 x3) := by
  intro x0 x1 x2 x3 h0
  unfold execFneg
  repeat' first
    | with_reducible assumption
    | with_reducible apply uArith_memOk
    | with_reducible apply outOk_next

theorem uSgn_memOk : ∀ x0 x1 x2 x3, State.MemOk x3 → State.MemOk (uSgn x0 x1 x2 x3) := by
  intro x0 x1 x2 x3 h0
  unfold uSgn
  repeat' first
    | with_reducible assumption
    | with_reducible apply uStep_memOk

theorem execFsgn_memOk : ∀ x0 x1 x2 x3, State.MemOk x3 → OutOk (execFsgn x0 x1 x2 x3) := by
  intro x0 x1 x2 x3 h0
  unfold execFsgn
  repeat' first
    | with_reducible assumption
    | with_reducible apply uSgn_memOk
    | with_reducible apply outOk_next

theorem execCmplt_memOk : ∀ x0 x1 x2, State.MemOk x2 → OutOk (execCmplt x0 x1 x2) := by
  intro x0 x1 x2 h0
  unfold execCmplt
  repeat' first
    | with_reducible assumption
    | with_reducible apply uArith_memOk
    | with_reducible apply outOk_next

theorem execCmple_memOk : ∀ x0 x1 x2, State.MemOk x2 → OutOk (execCmple x0 x1 x2) := by
  intro x0 x1 x2 h0
  unfold execCmple
  repeat' first
    | with_reducible assumption
    | with_reducible apply uArith_memOk
    | with_reducible apply outOk_next

theorem execSel_memOk : ∀ x0 x1 x2, State.MemOk x2 → OutOk (execSel x0 x1 x2) := by
  intro x0 x1 x2 h0
  unfold execSel
  repeat' first
    | with_reducible assumption
    | with_reducible apply uArith_memOk
    | with_reducible apply outOk_next

theorem execRcp_memOk : ∀ x0 x1 x2 x3, State.MemOk x3 → OutOk (execRcp x0 x1 x2 x3) := by
  intro x0 x1 x2 x3 h0
  unfold execRcp
  repeat' first
    | with_reducible assumption
    | with_reducible apply uArith_memOk
    | with_reducible apply outOk_next

theorem execRsqrt_memOk : ∀ x0 x1 x2 x3, State.MemOk x3 → OutOk (execRsqrt x0 x1 x2 x3) := by
  intro x0 x1 x2 x3 h0
  unfold execRsqrt
  repeat' first
    | with_reducible assumption
    | with_reducible apply uArith_memOk
    | with_reducible apply outOk_next

theorem execDiv_memOk : ∀ x0 x1 x2, State.MemOk x2 → OutOk (execDiv x0 x1 x2) := by
  intro x0 x1 x2 h0
  unfold execDiv
  repeat' first
    | with_reducible assumption
    | with_reducible apply uArith_memOk
    | with_reducible apply outOk_next

theorem execSqrt_memOk : ∀ x0 x1 x2 x3, State.MemOk x3 → OutOk (execSqrt x0 x1 x2 x3) := by
  intro x0 x1 x2 x3 h0
  unfold execSqrt
  repeat' first
    | with_reducible assumption
    | with_reducible apply uArith_memOk
    | with_reducible apply outOk_next

theorem execExp2_memOk : ∀ x0 x1 x2 x3, State.MemOk x3 → OutOk (execExp2 x0 x1 x2 x3) := by
  intro x0 x1 x2 x3 h0
  unfold execExp2
  repeat' first
    | with_reducible assumption
    | with_reducible apply uArith_memOk
    | with_reducible apply outOk_next

theorem execLog2_memOk : ∀ x0 x1 x2 x3, State.MemOk x3 → OutOk (execLog2 x0 x1 x2 x3) := by
  intro x0 x1 x2 x3 h0
  unfold execLog2
  repeat' first
    | with_reducible assumption
    | with_reducible apply uArith_memOk
    | with_reducible apply outOk_next

theorem uRed_memOk : ∀ x0 x1 x2 x3 x4, State.MemOk x4 → State.MemOk (uRed x0 x1 x2 x3 x4) := by
  intro x0 x1 x2 x3 x4 h0
  unfold uRed
  repeat' first
    | with_reducible assumption
    | with_reducible apply uStep_memOk

theorem execRsum_memOk : ∀ x0 x1 x2 x3, State.MemOk x3 → OutOk (execRsum x0 x1 x2 x3) := by
  intro x0 x1 x2 x3 h0
  unfold execRsum
  repeat' first
    | with_reducible assumption
    | with_reducible apply uRed_memOk
    | with_reducible apply outOk_next

theorem execRssq_memOk : ∀ x0 x1 x2 x3, State.MemOk x3 → OutOk (execRssq x0 x1 x2 x3) := by
  intro x0 x1 x2 x3 h0
  unfold execRssq
  repeat' first
    | with_reducible assumption
    | with_reducible apply uRed_memOk
    | with_reducible apply outOk_next

theorem execRmax_memOk : ∀ x0 x1 x2 x3, State.MemOk x3 → OutOk (execRmax x0 x1 x2 x3) := by
  intro x0 x1 x2 x3 h0
  unfold execRmax
  repeat' first
    | with_reducible assumption
    | with_reducible apply uRed_memOk
    | with_reducible apply outOk_next

theorem uSbc_memOk : ∀ x0 x1 x2 x3, State.MemOk x3 → State.MemOk (uSbc x0 x1 x2 x3) := by
  intro x0 x1 x2 x3 h0
  unfold uSbc
  repeat' first
    | with_reducible assumption
    | with_reducible apply uStep_memOk

theorem execSbc_memOk : ∀ x0 x1 x2 x3, State.MemOk x3 → OutOk (execSbc x0 x1 x2 x3) := by
  intro x0 x1 x2 x3 h0
  unfold execSbc
  repeat' first
    | with_reducible assumption
    | with_reducible apply uSbc_memOk
    | with_reducible apply outOk_next

theorem runUWord_memOk : ∀ x0 x1 x2, State.MemOk x1 → State.MemOk (runUWord x0 x1 x2) := by
  intro x0 x1 x2 h0
  unfold runUWord
  repeat' first
    | with_reducible assumption
    | with_reducible intro _
    | (extract_lets +onlyGivenNames x; clear_value x)
    | with_reducible apply hf
    | with_reducible apply uStep_memOk
    | with_reducible apply uEnd_memOk
    | with_reducible apply uPhase_memOk
    | with_reducible apply uLd_memOk
    | with_reducible apply uSt_memOk
    | with_reducible apply uSgn_memOk
    | with_reducible apply uArith_memOk
    | with_reducible apply uRed_memOk
    | with_reducible apply uSbc_memOk
    | split

theorem execUpdateWorkItem_memOk : ∀ x0 x1, State.MemOk x1 → OutOk (execUpdateWorkItem x0 x1) := by
  intro x0 x1 h0
  unfold execUpdateWorkItem
  repeat' first
    | with_reducible assumption
    | with_reducible intro _
    | (extract_lets +onlyGivenNames x; with_reducible refine memOk_cut x ?_ ?_ <;> [(dsimp only [x]; clear x); (clear_value x; intro _)])
    | (extract_lets +onlyGivenNames x; clear_value x)
    | with_reducible apply hf
    | with_reducible apply bufferItem_memOk
    | with_reducible apply startItem_memOk
    | with_reducible apply runUWord_memOk
    | with_reducible apply meetErrors_memOk
    | with_reducible apply outOk_next
    | (with_reducible apply memOk_foldl; intro _ _ _)
    | (with_reducible apply memOk_foldl_fst; intro _ _ _)
    | (with_reducible apply coreOk_foldl; intro _ _ _)
    | split

theorem passWrite_memOk : ∀ x0 x1 x2 x3, State.MemOk x0 → State.MemOk (passWrite x0 x1 x2 x3) := by
  intro x0 x1 x2 x3 h0
  unfold passWrite
  repeat' first
    | with_reducible assumption
    | with_reducible intro _
    | (extract_lets +onlyGivenNames x; with_reducible refine memOk_cut x ?_ ?_ <;> [(dsimp only [x]; clear x); (clear_value x; intro _)])
    | (extract_lets +onlyGivenNames x; clear_value x)
    | with_reducible apply stkWrite_memOk
    | with_reducible apply writePtr_memOk
    | split

theorem passesDone_memOk : ∀ x0 x1 x2, State.MemOk x0 → State.MemOk (passesDone x0 x1 x2) := by
  intro x0 x1 x2 h0
  unfold passesDone
  repeat' first
    | with_reducible assumption
    | with_reducible intro _
    | (extract_lets +onlyGivenNames x; clear_value x)
    | with_reducible apply setGroup_memOk

theorem runPass_memOk : ∀ x0 x1 x2 x3, State.MemOk x0 → State.MemOk (runPass x0 x1 x2 x3) := by
  intro x0 x1 x2 x3 h0
  unfold runPass
  repeat' first
    | with_reducible assumption
    | with_reducible intro _
    | (extract_lets +onlyGivenNames x; with_reducible refine memOk_cut x ?_ ?_ <;> [(dsimp only [x]; clear x); (clear_value x; intro _)])
    | (extract_lets +onlyGivenNames x; clear_value x)
    | with_reducible apply hf
    | with_reducible apply refreshUnit_memOk
    | with_reducible apply flagUpdate_memOk
    | with_reducible apply poisonItem_memOk
    | with_reducible apply passWrite_memOk
    | with_reducible apply raise_memOk
    | with_reducible apply count64_memOk
    | with_reducible apply setGroup_memOk
    | with_reducible apply passesDone_memOk
    | split
    | with_reducible refine fst_state_eq (by with_reducible assumption) ?_
    | with_reducible refine snd_state_eq (by with_reducible assumption) ?_
    | with_reducible refine snd_core_eq (by with_reducible assumption) ?_
    | (with_reducible refine memOk_mk ?_; with_reducible refine memOk_to ?_)

theorem execAccumulationPass_memOk : ∀ x0 x1 x2 x3, State.MemOk x3 → OutOk (execAccumulationPass x0 x1 x2 x3) := by
  intro x0 x1 x2 x3 h0
  unfold execAccumulationPass
  repeat' first
    | with_reducible assumption
    | with_reducible intro _
    | with_reducible apply runPass_memOk
    | with_reducible apply meetErrors_memOk
    | with_reducible apply outOk_next
    | split

theorem execSlowSweep_memOk : ∀ x0 x1, State.MemOk x1 → OutOk (execSlowSweep x0 x1) := by
  intro x0 x1 h0
  unfold execSlowSweep
  repeat' first
    | with_reducible assumption
    | with_reducible intro _
    | (extract_lets +onlyGivenNames x; with_reducible refine memOk_cut x ?_ ?_ <;> [(dsimp only [x]; clear x); (clear_value x; intro _)])
    | (extract_lets +onlyGivenNames x; clear_value x)
    | with_reducible apply setGroup_memOk
    | with_reducible apply refreshUnits_memOk
    | with_reducible apply outOk_next
    | split
    | (with_reducible refine memOk_mk ?_; with_reducible refine memOk_to ?_)

theorem adoptWindows_memOk : ∀ x0 x1 x2, State.MemOk x1 → State.MemOk (adoptWindows x0 x1 x2) := by
  intro x0 x1 x2 h0
  unfold adoptWindows
  repeat' first
    | with_reducible assumption
    | with_reducible intro _
    | (extract_lets +onlyGivenNames x; with_reducible refine sndOk_cut x ?_ ?_ <;> [(dsimp only [x]; clear x); (clear_value x; intro _)])
    | (extract_lets +onlyGivenNames x; clear_value x)
    | with_reducible apply hf
    | with_reducible apply drawFree_memOk
    | with_reducible apply setGroup_memOk
    | split

theorem tryUpdate_memOk : ∀ x0 x1, State.MemOk x0 → State.MemOk (tryUpdate x0 x1) := by
  intro x0 x1 h0
  unfold tryUpdate
  repeat' first
    | with_reducible assumption
    | with_reducible intro _
    | (extract_lets +onlyGivenNames x; clear_value x)
    | with_reducible apply queuePasses_memOk
    | with_reducible apply setGroup_memOk
    | with_reducible apply queueFast_memOk
    | split

theorem tryUpdates_memOk : ∀ x0, State.MemOk x0 → State.MemOk (tryUpdates x0) := by
  intro x0 h0
  unfold tryUpdates
  repeat' first
    | with_reducible assumption
    | with_reducible intro _
    | with_reducible apply tryUpdate_memOk
    | (with_reducible apply memOk_foldl; intro _ _ _)

end Sys2Proof.Machine
end

