-- ==== Sys2Proof/Laws/KeepsExchange.lean ====
section
/-! SUPPORT. The operations of Machine/Exchange.lean keep every memory in canonical form: one lemma for each. -/

namespace Sys2Proof.Machine

theorem encodeWithResidual_memOk : ∀ x0 x1 x2 x3 x4, State.MemOk x0 → State.MemOk ((encodeWithResidual x0 x1 x2 x3 x4).1) := by
  intro x0 x1 x2 x3 x4 h0
  unfold encodeWithResidual
  repeat' first
    | with_reducible assumption
    | (extract_lets +onlyGivenNames x; refine memOk_cut x ?_ ?_ <;> [(dsimp only [x]; clear x); (clear_value x; intro _)])
    | (extract_lets +onlyGivenNames x; clear_value x)
    | with_reducible apply stkWrite_memOk
    | with_reducible apply count64_memOk
    | with_reducible apply addN_memOk
    | split

theorem sendMsg_memOk : ∀ x0 x1 x2, State.MemOk x0 → State.MemOk (sendMsg x0 x1 x2) := by
  intro x0 x1 x2 h0
  unfold sendMsg
  repeat' first
    | with_reducible assumption
    | (extract_lets +onlyGivenNames x; refine memOk_cut x ?_ ?_ <;> [(dsimp only [x]; clear x); (clear_value x; intro _)])
    | (extract_lets +onlyGivenNames x; clear_value x)
    | with_reducible apply ethEnqueue_memOk
    | (with_reducible refine memOk_mk ?_; with_reducible refine memOk_to ?_)

theorem takeDuplicate_memOk : ∀ x0 x1, State.MemOk x0 → State.MemOk (takeDuplicate x0 x1) := by
  intro x0 x1 h0
  unfold takeDuplicate
  repeat' first
    | with_reducible assumption
    | (extract_lets +onlyGivenNames x; refine memOk_cut x ?_ ?_ <;> [(dsimp only [x]; clear x); (clear_value x; intro _)])
    | with_reducible apply count64_memOk
    | with_reducible apply raise_memOk
    | split

theorem keepMsg_memOk : ∀ x0 x1, State.MemOk x0 → State.MemOk (keepMsg x0 x1) := by
  intro x0 x1 h0
  unfold keepMsg
  repeat' first
    | with_reducible assumption
    | (extract_lets +onlyGivenNames x; clear_value x)
    | split
    | (with_reducible refine memOk_mk ?_; with_reducible refine memOk_to ?_)

theorem setAccepted_memOk : ∀ x0 x1, State.MemOk x0 → State.MemOk (setAccepted x0 x1) := by
  intro x0 x1 h0
  unfold setAccepted
  repeat' first
    | with_reducible assumption
    | (extract_lets +onlyGivenNames x; clear_value x)
    | (with_reducible refine memOk_mk ?_; with_reducible refine memOk_to ?_)

theorem gatherComplete_memOk : ∀ x0 x1, State.MemOk x0 → State.MemOk (gatherComplete x0 x1) := by
  intro x0 x1 h0
  unfold gatherComplete
  repeat' first
    | with_reducible assumption
    | with_reducible intro _
    | (extract_lets +onlyGivenNames x; with_reducible refine memOk_cut x ?_ ?_ <;> [(dsimp only [x]; clear x); (clear_value x; intro _)])
    | (extract_lets +onlyGivenNames x; clear_value x)
    | with_reducible apply setGroup_memOk
    | with_reducible apply tryUpdate_memOk
    | split
    | (with_reducible refine memOk_mk ?_; with_reducible refine memOk_to ?_)

theorem writeGrad_memOk : ∀ x0 x1 x2, State.MemOk x0 → State.MemOk (writeGrad x0 x1 x2) := by
  intro x0 x1 x2 h0
  unfold writeGrad
  repeat' first
    | with_reducible assumption
    | with_reducible intro _
    | (extract_lets +onlyGivenNames x; clear_value x)
    | with_reducible apply hf
    | with_reducible apply stkWrite_memOk
    | (with_reducible apply memOk_foldl; intro _ _ _)

theorem acceptGather_memOk : ∀ x0 x1, State.MemOk x0 → State.MemOk (acceptGather x0 x1) := by
  intro x0 x1 h0
  unfold acceptGather
  repeat' first
    | with_reducible assumption
    | with_reducible intro _
    | (extract_lets +onlyGivenNames x; with_reducible refine memOk_cut x ?_ ?_ <;> [(dsimp only [x]; clear x); (clear_value x; intro _)])
    | (extract_lets +onlyGivenNames x; clear_value x)
    | with_reducible apply hf
    | with_reducible apply setAccepted_memOk
    | with_reducible apply raise_memOk
    | with_reducible apply writeGrad_memOk
    | with_reducible apply setGroup_memOk
    | with_reducible apply gatherComplete_memOk
    | split

theorem takeOwnGather_memOk : ∀ x0 x1, State.MemOk x0 → State.MemOk (takeOwnGather x0 x1) := by
  intro x0 x1 h0
  unfold takeOwnGather
  repeat' first
    | with_reducible assumption
    | with_reducible apply keepMsg_memOk
    | with_reducible apply acceptGather_memOk
    | split

theorem writeInbound_memOk : ∀ x0 x1 x2, State.MemOk x0 → State.MemOk (writeInbound x0 x1 x2) := by
  intro x0 x1 x2 h0
  unfold writeInbound
  repeat' first
    | with_reducible assumption
    | with_reducible intro _
    | (extract_lets +onlyGivenNames x; clear_value x)
    | with_reducible apply hf
    | with_reducible apply stkWrite_memOk
    | (with_reducible apply memOk_foldl; intro _ _ _)

theorem encodeOwned_memOk : ∀ x0 x1 x2 x3 x4, State.MemOk (x3.1) → State.MemOk ((encodeOwned x0 x1 x2 x3 x4).1) := by
  intro x0 x1 x2 x3 x4 h0
  unfold encodeOwned
  repeat' first
    | with_reducible assumption
    | with_reducible intro _
    | (extract_lets +onlyGivenNames x; with_reducible refine memOk_cut x ?_ ?_ <;> [(dsimp only [x]; clear x); (clear_value x; intro _)])
    | (extract_lets +onlyGivenNames x; with_reducible refine fstOk_cut x ?_ ?_ <;> [(dsimp only [x]; clear x); (clear_value x; intro _)])
    | (extract_lets +onlyGivenNames x; clear_value x)
    | with_reducible apply hf
    | with_reducible apply encodeWithResidual_memOk

theorem formGather_memOk : ∀ x0 x1 x2, State.MemOk x1 → State.MemOk (formGather x0 x1 x2) := by
  intro x0 x1 x2 h0
  unfold formGather
  repeat' first
    | with_reducible assumption
    | (extract_lets +onlyGivenNames x; refine memOk_cut x ?_ ?_ <;> [(dsimp only [x]; clear x); (clear_value x; intro _)])
    | (extract_lets +onlyGivenNames x; refine fstOk_cut x ?_ ?_ <;> [(dsimp only [x]; clear x); (clear_value x; intro _)])
    | (extract_lets +onlyGivenNames x; clear_value x)
    | with_reducible apply encodeOwned_memOk
    | with_reducible apply setGroup_memOk
    | with_reducible apply sendMsg_memOk
    | with_reducible apply takeOwnGather_memOk
    | (with_reducible apply memOk_foldl; intro _ _ _)
    | (with_reducible apply memOk_foldl_fst; intro _ _ _)
    | split
    | (with_reducible refine memOk_mk ?_; with_reducible refine memOk_to ?_)

theorem tryOwner_memOk : ∀ x0 x1, State.MemOk x0 → State.MemOk (tryOwner x0 x1) := by
  intro x0 x1 h0
  unfold tryOwner
  repeat' first
    | with_reducible assumption
    | (extract_lets +onlyGivenNames x; clear_value x)
    | with_reducible apply formGather_memOk
    | (with_reducible apply memOk_foldl; intro _ _ _)
    | split

theorem acceptContrib_memOk : ∀ x0 x1, State.MemOk x0 → State.MemOk (acceptContrib x0 x1) := by
  intro x0 x1 h0
  unfold acceptContrib
  repeat' first
    | with_reducible assumption
    | with_reducible intro _
    | with_reducible apply tryOwner_memOk
    | with_reducible apply writeInbound_memOk
    | with_reducible apply setAccepted_memOk
    | split
    | (with_reducible refine memOk_mk ?_; with_reducible refine memOk_to ?_)

theorem encodeLocal_memOk : ∀ x0 x1 x2 x3 x4, (State.MemOk (x3).1) → State.MemOk ((encodeLocal x0 x1 x2 x3 x4).1) := by
  intro x0 x1 x2 x3 x4 h0
  unfold encodeLocal
  repeat' first
    | with_reducible assumption
    | (extract_lets +onlyGivenNames x; refine memOk_cut x ?_ ?_ <;> [(dsimp only [x]; clear x); (clear_value x; intro _)])
    | (extract_lets +onlyGivenNames x; refine fstOk_cut x ?_ ?_ <;> [(dsimp only [x]; clear x); (clear_value x; intro _)])
    | (extract_lets +onlyGivenNames x; clear_value x)
    | with_reducible apply encodeWithResidual_memOk

theorem sendContrib_memOk : ∀ x0 x1 x2 x3, State.MemOk x2 → State.MemOk (sendContrib x0 x1 x2 x3) := by
  intro x0 x1 x2 x3 h0
  unfold sendContrib
  repeat' first
    | with_reducible assumption
    | (extract_lets +onlyGivenNames x; refine fstOk_cut x ?_ ?_ <;> [(dsimp only [x]; clear x); (clear_value x; intro _)])
    | (extract_lets +onlyGivenNames x; clear_value x)
    | with_reducible apply encodeLocal_memOk
    | with_reducible apply acceptContrib_memOk
    | with_reducible apply sendMsg_memOk
    | (with_reducible apply memOk_foldl_fst; intro _ _ _)
    | split

theorem exchangeGroup_memOk : ∀ x0 x1, State.MemOk x0 → State.MemOk (exchangeGroup x0 x1) := by
  intro x0 x1 h0
  unfold exchangeGroup
  repeat' first
    | with_reducible assumption
    | (extract_lets +onlyGivenNames x; refine memOk_cut x ?_ ?_ <;> [(dsimp only [x]; clear x); (clear_value x; intro _)])
    | (extract_lets +onlyGivenNames x; clear_value x)
    | with_reducible apply setGroup_memOk
    | with_reducible apply sendContrib_memOk
    | (with_reducible apply memOk_foldl; intro _ _ _)
    | split

theorem groupFinal_memOk : ∀ x0 x1, State.MemOk x0 → State.MemOk (groupFinal x0 x1) := by
  intro x0 x1 h0
  unfold groupFinal
  repeat' first
    | with_reducible assumption
    | (extract_lets +onlyGivenNames x; refine memOk_cut x ?_ ?_ <;> [(dsimp only [x]; clear x); (clear_value x; intro _)])
    | (extract_lets +onlyGivenNames x; clear_value x)
    | with_reducible apply setGroup_memOk
    | with_reducible apply tryUpdate_memOk
    | with_reducible apply exchangeGroup_memOk

theorem compareGroup_memOk : ∀ x0 x1 x2, State.MemOk x1 → State.MemOk (compareGroup x0 x1 x2) := by
  intro x0 x1 x2 h0
  unfold compareGroup
  repeat' first
    | with_reducible assumption
    | (extract_lets +onlyGivenNames x; refine memOk_cut x ?_ ?_ <;> [(dsimp only [x]; clear x); (clear_value x; intro _)])
    | (extract_lets +onlyGivenNames x; clear_value x)
    | with_reducible apply setGroup_memOk
    | with_reducible apply logEvent_memOk
    | with_reducible apply raise_memOk
    | with_reducible apply setN_memOk
    | split
    | (with_reducible refine memOk_mk ?_; with_reducible refine memOk_to ?_)

theorem tryCompare_memOk : ∀ x0, State.MemOk x0 → State.MemOk (tryCompare x0) := by
  intro x0 h0
  unfold tryCompare
  repeat' first
    | with_reducible assumption
    | (extract_lets +onlyGivenNames x; refine memOk_cut x ?_ ?_ <;> [(dsimp only [x]; clear x); (clear_value x; intro _)])
    | (extract_lets +onlyGivenNames x; clear_value x)
    | with_reducible apply compareGroup_memOk
    | (with_reducible apply memOk_foldl; intro _ _ _)
    | split
    | (with_reducible refine memOk_mk ?_; with_reducible refine memOk_to ?_)

theorem acceptFingerprint_memOk : ∀ x0 x1, State.MemOk x0 → State.MemOk (acceptFingerprint x0 x1) := by
  intro x0 x1 h0
  unfold acceptFingerprint
  repeat' first
    | with_reducible assumption
    | (extract_lets +onlyGivenNames x; clear_value x)
    | with_reducible apply tryCompare_memOk
    | (with_reducible refine memOk_mk ?_; with_reducible refine memOk_to ?_)

theorem acceptMsg_memOk : ∀ x0 x1, State.MemOk x0 → State.MemOk (acceptMsg x0 x1) := by
  intro x0 x1 h0
  unfold acceptMsg
  repeat' first
    | with_reducible assumption
    | with_reducible apply acceptContrib_memOk
    | with_reducible apply acceptGather_memOk
    | with_reducible apply acceptFingerprint_memOk
    | split

theorem receiveMsg_memOk : ∀ x0 x1, State.MemOk x0 → State.MemOk ((receiveMsg x0 x1).1) := by
  intro x0 x1 h0
  unfold receiveMsg
  repeat' first
    | with_reducible assumption
    | with_reducible apply count64_memOk
    | with_reducible apply keepMsg_memOk
    | with_reducible apply takeDuplicate_memOk
    | with_reducible apply acceptMsg_memOk
    | split

theorem retryKept_memOk : ∀ x0, State.MemOk x0 → State.MemOk (retryKept x0) := by
  intro x0 h0
  unfold retryKept
  repeat' first
    | with_reducible assumption
    | (extract_lets +onlyGivenNames x; clear_value x)
    | with_reducible apply takeOwnGather_memOk
    | with_reducible apply receiveMsg_memOk
    | (with_reducible apply memOk_foldl; intro _ _ _)
    | split
    | (with_reducible refine memOk_mk ?_; with_reducible refine memOk_to ?_)

theorem execContribReceive_memOk : ∀ x0 x1, State.MemOk x1 → OutOk (execContribReceive x0 x1) := by
  intro x0 x1 h0
  unfold execContribReceive
  repeat' first
    | with_reducible assumption
    | with_reducible intro _
    | with_reducible apply receiveMsg_memOk
    | with_reducible apply meetErrorsOf_memOk
    | with_reducible apply outOk_next

theorem execGatherReceive_memOk : ∀ x0 x1, State.MemOk x1 → OutOk (execGatherReceive x0 x1) := by
  intro x0 x1 h0
  unfold execGatherReceive
  repeat' first
    | with_reducible assumption
    | with_reducible apply receiveMsg_memOk
    | with_reducible apply outOk_next

theorem execFingerprintReceive_memOk : ∀ x0 x1, State.MemOk x1 → OutOk (execFingerprintReceive x0 x1) := by
  intro x0 x1 h0
  unfold execFingerprintReceive
  repeat' first
    | with_reducible assumption
    | with_reducible apply receiveMsg_memOk
    | with_reducible apply outOk_next

theorem execPeerLate_memOk : ∀ x0 x1, State.MemOk x1 → OutOk (execPeerLate x0 x1) := by
  intro x0 x1 h0
  unfold execPeerLate
  repeat' first
    | with_reducible assumption
    | (extract_lets +onlyGivenNames x; refine memOk_cut x ?_ ?_ <;> [(dsimp only [x]; clear x); (clear_value x; intro _)])
    | (extract_lets +onlyGivenNames x; clear_value x)
    | with_reducible apply raise_memOk
    | with_reducible apply setGroup_memOk
    | with_reducible apply setN_memOk
    | with_reducible apply outOk_next
    | split

theorem excuseEffect_memOk : ∀ x0 x1, State.MemOk x0 → State.MemOk (excuseEffect x0 x1) := by
  intro x0 x1 h0
  unfold excuseEffect
  repeat' first
    | with_reducible assumption
    | with_reducible intro _
    | (extract_lets +onlyGivenNames x; with_reducible refine memOk_cut x ?_ ?_ <;> [(dsimp only [x]; clear x); (clear_value x; intro _)])
    | (extract_lets +onlyGivenNames x; clear_value x)
    | with_reducible apply hf
    | with_reducible apply setN_memOk
    | with_reducible apply tryOwner_memOk
    | (with_reducible apply memOk_foldl; intro _ _ _)
    | split
    | (with_reducible refine memOk_mk ?_; with_reducible refine memOk_to ?_)

theorem execExcuse_memOk : ∀ x0 x1, State.MemOk x1 → OutOk (execExcuse x0 x1) := by
  intro x0 x1 h0
  unfold execExcuse
  repeat' first
    | with_reducible assumption
    | with_reducible intro _
    | with_reducible apply metStacks_memOk
    | with_reducible apply ownWrite_memOk
    | with_reducible apply excuseEffect_memOk
    | with_reducible apply outOk_next

theorem overrideEffect_memOk : ∀ x0 x1, State.MemOk x0 → State.MemOk (overrideEffect x0 x1) := by
  intro x0 x1 h0
  unfold overrideEffect
  repeat' first
    | with_reducible assumption
    | (extract_lets +onlyGivenNames x; refine memOk_cut x ?_ ?_ <;> [(dsimp only [x]; clear x); (clear_value x; intro _)])
    | (extract_lets +onlyGivenNames x; clear_value x)
    | with_reducible apply setN_memOk
    | split
    | (with_reducible refine memOk_mk ?_; with_reducible refine memOk_to ?_)

theorem execOverride_memOk : ∀ x0 x1, State.MemOk x1 → OutOk (execOverride x0 x1) := by
  intro x0 x1 h0
  unfold execOverride
  repeat' first
    | with_reducible assumption
    | with_reducible intro _
    | with_reducible apply ownWrite_memOk
    | with_reducible apply overrideEffect_memOk
    | with_reducible apply outOk_next

theorem compressionEffect_memOk : ∀ x0 x1, State.MemOk x0 → State.MemOk (compressionEffect x0 x1) := by
  intro x0 x1 h0
  unfold compressionEffect
  repeat' first
    | with_reducible assumption
    | (extract_lets +onlyGivenNames x; refine memOk_cut x ?_ ?_ <;> [(dsimp only [x]; clear x); (clear_value x; intro _)])
    | (extract_lets +onlyGivenNames x; clear_value x)
    | with_reducible apply setN_memOk
    | (with_reducible refine memOk_mk ?_; with_reducible refine memOk_to ?_)

theorem execSetCompression_memOk : ∀ x0 x1, State.MemOk x1 → OutOk (execSetCompression x0 x1) := by
  intro x0 x1 h0
  unfold execSetCompression
  repeat' first
    | with_reducible assumption
    | with_reducible intro _
    | with_reducible apply ownWrite_memOk
    | with_reducible apply compressionEffect_memOk
    | with_reducible apply outOk_next

theorem execKeySlotWrite_memOk : ∀ x0 x1 x2 x3, State.MemOk x3 → OutOk (execKeySlotWrite x0 x1 x2 x3) := by
  intro x0 x1 x2 x3 h0
  unfold execKeySlotWrite
  repeat' first
    | with_reducible assumption
    | with_reducible intro _
    | (extract_lets +onlyGivenNames x; clear_value x)
    | with_reducible apply ownWrite_memOk
    | with_reducible apply setN_memOk
    | with_reducible apply outOk_next

theorem execConstantSetWrite_memOk : ∀ x0 x1 x2 x3, State.MemOk x3 → OutOk (execConstantSetWrite x0 x1 x2 x3) := by
  intro x0 x1 x2 x3 h0
  unfold execConstantSetWrite
  repeat' first
    | with_reducible assumption
    | with_reducible intro _
    | with_reducible apply ownWrite_memOk
    | with_reducible apply setN_memOk
    | with_reducible apply outOk_next
    | split

end Sys2Proof.Machine
end

