-- ==== Sys2Proof/Laws/KeepsGates.lean ====
section
/-! SUPPORT. The operations of Machine/Gates.lean keep every memory in canonical form: one lemma for each. -/

namespace Sys2Proof.Machine

theorem setCursor_memOk : ∀ x0 x1, State.MemOk x0 → State.MemOk (setCursor x0 x1) := by
  intro x0 x1 h0
  unfold setCursor
  repeat' first
    | with_reducible assumption
    | (extract_lets +onlyGivenNames x; clear_value x)
    | (with_reducible refine memOk_mk ?_; with_reducible refine memOk_to ?_)

theorem putSlot_memOk : ∀ x0 x1, State.MemOk x0 → State.MemOk (putSlot x0 x1) := by
  intro x0 x1 h0
  unfold putSlot
  repeat' first
    | with_reducible assumption
    | (extract_lets +onlyGivenNames x; clear_value x)
    | (with_reducible refine memOk_mk ?_; with_reducible refine memOk_to ?_)

theorem spillSlot_memOk : ∀ x0 x1, State.MemOk x0 → State.MemOk (spillSlot x0 x1) := by
  intro x0 x1 h0
  unfold spillSlot
  repeat' first
    | with_reducible assumption
    | with_reducible intro _
    | (extract_lets +onlyGivenNames x; with_reducible refine memOk_cut x ?_ ?_ <;> [(dsimp only [x]; clear x); (clear_value x; intro _)])
    | (extract_lets +onlyGivenNames x; clear_value x)
    | with_reducible apply stkWrite_memOk
    | with_reducible apply count64_memOk
    | with_reducible apply putSlot_memOk
    | split

theorem freeSlot_memOk : ∀ x0 x1, State.MemOk x0 → State.MemOk (freeSlot x0 x1) := by
  intro x0 x1 h0
  unfold freeSlot
  repeat' first
    | with_reducible assumption
    | with_reducible intro _
    | (extract_lets +onlyGivenNames x; clear_value x)
    | with_reducible apply hf
    | with_reducible apply spillSlot_memOk
    | split

theorem addReport_memOk : ∀ x0 x1 x2 x3 x4, State.MemOk x0 → State.MemOk (addReport x0 x1 x2 x3 x4) := by
  intro x0 x1 x2 x3 x4 h0
  unfold addReport
  repeat' first
    | with_reducible assumption
    | with_reducible intro _
    | (extract_lets +onlyGivenNames x; clear_value x)
    | with_reducible apply hf
    | split
    | (with_reducible refine memOk_mk ?_; with_reducible refine memOk_to ?_)

theorem acceptPartial_memOk : ∀ x0 x1 x2 x3, State.MemOk x0 → State.MemOk (acceptPartial x0 x1 x2 x3) := by
  intro x0 x1 x2 x3 h0
  unfold acceptPartial
  repeat' first
    | with_reducible assumption
    | with_reducible intro _
    | (extract_lets +onlyGivenNames x; with_reducible refine memOk_cut x ?_ ?_ <;> [(dsimp only [x]; clear x); (clear_value x; intro _)])
    | (extract_lets +onlyGivenNames x; clear_value x)
    | with_reducible apply hf
    | with_reducible apply freeSlot_memOk
    | with_reducible apply putSlot_memOk
    | with_reducible apply addReport_memOk
    | split

theorem gatePacket_memOk : ∀ x0 x1 x2 x3, State.MemOk x3 → State.MemOk (gatePacket x0 x1 x2 x3) := by
  intro x0 x1 x2 x3 h0
  unfold gatePacket
  repeat' first
    | with_reducible assumption
    | with_reducible intro _
    | (extract_lets +onlyGivenNames x; with_reducible refine memOk_cut x ?_ ?_ <;> [(dsimp only [x]; clear x); (clear_value x; intro _)])
    | (extract_lets +onlyGivenNames x; clear_value x)
    | with_reducible apply raise_memOk
    | with_reducible apply count64_memOk
    | with_reducible apply setCursor_memOk
    | with_reducible apply acceptPartial_memOk
    | split

theorem execPartialReceive_memOk : ∀ x0 x1 x2 x3, State.MemOk x3 → OutOk (execPartialReceive x0 x1 x2 x3) := by
  intro x0 x1 x2 x3 h0
  unfold execPartialReceive
  repeat' first
    | with_reducible assumption
    | with_reducible intro _
    | with_reducible apply gatePacket_memOk
    | with_reducible apply meetErrorsOf_memOk
    | with_reducible apply outOk_next
    | split

theorem reportClean_memOk : ∀ x0 x1 x2 x3, State.MemOk x0 → State.MemOk (reportClean x0 x1 x2 x3) := by
  intro x0 x1 x2 x3 h0
  unfold reportClean
  repeat' first
    | with_reducible assumption
    | with_reducible apply addReport_memOk
    | split

theorem applySum_memOk : ∀ x0 x1 x2, State.MemOk x0 → State.MemOk (applySum x0 x1 x2) := by
  intro x0 x1 x2 h0
  unfold applySum
  repeat' first
    | with_reducible assumption
    | (extract_lets +onlyGivenNames x; refine memOk_cut x ?_ ?_ <;> [(dsimp only [x]; clear x); (clear_value x; intro _)])
    | (extract_lets +onlyGivenNames x; clear_value x)
    | with_reducible apply putSlot_memOk
    | with_reducible apply addReport_memOk
    | with_reducible apply reportClean_memOk
    | with_reducible apply stkWrite_memOk
    | split

theorem execRunningSumApply_memOk : ∀ x0 x1 x2 x3 x4, State.MemOk x4 → OutOk (execRunningSumApply x0 x1 x2 x3 x4) := by
  intro x0 x1 x2 x3 x4 h0
  unfold execRunningSumApply
  repeat' first
    | with_reducible assumption
    | with_reducible intro _
    | (extract_lets +onlyGivenNames x; with_reducible refine memOk_cut x ?_ ?_ <;> [(dsimp only [x]; clear x); (clear_value x; intro _)])
    | (extract_lets +onlyGivenNames x; clear_value x)
    | with_reducible apply meetErrors_memOk
    | with_reducible apply applySum_memOk
    | with_reducible apply outOk_next
    | split

theorem closePair_memOk : ∀ x0 x1 x2 x3, State.MemOk x0 → State.MemOk (closePair x0 x1 x2 x3) := by
  intro x0 x1 x2 x3 h0
  unfold closePair
  repeat' first
    | with_reducible assumption
    | (extract_lets +onlyGivenNames x; refine memOk_cut x ?_ ?_ <;> [(dsimp only [x]; clear x); (clear_value x; intro _)])
    | (extract_lets +onlyGivenNames x; clear_value x)
    | (with_reducible refine memOk_mk ?_; with_reducible refine memOk_to ?_)

theorem settleIncluded_memOk : ∀ x0 x1 x2, State.MemOk x0 → State.MemOk (settleIncluded x0 x1 x2) := by
  intro x0 x1 x2 h0
  unfold settleIncluded
  repeat' first
    | with_reducible assumption
    | (extract_lets +onlyGivenNames x; clear_value x)
    | with_reducible apply closePair_memOk
    | with_reducible apply setGroup_memOk

theorem settleExcluded_memOk : ∀ x0 x1 x2 x3, State.MemOk x0 → State.MemOk (settleExcluded x0 x1 x2 x3) := by
  intro x0 x1 x2 x3 h0
  unfold settleExcluded
  repeat' first
    | with_reducible assumption
    | (extract_lets +onlyGivenNames x; refine memOk_cut x ?_ ?_ <;> [(dsimp only [x]; clear x); (clear_value x; intro _)])
    | (extract_lets +onlyGivenNames x; clear_value x)
    | with_reducible apply setGroup_memOk
    | with_reducible apply raise_memOk
    | with_reducible apply count64_memOk
    | with_reducible apply closePair_memOk

theorem execSettle_memOk : ∀ x0 x1 x2, State.MemOk x2 → OutOk (execSettle x0 x1 x2) := by
  intro x0 x1 x2 h0
  unfold execSettle
  repeat' first
    | with_reducible assumption
    | with_reducible intro _
    | (extract_lets +onlyGivenNames x; with_reducible refine memOk_cut x ?_ ?_ <;> [(dsimp only [x]; clear x); (clear_value x; intro _)])
    | (extract_lets +onlyGivenNames x; clear_value x)
    | with_reducible apply hf
    | with_reducible apply settleExcluded_memOk
    | with_reducible apply settleIncluded_memOk
    | with_reducible apply groupFinal_memOk
    | with_reducible apply meetErrorsOf_memOk
    | with_reducible apply outOk_next
    | split

theorem execSettleWaitExpiry_memOk : ∀ x0 x1 x2, State.MemOk x2 → OutOk (execSettleWaitExpiry x0 x1 x2) := by
  intro x0 x1 x2 h0
  unfold execSettleWaitExpiry
  repeat' first
    | with_reducible assumption
    | with_reducible apply addReport_memOk
    | (with_reducible apply memOk_foldl; intro _ _ _)
    | with_reducible apply outOk_next
    | split

theorem applyMark_memOk : ∀ x0 x1, State.MemOk x0 → State.MemOk (applyMark x0 x1) := by
  intro x0 x1 h0
  unfold applyMark
  repeat' first
    | with_reducible assumption
    | with_reducible intro _
    | (extract_lets +onlyGivenNames x; with_reducible refine memOk_cut x ?_ ?_ <;> [(dsimp only [x]; clear x); (clear_value x; intro _)])
    | (extract_lets +onlyGivenNames x; clear_value x)
    | with_reducible apply hf
    | with_reducible apply modifyWork_memOk
    | with_reducible apply tryUpdates_memOk
    | split
    | (with_reducible refine memOk_mk ?_; with_reducible refine memOk_to ?_)

theorem execWaypointReport_memOk : ∀ x0 x1 x2 x3, State.MemOk x3 → OutOk (execWaypointReport x0 x1 x2 x3) := by
  intro x0 x1 x2 x3 h0
  unfold execWaypointReport
  repeat' first
    | with_reducible assumption
    | with_reducible intro _
    | (extract_lets +onlyGivenNames x; with_reducible refine memOk_cut x ?_ ?_ <;> [(dsimp only [x]; clear x); (clear_value x; intro _)])
    | (extract_lets +onlyGivenNames x; with_reducible refine coreOk_cut x ?_ ?_ <;> [(dsimp only [x]; clear x); (clear_value x; intro _)])
    | (extract_lets +onlyGivenNames x; clear_value x)
    | with_reducible apply hf
    | with_reducible apply getCore_memOk
    | with_reducible apply setCore_memOk
    | with_reducible apply count64_memOk
    | with_reducible apply applyMark_memOk
    | (with_reducible apply memOk_foldl; intro _ _ _)
    | with_reducible apply outOk_next
    | split
    | (with_reducible refine memOk_mk ?_; with_reducible refine memOk_to ?_)
    | (with_reducible refine coreOk_mk ?_; with_reducible refine coreOk_to ?_)

end Sys2Proof.Machine
end

