-- ==== Sys2Proof/Laws/KeepsStreams.lean ====
section
/-! SUPPORT. The operations of Machine/Streams.lean keep every memory in canonical form: one lemma for each. -/

namespace Sys2Proof.Machine

theorem scrubErrors_memOk : ∀ x0 x1 x2 x3, State.MemOk x0 → State.MemOk (scrubErrors x0 x1 x2 x3) := by
  intro x0 x1 x2 x3 h0
  unfold scrubErrors
  repeat' first
    | with_reducible assumption
    | with_reducible intro _
    | (extract_lets +onlyGivenNames x; with_reducible refine memOk_cut x ?_ ?_ <;> [(dsimp only [x]; clear x); (clear_value x; intro _)])
    | (extract_lets +onlyGivenNames x; clear_value x)
    | with_reducible apply hf
    | with_reducible apply lineCorrected_memOk
    | with_reducible apply onDieReports_memOk
    | with_reducible apply lineUncorrected_memOk
    | (with_reducible apply memOk_foldl; intro _ _ _)

theorem execStackScrub_memOk : ∀ x0 x1 x2, State.MemOk x2 → OutOk (execStackScrub x0 x1 x2) := by
  intro x0 x1 x2 h0
  unfold execStackScrub
  repeat' first
    | with_reducible assumption
    | with_reducible intro _
    | (extract_lets +onlyGivenNames x; with_reducible refine memOk_cut x ?_ ?_ <;> [(dsimp only [x]; clear x); (clear_value x; intro _)])
    | (extract_lets +onlyGivenNames x; with_reducible refine stacks_cut x ?_; dsimp only [x]; clear x)
    | (extract_lets +onlyGivenNames x; clear_value x)
    | with_reducible apply hf
    | with_reducible apply scrubErrors_memOk
    | with_reducible apply outOk_next
    | split
    | (with_reducible refine memOk_mk ?_; with_reducible refine memOk_to ?_)

theorem setQueue_memOk : ∀ x0 x1 x2 x3, State.MemOk x0 → State.MemOk (setQueue x0 x1 x2 x3) := by
  intro x0 x1 x2 x3 h0
  unfold setQueue
  repeat' first
    | with_reducible assumption
    | (extract_lets +onlyGivenNames x; clear_value x)
    | (with_reducible refine memOk_mk ?_; with_reducible refine memOk_to ?_)

theorem refreshSe_memOk : ∀ x0 x1, State.MemOk x0 → State.MemOk (refreshSe x0 x1) := by
  intro x0 x1 h0
  unfold refreshSe
  repeat' first
    | with_reducible assumption
    | with_reducible apply setN_memOk

theorem setTrim_memOk : ∀ x0 x1 x2 x3, State.MemOk x0 → State.MemOk (setTrim x0 x1 x2 x3) := by
  intro x0 x1 x2 x3 h0
  unfold setTrim
  repeat' first
    | with_reducible assumption
    | with_reducible intro _
    | split
    | (with_reducible refine memOk_mk ?_; with_reducible refine memOk_to ?_)

theorem beginTrim_memOk : ∀ x0 x1 x2, State.MemOk x0 → State.MemOk (beginTrim x0 x1 x2) := by
  intro x0 x1 x2 h0
  unfold beginTrim
  repeat' first
    | with_reducible assumption
    | with_reducible intro _
    | (extract_lets +onlyGivenNames x; clear_value x)
    | with_reducible apply setTrim_memOk
    | split

theorem armFrom_memOk : ∀ x0 x1 x2 x3, State.MemOk x0 → State.MemOk (armFrom x0 x1 x2 x3) := by
  intro x0 x1 x2 x3 h0
  unfold armFrom
  repeat' first
    | with_reducible assumption
    | with_reducible intro _
    | (extract_lets +onlyGivenNames x; clear_value x)
    | with_reducible apply hf
    | with_reducible apply refreshSe_memOk
    | with_reducible apply beginTrim_memOk
    | with_reducible apply setQueue_memOk
    | split

theorem armDesc_memOk : ∀ x0 x1 x2, State.MemOk x0 → State.MemOk (armDesc x0 x1 x2) := by
  intro x0 x1 x2 h0
  unfold armDesc
  repeat' first
    | with_reducible assumption
    | with_reducible intro _
    | with_reducible apply armFrom_memOk

theorem armScheduled_memOk : ∀ x0 x1 x2 x3, State.MemOk x0 → State.MemOk (armScheduled x0 x1 x2 x3) := by
  intro x0 x1 x2 x3 h0
  unfold armScheduled
  repeat' first
    | with_reducible assumption
    | with_reducible intro _
    | with_reducible apply armFrom_memOk
    | split
    | with_reducible refine fst_state_eq (by with_reducible assumption) ?_
    | with_reducible refine snd_state_eq (by with_reducible assumption) ?_
    | with_reducible refine snd_core_eq (by with_reducible assumption) ?_
    | (with_reducible refine memOk_mk ?_; with_reducible refine memOk_to ?_)

theorem rearmReplayed_memOk : ∀ x0, State.MemOk x0 → State.MemOk (rearmReplayed x0) := by
  intro x0 h0
  unfold rearmReplayed
  repeat' first
    | with_reducible assumption
    | with_reducible intro _
    | (extract_lets +onlyGivenNames x; clear_value x)
    | with_reducible apply hf
    | with_reducible apply armScheduled_memOk
    | (with_reducible apply memOk_foldl; intro _ _ _)
    | (with_reducible apply memOk_foldl_fst; intro _ _ _)
    | (with_reducible apply coreOk_foldl; intro _ _ _)
    | split
    | with_reducible refine fst_state_eq (by with_reducible assumption) ?_
    | with_reducible refine snd_state_eq (by with_reducible assumption) ?_
    | with_reducible refine snd_core_eq (by with_reducible assumption) ?_
    | (with_reducible refine memOk_mk ?_; with_reducible refine memOk_to ?_)

theorem execArm_memOk : ∀ x0 x1 x2, State.MemOk x2 → OutOk (execArm x0 x1 x2) := by
  intro x0 x1 x2 h0
  unfold execArm
  repeat' first
    | with_reducible assumption
    | with_reducible intro _
    | with_reducible apply ownWriteDom_memOk
    | with_reducible apply armDesc_memOk
    | with_reducible apply outOk_next
    | split

theorem execArmPacket_memOk : ∀ x0 x1 x2, State.MemOk x2 → OutOk (execArmPacket x0 x1 x2) := by
  intro x0 x1 x2 h0
  unfold execArmPacket
  repeat' first
    | with_reducible assumption
    | with_reducible intro _
    | (extract_lets +onlyGivenNames x; clear_value x)
    | with_reducible apply raise_memOk
    | with_reducible apply count64_memOk
    | with_reducible apply armDesc_memOk
    | with_reducible apply outOk_next
    | split

theorem cancelEffect_memOk : ∀ x0 x1 x2, State.MemOk x1 → State.MemOk (cancelEffect x0 x1 x2) := by
  intro x0 x1 x2 h0
  unfold cancelEffect
  repeat' first
    | with_reducible assumption
    | (extract_lets +onlyGivenNames x; clear_value x)
    | with_reducible apply setQueue_memOk

theorem execCancel_memOk : ∀ x0 x1 x2, State.MemOk x2 → OutOk (execCancel x0 x1 x2) := by
  intro x0 x1 x2 h0
  unfold execCancel
  repeat' first
    | with_reducible assumption
    | with_reducible intro _
    | with_reducible apply ownWrite_memOk
    | with_reducible apply cancelEffect_memOk
    | with_reducible apply outOk_next
    | split

theorem noteServed_memOk : ∀ x0 x1 x2 x3, State.MemOk x0 → State.MemOk (noteServed x0 x1 x2 x3) := by
  intro x0 x1 x2 x3 h0
  unfold noteServed
  repeat' first
    | with_reducible assumption
    | with_reducible intro _
    | (extract_lets +onlyGivenNames x; clear_value x)
    | with_reducible apply hf
    | split
    | with_reducible refine fst_state_eq (by with_reducible assumption) ?_
    | with_reducible refine snd_state_eq (by with_reducible assumption) ?_
    | with_reducible refine snd_core_eq (by with_reducible assumption) ?_
    | (with_reducible refine memOk_mk ?_; with_reducible refine memOk_to ?_)

theorem execDescriptorComplete_memOk : ∀ x0 x1 x2, State.MemOk x2 → OutOk (execDescriptorComplete x0 x1 x2) := by
  intro x0 x1 x2 h0
  unfold execDescriptorComplete
  repeat' first
    | with_reducible assumption
    | with_reducible intro _
    | (extract_lets +onlyGivenNames x; with_reducible refine memOk_cut x ?_ ?_ <;> [(dsimp only [x]; clear x); (clear_value x; intro _)])
    | (extract_lets +onlyGivenNames x; clear_value x)
    | with_reducible apply hf
    | with_reducible apply setQueue_memOk
    | with_reducible apply noteServed_memOk
    | with_reducible apply refreshSe_memOk
    | with_reducible apply rearmReplayed_memOk
    | with_reducible apply beginTrim_memOk
    | with_reducible apply outOk_next
    | split

theorem countPoison_memOk : ∀ x0 x1 x2, State.MemOk x0 → State.MemOk (countPoison x0 x1 x2) := by
  intro x0 x1 x2 h0
  unfold countPoison
  repeat' first
    | with_reducible assumption
    | with_reducible intro _
    | with_reducible apply raise_memOk
    | with_reducible apply addN_memOk
    | split

theorem sendPackets_memOk : ∀ x0 x1 x2, State.MemOk x0 → State.MemOk (sendPackets x0 x1 x2) := by
  intro x0 x1 x2 h0
  unfold sendPackets
  repeat' first
    | with_reducible assumption
    | with_reducible intro _
    | (extract_lets +onlyGivenNames x; with_reducible refine memOk_cut x ?_ ?_ <;> [(dsimp only [x]; clear x); (clear_value x; intro _)])
    | (extract_lets +onlyGivenNames x; clear_value x)
    | with_reducible apply hf
    | with_reducible apply crescentInject_memOk
    | with_reducible apply countPoison_memOk
    | (with_reducible apply memOk_foldl; intro _ _ _)

theorem countLayby_memOk : ∀ x0 x1 x2, State.MemOk x0 → State.MemOk (countLayby x0 x1 x2) := by
  intro x0 x1 x2 h0
  unfold countLayby
  repeat' first
    | with_reducible assumption
    | with_reducible intro _
    | with_reducible apply addN_memOk
    | split

theorem writeLayby_memOk : ∀ x0 x1 x2 x3, State.MemOk x0 → State.MemOk (writeLayby x0 x1 x2 x3) := by
  intro x0 x1 x2 x3 h0
  unfold writeLayby
  repeat' first
    | with_reducible assumption
    | with_reducible intro _
    | (extract_lets +onlyGivenNames x; with_reducible refine memOk_cut x ?_ ?_ <;> [(dsimp only [x]; clear x); (clear_value x; intro _)])
    | (extract_lets +onlyGivenNames x; clear_value x)
    | with_reducible apply hf
    | with_reducible apply addN_memOk
    | split
    | with_reducible refine fst_state_eq (by with_reducible assumption) ?_
    | with_reducible refine snd_state_eq (by with_reducible assumption) ?_
    | with_reducible refine snd_core_eq (by with_reducible assumption) ?_
    | (with_reducible refine memOk_mk ?_; with_reducible refine memOk_to ?_)

theorem countRun_memOk : ∀ x0 x1 x2, State.MemOk x0 → State.MemOk (countRun x0 x1 x2) := by
  intro x0 x1 x2 h0
  unfold countRun
  repeat' first
    | with_reducible assumption
    | (extract_lets +onlyGivenNames x; refine memOk_cut x ?_ ?_ <;> [(dsimp only [x]; clear x); (clear_value x; intro _)])
    | with_reducible apply count64_memOk
    | with_reducible apply raise_memOk
    | split

theorem readRows_memOk : ∀ x0 x1 x2 x3 x4, State.MemOk x0 → State.MemOk (readRows x0 x1 x2 x3 x4) := by
  intro x0 x1 x2 x3 x4 h0
  unfold readRows
  repeat' first
    | with_reducible assumption
    | with_reducible intro _
    | with_reducible apply countLayby_memOk
    | (with_reducible apply memOk_foldl; intro _ _ _)

theorem grantTrimmed_memOk : ∀ x0 x1 x2 x3 x4 x5, State.MemOk x0 → State.MemOk (grantTrimmed x0 x1 x2 x3 x4 x5) := by
  intro x0 x1 x2 x3 x4 x5 h0
  unfold grantTrimmed
  repeat' first
    | with_reducible assumption
    | with_reducible intro _
    | (extract_lets +onlyGivenNames x; with_reducible refine memOk_cut x ?_ ?_ <;> [(dsimp only [x]; clear x); (clear_value x; intro _)])
    | (extract_lets +onlyGivenNames x; clear_value x)
    | with_reducible apply readRows_memOk
    | with_reducible apply countRun_memOk
    | with_reducible apply meetErrors_memOk
    | with_reducible apply setTrim_memOk
    | split

theorem copyRun_memOk : ∀ x0 x1 x2 x3, State.MemOk x0 → State.MemOk (copyRun x0 x1 x2 x3) := by
  intro x0 x1 x2 x3 h0
  unfold copyRun
  repeat' first
    | with_reducible assumption
    | with_reducible intro _
    | with_reducible apply stkWrite_memOk
    | (with_reducible apply memOk_foldl; intro _ _ _)

theorem execStackGrant_memOk : ∀ x0 x1 x2 x3, State.MemOk x3 → OutOk (execStackGrant x0 x1 x2 x3) := by
  intro x0 x1 x2 x3 h0
  unfold execStackGrant
  repeat' first
    | with_reducible assumption
    | with_reducible intro _
    | (extract_lets +onlyGivenNames x; with_reducible refine memOk_cut x ?_ ?_ <;> [(dsimp only [x]; clear x); (clear_value x; intro _)])
    | (extract_lets +onlyGivenNames x; clear_value x)
    | with_reducible apply hf
    | with_reducible apply setQueue_memOk
    | with_reducible apply grantTrimmed_memOk
    | with_reducible apply countRun_memOk
    | with_reducible apply meetErrors_memOk
    | with_reducible apply writeLayby_memOk
    | with_reducible apply countLayby_memOk
    | with_reducible apply countPoison_memOk
    | with_reducible apply copyRun_memOk
    | with_reducible apply sendPackets_memOk
    | with_reducible apply outOk_next
    | split

theorem discardInbound_memOk : ∀ x0 x1, State.MemOk x0 → State.MemOk (discardInbound x0 x1) := by
  intro x0 x1 h0
  unfold discardInbound
  repeat' first
    | with_reducible assumption
    | with_reducible apply count64_memOk

theorem acceptInbound_memOk : ∀ x0 x1 x2 x3 x4 x5 x6, State.MemOk x0 → State.MemOk (acceptInbound x0 x1 x2 x3 x4 x5 x6) := by
  intro x0 x1 x2 x3 x4 x5 x6 h0
  unfold acceptInbound
  repeat' first
    | with_reducible assumption
    | with_reducible intro _
    | (extract_lets +onlyGivenNames x; with_reducible refine memOk_cut x ?_ ?_ <;> [(dsimp only [x]; clear x); (clear_value x; intro _)])
    | (extract_lets +onlyGivenNames x; clear_value x)
    | with_reducible apply hf
    | with_reducible apply stkWrite_memOk
    | with_reducible apply setQueue_memOk
    | with_reducible apply raise_memOk
    | with_reducible apply count64_memOk
    | with_reducible apply writeLayby_memOk
    | with_reducible apply countPoison_memOk
    | (with_reducible apply memOk_foldl; intro _ _ _)
    | (with_reducible apply memOk_foldl_fst; intro _ _ _)
    | (with_reducible apply coreOk_foldl; intro _ _ _)
    | split

theorem inboundAt_memOk : ∀ x0 x1 x2 x3 x4, State.MemOk x0 → State.MemOk (inboundAt x0 x1 x2 x3 x4) := by
  intro x0 x1 x2 x3 x4 h0
  unfold inboundAt
  repeat' first
    | with_reducible assumption
    | with_reducible intro _
    | with_reducible apply discardInbound_memOk
    | with_reducible apply acceptInbound_memOk
    | split

theorem execInboundPacket_memOk : ∀ x0 x1 x2 x3, State.MemOk x3 → OutOk (execInboundPacket x0 x1 x2 x3) := by
  intro x0 x1 x2 x3 h0
  unfold execInboundPacket
  repeat' first
    | with_reducible assumption
    | with_reducible intro _
    | (extract_lets +onlyGivenNames x; clear_value x)
    | with_reducible apply hf
    | with_reducible apply inboundAt_memOk
    | with_reducible apply outOk_next
    | split

theorem addMap_memOk : ∀ x0 x1 x2 x3, State.MemOk x0 → State.MemOk (addMap x0 x1 x2 x3) := by
  intro x0 x1 x2 x3 h0
  unfold addMap
  repeat' first
    | with_reducible assumption
    | with_reducible intro _
    | (extract_lets +onlyGivenNames x; clear_value x)
    | with_reducible apply hf
    | with_reducible apply setTrim_memOk

theorem mapAt_memOk : ∀ x0 x1 x2, State.MemOk x0 → State.MemOk (mapAt x0 x1 x2) := by
  intro x0 x1 x2 h0
  unfold mapAt
  repeat' first
    | with_reducible assumption
    | with_reducible intro _
    | (extract_lets +onlyGivenNames x; clear_value x)
    | with_reducible apply hf
    | with_reducible apply addMap_memOk
    | with_reducible apply count64_memOk
    | (with_reducible apply memOk_foldl; intro _ _ _)
    | split

theorem execMapPacketReceive_memOk : ∀ x0 x1 x2, State.MemOk x2 → OutOk (execMapPacketReceive x0 x1 x2) := by
  intro x0 x1 x2 h0
  unfold execMapPacketReceive
  repeat' first
    | with_reducible assumption
    | with_reducible intro _
    | with_reducible apply mapAt_memOk
    | with_reducible apply outOk_next
    | split

theorem countTile_memOk : ∀ x0 x1 x2 x3 x4 x5 x6 x7, State.MemOk x0 → State.MemOk (countTile x0 x1 x2 x3 x4 x5 x6 x7) := by
  intro x0 x1 x2 x3 x4 x5 x6 x7 h0
  unfold countTile
  repeat' first
    | with_reducible assumption
    | with_reducible intro _
    | (extract_lets +onlyGivenNames x; with_reducible refine memOk_cut x ?_ ?_ <;> [(dsimp only [x]; clear x); (clear_value x; intro _)])
    | (extract_lets +onlyGivenNames x; clear_value x)
    | with_reducible apply addN_memOk
    | with_reducible apply raise_memOk
    | split

theorem sendTile_memOk : ∀ x0 x1 x2 x3 x4 x5 x6, State.MemOk x0 → State.MemOk (sendTile x0 x1 x2 x3 x4 x5 x6) := by
  intro x0 x1 x2 x3 x4 x5 x6 h0
  unfold sendTile
  repeat' first
    | with_reducible assumption
    | with_reducible intro _
    | (extract_lets +onlyGivenNames x; with_reducible refine memOk_cut x ?_ ?_ <;> [(dsimp only [x]; clear x); (clear_value x; intro _)])
    | (extract_lets +onlyGivenNames x; clear_value x)
    | with_reducible apply hf
    | with_reducible apply meetErrors_memOk
    | with_reducible apply readRows_memOk
    | with_reducible apply countRun_memOk
    | with_reducible apply countTile_memOk
    | with_reducible apply sendPackets_memOk
    | with_reducible apply setTrim_memOk
    | with_reducible apply setQueue_memOk
    | split

theorem execTrimmedTileSend_memOk : ∀ x0 x1 x2 x3 x4, State.MemOk x4 → OutOk (execTrimmedTileSend x0 x1 x2 x3 x4) := by
  intro x0 x1 x2 x3 x4 h0
  unfold execTrimmedTileSend
  repeat' first
    | with_reducible assumption
    | with_reducible intro _
    | (extract_lets +onlyGivenNames x; clear_value x)
    | with_reducible apply sendTile_memOk
    | with_reducible apply outOk_next
    | split

theorem execMapWaitExpiry_memOk : ∀ x0 x1 x2 x3, State.MemOk x3 → OutOk (execMapWaitExpiry x0 x1 x2 x3) := by
  intro x0 x1 x2 x3 h0
  unfold execMapWaitExpiry
  repeat' first
    | with_reducible assumption
    | with_reducible intro _
    | (extract_lets +onlyGivenNames x; with_reducible refine memOk_cut x ?_ ?_ <;> [(dsimp only [x]; clear x); (clear_value x; intro _)])
    | (extract_lets +onlyGivenNames x; clear_value x)
    | with_reducible apply raise_memOk
    | with_reducible apply count64_memOk
    | with_reducible apply sendTile_memOk
    | with_reducible apply outOk_next
    | split

end Sys2Proof.Machine
end

