-- ==== Sys2Proof/Laws/KeepsEther.lean ====
section
/-! SUPPORT. The operations of Machine/Ether.lean keep every memory in canonical form: one lemma for each. -/

namespace Sys2Proof.Machine

theorem sendDatagram_memOk : ∀ x0 x1 x2, State.MemOk x0 → State.MemOk (sendDatagram x0 x1 x2) := by
  intro x0 x1 x2 h0
  unfold sendDatagram
  repeat' first
    | with_reducible assumption
    | with_reducible intro _
    | with_reducible apply emit_memOk
    | with_reducible apply addN_memOk

theorem sendSegment_memOk : ∀ x0 x1 x2 x3 x4 x5, State.MemOk x0 → State.MemOk (sendSegment x0 x1 x2 x3 x4 x5) := by
  intro x0 x1 x2 x3 x4 x5 h0
  unfold sendSegment
  repeat' first
    | with_reducible assumption
    | (extract_lets +onlyGivenNames x; refine memOk_cut x ?_ ?_ <;> [(dsimp only [x]; clear x); (clear_value x; intro _)])
    | (extract_lets +onlyGivenNames x; clear_value x)
    | with_reducible apply count64_memOk
    | with_reducible apply raise_memOk
    | with_reducible apply sendDatagram_memOk
    | split

theorem putTx_memOk : ∀ x0 x1, State.MemOk x0 → State.MemOk (putTx x0 x1) := by
  intro x0 x1 h0
  unfold putTx
  repeat' first
    | with_reducible assumption
    | (extract_lets +onlyGivenNames x; clear_value x)
    | (with_reducible refine memOk_mk ?_; with_reducible refine memOk_to ?_)

theorem sendWaiting_memOk : ∀ x0 x1 x2, State.MemOk x0 → State.MemOk (sendWaiting x0 x1 x2) := by
  intro x0 x1 x2 h0
  unfold sendWaiting
  repeat' first
    | with_reducible assumption
    | (extract_lets +onlyGivenNames x; refine memOk_cut x ?_ ?_ <;> [(dsimp only [x]; clear x); (clear_value x; intro _)])
    | (extract_lets +onlyGivenNames x; clear_value x)
    | with_reducible apply putTx_memOk
    | with_reducible apply sendSegment_memOk
    | (with_reducible apply memOk_foldl; intro _ _ _)
    | split

theorem pumpType_memOk : ∀ x0 x1, State.MemOk x0 → State.MemOk (pumpType x0 x1) := by
  intro x0 x1 h0
  unfold pumpType
  repeat' first
    | with_reducible assumption
    | with_reducible intro _
    | with_reducible apply sendWaiting_memOk
    | (with_reducible apply memOk_foldl; intro _ _ _)

theorem pumpFlows_memOk : ∀ x0, State.MemOk x0 → State.MemOk (pumpFlows x0) := by
  intro x0 h0
  unfold pumpFlows
  repeat' first
    | with_reducible assumption
    | with_reducible intro _
    | with_reducible apply pumpType_memOk

theorem execTransportMessageSend_memOk : ∀ x0 x1 x2, State.MemOk x2 → OutOk (execTransportMessageSend x0 x1 x2) := by
  intro x0 x1 x2 h0
  unfold execTransportMessageSend
  repeat' first
    | with_reducible assumption
    | with_reducible intro _
    | with_reducible apply sendWaiting_memOk
    | with_reducible apply pumpType_memOk
    | with_reducible apply outOk_next
    | split

theorem execRetxTimeout_memOk : ∀ x0 x1 x2, State.MemOk x2 → OutOk (execRetxTimeout x0 x1 x2) := by
  intro x0 x1 x2 h0
  unfold execRetxTimeout
  repeat' first
    | with_reducible assumption
    | with_reducible intro _
    | (extract_lets +onlyGivenNames x; with_reducible refine memOk_cut x ?_ ?_ <;> [(dsimp only [x]; clear x); (clear_value x; intro _)])
    | (extract_lets +onlyGivenNames x; clear_value x)
    | with_reducible apply pumpType_memOk
    | with_reducible apply sendSegment_memOk
    | with_reducible apply putTx_memOk
    | (with_reducible apply memOk_foldl; intro _ _ _)
    | with_reducible apply outOk_next
    | split

theorem putRx_memOk : ∀ x0 x1, State.MemOk x0 → State.MemOk (putRx x0 x1) := by
  intro x0 x1 h0
  unfold putRx
  repeat' first
    | with_reducible assumption
    | (extract_lets +onlyGivenNames x; clear_value x)
    | (with_reducible refine memOk_mk ?_; with_reducible refine memOk_to ?_)

theorem sendAck_memOk : ∀ x0 x1, State.MemOk x0 → State.MemOk (sendAck x0 x1) := by
  intro x0 x1 h0
  unfold sendAck
  repeat' first
    | with_reducible assumption
    | with_reducible intro _
    | with_reducible apply putRx_memOk
    | with_reducible apply sendDatagram_memOk
    | split

theorem holdEpoch_memOk : ∀ x0 x1, State.MemOk x0 → State.MemOk (holdEpoch x0 x1) := by
  intro x0 x1 h0
  unfold holdEpoch
  repeat' first
    | with_reducible assumption
    | with_reducible intro _
    | split
    | (with_reducible refine memOk_mk ?_; with_reducible refine memOk_to ?_)

theorem discardDatagram_memOk : ∀ x0, State.MemOk x0 → State.MemOk (discardDatagram x0) := by
  intro x0 h0
  unfold discardDatagram
  repeat' first
    | with_reducible assumption
    | with_reducible apply raise_memOk
    | with_reducible apply count64_memOk

theorem resendStep_memOk : ∀ x0 x1, State.MemOk x0 → State.MemOk (resendStep x0 x1) := by
  intro x0 x1 h0
  unfold resendStep
  repeat' first
    | with_reducible assumption
    | (extract_lets +onlyGivenNames x; refine memOk_cut x ?_ ?_ <;> [(dsimp only [x]; clear x); (clear_value x; intro _)])
    | (extract_lets +onlyGivenNames x; clear_value x)
    | with_reducible apply ethEnqueue_memOk
    | (with_reducible apply memOk_foldl; intro _ _ _)
    | (with_reducible refine memOk_mk ?_; with_reducible refine memOk_to ?_)

theorem newEpoch_memOk : ∀ x0 x1, State.MemOk x0 → State.MemOk (newEpoch x0 x1) := by
  intro x0 x1 h0
  unfold newEpoch
  repeat' first
    | with_reducible assumption
    | (extract_lets +onlyGivenNames x; refine memOk_cut x ?_ ?_ <;> [(dsimp only [x]; clear x); (clear_value x; intro _)])
    | (extract_lets +onlyGivenNames x; clear_value x)
    | with_reducible apply resendStep_memOk
    | with_reducible apply raise_memOk
    | (with_reducible refine memOk_mk ?_; with_reducible refine memOk_to ?_)

theorem countArrival_memOk : ∀ x0 x1 x2, State.MemOk x0 → State.MemOk (countArrival x0 x1 x2) := by
  intro x0 x1 x2 h0
  unfold countArrival
  repeat' first
    | with_reducible assumption
    | with_reducible intro _
    | (extract_lets +onlyGivenNames x; clear_value x)
    | with_reducible apply addN_memOk

theorem admitDatagram_memOk : ∀ x0 x1 x2 x3, State.MemOk x0 → State.MemOk ((admitDatagram x0 x1 x2 x3).1) := by
  intro x0 x1 x2 x3 h0
  unfold admitDatagram
  repeat' first
    | with_reducible assumption
    | with_reducible intro _
    | (extract_lets +onlyGivenNames x; with_reducible refine memOk_cut x ?_ ?_ <;> [(dsimp only [x]; clear x); (clear_value x; intro _)])
    | with_reducible apply countArrival_memOk
    | with_reducible apply discardDatagram_memOk
    | with_reducible apply newEpoch_memOk
    | with_reducible apply holdEpoch_memOk
    | split

theorem handEncap_memOk : ∀ x0 x1 x2, State.MemOk x0 → State.MemOk (handEncap x0 x1 x2) := by
  intro x0 x1 x2 h0
  unfold handEncap
  repeat' first
    | with_reducible assumption
    | with_reducible apply crossFrame_memOk
    | (with_reducible apply memOk_foldl; intro _ _ _)
    | split

theorem advanceCum_memOk (s : State) (f : RxFlow) (n : Nat) (h : s.MemOk) : (advanceCum s f n).1.MemOk := by
  induction n generalizing s f with
  | zero => exact h
  | succ n ih =>
    unfold advanceCum
    split
    · exact h
    · dsimp only
      refine ih _ _ ?_
      split
      · exact handEncap_memOk _ _ _ h
      · exact h

theorem messageWritten_memOk : ∀ x0 x1 x2, State.MemOk x0 → State.MemOk (messageWritten x0 x1 x2) := by
  intro x0 x1 x2 h0
  unfold messageWritten
  repeat' first
    | with_reducible assumption
    | (extract_lets +onlyGivenNames x; refine fstOk_cut x ?_ ?_ <;> [(dsimp only [x]; clear x); (clear_value x; intro _)])
    | with_reducible apply advanceCum_memOk
    | with_reducible apply sendAck_memOk

theorem deliverMessage_memOk : ∀ x0 x1 x2, State.MemOk x0 → State.MemOk (deliverMessage x0 x1 x2) := by
  intro x0 x1 x2 h0
  unfold deliverMessage
  repeat' first
    | with_reducible assumption
    | with_reducible intro _
    | (extract_lets +onlyGivenNames x; with_reducible refine fun1Ok_cut x ?_ ?_ <;> [(dsimp only [x]; clear x); (clear_value x; intro hf)])
    | (extract_lets +onlyGivenNames x; clear_value x)
    | with_reducible apply hf
    | with_reducible apply putRx_memOk
    | with_reducible apply count64_memOk
    | with_reducible apply receiveMsg_memOk
    | with_reducible apply messageWritten_memOk
    | split

theorem retryFlows_memOk : ∀ x0, State.MemOk x0 → State.MemOk (retryFlows x0) := by
  intro x0 h0
  unfold retryFlows
  repeat' first
    | with_reducible assumption
    | (extract_lets +onlyGivenNames x; clear_value x)
    | with_reducible apply deliverMessage_memOk
    | (with_reducible apply memOk_foldl; intro _ _ _)
    | split

theorem takeSegment_memOk : ∀ x0 x1 x2, State.MemOk x0 → State.MemOk (takeSegment x0 x1 x2) := by
  intro x0 x1 x2 h0
  unfold takeSegment
  repeat' first
    | with_reducible assumption
    | (extract_lets +onlyGivenNames x; clear_value x)
    | with_reducible apply sendAck_memOk
    | with_reducible apply count64_memOk
    | with_reducible apply putRx_memOk
    | with_reducible apply messageWritten_memOk
    | with_reducible apply deliverMessage_memOk
    | split

theorem execDatagramData_memOk : ∀ x0 x1, State.MemOk x1 → OutOk (execDatagramData x0 x1) := by
  intro x0 x1 h0
  unfold execDatagramData
  repeat' first
    | with_reducible assumption
    | with_reducible intro _
    | (extract_lets +onlyGivenNames x; with_reducible refine fstOk_cut x ?_ ?_ <;> [(dsimp only [x]; clear x); (clear_value x; intro _)])
    | (extract_lets +onlyGivenNames x; clear_value x)
    | with_reducible apply hf
    | with_reducible apply admitDatagram_memOk
    | with_reducible apply metStacks_memOk
    | with_reducible apply takeSegment_memOk
    | with_reducible apply outOk_next
    | split

theorem execDatagramEncap_memOk : ∀ x0 x1, State.MemOk x1 → OutOk (execDatagramEncap x0 x1) := by
  intro x0 x1 h0
  unfold execDatagramEncap
  repeat' first
    | with_reducible assumption
    | with_reducible intro _
    | (extract_lets +onlyGivenNames x; with_reducible refine fstOk_cut x ?_ ?_ <;> [(dsimp only [x]; clear x); (clear_value x; intro _)])
    | (extract_lets +onlyGivenNames x; clear_value x)
    | with_reducible apply admitDatagram_memOk
    | with_reducible apply takeSegment_memOk
    | with_reducible apply outOk_next
    | split

theorem execDatagramAck_memOk : ∀ x0 x1, State.MemOk x1 → OutOk (execDatagramAck x0 x1) := by
  intro x0 x1 h0
  unfold execDatagramAck
  repeat' first
    | with_reducible assumption
    | with_reducible intro _
    | (extract_lets +onlyGivenNames x; with_reducible refine memOk_cut x ?_ ?_ <;> [(dsimp only [x]; clear x); (clear_value x; intro _)])
    | (extract_lets +onlyGivenNames x; with_reducible refine fstOk_cut x ?_ ?_ <;> [(dsimp only [x]; clear x); (clear_value x; intro _)])
    | (extract_lets +onlyGivenNames x; clear_value x)
    | with_reducible apply hf
    | with_reducible apply admitDatagram_memOk
    | with_reducible apply discardDatagram_memOk
    | with_reducible apply putTx_memOk
    | with_reducible apply pumpType_memOk
    | with_reducible apply sendSegment_memOk
    | with_reducible apply outOk_next
    | (with_reducible apply memOk_foldl; intro _ _ _)
    | (with_reducible apply memOk_foldl_fst; intro _ _ _)
    | (with_reducible apply coreOk_foldl; intro _ _ _)
    | split

theorem execAckDelayExpiry_memOk : ∀ x0 x1 x2, State.MemOk x2 → OutOk (execAckDelayExpiry x0 x1 x2) := by
  intro x0 x1 x2 h0
  unfold execAckDelayExpiry
  repeat' first
    | with_reducible assumption
    | with_reducible apply sendAck_memOk
    | with_reducible apply outOk_next
    | split

theorem sendOwed_memOk : ∀ x0, State.MemOk x0 → State.MemOk (sendOwed x0) := by
  intro x0 h0
  unfold sendOwed
  repeat' first
    | with_reducible assumption
    | with_reducible intro _
    | with_reducible apply sendAck_memOk
    | (with_reducible apply memOk_foldl; intro _ _ _)

theorem solicitGateway_memOk : ∀ x0 x1, State.MemOk x0 → State.MemOk (solicitGateway x0 x1) := by
  intro x0 x1 h0
  unfold solicitGateway
  repeat' first
    | with_reducible assumption
    | with_reducible intro _
    | with_reducible apply emit_memOk
    | split

theorem execEpPortUp_memOk : ∀ x0 x1, State.MemOk x1 → OutOk (execEpPortUp x0 x1) := by
  intro x0 x1 h0
  unfold execEpPortUp
  repeat' first
    | with_reducible assumption
    | with_reducible intro _
    | with_reducible apply sendOwed_memOk
    | with_reducible apply pumpFlows_memOk
    | with_reducible apply solicitGateway_memOk
    | with_reducible apply setN_memOk
    | with_reducible apply outOk_next
    | split

theorem execEpPortDown_memOk : ∀ x0 x1, State.MemOk x1 → OutOk (execEpPortDown x0 x1) := by
  intro x0 x1 h0
  unfold execEpPortDown
  repeat' first
    | with_reducible assumption
    | with_reducible apply raise_memOk
    | with_reducible apply setN_memOk
    | with_reducible apply outOk_next
    | split

theorem epEnableEffect_memOk : ∀ x0 x1 x2, State.MemOk x1 → State.MemOk (epEnableEffect x0 x1 x2) := by
  intro x0 x1 x2 h0
  unfold epEnableEffect
  repeat' first
    | with_reducible assumption
    | (extract_lets +onlyGivenNames x; refine memOk_cut x ?_ ?_ <;> [(dsimp only [x]; clear x); (clear_value x; intro _)])
    | with_reducible apply setN_memOk
    | split

theorem execEpEnable_memOk : ∀ x0 x1 x2, State.MemOk x2 → OutOk (execEpEnable x0 x1 x2) := by
  intro x0 x1 x2 h0
  unfold execEpEnable
  repeat' first
    | with_reducible assumption
    | with_reducible intro _
    | with_reducible apply ownWrite_memOk
    | with_reducible apply epEnableEffect_memOk
    | with_reducible apply outOk_next

theorem execNeighborDiscoveryReceive_memOk : ∀ x0 x1 x2 x3 x4, State.MemOk x4 → OutOk (execNeighborDiscoveryReceive x0 x1 x2 x3 x4) := by
  intro x0 x1 x2 x3 x4 h0
  unfold execNeighborDiscoveryReceive
  repeat' first
    | with_reducible assumption
    | (extract_lets +onlyGivenNames x; clear_value x)
    | with_reducible apply emit_memOk
    | with_reducible apply outOk_next
    | split
    | (with_reducible refine memOk_mk ?_; with_reducible refine memOk_to ?_)

end Sys2Proof.Machine
end

