-- ==== Sys2Proof/Laws/KeepsHostIf.lean ====
section
/-! SUPPORT. The operations of Machine/HostIf.lean keep every memory in canonical form: one lemma for each. -/

namespace Sys2Proof.Machine

theorem setBar_memOk : ∀ x0 x1, State.MemOk x0 → State.MemOk (setBar x0 x1) := by
  intro x0 x1 h0
  unfold setBar
  repeat' first
    | with_reducible assumption
    | (extract_lets +onlyGivenNames x; clear_value x)
    | (with_reducible refine memOk_mk ?_; with_reducible refine memOk_to ?_)

theorem ringIgnored_memOk : ∀ x0, State.MemOk x0 → State.MemOk (ringIgnored x0) := by
  intro x0 h0
  unfold ringIgnored
  repeat' first
    | with_reducible assumption
    | with_reducible apply addN_memOk

theorem execSubTail_memOk : ∀ x0 x1, State.MemOk x1 → OutOk (execSubTail x0 x1) := by
  intro x0 x1 h0
  unfold execSubTail
  repeat' first
    | with_reducible assumption
    | (extract_lets +onlyGivenNames x; clear_value x)
    | with_reducible apply ringIgnored_memOk
    | with_reducible apply setBar_memOk
    | with_reducible apply outOk_next
    | split

theorem execAccHead_memOk : ∀ x0 x1, State.MemOk x1 → OutOk (execAccHead x0 x1) := by
  intro x0 x1 h0
  unfold execAccHead
  repeat' first
    | with_reducible assumption
    | (extract_lets +onlyGivenNames x; clear_value x)
    | with_reducible apply ringIgnored_memOk
    | with_reducible apply setBar_memOk
    | with_reducible apply outOk_next
    | split

theorem execRingBaseWrite_memOk : ∀ x0 x1 x2, State.MemOk x2 → OutOk (execRingBaseWrite x0 x1 x2) := by
  intro x0 x1 x2 h0
  unfold execRingBaseWrite
  repeat' first
    | with_reducible assumption
    | (extract_lets +onlyGivenNames x; clear_value x)
    | with_reducible apply ringIgnored_memOk
    | with_reducible apply setBar_memOk
    | with_reducible apply outOk_next
    | split

theorem writeToken_memOk : ∀ x0 x1, State.MemOk x0 → State.MemOk (writeToken x0 x1) := by
  intro x0 x1 h0
  unfold writeToken
  repeat' first
    | with_reducible assumption
    | (extract_lets +onlyGivenNames x; refine memOk_cut x ?_ ?_ <;> [(dsimp only [x]; clear x); (clear_value x; intro _)])
    | (extract_lets +onlyGivenNames x; clear_value x)
    | (extract_lets +onlyGivenNames x; dsimp only [x]; clear x)
    | with_reducible apply emit_memOk
    | with_reducible apply setBar_memOk

theorem sendToken_memOk : ∀ x0 x1, State.MemOk x0 → State.MemOk (sendToken x0 x1) := by
  intro x0 x1 h0
  unfold sendToken
  repeat' first
    | with_reducible assumption
    | (extract_lets +onlyGivenNames x; clear_value x)
    | with_reducible apply writeToken_memOk
    | split
    | (with_reducible refine memOk_mk ?_; with_reducible refine memOk_to ?_)

theorem execAcceptanceTokenWrite_memOk : ∀ x0, State.MemOk x0 → OutOk (execAcceptanceTokenWrite x0) := by
  intro x0 h0
  unfold execAcceptanceTokenWrite
  repeat' first
    | with_reducible assumption
    | (extract_lets +onlyGivenNames x; clear_value x)
    | with_reducible apply writeToken_memOk
    | with_reducible apply outOk_next
    | split
    | (with_reducible refine memOk_mk ?_; with_reducible refine memOk_to ?_)

theorem setSlot_memOk : ∀ x0 x1 x2, State.MemOk x0 → State.MemOk (setSlot x0 x1 x2) := by
  intro x0 x1 x2 h0
  unfold setSlot
  repeat' first
    | with_reducible assumption
    | with_reducible intro _
    | (extract_lets +onlyGivenNames x; with_reducible refine memOk_cut x ?_ ?_ <;> [(dsimp only [x]; clear x); (clear_value x; intro _)])
    | (extract_lets +onlyGivenNames x; clear_value x)
    | with_reducible apply hf
    | with_reducible apply touch_memOk
    | with_reducible apply setN_memOk
    | split
    | with_reducible refine fst_state_eq (by with_reducible assumption) ?_
    | with_reducible refine snd_state_eq (by with_reducible assumption) ?_
    | with_reducible refine snd_core_eq (by with_reducible assumption) ?_
    | (with_reducible refine memOk_mk ?_; with_reducible refine memOk_to ?_)

theorem refuseTicket_memOk : ∀ x0 x1 x2 x3, State.MemOk x0 → State.MemOk (refuseTicket x0 x1 x2 x3) := by
  intro x0 x1 x2 x3 h0
  unfold refuseTicket
  repeat' first
    | with_reducible assumption
    | (extract_lets +onlyGivenNames x; refine memOk_cut x ?_ ?_ <;> [(dsimp only [x]; clear x); (clear_value x; intro _)])
    | with_reducible apply count64_memOk
    | with_reducible apply sendToken_memOk

theorem storeTokens_memOk : ∀ x0 x1 x2, State.MemOk x0 → State.MemOk (storeTokens x0 x1 x2) := by
  intro x0 x1 x2 h0
  unfold storeTokens
  repeat' first
    | with_reducible assumption
    | with_reducible intro _
    | with_reducible apply stkWrite_memOk
    | split

theorem acceptTicket_memOk : ∀ x0 x1 x2, State.MemOk x0 → State.MemOk (acceptTicket x0 x1 x2) := by
  intro x0 x1 x2 h0
  unfold acceptTicket
  repeat' first
    | with_reducible assumption
    | with_reducible intro _
    | (extract_lets +onlyGivenNames x; with_reducible refine memOk_cut x ?_ ?_ <;> [(dsimp only [x]; clear x); (clear_value x; intro _)])
    | (extract_lets +onlyGivenNames x; clear_value x)
    | with_reducible apply hf
    | with_reducible apply setSlot_memOk
    | with_reducible apply journal_memOk
    | with_reducible apply storeTokens_memOk
    | with_reducible apply count64_memOk
    | with_reducible apply sendToken_memOk
    | split
    | with_reducible refine fst_state_eq (by with_reducible assumption) ?_
    | with_reducible refine snd_state_eq (by with_reducible assumption) ?_
    | with_reducible refine snd_core_eq (by with_reducible assumption) ?_
    | (with_reducible refine memOk_mk ?_; with_reducible refine memOk_to ?_)

theorem judgeTicket_memOk : ∀ x0 x1, State.MemOk x0 → State.MemOk (judgeTicket x0 x1) := by
  intro x0 x1 h0
  unfold judgeTicket
  repeat' first
    | with_reducible assumption
    | (extract_lets +onlyGivenNames x; clear_value x)
    | with_reducible apply refuseTicket_memOk
    | with_reducible apply acceptTicket_memOk
    | split

theorem reportAer_memOk : ∀ x0 x1, State.MemOk x0 → State.MemOk (reportAer x0 x1) := by
  intro x0 x1 h0
  unfold reportAer
  repeat' first
    | with_reducible assumption
    | with_reducible intro _
    | (extract_lets +onlyGivenNames x; with_reducible refine memOk_cut x ?_ ?_ <;> [(dsimp only [x]; clear x); (clear_value x; intro _)])
    | with_reducible apply raise_memOk
    | split

theorem advanceSubHead_memOk : ∀ x0, State.MemOk x0 → State.MemOk (advanceSubHead x0) := by
  intro x0 h0
  unfold advanceSubHead
  repeat' first
    | with_reducible assumption
    | with_reducible apply setBar_memOk

theorem execTicketRead_memOk : ∀ x0 x1, State.MemOk x1 → OutOk (execTicketRead x0 x1) := by
  intro x0 x1 h0
  unfold execTicketRead
  repeat' first
    | with_reducible assumption
    | with_reducible intro _
    | (extract_lets +onlyGivenNames x; clear_value x)
    | with_reducible apply advanceSubHead_memOk
    | with_reducible apply judgeTicket_memOk
    | with_reducible apply reportAer_memOk
    | with_reducible apply outOk_next
    | split

theorem writeResultOf_memOk : ∀ x0 x1 x2 x3 x4 x5, State.MemOk x0 → State.MemOk (writeResultOf x0 x1 x2 x3 x4 x5) := by
  intro x0 x1 x2 x3 x4 x5 h0
  unfold writeResultOf
  repeat' first
    | with_reducible assumption
    | with_reducible intro _
    | (extract_lets +onlyGivenNames x; clear_value x)
    | with_reducible apply hf
    | with_reducible apply emit_memOk
    | with_reducible apply setSlot_memOk

theorem writeResult_memOk : ∀ x0 x1 x2 x3, State.MemOk x0 → State.MemOk (writeResult x0 x1 x2 x3) := by
  intro x0 x1 x2 x3 h0
  unfold writeResult
  repeat' first
    | with_reducible assumption
    | with_reducible apply writeResultOf_memOk

theorem endTicket_memOk : ∀ x0 x1, State.MemOk x0 → State.MemOk (endTicket x0 x1) := by
  intro x0 x1 h0
  unfold endTicket
  repeat' first
    | with_reducible assumption
    | (extract_lets +onlyGivenNames x; clear_value x)
    | (with_reducible refine memOk_mk ?_; with_reducible refine memOk_to ?_)

theorem completeTicket_memOk : ∀ x0 x1 x2 x3, State.MemOk x0 → State.MemOk (completeTicket x0 x1 x2 x3) := by
  intro x0 x1 x2 x3 h0
  unfold completeTicket
  repeat' first
    | with_reducible assumption
    | with_reducible apply endTicket_memOk
    | with_reducible apply writeResult_memOk

theorem reportTicket_memOk : ∀ x0 x1, State.MemOk x0 → State.MemOk (reportTicket x0 x1) := by
  intro x0 x1 h0
  unfold reportTicket
  repeat' first
    | with_reducible assumption
    | with_reducible intro _
    | (extract_lets +onlyGivenNames x; with_reducible refine memOk_cut x ?_ ?_ <;> [(dsimp only [x]; clear x); (clear_value x; intro _)])
    | (extract_lets +onlyGivenNames x; clear_value x)
    | with_reducible apply hf
    | with_reducible apply setSlot_memOk
    | split
    | with_reducible refine fst_state_eq (by with_reducible assumption) ?_
    | with_reducible refine snd_state_eq (by with_reducible assumption) ?_
    | with_reducible refine snd_core_eq (by with_reducible assumption) ?_
    | (with_reducible refine memOk_mk ?_; with_reducible refine memOk_to ?_)

theorem reportTickets_memOk : ∀ x0, State.MemOk x0 → State.MemOk (reportTickets x0) := by
  intro x0 h0
  unfold reportTickets
  repeat' first
    | with_reducible assumption
    | (extract_lets +onlyGivenNames x; refine memOk_cut x ?_ ?_ <;> [(dsimp only [x]; clear x); (clear_value x; intro _)])
    | (extract_lets +onlyGivenNames x; clear_value x)
    | with_reducible apply reportTicket_memOk
    | with_reducible apply setN_memOk
    | (with_reducible apply memOk_foldl; intro _ _ _)
    | (with_reducible refine memOk_mk ?_; with_reducible refine memOk_to ?_)

theorem releaseSlot_memOk : ∀ x0 x1, State.MemOk x0 → State.MemOk (releaseSlot x0 x1) := by
  intro x0 x1 h0
  unfold releaseSlot
  repeat' first
    | with_reducible assumption
    | with_reducible intro _
    | (extract_lets +onlyGivenNames x; with_reducible refine memOk_cut x ?_ ?_ <;> [(dsimp only [x]; clear x); (clear_value x; intro _)])
    | (extract_lets +onlyGivenNames x; clear_value x)
    | with_reducible apply hf
    | with_reducible apply count64_memOk
    | with_reducible apply journal_memOk
    | with_reducible apply setSlot_memOk
    | split
    | with_reducible refine fst_state_eq (by with_reducible assumption) ?_
    | with_reducible refine snd_state_eq (by with_reducible assumption) ?_
    | with_reducible refine snd_core_eq (by with_reducible assumption) ?_
    | (with_reducible refine memOk_mk ?_; with_reducible refine memOk_to ?_)

theorem execRelease_memOk : ∀ x0 x1, State.MemOk x1 → OutOk (execRelease x0 x1) := by
  intro x0 x1 h0
  unfold execRelease
  repeat' first
    | with_reducible assumption
    | with_reducible apply releaseSlot_memOk
    | with_reducible apply outOk_next
    | split

theorem execPcieLinkReset_memOk : ∀ x0, State.MemOk x0 → OutOk (execPcieLinkReset x0) := by
  intro x0 h0
  unfold execPcieLinkReset
  repeat' first
    | with_reducible assumption
    | (extract_lets +onlyGivenNames x; refine memOk_cut x ?_ ?_ <;> [(dsimp only [x]; clear x); (clear_value x; intro _)])
    | (extract_lets +onlyGivenNames x; clear_value x)
    | with_reducible apply raise_memOk
    | with_reducible apply setN_memOk
    | with_reducible apply outOk_next
    | (with_reducible refine memOk_mk ?_; with_reducible refine memOk_to ?_)

theorem execPcieLinkTrained_memOk : ∀ x0 x1 x2, State.MemOk x2 → OutOk (execPcieLinkTrained x0 x1 x2) := by
  intro x0 x1 x2 h0
  unfold execPcieLinkTrained
  repeat' first
    | with_reducible assumption
    | (extract_lets +onlyGivenNames x; refine memOk_cut x ?_ ?_ <;> [(dsimp only [x]; clear x); (clear_value x; intro _)])
    | (extract_lets +onlyGivenNames x; clear_value x)
    | with_reducible apply setN_memOk
    | with_reducible apply outOk_next
    | (with_reducible refine memOk_mk ?_; with_reducible refine memOk_to ?_)

theorem beginWork_memOk : ∀ x0 x1 x2, State.MemOk x0 → State.MemOk (beginWork x0 x1 x2) := by
  intro x0 x1 x2 h0
  unfold beginWork
  repeat' first
    | with_reducible assumption
    | with_reducible intro _
    | (extract_lets +onlyGivenNames x; clear_value x)
    | split
    | with_reducible refine fst_state_eq (by with_reducible assumption) ?_
    | with_reducible refine snd_state_eq (by with_reducible assumption) ?_
    | with_reducible refine snd_core_eq (by with_reducible assumption) ?_
    | (with_reducible refine memOk_mk ?_; with_reducible refine memOk_to ?_)

theorem beginReplay_memOk : ∀ x0 x1 x2, State.MemOk x0 → State.MemOk (beginReplay x0 x1 x2) := by
  intro x0 x1 x2 h0
  unfold beginReplay
  repeat' first
    | with_reducible assumption
    | with_reducible intro _
    | (extract_lets +onlyGivenNames x; clear_value x)
    | with_reducible apply hf
    | with_reducible apply rearmReplayed_memOk
    | with_reducible apply modifyWork_memOk
    | split
    | (with_reducible refine memOk_mk ?_; with_reducible refine memOk_to ?_)

theorem execMicrobatchForwardStart_memOk : ∀ x0 x1, State.MemOk x1 → OutOk (execMicrobatchForwardStart x0 x1) := by
  intro x0 x1 h0
  unfold execMicrobatchForwardStart
  repeat' first
    | with_reducible assumption
    | with_reducible intro _
    | (extract_lets +onlyGivenNames x; clear_value x)
    | with_reducible apply beginReplay_memOk
    | with_reducible apply beginWork_memOk
    | with_reducible apply outOk_next
    | split

theorem execBackwardStart_memOk : ∀ x0 x1, State.MemOk x1 → OutOk (execBackwardStart x0 x1) := by
  intro x0 x1 h0
  unfold execBackwardStart
  repeat' first
    | with_reducible assumption
    | with_reducible intro _
    | with_reducible apply modifyWork_memOk
    | with_reducible apply outOk_next
    | split

theorem execEvaluationComplete_memOk : ∀ x0 x1, State.MemOk x1 → OutOk (execEvaluationComplete x0 x1) := by
  intro x0 x1 h0
  unfold execEvaluationComplete
  repeat' first
    | with_reducible assumption
    | with_reducible intro _
    | (extract_lets +onlyGivenNames x; with_reducible refine memOk_cut x ?_ ?_ <;> [(dsimp only [x]; clear x); (clear_value x; intro _)])
    | (extract_lets +onlyGivenNames x; clear_value x)
    | with_reducible apply hf
    | with_reducible apply journal_memOk
    | with_reducible apply completeTicket_memOk
    | with_reducible apply count64_memOk
    | with_reducible apply outOk_next
    | split
    | (with_reducible refine memOk_mk ?_; with_reducible refine memOk_to ?_)

end Sys2Proof.Machine
end

