-- ==== Sys2Proof/Laws/KeepsPower.lean ====
section
/-! SUPPORT. The operations of Machine/Power.lean keep every memory in canonical form: one lemma for each. -/

namespace Sys2Proof.Machine

theorem setFieldPower_memOk : ∀ x0 x1 x2, State.MemOk x0 → State.MemOk (setFieldPower x0 x1 x2) := by
  intro x0 x1 x2 h0
  unfold setFieldPower
  repeat' first
    | with_reducible assumption
    | with_reducible intro _
    | (extract_lets +onlyGivenNames x; with_reducible refine memOk_cut x ?_ ?_ <;> [(dsimp only [x]; clear x); (clear_value x; intro _)])
    | (extract_lets +onlyGivenNames x; clear_value x)
    | with_reducible apply setN_memOk
    | with_reducible apply setDom_memOk
    | split

theorem mapField_memOk : ∀ x0 x1 x2, State.MemOk x0 → (∀ y00, Core.MemOk y00 → Core.MemOk ((x2) y00)) → State.MemOk (mapField x0 x1 x2) := by
  intro x0 x1 x2 h0 h1
  unfold mapField
  repeat' first
    | with_reducible assumption
    | with_reducible apply h1
    | with_reducible apply setCore_memOk
    | with_reducible apply getCore_memOk
    | (with_reducible apply memOk_foldl; intro _ _ _)

theorem refreshCurrent_memOk : ∀ x0, State.MemOk x0 → State.MemOk (refreshCurrent x0) := by
  intro x0 h0
  unfold refreshCurrent
  repeat' first
    | with_reducible assumption
    | with_reducible apply setN_memOk

theorem stopEngine_memOk : ∀ x0, State.MemOk x0 → State.MemOk (stopEngine x0) := by
  intro x0 h0
  unfold stopEngine
  repeat' first
    | with_reducible assumption
    | (extract_lets +onlyGivenNames x; refine memOk_cut x ?_ ?_ <;> [(dsimp only [x]; clear x); (clear_value x; intro _)])
    | (extract_lets +onlyGivenNames x; clear_value x)
    | with_reducible apply suspendAll_memOk
    | split
    | (with_reducible refine memOk_mk ?_; with_reducible refine memOk_to ?_)

theorem darkenField_memOk : ∀ x0 x1 x2, State.MemOk x0 → State.MemOk (darkenField x0 x1 x2) := by
  intro x0 x1 x2 h0
  unfold darkenField
  repeat' first
    | with_reducible assumption
    | with_reducible intro _
    | (extract_lets +onlyGivenNames x; with_reducible refine memOk_cut x ?_ ?_ <;> [(dsimp only [x]; clear x); (clear_value x; intro _)])
    | (extract_lets +onlyGivenNames x; clear_value x)
    | with_reducible apply hf
    | with_reducible apply mapField_memOk
    | with_reducible apply setFieldPower_memOk
    | with_reducible apply setN_memOk
    | with_reducible apply refreshCurrent_memOk
    | with_reducible apply setField_memOk
    | with_reducible apply openRows_memOk
    | with_reducible apply coreDefault_memOk
    | split
    | with_reducible refine fst_state_eq (by with_reducible assumption) ?_
    | with_reducible refine snd_state_eq (by with_reducible assumption) ?_
    | with_reducible refine snd_core_eq (by with_reducible assumption) ?_
    | (with_reducible refine memOk_mk ?_; with_reducible refine memOk_to ?_)

theorem dropField_memOk : ∀ x0 x1 x2 x3, State.MemOk x0 → State.MemOk (dropField x0 x1 x2 x3) := by
  intro x0 x1 x2 x3 h0
  unfold dropField
  repeat' first
    | with_reducible assumption
    | with_reducible intro _
    | with_reducible apply fieldLoss_memOk
    | with_reducible apply darkenField_memOk
    | with_reducible apply stopEngine_memOk

theorem controllerFail_memOk : ∀ x0 x1, State.MemOk x0 → State.MemOk (controllerFail x0 x1) := by
  intro x0 x1 h0
  unfold controllerFail
  repeat' first
    | with_reducible assumption
    | with_reducible apply dropField_memOk
    | with_reducible apply raise_memOk

theorem execInputSample_memOk : ∀ x0 x1 x2, State.MemOk x2 → OutOk (execInputSample x0 x1 x2) := by
  intro x0 x1 x2 h0
  unfold execInputSample
  repeat' first
    | with_reducible assumption
    | (extract_lets +onlyGivenNames x; refine memOk_cut x ?_ ?_ <;> [(dsimp only [x]; clear x); (clear_value x; intro _)])
    | (extract_lets +onlyGivenNames x; clear_value x)
    | with_reducible apply setN_memOk
    | with_reducible apply outOk_next
    | split
    | (with_reducible refine memOk_mk ?_; with_reducible refine memOk_to ?_)

theorem endEpisodes_memOk : ∀ x0 x1 x2, State.MemOk x0 → State.MemOk (endEpisodes x0 x1 x2) := by
  intro x0 x1 x2 h0
  unfold endEpisodes
  repeat' first
    | with_reducible assumption
    | with_reducible intro _
    | (extract_lets +onlyGivenNames x; clear_value x)
    | with_reducible apply hf
    | with_reducible apply setField_memOk

theorem execRegulatorStatusReport_memOk : ∀ x0 x1, State.MemOk x1 → OutOk (execRegulatorStatusReport x0 x1) := by
  intro x0 x1 h0
  unfold execRegulatorStatusReport
  repeat' first
    | with_reducible assumption
    | with_reducible intro _
    | (extract_lets +onlyGivenNames x; with_reducible refine memOk_cut x ?_ ?_ <;> [(dsimp only [x]; clear x); (clear_value x; intro _)])
    | (extract_lets +onlyGivenNames x; clear_value x)
    | with_reducible apply hf
    | with_reducible apply controllerFail_memOk
    | with_reducible apply refreshCurrent_memOk
    | with_reducible apply setN_memOk
    | with_reducible apply endEpisodes_memOk
    | with_reducible apply setField_memOk
    | with_reducible apply outOk_next
    | split

theorem execRegulatorReportMissed_memOk : ∀ x0 x1, State.MemOk x1 → OutOk (execRegulatorReportMissed x0 x1) := by
  intro x0 x1 h0
  unfold execRegulatorReportMissed
  repeat' first
    | with_reducible assumption
    | (extract_lets +onlyGivenNames x; clear_value x)
    | with_reducible apply controllerFail_memOk
    | with_reducible apply setField_memOk
    | with_reducible apply outOk_next
    | split

theorem execPhaseFailed_memOk : ∀ x0 x1 x2, State.MemOk x2 → OutOk (execPhaseFailed x0 x1 x2) := by
  intro x0 x1 x2 h0
  unfold execPhaseFailed
  repeat' first
    | with_reducible assumption
    | (extract_lets +onlyGivenNames x; refine memOk_cut x ?_ ?_ <;> [(dsimp only [x]; clear x); (clear_value x; intro _)])
    | (extract_lets +onlyGivenNames x; clear_value x)
    | with_reducible apply setN_memOk
    | with_reducible apply logEvent_memOk
    | with_reducible apply raise_memOk
    | with_reducible apply controllerFail_memOk
    | with_reducible apply outOk_next
    | split

theorem execRegulatorLoopSample_memOk : ∀ x0 x1 x2 x3, State.MemOk x3 → OutOk (execRegulatorLoopSample x0 x1 x2 x3) := by
  intro x0 x1 x2 x3 h0
  unfold execRegulatorLoopSample
  repeat' first
    | with_reducible assumption
    | with_reducible intro _
    | (extract_lets +onlyGivenNames x; with_reducible refine memOk_cut x ?_ ?_ <;> [(dsimp only [x]; clear x); (clear_value x; intro _)])
    | (extract_lets +onlyGivenNames x; clear_value x)
    | with_reducible apply hf
    | with_reducible apply setDom_memOk
    | with_reducible apply endEpisodes_memOk
    | with_reducible apply setN_memOk
    | with_reducible apply raise_memOk
    | with_reducible apply outOk_next
    | (with_reducible apply memOk_foldl; intro _ _ _)
    | (with_reducible apply memOk_foldl_fst; intro _ _ _)
    | (with_reducible apply coreOk_foldl; intro _ _ _)
    | split

theorem execCrackSuspect_memOk : ∀ x0 x1 x2, State.MemOk x2 → OutOk (execCrackSuspect x0 x1 x2) := by
  intro x0 x1 x2 h0
  unfold execCrackSuspect
  repeat' first
    | with_reducible assumption
    | (extract_lets +onlyGivenNames x; refine memOk_cut x ?_ ?_ <;> [(dsimp only [x]; clear x); (clear_value x; intro _)])
    | (extract_lets +onlyGivenNames x; clear_value x)
    | with_reducible apply logEvent_memOk
    | with_reducible apply raise_memOk
    | with_reducible apply setN_memOk
    | with_reducible apply setField_memOk
    | with_reducible apply outOk_next
    | split

theorem parkField_memOk : ∀ x0 x1 x2, State.MemOk x0 → State.MemOk (parkField x0 x1 x2) := by
  intro x0 x1 x2 h0
  unfold parkField
  repeat' first
    | with_reducible assumption
    | with_reducible intro _
    | (extract_lets +onlyGivenNames x; refine memOk_cut x ?_ ?_ <;> [(dsimp only [x]; clear x); (clear_value x; intro _)])
    | (extract_lets +onlyGivenNames x; clear_value x)
    | with_reducible apply setN_memOk
    | with_reducible apply setField_memOk
    | with_reducible apply setFieldPower_memOk
    | with_reducible apply mapField_memOk
    | split
    | (with_reducible refine coreOk_mk ?_; with_reducible refine coreOk_to ?_)

theorem resendLog_memOk : ∀ x0 x1, State.MemOk x0 → State.MemOk (resendLog x0 x1) := by
  intro x0 x1 h0
  unfold resendLog
  repeat' first
    | with_reducible assumption
    | with_reducible intro _
    | (extract_lets +onlyGivenNames x; with_reducible refine memOk_cut x ?_ ?_ <;> [(dsimp only [x]; clear x); (clear_value x; intro _)])
    | (extract_lets +onlyGivenNames x; clear_value x)
    | with_reducible apply hf
    | with_reducible apply crescentInject_memOk
    | (with_reducible apply memOk_foldl; intro _ _ _)
    | split
    | (with_reducible refine memOk_mk ?_; with_reducible refine memOk_to ?_)

theorem unparkCore_memOk : ∀ x0 x1, State.MemOk x0 → Core.MemOk x1 → Core.MemOk (unparkCore x0 x1) := by
  intro x0 x1 h0 h1
  unfold unparkCore
  repeat' first
    | with_reducible assumption
    | with_reducible intro _
    | (extract_lets +onlyGivenNames x; with_reducible refine coreOk_cut x ?_ ?_ <;> [(dsimp only [x]; clear x); (clear_value x; intro _)])
    | (extract_lets +onlyGivenNames x; clear_value x)
    | with_reducible apply wakeCore_memOk
    | with_reducible apply suspendCore_memOk
    | with_reducible apply startCore_memOk
    | with_reducible apply resumeCore_memOk
    | split
    | (with_reducible refine coreOk_mk ?_; with_reducible refine coreOk_to ?_)

theorem unparkErrs_memOk : ∀ x0 x1 x2, State.MemOk x0 → State.MemOk (unparkErrs x0 x1 x2) := by
  intro x0 x1 x2 h0
  unfold unparkErrs
  repeat' first
    | with_reducible assumption
    | with_reducible intro _
    | (extract_lets +onlyGivenNames x; with_reducible refine coreOk_cut x ?_ ?_ <;> [(dsimp only [x]; clear x); (clear_value x; intro _)])
    | (extract_lets +onlyGivenNames x; with_reducible refine pairOk_cut x ?_ ?_ ?_ <;> [(dsimp only [x]; clear x); (dsimp only [x]; clear x); (clear_value x; intro _ _)])
    | (extract_lets +onlyGivenNames x; clear_value x)
    | with_reducible apply hf
    | with_reducible apply getCore_memOk
    | with_reducible apply syncErrs_memOk1
    | with_reducible apply syncErrs_memOk2
    | with_reducible apply readErrs_memOk1
    | with_reducible apply readErrs_memOk2
    | with_reducible apply setCore_memOk
    | split

theorem startWake_memOk : ∀ x0 x1, State.MemOk x0 → State.MemOk (startWake x0 x1) := by
  intro x0 x1 h0
  unfold startWake
  repeat' first
    | with_reducible assumption
    | with_reducible intro _
    | (extract_lets +onlyGivenNames x; with_reducible refine memOk_cut x ?_ ?_ <;> [(dsimp only [x]; clear x); (clear_value x; intro _)])
    | (extract_lets +onlyGivenNames x; clear_value x)
    | with_reducible apply resendLog_memOk
    | with_reducible apply setField_memOk
    | with_reducible apply ejectVc0_memOk
    | with_reducible apply setFieldPower_memOk
    | with_reducible apply mapField_memOk
    | with_reducible apply unparkCore_memOk
    | with_reducible apply raise_memOk
    | with_reducible apply replayNow_memOk
    | with_reducible apply abandon_memOk
    | (with_reducible apply memOk_foldl; intro _ _ _)
    | split
    | (with_reducible refine memOk_mk ?_; with_reducible refine memOk_to ?_)

theorem finishWake_memOk : ∀ x0 x1, State.MemOk x0 → State.MemOk (finishWake x0 x1) := by
  intro x0 x1 h0
  unfold finishWake
  repeat' first
    | with_reducible assumption
    | with_reducible intro _
    | (extract_lets +onlyGivenNames x; with_reducible refine memOk_cut x ?_ ?_ <;> [(dsimp only [x]; clear x); (clear_value x; intro _)])
    | (extract_lets +onlyGivenNames x; clear_value x)
    | with_reducible apply hf
    | with_reducible apply unparkErrs_memOk
    | with_reducible apply ejectVc0_memOk
    | with_reducible apply setFieldPower_memOk
    | with_reducible apply mapField_memOk
    | with_reducible apply unparkCore_memOk
    | (with_reducible apply memOk_foldl; intro _ _ _)

theorem decideWake_memOk : ∀ x0 x1, State.MemOk x0 → State.MemOk (decideWake x0 x1) := by
  intro x0 x1 h0
  unfold decideWake
  repeat' first
    | with_reducible assumption
    | (extract_lets +onlyGivenNames x; clear_value x)
    | with_reducible apply raise_memOk
    | with_reducible apply setField_memOk
    | with_reducible apply startWake_memOk
    | split

theorem execWakeProceed_memOk : ∀ x0 x1, State.MemOk x1 → OutOk (execWakeProceed x0 x1) := by
  intro x0 x1 h0
  unfold execWakeProceed
  repeat' first
    | with_reducible assumption
    | (extract_lets +onlyGivenNames x; refine sndOk_cut x ?_ ?_ <;> [(dsimp only [x]; clear x); (clear_value x; intro _)])
    | with_reducible apply drawFree_memOk
    | with_reducible apply startWake_memOk
    | with_reducible apply addN_memOk
    | with_reducible apply outOk_next
    | split

theorem execWakeDeferLimitExpiry_memOk : ∀ x0 x1, State.MemOk x1 → OutOk (execWakeDeferLimitExpiry x0 x1) := by
  intro x0 x1 h0
  unfold execWakeDeferLimitExpiry
  repeat' first
    | with_reducible assumption
    | with_reducible apply startWake_memOk
    | with_reducible apply addN_memOk
    | with_reducible apply outOk_next
    | split

theorem parkEffect_memOk : ∀ x0 x1, State.MemOk x0 → State.MemOk (parkEffect x0 x1) := by
  intro x0 x1 h0
  unfold parkEffect
  repeat' first
    | with_reducible assumption
    | (extract_lets +onlyGivenNames x; refine memOk_cut x ?_ ?_ <;> [(dsimp only [x]; clear x); (clear_value x; intro _)])
    | with_reducible apply setN_memOk
    | with_reducible apply parkField_memOk
    | split

theorem execParkRequest_memOk : ∀ x0 x1, State.MemOk x1 → OutOk (execParkRequest x0 x1) := by
  intro x0 x1 h0
  unfold execParkRequest
  repeat' first
    | with_reducible assumption
    | with_reducible intro _
    | with_reducible apply ownWrite_memOk
    | with_reducible apply parkEffect_memOk
    | with_reducible apply outOk_next

theorem wakeEffect_memOk : ∀ x0 x1, State.MemOk x0 → State.MemOk (wakeEffect x0 x1) := by
  intro x0 x1 h0
  unfold wakeEffect
  repeat' first
    | with_reducible assumption
    | (extract_lets +onlyGivenNames x; refine memOk_cut x ?_ ?_ <;> [(dsimp only [x]; clear x); (clear_value x; intro _)])
    | with_reducible apply setN_memOk
    | with_reducible apply decideWake_memOk
    | split

theorem execWakeRequest_memOk : ∀ x0 x1, State.MemOk x1 → OutOk (execWakeRequest x0 x1) := by
  intro x0 x1 h0
  unfold execWakeRequest
  repeat' first
    | with_reducible assumption
    | with_reducible intro _
    | with_reducible apply ownWrite_memOk
    | with_reducible apply wakeEffect_memOk
    | with_reducible apply outOk_next

theorem refreshHottest_memOk : ∀ x0, State.MemOk x0 → State.MemOk (refreshHottest x0) := by
  intro x0 h0
  unfold refreshHottest
  repeat' first
    | with_reducible assumption
    | (extract_lets +onlyGivenNames x; clear_value x)
    | with_reducible apply setN_memOk
    | split

theorem applyHeat_memOk : ∀ x0 x1 x2, State.MemOk x0 → State.MemOk (applyHeat x0 x1 x2) := by
  intro x0 x1 x2 h0
  unfold applyHeat
  repeat' first
    | with_reducible assumption
    | (extract_lets +onlyGivenNames x; refine memOk_cut x ?_ ?_ <;> [(dsimp only [x]; clear x); (clear_value x; intro _)])
    | (extract_lets +onlyGivenNames x; clear_value x)
    | with_reducible apply setField_memOk
    | with_reducible apply dropField_memOk
    | with_reducible apply raise_memOk
    | with_reducible apply parkField_memOk
    | split

theorem execThermalSample_memOk : ∀ x0 x1 x2, State.MemOk x2 → OutOk (execThermalSample x0 x1 x2) := by
  intro x0 x1 x2 h0
  unfold execThermalSample
  repeat' first
    | with_reducible assumption
    | (extract_lets +onlyGivenNames x; refine memOk_cut x ?_ ?_ <;> [(dsimp only [x]; clear x); (clear_value x; intro _)])
    | (extract_lets +onlyGivenNames x; clear_value x)
    | with_reducible apply setDom_memOk
    | with_reducible apply setN_memOk
    | with_reducible apply raise_memOk
    | with_reducible apply parkField_memOk
    | with_reducible apply applyHeat_memOk
    | with_reducible apply refreshHottest_memOk
    | with_reducible apply outOk_next
    | split

theorem execUnparkHoldExpiry_memOk : ∀ x0 x1, State.MemOk x1 → OutOk (execUnparkHoldExpiry x0 x1) := by
  intro x0 x1 h0
  unfold execUnparkHoldExpiry
  repeat' first
    | with_reducible assumption
    | (extract_lets +onlyGivenNames x; clear_value x)
    | with_reducible apply setField_memOk
    | with_reducible apply outOk_next
    | split

theorem beginShut_memOk : ∀ x0 x1, State.MemOk x0 → State.MemOk (beginShut x0 x1) := by
  intro x0 x1 h0
  unfold beginShut
  repeat' first
    | with_reducible assumption
    | (extract_lets +onlyGivenNames x; refine memOk_cut x ?_ ?_ <;> [(dsimp only [x]; clear x); (clear_value x; intro _)])
    | (extract_lets +onlyGivenNames x; clear_value x)
    | with_reducible apply raise_memOk
    | with_reducible apply stopEngine_memOk
    | with_reducible apply setField_memOk

theorem execFieldShutDrainEnd_memOk : ∀ x0 x1, State.MemOk x1 → OutOk (execFieldShutDrainEnd x0 x1) := by
  intro x0 x1 h0
  unfold execFieldShutDrainEnd
  repeat' first
    | with_reducible assumption
    | with_reducible apply dropField_memOk
    | with_reducible apply outOk_next
    | split

theorem applyClock_memOk : ∀ x0 x1 x2, State.MemOk x0 → State.MemOk (applyClock x0 x1 x2) := by
  intro x0 x1 x2 h0
  unfold applyClock
  repeat' first
    | with_reducible assumption
    | with_reducible apply setN_memOk

theorem vcoreEffect_memOk : ∀ x0 x1, State.MemOk x0 → State.MemOk (vcoreEffect x0 x1) := by
  intro x0 x1 h0
  unfold vcoreEffect
  repeat' first
    | with_reducible assumption
    | with_reducible apply setN_memOk

theorem execVcoreMv_memOk : ∀ x0 x1, State.MemOk x1 → OutOk (execVcoreMv x0 x1) := by
  intro x0 x1 h0
  unfold execVcoreMv
  repeat' first
    | with_reducible assumption
    | with_reducible intro _
    | with_reducible apply ownWrite_memOk
    | with_reducible apply vcoreEffect_memOk
    | with_reducible apply outOk_next

theorem clockEffect_memOk : ∀ x0 x1 x2, State.MemOk x1 → State.MemOk (clockEffect x0 x1 x2) := by
  intro x0 x1 x2 h0
  unfold clockEffect
  repeat' first
    | with_reducible assumption
    | (extract_lets +onlyGivenNames x; clear_value x)
    | (extract_lets +onlyGivenNames x; dsimp only [x]; clear x)
    | with_reducible apply applyClock_memOk
    | with_reducible apply setN_memOk

theorem execClockHalfWrite_memOk : ∀ x0 x1 x2, State.MemOk x2 → OutOk (execClockHalfWrite x0 x1 x2) := by
  intro x0 x1 x2 h0
  unfold execClockHalfWrite
  repeat' first
    | with_reducible assumption
    | with_reducible intro _
    | with_reducible apply ownWrite_memOk
    | with_reducible apply clockEffect_memOk
    | with_reducible apply outOk_next

theorem throttleHalf_memOk : ∀ x0 x1, State.MemOk x0 → State.MemOk (throttleHalf x0 x1) := by
  intro x0 x1 h0
  unfold throttleHalf
  repeat' first
    | with_reducible assumption
    | (extract_lets +onlyGivenNames x; refine memOk_cut x ?_ ?_ <;> [(dsimp only [x]; clear x); (clear_value x; intro _)])
    | (extract_lets +onlyGivenNames x; clear_value x)
    | with_reducible apply raise_memOk
    | with_reducible apply applyClock_memOk
    | split

theorem settleField_memOk : ∀ x0 x1, State.MemOk x0 → State.MemOk (settleField x0 x1) := by
  intro x0 x1 h0
  unfold settleField
  repeat' first
    | with_reducible assumption
    | (extract_lets +onlyGivenNames x; clear_value x)
    | with_reducible apply count64_memOk
    | with_reducible apply setFieldPower_memOk
    | with_reducible apply finishWake_memOk
    | split

theorem settleFields_memOk : ∀ x0, State.MemOk x0 → State.MemOk (settleFields x0) := by
  intro x0 h0
  unfold settleFields
  repeat' first
    | with_reducible assumption
    | with_reducible apply settleField_memOk
    | (with_reducible apply memOk_foldl; intro _ _ _)

theorem fieldBoundary_memOk : ∀ x0 x1, State.MemOk x0 → State.MemOk (fieldBoundary x0 x1) := by
  intro x0 x1 h0
  unfold fieldBoundary
  repeat' first
    | with_reducible assumption
    | with_reducible intro _
    | (extract_lets +onlyGivenNames x; with_reducible refine memOk_cut x ?_ ?_ <;> [(dsimp only [x]; clear x); (clear_value x; intro _)])
    | (extract_lets +onlyGivenNames x; clear_value x)
    | with_reducible apply hf
    | with_reducible apply setFieldPower_memOk
    | with_reducible apply beginShut_memOk
    | with_reducible apply setField_memOk
    | with_reducible apply parkField_memOk
    | with_reducible apply setN_memOk
    | with_reducible apply decideWake_memOk
    | split

theorem resetHeat_memOk : ∀ x0, State.MemOk x0 → State.MemOk (resetHeat x0) := by
  intro x0 h0
  unfold resetHeat
  repeat' first
    | with_reducible assumption
    | (extract_lets +onlyGivenNames x; clear_value x)
    | (with_reducible refine memOk_mk ?_; with_reducible refine memOk_to ?_)

theorem powerBoundary_memOk : ∀ x0 x1 x2, State.MemOk x0 → State.MemOk (powerBoundary x0 x1 x2) := by
  intro x0 x1 x2 h0
  unfold powerBoundary
  repeat' first
    | with_reducible assumption
    | (extract_lets +onlyGivenNames x; refine memOk_cut x ?_ ?_ <;> [(dsimp only [x]; clear x); (clear_value x; intro _)])
    | with_reducible apply setN_memOk
    | with_reducible apply raise_memOk
    | with_reducible apply fieldBoundary_memOk
    | with_reducible apply resetHeat_memOk
    | with_reducible apply throttleHalf_memOk
    | (with_reducible apply memOk_foldl; intro _ _ _)
    | split

end Sys2Proof.Machine
end

