-- ==== Sys2Proof/Laws/KeepsBeat.lean ====
section
/-! SUPPORT. The operations of Machine/Beat.lean keep every memory in canonical form: one lemma for each. -/

namespace Sys2Proof.Machine

theorem sendTicks_memOk : ∀ x0 x1 x2 x3, State.MemOk x0 → State.MemOk (sendTicks x0 x1 x2 x3) := by
  intro x0 x1 x2 x3 h0
  unfold sendTicks
  repeat' first
    | with_reducible assumption
    | with_reducible apply emit_memOk
    | (with_reducible apply memOk_foldl; intro _ _ _)

theorem takeTick_memOk : ∀ x0 x1 x2 x3 x4, State.MemOk x0 → State.MemOk (takeTick x0 x1 x2 x3 x4) := by
  intro x0 x1 x2 x3 x4 h0
  unfold takeTick
  repeat' first
    | with_reducible assumption
    | (extract_lets +onlyGivenNames x; refine memOk_cut x ?_ ?_ <;> [(dsimp only [x]; clear x); (clear_value x; intro _)])
    | with_reducible apply setN_memOk
    | split
    | (with_reducible refine memOk_mk ?_; with_reducible refine memOk_to ?_)

theorem execTick_memOk : ∀ x0 x1 x2 x3 x4 x5, State.MemOk x5 → OutOk (execTick x0 x1 x2 x3 x4 x5) := by
  intro x0 x1 x2 x3 x4 x5 h0
  unfold execTick
  repeat' first
    | with_reducible assumption
    | with_reducible intro _
    | (extract_lets +onlyGivenNames x; with_reducible refine memOk_cut x ?_ ?_ <;> [(dsimp only [x]; clear x); (clear_value x; intro _)])
    | (extract_lets +onlyGivenNames x; clear_value x)
    | with_reducible apply hf
    | with_reducible apply raise_memOk
    | with_reducible apply beginHandover_memOk
    | with_reducible apply sendTicks_memOk
    | with_reducible apply takeTick_memOk
    | with_reducible apply outOk_next
    | split
    | with_reducible refine fst_state_eq (by with_reducible assumption) ?_
    | with_reducible refine snd_state_eq (by with_reducible assumption) ?_
    | with_reducible refine snd_core_eq (by with_reducible assumption) ?_
    | (with_reducible refine memOk_mk ?_; with_reducible refine memOk_to ?_)

theorem execTickLost_memOk : ∀ x0, State.MemOk x0 → OutOk (execTickLost x0) := by
  intro x0 h0
  unfold execTickLost
  repeat' first
    | with_reducible assumption
    | (extract_lets +onlyGivenNames x; refine memOk_cut x ?_ ?_ <;> [(dsimp only [x]; clear x); (clear_value x; intro _)])
    | (extract_lets +onlyGivenNames x; clear_value x)
    | with_reducible apply raise_memOk
    | with_reducible apply setN_memOk
    | with_reducible apply outOk_next
    | split
    | (with_reducible refine memOk_mk ?_; with_reducible refine memOk_to ?_)

theorem execPtpLost_memOk : ∀ x0, State.MemOk x0 → OutOk (execPtpLost x0) := by
  intro x0 h0
  unfold execPtpLost
  repeat' first
    | with_reducible assumption
    | (extract_lets +onlyGivenNames x; refine memOk_cut x ?_ ?_ <;> [(dsimp only [x]; clear x); (clear_value x; intro _)])
    | (extract_lets +onlyGivenNames x; clear_value x)
    | with_reducible apply raise_memOk
    | with_reducible apply setN_memOk
    | with_reducible apply outOk_next
    | split
    | (with_reducible refine memOk_mk ?_; with_reducible refine memOk_to ?_)

theorem execPtpMessageReceive_memOk : ∀ x0 x1 x2, State.MemOk x2 → OutOk (execPtpMessageReceive x0 x1 x2) := by
  intro x0 x1 x2 h0
  unfold execPtpMessageReceive
  repeat' first
    | with_reducible assumption
    | (extract_lets +onlyGivenNames x; refine memOk_cut x ?_ ?_ <;> [(dsimp only [x]; clear x); (clear_value x; intro _)])
    | (extract_lets +onlyGivenNames x; clear_value x)
    | with_reducible apply setN_memOk
    | with_reducible apply outOk_next
    | split
    | (with_reducible refine memOk_mk ?_; with_reducible refine memOk_to ?_)

theorem refreshSource_memOk : ∀ x0, State.MemOk x0 → State.MemOk (refreshSource x0) := by
  intro x0 h0
  unfold refreshSource
  repeat' first
    | with_reducible assumption
    | with_reducible apply setN_memOk

theorem requestStretch_memOk : ∀ x0, State.MemOk x0 → State.MemOk (requestStretch x0) := by
  intro x0 h0
  unfold requestStretch
  repeat' first
    | with_reducible assumption
    | (extract_lets +onlyGivenNames x; clear_value x)
    | with_reducible apply emit_memOk
    | split
    | (with_reducible refine memOk_mk ?_; with_reducible refine memOk_to ?_)

theorem execStretchRequest_memOk : ∀ x0 x1, State.MemOk x1 → OutOk (execStretchRequest x0 x1) := by
  intro x0 x1 h0
  unfold execStretchRequest
  repeat' first
    | with_reducible assumption
    | with_reducible apply requestStretch_memOk
    | with_reducible apply outOk_next
    | split

theorem rootStretch_memOk : ∀ x0, State.MemOk x0 → State.MemOk (rootStretch x0) := by
  intro x0 h0
  unfold rootStretch
  repeat' first
    | with_reducible assumption
    | (extract_lets +onlyGivenNames x; refine memOk_cut x ?_ ?_ <;> [(dsimp only [x]; clear x); (clear_value x; intro _)])
    | (extract_lets +onlyGivenNames x; clear_value x)
    | with_reducible apply raise_memOk
    | with_reducible apply count64_memOk
    | split
    | (with_reducible refine memOk_mk ?_; with_reducible refine memOk_to ?_)

theorem noteSkip_memOk : ∀ x0 x1 x2, State.MemOk x0 → State.MemOk (noteSkip x0 x1 x2) := by
  intro x0 x1 x2 h0
  unfold noteSkip
  repeat' first
    | with_reducible assumption
    | with_reducible intro _
    | (extract_lets +onlyGivenNames x; clear_value x)
    | with_reducible apply hf
    | split
    | with_reducible refine fst_state_eq (by with_reducible assumption) ?_
    | with_reducible refine snd_state_eq (by with_reducible assumption) ?_
    | with_reducible refine snd_core_eq (by with_reducible assumption) ?_
    | (with_reducible refine memOk_mk ?_; with_reducible refine memOk_to ?_)

theorem numberBoundary_memOk : ∀ x0 x1, State.MemOk x0 → State.MemOk (numberBoundary x0 x1) := by
  intro x0 x1 h0
  unfold numberBoundary
  repeat' first
    | with_reducible assumption
    | with_reducible intro _
    | (extract_lets +onlyGivenNames x; with_reducible refine memOk_cut x ?_ ?_ <;> [(dsimp only [x]; clear x); (clear_value x; intro _)])
    | (extract_lets +onlyGivenNames x; clear_value x)
    | with_reducible apply hf
    | with_reducible apply refreshSource_memOk
    | with_reducible apply setN_memOk
    | with_reducible apply count64_memOk
    | with_reducible apply noteSkip_memOk
    | with_reducible apply rootStretch_memOk
    | split
    | with_reducible refine fst_state_eq (by with_reducible assumption) ?_
    | with_reducible refine snd_state_eq (by with_reducible assumption) ?_
    | with_reducible refine snd_core_eq (by with_reducible assumption) ?_
    | (with_reducible refine memOk_mk ?_; with_reducible refine memOk_to ?_)

theorem periodEffect_memOk : ∀ x0 x1, State.MemOk x0 → State.MemOk (periodEffect x0 x1) := by
  intro x0 x1 h0
  unfold periodEffect
  repeat' first
    | with_reducible assumption
    | with_reducible intro _
    | (extract_lets +onlyGivenNames x; with_reducible refine memOk_cut x ?_ ?_ <;> [(dsimp only [x]; clear x); (clear_value x; intro _)])
    | (extract_lets +onlyGivenNames x; clear_value x)
    | with_reducible apply hf
    | with_reducible apply setN_memOk
    | split
    | with_reducible refine fst_state_eq (by with_reducible assumption) ?_
    | with_reducible refine snd_state_eq (by with_reducible assumption) ?_
    | with_reducible refine snd_core_eq (by with_reducible assumption) ?_
    | (with_reducible refine memOk_mk ?_; with_reducible refine memOk_to ?_)

theorem execBeatPeriodUs_memOk : ∀ x0 x1, State.MemOk x1 → OutOk (execBeatPeriodUs x0 x1) := by
  intro x0 x1 h0
  unfold execBeatPeriodUs
  repeat' first
    | with_reducible assumption
    | with_reducible intro _
    | with_reducible apply ownWrite_memOk
    | with_reducible apply periodEffect_memOk
    | with_reducible apply outOk_next

theorem renewLease_memOk : ∀ x0, State.MemOk x0 → State.MemOk (renewLease x0) := by
  intro x0 h0
  unfold renewLease
  repeat' first
    | with_reducible assumption
    | (extract_lets +onlyGivenNames x; clear_value x)
    | (with_reducible refine memOk_mk ?_; with_reducible refine memOk_to ?_)

theorem leaseBeatsEffect_memOk : ∀ x0 x1, State.MemOk x0 → State.MemOk (leaseBeatsEffect x0 x1) := by
  intro x0 x1 h0
  unfold leaseBeatsEffect
  repeat' first
    | with_reducible assumption
    | with_reducible apply renewLease_memOk
    | with_reducible apply setN_memOk

theorem execHostLeaseBeats_memOk : ∀ x0 x1, State.MemOk x1 → OutOk (execHostLeaseBeats x0 x1) := by
  intro x0 x1 h0
  unfold execHostLeaseBeats
  repeat' first
    | with_reducible assumption
    | with_reducible intro _
    | with_reducible apply ownWrite_memOk
    | with_reducible apply leaseBeatsEffect_memOk
    | with_reducible apply outOk_next

theorem leaseEffect_memOk : ∀ x0 x1, State.MemOk x0 → State.MemOk (leaseEffect x0 x1) := by
  intro x0 x1 h0
  unfold leaseEffect
  repeat' first
    | with_reducible assumption
    | with_reducible apply renewLease_memOk

theorem execHostLease_memOk : ∀ x0 x1, State.MemOk x1 → OutOk (execHostLease x0 x1) := by
  intro x0 x1 h0
  unfold execHostLease
  repeat' first
    | with_reducible assumption
    | with_reducible intro _
    | with_reducible apply ownWrite_memOk
    | with_reducible apply leaseEffect_memOk
    | with_reducible apply outOk_next

theorem lapseLease_memOk : ∀ x0, State.MemOk x0 → State.MemOk (lapseLease x0) := by
  intro x0 h0
  unfold lapseLease
  repeat' first
    | with_reducible assumption
    | (extract_lets +onlyGivenNames x; clear_value x)
    | with_reducible apply raise_memOk
    | split
    | (with_reducible refine memOk_mk ?_; with_reducible refine memOk_to ?_)

theorem execHostLeaseExpired_memOk : ∀ x0, State.MemOk x0 → OutOk (execHostLeaseExpired x0) := by
  intro x0 h0
  unfold execHostLeaseExpired
  repeat' first
    | with_reducible assumption
    | with_reducible apply lapseLease_memOk
    | with_reducible apply outOk_next

theorem raiseHoldover_memOk : ∀ x0, State.MemOk x0 → State.MemOk (raiseHoldover x0) := by
  intro x0 h0
  unfold raiseHoldover
  repeat' first
    | with_reducible assumption
    | with_reducible intro _
    | with_reducible apply raise_memOk
    | split

theorem selectRef_memOk : ∀ x0, State.MemOk x0 → State.MemOk (selectRef x0) := by
  intro x0 h0
  unfold selectRef
  repeat' first
    | with_reducible assumption
    | with_reducible intro _
    | with_reducible apply raise_memOk
    | with_reducible apply setN_memOk
    | with_reducible apply raiseHoldover_memOk
    | split

theorem execRefSourceLoss_memOk : ∀ x0 x1, State.MemOk x1 → OutOk (execRefSourceLoss x0 x1) := by
  intro x0 x1 h0
  unfold execRefSourceLoss
  repeat' first
    | with_reducible assumption
    | (extract_lets +onlyGivenNames x; clear_value x)
    | with_reducible apply selectRef_memOk
    | with_reducible apply outOk_next
    | split
    | (with_reducible refine memOk_mk ?_; with_reducible refine memOk_to ?_)

theorem execRefEligible_memOk : ∀ x0 x1, State.MemOk x1 → OutOk (execRefEligible x0 x1) := by
  intro x0 x1 h0
  unfold execRefEligible
  repeat' first
    | with_reducible assumption
    | (extract_lets +onlyGivenNames x; clear_value x)
    | with_reducible apply selectRef_memOk
    | with_reducible apply outOk_next
    | split
    | (with_reducible refine memOk_mk ?_; with_reducible refine memOk_to ?_)

theorem execHoldoverExpiry_memOk : ∀ x0, State.MemOk x0 → OutOk (execHoldoverExpiry x0) := by
  intro x0 h0
  unfold execHoldoverExpiry
  repeat' first
    | with_reducible assumption
    | with_reducible apply setN_memOk
    | with_reducible apply outOk_next
    | split

theorem sscEffect_memOk : ∀ x0 x1 x2 x3, State.MemOk x2 → State.MemOk (sscEffect x0 x1 x2 x3) := by
  intro x0 x1 x2 x3 h0
  unfold sscEffect
  repeat' first
    | with_reducible assumption
    | with_reducible apply setN_memOk

theorem execSscWrite_memOk : ∀ x0 x1 x2 x3, State.MemOk x3 → OutOk (execSscWrite x0 x1 x2 x3) := by
  intro x0 x1 x2 x3 h0
  unfold execSscWrite
  repeat' first
    | with_reducible assumption
    | with_reducible intro _
    | with_reducible apply ownWrite_memOk
    | with_reducible apply sscEffect_memOk
    | with_reducible apply outOk_next

theorem drivePin_memOk : ∀ x0 x1, State.MemOk x0 → State.MemOk (drivePin x0 x1) := by
  intro x0 x1 h0
  unfold drivePin
  repeat' first
    | with_reducible assumption
    | with_reducible intro _
    | (extract_lets +onlyGivenNames x; clear_value x)
    | with_reducible apply hf
    | split
    | with_reducible refine fst_state_eq (by with_reducible assumption) ?_
    | with_reducible refine snd_state_eq (by with_reducible assumption) ?_
    | with_reducible refine snd_core_eq (by with_reducible assumption) ?_
    | (with_reducible refine memOk_mk ?_; with_reducible refine memOk_to ?_)

theorem clkoutEffect_memOk : ∀ x0 x1 x2 x3, State.MemOk x2 → State.MemOk (clkoutEffect x0 x1 x2 x3) := by
  intro x0 x1 x2 x3 h0
  unfold clkoutEffect
  repeat' first
    | with_reducible assumption
    | with_reducible intro _
    | with_reducible apply drivePin_memOk
    | with_reducible apply setN_memOk

theorem pulsePin_memOk : ∀ x0 x1, State.MemOk x0 → State.MemOk (pulsePin x0 x1) := by
  intro x0 x1 h0
  unfold pulsePin
  repeat' first
    | with_reducible assumption
    | with_reducible intro _
    | (extract_lets +onlyGivenNames x; with_reducible refine memOk_cut x ?_ ?_ <;> [(dsimp only [x]; clear x); (clear_value x; intro _)])
    | (extract_lets +onlyGivenNames x; clear_value x)
    | with_reducible apply hf
    | with_reducible apply emit_memOk
    | split
    | with_reducible refine fst_state_eq (by with_reducible assumption) ?_
    | with_reducible refine snd_state_eq (by with_reducible assumption) ?_
    | with_reducible refine snd_core_eq (by with_reducible assumption) ?_
    | (with_reducible refine memOk_mk ?_; with_reducible refine memOk_to ?_)

theorem execClkoutWrite_memOk : ∀ x0 x1 x2 x3, State.MemOk x3 → OutOk (execClkoutWrite x0 x1 x2 x3) := by
  intro x0 x1 x2 x3 h0
  unfold execClkoutWrite
  repeat' first
    | with_reducible assumption
    | with_reducible intro _
    | with_reducible apply ownWrite_memOk
    | with_reducible apply clkoutEffect_memOk
    | with_reducible apply outOk_next

theorem clearObjs_memOk : ∀ x0 x1 x2, State.MemOk x0 → State.MemOk (clearObjs x0 x1 x2) := by
  intro x0 x1 x2 h0
  unfold clearObjs
  repeat' first
    | with_reducible assumption
    | (with_reducible refine memOk_mk ?_; with_reducible refine memOk_to ?_)

theorem resetUnit_memOk : ∀ x0 x1 x2, State.MemOk x1 → State.MemOk (resetUnit x0 x1 x2) := by
  intro x0 x1 x2 h0
  unfold resetUnit
  repeat' first
    | with_reducible assumption
    | with_reducible intro _
    | (extract_lets +onlyGivenNames x; with_reducible refine memOk_cut x ?_ ?_ <;> [(dsimp only [x]; clear x); (clear_value x; intro _)])
    | (extract_lets +onlyGivenNames x; clear_value x)
    | with_reducible apply hf
    | with_reducible apply clearObjs_memOk
    | with_reducible apply refreshSe_memOk
    | with_reducible apply drivePin_memOk
    | split
    | with_reducible refine fst_state_eq (by with_reducible assumption) ?_
    | with_reducible refine snd_state_eq (by with_reducible assumption) ?_
    | with_reducible refine snd_core_eq (by with_reducible assumption) ?_
    | (with_reducible refine memOk_mk ?_; with_reducible refine memOk_to ?_)

theorem enableEffect_memOk : ∀ x0 x1 x2, State.MemOk x1 → State.MemOk (enableEffect x0 x1 x2) := by
  intro x0 x1 x2 h0
  unfold enableEffect
  repeat' first
    | with_reducible assumption
    | with_reducible intro _
    | (extract_lets +onlyGivenNames x; with_reducible refine memOk_cut x ?_ ?_ <;> [(dsimp only [x]; clear x); (clear_value x; intro _)])
    | (extract_lets +onlyGivenNames x; clear_value x)
    | with_reducible apply hf
    | with_reducible apply setN_memOk
    | with_reducible apply resetUnit_memOk
    | (with_reducible apply memOk_foldl; intro _ _ _)

theorem execClockEnableWrite_memOk : ∀ x0 x1 x2, State.MemOk x2 → OutOk (execClockEnableWrite x0 x1 x2) := by
  intro x0 x1 x2 h0
  unfold execClockEnableWrite
  repeat' first
    | with_reducible assumption
    | with_reducible intro _
    | with_reducible apply ownWrite_memOk
    | with_reducible apply enableEffect_memOk
    | with_reducible apply outOk_next

end Sys2Proof.Machine
end

