-- ==== Sys2Proof/Laws/KeepsLoad.lean ====
section
/-! SUPPORT. The operations of Machine/Load.lean keep every memory in canonical form: one lemma for each. -/

namespace Sys2Proof.Machine

theorem installObjs_memOk : ∀ x0 x1, State.MemOk x0 → State.MemOk (installObjs x0 x1) := by
  intro x0 x1 h0
  unfold installObjs
  repeat' first
    | with_reducible assumption
    | (extract_lets +onlyGivenNames x; refine memOk_cut x ?_ ?_ <;> [(dsimp only [x]; clear x); (clear_value x; intro _)])
    | with_reducible apply setDom_memOk
    | with_reducible apply setN_memOk
    | (with_reducible apply memOk_foldl; intro _ _ _)

theorem installMapping_memOk : ∀ x0 x1, State.MemOk x0 → State.MemOk (installMapping x0 x1) := by
  intro x0 x1 h0
  unfold installMapping
  repeat' first
    | with_reducible assumption
    | with_reducible intro _
    | (extract_lets +onlyGivenNames x; with_reducible refine memOk_cut x ?_ ?_ <;> [(dsimp only [x]; clear x); (clear_value x; intro _)])
    | (extract_lets +onlyGivenNames x; clear_value x)
    | with_reducible apply setN_memOk
    | with_reducible apply setDom_memOk

theorem preview_memOk : ∀ x0 x1, State.MemOk x0 → State.MemOk (preview x0 x1) := by
  intro x0 x1 h0
  unfold preview
  repeat' first
    | with_reducible assumption
    | (extract_lets +onlyGivenNames x; refine memOk_cut x ?_ ?_ <;> [(dsimp only [x]; clear x); (clear_value x; intro _)])
    | with_reducible apply installMapping_memOk
    | with_reducible apply installObjs_memOk
    | (with_reducible refine memOk_mk ?_; with_reducible refine memOk_to ?_)

theorem loadCores_memOk : ∀ x0 x1, State.MemOk x0 → State.MemOk (loadCores x0 x1) := by
  intro x0 x1 h0
  unfold loadCores
  repeat' first
    | with_reducible assumption
    | with_reducible intro _
    | (extract_lets +onlyGivenNames x; with_reducible refine coreOk_cut x ?_ ?_ <;> [(dsimp only [x]; clear x); (clear_value x; intro _)])
    | (extract_lets +onlyGivenNames x; clear_value x)
    | with_reducible apply hf
    | with_reducible apply getCore_memOk
    | with_reducible apply loadCore_memOk
    | with_reducible apply setCore_memOk
    | (with_reducible apply memOk_foldl; intro _ _ _)
    | split
    | (with_reducible refine coreOk_mk ?_; with_reducible refine coreOk_to ?_)

theorem armPlaced_memOk : ∀ x0 x1, State.MemOk x0 → State.MemOk (armPlaced x0 x1) := by
  intro x0 x1 h0
  unfold armPlaced
  repeat' first
    | with_reducible assumption
    | with_reducible intro _
    | (extract_lets +onlyGivenNames x; with_reducible refine memOk_cut x ?_ ?_ <;> [(dsimp only [x]; clear x); (clear_value x; intro _)])
    | (extract_lets +onlyGivenNames x; clear_value x)
    | with_reducible apply hf
    | with_reducible apply armScheduled_memOk
    | (with_reducible apply memOk_foldl; intro _ _ _)
    | (with_reducible apply memOk_foldl_fst; intro _ _ _)
    | (with_reducible apply coreOk_foldl; intro _ _ _)
    | split
    | with_reducible refine fst_state_eq (by with_reducible assumption) ?_
    | with_reducible refine snd_state_eq (by with_reducible assumption) ?_
    | with_reducible refine snd_core_eq (by with_reducible assumption) ?_
    | (with_reducible refine memOk_mk ?_; with_reducible refine memOk_to ?_)

theorem clearWork_memOk : ∀ x0 x1, State.MemOk x0 → State.MemOk (clearWork x0 x1) := by
  intro x0 x1 h0
  unfold clearWork
  repeat' first
    | with_reducible assumption
    | with_reducible intro _
    | (extract_lets +onlyGivenNames x; clear_value x)
    | split
    | with_reducible refine fst_state_eq (by with_reducible assumption) ?_
    | with_reducible refine snd_state_eq (by with_reducible assumption) ?_
    | with_reducible refine snd_core_eq (by with_reducible assumption) ?_
    | (with_reducible refine memOk_mk ?_; with_reducible refine memOk_to ?_)

theorem installPlacement_memOk : ∀ x0 x1, State.MemOk x0 → State.MemOk (installPlacement x0 x1) := by
  intro x0 x1 h0
  unfold installPlacement
  repeat' first
    | with_reducible assumption
    | (extract_lets +onlyGivenNames x; refine memOk_cut x ?_ ?_ <;> [(dsimp only [x]; clear x); (clear_value x; intro _)])
    | with_reducible apply preview_memOk
    | with_reducible apply armPlaced_memOk
    | with_reducible apply clearWork_memOk
    | with_reducible apply loadCores_memOk
    | with_reducible apply setN_memOk

theorem clearRange_memOk (s : State) (a n : Nat) (h : s.MemOk) : (clearRange s a n).MemOk := ⟨h.1, filter_wf _ _ h.2⟩

theorem clearStore_memOk : ∀ x0, State.MemOk x0 → State.MemOk (clearStore x0) := by
  intro x0 h0
  unfold clearStore
  repeat' first
    | with_reducible assumption
    | (extract_lets +onlyGivenNames x; refine memOk_cut x ?_ ?_ <;> [(dsimp only [x]; clear x); (clear_value x; intro _)])
    | with_reducible apply clearRange_memOk
    | (with_reducible apply memOk_foldl; intro _ _ _)

theorem setSteps_memOk : ∀ x0 x1, State.MemOk x0 → State.MemOk (setSteps x0 x1) := by
  intro x0 x1 h0
  unfold setSteps
  repeat' first
    | with_reducible assumption
    | (extract_lets +onlyGivenNames x; refine memOk_cut x ?_ ?_ <;> [(dsimp only [x]; clear x); (clear_value x; intro _)])
    | (extract_lets +onlyGivenNames x; clear_value x)
    | with_reducible apply setN_memOk
    | (with_reducible refine memOk_mk ?_; with_reducible refine memOk_to ?_)

theorem defaultKeys_memOk : ∀ x0, State.MemOk x0 → State.MemOk (defaultKeys x0) := by
  intro x0 h0
  unfold defaultKeys
  repeat' first
    | with_reducible assumption
    | (extract_lets +onlyGivenNames x; refine memOk_cut x ?_ ?_ <;> [(dsimp only [x]; clear x); (clear_value x; intro _)])
    | with_reducible apply setN_memOk
    | (with_reducible apply memOk_foldl; intro _ _ _)

theorem restoreKeys_memOk : ∀ x0 x1, State.MemOk x0 → State.MemOk (restoreKeys x0 x1) := by
  intro x0 x1 h0
  unfold restoreKeys
  repeat' first
    | with_reducible assumption
    | (extract_lets +onlyGivenNames x; refine memOk_cut x ?_ ?_ <;> [(dsimp only [x]; clear x); (clear_value x; intro _)])
    | (extract_lets +onlyGivenNames x; clear_value x)
    | with_reducible apply setN_memOk
    | (with_reducible apply memOk_foldl; intro _ _ _)

theorem restoreFrom_memOk (s : State) (rs : List JRec) (h : s.MemOk) : (restoreFrom s rs).MemOk := by
  cases rs with
  | nil => exact h
  | cons r rs =>
    exact memOk_foldl _ (fun t d ht => setGroup_memOk _ _ _ ht) _ _ (restoreKeys_memOk _ _ (setSteps_memOk _ _ h))

theorem beginJob_memOk : ∀ x0, State.MemOk x0 → State.MemOk (beginJob x0) := by
  intro x0 h0
  unfold beginJob
  repeat' first
    | with_reducible assumption
    | with_reducible apply defaultKeys_memOk
    | with_reducible apply setSteps_memOk

theorem applyPlacement_memOk : ∀ x0 x1, State.MemOk x0 → State.MemOk (applyPlacement x0 x1) := by
  intro x0 x1 h0
  unfold applyPlacement
  repeat' first
    | with_reducible assumption
    | (extract_lets +onlyGivenNames x; dsimp only [x]; clear x)
    | with_reducible apply clearStore_memOk
    | with_reducible apply installPlacement_memOk
    | with_reducible apply beginJob_memOk
    | with_reducible apply restoreFrom_memOk
    | with_reducible apply journal_memOk
    | split

end Sys2Proof.Machine
end

