-- ==== Sys2Proof/Laws/KeepsCommit.lean ====
section
/-! SUPPORT. The operations of Machine/Commit.lean keep every memory in canonical form: one lemma for each. -/

namespace Sys2Proof.Machine

theorem lateMilestone_memOk : ∀ x0, State.MemOk x0 → State.MemOk (lateMilestone x0) := by
  intro x0 h0
  unfold lateMilestone
  repeat' first
    | with_reducible assumption
    | (extract_lets +onlyGivenNames x; refine memOk_cut x ?_ ?_ <;> [(dsimp only [x]; clear x); (clear_value x; intro _)])
    | with_reducible apply raise_memOk
    | split

theorem activateKeys_memOk : ∀ x0, State.MemOk x0 → State.MemOk (activateKeys x0) := by
  intro x0 h0
  unfold activateKeys
  repeat' first
    | with_reducible assumption
    | (extract_lets +onlyGivenNames x; refine memOk_cut x ?_ ?_ <;> [(dsimp only [x]; clear x); (clear_value x; intro _)])
    | with_reducible apply setN_memOk
    | (with_reducible apply memOk_foldl; intro _ _ _)

theorem nextGroups_memOk : ∀ x0 x1, State.MemOk x0 → State.MemOk (nextGroups x0 x1) := by
  intro x0 x1 h0
  unfold nextGroups
  repeat' first
    | with_reducible assumption
    | with_reducible intro _
    | (extract_lets +onlyGivenNames x; clear_value x)
    | with_reducible apply hf
    | with_reducible apply setN_memOk
    | with_reducible apply setGroup_memOk
    | (with_reducible apply memOk_foldl; intro _ _ _)

theorem applyCompression_memOk : ∀ x0, State.MemOk x0 → State.MemOk (applyCompression x0) := by
  intro x0 h0
  unfold applyCompression
  repeat' first
    | with_reducible assumption
    | (extract_lets +onlyGivenNames x; clear_value x)
    | with_reducible apply setDom_memOk
    | (with_reducible refine memOk_mk ?_; with_reducible refine memOk_to ?_)

theorem openStep_memOk : ∀ x0, State.MemOk x0 → State.MemOk (openStep x0) := by
  intro x0 h0
  unfold openStep
  repeat' first
    | with_reducible assumption
    | with_reducible intro _
    | (extract_lets +onlyGivenNames x; clear_value x)
    | with_reducible apply setN_memOk
    | split
    | (with_reducible refine memOk_mk ?_; with_reducible refine memOk_to ?_)

theorem sendFingerprint_memOk : ∀ x0 x1 x2, State.MemOk x0 → State.MemOk (sendFingerprint x0 x1 x2) := by
  intro x0 x1 x2 h0
  unfold sendFingerprint
  repeat' first
    | with_reducible assumption
    | (extract_lets +onlyGivenNames x; refine memOk_cut x ?_ ?_ <;> [(dsimp only [x]; clear x); (clear_value x; intro _)])
    | (extract_lets +onlyGivenNames x; clear_value x)
    | with_reducible apply setDom_memOk
    | with_reducible apply sendMsg_memOk
    | with_reducible apply acceptFingerprint_memOk
    | (with_reducible apply memOk_foldl; intro _ _ _)

theorem beginPull_memOk : ∀ x0 x1 x2 x3 x4 x5, State.MemOk x0 → State.MemOk (beginPull x0 x1 x2 x3 x4 x5) := by
  intro x0 x1 x2 x3 x4 x5 h0
  unfold beginPull
  repeat' first
    | with_reducible assumption
    | (extract_lets +onlyGivenNames x; clear_value x)
    | with_reducible apply emit_memOk
    | split
    | (with_reducible refine memOk_mk ?_; with_reducible refine memOk_to ?_)

theorem startRepairs_memOk : ∀ x0 x1 x2 x3, State.MemOk x0 → State.MemOk (startRepairs x0 x1 x2 x3) := by
  intro x0 x1 x2 x3 h0
  unfold startRepairs
  repeat' first
    | with_reducible assumption
    | (extract_lets +onlyGivenNames x; refine memOk_cut x ?_ ?_ <;> [(dsimp only [x]; clear x); (clear_value x; intro _)])
    | with_reducible apply beginPull_memOk
    | with_reducible apply raise_memOk
    | (with_reducible apply memOk_foldl; intro _ _ _)
    | split

theorem openWindow_memOk : ∀ x0, State.MemOk x0 → State.MemOk (openWindow x0) := by
  intro x0 h0
  unfold openWindow
  repeat' first
    | with_reducible assumption
    | (extract_lets +onlyGivenNames x; refine memOk_cut x ?_ ?_ <;> [(dsimp only [x]; clear x); (clear_value x; intro _)])
    | (extract_lets +onlyGivenNames x; clear_value x)
    | with_reducible apply addN_memOk
    | split
    | (with_reducible refine memOk_mk ?_; with_reducible refine memOk_to ?_)

theorem refreshLayers_memOk : ∀ x0, State.MemOk x0 → State.MemOk (refreshLayers x0) := by
  intro x0 h0
  unfold refreshLayers
  repeat' first
    | with_reducible assumption
    | with_reducible intro _
    | (extract_lets +onlyGivenNames x; clear_value x)
    | with_reducible apply hf
    | split
    | (with_reducible refine memOk_mk ?_; with_reducible refine memOk_to ?_)

theorem milestone_memOk : ∀ x0, State.MemOk x0 → State.MemOk (milestone x0) := by
  intro x0 h0
  unfold milestone
  repeat' first
    | with_reducible assumption
    | with_reducible intro _
    | (extract_lets +onlyGivenNames x; with_reducible refine memOk_cut x ?_ ?_ <;> [(dsimp only [x]; clear x); (clear_value x; intro _)])
    | (extract_lets +onlyGivenNames x; clear_value x)
    | with_reducible apply hf
    | with_reducible apply setN_memOk
    | with_reducible apply nextGroups_memOk
    | with_reducible apply activateKeys_memOk
    | with_reducible apply journal_memOk
    | with_reducible apply openStep_memOk
    | with_reducible apply sendFingerprint_memOk
    | with_reducible apply applyCompression_memOk
    | with_reducible apply refreshLayers_memOk
    | with_reducible apply openWindow_memOk
    | with_reducible apply refreshUnits_memOk
    | with_reducible apply retryKept_memOk
    | with_reducible apply startRepairs_memOk
    | split
    | (with_reducible refine memOk_mk ?_; with_reducible refine memOk_to ?_)

theorem writeCompletions_memOk : ∀ x0 x1 x2, State.MemOk x0 → State.MemOk (writeCompletions x0 x1 x2) := by
  intro x0 x1 x2 h0
  unfold writeCompletions
  repeat' first
    | with_reducible assumption
    | with_reducible apply endTicket_memOk
    | with_reducible apply writeResultOf_memOk
    | (with_reducible apply memOk_foldl; intro _ _ _)

end Sys2Proof.Machine
end

