-- ==== Sys2Proof/Laws/KeepsJobs.lean ====
section
/-! SUPPORT. The operations of Machine/Jobs.lean keep every memory in canonical form: one lemma for each. -/

namespace Sys2Proof.Machine

theorem putJob_memOk : ∀ x0 x1, State.MemOk x0 → State.MemOk (putJob x0 x1) := by
  intro x0 x1 h0
  unfold putJob
  repeat' first
    | with_reducible assumption
    | (with_reducible refine memOk_mk ?_; with_reducible refine memOk_to ?_)

theorem setJobState_memOk : ∀ x0 x1 x2, State.MemOk x0 → State.MemOk (setJobState x0 x1 x2) := by
  intro x0 x1 x2 h0
  unfold setJobState
  repeat' first
    | with_reducible assumption
    | with_reducible apply journal_memOk
    | with_reducible apply setN_memOk

theorem endJob_memOk : ∀ x0 x1 x2 x3 x4 x5 x6, State.MemOk x0 → State.MemOk (endJob x0 x1 x2 x3 x4 x5 x6) := by
  intro x0 x1 x2 x3 x4 x5 x6 h0
  unfold endJob
  repeat' first
    | with_reducible assumption
    | (extract_lets +onlyGivenNames x; refine memOk_cut x ?_ ?_ <;> [(dsimp only [x]; clear x); (clear_value x; intro _)])
    | with_reducible apply setN_memOk
    | with_reducible apply setDom_memOk
    | with_reducible apply setJobState_memOk
    | with_reducible apply putJob_memOk

theorem dropPulls_memOk : ∀ x0 x1, State.MemOk x0 → State.MemOk (dropPulls x0 x1) := by
  intro x0 x1 h0
  unfold dropPulls
  repeat' first
    | with_reducible assumption
    | (with_reducible refine memOk_mk ?_; with_reducible refine memOk_to ?_)

theorem writeSlow_memOk : ∀ x0 x1 x2 x3, State.MemOk x0 → State.MemOk (writeSlow x0 x1 x2 x3) := by
  intro x0 x1 x2 x3 h0
  unfold writeSlow
  repeat' first
    | with_reducible assumption
    | (extract_lets +onlyGivenNames x; refine memOk_cut x ?_ ?_ <;> [(dsimp only [x]; clear x); (clear_value x; intro _)])
    | with_reducible apply stkWrite_memOk

theorem writePulled_memOk : ∀ x0 x1 x2 x3, State.MemOk x0 → State.MemOk ((writePulled x0 x1 x2 x3).1) := by
  intro x0 x1 x2 x3 h0
  unfold writePulled
  repeat' first
    | with_reducible assumption
    | (extract_lets +onlyGivenNames x; refine memOk_cut x ?_ ?_ <;> [(dsimp only [x]; clear x); (clear_value x; intro _)])
    | (extract_lets +onlyGivenNames x; clear_value x)
    | with_reducible apply writeBlock_memOk
    | with_reducible apply writeSlow_memOk
    | with_reducible apply writePtr_memOk
    | split

theorem writeResharded_memOk : ∀ x0 x1 x2 x3, State.MemOk x0 → State.MemOk (writeResharded x0 x1 x2 x3).1 := by
  intro x0 x1 x2 x3 h0
  unfold writeResharded
  repeat' first
    | with_reducible assumption
    | with_reducible intro _
    | (extract_lets +onlyGivenNames x; with_reducible refine memOk_cut x ?_ ?_ <;> [(dsimp only [x]; clear x); (clear_value x; intro _)])
    | (extract_lets +onlyGivenNames x; clear_value x)
    | with_reducible apply hf
    | with_reducible apply writeBlock_memOk
    | with_reducible apply writeSlow_memOk
    | with_reducible apply writePtr_memOk
    | split

theorem putPull_memOk : ∀ x0 x1, State.MemOk x0 → State.MemOk (putPull x0 x1) := by
  intro x0 x1 h0
  unfold putPull
  repeat' first
    | with_reducible assumption
    | (with_reducible refine memOk_mk ?_; with_reducible refine memOk_to ?_)

theorem undoPull_memOk : ∀ x0 x1, State.MemOk x0 → State.MemOk (undoPull x0 x1) := by
  intro x0 x1 h0
  unfold undoPull
  repeat' first
    | with_reducible assumption
    | (extract_lets +onlyGivenNames x; clear_value x)
    | with_reducible apply writePtr_memOk
    | (with_reducible apply memOk_foldl; intro _ _ _)
    | split

theorem undoPulls_memOk : ∀ x0 x1, State.MemOk x0 → State.MemOk (undoPulls x0 x1) := by
  intro x0 x1 h0
  unfold undoPulls
  repeat' first
    | with_reducible assumption
    | with_reducible apply dropPulls_memOk
    | with_reducible apply undoPull_memOk
    | (with_reducible apply memOk_foldl; intro _ _ _)

theorem takeResharded_memOk : ∀ x0 x1 x2 x3 x4, State.MemOk x0 → State.MemOk (takeResharded x0 x1 x2 x3 x4).1 := by
  intro x0 x1 x2 x3 x4 h0
  unfold takeResharded
  repeat' first
    | with_reducible assumption
    | with_reducible intro _
    | (extract_lets +onlyGivenNames x; with_reducible refine fstOk_cut x ?_ ?_ <;> [(dsimp only [x]; clear x); (clear_value x; intro _)])
    | (extract_lets +onlyGivenNames x; clear_value x)
    | with_reducible apply hf
    | with_reducible apply writeResharded_memOk
    | with_reducible apply count64_memOk
    | with_reducible apply putPull_memOk
    | split

theorem copyOwn_memOk : ∀ x0 x1 x2 x3, State.MemOk x2 → State.MemOk (copyOwn x0 x1 x2 x3) := by
  intro x0 x1 x2 x3 h0
  unfold copyOwn
  repeat' first
    | with_reducible assumption
    | with_reducible intro _
    | with_reducible apply takeResharded_memOk
    | with_reducible apply count64_memOk
    | split

theorem enterCopying_memOk (s : State) (h : s.MemOk) : (enterCopying s).MemOk := by
  unfold enterCopying
  extract_lets s1
  have h1 : s1.MemOk := setN_memOk _ _ _ (setN_memOk _ _ _ h)
  clear_value s1
  split
  · exact h1
  · next p _ =>
    extract_lets s2 s3
    have hp := memOk_to (clearStore_memOk _ (preview_memOk s1 p h1))
    have h2 : s2.MemOk := memOk_mk ⟨(memOk_to h1).1, hp.2⟩
    have h3 : s3.MemOk := memOk_foldl _ (fun t _ ht => memOk_mk (memOk_to ht)) _ _ h2
    refine memOk_foldl _ (fun t e ht => ?_) _ _ h3
    split
    · exact memOk_foldl _ (fun t _ ht => copyOwn_memOk _ _ _ _ ht) _ _ ht
    · exact emit_memOk _ _ ht

theorem startReshard_memOk : ∀ x0, State.MemOk x0 → State.MemOk (startReshard x0) := by
  intro x0 h0
  unfold startReshard
  repeat' first
    | with_reducible assumption
    | (extract_lets +onlyGivenNames x; refine memOk_cut x ?_ ?_ <;> [(dsimp only [x]; clear x); (clear_value x; intro _)])
    | (extract_lets +onlyGivenNames x; clear_value x)
    | with_reducible apply setN_memOk
    | with_reducible apply journal_memOk
    | with_reducible apply enterCopying_memOk
    | with_reducible apply logEvent_memOk
    | with_reducible apply raise_memOk
    | split

theorem endDraining_memOk : ∀ x0, State.MemOk x0 → State.MemOk (endDraining x0) := by
  intro x0 h0
  unfold endDraining
  repeat' first
    | with_reducible assumption
    | with_reducible apply enterCopying_memOk
    | split

theorem clearReshard_memOk : ∀ x0, State.MemOk x0 → State.MemOk (clearReshard x0) := by
  intro x0 h0
  unfold clearReshard
  repeat' first
    | with_reducible assumption
    | with_reducible apply setN_memOk
    | with_reducible apply dropPulls_memOk

theorem failReshard_memOk : ∀ x0 x1 x2 x3, State.MemOk x0 → State.MemOk (failReshard x0 x1 x2 x3) := by
  intro x0 x1 x2 x3 h0
  unfold failReshard
  repeat' first
    | with_reducible assumption
    | with_reducible apply endJob_memOk
    | with_reducible apply clearReshard_memOk
    | with_reducible apply raise_memOk

theorem startPull_memOk : ∀ x0, State.MemOk x0 → State.MemOk (startPull x0) := by
  intro x0 h0
  unfold startPull
  repeat' first
    | with_reducible assumption
    | (extract_lets +onlyGivenNames x; refine memOk_cut x ?_ ?_ <;> [(dsimp only [x]; clear x); (clear_value x; intro _)])
    | (extract_lets +onlyGivenNames x; clear_value x)
    | with_reducible apply setN_memOk
    | with_reducible apply beginPull_memOk
    | (with_reducible apply memOk_foldl; intro _ _ _)

theorem startEffect_memOk : ∀ x0 x1, State.MemOk x1 → State.MemOk (startEffect x0 x1) := by
  intro x0 x1 h0
  unfold startEffect
  repeat' first
    | with_reducible assumption
    | with_reducible apply setN_memOk
    | with_reducible apply startReshard_memOk
    | with_reducible apply startPull_memOk
    | (with_reducible apply memOk_foldl; intro _ _ _)
    | split

theorem startJob_memOk : ∀ x0 x1, State.MemOk x1 → State.MemOk (startJob x0 x1) := by
  intro x0 x1 h0
  unfold startJob
  repeat' first
    | with_reducible assumption
    | (extract_lets +onlyGivenNames x; refine memOk_cut x ?_ ?_ <;> [(dsimp only [x]; clear x); (clear_value x; intro _)])
    | with_reducible apply setN_memOk
    | with_reducible apply startEffect_memOk
    | with_reducible apply setJobState_memOk
    | with_reducible apply putJob_memOk

theorem endTest_memOk : ∀ x0, State.MemOk x0 → State.MemOk (endTest x0) := by
  intro x0 h0
  unfold endTest
  repeat' first
    | with_reducible assumption
    | with_reducible apply setN_memOk
    | (with_reducible apply memOk_foldl; intro _ _ _)
    | split

theorem resumeJob_memOk : ∀ x0 x1, State.MemOk x1 → State.MemOk (resumeJob x0 x1) := by
  intro x0 x1 h0
  unfold resumeJob
  repeat' first
    | with_reducible assumption
    | with_reducible apply setJobState_memOk
    | with_reducible apply endJob_memOk
    | split

theorem cancelJob_memOk : ∀ x0 x1, State.MemOk x1 → State.MemOk (cancelJob x0 x1) := by
  intro x0 x1 h0
  unfold cancelJob
  repeat' first
    | with_reducible assumption
    | (extract_lets +onlyGivenNames x; refine memOk_cut x ?_ ?_ <;> [(dsimp only [x]; clear x); (clear_value x; intro _)])
    | with_reducible apply endTest_memOk
    | with_reducible apply clearReshard_memOk
    | with_reducible apply undoPulls_memOk
    | with_reducible apply endJob_memOk
    | split

theorem finishLoad_memOk : ∀ x0, State.MemOk x0 → State.MemOk (finishLoad x0) := by
  intro x0 h0
  unfold finishLoad
  repeat' first
    | with_reducible assumption
    | with_reducible intro _
    | with_reducible apply endJob_memOk
    | with_reducible apply setN_memOk
    | with_reducible apply applyPlacement_memOk
    | split

theorem commandEffect_memOk : ∀ x0 x1 x2, State.MemOk x1 → State.MemOk (commandEffect x0 x1 x2) := by
  intro x0 x1 x2 h0
  unfold commandEffect
  repeat' first
    | with_reducible assumption
    | (extract_lets +onlyGivenNames x; clear_value x)
    | with_reducible apply startJob_memOk
    | with_reducible apply putJob_memOk
    | with_reducible apply resumeJob_memOk
    | with_reducible apply cancelJob_memOk
    | split

theorem command_memOk : ∀ x0 x1 x2 x3, State.MemOk x3 → State.MemOk (command x0 x1 x2 x3) := by
  intro x0 x1 x2 x3 h0
  unfold command
  repeat' first
    | with_reducible assumption
    | with_reducible intro _
    | with_reducible apply ownWrite_memOk
    | with_reducible apply finishLoad_memOk
    | with_reducible apply commandEffect_memOk
    | split

theorem execJobStart_memOk : ∀ x0 x1 x2, State.MemOk x2 → OutOk (execJobStart x0 x1 x2) := by
  intro x0 x1 x2 h0
  unfold execJobStart
  repeat' first
    | with_reducible assumption
    | with_reducible apply command_memOk
    | with_reducible apply outOk_next

theorem execJobSuspend_memOk : ∀ x0 x1 x2, State.MemOk x2 → OutOk (execJobSuspend x0 x1 x2) := by
  intro x0 x1 x2 h0
  unfold execJobSuspend
  repeat' first
    | with_reducible assumption
    | with_reducible apply command_memOk
    | with_reducible apply outOk_next

theorem execJobResume_memOk : ∀ x0 x1 x2, State.MemOk x2 → OutOk (execJobResume x0 x1 x2) := by
  intro x0 x1 x2 h0
  unfold execJobResume
  repeat' first
    | with_reducible assumption
    | with_reducible apply command_memOk
    | with_reducible apply outOk_next

theorem execJobCancel_memOk : ∀ x0 x1 x2, State.MemOk x2 → OutOk (execJobCancel x0 x1 x2) := by
  intro x0 x1 x2 h0
  unfold execJobCancel
  repeat' first
    | with_reducible assumption
    | with_reducible apply command_memOk
    | with_reducible apply outOk_next

theorem noteProgress_memOk : ∀ x0 x1 x2, State.MemOk x0 → State.MemOk (noteProgress x0 x1 x2) := by
  intro x0 x1 x2 h0
  unfold noteProgress
  repeat' first
    | with_reducible assumption
    | with_reducible intro _
    | with_reducible apply setN_memOk
    | split

theorem boundaryProgress_memOk : ∀ x0 x1, State.MemOk x0 → State.MemOk (boundaryProgress x0 x1) := by
  intro x0 x1 h0
  unfold boundaryProgress
  repeat' first
    | with_reducible assumption
    | with_reducible intro _
    | with_reducible apply noteProgress_memOk
    | (with_reducible apply memOk_foldl; intro _ _ _)
    | (with_reducible apply memOk_foldl_fst; intro _ _ _)
    | (with_reducible apply coreOk_foldl; intro _ _ _)
    | split

theorem execJobSuspended_memOk : ∀ x0 x1, State.MemOk x1 → OutOk (execJobSuspended x0 x1) := by
  intro x0 x1 h0
  unfold execJobSuspended
  repeat' first
    | with_reducible assumption
    | with_reducible intro _
    | with_reducible apply setJobState_memOk
    | with_reducible apply putJob_memOk
    | with_reducible apply noteProgress_memOk
    | with_reducible apply outOk_next
    | split

theorem execPullEndpointRequest_memOk : ∀ x0 x1 x2 x3, State.MemOk x3 → OutOk (execPullEndpointRequest x0 x1 x2 x3) := by
  intro x0 x1 x2 x3 h0
  unfold execPullEndpointRequest
  repeat' first
    | with_reducible assumption
    | with_reducible intro _
    | (extract_lets +onlyGivenNames x; with_reducible refine memOk_cut x ?_ ?_ <;> [(dsimp only [x]; clear x); (clear_value x; intro _)])
    | (extract_lets +onlyGivenNames x; clear_value x)
    | with_reducible apply meetErrors_memOk
    | with_reducible apply count64_memOk
    | with_reducible apply emit_memOk
    | with_reducible apply outOk_next
    | split

theorem retryBlock_memOk : ∀ x0 x1 x2 x3 x4 x5 x6, State.MemOk x0 → (∀ s, State.MemOk s → State.MemOk (x6 s)) → State.MemOk (retryBlock x0 x1 x2 x3 x4 x5 x6) := by
  intro x0 x1 x2 x3 x4 x5 x6 h0 h1
  unfold retryBlock
  repeat' first
    | with_reducible assumption
    | with_reducible intro _
    | (extract_lets +onlyGivenNames x; clear_value x)
    | with_reducible apply hf
    | with_reducible apply emit_memOk
    | with_reducible apply putPull_memOk
    | with_reducible apply h1
    | split

theorem failPull_memOk : ∀ x0 x1 x2 x3, State.MemOk x0 → State.MemOk (failPull x0 x1 x2 x3) := by
  intro x0 x1 x2 x3 h0
  unfold failPull
  repeat' first
    | with_reducible assumption
    | with_reducible apply endJob_memOk
    | with_reducible apply undoPulls_memOk

theorem pullComplete_memOk : ∀ x0 x1 x2, State.MemOk x0 → State.MemOk (pullComplete x0 x1 x2) := by
  intro x0 x1 x2 h0
  unfold pullComplete
  repeat' first
    | with_reducible assumption
    | (extract_lets +onlyGivenNames x; refine memOk_cut x ?_ ?_ <;> [(dsimp only [x]; clear x); (clear_value x; intro _)])
    | (extract_lets +onlyGivenNames x; clear_value x)
    | with_reducible apply setGroup_memOk
    | split
    | (with_reducible refine memOk_mk ?_; with_reducible refine memOk_to ?_)

theorem execPullBlockReceive_memOk : ∀ x0 x1 x2, State.MemOk x2 → OutOk (execPullBlockReceive x0 x1 x2) := by
  intro x0 x1 x2 h0
  unfold execPullBlockReceive
  repeat' first
    | with_reducible assumption
    | with_reducible intro _
    | (extract_lets +onlyGivenNames x; with_reducible refine memOk_cut x ?_ ?_ <;> [(dsimp only [x]; clear x); (clear_value x; intro _)])
    | (extract_lets +onlyGivenNames x; with_reducible refine fstOk_cut x ?_ ?_ <;> [(dsimp only [x]; clear x); (clear_value x; intro _)])
    | (extract_lets +onlyGivenNames x; clear_value x)
    | with_reducible apply hf
    | with_reducible apply writePulled_memOk
    | with_reducible apply meetErrors_memOk
    | with_reducible apply putPull_memOk
    | with_reducible apply pullComplete_memOk
    | with_reducible apply count64_memOk
    | with_reducible apply retryBlock_memOk
    | with_reducible apply failPull_memOk
    | with_reducible apply undoPull_memOk
    | with_reducible apply outOk_next
    | split
    | with_reducible refine fst_state_eq (by with_reducible assumption) ?_
    | with_reducible refine snd_state_eq (by with_reducible assumption) ?_
    | with_reducible refine snd_core_eq (by with_reducible assumption) ?_
    | (with_reducible refine memOk_mk ?_; with_reducible refine memOk_to ?_)

theorem execReshardBlockReceive_memOk : ∀ x0 x1 x2, State.MemOk x2 → OutOk (execReshardBlockReceive x0 x1 x2) := by
  intro x0 x1 x2 h0
  unfold execReshardBlockReceive
  repeat' first
    | with_reducible assumption
    | with_reducible intro _
    | (extract_lets +onlyGivenNames x; with_reducible refine fstOk_cut x ?_ ?_ <;> [(dsimp only [x]; clear x); (clear_value x; intro _)])
    | (extract_lets +onlyGivenNames x; clear_value x)
    | with_reducible apply hf
    | with_reducible apply takeResharded_memOk
    | with_reducible apply meetErrors_memOk
    | with_reducible apply retryBlock_memOk
    | with_reducible apply raise_memOk
    | with_reducible apply failReshard_memOk
    | with_reducible apply outOk_next
    | split

theorem takeImageT_memOk : ∀ x0 x1, State.MemOk x0 → State.MemOk (takeImageT x0 x1) := by
  intro x0 x1 h0
  unfold takeImageT
  repeat' first
    | with_reducible assumption
    | with_reducible intro _
    | (extract_lets +onlyGivenNames x; clear_value x)
    | with_reducible apply hf
    | with_reducible apply setGroup_memOk
    | (with_reducible apply memOk_foldl; intro _ _ _)
    | split

theorem endMemoryTest_memOk (s : State) (o : JobOutcome) (h : s.MemOk) : (endMemoryTest s o).MemOk := by
  unfold endMemoryTest
  extract_lets s1 s2 s3 s4
  have h1 : s1.MemOk := memOk_foldl _ (fun t f ht => retireFrame_memOk _ _ _ ht) _ _ h
  have h2 : s2.MemOk := setN_memOk _ _ _ (setN_memOk _ _ _ (setN_memOk _ _ _ h1))
  have h4 : s4.MemOk := noteProgress_memOk _ _ _ (endTest_memOk _ (memOk_mk ⟨(memOk_to h2).1, rfl⟩))
  split
  · exact endJob_memOk _ _ _ _ _ _ _ (setN_memOk _ _ _ h4)
  · exact endJob_memOk _ _ _ _ _ _ _ h4

theorem beginLoad_memOk : ∀ x0 x1, State.MemOk x0 → State.MemOk (beginLoad x0 x1) := by
  intro x0 x1 h0
  unfold beginLoad
  repeat' first
    | with_reducible assumption
    | with_reducible intro _
    | (extract_lets +onlyGivenNames x; with_reducible refine coreOk_cut x ?_ ?_ <;> [(dsimp only [x]; clear x); (clear_value x; intro _)])
    | (extract_lets +onlyGivenNames x; clear_value x)
    | with_reducible apply hf
    | with_reducible apply getCore_memOk
    | with_reducible apply takeException_memOk
    | with_reducible apply setCore_memOk
    | (with_reducible apply memOk_foldl; intro _ _ _)
    | (with_reducible apply memOk_foldl_fst; intro _ _ _)
    | (with_reducible apply coreOk_foldl; intro _ _ _)
    | split
    | with_reducible refine fst_state_eq (by with_reducible assumption) ?_
    | with_reducible refine snd_state_eq (by with_reducible assumption) ?_
    | with_reducible refine snd_core_eq (by with_reducible assumption) ?_
    | (with_reducible refine memOk_mk ?_; with_reducible refine memOk_to ?_)
    | (with_reducible refine coreOk_mk ?_; with_reducible refine coreOk_to ?_)

theorem endPlacementLoad_memOk (s : State) (o : JobOutcome) (h : s.MemOk) : (endPlacementLoad s o).MemOk := by
  unfold endPlacementLoad
  extract_lets b s1 fail
  have h1 : s1.MemOk := noteProgress_memOk _ _ _ h
  clear_value s1
  have hf : ∀ st place index, (fail st place index).MemOk := fun _ _ _ => endJob_memOk _ _ _ _ _ _ _ h1
  clear_value fail
  split
  · exact hf _ _ _
  · split
    · exact hf _ _ _
    · split
      · exact hf _ _ _
      · split
        · exact hf _ _ _
        · extract_lets s2 s3
          have h3 : s3.MemOk := setN_memOk _ _ _ (memOk_mk (memOk_to h1))
          clear_value s3
          split
          · exact putJob_memOk _ _ (beginLoad_memOk _ _ h3)
          · exact endJob_memOk _ _ _ _ _ _ _ h3

theorem adoptTickets_memOk : ∀ x0 x1, State.MemOk x0 → State.MemOk (adoptTickets x0 x1) := by
  intro x0 x1 h0
  unfold adoptTickets
  repeat' first
    | with_reducible assumption
    | (extract_lets +onlyGivenNames x; clear_value x)
    | with_reducible apply setN_memOk
    | with_reducible apply completeTicket_memOk
    | (with_reducible apply memOk_foldl; intro _ _ _)

theorem adoptGroup_memOk : ∀ x0 x1 x2 x3, State.MemOk x2 → State.MemOk (adoptGroup x0 x1 x2 x3) := by
  intro x0 x1 x2 x3 h0
  unfold adoptGroup
  repeat' first
    | with_reducible assumption
    | with_reducible intro _
    | (extract_lets +onlyGivenNames x; clear_value x)
    | with_reducible apply hf
    | with_reducible apply setGroup_memOk

theorem dropUpdates_memOk : ∀ x0, State.MemOk x0 → State.MemOk (dropUpdates x0) := by
  intro x0 h0
  unfold dropUpdates
  repeat' first
    | with_reducible assumption
    | with_reducible intro _
    | with_reducible apply refreshUnits_memOk
    | split
    | with_reducible refine fst_state_eq (by with_reducible assumption) ?_
    | with_reducible refine snd_state_eq (by with_reducible assumption) ?_
    | with_reducible refine snd_core_eq (by with_reducible assumption) ?_
    | (with_reducible refine memOk_mk ?_; with_reducible refine memOk_to ?_)

theorem adopt_memOk : ∀ x0 x1 x2 x3, State.MemOk x0 → State.MemOk (adopt x0 x1 x2 x3) := by
  intro x0 x1 x2 x3 h0
  unfold adopt
  repeat' first
    | with_reducible assumption
    | with_reducible intro _
    | (extract_lets +onlyGivenNames x; clear_value x)
    | with_reducible apply hf
    | with_reducible apply setSteps_memOk
    | with_reducible apply logEvent_memOk
    | with_reducible apply raise_memOk
    | with_reducible apply journal_memOk
    | with_reducible apply adoptTickets_memOk
    | with_reducible apply setN_memOk
    | with_reducible apply adoptGroup_memOk
    | with_reducible apply dropUpdates_memOk
    | with_reducible apply adoptWindows_memOk
    | with_reducible apply openStep_memOk
    | with_reducible apply retryKept_memOk
    | with_reducible apply sendFingerprint_memOk
    | (with_reducible apply memOk_foldl; intro _ _ _)
    | (with_reducible apply memOk_foldl_fst; intro _ _ _)
    | (with_reducible apply coreOk_foldl; intro _ _ _)
    | split
    | with_reducible refine fst_state_eq (by with_reducible assumption) ?_
    | with_reducible refine snd_state_eq (by with_reducible assumption) ?_
    | with_reducible refine snd_core_eq (by with_reducible assumption) ?_
    | (with_reducible refine memOk_mk ?_; with_reducible refine memOk_to ?_)

theorem closePull_memOk : ∀ x0 x1, State.MemOk x0 → State.MemOk (closePull x0 x1) := by
  intro x0 x1 h0
  unfold closePull
  repeat' first
    | with_reducible assumption
    | with_reducible intro _
    | (extract_lets +onlyGivenNames x; clear_value x)
    | with_reducible apply hf
    | with_reducible apply endJob_memOk
    | with_reducible apply dropPulls_memOk
    | with_reducible apply adopt_memOk
    | with_reducible apply failPull_memOk
    | split

theorem endShardPull_memOk : ∀ x0 x1, State.MemOk x0 → State.MemOk (endShardPull x0 x1) := by
  intro x0 x1 h0
  unfold endShardPull
  repeat' first
    | with_reducible assumption
    | with_reducible intro _
    | (extract_lets +onlyGivenNames x; clear_value x)
    | with_reducible apply hf
    | with_reducible apply failPull_memOk
    | with_reducible apply closePull_memOk
    | with_reducible apply takeImageT_memOk
    | split

theorem endReshard_memOk : ∀ x0 x1, State.MemOk x0 → State.MemOk (endReshard x0 x1) := by
  intro x0 x1 h0
  unfold endReshard
  repeat' first
    | with_reducible assumption
    | (extract_lets +onlyGivenNames x; refine memOk_cut x ?_ ?_ <;> [(dsimp only [x]; clear x); (clear_value x; intro _)])
    | (extract_lets +onlyGivenNames x; clear_value x)
    | with_reducible apply failReshard_memOk
    | with_reducible apply setN_memOk
    | with_reducible apply endJob_memOk
    | split

theorem endDump_memOk : ∀ x0 x1, State.MemOk x0 → State.MemOk (endDump x0 x1) := by
  intro x0 x1 h0
  unfold endDump
  repeat' first
    | with_reducible assumption
    | with_reducible intro _
    | with_reducible apply endJob_memOk
    | with_reducible apply noteProgress_memOk
    | with_reducible apply setN_memOk
    | split

theorem execJobEnd_memOk : ∀ x0 x1 x2, State.MemOk x2 → OutOk (execJobEnd x0 x1 x2) := by
  intro x0 x1 x2 h0
  unfold execJobEnd
  repeat' first
    | with_reducible assumption
    | with_reducible intro _
    | with_reducible apply endMemoryTest_memOk
    | with_reducible apply endPlacementLoad_memOk
    | with_reducible apply endReshard_memOk
    | with_reducible apply endShardPull_memOk
    | with_reducible apply endDump_memOk
    | with_reducible apply outOk_next
    | split

theorem execCheckpointDump_memOk : ∀ x0, State.MemOk x0 → OutOk (execCheckpointDump x0) := by
  intro x0 h0
  unfold execCheckpointDump
  repeat' first
    | with_reducible assumption
    | with_reducible intro _
    | (extract_lets +onlyGivenNames x; with_reducible refine memOk_cut x ?_ ?_ <;> [(dsimp only [x]; clear x); (clear_value x; intro _)])
    | (extract_lets +onlyGivenNames x; clear_value x)
    | with_reducible apply setN_memOk
    | with_reducible apply meetErrorsOf_memOk
    | with_reducible apply emit_memOk
    | with_reducible apply endJob_memOk
    | with_reducible apply putJob_memOk
    | with_reducible apply outOk_next
    | split

theorem switchEffect_memOk : ∀ x0 x1, State.MemOk x0 → State.MemOk (switchEffect x0 x1) := by
  intro x0 x1 h0
  unfold switchEffect
  repeat' first
    | with_reducible assumption
    | with_reducible intro _
    | (extract_lets +onlyGivenNames x; with_reducible refine memOk_cut x ?_ ?_ <;> [(dsimp only [x]; clear x); (clear_value x; intro _)])
    | (extract_lets +onlyGivenNames x; clear_value x)
    | with_reducible apply hf
    | with_reducible apply setN_memOk
    | with_reducible apply setSteps_memOk
    | with_reducible apply installPlacement_memOk
    | with_reducible apply dropPulls_memOk
    | with_reducible apply suspendAll_memOk
    | with_reducible apply setGroup_memOk
    | with_reducible apply adoptWindows_memOk
    | with_reducible apply resumeAll_memOk
    | (with_reducible apply memOk_foldl; intro _ _ _)
    | (with_reducible apply memOk_foldl_fst; intro _ _ _)
    | (with_reducible apply coreOk_foldl; intro _ _ _)
    | split

theorem execSwitch_memOk : ∀ x0 x1, State.MemOk x1 → OutOk (execSwitch x0 x1) := by
  intro x0 x1 h0
  unfold execSwitch
  repeat' first
    | with_reducible assumption
    | with_reducible intro _
    | with_reducible apply metBy_memOk
    | with_reducible apply ownWrite_memOk
    | with_reducible apply switchEffect_memOk
    | with_reducible apply outOk_next

theorem recovered_memOk : ∀ x0, State.MemOk x0 → State.MemOk (recovered x0) := by
  intro x0 h0
  unfold recovered
  repeat' first
    | with_reducible assumption
    | (extract_lets +onlyGivenNames x; refine sndOk_cut x ?_ ?_ <;> [(dsimp only [x]; clear x); (clear_value x; intro _)])
    | with_reducible apply drawFree_memOk
    | with_reducible apply setN_memOk

theorem resumeEffect_memOk : ∀ x0 x1, State.MemOk x0 → State.MemOk (resumeEffect x0 x1) := by
  intro x0 x1 h0
  unfold resumeEffect
  repeat' first
    | with_reducible assumption
    | with_reducible intro _
    | (extract_lets +onlyGivenNames x; with_reducible refine memOk_cut x ?_ ?_ <;> [(dsimp only [x]; clear x); (clear_value x; intro _)])
    | (extract_lets +onlyGivenNames x; clear_value x)
    | with_reducible apply hf
    | with_reducible apply setN_memOk
    | with_reducible apply recovered_memOk
    | with_reducible apply retryKept_memOk
    | with_reducible apply sendFingerprint_memOk
    | split
    | with_reducible refine fst_state_eq (by with_reducible assumption) ?_
    | with_reducible refine snd_state_eq (by with_reducible assumption) ?_
    | with_reducible refine snd_core_eq (by with_reducible assumption) ?_
    | (with_reducible refine memOk_mk ?_; with_reducible refine memOk_to ?_)

theorem execResume_memOk : ∀ x0 x1, State.MemOk x1 → OutOk (execResume x0 x1) := by
  intro x0 x1 h0
  unfold execResume
  repeat' first
    | with_reducible assumption
    | with_reducible intro _
    | with_reducible apply ownWrite_memOk
    | with_reducible apply resumeEffect_memOk
    | with_reducible apply outOk_next

theorem replayEffect_memOk : ∀ x0 x1, State.MemOk x0 → State.MemOk (replayEffect x0 x1) := by
  intro x0 x1 h0
  unfold replayEffect
  repeat' first
    | with_reducible assumption
    | (extract_lets +onlyGivenNames x; clear_value x)
    | with_reducible apply replayNow_memOk
    | with_reducible apply abandon_memOk
    | with_reducible apply suspendAll_memOk
    | split

theorem execReplayStep_memOk : ∀ x0 x1, State.MemOk x1 → OutOk (execReplayStep x0 x1) := by
  intro x0 x1 h0
  unfold execReplayStep
  repeat' first
    | with_reducible assumption
    | with_reducible intro _
    | with_reducible apply metBy_memOk
    | with_reducible apply ownWrite_memOk
    | with_reducible apply replayEffect_memOk
    | with_reducible apply outOk_next

theorem substituteEffect_memOk : ∀ x0 x1, State.MemOk x0 → State.MemOk (substituteEffect x0 x1) := by
  intro x0 x1 h0
  unfold substituteEffect
  repeat' first
    | with_reducible assumption
    | (extract_lets +onlyGivenNames x; refine memOk_cut x ?_ ?_ <;> [(dsimp only [x]; clear x); (clear_value x; intro _)])
    | (extract_lets +onlyGivenNames x; clear_value x)
    | with_reducible apply setDom_memOk
    | with_reducible apply resendStep_memOk
    | (with_reducible apply memOk_foldl; intro _ _ _)
    | (with_reducible refine memOk_mk ?_; with_reducible refine memOk_to ?_)

theorem execPeerSubstitute_memOk : ∀ x0 x1, State.MemOk x1 → OutOk (execPeerSubstitute x0 x1) := by
  intro x0 x1 h0
  unfold execPeerSubstitute
  repeat' first
    | with_reducible assumption
    | with_reducible intro _
    | with_reducible apply ownWriteDom_memOk
    | with_reducible apply substituteEffect_memOk
    | with_reducible apply outOk_next

end Sys2Proof.Machine
end

