-- ==== Sys2Proof/Laws/KeepsSession.lean ====
section
/-! SUPPORT. The operations of Machine/Session.lean keep every memory in canonical form: one lemma for each. -/

namespace Sys2Proof.Machine

theorem sendReply_memOk : ∀ x0 x1 x2 x3, State.MemOk x0 → State.MemOk (sendReply x0 x1 x2 x3) := by
  intro x0 x1 x2 x3 h0
  unfold sendReply
  repeat' first
    | with_reducible assumption
    | with_reducible intro _
    | with_reducible apply emit_memOk
    | with_reducible apply setBar_memOk
    | split

theorem dropFrame_memOk : ∀ x0 x1, State.MemOk x0 → State.MemOk (dropFrame x0 x1) := by
  intro x0 x1 h0
  unfold dropFrame
  repeat' first
    | with_reducible assumption
    | with_reducible apply setBar_memOk
    | split

theorem refreshPar_memOk : ∀ x0, State.MemOk x0 → State.MemOk (refreshPar x0) := by
  intro x0 h0
  unfold refreshPar
  repeat' first
    | with_reducible assumption
    | (extract_lets +onlyGivenNames x; refine memOk_cut x ?_ ?_ <;> [(dsimp only [x]; clear x); (clear_value x; intro _)])
    | (extract_lets +onlyGivenNames x; clear_value x)
    | with_reducible apply setN_memOk
    | with_reducible apply setDom_memOk

theorem setSession_memOk : ∀ x0 x1, State.MemOk x0 → State.MemOk (setSession x0 x1) := by
  intro x0 x1 h0
  unfold setSession
  repeat' first
    | with_reducible assumption
    | (extract_lets +onlyGivenNames x; clear_value x)
    | (with_reducible refine memOk_mk ?_; with_reducible refine memOk_to ?_)

theorem dropTxn_memOk : ∀ x0 x1, State.MemOk x0 → State.MemOk (dropTxn x0 x1) := by
  intro x0 x1 h0
  unfold dropTxn
  repeat' first
    | with_reducible assumption
    | (extract_lets +onlyGivenNames x; clear_value x)
    | (with_reducible refine memOk_mk ?_; with_reducible refine memOk_to ?_)

theorem rollbackTxn_memOk : ∀ x0 x1, State.MemOk x0 → State.MemOk (rollbackTxn x0 x1) := by
  intro x0 x1 h0
  unfold rollbackTxn
  repeat' first
    | with_reducible assumption
    | with_reducible apply count64_memOk
    | with_reducible apply dropTxn_memOk

theorem closeSession_memOk : ∀ x0 x1, State.MemOk x0 → State.MemOk (closeSession x0 x1) := by
  intro x0 x1 h0
  unfold closeSession
  repeat' first
    | with_reducible assumption
    | (extract_lets +onlyGivenNames x; refine memOk_cut x ?_ ?_ <;> [(dsimp only [x]; clear x); (clear_value x; intro _)])
    | (extract_lets +onlyGivenNames x; clear_value x)
    | with_reducible apply rollbackTxn_memOk
    | with_reducible apply refreshPar_memOk
    | (with_reducible apply memOk_foldl; intro _ _ _)
    | (with_reducible refine memOk_mk ?_; with_reducible refine memOk_to ?_)

theorem closeRole_memOk : ∀ x0 x1, State.MemOk x0 → State.MemOk (closeRole x0 x1) := by
  intro x0 x1 h0
  unfold closeRole
  repeat' first
    | with_reducible assumption
    | with_reducible apply closeSession_memOk
    | (with_reducible apply memOk_foldl; intro _ _ _)

theorem execSessionExpired_memOk : ∀ x0 x1, State.MemOk x1 → OutOk (execSessionExpired x0 x1) := by
  intro x0 x1 h0
  unfold execSessionExpired
  repeat' first
    | with_reducible assumption
    | with_reducible apply closeSession_memOk
    | with_reducible apply raise_memOk
    | with_reducible apply outOk_next
    | split

theorem fillResponse_memOk : ∀ x0 x1 x2 x3 x4, State.MemOk x0 → State.MemOk (fillResponse x0 x1 x2 x3 x4) := by
  intro x0 x1 x2 x3 x4 h0
  unfold fillResponse
  repeat' first
    | with_reducible assumption
    | (extract_lets +onlyGivenNames x; clear_value x)
    | (with_reducible refine memOk_mk ?_; with_reducible refine memOk_to ?_)

theorem resendCopies_memOk : ∀ x0 x1 x2 x3, State.MemOk x3 → State.MemOk (resendCopies x0 x1 x2 x3) := by
  intro x0 x1 x2 x3 h0
  unfold resendCopies
  repeat' first
    | with_reducible assumption
    | with_reducible intro _
    | with_reducible apply sendReply_memOk
    | with_reducible apply count64_memOk
    | (with_reducible apply memOk_foldl; intro _ _ _)

theorem answerFrame_memOk : ∀ x0 x1 x2, State.MemOk x0 → State.MemOk (answerFrame x0 x1 x2) := by
  intro x0 x1 x2 h0
  unfold answerFrame
  repeat' first
    | with_reducible assumption
    | with_reducible intro _
    | (extract_lets +onlyGivenNames x; with_reducible refine memOk_cut x ?_ ?_ <;> [(dsimp only [x]; clear x); (clear_value x; intro _)])
    | (extract_lets +onlyGivenNames x; clear_value x)
    | with_reducible apply hf
    | with_reducible apply setSession_memOk
    | with_reducible apply resendCopies_memOk
    | with_reducible apply sendReply_memOk
    | split

theorem answerAll_memOk : ∀ x0, State.MemOk x0 → State.MemOk (answerAll x0) := by
  intro x0 h0
  unfold answerAll
  repeat' first
    | with_reducible assumption
    | with_reducible apply answerFrame_memOk
    | (with_reducible apply memOk_foldl; intro _ _ _)

end Sys2Proof.Machine
end

