-- ==== Sys2Proof/Laws/KeepsSecurity.lean ====
section
/-! SUPPORT. The operations of Machine/Security.lean keep every memory in canonical form: one lemma for each. -/

namespace Sys2Proof.Machine

theorem refreshFuses_memOk : ∀ x0, State.MemOk x0 → State.MemOk (refreshFuses x0) := by
  intro x0 h0
  unfold refreshFuses
  repeat' first
    | with_reducible assumption
    | (extract_lets +onlyGivenNames x; refine memOk_cut x ?_ ?_ <;> [(dsimp only [x]; clear x); (clear_value x; intro _)])
    | with_reducible apply setN_memOk

theorem setSec_memOk : ∀ x0 x1, State.MemOk x0 → State.MemOk (setSec x0 x1) := by
  intro x0 x1 h0
  unfold setSec
  repeat' first
    | with_reducible assumption
    | with_reducible apply refreshFuses_memOk
    | (with_reducible refine memOk_mk ?_; with_reducible refine memOk_to ?_)

theorem setBank_memOk : ∀ x0 x1 x2 x3, State.MemOk x0 → State.MemOk (setBank x0 x1 x2 x3) := by
  intro x0 x1 x2 x3 h0
  unfold setBank
  repeat' first
    | with_reducible assumption
    | (extract_lets +onlyGivenNames x; clear_value x)
    | with_reducible apply setSec_memOk

theorem runBank_memOk : ∀ x0 x1 x2, State.MemOk x0 → State.MemOk (runBank x0 x1 x2) := by
  intro x0 x1 x2 h0
  unfold runBank
  repeat' first
    | with_reducible assumption
    | (extract_lets +onlyGivenNames x; refine memOk_cut x ?_ ?_ <;> [(dsimp only [x]; clear x); (clear_value x; intro _)])
    | (extract_lets +onlyGivenNames x; clear_value x)
    | with_reducible apply raise_memOk
    | with_reducible apply setN_memOk
    | with_reducible apply setDom_memOk
    | split

theorem stageEffect_memOk : ∀ x0 x1, State.MemOk x0 → State.MemOk (stageEffect x0 x1) := by
  intro x0 x1 h0
  unfold stageEffect
  repeat' first
    | with_reducible assumption
    | (extract_lets +onlyGivenNames x; refine memOk_cut x ?_ ?_ <;> [(dsimp only [x]; clear x); (clear_value x; intro _)])
    | (extract_lets +onlyGivenNames x; clear_value x)
    | with_reducible apply setN_memOk
    | with_reducible apply setDom_memOk
    | with_reducible apply setSec_memOk
    | with_reducible apply setBank_memOk
    | split

theorem stagingEnd_memOk : ∀ x0 x1 x2, State.MemOk x0 → State.MemOk (stagingEnd x0 x1 x2) := by
  intro x0 x1 x2 h0
  unfold stagingEnd
  repeat' first
    | with_reducible assumption
    | (extract_lets +onlyGivenNames x; refine memOk_cut x ?_ ?_ <;> [(dsimp only [x]; clear x); (clear_value x; intro _)])
    | with_reducible apply setN_memOk
    | with_reducible apply setSec_memOk

theorem stageFinish_memOk : ∀ x0 x1, State.MemOk x0 → State.MemOk (stageFinish x0 x1) := by
  intro x0 x1 h0
  unfold stageFinish
  repeat' first
    | with_reducible assumption
    | (extract_lets +onlyGivenNames x; refine memOk_cut x ?_ ?_ <;> [(dsimp only [x]; clear x); (clear_value x; intro _)])
    | (extract_lets +onlyGivenNames x; clear_value x)
    | with_reducible apply setBank_memOk
    | with_reducible apply raise_memOk
    | with_reducible apply stagingEnd_memOk
    | with_reducible apply setSec_memOk
    | with_reducible apply setN_memOk
    | split

theorem execFwStageRequest_memOk : ∀ x0 x1 x2, State.MemOk x2 → OutOk (execFwStageRequest x0 x1 x2) := by
  intro x0 x1 x2 h0
  unfold execFwStageRequest
  repeat' first
    | with_reducible assumption
    | with_reducible intro _
    | with_reducible apply stageFinish_memOk
    | with_reducible apply ownWriteDom_memOk
    | with_reducible apply stageEffect_memOk
    | with_reducible apply outOk_next
    | split

theorem advanceEffect_memOk : ∀ x0 x1, State.MemOk x0 → State.MemOk (advanceEffect x0 x1) := by
  intro x0 x1 h0
  unfold advanceEffect
  repeat' first
    | with_reducible assumption
    | (extract_lets +onlyGivenNames x; refine memOk_cut x ?_ ?_ <;> [(dsimp only [x]; clear x); (clear_value x; intro _)])
    | with_reducible apply setSec_memOk
    | with_reducible apply raise_memOk
    | with_reducible apply journalOpen_memOk

theorem execRollbackAdvance_memOk : ∀ x0 x1, State.MemOk x1 → OutOk (execRollbackAdvance x0 x1) := by
  intro x0 x1 h0
  unfold execRollbackAdvance
  repeat' first
    | with_reducible assumption
    | with_reducible intro _
    | with_reducible apply ownWrite_memOk
    | with_reducible apply advanceEffect_memOk
    | with_reducible apply outOk_next

theorem nextLeaf_memOk : ∀ x0, State.MemOk x0 → State.MemOk (nextLeaf x0) := by
  intro x0 h0
  unfold nextLeaf
  repeat' first
    | with_reducible assumption
    | (extract_lets +onlyGivenNames x; refine memOk_cut x ?_ ?_ <;> [(dsimp only [x]; clear x); (clear_value x; intro _)])
    | with_reducible apply setSec_memOk
    | with_reducible apply setN_memOk
    | split

theorem quoteEffect_memOk : ∀ x0 x1, State.MemOk x0 → State.MemOk (quoteEffect x0 x1) := by
  intro x0 x1 h0
  unfold quoteEffect
  repeat' first
    | with_reducible assumption
    | (extract_lets +onlyGivenNames x; refine memOk_cut x ?_ ?_ <;> [(dsimp only [x]; clear x); (clear_value x; intro _)])
    | (extract_lets +onlyGivenNames x; clear_value x)
    | with_reducible apply nextLeaf_memOk
    | with_reducible apply count64_memOk
    | with_reducible apply setN_memOk
    | with_reducible apply setSec_memOk
    | with_reducible apply setDom_memOk

theorem execQuoteNonce_memOk : ∀ x0 x1 x2, State.MemOk x2 → OutOk (execQuoteNonce x0 x1 x2) := by
  intro x0 x1 x2 h0
  unfold execQuoteNonce
  repeat' first
    | with_reducible assumption
    | with_reducible intro _
    | with_reducible apply ownWriteDom_memOk
    | with_reducible apply quoteEffect_memOk
    | with_reducible apply outOk_next

theorem execBottomTreeGenerated_memOk : ∀ x0, State.MemOk x0 → OutOk (execBottomTreeGenerated x0) := by
  intro x0 h0
  unfold execBottomTreeGenerated
  repeat' first
    | with_reducible assumption
    | with_reducible apply setN_memOk
    | with_reducible apply setSec_memOk
    | with_reducible apply outOk_next
    | split

theorem secretEffect_memOk : ∀ x0 x1 x2, State.MemOk x1 → State.MemOk (secretEffect x0 x1 x2) := by
  intro x0 x1 x2 h0
  unfold secretEffect
  repeat' first
    | with_reducible assumption
    | (extract_lets +onlyGivenNames x; clear_value x)
    | (with_reducible refine memOk_mk ?_; with_reducible refine memOk_to ?_)

theorem settleSecrets_memOk : ∀ x0, State.MemOk x0 → State.MemOk (settleSecrets x0) := by
  intro x0 h0
  unfold settleSecrets
  repeat' first
    | with_reducible assumption
    | (extract_lets +onlyGivenNames x; refine memOk_cut x ?_ ?_ <;> [(dsimp only [x]; clear x); (clear_value x; intro _)])
    | (extract_lets +onlyGivenNames x; clear_value x)
    | with_reducible apply setSec_memOk
    | with_reducible apply closeRole_memOk
    | with_reducible apply raise_memOk
    | (with_reducible apply memOk_foldl; intro _ _ _)
    | (with_reducible refine memOk_mk ?_; with_reducible refine memOk_to ?_)

theorem execRoleSecret_memOk : ∀ x0 x1 x2, State.MemOk x2 → OutOk (execRoleSecret x0 x1 x2) := by
  intro x0 x1 x2 h0
  unfold execRoleSecret
  repeat' first
    | with_reducible assumption
    | with_reducible intro _
    | with_reducible apply settleSecrets_memOk
    | with_reducible apply ownWriteDom_memOk
    | with_reducible apply secretEffect_memOk
    | with_reducible apply outOk_next

theorem tokenEffect_memOk : ∀ x0 x1, State.MemOk x0 → State.MemOk (tokenEffect x0 x1) := by
  intro x0 x1 h0
  unfold tokenEffect
  repeat' first
    | with_reducible assumption
    | (extract_lets +onlyGivenNames x; refine memOk_cut x ?_ ?_ <;> [(dsimp only [x]; clear x); (clear_value x; intro _)])
    | (extract_lets +onlyGivenNames x; refine sndOk_cut x ?_ ?_ <;> [(dsimp only [x]; clear x); (clear_value x; intro _)])
    | with_reducible apply raise_memOk
    | with_reducible apply setSec_memOk
    | with_reducible apply drawFree_memOk
    | with_reducible apply logEventAs_memOk

theorem tokenWritten_memOk : ∀ x0, State.MemOk x0 → State.MemOk (tokenWritten x0) := by
  intro x0 h0
  unfold tokenWritten
  repeat' first
    | with_reducible assumption
    | with_reducible intro _
    | with_reducible apply touch_memOk
    | split
    | with_reducible refine fst_state_eq (by with_reducible assumption) ?_
    | with_reducible refine snd_state_eq (by with_reducible assumption) ?_
    | with_reducible refine snd_core_eq (by with_reducible assumption) ?_
    | (with_reducible refine memOk_mk ?_; with_reducible refine memOk_to ?_)

theorem execDebugToken_memOk : ∀ x0 x1, State.MemOk x1 → OutOk (execDebugToken x0 x1) := by
  intro x0 x1 h0
  unfold execDebugToken
  repeat' first
    | with_reducible assumption
    | with_reducible intro _
    | (extract_lets +onlyGivenNames x; with_reducible refine memOk_cut x ?_ ?_ <;> [(dsimp only [x]; clear x); (clear_value x; intro _)])
    | (extract_lets +onlyGivenNames x; clear_value x)
    | with_reducible apply hf
    | with_reducible apply ownWriteDom_memOk
    | with_reducible apply tokenEffect_memOk
    | with_reducible apply tokenWritten_memOk
    | with_reducible apply outOk_next
    | split

theorem execJtagProvision_memOk : ∀ x0 x1 x2, State.MemOk x2 → OutOk (execJtagProvision x0 x1 x2) := by
  intro x0 x1 x2 h0
  unfold execJtagProvision
  repeat' first
    | with_reducible assumption
    | with_reducible apply setSec_memOk
    | with_reducible apply setN_memOk
    | with_reducible apply outOk_next
    | split

theorem execLock_memOk : ∀ x0, State.MemOk x0 → OutOk (execLock x0) := by
  intro x0 h0
  unfold execLock
  repeat' first
    | with_reducible assumption
    | with_reducible apply setSec_memOk
    | with_reducible apply outOk_next
    | split

theorem execIdcode_memOk : ∀ x0, State.MemOk x0 → OutOk (execIdcode x0) := by
  intro x0 h0
  unfold execIdcode
  repeat' first
    | with_reducible assumption
    | with_reducible apply emit_memOk
    | with_reducible apply outOk_next
    | split

theorem execBypass_memOk : ∀ x0 x1, State.MemOk x1 → OutOk (execBypass x0 x1) := by
  intro x0 x1 h0
  unfold execBypass
  repeat' first
    | with_reducible assumption
    | (extract_lets +onlyGivenNames x; refine memOk_cut x ?_ ?_ <;> [(dsimp only [x]; clear x); (clear_value x; intro _)])
    | (extract_lets +onlyGivenNames x; clear_value x)
    | with_reducible apply emit_memOk
    | with_reducible apply outOk_next
    | split
    | (with_reducible refine memOk_mk ?_; with_reducible refine memOk_to ?_)

theorem setCvu_memOk : ∀ x0 x1 x2, State.MemOk x0 → State.MemOk (setCvu x0 x1 x2) := by
  intro x0 x1 x2 h0
  unfold setCvu
  repeat' first
    | with_reducible assumption
    | (with_reducible refine memOk_mk ?_; with_reducible refine memOk_to ?_)

theorem orderError_memOk : ∀ x0, State.MemOk x0 → State.MemOk (orderError x0) := by
  intro x0 h0
  unfold orderError
  repeat' first
    | with_reducible assumption
    | with_reducible apply raise_memOk
    | with_reducible apply count64_memOk

theorem cvuWrite_memOk : ∀ x0 x1 x2, State.MemOk x0 → State.MemOk (cvuWrite x0 x1 x2) := by
  intro x0 x1 x2 h0
  unfold cvuWrite
  repeat' first
    | with_reducible assumption
    | with_reducible apply setCvu_memOk
    | with_reducible apply orderError_memOk
    | split

theorem execCvuStart_memOk : ∀ x0 x1, State.MemOk x1 → OutOk (execCvuStart x0 x1) := by
  intro x0 x1 h0
  unfold execCvuStart
  repeat' first
    | with_reducible assumption
    | with_reducible intro _
    | with_reducible apply setCvu_memOk
    | with_reducible apply outOk_next
    | split

theorem execCvuFinalise_memOk : ∀ x0 x1, State.MemOk x1 → OutOk (execCvuFinalise x0 x1) := by
  intro x0 x1 h0
  unfold execCvuFinalise
  repeat' first
    | with_reducible assumption
    | with_reducible apply setCvu_memOk
    | with_reducible apply orderError_memOk
    | with_reducible apply outOk_next
    | split

theorem execData8_memOk : ∀ x0 x1 x2, State.MemOk x2 → OutOk (execData8 x0 x1 x2) := by
  intro x0 x1 x2 h0
  unfold execData8
  repeat' first
    | with_reducible assumption
    | with_reducible apply cvuWrite_memOk
    | with_reducible apply outOk_next

theorem execData16_memOk : ∀ x0 x1 x2, State.MemOk x2 → OutOk (execData16 x0 x1 x2) := by
  intro x0 x1 x2 h0
  unfold execData16
  repeat' first
    | with_reducible assumption
    | with_reducible apply cvuWrite_memOk
    | with_reducible apply outOk_next

theorem execData32_memOk : ∀ x0 x1 x2, State.MemOk x2 → OutOk (execData32 x0 x1 x2) := by
  intro x0 x1 x2 h0
  unfold execData32
  repeat' first
    | with_reducible assumption
    | with_reducible apply cvuWrite_memOk
    | with_reducible apply outOk_next

theorem execValue_memOk : ∀ x0 x1 x2, State.MemOk x2 → OutOk (execValue x0 x1 x2) := by
  intro x0 x1 x2 h0
  unfold execValue
  repeat' first
    | with_reducible assumption
    | with_reducible intro _
    | with_reducible apply setCvu_memOk
    | with_reducible apply outOk_next
    | split

theorem cvuReset_memOk : ∀ x0 x1, State.MemOk x0 → State.MemOk (cvuReset x0 x1) := by
  intro x0 x1 h0
  unfold cvuReset
  repeat' first
    | with_reducible assumption
    | (with_reducible refine memOk_mk ?_; with_reducible refine memOk_to ?_)

theorem missHeartbeat_memOk : ∀ x0 x1, State.MemOk x0 → State.MemOk (missHeartbeat x0 x1) := by
  intro x0 x1 h0
  unfold missHeartbeat
  repeat' first
    | with_reducible assumption
    | (extract_lets +onlyGivenNames x; clear_value x)
    | split
    | (with_reducible refine memOk_mk ?_; with_reducible refine memOk_to ?_)

theorem execMgmtHeartbeat_memOk : ∀ x0 x1 x2, State.MemOk x2 → OutOk (execMgmtHeartbeat x0 x1 x2) := by
  intro x0 x1 x2 h0
  unfold execMgmtHeartbeat
  repeat' first
    | with_reducible assumption
    | (extract_lets +onlyGivenNames x; refine memOk_cut x ?_ ?_ <;> [(dsimp only [x]; clear x); (clear_value x; intro _)])
    | (extract_lets +onlyGivenNames x; clear_value x)
    | with_reducible apply setCvu_memOk
    | with_reducible apply missHeartbeat_memOk
    | with_reducible apply outOk_next
    | split
    | (with_reducible refine memOk_mk ?_; with_reducible refine memOk_to ?_)

end Sys2Proof.Machine
end

