-- ==== Sys2Proof/Laws/KeepsBringup.lean ====
section
/-! SUPPORT. The operations of Machine/Bringup.lean keep every memory in canonical form: one lemma for each. -/

namespace Sys2Proof.Machine

theorem reset_memOk : State.reset.MemOk := ⟨fun _ h => absurd h (List.not_mem_nil), rfl⟩

theorem restartState_memOk (s : State) (warm : Bool) (phase : Nat) (h : s.MemOk) : (restartState s warm phase).MemOk := by
  refine memOk_mk ⟨fun _ hm => absurd hm (List.not_mem_nil), ?_⟩
  cases warm
  · rfl
  · exact (memOk_to h).2

theorem restart_memOk : ∀ x0 x1 x2, State.MemOk x0 → State.MemOk (restart x0 x1 x2) := by
  intro x0 x1 x2 h0
  unfold restart
  repeat' first
    | with_reducible assumption
    | (extract_lets +onlyGivenNames x; refine memOk_cut x ?_ ?_ <;> [(dsimp only [x]; clear x); (clear_value x; intro _)])
    | with_reducible apply setN_memOk
    | with_reducible apply restartState_memOk
    | with_reducible apply refreshFuses_memOk
    | (with_reducible apply memOk_foldl; intro _ _ _)
    | split

theorem settleReset_memOk : ∀ x0, State.MemOk x0 → State.MemOk (settleReset x0) := by
  intro x0 h0
  unfold settleReset
  repeat' first
    | with_reducible assumption
    | with_reducible apply restart_memOk
    | split

theorem resetEffect_memOk : ∀ x0 x1, State.MemOk x0 → State.MemOk (resetEffect x0 x1) := by
  intro x0 x1 h0
  unfold resetEffect
  repeat' first
    | with_reducible assumption
    | (extract_lets +onlyGivenNames x; clear_value x)
    | (with_reducible refine memOk_mk ?_; with_reducible refine memOk_to ?_)

theorem execResetRequest_memOk : ∀ x0 x1, State.MemOk x1 → OutOk (execResetRequest x0 x1) := by
  intro x0 x1 h0
  unfold execResetRequest
  repeat' first
    | with_reducible assumption
    | with_reducible intro _
    | with_reducible apply settleReset_memOk
    | with_reducible apply ownWrite_memOk
    | with_reducible apply resetEffect_memOk
    | with_reducible apply outOk_next

theorem execResetNLow_memOk : ∀ x0, State.MemOk x0 → OutOk (execResetNLow x0) := by
  intro x0 h0
  unfold execResetNLow
  repeat' first
    | with_reducible assumption
    | (extract_lets +onlyGivenNames x; refine memOk_cut x ?_ ?_ <;> [(dsimp only [x]; clear x); (clear_value x; intro _)])
    | (extract_lets +onlyGivenNames x; clear_value x)
    | with_reducible apply restart_memOk
    | with_reducible apply outOk_next
    | split
    | (with_reducible refine memOk_mk ?_; with_reducible refine memOk_to ?_)

theorem execResetNRise_memOk : ∀ x0 x1, State.MemOk x1 → OutOk (execResetNRise x0 x1) := by
  intro x0 x1 h0
  unfold execResetNRise
  repeat' first
    | with_reducible assumption
    | with_reducible apply restart_memOk
    | with_reducible apply outOk_next
    | split

theorem execPowerFail_memOk : ∀ x0, State.MemOk x0 → OutOk (execPowerFail x0) := by
  intro x0 h0
  unfold execPowerFail
  repeat' first
    | with_reducible assumption
    | (extract_lets +onlyGivenNames x; refine memOk_cut x ?_ ?_ <;> [(dsimp only [x]; clear x); (clear_value x; intro _)])
    | (extract_lets +onlyGivenNames x; clear_value x)
    | with_reducible apply logEvent_memOk
    | with_reducible apply journal_memOk
    | with_reducible apply restart_memOk
    | with_reducible apply outOk_next
    | split
    | (with_reducible refine memOk_mk ?_; with_reducible refine memOk_to ?_)

theorem execHoldUpRunOut_memOk : ∀ x0, State.MemOk x0 → OutOk (execHoldUpRunOut x0) := by
  intro x0 h0
  unfold execHoldUpRunOut
  repeat' first
    | with_reducible assumption
    | (extract_lets +onlyGivenNames x; clear_value x)
    | with_reducible apply outOk_next
    | split
    | (with_reducible refine memOk_mk ?_; with_reducible refine memOk_to ?_)

theorem execInputRise_memOk : ∀ x0, State.MemOk x0 → OutOk (execInputRise x0) := by
  intro x0 h0
  unfold execInputRise
  repeat' first
    | with_reducible assumption
    | (extract_lets +onlyGivenNames x; clear_value x)
    | with_reducible apply restart_memOk
    | with_reducible apply outOk_next
    | split
    | (with_reducible refine memOk_mk ?_; with_reducible refine memOk_to ?_)

theorem writeHeartbeat_memOk : ∀ x0 x1 x2 x3, State.MemOk x0 → State.MemOk (writeHeartbeat x0 x1 x2 x3) := by
  intro x0 x1 x2 x3 h0
  unfold writeHeartbeat
  repeat' first
    | with_reducible assumption
    | with_reducible apply setDom_memOk

theorem notePhase_memOk : ∀ x0 x1, State.MemOk x0 → State.MemOk (notePhase x0 x1) := by
  intro x0 x1 h0
  unfold notePhase
  repeat' first
    | with_reducible assumption
    | (extract_lets +onlyGivenNames x; refine sndOk_cut x ?_ ?_ <;> [(dsimp only [x]; clear x); (clear_value x; intro _)])
    | with_reducible apply drawFree_memOk
    | with_reducible apply setDom_memOk

theorem loadMap_memOk : ∀ x0, State.MemOk x0 → State.MemOk (loadMap x0) := by
  intro x0 h0
  unfold loadMap
  repeat' first
    | with_reducible assumption
    | (extract_lets +onlyGivenNames x; refine memOk_cut x ?_ ?_ <;> [(dsimp only [x]; clear x); (clear_value x; intro _)])
    | (extract_lets +onlyGivenNames x; clear_value x)
    | with_reducible apply logEvent_memOk
    | with_reducible apply raiseNow_memOk
    | split
    | (with_reducible refine memOk_mk ?_; with_reducible refine memOk_to ?_)

theorem mcSelfTest_memOk : ∀ x0 x1, State.MemOk x0 → State.MemOk (mcSelfTest x0 x1) := by
  intro x0 x1 h0
  unfold mcSelfTest
  repeat' first
    | with_reducible assumption
    | (extract_lets +onlyGivenNames x; refine memOk_cut x ?_ ?_ <;> [(dsimp only [x]; clear x); (clear_value x; intro _)])
    | (extract_lets +onlyGivenNames x; clear_value x)
    | with_reducible apply setN_memOk
    | with_reducible apply raise_memOk
    | split

theorem readLogbook_memOk : ∀ x0 x1, State.MemOk x0 → State.MemOk (readLogbook x0 x1) := by
  intro x0 x1 h0
  unfold readLogbook
  repeat' first
    | with_reducible assumption
    | (extract_lets +onlyGivenNames x; refine memOk_cut x ?_ ?_ <;> [(dsimp only [x]; clear x); (clear_value x; intro _)])
    | (extract_lets +onlyGivenNames x; clear_value x)
    | with_reducible apply loadMap_memOk
    | with_reducible apply setN_memOk
    | with_reducible apply logEvent_memOk
    | with_reducible apply raise_memOk
    | split
    | (with_reducible refine memOk_mk ?_; with_reducible refine memOk_to ?_)

theorem openEpoch_memOk : ∀ x0, State.MemOk x0 → State.MemOk (openEpoch x0) := by
  intro x0 h0
  unfold openEpoch
  repeat' first
    | with_reducible assumption
    | (extract_lets +onlyGivenNames x; refine memOk_cut x ?_ ?_ <;> [(dsimp only [x]; clear x); (clear_value x; intro _)])
    | (extract_lets +onlyGivenNames x; clear_value x)
    | with_reducible apply setN_memOk
    | with_reducible apply journal_memOk
    | with_reducible apply addN_memOk
    | with_reducible apply logEvent_memOk
    | (with_reducible refine memOk_mk ?_; with_reducible refine memOk_to ?_)

theorem heartbeatUnits_memOk : ∀ x0, State.MemOk x0 → State.MemOk (heartbeatUnits x0) := by
  intro x0 h0
  unfold heartbeatUnits
  repeat' first
    | with_reducible assumption
    | (extract_lets +onlyGivenNames x; clear_value x)
    | with_reducible apply setCvu_memOk
    | (with_reducible apply memOk_foldl; intro _ _ _)

theorem trainEndpoint_memOk : ∀ x0 x1, State.MemOk x0 → State.MemOk (trainEndpoint x0 x1) := by
  intro x0 x1 h0
  unfold trainEndpoint
  repeat' first
    | with_reducible assumption
    | (extract_lets +onlyGivenNames x; clear_value x)
    | with_reducible apply setN_memOk
    | split
    | (with_reducible refine memOk_mk ?_; with_reducible refine memOk_to ?_)

theorem takeAddress_memOk : ∀ x0, State.MemOk x0 → State.MemOk (takeAddress x0) := by
  intro x0 h0
  unfold takeAddress
  repeat' first
    | with_reducible assumption
    | (extract_lets +onlyGivenNames x; clear_value x)
    | (with_reducible refine memOk_mk ?_; with_reducible refine memOk_to ?_)

theorem manage_memOk : ∀ x0 x1 x2 x3, State.MemOk x0 → State.MemOk (manage x0 x1 x2 x3) := by
  intro x0 x1 x2 x3 h0
  unfold manage
  repeat' first
    | with_reducible assumption
    | (extract_lets +onlyGivenNames x; refine memOk_cut x ?_ ?_ <;> [(dsimp only [x]; clear x); (clear_value x; intro _)])
    | (extract_lets +onlyGivenNames x; clear_value x)
    | with_reducible apply setN_memOk
    | with_reducible apply openEpoch_memOk
    | with_reducible apply runBank_memOk
    | with_reducible apply endJob_memOk
    | with_reducible apply trainEndpoint_memOk
    | with_reducible apply heartbeatUnits_memOk
    | with_reducible apply notePhase_memOk
    | (with_reducible apply memOk_foldl; intro _ _ _)
    | (with_reducible refine memOk_mk ?_; with_reducible refine memOk_to ?_)

theorem execManagement_memOk : ∀ x0 x1, State.MemOk x1 → OutOk (execManagement x0 x1) := by
  intro x0 x1 h0
  unfold execManagement
  repeat' first
    | with_reducible assumption
    | (extract_lets +onlyGivenNames x; refine memOk_cut x ?_ ?_ <;> [(dsimp only [x]; clear x); (clear_value x; intro _)])
    | (extract_lets +onlyGivenNames x; clear_value x)
    | with_reducible apply takeAddress_memOk
    | with_reducible apply mcSelfTest_memOk
    | with_reducible apply trainEndpoint_memOk
    | with_reducible apply readLogbook_memOk
    | with_reducible apply manage_memOk
    | with_reducible apply outOk_next
    | split
    | (with_reducible refine memOk_mk ?_; with_reducible refine memOk_to ?_)

theorem startClocks_memOk : ∀ x0, State.MemOk x0 → State.MemOk (startClocks x0) := by
  intro x0 h0
  unfold startClocks
  repeat' first
    | with_reducible assumption
    | (extract_lets +onlyGivenNames x; refine memOk_cut x ?_ ?_ <;> [(dsimp only [x]; clear x); (clear_value x; intro _)])
    | (extract_lets +onlyGivenNames x; clear_value x)
    | with_reducible apply setN_memOk
    | with_reducible apply applyClock_memOk

theorem powerFields_memOk : ∀ x0 x1, State.MemOk x0 → State.MemOk (powerFields x0 x1) := by
  intro x0 x1 h0
  unfold powerFields
  repeat' first
    | with_reducible assumption
    | (extract_lets +onlyGivenNames x; refine memOk_cut x ?_ ?_ <;> [(dsimp only [x]; clear x); (clear_value x; intro _)])
    | (extract_lets +onlyGivenNames x; clear_value x)
    | with_reducible apply raise_memOk
    | with_reducible apply setN_memOk
    | with_reducible apply setFieldPower_memOk
    | (with_reducible apply memOk_foldl; intro _ _ _)
    | split
    | (with_reducible refine memOk_mk ?_; with_reducible refine memOk_to ?_)

theorem setGrid_memOk : ∀ x0 x1 x2, State.MemOk x0 → State.MemOk (setGrid x0 x1 x2) := by
  intro x0 x1 x2 h0
  unfold setGrid
  repeat' first
    | with_reducible assumption
    | with_reducible intro _
    | (extract_lets +onlyGivenNames x; with_reducible refine memOk_cut x ?_ ?_ <;> [(dsimp only [x]; clear x); (clear_value x; intro _)])
    | (extract_lets +onlyGivenNames x; clear_value x)
    | with_reducible apply hf
    | with_reducible apply setN_memOk

theorem fixGrid_memOk : ∀ x0 x1, State.MemOk x0 → State.MemOk (fixGrid x0 x1) := by
  intro x0 x1 h0
  unfold fixGrid
  repeat' first
    | with_reducible assumption
    | (extract_lets +onlyGivenNames x; refine memOk_cut x ?_ ?_ <;> [(dsimp only [x]; clear x); (clear_value x; intro _)])
    | (extract_lets +onlyGivenNames x; clear_value x)
    | with_reducible apply setGrid_memOk
    | with_reducible apply updateMap_memOk
    | with_reducible apply logEvent_memOk
    | with_reducible apply raiseNow_memOk
    | (with_reducible apply memOk_foldl; intro _ _ _)
    | split
    | (with_reducible refine memOk_mk ?_; with_reducible refine memOk_to ?_)

theorem stacksTesting_memOk : ∀ x0, State.MemOk x0 → State.MemOk (stacksTesting x0) := by
  intro x0 h0
  unfold stacksTesting
  repeat' first
    | with_reducible assumption
    | with_reducible apply setN_memOk
    | (with_reducible apply memOk_foldl; intro _ _ _)
    | split

theorem startGrid_memOk : ∀ x0 x1, State.MemOk x0 → State.MemOk (startGrid x0 x1) := by
  intro x0 x1 h0
  unfold startGrid
  repeat' first
    | with_reducible assumption
    | (extract_lets +onlyGivenNames x; refine memOk_cut x ?_ ?_ <;> [(dsimp only [x]; clear x); (clear_value x; intro _)])
    | (extract_lets +onlyGivenNames x; clear_value x)
    | with_reducible apply setN_memOk
    | with_reducible apply writeHeartbeat_memOk
    | with_reducible apply raise_memOk
    | with_reducible apply fixGrid_memOk
    | with_reducible apply runBank_memOk
    | with_reducible apply stacksTesting_memOk
    | with_reducible apply notePhase_memOk
    | split
    | (with_reducible refine memOk_mk ?_; with_reducible refine memOk_to ?_)

theorem execClocksNetwork_memOk : ∀ x0 x1, State.MemOk x1 → OutOk (execClocksNetwork x0 x1) := by
  intro x0 x1 h0
  unfold execClocksNetwork
  repeat' first
    | with_reducible assumption
    | (extract_lets +onlyGivenNames x; refine memOk_cut x ?_ ?_ <;> [(dsimp only [x]; clear x); (clear_value x; intro _)])
    | with_reducible apply startClocks_memOk
    | with_reducible apply raise_memOk
    | with_reducible apply startGrid_memOk
    | with_reducible apply powerFields_memOk
    | with_reducible apply runBank_memOk
    | with_reducible apply outOk_next
    | split

theorem execMicrocodeMismatch_memOk : ∀ x0 x1, State.MemOk x1 → OutOk (execMicrocodeMismatch x0 x1) := by
  intro x0 x1 h0
  unfold execMicrocodeMismatch
  repeat' first
    | with_reducible assumption
    | (extract_lets +onlyGivenNames x; refine memOk_cut x ?_ ?_ <;> [(dsimp only [x]; clear x); (clear_value x; intro _)])
    | (extract_lets +onlyGivenNames x; clear_value x)
    | with_reducible apply addN_memOk
    | with_reducible apply outOk_next
    | split
    | (with_reducible refine memOk_mk ?_; with_reducible refine memOk_to ?_)

theorem crescentSelfTest_memOk : ∀ x0 x1, State.MemOk x0 → State.MemOk (crescentSelfTest x0 x1) := by
  intro x0 x1 h0
  unfold crescentSelfTest
  repeat' first
    | with_reducible assumption
    | (extract_lets +onlyGivenNames x; refine memOk_cut x ?_ ?_ <;> [(dsimp only [x]; clear x); (clear_value x; intro _)])
    | (extract_lets +onlyGivenNames x; clear_value x)
    | with_reducible apply setN_memOk
    | with_reducible apply raise_memOk
    | split

theorem bringStack_memOk : ∀ x0 x1 x2, State.MemOk x1 → State.MemOk (bringStack x0 x1 x2) := by
  intro x0 x1 x2 h0
  unfold bringStack
  repeat' first
    | with_reducible assumption
    | (extract_lets +onlyGivenNames x; refine memOk_cut x ?_ ?_ <;> [(dsimp only [x]; clear x); (clear_value x; intro _)])
    | with_reducible apply setN_memOk
    | with_reducible apply logEvent_memOk
    | with_reducible apply raise_memOk
    | split

theorem memoryTest_memOk : ∀ x0 x1, State.MemOk x0 → State.MemOk (memoryTest x0 x1) := by
  intro x0 x1 h0
  unfold memoryTest
  repeat' first
    | with_reducible assumption
    | (extract_lets +onlyGivenNames x; refine memOk_cut x ?_ ?_ <;> [(dsimp only [x]; clear x); (clear_value x; intro _)])
    | (extract_lets +onlyGivenNames x; clear_value x)
    | with_reducible apply retireFrame_memOk
    | with_reducible apply setN_memOk
    | (with_reducible apply memOk_foldl; intro _ _ _)
    | (with_reducible refine memOk_mk ?_; with_reducible refine memOk_to ?_)

theorem zeroStacks_memOk (s : State) (h : s.MemOk) : (zeroStacks s).MemOk := by
  refine memOk_mk ⟨(memOk_to h).1, ?_⟩
  show Memory.wf (if s.mgmt.startKind = 1 then s.stk.mem else []) = true
  split
  · exact (memOk_to h).2
  · rfl

theorem execMemories_memOk : ∀ x0 x1, State.MemOk x1 → OutOk (execMemories x0 x1) := by
  intro x0 x1 h0
  unfold execMemories
  repeat' first
    | with_reducible assumption
    | (extract_lets +onlyGivenNames x; refine memOk_cut x ?_ ?_ <;> [(dsimp only [x]; clear x); (clear_value x; intro _)])
    | with_reducible apply raise_memOk
    | with_reducible apply crescentSelfTest_memOk
    | with_reducible apply runBank_memOk
    | with_reducible apply bringStack_memOk
    | with_reducible apply zeroStacks_memOk
    | with_reducible apply memoryTest_memOk
    | with_reducible apply setN_memOk
    | with_reducible apply notePhase_memOk
    | (with_reducible apply memOk_foldl; intro _ _ _)
    | with_reducible apply outOk_next
    | split

theorem trainFirst_memOk : ∀ x0 x1, State.MemOk x0 → State.MemOk (trainFirst x0 x1) := by
  intro x0 x1 h0
  unfold trainFirst
  repeat' first
    | with_reducible assumption
    | (extract_lets +onlyGivenNames x; refine sndOk_cut x ?_ ?_ <;> [(dsimp only [x]; clear x); (clear_value x; intro _)])
    | with_reducible apply drawFree_memOk
    | with_reducible apply trainPort_memOk

theorem keptGroups_memOk : ∀ x0, State.MemOk x0 → State.MemOk (keptGroups x0) := by
  intro x0 h0
  unfold keptGroups
  repeat' first
    | with_reducible assumption
    | with_reducible intro _
    | with_reducible apply setN_memOk
    | with_reducible apply setDom_memOk
    | split

theorem openPulls_memOk : ∀ x0, State.MemOk x0 → State.MemOk (openPulls x0) := by
  intro x0 h0
  unfold openPulls
  repeat' first
    | with_reducible assumption
    | with_reducible intro _
    | (extract_lets +onlyGivenNames x; clear_value x)
    | with_reducible apply keptGroups_memOk
    | split
    | (with_reducible refine memOk_mk ?_; with_reducible refine memOk_to ?_)

theorem execLinks_memOk : ∀ x0 x1 x2, State.MemOk x2 → OutOk (execLinks x0 x1 x2) := by
  intro x0 x1 x2 h0
  unfold execLinks
  repeat' first
    | with_reducible assumption
    | with_reducible intro _
    | (extract_lets +onlyGivenNames x; with_reducible refine memOk_cut x ?_ ?_ <;> [(dsimp only [x]; clear x); (clear_value x; intro _)])
    | (extract_lets +onlyGivenNames x; clear_value x)
    | with_reducible apply hf
    | with_reducible apply setN_memOk
    | with_reducible apply trainFirst_memOk
    | with_reducible apply refreshDiscovery_memOk
    | with_reducible apply beginDiscovery_memOk
    | with_reducible apply pumpFlows_memOk
    | with_reducible apply openPulls_memOk
    | with_reducible apply notePhase_memOk
    | (with_reducible apply memOk_foldl; intro _ _ _)
    | with_reducible apply outOk_next
    | split

theorem wakeField_memOk : ∀ x0 x1, State.MemOk x0 → State.MemOk (wakeField x0 x1) := by
  intro x0 x1 h0
  unfold wakeField
  repeat' first
    | with_reducible assumption
    | (extract_lets +onlyGivenNames x; refine memOk_cut x ?_ ?_ <;> [(dsimp only [x]; clear x); (clear_value x; intro _)])
    | (extract_lets +onlyGivenNames x; refine sndOk_cut x ?_ ?_ <;> [(dsimp only [x]; clear x); (clear_value x; intro _)])
    | with_reducible apply drawFree_memOk
    | with_reducible apply addN_memOk
    | with_reducible apply raise_memOk
    | with_reducible apply setFieldPower_memOk
    | split

theorem haltCores_memOk (s : State) (h : s.MemOk) : (haltCores s).MemOk := by
  refine ⟨fun e he => ?_, h.2⟩
  obtain ⟨id, _, rfl⟩ := List.mem_map.1 he
  dsimp only
  split <;> rfl

theorem restoreGroup_memOk : ∀ x0 x1 x2 x3, State.MemOk x2 → State.MemOk (restoreGroup x0 x1 x2 x3) := by
  intro x0 x1 x2 x3 h0
  unfold restoreGroup
  repeat' first
    | with_reducible assumption
    | with_reducible intro _
    | (extract_lets +onlyGivenNames x; clear_value x)
    | with_reducible apply setGroup_memOk

theorem redoGroup_memOk : ∀ x0 x1, State.MemOk x0 → State.MemOk (redoGroup x0 x1) := by
  intro x0 x1 h0
  unfold redoGroup
  repeat' first
    | with_reducible assumption
    | with_reducible intro _
    | (extract_lets +onlyGivenNames x; with_reducible refine memOk_cut x ?_ ?_ <;> [(dsimp only [x]; clear x); (clear_value x; intro _)])
    | (extract_lets +onlyGivenNames x; clear_value x)
    | with_reducible apply queuePasses_memOk
    | with_reducible apply queueFast_memOk
    | split
    | (with_reducible refine memOk_mk ?_; with_reducible refine memOk_to ?_)

theorem redoExchange_memOk : ∀ x0 x1, State.MemOk x0 → State.MemOk (redoExchange x0 x1) := by
  intro x0 x1 h0
  unfold redoExchange
  repeat' first
    | with_reducible assumption
    | with_reducible intro _
    | with_reducible apply exchangeGroup_memOk
    | split

theorem resendFingerprint_memOk : ∀ x0, State.MemOk x0 → State.MemOk (resendFingerprint x0) := by
  intro x0 h0
  unfold resendFingerprint
  repeat' first
    | with_reducible assumption
    | with_reducible intro _
    | with_reducible apply sendFingerprint_memOk
    | split

theorem restorePlacement_memOk : ∀ x0 x1, State.MemOk x0 → State.MemOk (restorePlacement x0 x1) := by
  intro x0 x1 h0
  unfold restorePlacement
  repeat' first
    | with_reducible assumption
    | with_reducible intro _
    | (extract_lets +onlyGivenNames x; with_reducible refine memOk_cut x ?_ ?_ <;> [(dsimp only [x]; clear x); (clear_value x; intro _)])
    | (extract_lets +onlyGivenNames x; clear_value x)
    | with_reducible apply hf
    | with_reducible apply installPlacement_memOk
    | with_reducible apply beginJob_memOk
    | with_reducible apply restoreFrom_memOk
    | with_reducible apply restoreGroup_memOk
    | with_reducible apply resendFingerprint_memOk
    | with_reducible apply redoExchange_memOk
    | with_reducible apply refreshUnits_memOk
    | with_reducible apply redoGroup_memOk
    | (with_reducible apply memOk_foldl; intro _ _ _)
    | split
    | (with_reducible refine memOk_mk ?_; with_reducible refine memOk_to ?_)

theorem warmPlacement_memOk : ∀ x0, State.MemOk x0 → State.MemOk (warmPlacement x0) := by
  intro x0 h0
  unfold warmPlacement
  repeat' first
    | with_reducible assumption
    | with_reducible intro _
    | with_reducible apply setN_memOk
    | with_reducible apply setDom_memOk
    | with_reducible apply restorePlacement_memOk
    | split

theorem execCompute_memOk : ∀ x0, State.MemOk x0 → OutOk (execCompute x0) := by
  intro x0 h0
  unfold execCompute
  repeat' first
    | with_reducible assumption
    | (extract_lets +onlyGivenNames x; refine memOk_cut x ?_ ?_ <;> [(dsimp only [x]; clear x); (clear_value x; intro _)])
    | (extract_lets +onlyGivenNames x; clear_value x)
    | with_reducible apply setN_memOk
    | with_reducible apply haltCores_memOk
    | with_reducible apply wakeField_memOk
    | with_reducible apply warmPlacement_memOk
    | with_reducible apply notePhase_memOk
    | (with_reducible apply memOk_foldl; intro _ _ _)
    | with_reducible apply outOk_next
    | split
    | (with_reducible refine memOk_mk ?_; with_reducible refine memOk_to ?_)

theorem execBringupRestart_memOk (field : Nat) (s : State) (h : s.MemOk) : OutOk (execBringupRestart field s) := by
  unfold execBringupRestart
  dsimp only
  split
  · exact outOk_next _ h
  · have h1 := memOk_foldl (fun s f => setN (setN s (Key.regState f) 0) (Key.pwrFieldPowerState f) 0)
      (fun t f ht => setN_memOk _ _ _ (setN_memOk _ _ _ ht)) (List.range 90) s h
    have h2 := memOk_to (setDom_memOk _ Key.fieldsDark (fieldMask (List.range 90)) (setDom_memOk _ Key.fieldsParked (fieldMask []) h1))
    exact outOk_next _ (setN_memOk _ _ _ (memOk_mk ⟨fun _ hm => absurd hm (List.not_mem_nil), h2.2⟩))

theorem execFailover_memOk : ∀ x0, State.MemOk x0 → OutOk (execFailover x0) := by
  intro x0 h0
  unfold execFailover
  repeat' first
    | with_reducible assumption
    | (extract_lets +onlyGivenNames x; refine memOk_cut x ?_ ?_ <;> [(dsimp only [x]; clear x); (clear_value x; intro _)])
    | (extract_lets +onlyGivenNames x; clear_value x)
    | with_reducible apply setN_memOk
    | with_reducible apply logEvent_memOk
    | with_reducible apply raise_memOk
    | with_reducible apply journal_memOk
    | with_reducible apply closeSession_memOk
    | with_reducible apply setBar_memOk
    | (with_reducible apply memOk_foldl; intro _ _ _)
    | with_reducible apply outOk_next
    | split
    | (with_reducible refine memOk_mk ?_; with_reducible refine memOk_to ?_)

theorem parkExcluded_memOk : ∀ x0, State.MemOk x0 → State.MemOk (parkExcluded x0) := by
  intro x0 h0
  unfold parkExcluded
  repeat' first
    | with_reducible assumption
    | with_reducible intro _
    | (extract_lets +onlyGivenNames x; clear_value x)
    | with_reducible apply hf
    | with_reducible apply parkField_memOk
    | (with_reducible apply memOk_foldl; intro _ _ _)

theorem enterRun_memOk : ∀ x0, State.MemOk x0 → State.MemOk (enterRun x0) := by
  intro x0 h0
  unfold enterRun
  repeat' first
    | with_reducible assumption
    | (extract_lets +onlyGivenNames x; refine memOk_cut x ?_ ?_ <;> [(dsimp only [x]; clear x); (clear_value x; intro _)])
    | (extract_lets +onlyGivenNames x; clear_value x)
    | with_reducible apply parkExcluded_memOk
    | with_reducible apply reportTickets_memOk
    | with_reducible apply setN_memOk
    | with_reducible apply resumeAll_memOk
    | with_reducible apply recovered_memOk
    | with_reducible apply logEvent_memOk
    | with_reducible apply journal_memOk
    | split
    | (with_reducible refine memOk_mk ?_; with_reducible refine memOk_to ?_)

theorem leaveRun_memOk : ∀ x0, State.MemOk x0 → State.MemOk (leaveRun x0) := by
  intro x0 h0
  unfold leaveRun
  repeat' first
    | with_reducible assumption
    | (extract_lets +onlyGivenNames x; refine memOk_cut x ?_ ?_ <;> [(dsimp only [x]; clear x); (clear_value x; intro _)])
    | (extract_lets +onlyGivenNames x; clear_value x)
    | with_reducible apply dropHeld_memOk
    | with_reducible apply reportTickets_memOk
    | with_reducible apply suspendAll_memOk
    | with_reducible apply setN_memOk
    | (with_reducible refine memOk_mk ?_; with_reducible refine memOk_to ?_)

end Sys2Proof.Machine
end

