-- ==== Sys2Proof/Laws/KeepsObjRead.lean ====
section
/-! SUPPORT. The operations of Machine/ObjRead.lean keep every memory in canonical form: one lemma for each. -/

namespace Sys2Proof.Machine

theorem syncDerived_memOk : ∀ x0, State.MemOk x0 → State.MemOk (syncDerived x0) := by
  intro x0 h0
  unfold syncDerived
  repeat' first
    | with_reducible assumption
    | with_reducible intro _
    | (extract_lets +onlyGivenNames x; with_reducible refine memOk_cut x ?_ ?_ <;> [(dsimp only [x]; clear x); (clear_value x; intro _)])
    | (extract_lets +onlyGivenNames x; clear_value x)
    | with_reducible apply hf
    | with_reducible apply refreshHeld_memOk
    | with_reducible apply setN_memOk
    | with_reducible apply setDom_memOk
    | (with_reducible apply memOk_foldl; intro _ _ _)

end Sys2Proof.Machine
end

