-- ==== Sys2Proof/Laws/KeepsObjApply.lean ====
section
/-! SUPPORT. The operations of Machine/ObjApply.lean keep every memory in canonical form: one lemma for each. -/

namespace Sys2Proof.Machine

theorem numPair_memOk : ∀ x0 x1, (∀ y00 y01, State.MemOk y00 → State.MemOk ((x1) y00 y01)) → ∀ y00 y01, State.MemOk y00 → State.MemOk (((numPair x0 x1).2) y00 y01) := by
  intro x0 x1 h0
  unfold numPair
  repeat' first
    | with_reducible assumption
    | with_reducible intro _
    | with_reducible apply h0

theorem numStore_memOk : ∀ x0 x1, ∀ y00 y01, State.MemOk y00 → State.MemOk (((numStore x0 x1).2) y00 y01) := by
  intro x0 x1
  unfold numStore
  repeat' first
    | with_reducible assumption
    | with_reducible intro _
    | with_reducible apply numPair_memOk
    | with_reducible apply setN_memOk

theorem domStore_memOk : ∀ x0 x1, ∀ y00 y01, State.MemOk y00 → State.MemOk (((domStore x0 x1).2) y00 y01) := by
  intro x0 x1
  unfold domStore
  repeat' first
    | with_reducible assumption
    | with_reducible intro _
    | with_reducible apply setDom_memOk

theorem gatewayEffect_memOk : ∀ x0 x1 x2, State.MemOk x1 → State.MemOk (gatewayEffect x0 x1 x2) := by
  intro x0 x1 x2 h0
  unfold gatewayEffect
  repeat' first
    | with_reducible assumption
    | with_reducible intro _
    | (extract_lets +onlyGivenNames x; with_reducible refine memOk_cut x ?_ ?_ <;> [(dsimp only [x]; clear x); (clear_value x; intro _)])
    | (extract_lets +onlyGivenNames x; clear_value x)
    | with_reducible apply hf
    | with_reducible apply setDom_memOk
    | with_reducible apply solicitGateway_memOk
    | split
    | with_reducible refine fst_state_eq (by with_reducible assumption) ?_
    | with_reducible refine snd_state_eq (by with_reducible assumption) ?_
    | with_reducible refine snd_core_eq (by with_reducible assumption) ?_
    | (with_reducible refine memOk_mk ?_; with_reducible refine memOk_to ?_)

theorem effect_ite {c : Prop} [Decidable c] {a b : Option (ObjCheck × ObjEffect)}
    (ha : ∀ p, a = some p → ∀ s v, State.MemOk s → (p.2 s v).MemOk) (hb : ∀ p, b = some p → ∀ s v, State.MemOk s → (p.2 s v).MemOk) :
    ∀ p, (if c then a else b) = some p → ∀ s v, State.MemOk s → (p.2 s v).MemOk := by
  split
  · exact ha
  · exact hb

theorem effect_some {q : ObjCheck × ObjEffect} (h : ∀ s v, State.MemOk s → (q.2 s v).MemOk) :
    ∀ p, some q = some p → ∀ s v, State.MemOk s → (p.2 s v).MemOk := by
  intro p e
  cases e
  exact h

theorem effect_pair {c : ObjCheck} {e : ObjEffect} (h : ∀ s v, State.MemOk s → (e s v).MemOk) :
    ∀ p, some (c, e) = some p → ∀ s v, State.MemOk s → (p.2 s v).MemOk := effect_some h

theorem effect_none : ∀ p, (none : Option (ObjCheck × ObjEffect)) = some p → ∀ s v, State.MemOk s → (p.2 s v).MemOk := by
  intro p e
  cases e

theorem ownPair_memOk (key : Nat) : ∀ p, ownPair key = some p → ∀ s v, State.MemOk s → (p.2 s v).MemOk := by
  unfold ownPair
  dsimp only
  refine effect_ite (effect_pair planEffect_memOk) ?_
  refine effect_ite (effect_some (numPair_memOk _ _ (portEnableEffect_memOk _))) ?_
  refine effect_ite (effect_pair fun s v h => releaseHeld_memOk _ (setDom_memOk _ _ _ h)) ?_
  refine effect_ite (effect_some (numPair_memOk _ _ periodEffect_memOk)) ?_
  refine effect_ite (effect_some (numPair_memOk _ _ leaseBeatsEffect_memOk)) ?_
  refine effect_ite (effect_some (numPair_memOk _ _ leaseEffect_memOk)) ?_
  refine effect_ite (effect_some (numPair_memOk _ _ (sscEffect_memOk _ _))) ?_
  refine effect_ite (effect_some (numPair_memOk _ _ (clkoutEffect_memOk _ _))) ?_
  refine effect_ite (effect_some (numPair_memOk _ _ (enableEffect_memOk _))) ?_
  refine effect_ite (effect_some (numPair_memOk _ _ resetEffect_memOk)) ?_
  refine effect_ite (effect_some (numPair_memOk _ _ (epEnableEffect_memOk _))) ?_
  refine effect_ite (effect_pair (gatewayEffect_memOk _)) ?_
  refine effect_ite (effect_some (numPair_memOk _ _ excuseEffect_memOk)) ?_
  refine effect_ite (effect_some (numPair_memOk _ _ overrideEffect_memOk)) ?_
  refine effect_ite (effect_some (numPair_memOk _ _ compressionEffect_memOk)) ?_
  refine effect_ite (effect_some (numPair_memOk _ _ markEffect_memOk)) ?_
  refine effect_ite (effect_some (numPair_memOk _ _ releaseEffect_memOk)) ?_
  refine effect_ite (effect_some (numPair_memOk _ _ excludeEffect_memOk)) ?_
  refine effect_ite (effect_some (numPair_memOk _ _ (commandEffect_memOk _))) ?_
  refine effect_ite (effect_some (domStore_memOk _ _)) ?_
  refine effect_ite (effect_some (numPair_memOk _ _ switchEffect_memOk)) ?_
  refine effect_ite (effect_some (numPair_memOk _ _ resumeEffect_memOk)) ?_
  refine effect_ite (effect_some (numPair_memOk _ _ replayEffect_memOk)) ?_
  exact effect_ite (effect_pair substituteEffect_memOk) effect_none

theorem ownPair2_memOk (key : Nat) : ∀ p, ownPair2 key = some p → ∀ s v, State.MemOk s → (p.2 s v).MemOk := by
  unfold ownPair2
  extract_lets idx sub
  refine effect_ite (effect_some (numPair_memOk _ _ parkEffect_memOk)) ?_
  refine effect_ite (effect_some (numPair_memOk _ _ wakeEffect_memOk)) ?_
  refine effect_ite (effect_some (numPair_memOk _ _ vcoreEffect_memOk)) ?_
  refine effect_ite (effect_some (numPair_memOk _ _ (clockEffect_memOk _))) ?_
  refine effect_ite (effect_some (numPair_memOk _ _ (clockEffect_memOk _))) ?_
  refine effect_ite (effect_some (numStore_memOk _ _)) ?_
  refine effect_ite (effect_pair fun s v h => selectRef_memOk _ (setDom_memOk _ _ _ h)) ?_
  refine effect_ite (effect_pair stageEffect_memOk) ?_
  refine effect_ite (effect_some (numPair_memOk _ _ advanceEffect_memOk)) ?_
  refine effect_ite (effect_pair quoteEffect_memOk) ?_
  refine effect_ite (effect_pair (secretEffect_memOk _)) ?_
  refine effect_ite (effect_pair tokenEffect_memOk) ?_
  refine effect_ite (effect_pair fun s v h => armDesc_memOk _ _ _ h) ?_
  refine effect_ite (effect_some (numPair_memOk _ _ (cancelEffect_memOk _))) ?_
  exact effect_ite (effect_some (numPair_memOk _ _ releaseSlot_memOk)) effect_none

theorem objPair_memOk (key : Nat) : ∀ s v, State.MemOk s → ((objPair key).2 s v).MemOk := by
  unfold objPair
  split
  · exact ownPair_memOk _ _ (by assumption)
  · exact ownPair2_memOk _ _ (by assumption)
  · split
    · exact numPair_memOk _ _ (fun _ _ h => clearFlags_memOk _ _ _ h)
    · exact numPair_memOk _ _ (fun _ _ h => writeEmpty_memOk _ _ _ h)
    · exact numPair_memOk _ _ (fun _ _ h => resetHighWater_memOk _ _ _ h)
    · split
      · exact numStore_memOk _ _
      · exact domStore_memOk _ _

theorem previewWrites_memOk : ∀ x0 x1, State.MemOk x0 → State.MemOk (previewWrites x0 x1) := by
  intro x0 x1 h0
  unfold previewWrites
  repeat' first
    | with_reducible assumption
    | with_reducible apply setN_memOk
    | with_reducible apply setDom_memOk
    | (with_reducible apply memOk_foldl; intro _ _ _)
    | split

theorem applyWrite_memOk : ∀ x0 x1, State.MemOk x0 → State.MemOk (applyWrite x0 x1) := by
  intro x0 x1 h0
  unfold applyWrite
  repeat' first
    | with_reducible assumption
    | with_reducible apply objPair_memOk

theorem countTokens_memOk : ∀ x0 x1, State.MemOk x0 → State.MemOk (countTokens x0 x1) := by
  intro x0 x1 h0
  unfold countTokens
  repeat' first
    | with_reducible assumption
    | with_reducible apply tokenWritten_memOk
    | (with_reducible apply memOk_foldl; intro _ _ _)

theorem decideWrites_memOk : ∀ x0 x1 x2 x3, State.MemOk x0 → State.MemOk ((decideWrites x0 x1 x2 x3).1) := by
  intro x0 x1 x2 x3 h0
  unfold decideWrites
  repeat' first
    | with_reducible assumption
    | with_reducible apply countTokens_memOk
    | with_reducible apply applyWrite_memOk
    | (with_reducible apply memOk_foldl; intro _ _ _)
    | split

end Sys2Proof.Machine
end

