-- ==== Sys2Proof/Laws/KeepsParealo.lean ====
section
/-! SUPPORT. The operations of Machine/Parealo.lean keep every memory in canonical form: one lemma for each. -/

namespace Sys2Proof.Machine

theorem execMailboxDoorbell_memOk : ∀ x0 x1 x2, State.MemOk x2 → OutOk (execMailboxDoorbell x0 x1 x2) := by
  intro x0 x1 x2 h0
  unfold execMailboxDoorbell
  repeat' first
    | with_reducible assumption
    | (extract_lets +onlyGivenNames x; clear_value x)
    | with_reducible apply addN_memOk
    | with_reducible apply setBar_memOk
    | with_reducible apply outOk_next
    | split

theorem discard_memOk : ∀ x0 x1 x2, State.MemOk x0 → State.MemOk (discard x0 x1 x2) := by
  intro x0 x1 x2 h0
  unfold discard
  repeat' first
    | with_reducible assumption
    | with_reducible apply dropFrame_memOk
    | with_reducible apply count64_memOk

theorem judgeFrame_memOk {s t : State} {f : PFrame} (e : judgeFrame s f = .discarded t) (h : s.MemOk) : t.MemOk := by
  unfold judgeFrame at e
  have hd : ∀ k, (discard s f k).MemOk := fun k => discard_memOk s f k h
  split at e
  · cases e
  · split at e
    · cases e; exact hd _
    · split at e
      · cases e
      · split at e
        · cases e; exact raise_memOk _ _ _ (hd _)
        · split at e
          · cases e
          · split at e
            · split at e
              · cases e
              · cases e; exact hd _
            · cases e; exact hd _

theorem openSession_memOk : ∀ x0 x1, State.MemOk x0 → State.MemOk (openSession x0 x1) := by
  intro x0 x1 h0
  unfold openSession
  repeat' first
    | with_reducible assumption
    | (extract_lets +onlyGivenNames x; refine memOk_cut x ?_ ?_ <;> [(dsimp only [x]; clear x); (clear_value x; intro _)])
    | (extract_lets +onlyGivenNames x; clear_value x)
    | with_reducible apply sendReply_memOk
    | with_reducible apply refreshPar_memOk
    | split
    | (with_reducible refine memOk_mk ?_; with_reducible refine memOk_to ?_)

theorem execParealoOpen_memOk (f : PFrame) (s : State) (h : s.MemOk) : OutOk (execParealoOpen f s) := by
  unfold execParealoOpen
  refine outOk_next _ ?_
  split
  · exact h
  · next t e => exact judgeFrame_memOk e h
  · exact openSession_memOk _ _ h
  · exact h

theorem execParealoClose_memOk : ∀ x0 x1, State.MemOk x1 → OutOk (execParealoClose x0 x1) := by
  intro x0 x1 h0
  unfold execParealoClose
  repeat' first
    | with_reducible assumption
    | with_reducible apply sendReply_memOk
    | with_reducible apply closeSession_memOk
    | refine judgeFrame_memOk (by with_reducible assumption) ?_
    | with_reducible apply outOk_next
    | split

theorem setTxn_memOk : ∀ x0 x1, State.MemOk x0 → State.MemOk (setTxn x0 x1) := by
  intro x0 x1 h0
  unfold setTxn
  repeat' first
    | with_reducible assumption
    | (extract_lets +onlyGivenNames x; clear_value x)
    | (with_reducible refine memOk_mk ?_; with_reducible refine memOk_to ?_)

theorem opRead_memOk : ∀ x0 x1 x2 x3 x4 x5 x6 x7 x8 x9 x10, State.MemOk x0 → State.MemOk ((opRead x0 x1 x2 x3 x4 x5 x6 x7 x8 x9 x10).1) := by
  intro x0 x1 x2 x3 x4 x5 x6 x7 x8 x9 x10 h0
  unfold opRead
  repeat' first
    | with_reducible assumption
    | (extract_lets +onlyGivenNames x; refine memOk_cut x ?_ ?_ <;> [(dsimp only [x]; clear x); (clear_value x; intro _)])
    | (extract_lets +onlyGivenNames x; clear_value x)
    | with_reducible apply setTxn_memOk
    | split

theorem opDescribe_memOk : ∀ x0 x1 x2, State.MemOk x0 → State.MemOk ((opDescribe x0 x1 x2).1) := by
  intro x0 x1 x2 h0
  unfold opDescribe
  repeat' first
    | with_reducible assumption
    | (extract_lets +onlyGivenNames x; clear_value x)
    | split

theorem opBegin_memOk : ∀ x0 x1 x2, State.MemOk x0 → State.MemOk ((opBegin x0 x1 x2).1) := by
  intro x0 x1 x2 h0
  unfold opBegin
  repeat' first
    | with_reducible assumption
    | with_reducible intro _
    | (extract_lets +onlyGivenNames x; refine memOk_cut x ?_ ?_ <;> [(dsimp only [x]; clear x); (clear_value x; intro _)])
    | (extract_lets +onlyGivenNames x; refine funConst_cut x ?_ ?_ <;> [(dsimp only [x]; clear x); (clear_value x; intro hf)])
    | (extract_lets +onlyGivenNames x; clear_value x)
    | with_reducible apply hf
    | with_reducible apply journalOpen_memOk
    | with_reducible apply refreshPar_memOk
    | split
    | (with_reducible refine memOk_mk ?_; with_reducible refine memOk_to ?_)

theorem addDue_memOk : ∀ x0 x1, State.MemOk x0 → State.MemOk (addDue x0 x1) := by
  intro x0 x1 h0
  unfold addDue
  repeat' first
    | with_reducible assumption
    | (extract_lets +onlyGivenNames x; clear_value x)
    | (with_reducible refine memOk_mk ?_; with_reducible refine memOk_to ?_)

theorem opCommit_memOk : ∀ x0 x1 x2 x3 x4, State.MemOk x0 → State.MemOk ((opCommit x0 x1 x2 x3 x4).1) := by
  intro x0 x1 x2 x3 x4 h0
  unfold opCommit
  repeat' first
    | with_reducible assumption
    | with_reducible apply addDue_memOk
    | with_reducible apply setTxn_memOk
    | split

theorem opRollback_memOk : ∀ x0 x1 x2 x3, State.MemOk x0 → State.MemOk ((opRollback x0 x1 x2 x3).1) := by
  intro x0 x1 x2 x3 h0
  unfold opRollback
  repeat' first
    | with_reducible assumption
    | with_reducible intro _
    | (extract_lets +onlyGivenNames x; refine funPair_cut x ?_ ?_ <;> [(dsimp only [x]; clear x); (clear_value x; intro hf)])
    | with_reducible apply hf
    | with_reducible apply refreshPar_memOk
    | with_reducible apply rollbackTxn_memOk
    | split

theorem recoveryWrite_memOk : ∀ x0 x1 x2 x3 x4, State.MemOk x0 → State.MemOk ((recoveryWrite x0 x1 x2 x3 x4).1) := by
  intro x0 x1 x2 x3 x4 h0
  unfold recoveryWrite
  repeat' first
    | with_reducible assumption
    | with_reducible intro _
    | (extract_lets +onlyGivenNames x; refine fstOk_cut x ?_ ?_ <;> [(dsimp only [x]; clear x); (clear_value x; intro _)])
    | (extract_lets +onlyGivenNames x; refine funPair_cut x ?_ ?_ <;> [(dsimp only [x]; clear x); (clear_value x; intro hf)])
    | (extract_lets +onlyGivenNames x; clear_value x)
    | with_reducible apply hf
    | with_reducible apply decideWrites_memOk
    | split

theorem opWrite_memOk : ∀ x0 x1 x2 x3 x4 x5 x6 x7 x8, State.MemOk x0 → State.MemOk ((opWrite x0 x1 x2 x3 x4 x5 x6 x7 x8).1) := by
  intro x0 x1 x2 x3 x4 x5 x6 x7 x8 h0
  unfold opWrite
  repeat' first
    | with_reducible assumption
    | with_reducible intro _
    | (extract_lets +onlyGivenNames x; refine funPair_cut x ?_ ?_ <;> [(dsimp only [x]; clear x); (clear_value x; intro hf)])
    | (extract_lets +onlyGivenNames x; clear_value x)
    | with_reducible apply hf
    | with_reducible apply recoveryWrite_memOk
    | with_reducible apply addDue_memOk
    | with_reducible apply setTxn_memOk
    | split

theorem runOp_memOk : ∀ x0 x1 x2 x3 x4 x5, State.MemOk x0 → State.MemOk ((runOp x0 x1 x2 x3 x4 x5).1) := by
  intro x0 x1 x2 x3 x4 x5 h0
  unfold runOp
  repeat' first
    | with_reducible assumption
    | (extract_lets +onlyGivenNames x; refine fstOk_cut x ?_ ?_ <;> [(dsimp only [x]; clear x); (clear_value x; intro _)])
    | with_reducible apply opRead_memOk
    | with_reducible apply opWrite_memOk
    | with_reducible apply opBegin_memOk
    | with_reducible apply opCommit_memOk
    | with_reducible apply opRollback_memOk
    | with_reducible apply opDescribe_memOk
    | split

theorem setFrame_memOk : ∀ x0 x1 x2, State.MemOk x0 → State.MemOk (setFrame x0 x1 x2) := by
  intro x0 x1 x2 h0
  unfold setFrame
  repeat' first
    | with_reducible assumption
    | (extract_lets +onlyGivenNames x; clear_value x)
    | (with_reducible refine memOk_mk ?_; with_reducible refine memOk_to ?_)

theorem stepFrame_memOk : ∀ x0 x1 x2 x3 x4 x5, State.MemOk x0 → State.MemOk (stepFrame x0 x1 x2 x3 x4 x5) := by
  intro x0 x1 x2 x3 x4 x5 h0
  unfold stepFrame
  repeat' first
    | with_reducible assumption
    | (extract_lets +onlyGivenNames x; refine memOk_cut x ?_ ?_ <;> [(dsimp only [x]; clear x); (clear_value x; intro _)])
    | (extract_lets +onlyGivenNames x; refine fstOk_cut x ?_ ?_ <;> [(dsimp only [x]; clear x); (clear_value x; intro _)])
    | (extract_lets +onlyGivenNames x; clear_value x)
    | with_reducible apply syncDerived_memOk
    | with_reducible apply runOp_memOk
    | with_reducible apply setFrame_memOk
    | with_reducible apply answerFrame_memOk
    | with_reducible apply settleReset_memOk
    | split

theorem beginFrame_memOk : ∀ x0 x1 x2, State.MemOk x0 → State.MemOk (beginFrame x0 x1 x2) := by
  intro x0 x1 x2 h0
  unfold beginFrame
  repeat' first
    | with_reducible assumption
    | (extract_lets +onlyGivenNames x; clear_value x)
    | with_reducible apply refreshPar_memOk
    | with_reducible apply setSession_memOk
    | with_reducible apply count64_memOk

theorem repeatFrame_memOk : ∀ x0 x1 x2, State.MemOk x0 → State.MemOk (repeatFrame x0 x1 x2) := by
  intro x0 x1 x2 h0
  unfold repeatFrame
  repeat' first
    | with_reducible assumption
    | with_reducible apply sendReply_memOk
    | with_reducible apply count64_memOk
    | with_reducible apply setFrame_memOk
    | with_reducible apply discard_memOk
    | split

theorem requestOp_memOk : ∀ x0 x1 x2 x3, State.MemOk x3 → State.MemOk (requestOp x0 x1 x2 x3) := by
  intro x0 x1 x2 x3 h0
  unfold requestOp
  repeat' first
    | with_reducible assumption
    | (extract_lets +onlyGivenNames x; refine memOk_cut x ?_ ?_ <;> [(dsimp only [x]; clear x); (clear_value x; intro _)])
    | with_reducible apply repeatFrame_memOk
    | with_reducible apply beginFrame_memOk
    | with_reducible apply stepFrame_memOk
    | refine judgeFrame_memOk (by with_reducible assumption) ?_
    | split

theorem judgeOnly_memOk : ∀ x0 x1 x2, State.MemOk x2 → State.MemOk (judgeOnly x0 x1 x2) := by
  intro x0 x1 x2 h0
  unfold judgeOnly
  repeat' first
    | with_reducible assumption
    | refine judgeFrame_memOk (by with_reducible assumption) ?_
    | split

theorem execParealoRead_memOk : ∀ x0 x1 x2, State.MemOk x2 → OutOk (execParealoRead x0 x1 x2) := by
  intro x0 x1 x2 h0
  unfold execParealoRead
  repeat' first
    | with_reducible assumption
    | with_reducible apply requestOp_memOk
    | with_reducible apply judgeOnly_memOk
    | with_reducible apply outOk_next
    | split

theorem execParealoWrite_memOk : ∀ x0 x1 x2, State.MemOk x2 → OutOk (execParealoWrite x0 x1 x2) := by
  intro x0 x1 x2 h0
  unfold execParealoWrite
  repeat' first
    | with_reducible assumption
    | with_reducible apply requestOp_memOk
    | with_reducible apply judgeOnly_memOk
    | with_reducible apply outOk_next
    | split

theorem execParealoBegin_memOk : ∀ x0 x1 x2, State.MemOk x2 → OutOk (execParealoBegin x0 x1 x2) := by
  intro x0 x1 x2 h0
  unfold execParealoBegin
  repeat' first
    | with_reducible assumption
    | with_reducible apply requestOp_memOk
    | with_reducible apply judgeOnly_memOk
    | with_reducible apply outOk_next
    | split

theorem execCommitOp_memOk : ∀ x0 x1 x2, State.MemOk x2 → OutOk (execCommitOp x0 x1 x2) := by
  intro x0 x1 x2 h0
  unfold execCommitOp
  repeat' first
    | with_reducible assumption
    | with_reducible apply requestOp_memOk
    | with_reducible apply judgeOnly_memOk
    | with_reducible apply outOk_next
    | split

theorem execParealoRollback_memOk : ∀ x0 x1 x2, State.MemOk x2 → OutOk (execParealoRollback x0 x1 x2) := by
  intro x0 x1 x2 h0
  unfold execParealoRollback
  repeat' first
    | with_reducible assumption
    | with_reducible apply requestOp_memOk
    | with_reducible apply judgeOnly_memOk
    | with_reducible apply outOk_next
    | split

theorem execDescribe_memOk : ∀ x0 x1 x2, State.MemOk x2 → OutOk (execDescribe x0 x1 x2) := by
  intro x0 x1 x2 h0
  unfold execDescribe
  repeat' first
    | with_reducible assumption
    | with_reducible apply requestOp_memOk
    | with_reducible apply judgeOnly_memOk
    | with_reducible apply outOk_next
    | split

theorem expireTxn_memOk : ∀ x0 x1, State.MemOk x0 → State.MemOk (expireTxn x0 x1) := by
  intro x0 x1 h0
  unfold expireTxn
  repeat' first
    | with_reducible assumption
    | (extract_lets +onlyGivenNames x; refine memOk_cut x ?_ ?_ <;> [(dsimp only [x]; clear x); (clear_value x; intro _)])
    | (extract_lets +onlyGivenNames x; clear_value x)
    | with_reducible apply refreshPar_memOk
    | with_reducible apply raise_memOk
    | with_reducible apply rollbackTxn_memOk
    | (with_reducible refine memOk_mk ?_; with_reducible refine memOk_to ?_)

theorem execTxnExpired_memOk : ∀ x0 x1, State.MemOk x1 → OutOk (execTxnExpired x0 x1) := by
  intro x0 x1 h0
  unfold execTxnExpired
  repeat' first
    | with_reducible assumption
    | with_reducible apply expireTxn_memOk
    | with_reducible apply outOk_next
    | split

end Sys2Proof.Machine
end

