-- ==== Sys2Proof/Laws/KeepsBoundary.lean ====
section
/-! SUPPORT. The operations of Machine/Boundary.lean keep every memory in canonical form: one lemma for each. -/

namespace Sys2Proof.Machine

theorem noteLate_memOk : ∀ x0 x1 x2, State.MemOk x1 → State.MemOk (noteLate x0 x1 x2) := by
  intro x0 x1 x2 h0
  unfold noteLate
  repeat' first
    | with_reducible assumption
    | with_reducible intro _
    | (extract_lets +onlyGivenNames x; with_reducible refine memOk_cut x ?_ ?_ <;> [(dsimp only [x]; clear x); (clear_value x; intro _)])
    | (extract_lets +onlyGivenNames x; clear_value x)
    | with_reducible apply hf
    | with_reducible apply addN_memOk
    | with_reducible apply overrunCause_memOk
    | split
    | with_reducible refine fst_state_eq (by with_reducible assumption) ?_
    | with_reducible refine snd_state_eq (by with_reducible assumption) ?_
    | with_reducible refine snd_core_eq (by with_reducible assumption) ?_
    | (with_reducible refine memOk_mk ?_; with_reducible refine memOk_to ?_)

theorem noteWaits_memOk : ∀ x0, State.MemOk x0 → State.MemOk (noteWaits x0) := by
  intro x0 h0
  unfold noteWaits
  repeat' first
    | with_reducible assumption
    | with_reducible intro _
    | with_reducible apply overrunCause_memOk
    | split

theorem noteMilestoneLate_memOk : ∀ x0, State.MemOk x0 → State.MemOk (noteMilestoneLate x0) := by
  intro x0 h0
  unfold noteMilestoneLate
  repeat' first
    | with_reducible assumption
    | with_reducible apply overrunCause_memOk
    | split

theorem windowBoundary_memOk : ∀ x0 x1, State.MemOk x0 → State.MemOk (windowBoundary x0 x1) := by
  intro x0 x1 h0
  unfold windowBoundary
  repeat' first
    | with_reducible assumption
    | (extract_lets +onlyGivenNames x; refine memOk_cut x ?_ ?_ <;> [(dsimp only [x]; clear x); (clear_value x; intro _)])
    | (extract_lets +onlyGivenNames x; clear_value x)
    | with_reducible apply count64_memOk
    | with_reducible apply overrunCause_memOk
    | split
    | (with_reducible refine memOk_mk ?_; with_reducible refine memOk_to ?_)

theorem noteOverrun_memOk : ∀ x0 x1, State.MemOk x0 → State.MemOk (noteOverrun x0 x1) := by
  intro x0 x1 h0
  unfold noteOverrun
  repeat' first
    | with_reducible assumption
    | with_reducible intro _
    | (extract_lets +onlyGivenNames x; with_reducible refine memOk_cut x ?_ ?_ <;> [(dsimp only [x]; clear x); (clear_value x; intro _)])
    | (extract_lets +onlyGivenNames x; clear_value x)
    | with_reducible apply hf
    | with_reducible apply setN_memOk
    | with_reducible apply count64_memOk
    | with_reducible apply raise_memOk
    | with_reducible apply requestStretch_memOk
    | (with_reducible apply memOk_foldl; intro _ _ _)
    | (with_reducible apply memOk_foldl_fst; intro _ _ _)
    | (with_reducible apply coreOk_foldl; intro _ _ _)
    | split

theorem decideTxn_memOk : ∀ x0 x1, State.MemOk x0 → State.MemOk ((decideTxn x0 x1).1) := by
  intro x0 x1 h0
  unfold decideTxn
  repeat' first
    | with_reducible assumption
    | with_reducible apply raise_memOk
    | with_reducible apply decideWrites_memOk
    | split
    | refine fst_state_eq (by with_reducible assumption) ?_

theorem decideDue_memOk : ∀ x0 x1, State.MemOk x0 → State.MemOk (decideDue x0 x1) := by
  intro x0 x1 h0
  unfold decideDue
  repeat' first
    | with_reducible assumption
    | (extract_lets +onlyGivenNames x; refine memOk_cut x ?_ ?_ <;> [(dsimp only [x]; clear x); (clear_value x; intro _)])
    | (extract_lets +onlyGivenNames x; refine fstOk_cut x ?_ ?_ <;> [(dsimp only [x]; clear x); (clear_value x; intro _)])
    | (extract_lets +onlyGivenNames x; clear_value x)
    | with_reducible apply syncDerived_memOk
    | with_reducible apply decideWrites_memOk
    | with_reducible apply fillResponse_memOk
    | with_reducible apply decideTxn_memOk
    | with_reducible apply journal_memOk
    | with_reducible apply dropTxn_memOk
    | with_reducible apply count64_memOk
    | with_reducible apply refreshPar_memOk
    | split

theorem decideAll_memOk : ∀ x0, State.MemOk x0 → State.MemOk (decideAll x0) := by
  intro x0 h0
  unfold decideAll
  repeat' first
    | with_reducible assumption
    | (extract_lets +onlyGivenNames x; clear_value x)
    | with_reducible apply decideDue_memOk
    | (with_reducible apply memOk_foldl; intro _ _ _)
    | (with_reducible refine memOk_mk ?_; with_reducible refine memOk_to ?_)

theorem ageTxns_memOk : ∀ x0, State.MemOk x0 → State.MemOk (ageTxns x0) := by
  intro x0 h0
  unfold ageTxns
  repeat' first
    | with_reducible assumption
    | (extract_lets +onlyGivenNames x; refine memOk_cut x ?_ ?_ <;> [(dsimp only [x]; clear x); (clear_value x; intro _)])
    | (extract_lets +onlyGivenNames x; clear_value x)
    | with_reducible apply expireTxn_memOk
    | (with_reducible apply memOk_foldl; intro _ _ _)
    | (with_reducible refine memOk_mk ?_; with_reducible refine memOk_to ?_)

theorem ageVersions_memOk : ∀ x0, State.MemOk x0 → State.MemOk (ageVersions x0) := by
  intro x0 h0
  unfold ageVersions
  repeat' first
    | with_reducible assumption
    | (extract_lets +onlyGivenNames x; clear_value x)
    | (with_reducible refine memOk_mk ?_; with_reducible refine memOk_to ?_)

theorem countStates_memOk : ∀ x0 x1, State.MemOk x0 → State.MemOk (countStates x0 x1) := by
  intro x0 x1 h0
  unfold countStates
  repeat' first
    | with_reducible assumption
    | (extract_lets +onlyGivenNames x; clear_value x)
    | with_reducible apply setN_memOk
    | (with_reducible apply memOk_foldl; intro _ _ _)

theorem snapshotCores_memOk : ∀ x0, State.MemOk x0 → State.MemOk (snapshotCores x0) := by
  intro x0 h0
  unfold snapshotCores
  repeat' first
    | with_reducible assumption
    | (extract_lets +onlyGivenNames x; refine memOk_cut x ?_ ?_ <;> [(dsimp only [x]; clear x); (clear_value x; intro _)])
    | (extract_lets +onlyGivenNames x; clear_value x)
    | with_reducible apply countStates_memOk
    | with_reducible apply setN_memOk
    | with_reducible apply touch_memOk
    | split
    | (with_reducible refine memOk_mk ?_; with_reducible refine memOk_to ?_)

theorem noteWaiting_memOk : ∀ x0, State.MemOk x0 → State.MemOk (noteWaiting x0) := by
  intro x0 h0
  unfold noteWaiting
  repeat' first
    | with_reducible assumption
    | (extract_lets +onlyGivenNames x; clear_value x)
    | (with_reducible refine memOk_mk ?_; with_reducible refine memOk_to ?_)

theorem streamCycle_memOk : ∀ x0, State.MemOk x0 → State.MemOk (streamCycle x0) := by
  intro x0 h0
  unfold streamCycle
  repeat' first
    | with_reducible assumption
    | (extract_lets +onlyGivenNames x; refine memOk_cut x ?_ ?_ <;> [(dsimp only [x]; clear x); (clear_value x; intro _)])
    | (extract_lets +onlyGivenNames x; clear_value x)
    | with_reducible apply noteWaiting_memOk
    | with_reducible apply raise_memOk
    | with_reducible apply setN_memOk
    | with_reducible apply setDom_memOk
    | with_reducible apply logEvent_memOk
    | split
    | (with_reducible refine memOk_mk ?_; with_reducible refine memOk_to ?_)

theorem setHigh_memOk : ∀ x0 x1 x2 x3, State.MemOk x0 → State.MemOk (setHigh x0 x1 x2 x3) := by
  intro x0 x1 x2 x3 h0
  unfold setHigh
  repeat' first
    | with_reducible assumption
    | with_reducible apply setN_memOk

theorem noteHeld_memOk : ∀ x0, State.MemOk x0 → State.MemOk (noteHeld x0) := by
  intro x0 h0
  unfold noteHeld
  repeat' first
    | with_reducible assumption
    | with_reducible intro _
    | (extract_lets +onlyGivenNames x; with_reducible refine memOk_cut x ?_ ?_ <;> [(dsimp only [x]; clear x); (clear_value x; intro _)])
    | (extract_lets +onlyGivenNames x; clear_value x)
    | with_reducible apply hf
    | with_reducible apply setHigh_memOk

theorem rewriteLive_memOk : ∀ x0, State.MemOk x0 → State.MemOk (rewriteLive x0) := by
  intro x0 h0
  unfold rewriteLive
  repeat' first
    | with_reducible assumption
    | with_reducible intro _
    | (extract_lets +onlyGivenNames x; clear_value x)
    | with_reducible apply hf
    | with_reducible apply journal_memOk
    | (with_reducible apply memOk_foldl; intro _ _ _)

theorem dropOverwritten_memOk : ∀ x0, State.MemOk x0 → State.MemOk (dropOverwritten x0) := by
  intro x0 h0
  unfold dropOverwritten
  repeat' first
    | with_reducible assumption
    | with_reducible intro _
    | split
    | (with_reducible refine memOk_mk ?_; with_reducible refine memOk_to ?_)

theorem logbookFails_memOk : ∀ x0, State.MemOk x0 → State.MemOk (logbookFails x0) := by
  intro x0 h0
  unfold logbookFails
  repeat' first
    | with_reducible assumption
    | (extract_lets +onlyGivenNames x; clear_value x)
    | with_reducible apply logEvent_memOk
    | with_reducible apply raise_memOk
    | split
    | (with_reducible refine memOk_mk ?_; with_reducible refine memOk_to ?_)

theorem coreBoundary_memOk : ∀ x0 x1, State.MemOk x0 → Core.MemOk x1 → Core.MemOk (coreBoundary x0 x1) := by
  intro x0 x1 h0 h1
  unfold coreBoundary
  repeat' first
    | with_reducible assumption
    | with_reducible intro _
    | (extract_lets +onlyGivenNames x; with_reducible refine coreOk_cut x ?_ ?_ <;> [(dsimp only [x]; clear x); (clear_value x; intro _)])
    | with_reducible apply wakeCore_memOk
    | split
    | (with_reducible refine coreOk_mk ?_; with_reducible refine coreOk_to ?_)

theorem noteNeighbours_memOk : ∀ x0, State.MemOk x0 → State.MemOk (noteNeighbours x0) := by
  intro x0 h0
  unfold noteNeighbours
  repeat' first
    | with_reducible assumption
    | (extract_lets +onlyGivenNames x; refine memOk_cut x ?_ ?_ <;> [(dsimp only [x]; clear x); (clear_value x; intro _)])
    | with_reducible apply raise_memOk
    | split

theorem settleHandover_memOk : ∀ x0, State.MemOk x0 → State.MemOk (settleHandover x0) := by
  intro x0 h0
  unfold settleHandover
  repeat' first
    | with_reducible assumption
    | with_reducible intro _
    | (extract_lets +onlyGivenNames x; with_reducible refine memOk_cut x ?_ ?_ <;> [(dsimp only [x]; clear x); (clear_value x; intro _)])
    | (extract_lets +onlyGivenNames x; clear_value x)
    | with_reducible apply hf
    | with_reducible apply failReshard_memOk
    | with_reducible apply beginHandover_memOk
    | split
    | with_reducible refine fst_state_eq (by with_reducible assumption) ?_
    | with_reducible refine snd_state_eq (by with_reducible assumption) ?_
    | with_reducible refine snd_core_eq (by with_reducible assumption) ?_
    | (with_reducible refine memOk_mk ?_; with_reducible refine memOk_to ?_)

theorem runBoundary_memOk : ∀ x0 x1, State.MemOk x0 → State.MemOk (runBoundary x0 x1) := by
  intro x0 x1 h0
  unfold runBoundary
  repeat' first
    | with_reducible assumption
    | (extract_lets +onlyGivenNames x; refine memOk_cut x ?_ ?_ <;> [(dsimp only [x]; clear x); (clear_value x; intro _)])
    | with_reducible apply leaveRun_memOk
    | with_reducible apply enterRun_memOk
    | with_reducible apply noteNeighbours_memOk
    | with_reducible apply setN_memOk
    | split

theorem retryWork_memOk : ∀ x0, State.MemOk x0 → State.MemOk (retryWork x0) := by
  intro x0 h0
  unfold retryWork
  repeat' first
    | with_reducible assumption
    | with_reducible intro _
    | with_reducible apply tryUpdates_memOk
    | with_reducible apply retryFlows_memOk
    | with_reducible apply retryKept_memOk

theorem openBoundary_memOk : ∀ x0 x1, State.MemOk x1 → State.MemOk (openBoundary x0 x1).1 := by
  intro x0 x1 h0
  unfold openBoundary
  repeat' first
    | with_reducible assumption
    | with_reducible intro _
    | (extract_lets +onlyGivenNames x; with_reducible refine memOk_cut x ?_ ?_ <;> [(dsimp only [x]; clear x); (clear_value x; intro _)])
    | (extract_lets +onlyGivenNames x; clear_value x)
    | with_reducible apply hf
    | with_reducible apply settleFields_memOk
    | with_reducible apply linkBoundary_memOk
    | with_reducible apply syncDerived_memOk
    | with_reducible apply numberBoundary_memOk
    | with_reducible apply boundaryProgress_memOk
    | with_reducible apply finishLoad_memOk
    | with_reducible apply logbookFails_memOk
    | with_reducible apply windowBoundary_memOk
    | with_reducible apply milestone_memOk
    | with_reducible apply lateMilestone_memOk
    | with_reducible apply settleHandover_memOk
    | with_reducible apply endDraining_memOk
    | split

theorem checkSchedule_memOk : ∀ x0 x1 x2 x3, State.MemOk x3 → State.MemOk (checkSchedule x0 x1 x2 x3).1 := by
  intro x0 x1 x2 x3 h0
  unfold checkSchedule
  repeat' first
    | with_reducible assumption
    | with_reducible intro _
    | (extract_lets +onlyGivenNames x; with_reducible refine memOk_cut x ?_ ?_ <;> [(dsimp only [x]; clear x); (clear_value x; intro _)])
    | (extract_lets +onlyGivenNames x; clear_value x)
    | with_reducible apply hf
    | with_reducible apply noteMilestoneLate_memOk
    | with_reducible apply noteWaits_memOk
    | with_reducible apply noteLate_memOk
    | with_reducible apply noteOverrun_memOk

theorem flagBoundary_memOk : ∀ x0 x1 x2 x3, State.MemOk x3 → State.MemOk (flagBoundary x0 x1 x2 x3).1 := by
  intro x0 x1 x2 x3 h0
  unfold flagBoundary
  repeat' first
    | with_reducible assumption
    | with_reducible intro _
    | (extract_lets +onlyGivenNames x; with_reducible refine memOk_cut x ?_ ?_ <;> [(dsimp only [x]; clear x); (clear_value x; intro _)])
    | (extract_lets +onlyGivenNames x; clear_value x)
    | with_reducible apply hf
    | with_reducible apply ageTxns_memOk
    | with_reducible apply lapseLease_memOk
    | with_reducible apply decideAll_memOk
    | with_reducible apply raiseHoldover_memOk
    | with_reducible apply snapshotCores_memOk
    | with_reducible apply gatherFlags_memOk
    | with_reducible apply gatherNumeric_memOk
    | with_reducible apply checkSchedule_memOk
    | with_reducible apply emptyCapture_memOk
    | split
    | with_reducible refine fst_state_eq (by with_reducible assumption) ?_
    | with_reducible refine snd_state_eq (by with_reducible assumption) ?_
    | with_reducible refine snd_core_eq (by with_reducible assumption) ?_
    | (with_reducible refine memOk_mk ?_; with_reducible refine memOk_to ?_)

theorem workBoundary_memOk : ∀ x0 x1 x2 x3 x4 x5, State.MemOk x5 → State.MemOk (workBoundary x0 x1 x2 x3 x4 x5) := by
  intro x0 x1 x2 x3 x4 x5 h0
  unfold workBoundary
  repeat' first
    | with_reducible assumption
    | with_reducible intro _
    | (extract_lets +onlyGivenNames x; with_reducible refine memOk_cut x ?_ ?_ <;> [(dsimp only [x]; clear x); (clear_value x; intro _)])
    | (extract_lets +onlyGivenNames x; clear_value x)
    | with_reducible apply hf
    | with_reducible apply writeCompletions_memOk
    | with_reducible apply mapCores_memOk
    | with_reducible apply coreBoundary_memOk
    | with_reducible apply powerBoundary_memOk
    | with_reducible apply aelifBoundary_memOk
    | with_reducible apply sendTicks_memOk
    | with_reducible apply retryWork_memOk
    | with_reducible apply noteHeld_memOk
    | with_reducible apply streamCycle_memOk
    | with_reducible apply pulsePin_memOk
    | split
    | with_reducible refine fst_state_eq (by with_reducible assumption) ?_
    | with_reducible refine snd_state_eq (by with_reducible assumption) ?_
    | with_reducible refine snd_core_eq (by with_reducible assumption) ?_
    | (with_reducible refine memOk_mk ?_; with_reducible refine memOk_to ?_)

theorem closeBoundary_memOk : ∀ x0 x1 x2 x3 x4, State.MemOk x4 → State.MemOk (closeBoundary x0 x1 x2 x3 x4) := by
  intro x0 x1 x2 x3 x4 h0
  unfold closeBoundary
  repeat' first
    | with_reducible assumption
    | with_reducible intro _
    | (extract_lets +onlyGivenNames x; with_reducible refine memOk_cut x ?_ ?_ <;> [(dsimp only [x]; clear x); (clear_value x; intro _)])
    | (extract_lets +onlyGivenNames x; clear_value x)
    | with_reducible apply hf
    | with_reducible apply runBoundary_memOk
    | with_reducible apply dropOverwritten_memOk
    | with_reducible apply rewriteLive_memOk
    | with_reducible apply addN_memOk
    | with_reducible apply logbookFails_memOk
    | with_reducible apply setN_memOk
    | with_reducible apply writeHeartbeat_memOk
    | with_reducible apply refreshHeld_memOk
    | with_reducible apply ageVersions_memOk
    | with_reducible apply settleReset_memOk
    | with_reducible apply settleSecrets_memOk
    | with_reducible apply answerAll_memOk
    | with_reducible apply syncDerived_memOk
    | split
    | with_reducible refine fst_state_eq (by with_reducible assumption) ?_
    | with_reducible refine snd_state_eq (by with_reducible assumption) ?_
    | with_reducible refine snd_core_eq (by with_reducible assumption) ?_
    | (with_reducible refine memOk_mk ?_; with_reducible refine memOk_to ?_)

theorem boundaryWork_memOk : ∀ x0 x1, State.MemOk x1 → State.MemOk (boundaryWork x0 x1) := by
  intro x0 x1 h0
  unfold boundaryWork
  repeat' first
    | with_reducible assumption
    | with_reducible intro _
    | (extract_lets +onlyGivenNames x; with_reducible refine fstOk_cut x ?_ ?_ <;> [(dsimp only [x]; clear x); (clear_value x; intro _)])
    | (extract_lets +onlyGivenNames x; clear_value x)
    | with_reducible apply hf
    | with_reducible apply numberBoundary_memOk
    | with_reducible apply openBoundary_memOk
    | with_reducible apply flagBoundary_memOk
    | with_reducible apply closeBoundary_memOk
    | with_reducible apply workBoundary_memOk

theorem execBeatBoundary_memOk : ∀ x0 x1, State.MemOk x1 → OutOk (execBeatBoundary x0 x1) := by
  intro x0 x1 h0
  unfold execBeatBoundary
  repeat' first
    | with_reducible assumption
    | with_reducible intro _
    | with_reducible apply metBy_memOk
    | with_reducible apply metStacks_memOk
    | with_reducible apply boundaryWork_memOk
    | with_reducible apply outOk_next
    | split

end Sys2Proof.Machine
end

