-- ==== Sys2Proof/Laws/State.lean ====
section
/-! SUPPORT. What the shared updates of the state leave alone: one lemma per field and update, and the reads of objects, cores and field
records through them. -/

namespace Sys2Proof.Machine

/-! ### setN -/

@[simp] theorem setN_pending (s : State) (key v : Nat) : (setN s key v).pending = s.pending := by
  unfold setN; split <;> rfl
@[simp] theorem setN_variant (s : State) (key v : Nat) : (setN s key v).variant = s.variant := by
  unfold setN; split <;> rfl
@[simp] theorem setN_doms (s : State) (key v : Nat) : (setN s key v).doms = s.doms := by
  unfold setN; split <;> rfl
@[simp] theorem setN_raised (s : State) (key v : Nat) : (setN s key v).raised = s.raised := by
  unfold setN; split <;> rfl
@[simp] theorem setN_clears (s : State) (key v : Nat) : (setN s key v).clears = s.clears := by
  unfold setN; split <;> rfl
@[simp] theorem setN_cores (s : State) (key v : Nat) : (setN s key v).cores = s.cores := by
  unfold setN; split <;> rfl
@[simp] theorem setN_snapshot (s : State) (key v : Nat) : (setN s key v).snapshot = s.snapshot := by
  unfold setN; split <;> rfl
@[simp] theorem setN_grid (s : State) (key v : Nat) : (setN s key v).grid = s.grid := by
  unfold setN; split <;> rfl
@[simp] theorem setN_mesh (s : State) (key v : Nat) : (setN s key v).mesh = s.mesh := by
  unfold setN; split <;> rfl
@[simp] theorem setN_power (s : State) (key v : Nat) : (setN s key v).power = s.power := by
  unfold setN; split <;> rfl
@[simp] theorem setN_stk (s : State) (key v : Nat) : (setN s key v).stk = s.stk := by
  unfold setN; split <;> rfl
@[simp] theorem setN_streams (s : State) (key v : Nat) : (setN s key v).streams = s.streams := by
  unfold setN; split <;> rfl
@[simp] theorem setN_update (s : State) (key v : Nat) : (setN s key v).update = s.update := by
  unfold setN; split <;> rfl
@[simp] theorem setN_gates (s : State) (key v : Nat) : (setN s key v).gates = s.gates := by
  unfold setN; split <;> rfl
@[simp] theorem setN_exch (s : State) (key v : Nat) : (setN s key v).exch = s.exch := by
  unfold setN; split <;> rfl
@[simp] theorem setN_eth (s : State) (key v : Nat) : (setN s key v).eth = s.eth := by
  unfold setN; split <;> rfl
@[simp] theorem setN_aelif (s : State) (key v : Nat) : (setN s key v).aelif = s.aelif := by
  unfold setN; split <;> rfl
@[simp] theorem setN_host (s : State) (key v : Nat) : (setN s key v).host = s.host := by
  unfold setN; split <;> rfl
@[simp] theorem setN_stp (s : State) (key v : Nat) : (setN s key v).stp = s.stp := by
  unfold setN; split <;> rfl
@[simp] theorem setN_beat (s : State) (key v : Nat) : (setN s key v).beat = s.beat := by
  unfold setN; split <;> rfl
@[simp] theorem setN_par (s : State) (key v : Nat) : (setN s key v).par = s.par := by
  unfold setN; split <;> rfl
@[simp] theorem setN_jobs (s : State) (key v : Nat) : (setN s key v).jobs = s.jobs := by
  unfold setN; split <;> rfl
@[simp] theorem setN_pulls (s : State) (key v : Nat) : (setN s key v).pulls = s.pulls := by
  unfold setN; split <;> rfl
@[simp] theorem setN_log (s : State) (key v : Nat) : (setN s key v).log = s.log := by
  unfold setN; split <;> rfl
@[simp] theorem setN_sec (s : State) (key v : Nat) : (setN s key v).sec = s.sec := by
  unfold setN; split <;> rfl
@[simp] theorem setN_cvus (s : State) (key v : Nat) : (setN s key v).cvus = s.cvus := by
  unfold setN; split <;> rfl
@[simp] theorem setN_mgmt (s : State) (key v : Nat) : (setN s key v).mgmt = s.mgmt := by
  unfold setN; split <;> rfl
@[simp] theorem setN_placement (s : State) (key v : Nat) : (setN s key v).placement = s.placement := by
  unfold setN; split <;> rfl
@[simp] theorem setN_images (s : State) (key v : Nat) : (setN s key v).images = s.images := by
  unfold setN; split <;> rfl
@[simp] theorem setN_opsLow (s : State) (key v : Nat) : (setN s key v).opsLow = s.opsLow := by
  unfold setN; split <;> rfl
@[simp] theorem setN_out (s : State) (key v : Nat) : (setN s key v).out = s.out := by
  unfold setN; split <;> rfl
@[simp] theorem setN_free (s : State) (key v : Nat) : (setN s key v).free = s.free := by
  unfold setN; split <;> rfl

/-! ### setDom -/

@[simp] theorem setDom_pending (s : State) (key : Nat) (bs : List Byte) : (setDom s key bs).pending = s.pending := by
  unfold setDom; split <;> rfl
@[simp] theorem setDom_variant (s : State) (key : Nat) (bs : List Byte) : (setDom s key bs).variant = s.variant := by
  unfold setDom; split <;> rfl
@[simp] theorem setDom_objs (s : State) (key : Nat) (bs : List Byte) : (setDom s key bs).objs = s.objs := by
  unfold setDom; split <;> rfl
@[simp] theorem setDom_raised (s : State) (key : Nat) (bs : List Byte) : (setDom s key bs).raised = s.raised := by
  unfold setDom; split <;> rfl
@[simp] theorem setDom_clears (s : State) (key : Nat) (bs : List Byte) : (setDom s key bs).clears = s.clears := by
  unfold setDom; split <;> rfl
@[simp] theorem setDom_cores (s : State) (key : Nat) (bs : List Byte) : (setDom s key bs).cores = s.cores := by
  unfold setDom; split <;> rfl
@[simp] theorem setDom_snapshot (s : State) (key : Nat) (bs : List Byte) : (setDom s key bs).snapshot = s.snapshot := by
  unfold setDom; split <;> rfl
@[simp] theorem setDom_grid (s : State) (key : Nat) (bs : List Byte) : (setDom s key bs).grid = s.grid := by
  unfold setDom; split <;> rfl
@[simp] theorem setDom_mesh (s : State) (key : Nat) (bs : List Byte) : (setDom s key bs).mesh = s.mesh := by
  unfold setDom; split <;> rfl
@[simp] theorem setDom_power (s : State) (key : Nat) (bs : List Byte) : (setDom s key bs).power = s.power := by
  unfold setDom; split <;> rfl
@[simp] theorem setDom_stk (s : State) (key : Nat) (bs : List Byte) : (setDom s key bs).stk = s.stk := by
  unfold setDom; split <;> rfl
@[simp] theorem setDom_streams (s : State) (key : Nat) (bs : List Byte) : (setDom s key bs).streams = s.streams := by
  unfold setDom; split <;> rfl
@[simp] theorem setDom_update (s : State) (key : Nat) (bs : List Byte) : (setDom s key bs).update = s.update := by
  unfold setDom; split <;> rfl
@[simp] theorem setDom_gates (s : State) (key : Nat) (bs : List Byte) : (setDom s key bs).gates = s.gates := by
  unfold setDom; split <;> rfl
@[simp] theorem setDom_exch (s : State) (key : Nat) (bs : List Byte) : (setDom s key bs).exch = s.exch := by
  unfold setDom; split <;> rfl
@[simp] theorem setDom_eth (s : State) (key : Nat) (bs : List Byte) : (setDom s key bs).eth = s.eth := by
  unfold setDom; split <;> rfl
@[simp] theorem setDom_aelif (s : State) (key : Nat) (bs : List Byte) : (setDom s key bs).aelif = s.aelif := by
  unfold setDom; split <;> rfl
@[simp] theorem setDom_host (s : State) (key : Nat) (bs : List Byte) : (setDom s key bs).host = s.host := by
  unfold setDom; split <;> rfl
@[simp] theorem setDom_stp (s : State) (key : Nat) (bs : List Byte) : (setDom s key bs).stp = s.stp := by
  unfold setDom; split <;> rfl
@[simp] theorem setDom_beat (s : State) (key : Nat) (bs : List Byte) : (setDom s key bs).beat = s.beat := by
  unfold setDom; split <;> rfl
@[simp] theorem setDom_jobs (s : State) (key : Nat) (bs : List Byte) : (setDom s key bs).jobs = s.jobs := by
  unfold setDom; split <;> rfl
@[simp] theorem setDom_pulls (s : State) (key : Nat) (bs : List Byte) : (setDom s key bs).pulls = s.pulls := by
  unfold setDom; split <;> rfl
@[simp] theorem setDom_log (s : State) (key : Nat) (bs : List Byte) : (setDom s key bs).log = s.log := by
  unfold setDom; split <;> rfl
@[simp] theorem setDom_sec (s : State) (key : Nat) (bs : List Byte) : (setDom s key bs).sec = s.sec := by
  unfold setDom; split <;> rfl
@[simp] theorem setDom_cvus (s : State) (key : Nat) (bs : List Byte) : (setDom s key bs).cvus = s.cvus := by
  unfold setDom; split <;> rfl
@[simp] theorem setDom_mgmt (s : State) (key : Nat) (bs : List Byte) : (setDom s key bs).mgmt = s.mgmt := by
  unfold setDom; split <;> rfl
@[simp] theorem setDom_placement (s : State) (key : Nat) (bs : List Byte) : (setDom s key bs).placement = s.placement := by
  unfold setDom; split <;> rfl
@[simp] theorem setDom_images (s : State) (key : Nat) (bs : List Byte) : (setDom s key bs).images = s.images := by
  unfold setDom; split <;> rfl
@[simp] theorem setDom_opsLow (s : State) (key : Nat) (bs : List Byte) : (setDom s key bs).opsLow = s.opsLow := by
  unfold setDom; split <;> rfl
@[simp] theorem setDom_out (s : State) (key : Nat) (bs : List Byte) : (setDom s key bs).out = s.out := by
  unfold setDom; split <;> rfl
@[simp] theorem setDom_free (s : State) (key : Nat) (bs : List Byte) : (setDom s key bs).free = s.free := by
  unfold setDom; split <;> rfl

/-! ### emit -/

@[simp] theorem emit_pending (s : State) (o : Out) : (emit s o).pending = s.pending := rfl
@[simp] theorem emit_variant (s : State) (o : Out) : (emit s o).variant = s.variant := rfl
@[simp] theorem emit_objs (s : State) (o : Out) : (emit s o).objs = s.objs := rfl
@[simp] theorem emit_doms (s : State) (o : Out) : (emit s o).doms = s.doms := rfl
@[simp] theorem emit_change (s : State) (o : Out) : (emit s o).change = s.change := rfl
@[simp] theorem emit_changes (s : State) (o : Out) : (emit s o).changes = s.changes := rfl
@[simp] theorem emit_raised (s : State) (o : Out) : (emit s o).raised = s.raised := rfl
@[simp] theorem emit_clears (s : State) (o : Out) : (emit s o).clears = s.clears := rfl
@[simp] theorem emit_cores (s : State) (o : Out) : (emit s o).cores = s.cores := rfl
@[simp] theorem emit_snapshot (s : State) (o : Out) : (emit s o).snapshot = s.snapshot := rfl
@[simp] theorem emit_grid (s : State) (o : Out) : (emit s o).grid = s.grid := rfl
@[simp] theorem emit_mesh (s : State) (o : Out) : (emit s o).mesh = s.mesh := rfl
@[simp] theorem emit_power (s : State) (o : Out) : (emit s o).power = s.power := rfl
@[simp] theorem emit_stk (s : State) (o : Out) : (emit s o).stk = s.stk := rfl
@[simp] theorem emit_streams (s : State) (o : Out) : (emit s o).streams = s.streams := rfl
@[simp] theorem emit_update (s : State) (o : Out) : (emit s o).update = s.update := rfl
@[simp] theorem emit_gates (s : State) (o : Out) : (emit s o).gates = s.gates := rfl
@[simp] theorem emit_exch (s : State) (o : Out) : (emit s o).exch = s.exch := rfl
@[simp] theorem emit_eth (s : State) (o : Out) : (emit s o).eth = s.eth := rfl
@[simp] theorem emit_aelif (s : State) (o : Out) : (emit s o).aelif = s.aelif := rfl
@[simp] theorem emit_host (s : State) (o : Out) : (emit s o).host = s.host := rfl
@[simp] theorem emit_stp (s : State) (o : Out) : (emit s o).stp = s.stp := rfl
@[simp] theorem emit_beat (s : State) (o : Out) : (emit s o).beat = s.beat := rfl
@[simp] theorem emit_par (s : State) (o : Out) : (emit s o).par = s.par := rfl
@[simp] theorem emit_jobs (s : State) (o : Out) : (emit s o).jobs = s.jobs := rfl
@[simp] theorem emit_pulls (s : State) (o : Out) : (emit s o).pulls = s.pulls := rfl
@[simp] theorem emit_log (s : State) (o : Out) : (emit s o).log = s.log := rfl
@[simp] theorem emit_sec (s : State) (o : Out) : (emit s o).sec = s.sec := rfl
@[simp] theorem emit_cvus (s : State) (o : Out) : (emit s o).cvus = s.cvus := rfl
@[simp] theorem emit_mgmt (s : State) (o : Out) : (emit s o).mgmt = s.mgmt := rfl
@[simp] theorem emit_placement (s : State) (o : Out) : (emit s o).placement = s.placement := rfl
@[simp] theorem emit_images (s : State) (o : Out) : (emit s o).images = s.images := rfl
@[simp] theorem emit_opsLow (s : State) (o : Out) : (emit s o).opsLow = s.opsLow := rfl
@[simp] theorem emit_free (s : State) (o : Out) : (emit s o).free = s.free := rfl

/-! ### setCore -/

@[simp] theorem setCore_pending (s : State) (id : CoreId) (v : Core) : (setCore s id v).pending = s.pending := rfl
@[simp] theorem setCore_variant (s : State) (id : CoreId) (v : Core) : (setCore s id v).variant = s.variant := rfl
@[simp] theorem setCore_objs (s : State) (id : CoreId) (v : Core) : (setCore s id v).objs = s.objs := rfl
@[simp] theorem setCore_doms (s : State) (id : CoreId) (v : Core) : (setCore s id v).doms = s.doms := rfl
@[simp] theorem setCore_change (s : State) (id : CoreId) (v : Core) : (setCore s id v).change = s.change := rfl
@[simp] theorem setCore_changes (s : State) (id : CoreId) (v : Core) : (setCore s id v).changes = s.changes := rfl
@[simp] theorem setCore_raised (s : State) (id : CoreId) (v : Core) : (setCore s id v).raised = s.raised := rfl
@[simp] theorem setCore_clears (s : State) (id : CoreId) (v : Core) : (setCore s id v).clears = s.clears := rfl
@[simp] theorem setCore_snapshot (s : State) (id : CoreId) (v : Core) : (setCore s id v).snapshot = s.snapshot := rfl
@[simp] theorem setCore_grid (s : State) (id : CoreId) (v : Core) : (setCore s id v).grid = s.grid := rfl
@[simp] theorem setCore_mesh (s : State) (id : CoreId) (v : Core) : (setCore s id v).mesh = s.mesh := rfl
@[simp] theorem setCore_power (s : State) (id : CoreId) (v : Core) : (setCore s id v).power = s.power := rfl
@[simp] theorem setCore_stk (s : State) (id : CoreId) (v : Core) : (setCore s id v).stk = s.stk := rfl
@[simp] theorem setCore_streams (s : State) (id : CoreId) (v : Core) : (setCore s id v).streams = s.streams := rfl
@[simp] theorem setCore_update (s : State) (id : CoreId) (v : Core) : (setCore s id v).update = s.update := rfl
@[simp] theorem setCore_gates (s : State) (id : CoreId) (v : Core) : (setCore s id v).gates = s.gates := rfl
@[simp] theorem setCore_exch (s : State) (id : CoreId) (v : Core) : (setCore s id v).exch = s.exch := rfl
@[simp] theorem setCore_eth (s : State) (id : CoreId) (v : Core) : (setCore s id v).eth = s.eth := rfl
@[simp] theorem setCore_aelif (s : State) (id : CoreId) (v : Core) : (setCore s id v).aelif = s.aelif := rfl
@[simp] theorem setCore_host (s : State) (id : CoreId) (v : Core) : (setCore s id v).host = s.host := rfl
@[simp] theorem setCore_stp (s : State) (id : CoreId) (v : Core) : (setCore s id v).stp = s.stp := rfl
@[simp] theorem setCore_beat (s : State) (id : CoreId) (v : Core) : (setCore s id v).beat = s.beat := rfl
@[simp] theorem setCore_par (s : State) (id : CoreId) (v : Core) : (setCore s id v).par = s.par := rfl
@[simp] theorem setCore_jobs (s : State) (id : CoreId) (v : Core) : (setCore s id v).jobs = s.jobs := rfl
@[simp] theorem setCore_pulls (s : State) (id : CoreId) (v : Core) : (setCore s id v).pulls = s.pulls := rfl
@[simp] theorem setCore_log (s : State) (id : CoreId) (v : Core) : (setCore s id v).log = s.log := rfl
@[simp] theorem setCore_sec (s : State) (id : CoreId) (v : Core) : (setCore s id v).sec = s.sec := rfl
@[simp] theorem setCore_cvus (s : State) (id : CoreId) (v : Core) : (setCore s id v).cvus = s.cvus := rfl
@[simp] theorem setCore_mgmt (s : State) (id : CoreId) (v : Core) : (setCore s id v).mgmt = s.mgmt := rfl
@[simp] theorem setCore_placement (s : State) (id : CoreId) (v : Core) : (setCore s id v).placement = s.placement := rfl
@[simp] theorem setCore_images (s : State) (id : CoreId) (v : Core) : (setCore s id v).images = s.images := rfl
@[simp] theorem setCore_opsLow (s : State) (id : CoreId) (v : Core) : (setCore s id v).opsLow = s.opsLow := rfl
@[simp] theorem setCore_out (s : State) (id : CoreId) (v : Core) : (setCore s id v).out = s.out := rfl
@[simp] theorem setCore_free (s : State) (id : CoreId) (v : Core) : (setCore s id v).free = s.free := rfl

/-! ### mapCores -/

@[simp] theorem mapCores_pending (s : State) (f : CoreId → Core → Core) : (mapCores s f).pending = s.pending := rfl
@[simp] theorem mapCores_variant (s : State) (f : CoreId → Core → Core) : (mapCores s f).variant = s.variant := rfl
@[simp] theorem mapCores_objs (s : State) (f : CoreId → Core → Core) : (mapCores s f).objs = s.objs := rfl
@[simp] theorem mapCores_doms (s : State) (f : CoreId → Core → Core) : (mapCores s f).doms = s.doms := rfl
@[simp] theorem mapCores_change (s : State) (f : CoreId → Core → Core) : (mapCores s f).change = s.change := rfl
@[simp] theorem mapCores_changes (s : State) (f : CoreId → Core → Core) : (mapCores s f).changes = s.changes := rfl
@[simp] theorem mapCores_raised (s : State) (f : CoreId → Core → Core) : (mapCores s f).raised = s.raised := rfl
@[simp] theorem mapCores_clears (s : State) (f : CoreId → Core → Core) : (mapCores s f).clears = s.clears := rfl
@[simp] theorem mapCores_snapshot (s : State) (f : CoreId → Core → Core) : (mapCores s f).snapshot = s.snapshot := rfl
@[simp] theorem mapCores_grid (s : State) (f : CoreId → Core → Core) : (mapCores s f).grid = s.grid := rfl
@[simp] theorem mapCores_mesh (s : State) (f : CoreId → Core → Core) : (mapCores s f).mesh = s.mesh := rfl
@[simp] theorem mapCores_power (s : State) (f : CoreId → Core → Core) : (mapCores s f).power = s.power := rfl
@[simp] theorem mapCores_stk (s : State) (f : CoreId → Core → Core) : (mapCores s f).stk = s.stk := rfl
@[simp] theorem mapCores_streams (s : State) (f : CoreId → Core → Core) : (mapCores s f).streams = s.streams := rfl
@[simp] theorem mapCores_update (s : State) (f : CoreId → Core → Core) : (mapCores s f).update = s.update := rfl
@[simp] theorem mapCores_gates (s : State) (f : CoreId → Core → Core) : (mapCores s f).gates = s.gates := rfl
@[simp] theorem mapCores_exch (s : State) (f : CoreId → Core → Core) : (mapCores s f).exch = s.exch := rfl
@[simp] theorem mapCores_eth (s : State) (f : CoreId → Core → Core) : (mapCores s f).eth = s.eth := rfl
@[simp] theorem mapCores_aelif (s : State) (f : CoreId → Core → Core) : (mapCores s f).aelif = s.aelif := rfl
@[simp] theorem mapCores_host (s : State) (f : CoreId → Core → Core) : (mapCores s f).host = s.host := rfl
@[simp] theorem mapCores_stp (s : State) (f : CoreId → Core → Core) : (mapCores s f).stp = s.stp := rfl
@[simp] theorem mapCores_beat (s : State) (f : CoreId → Core → Core) : (mapCores s f).beat = s.beat := rfl
@[simp] theorem mapCores_par (s : State) (f : CoreId → Core → Core) : (mapCores s f).par = s.par := rfl
@[simp] theorem mapCores_jobs (s : State) (f : CoreId → Core → Core) : (mapCores s f).jobs = s.jobs := rfl
@[simp] theorem mapCores_pulls (s : State) (f : CoreId → Core → Core) : (mapCores s f).pulls = s.pulls := rfl
@[simp] theorem mapCores_log (s : State) (f : CoreId → Core → Core) : (mapCores s f).log = s.log := rfl
@[simp] theorem mapCores_sec (s : State) (f : CoreId → Core → Core) : (mapCores s f).sec = s.sec := rfl
@[simp] theorem mapCores_cvus (s : State) (f : CoreId → Core → Core) : (mapCores s f).cvus = s.cvus := rfl
@[simp] theorem mapCores_mgmt (s : State) (f : CoreId → Core → Core) : (mapCores s f).mgmt = s.mgmt := rfl
@[simp] theorem mapCores_placement (s : State) (f : CoreId → Core → Core) : (mapCores s f).placement = s.placement := rfl
@[simp] theorem mapCores_images (s : State) (f : CoreId → Core → Core) : (mapCores s f).images = s.images := rfl
@[simp] theorem mapCores_opsLow (s : State) (f : CoreId → Core → Core) : (mapCores s f).opsLow = s.opsLow := rfl
@[simp] theorem mapCores_out (s : State) (f : CoreId → Core → Core) : (mapCores s f).out = s.out := rfl
@[simp] theorem mapCores_free (s : State) (f : CoreId → Core → Core) : (mapCores s f).free = s.free := rfl

/-! ### raise -/

@[simp] theorem raise_pending (s : State) (key b : Nat) : (raise s key b).pending = s.pending := rfl
@[simp] theorem raise_variant (s : State) (key b : Nat) : (raise s key b).variant = s.variant := rfl
@[simp] theorem raise_objs (s : State) (key b : Nat) : (raise s key b).objs = s.objs := rfl
@[simp] theorem raise_doms (s : State) (key b : Nat) : (raise s key b).doms = s.doms := rfl
@[simp] theorem raise_change (s : State) (key b : Nat) : (raise s key b).change = s.change := rfl
@[simp] theorem raise_changes (s : State) (key b : Nat) : (raise s key b).changes = s.changes := rfl
@[simp] theorem raise_clears (s : State) (key b : Nat) : (raise s key b).clears = s.clears := rfl
@[simp] theorem raise_cores (s : State) (key b : Nat) : (raise s key b).cores = s.cores := rfl
@[simp] theorem raise_snapshot (s : State) (key b : Nat) : (raise s key b).snapshot = s.snapshot := rfl
@[simp] theorem raise_grid (s : State) (key b : Nat) : (raise s key b).grid = s.grid := rfl
@[simp] theorem raise_mesh (s : State) (key b : Nat) : (raise s key b).mesh = s.mesh := rfl
@[simp] theorem raise_power (s : State) (key b : Nat) : (raise s key b).power = s.power := rfl
@[simp] theorem raise_stk (s : State) (key b : Nat) : (raise s key b).stk = s.stk := rfl
@[simp] theorem raise_streams (s : State) (key b : Nat) : (raise s key b).streams = s.streams := rfl
@[simp] theorem raise_update (s : State) (key b : Nat) : (raise s key b).update = s.update := rfl
@[simp] theorem raise_gates (s : State) (key b : Nat) : (raise s key b).gates = s.gates := rfl
@[simp] theorem raise_exch (s : State) (key b : Nat) : (raise s key b).exch = s.exch := rfl
@[simp] theorem raise_eth (s : State) (key b : Nat) : (raise s key b).eth = s.eth := rfl
@[simp] theorem raise_aelif (s : State) (key b : Nat) : (raise s key b).aelif = s.aelif := rfl
@[simp] theorem raise_host (s : State) (key b : Nat) : (raise s key b).host = s.host := rfl
@[simp] theorem raise_stp (s : State) (key b : Nat) : (raise s key b).stp = s.stp := rfl
@[simp] theorem raise_beat (s : State) (key b : Nat) : (raise s key b).beat = s.beat := rfl
@[simp] theorem raise_par (s : State) (key b : Nat) : (raise s key b).par = s.par := rfl
@[simp] theorem raise_jobs (s : State) (key b : Nat) : (raise s key b).jobs = s.jobs := rfl
@[simp] theorem raise_pulls (s : State) (key b : Nat) : (raise s key b).pulls = s.pulls := rfl
@[simp] theorem raise_log (s : State) (key b : Nat) : (raise s key b).log = s.log := rfl
@[simp] theorem raise_sec (s : State) (key b : Nat) : (raise s key b).sec = s.sec := rfl
@[simp] theorem raise_cvus (s : State) (key b : Nat) : (raise s key b).cvus = s.cvus := rfl
@[simp] theorem raise_mgmt (s : State) (key b : Nat) : (raise s key b).mgmt = s.mgmt := rfl
@[simp] theorem raise_placement (s : State) (key b : Nat) : (raise s key b).placement = s.placement := rfl
@[simp] theorem raise_images (s : State) (key b : Nat) : (raise s key b).images = s.images := rfl
@[simp] theorem raise_opsLow (s : State) (key b : Nat) : (raise s key b).opsLow = s.opsLow := rfl
@[simp] theorem raise_out (s : State) (key b : Nat) : (raise s key b).out = s.out := rfl
@[simp] theorem raise_free (s : State) (key b : Nat) : (raise s key b).free = s.free := rfl

/-! ### touch -/

@[simp] theorem touch_pending (s : State) (key : Nat) : (touch s key).pending = s.pending := rfl
@[simp] theorem touch_variant (s : State) (key : Nat) : (touch s key).variant = s.variant := rfl
@[simp] theorem touch_objs (s : State) (key : Nat) : (touch s key).objs = s.objs := rfl
@[simp] theorem touch_doms (s : State) (key : Nat) : (touch s key).doms = s.doms := rfl
@[simp] theorem touch_raised (s : State) (key : Nat) : (touch s key).raised = s.raised := rfl
@[simp] theorem touch_clears (s : State) (key : Nat) : (touch s key).clears = s.clears := rfl
@[simp] theorem touch_cores (s : State) (key : Nat) : (touch s key).cores = s.cores := rfl
@[simp] theorem touch_snapshot (s : State) (key : Nat) : (touch s key).snapshot = s.snapshot := rfl
@[simp] theorem touch_grid (s : State) (key : Nat) : (touch s key).grid = s.grid := rfl
@[simp] theorem touch_mesh (s : State) (key : Nat) : (touch s key).mesh = s.mesh := rfl
@[simp] theorem touch_power (s : State) (key : Nat) : (touch s key).power = s.power := rfl
@[simp] theorem touch_stk (s : State) (key : Nat) : (touch s key).stk = s.stk := rfl
@[simp] theorem touch_streams (s : State) (key : Nat) : (touch s key).streams = s.streams := rfl
@[simp] theorem touch_update (s : State) (key : Nat) : (touch s key).update = s.update := rfl
@[simp] theorem touch_gates (s : State) (key : Nat) : (touch s key).gates = s.gates := rfl
@[simp] theorem touch_exch (s : State) (key : Nat) : (touch s key).exch = s.exch := rfl
@[simp] theorem touch_eth (s : State) (key : Nat) : (touch s key).eth = s.eth := rfl
@[simp] theorem touch_aelif (s : State) (key : Nat) : (touch s key).aelif = s.aelif := rfl
@[simp] theorem touch_host (s : State) (key : Nat) : (touch s key).host = s.host := rfl
@[simp] theorem touch_stp (s : State) (key : Nat) : (touch s key).stp = s.stp := rfl
@[simp] theorem touch_beat (s : State) (key : Nat) : (touch s key).beat = s.beat := rfl
@[simp] theorem touch_par (s : State) (key : Nat) : (touch s key).par = s.par := rfl
@[simp] theorem touch_jobs (s : State) (key : Nat) : (touch s key).jobs = s.jobs := rfl
@[simp] theorem touch_pulls (s : State) (key : Nat) : (touch s key).pulls = s.pulls := rfl
@[simp] theorem touch_log (s : State) (key : Nat) : (touch s key).log = s.log := rfl
@[simp] theorem touch_sec (s : State) (key : Nat) : (touch s key).sec = s.sec := rfl
@[simp] theorem touch_cvus (s : State) (key : Nat) : (touch s key).cvus = s.cvus := rfl
@[simp] theorem touch_mgmt (s : State) (key : Nat) : (touch s key).mgmt = s.mgmt := rfl
@[simp] theorem touch_placement (s : State) (key : Nat) : (touch s key).placement = s.placement := rfl
@[simp] theorem touch_images (s : State) (key : Nat) : (touch s key).images = s.images := rfl
@[simp] theorem touch_opsLow (s : State) (key : Nat) : (touch s key).opsLow = s.opsLow := rfl
@[simp] theorem touch_out (s : State) (key : Nat) : (touch s key).out = s.out := rfl
@[simp] theorem touch_free (s : State) (key : Nat) : (touch s key).free = s.free := rfl

/-! ### setField -/

@[simp] theorem setField_pending (s : State) (f : Nat) (r : FieldRec) : (setField s f r).pending = s.pending := rfl
@[simp] theorem setField_variant (s : State) (f : Nat) (r : FieldRec) : (setField s f r).variant = s.variant := rfl
@[simp] theorem setField_objs (s : State) (f : Nat) (r : FieldRec) : (setField s f r).objs = s.objs := rfl
@[simp] theorem setField_doms (s : State) (f : Nat) (r : FieldRec) : (setField s f r).doms = s.doms := rfl
@[simp] theorem setField_change (s : State) (f : Nat) (r : FieldRec) : (setField s f r).change = s.change := rfl
@[simp] theorem setField_changes (s : State) (f : Nat) (r : FieldRec) : (setField s f r).changes = s.changes := rfl
@[simp] theorem setField_raised (s : State) (f : Nat) (r : FieldRec) : (setField s f r).raised = s.raised := rfl
@[simp] theorem setField_clears (s : State) (f : Nat) (r : FieldRec) : (setField s f r).clears = s.clears := rfl
@[simp] theorem setField_cores (s : State) (f : Nat) (r : FieldRec) : (setField s f r).cores = s.cores := rfl
@[simp] theorem setField_snapshot (s : State) (f : Nat) (r : FieldRec) : (setField s f r).snapshot = s.snapshot := rfl
@[simp] theorem setField_grid (s : State) (f : Nat) (r : FieldRec) : (setField s f r).grid = s.grid := rfl
@[simp] theorem setField_mesh (s : State) (f : Nat) (r : FieldRec) : (setField s f r).mesh = s.mesh := rfl
@[simp] theorem setField_stk (s : State) (f : Nat) (r : FieldRec) : (setField s f r).stk = s.stk := rfl
@[simp] theorem setField_streams (s : State) (f : Nat) (r : FieldRec) : (setField s f r).streams = s.streams := rfl
@[simp] theorem setField_update (s : State) (f : Nat) (r : FieldRec) : (setField s f r).update = s.update := rfl
@[simp] theorem setField_gates (s : State) (f : Nat) (r : FieldRec) : (setField s f r).gates = s.gates := rfl
@[simp] theorem setField_exch (s : State) (f : Nat) (r : FieldRec) : (setField s f r).exch = s.exch := rfl
@[simp] theorem setField_eth (s : State) (f : Nat) (r : FieldRec) : (setField s f r).eth = s.eth := rfl
@[simp] theorem setField_aelif (s : State) (f : Nat) (r : FieldRec) : (setField s f r).aelif = s.aelif := rfl
@[simp] theorem setField_host (s : State) (f : Nat) (r : FieldRec) : (setField s f r).host = s.host := rfl
@[simp] theorem setField_stp (s : State) (f : Nat) (r : FieldRec) : (setField s f r).stp = s.stp := rfl
@[simp] theorem setField_beat (s : State) (f : Nat) (r : FieldRec) : (setField s f r).beat = s.beat := rfl
@[simp] theorem setField_par (s : State) (f : Nat) (r : FieldRec) : (setField s f r).par = s.par := rfl
@[simp] theorem setField_jobs (s : State) (f : Nat) (r : FieldRec) : (setField s f r).jobs = s.jobs := rfl
@[simp] theorem setField_pulls (s : State) (f : Nat) (r : FieldRec) : (setField s f r).pulls = s.pulls := rfl
@[simp] theorem setField_log (s : State) (f : Nat) (r : FieldRec) : (setField s f r).log = s.log := rfl
@[simp] theorem setField_sec (s : State) (f : Nat) (r : FieldRec) : (setField s f r).sec = s.sec := rfl
@[simp] theorem setField_cvus (s : State) (f : Nat) (r : FieldRec) : (setField s f r).cvus = s.cvus := rfl
@[simp] theorem setField_mgmt (s : State) (f : Nat) (r : FieldRec) : (setField s f r).mgmt = s.mgmt := rfl
@[simp] theorem setField_placement (s : State) (f : Nat) (r : FieldRec) : (setField s f r).placement = s.placement := rfl
@[simp] theorem setField_images (s : State) (f : Nat) (r : FieldRec) : (setField s f r).images = s.images := rfl
@[simp] theorem setField_opsLow (s : State) (f : Nat) (r : FieldRec) : (setField s f r).opsLow = s.opsLow := rfl
@[simp] theorem setField_out (s : State) (f : Nat) (r : FieldRec) : (setField s f r).out = s.out := rfl
@[simp] theorem setField_free (s : State) (f : Nat) (r : FieldRec) : (setField s f r).free = s.free := rfl

/-! ### addN -/

@[simp] theorem addN_pending (s : State) (key w n : Nat) : (addN s key w n).pending = s.pending := by
  simp [addN]
@[simp] theorem addN_variant (s : State) (key w n : Nat) : (addN s key w n).variant = s.variant := by
  simp [addN]
@[simp] theorem addN_doms (s : State) (key w n : Nat) : (addN s key w n).doms = s.doms := by
  simp [addN]
@[simp] theorem addN_raised (s : State) (key w n : Nat) : (addN s key w n).raised = s.raised := by
  simp [addN]
@[simp] theorem addN_clears (s : State) (key w n : Nat) : (addN s key w n).clears = s.clears := by
  simp [addN]
@[simp] theorem addN_cores (s : State) (key w n : Nat) : (addN s key w n).cores = s.cores := by
  simp [addN]
@[simp] theorem addN_snapshot (s : State) (key w n : Nat) : (addN s key w n).snapshot = s.snapshot := by
  simp [addN]
@[simp] theorem addN_grid (s : State) (key w n : Nat) : (addN s key w n).grid = s.grid := by
  simp [addN]
@[simp] theorem addN_mesh (s : State) (key w n : Nat) : (addN s key w n).mesh = s.mesh := by
  simp [addN]
@[simp] theorem addN_power (s : State) (key w n : Nat) : (addN s key w n).power = s.power := by
  simp [addN]
@[simp] theorem addN_stk (s : State) (key w n : Nat) : (addN s key w n).stk = s.stk := by
  simp [addN]
@[simp] theorem addN_streams (s : State) (key w n : Nat) : (addN s key w n).streams = s.streams := by
  simp [addN]
@[simp] theorem addN_update (s : State) (key w n : Nat) : (addN s key w n).update = s.update := by
  simp [addN]
@[simp] theorem addN_gates (s : State) (key w n : Nat) : (addN s key w n).gates = s.gates := by
  simp [addN]
@[simp] theorem addN_exch (s : State) (key w n : Nat) : (addN s key w n).exch = s.exch := by
  simp [addN]
@[simp] theorem addN_eth (s : State) (key w n : Nat) : (addN s key w n).eth = s.eth := by
  simp [addN]
@[simp] theorem addN_aelif (s : State) (key w n : Nat) : (addN s key w n).aelif = s.aelif := by
  simp [addN]
@[simp] theorem addN_host (s : State) (key w n : Nat) : (addN s key w n).host = s.host := by
  simp [addN]
@[simp] theorem addN_stp (s : State) (key w n : Nat) : (addN s key w n).stp = s.stp := by
  simp [addN]
@[simp] theorem addN_beat (s : State) (key w n : Nat) : (addN s key w n).beat = s.beat := by
  simp [addN]
@[simp] theorem addN_par (s : State) (key w n : Nat) : (addN s key w n).par = s.par := by
  simp [addN]
@[simp] theorem addN_jobs (s : State) (key w n : Nat) : (addN s key w n).jobs = s.jobs := by
  simp [addN]
@[simp] theorem addN_pulls (s : State) (key w n : Nat) : (addN s key w n).pulls = s.pulls := by
  simp [addN]
@[simp] theorem addN_log (s : State) (key w n : Nat) : (addN s key w n).log = s.log := by
  simp [addN]
@[simp] theorem addN_sec (s : State) (key w n : Nat) : (addN s key w n).sec = s.sec := by
  simp [addN]
@[simp] theorem addN_cvus (s : State) (key w n : Nat) : (addN s key w n).cvus = s.cvus := by
  simp [addN]
@[simp] theorem addN_mgmt (s : State) (key w n : Nat) : (addN s key w n).mgmt = s.mgmt := by
  simp [addN]
@[simp] theorem addN_placement (s : State) (key w n : Nat) : (addN s key w n).placement = s.placement := by
  simp [addN]
@[simp] theorem addN_images (s : State) (key w n : Nat) : (addN s key w n).images = s.images := by
  simp [addN]
@[simp] theorem addN_opsLow (s : State) (key w n : Nat) : (addN s key w n).opsLow = s.opsLow := by
  simp [addN]
@[simp] theorem addN_out (s : State) (key w n : Nat) : (addN s key w n).out = s.out := by
  simp [addN]
@[simp] theorem addN_free (s : State) (key w n : Nat) : (addN s key w n).free = s.free := by
  simp [addN]

/-! ### count64 -/

@[simp] theorem count64_pending (s : State) (key : Nat) : (count64 s key).pending = s.pending := by
  simp [count64]
@[simp] theorem count64_variant (s : State) (key : Nat) : (count64 s key).variant = s.variant := by
  simp [count64]
@[simp] theorem count64_doms (s : State) (key : Nat) : (count64 s key).doms = s.doms := by
  simp [count64]
@[simp] theorem count64_raised (s : State) (key : Nat) : (count64 s key).raised = s.raised := by
  simp [count64]
@[simp] theorem count64_clears (s : State) (key : Nat) : (count64 s key).clears = s.clears := by
  simp [count64]
@[simp] theorem count64_cores (s : State) (key : Nat) : (count64 s key).cores = s.cores := by
  simp [count64]
@[simp] theorem count64_snapshot (s : State) (key : Nat) : (count64 s key).snapshot = s.snapshot := by
  simp [count64]
@[simp] theorem count64_grid (s : State) (key : Nat) : (count64 s key).grid = s.grid := by
  simp [count64]
@[simp] theorem count64_mesh (s : State) (key : Nat) : (count64 s key).mesh = s.mesh := by
  simp [count64]
@[simp] theorem count64_power (s : State) (key : Nat) : (count64 s key).power = s.power := by
  simp [count64]
@[simp] theorem count64_stk (s : State) (key : Nat) : (count64 s key).stk = s.stk := by
  simp [count64]
@[simp] theorem count64_streams (s : State) (key : Nat) : (count64 s key).streams = s.streams := by
  simp [count64]
@[simp] theorem count64_update (s : State) (key : Nat) : (count64 s key).update = s.update := by
  simp [count64]
@[simp] theorem count64_gates (s : State) (key : Nat) : (count64 s key).gates = s.gates := by
  simp [count64]
@[simp] theorem count64_exch (s : State) (key : Nat) : (count64 s key).exch = s.exch := by
  simp [count64]
@[simp] theorem count64_eth (s : State) (key : Nat) : (count64 s key).eth = s.eth := by
  simp [count64]
@[simp] theorem count64_aelif (s : State) (key : Nat) : (count64 s key).aelif = s.aelif := by
  simp [count64]
@[simp] theorem count64_host (s : State) (key : Nat) : (count64 s key).host = s.host := by
  simp [count64]
@[simp] theorem count64_stp (s : State) (key : Nat) : (count64 s key).stp = s.stp := by
  simp [count64]
@[simp] theorem count64_beat (s : State) (key : Nat) : (count64 s key).beat = s.beat := by
  simp [count64]
@[simp] theorem count64_par (s : State) (key : Nat) : (count64 s key).par = s.par := by
  simp [count64]
@[simp] theorem count64_jobs (s : State) (key : Nat) : (count64 s key).jobs = s.jobs := by
  simp [count64]
@[simp] theorem count64_pulls (s : State) (key : Nat) : (count64 s key).pulls = s.pulls := by
  simp [count64]
@[simp] theorem count64_log (s : State) (key : Nat) : (count64 s key).log = s.log := by
  simp [count64]
@[simp] theorem count64_sec (s : State) (key : Nat) : (count64 s key).sec = s.sec := by
  simp [count64]
@[simp] theorem count64_cvus (s : State) (key : Nat) : (count64 s key).cvus = s.cvus := by
  simp [count64]
@[simp] theorem count64_mgmt (s : State) (key : Nat) : (count64 s key).mgmt = s.mgmt := by
  simp [count64]
@[simp] theorem count64_placement (s : State) (key : Nat) : (count64 s key).placement = s.placement := by
  simp [count64]
@[simp] theorem count64_images (s : State) (key : Nat) : (count64 s key).images = s.images := by
  simp [count64]
@[simp] theorem count64_opsLow (s : State) (key : Nat) : (count64 s key).opsLow = s.opsLow := by
  simp [count64]
@[simp] theorem count64_out (s : State) (key : Nat) : (count64 s key).out = s.out := by
  simp [count64]
@[simp] theorem count64_free (s : State) (key : Nat) : (count64 s key).free = s.free := by
  simp [count64]

/-! ### raiseNow -/

@[simp] theorem raiseNow_pending (s : State) (key b : Nat) : (raiseNow s key b).pending = s.pending := by
  simp [raiseNow]
@[simp] theorem raiseNow_variant (s : State) (key b : Nat) : (raiseNow s key b).variant = s.variant := by
  simp [raiseNow]
@[simp] theorem raiseNow_doms (s : State) (key b : Nat) : (raiseNow s key b).doms = s.doms := by
  simp [raiseNow]
@[simp] theorem raiseNow_raised (s : State) (key b : Nat) : (raiseNow s key b).raised = s.raised := by
  simp [raiseNow]
@[simp] theorem raiseNow_clears (s : State) (key b : Nat) : (raiseNow s key b).clears = s.clears := by
  simp [raiseNow]
@[simp] theorem raiseNow_cores (s : State) (key b : Nat) : (raiseNow s key b).cores = s.cores := by
  simp [raiseNow]
@[simp] theorem raiseNow_snapshot (s : State) (key b : Nat) : (raiseNow s key b).snapshot = s.snapshot := by
  simp [raiseNow]
@[simp] theorem raiseNow_grid (s : State) (key b : Nat) : (raiseNow s key b).grid = s.grid := by
  simp [raiseNow]
@[simp] theorem raiseNow_mesh (s : State) (key b : Nat) : (raiseNow s key b).mesh = s.mesh := by
  simp [raiseNow]
@[simp] theorem raiseNow_power (s : State) (key b : Nat) : (raiseNow s key b).power = s.power := by
  simp [raiseNow]
@[simp] theorem raiseNow_stk (s : State) (key b : Nat) : (raiseNow s key b).stk = s.stk := by
  simp [raiseNow]
@[simp] theorem raiseNow_streams (s : State) (key b : Nat) : (raiseNow s key b).streams = s.streams := by
  simp [raiseNow]
@[simp] theorem raiseNow_update (s : State) (key b : Nat) : (raiseNow s key b).update = s.update := by
  simp [raiseNow]
@[simp] theorem raiseNow_gates (s : State) (key b : Nat) : (raiseNow s key b).gates = s.gates := by
  simp [raiseNow]
@[simp] theorem raiseNow_exch (s : State) (key b : Nat) : (raiseNow s key b).exch = s.exch := by
  simp [raiseNow]
@[simp] theorem raiseNow_eth (s : State) (key b : Nat) : (raiseNow s key b).eth = s.eth := by
  simp [raiseNow]
@[simp] theorem raiseNow_aelif (s : State) (key b : Nat) : (raiseNow s key b).aelif = s.aelif := by
  simp [raiseNow]
@[simp] theorem raiseNow_host (s : State) (key b : Nat) : (raiseNow s key b).host = s.host := by
  simp [raiseNow]
@[simp] theorem raiseNow_stp (s : State) (key b : Nat) : (raiseNow s key b).stp = s.stp := by
  simp [raiseNow]
@[simp] theorem raiseNow_beat (s : State) (key b : Nat) : (raiseNow s key b).beat = s.beat := by
  simp [raiseNow]
@[simp] theorem raiseNow_par (s : State) (key b : Nat) : (raiseNow s key b).par = s.par := by
  simp [raiseNow]
@[simp] theorem raiseNow_jobs (s : State) (key b : Nat) : (raiseNow s key b).jobs = s.jobs := by
  simp [raiseNow]
@[simp] theorem raiseNow_pulls (s : State) (key b : Nat) : (raiseNow s key b).pulls = s.pulls := by
  simp [raiseNow]
@[simp] theorem raiseNow_log (s : State) (key b : Nat) : (raiseNow s key b).log = s.log := by
  simp [raiseNow]
@[simp] theorem raiseNow_sec (s : State) (key b : Nat) : (raiseNow s key b).sec = s.sec := by
  simp [raiseNow]
@[simp] theorem raiseNow_cvus (s : State) (key b : Nat) : (raiseNow s key b).cvus = s.cvus := by
  simp [raiseNow]
@[simp] theorem raiseNow_mgmt (s : State) (key b : Nat) : (raiseNow s key b).mgmt = s.mgmt := by
  simp [raiseNow]
@[simp] theorem raiseNow_placement (s : State) (key b : Nat) : (raiseNow s key b).placement = s.placement := by
  simp [raiseNow]
@[simp] theorem raiseNow_images (s : State) (key b : Nat) : (raiseNow s key b).images = s.images := by
  simp [raiseNow]
@[simp] theorem raiseNow_opsLow (s : State) (key b : Nat) : (raiseNow s key b).opsLow = s.opsLow := by
  simp [raiseNow]
@[simp] theorem raiseNow_out (s : State) (key b : Nat) : (raiseNow s key b).out = s.out := by
  simp [raiseNow]
@[simp] theorem raiseNow_free (s : State) (key b : Nat) : (raiseNow s key b).free = s.free := by
  simp [raiseNow]

/-! ### journal -/

@[simp] theorem journal_pending (s : State) (typ : Nat) (body : List Byte) : (journal s typ body).pending = s.pending := by
  simp [journal]
@[simp] theorem journal_variant (s : State) (typ : Nat) (body : List Byte) : (journal s typ body).variant = s.variant := by
  simp [journal]
@[simp] theorem journal_doms (s : State) (typ : Nat) (body : List Byte) : (journal s typ body).doms = s.doms := by
  simp [journal]
@[simp] theorem journal_raised (s : State) (typ : Nat) (body : List Byte) : (journal s typ body).raised = s.raised := by
  simp [journal]
@[simp] theorem journal_clears (s : State) (typ : Nat) (body : List Byte) : (journal s typ body).clears = s.clears := by
  simp [journal]
@[simp] theorem journal_cores (s : State) (typ : Nat) (body : List Byte) : (journal s typ body).cores = s.cores := by
  simp [journal]
@[simp] theorem journal_snapshot (s : State) (typ : Nat) (body : List Byte) : (journal s typ body).snapshot = s.snapshot := by
  simp [journal]
@[simp] theorem journal_grid (s : State) (typ : Nat) (body : List Byte) : (journal s typ body).grid = s.grid := by
  simp [journal]
@[simp] theorem journal_mesh (s : State) (typ : Nat) (body : List Byte) : (journal s typ body).mesh = s.mesh := by
  simp [journal]
@[simp] theorem journal_power (s : State) (typ : Nat) (body : List Byte) : (journal s typ body).power = s.power := by
  simp [journal]
@[simp] theorem journal_stk (s : State) (typ : Nat) (body : List Byte) : (journal s typ body).stk = s.stk := by
  simp [journal]
@[simp] theorem journal_streams (s : State) (typ : Nat) (body : List Byte) : (journal s typ body).streams = s.streams := by
  simp [journal]
@[simp] theorem journal_update (s : State) (typ : Nat) (body : List Byte) : (journal s typ body).update = s.update := by
  simp [journal]
@[simp] theorem journal_gates (s : State) (typ : Nat) (body : List Byte) : (journal s typ body).gates = s.gates := by
  simp [journal]
@[simp] theorem journal_exch (s : State) (typ : Nat) (body : List Byte) : (journal s typ body).exch = s.exch := by
  simp [journal]
@[simp] theorem journal_eth (s : State) (typ : Nat) (body : List Byte) : (journal s typ body).eth = s.eth := by
  simp [journal]
@[simp] theorem journal_aelif (s : State) (typ : Nat) (body : List Byte) : (journal s typ body).aelif = s.aelif := by
  simp [journal]
@[simp] theorem journal_host (s : State) (typ : Nat) (body : List Byte) : (journal s typ body).host = s.host := by
  simp [journal]
@[simp] theorem journal_stp (s : State) (typ : Nat) (body : List Byte) : (journal s typ body).stp = s.stp := by
  simp [journal]
@[simp] theorem journal_beat (s : State) (typ : Nat) (body : List Byte) : (journal s typ body).beat = s.beat := by
  simp [journal]
@[simp] theorem journal_par (s : State) (typ : Nat) (body : List Byte) : (journal s typ body).par = s.par := by
  simp [journal]
@[simp] theorem journal_jobs (s : State) (typ : Nat) (body : List Byte) : (journal s typ body).jobs = s.jobs := by
  simp [journal]
@[simp] theorem journal_pulls (s : State) (typ : Nat) (body : List Byte) : (journal s typ body).pulls = s.pulls := by
  simp [journal]
@[simp] theorem journal_sec (s : State) (typ : Nat) (body : List Byte) : (journal s typ body).sec = s.sec := by
  simp [journal]
@[simp] theorem journal_cvus (s : State) (typ : Nat) (body : List Byte) : (journal s typ body).cvus = s.cvus := by
  simp [journal]
@[simp] theorem journal_mgmt (s : State) (typ : Nat) (body : List Byte) : (journal s typ body).mgmt = s.mgmt := by
  simp [journal]
@[simp] theorem journal_placement (s : State) (typ : Nat) (body : List Byte) : (journal s typ body).placement = s.placement := by
  simp [journal]
@[simp] theorem journal_images (s : State) (typ : Nat) (body : List Byte) : (journal s typ body).images = s.images := by
  simp [journal]
@[simp] theorem journal_opsLow (s : State) (typ : Nat) (body : List Byte) : (journal s typ body).opsLow = s.opsLow := by
  simp [journal]
@[simp] theorem journal_out (s : State) (typ : Nat) (body : List Byte) : (journal s typ body).out = s.out := by
  simp [journal]
@[simp] theorem journal_free (s : State) (typ : Nat) (body : List Byte) : (journal s typ body).free = s.free := by
  simp [journal]

/-! ### logEventAs -/

@[simp] theorem logEventAs_pending (s : State) (code sev : Nat) (detail : List Nat) : (logEventAs s code sev detail).pending = s.pending := by
  unfold logEventAs; split <;> simp
@[simp] theorem logEventAs_variant (s : State) (code sev : Nat) (detail : List Nat) : (logEventAs s code sev detail).variant = s.variant := by
  unfold logEventAs; split <;> simp
@[simp] theorem logEventAs_raised (s : State) (code sev : Nat) (detail : List Nat) : (logEventAs s code sev detail).raised = s.raised := by
  unfold logEventAs; split <;> simp
@[simp] theorem logEventAs_clears (s : State) (code sev : Nat) (detail : List Nat) : (logEventAs s code sev detail).clears = s.clears := by
  unfold logEventAs; split <;> simp
@[simp] theorem logEventAs_cores (s : State) (code sev : Nat) (detail : List Nat) : (logEventAs s code sev detail).cores = s.cores := by
  unfold logEventAs; split <;> simp
@[simp] theorem logEventAs_snapshot (s : State) (code sev : Nat) (detail : List Nat) : (logEventAs s code sev detail).snapshot = s.snapshot := by
  unfold logEventAs; split <;> simp
@[simp] theorem logEventAs_grid (s : State) (code sev : Nat) (detail : List Nat) : (logEventAs s code sev detail).grid = s.grid := by
  unfold logEventAs; split <;> simp
@[simp] theorem logEventAs_mesh (s : State) (code sev : Nat) (detail : List Nat) : (logEventAs s code sev detail).mesh = s.mesh := by
  unfold logEventAs; split <;> simp
@[simp] theorem logEventAs_power (s : State) (code sev : Nat) (detail : List Nat) : (logEventAs s code sev detail).power = s.power := by
  unfold logEventAs; split <;> simp
@[simp] theorem logEventAs_stk (s : State) (code sev : Nat) (detail : List Nat) : (logEventAs s code sev detail).stk = s.stk := by
  unfold logEventAs; split <;> simp
@[simp] theorem logEventAs_streams (s : State) (code sev : Nat) (detail : List Nat) : (logEventAs s code sev detail).streams = s.streams := by
  unfold logEventAs; split <;> simp
@[simp] theorem logEventAs_update (s : State) (code sev : Nat) (detail : List Nat) : (logEventAs s code sev detail).update = s.update := by
  unfold logEventAs; split <;> simp
@[simp] theorem logEventAs_gates (s : State) (code sev : Nat) (detail : List Nat) : (logEventAs s code sev detail).gates = s.gates := by
  unfold logEventAs; split <;> simp
@[simp] theorem logEventAs_exch (s : State) (code sev : Nat) (detail : List Nat) : (logEventAs s code sev detail).exch = s.exch := by
  unfold logEventAs; split <;> simp
@[simp] theorem logEventAs_eth (s : State) (code sev : Nat) (detail : List Nat) : (logEventAs s code sev detail).eth = s.eth := by
  unfold logEventAs; split <;> simp
@[simp] theorem logEventAs_aelif (s : State) (code sev : Nat) (detail : List Nat) : (logEventAs s code sev detail).aelif = s.aelif := by
  unfold logEventAs; split <;> simp
@[simp] theorem logEventAs_host (s : State) (code sev : Nat) (detail : List Nat) : (logEventAs s code sev detail).host = s.host := by
  unfold logEventAs; split <;> simp
@[simp] theorem logEventAs_stp (s : State) (code sev : Nat) (detail : List Nat) : (logEventAs s code sev detail).stp = s.stp := by
  unfold logEventAs; split <;> simp
@[simp] theorem logEventAs_beat (s : State) (code sev : Nat) (detail : List Nat) : (logEventAs s code sev detail).beat = s.beat := by
  unfold logEventAs; split <;> simp
@[simp] theorem logEventAs_jobs (s : State) (code sev : Nat) (detail : List Nat) : (logEventAs s code sev detail).jobs = s.jobs := by
  unfold logEventAs; split <;> simp
@[simp] theorem logEventAs_pulls (s : State) (code sev : Nat) (detail : List Nat) : (logEventAs s code sev detail).pulls = s.pulls := by
  unfold logEventAs; split <;> simp
@[simp] theorem logEventAs_sec (s : State) (code sev : Nat) (detail : List Nat) : (logEventAs s code sev detail).sec = s.sec := by
  unfold logEventAs; split <;> simp
@[simp] theorem logEventAs_cvus (s : State) (code sev : Nat) (detail : List Nat) : (logEventAs s code sev detail).cvus = s.cvus := by
  unfold logEventAs; split <;> simp
@[simp] theorem logEventAs_mgmt (s : State) (code sev : Nat) (detail : List Nat) : (logEventAs s code sev detail).mgmt = s.mgmt := by
  unfold logEventAs; split <;> simp
@[simp] theorem logEventAs_placement (s : State) (code sev : Nat) (detail : List Nat) : (logEventAs s code sev detail).placement = s.placement := by
  unfold logEventAs; split <;> simp
@[simp] theorem logEventAs_images (s : State) (code sev : Nat) (detail : List Nat) : (logEventAs s code sev detail).images = s.images := by
  unfold logEventAs; split <;> simp
@[simp] theorem logEventAs_opsLow (s : State) (code sev : Nat) (detail : List Nat) : (logEventAs s code sev detail).opsLow = s.opsLow := by
  unfold logEventAs; split <;> simp
@[simp] theorem logEventAs_free (s : State) (code sev : Nat) (detail : List Nat) : (logEventAs s code sev detail).free = s.free := by
  unfold logEventAs; split <;> simp

/-! ### logEvent -/

@[simp] theorem logEvent_pending (s : State) (code : Nat) (detail : List Nat) : (logEvent s code detail).pending = s.pending := by
  simp [logEvent]
@[simp] theorem logEvent_variant (s : State) (code : Nat) (detail : List Nat) : (logEvent s code detail).variant = s.variant := by
  simp [logEvent]
@[simp] theorem logEvent_raised (s : State) (code : Nat) (detail : List Nat) : (logEvent s code detail).raised = s.raised := by
  simp [logEvent]
@[simp] theorem logEvent_clears (s : State) (code : Nat) (detail : List Nat) : (logEvent s code detail).clears = s.clears := by
  simp [logEvent]
@[simp] theorem logEvent_cores (s : State) (code : Nat) (detail : List Nat) : (logEvent s code detail).cores = s.cores := by
  simp [logEvent]
@[simp] theorem logEvent_snapshot (s : State) (code : Nat) (detail : List Nat) : (logEvent s code detail).snapshot = s.snapshot := by
  simp [logEvent]
@[simp] theorem logEvent_grid (s : State) (code : Nat) (detail : List Nat) : (logEvent s code detail).grid = s.grid := by
  simp [logEvent]
@[simp] theorem logEvent_mesh (s : State) (code : Nat) (detail : List Nat) : (logEvent s code detail).mesh = s.mesh := by
  simp [logEvent]
@[simp] theorem logEvent_power (s : State) (code : Nat) (detail : List Nat) : (logEvent s code detail).power = s.power := by
  simp [logEvent]
@[simp] theorem logEvent_stk (s : State) (code : Nat) (detail : List Nat) : (logEvent s code detail).stk = s.stk := by
  simp [logEvent]
@[simp] theorem logEvent_streams (s : State) (code : Nat) (detail : List Nat) : (logEvent s code detail).streams = s.streams := by
  simp [logEvent]
@[simp] theorem logEvent_update (s : State) (code : Nat) (detail : List Nat) : (logEvent s code detail).update = s.update := by
  simp [logEvent]
@[simp] theorem logEvent_gates (s : State) (code : Nat) (detail : List Nat) : (logEvent s code detail).gates = s.gates := by
  simp [logEvent]
@[simp] theorem logEvent_exch (s : State) (code : Nat) (detail : List Nat) : (logEvent s code detail).exch = s.exch := by
  simp [logEvent]
@[simp] theorem logEvent_eth (s : State) (code : Nat) (detail : List Nat) : (logEvent s code detail).eth = s.eth := by
  simp [logEvent]
@[simp] theorem logEvent_aelif (s : State) (code : Nat) (detail : List Nat) : (logEvent s code detail).aelif = s.aelif := by
  simp [logEvent]
@[simp] theorem logEvent_host (s : State) (code : Nat) (detail : List Nat) : (logEvent s code detail).host = s.host := by
  simp [logEvent]
@[simp] theorem logEvent_stp (s : State) (code : Nat) (detail : List Nat) : (logEvent s code detail).stp = s.stp := by
  simp [logEvent]
@[simp] theorem logEvent_beat (s : State) (code : Nat) (detail : List Nat) : (logEvent s code detail).beat = s.beat := by
  simp [logEvent]
@[simp] theorem logEvent_jobs (s : State) (code : Nat) (detail : List Nat) : (logEvent s code detail).jobs = s.jobs := by
  simp [logEvent]
@[simp] theorem logEvent_pulls (s : State) (code : Nat) (detail : List Nat) : (logEvent s code detail).pulls = s.pulls := by
  simp [logEvent]
@[simp] theorem logEvent_sec (s : State) (code : Nat) (detail : List Nat) : (logEvent s code detail).sec = s.sec := by
  simp [logEvent]
@[simp] theorem logEvent_cvus (s : State) (code : Nat) (detail : List Nat) : (logEvent s code detail).cvus = s.cvus := by
  simp [logEvent]
@[simp] theorem logEvent_mgmt (s : State) (code : Nat) (detail : List Nat) : (logEvent s code detail).mgmt = s.mgmt := by
  simp [logEvent]
@[simp] theorem logEvent_placement (s : State) (code : Nat) (detail : List Nat) : (logEvent s code detail).placement = s.placement := by
  simp [logEvent]
@[simp] theorem logEvent_images (s : State) (code : Nat) (detail : List Nat) : (logEvent s code detail).images = s.images := by
  simp [logEvent]
@[simp] theorem logEvent_opsLow (s : State) (code : Nat) (detail : List Nat) : (logEvent s code detail).opsLow = s.opsLow := by
  simp [logEvent]
@[simp] theorem logEvent_free (s : State) (code : Nat) (detail : List Nat) : (logEvent s code detail).free = s.free := by
  simp [logEvent]

/-! ### Objects -/

theorem getN_eq (s t : State) (k : Nat) (hv : t.variant = s.variant) (ho : t.objs = s.objs) : getN t k = getN s k := by
  simp only [getN, hv, ho]

@[simp] theorem getN_setN_same (s : State) (key v : Nat) : getN (setN s key v) key = v := by
  unfold setN
  split
  · assumption
  · simp [getN]

theorem getN_setN_other (s : State) (key v k : Nat) (h : k ≠ key) : getN (setN s key v) k = getN s k := by
  unfold setN
  split
  · rfl
  · simp only [getN]
    unfold amPut
    split
    · exact amGet_del_other _ _ _ _ h
    · exact amGet_ins_other _ _ _ _ _ h

@[simp] theorem getN_addN_same (s : State) (key w n : Nat) : getN (addN s key w n) key = satAdd w (getN s key) n := getN_setN_same _ _ _

theorem getN_addN_other (s : State) (key w n k : Nat) (h : k ≠ key) : getN (addN s key w n) k = getN s k := getN_setN_other _ _ _ _ h

@[simp] theorem getN_count64_same (s : State) (key : Nat) : getN (count64 s key) key = satAdd 64 (getN s key) 1 := getN_setN_same _ _ _

theorem getN_count64_other (s : State) (key k : Nat) (h : k ≠ key) : getN (count64 s key) k = getN s k := getN_setN_other _ _ _ _ h

@[simp] theorem getN_raiseNow_same (s : State) (key b : Nat) : getN (raiseNow s key b) key = getN s key ||| 2 ^ b := by
  rw [raiseNow, getN_addN_other _ _ _ _ _ (by omega), getN_setN_same]

theorem getN_raiseNow_counter (s : State) (key b : Nat) : getN (raiseNow s key b) (key + 1 + b) = satAdd 16 (getN s (key + 1 + b)) 1 := by
  rw [raiseNow, getN_addN_same, getN_setN_other _ _ _ _ (by omega)]

theorem getN_raiseNow_other (s : State) (key b k : Nat) (h : k ≠ key) (h' : k ≠ key + 1 + b) : getN (raiseNow s key b) k = getN s k := by
  rw [raiseNow, getN_addN_other _ _ _ _ _ h', getN_setN_other _ _ _ _ h]

@[simp] theorem getN_setDom (s : State) (key : Nat) (bs : List Byte) (k : Nat) : getN (setDom s key bs) k = getN s k := getN_eq _ _ _ (by simp) (by simp)
@[simp] theorem getN_emit (s : State) (o : Out) (k : Nat) : getN (emit s o) k = getN s k := getN_eq _ _ _ (by simp) (by simp)
@[simp] theorem getN_setCore (s : State) (id : CoreId) (v : Core) (k : Nat) : getN (setCore s id v) k = getN s k := getN_eq _ _ _ (by simp) (by simp)
@[simp] theorem getN_mapCores (s : State) (f : CoreId → Core → Core) (k : Nat) : getN (mapCores s f) k = getN s k := getN_eq _ _ _ (by simp) (by simp)
@[simp] theorem getN_raise (s : State) (key b : Nat) (k : Nat) : getN (raise s key b) k = getN s k := getN_eq _ _ _ (by simp) (by simp)
@[simp] theorem getN_touch (s : State) (key : Nat) (k : Nat) : getN (touch s key) k = getN s k := getN_eq _ _ _ (by simp) (by simp)
@[simp] theorem getN_setField (s : State) (f : Nat) (r : FieldRec) (k : Nat) : getN (setField s f r) k = getN s k := getN_eq _ _ _ (by simp) (by simp)

theorem getN_journal_other (s : State) (typ : Nat) (body : List Byte) (k : Nat) (h : k ≠ Key.journalRecordSeq) (h' : k ≠ Key.journalBytesWritten) :
    getN (journal s typ body) k = getN s k := by
  show getN (addN (setN _ _ _) _ _ _) k = _
  rw [getN_addN_other _ _ _ _ _ h', getN_setN_other _ _ _ _ h]

theorem getN_logEventAs_other (s : State) (code sev : Nat) (detail : List Nat) (k : Nat) (h : k ≠ Key.eventSeq) :
    getN (logEventAs s code sev detail) k = getN s k := by
  have h1 : ∀ n bs, getN (setDom (setN s Key.eventSeq n) Key.eventsBySeverity bs) k = getN s k := by
    intro n bs
    rw [getN_setDom, getN_setN_other _ _ _ _ h]
  unfold logEventAs
  split
  · rw [getN_emit, getN_setDom]; exact h1 _ _
  · rw [getN_setDom]; exact h1 _ _

theorem getN_logEvent_other (s : State) (code : Nat) (detail : List Nat) (k : Nat) (h : k ≠ Key.eventSeq) :
    getN (logEvent s code detail) k = getN s k := getN_logEventAs_other _ _ _ _ _ h

/-! ### DOMAIN objects -/

@[simp] theorem getDom_setDom_same (s : State) (key : Nat) (bs : List Byte) : getDom (setDom s key bs) key = bs := by
  unfold setDom
  split
  · assumption
  · simp [getDom]

theorem getDom_setDom_other (s : State) (key : Nat) (bs : List Byte) (k : Nat) (h : k ≠ key) : getDom (setDom s key bs) k = getDom s k := by
  unfold setDom
  split
  · rfl
  · simp [getDom, amGet_ins_other _ _ _ _ _ h]

theorem getDom_eq (s t : State) (k : Nat) (h : t.doms = s.doms) : getDom t k = getDom s k := by simp only [getDom, h]

@[simp] theorem getDom_setN (s : State) (key v : Nat) (k : Nat) : getDom (setN s key v) k = getDom s k := getDom_eq _ _ _ (by simp)
@[simp] theorem getDom_emit (s : State) (o : Out) (k : Nat) : getDom (emit s o) k = getDom s k := getDom_eq _ _ _ (by simp)
@[simp] theorem getDom_setCore (s : State) (id : CoreId) (v : Core) (k : Nat) : getDom (setCore s id v) k = getDom s k := getDom_eq _ _ _ (by simp)
@[simp] theorem getDom_mapCores (s : State) (f : CoreId → Core → Core) (k : Nat) : getDom (mapCores s f) k = getDom s k := getDom_eq _ _ _ (by simp)
@[simp] theorem getDom_raise (s : State) (key b : Nat) (k : Nat) : getDom (raise s key b) k = getDom s k := getDom_eq _ _ _ (by simp)
@[simp] theorem getDom_touch (s : State) (key : Nat) (k : Nat) : getDom (touch s key) k = getDom s k := getDom_eq _ _ _ (by simp)
@[simp] theorem getDom_setField (s : State) (f : Nat) (r : FieldRec) (k : Nat) : getDom (setField s f r) k = getDom s k := getDom_eq _ _ _ (by simp)
@[simp] theorem getDom_addN (s : State) (key w n : Nat) (k : Nat) : getDom (addN s key w n) k = getDom s k := getDom_eq _ _ _ (by simp)
@[simp] theorem getDom_count64 (s : State) (key : Nat) (k : Nat) : getDom (count64 s key) k = getDom s k := getDom_eq _ _ _ (by simp)
@[simp] theorem getDom_raiseNow (s : State) (key b : Nat) (k : Nat) : getDom (raiseNow s key b) k = getDom s k := getDom_eq _ _ _ (by simp)
@[simp] theorem getDom_journal (s : State) (typ : Nat) (body : List Byte) (k : Nat) : getDom (journal s typ body) k = getDom s k := getDom_eq _ _ _ (by simp)

/-! ### Cores -/

theorem getCore_eq (s t : State) (k : CoreId) (h : t.cores = s.cores) : getCore t k = getCore s k := by simp only [getCore, h]

@[simp] theorem getCore_setCore_same (s : State) (k : CoreId) (v : Core) : getCore (setCore s k v) k = v := by
  simp [getCore, setCore]

theorem getCore_setCore_other (s : State) (k j : CoreId) (v : Core) (h : coreKey j ≠ coreKey k) : getCore (setCore s k v) j = getCore s j := by
  simp [getCore, setCore, amGet_ins_other _ _ _ _ _ h]

theorem coreKey_inj {j k : CoreId} (hj : j.col < 320) (hk : k.col < 320) (h : coreKey j = coreKey k) : j = k := by
  cases j; cases k
  simp only [coreKey] at *
  congr 1 <;> omega

@[simp] theorem getCore_setN (s : State) (key v : Nat) (k : CoreId) : getCore (setN s key v) k = getCore s k := getCore_eq _ _ _ (by simp)
@[simp] theorem getCore_setDom (s : State) (key : Nat) (bs : List Byte) (k : CoreId) : getCore (setDom s key bs) k = getCore s k := getCore_eq _ _ _ (by simp)
@[simp] theorem getCore_emit (s : State) (o : Out) (k : CoreId) : getCore (emit s o) k = getCore s k := getCore_eq _ _ _ (by simp)
@[simp] theorem getCore_raise (s : State) (key b : Nat) (k : CoreId) : getCore (raise s key b) k = getCore s k := getCore_eq _ _ _ (by simp)
@[simp] theorem getCore_touch (s : State) (key : Nat) (k : CoreId) : getCore (touch s key) k = getCore s k := getCore_eq _ _ _ (by simp)
@[simp] theorem getCore_setField (s : State) (f : Nat) (r : FieldRec) (k : CoreId) : getCore (setField s f r) k = getCore s k := getCore_eq _ _ _ (by simp)
@[simp] theorem getCore_addN (s : State) (key w n : Nat) (k : CoreId) : getCore (addN s key w n) k = getCore s k := getCore_eq _ _ _ (by simp)
@[simp] theorem getCore_count64 (s : State) (key : Nat) (k : CoreId) : getCore (count64 s key) k = getCore s k := getCore_eq _ _ _ (by simp)
@[simp] theorem getCore_raiseNow (s : State) (key b : Nat) (k : CoreId) : getCore (raiseNow s key b) k = getCore s k := getCore_eq _ _ _ (by simp)
@[simp] theorem getCore_journal (s : State) (typ : Nat) (body : List Byte) (k : CoreId) : getCore (journal s typ body) k = getCore s k := getCore_eq _ _ _ (by simp)
@[simp] theorem getCore_logEventAs (s : State) (code sev : Nat) (detail : List Nat) (k : CoreId) : getCore (logEventAs s code sev detail) k = getCore s k := getCore_eq _ _ _ (by simp)
@[simp] theorem getCore_logEvent (s : State) (code : Nat) (detail : List Nat) (k : CoreId) : getCore (logEvent s code detail) k = getCore s k := getCore_eq _ _ _ (by simp)

/-! ### Field records -/

@[simp] theorem getField_setField_same (s : State) (f : Nat) (r : FieldRec) : getField (setField s f r) f = r := by
  simp [getField, setField]

theorem getField_setField_other (s : State) (f g : Nat) (r : FieldRec) (h : g ≠ f) : getField (setField s f r) g = getField s g := by
  simp [getField, setField, amGet_ins_other _ _ _ _ _ h]

/-! ### Numbers in the grid -/

@[simp] theorem beatNow_setDom (s : State) (key : Nat) (bs : List Byte) : beatNow (setDom s key bs) = beatNow s := by simp [beatNow]
@[simp] theorem beatNow_emit (s : State) (o : Out) : beatNow (emit s o) = beatNow s := by simp [beatNow]
@[simp] theorem beatNow_setCore (s : State) (id : CoreId) (v : Core) : beatNow (setCore s id v) = beatNow s := by simp [beatNow]
@[simp] theorem beatNow_mapCores (s : State) (f : CoreId → Core → Core) : beatNow (mapCores s f) = beatNow s := by simp [beatNow]
@[simp] theorem beatNow_raise (s : State) (key b : Nat) : beatNow (raise s key b) = beatNow s := by simp [beatNow]
@[simp] theorem beatNow_touch (s : State) (key : Nat) : beatNow (touch s key) = beatNow s := by simp [beatNow]
@[simp] theorem beatNow_setField (s : State) (f : Nat) (r : FieldRec) : beatNow (setField s f r) = beatNow s := by simp [beatNow]

end Sys2Proof.Machine
end

