-- ==== Sys2Proof/Laws/Tile.lean ====
section
/-! SUPPORT. What the issue of a tile instruction does, said once: an instruction that issues gives what its body answers. -/

namespace Sys2Proof.Machine

/-- The issue of an instruction that its core takes, with no SRAM error, no exception of the fetch, and its word at the program counter. -/
theorem tileIssue_of {s : State} {i : Issue} {word : Nat} {mine : Wait → Bool} {body : Core → State → TOut} (hg : inGrid s i.core = true)
    (ht : takesIssue (getCore s i.core) mine = true) (he : i.errs = []) (hf : fetchExc (issueCore s i) = none)
    (hw : spells (fetchWord (issueCore s i)) word = true) :
    tileIssue i word mine body s = match body (issueCore s i) s with
      | .exc code => takeException s i.core (issueCore s i) code (issueCore s i).pc 0 []
      | .hold => s
      | .wait s2 c2 w => setCore s2 i.core { c2 with st := .waiting, wait := some w }
      | .done s2 c2 pc => setCore s2 i.core { c2 with st := .running, wait := none, pc := pc }
      | .halt s2 c2 => setCore s2 i.core { c2 with st := .halted, wait := none, pc := (issueCore s i).pc + 1 }
      | .late s2 c2 code report => takeException s2 i.core c2 code ((issueCore s i).pc + 1) (issueCore s i).pc report := by
  unfold tileIssue
  simp only [hg, ht, he, Bool.and_self, if_true, List.foldl_nil]
  have hf' := hf
  have hw' := hw
  unfold issueCore at hf' hw'
  rw [hf']
  simp only [hw']
  rfl

/-- An instruction whose word stands at the program counter. -/
theorem Stands.spells {s : State} {i : Issue} {o : Instr} {w : Nat} (h : Stands s i o) (e : instrWord o = some w) :
    spells (fetchWord (issueCore s i)) w = true := by
  obtain ⟨v, hv, h⟩ := h
  rw [e] at hv
  exact Option.some.inj hv ▸ h

theorem takesIssue_running {c : Core} {mine : Wait → Bool} (h : c.st = .running) : takesIssue c mine = true := by
  simp [takesIssue, h]

/-- An instruction that issues and completes. -/
theorem tileIssue_done {s : State} {i : Issue} {word : Nat} {mine : Wait → Bool} {body : Core → State → TOut} (h : Issues s i)
    (hw : spells (fetchWord (issueCore s i)) word = true) {s2 : State} {c2 : Core} {pc : Nat}
    (hb : body (issueCore s i) s = .done s2 c2 pc) : tileIssue i word mine body s = completed s2 i c2 pc := by
  rw [tileIssue_of h.inGrid (takesIssue_running h.running) h.clean h.fetch hw, hb]
  rfl

theorem tileIssue_next {s : State} {i : Issue} {word : Nat} {mine : Wait → Bool} {body : Core → State → TOut} (h : Issues s i)
    (hw : spells (fetchWord (issueCore s i)) word = true) {s2 : State} {c2 : Core} {pc : Nat}
    (hb : body (issueCore s i) s = .done s2 c2 pc) :
    (Host.Outcome.next (tileIssue i word mine body s) : Host.Outcome State Fault Refusal) = .next (completed s2 i c2 pc) := by
  rw [tileIssue_done h hw hb]

/-- An instruction that issues and raises an exception. -/
theorem tileIssue_exc {s : State} {i : Issue} {word : Nat} {mine : Wait → Bool} {body : Core → State → TOut} (h : Issues s i)
    (hw : spells (fetchWord (issueCore s i)) word = true) {code : Nat} (hb : body (issueCore s i) s = .exc code) :
    tileIssue i word mine body s = takeException s i.core (issueCore s i) code (issueCore s i).pc 0 [] := by
  rw [tileIssue_of h.inGrid (takesIssue_running h.running) h.clean h.fetch hw, hb]

/-- A command whose core does not take it changes nothing. -/
theorem tileIssue_not {s : State} {i : Issue} {word : Nat} {mine : Wait → Bool} {body : Core → State → TOut}
    (h : (inGrid s i.core && takesIssue (getCore s i.core) mine) = false) : tileIssue i word mine body s = s := by
  unfold tileIssue
  rw [if_neg (by simp only [h]; decide)]

@[simp] theorem xset_pc (c : Core) (n : BitVec 5) (v : W32) : (xset c n v).pc = c.pc := by unfold xset; split <;> rfl
@[simp] theorem xset_sram (c : Core) (n : BitVec 5) (v : W32) : (xset c n v).sram = c.sram := by unfold xset; split <;> rfl
@[simp] theorem xset_acc (c : Core) (n : BitVec 5) (v : W32) : (xset c n v).acc = c.acc := by unfold xset; split <;> rfl
@[simp] theorem xset_stg (c : Core) (n : BitVec 5) (v : W32) : (xset c n v).stg = c.stg := by unfold xset; split <;> rfl
@[simp] theorem xset_ag (c : Core) (n : BitVec 5) (v : W32) : (xset c n v).ag = c.ag := by unfold xset; split <;> rfl
@[simp] theorem xget_zero (c : Core) : xget c 0 = 0 := rfl
@[simp] theorem xset_zero (c : Core) (v : W32) : xset c 0 v = c := rfl

theorem xget_xset_same (c : Core) (n : BitVec 5) (v : W32) (h : n ≠ 0) : xget (xset c n v) n = v := by
  unfold xget xset
  rw [if_neg h, if_neg h]
  exact Vector.getElem_set_self _

theorem xget_xset_other (c : Core) (n m : BitVec 5) (v : W32) (h : m ≠ n) : xget (xset c n v) m = xget c m := by
  unfold xget xset
  split
  · rfl
  · split
    · rfl
    · exact Vector.getElem_set_ne n.isLt m.isLt (fun e => h (BitVec.eq_of_toNat_eq e).symm)

@[simp] theorem agTake_fst (c : Core) (n : BitVec 3) (post : Bool) : (agTake c n post).1 = (agGet c n).cursor.toNat := rfl
@[simp] theorem agTake_pc (c : Core) (n : BitVec 3) (post : Bool) : (agTake c n post).2.pc = c.pc := rfl
@[simp] theorem agTake_x (c : Core) (n : BitVec 3) (post : Bool) : (agTake c n post).2.x = c.x := rfl
@[simp] theorem agTake_sram (c : Core) (n : BitVec 3) (post : Bool) : (agTake c n post).2.sram = c.sram := rfl
@[simp] theorem agTake_poisonLines (c : Core) (n : BitVec 3) (post : Bool) : (agTake c n post).2.poisonLines = c.poisonLines := rfl
@[simp] theorem agTake_stg (c : Core) (n : BitVec 3) (post : Bool) : (agTake c n post).2.stg = c.stg := rfl
@[simp] theorem agTake_acc (c : Core) (n : BitVec 3) (post : Bool) : (agTake c n post).2.acc = c.acc := rfl
@[simp] theorem consume_pc (c : Core) (p : Bool) : (consume c p).pc = c.pc := by unfold consume; split <;> rfl
@[simp] theorem consume_x (c : Core) (p : Bool) : (consume c p).x = c.x := by unfold consume; split <;> rfl
@[simp] theorem consume_sram (c : Core) (p : Bool) : (consume c p).sram = c.sram := by unfold consume; split <;> rfl
@[simp] theorem consume_stg (c : Core) (p : Bool) : (consume c p).stg = c.stg := by unfold consume; split <;> rfl
@[simp] theorem consume_acc (c : Core) (p : Bool) : (consume c p).acc = c.acc := by unfold consume; split <;> rfl
@[simp] theorem sramWrite_pc (c : Core) (a : Nat) (bs : List Byte) (p : Bool) : (sramWrite c a bs p).pc = c.pc := rfl
@[simp] theorem sramWrite_x (c : Core) (a : Nat) (bs : List Byte) (p : Bool) : (sramWrite c a bs p).x = c.x := rfl
@[simp] theorem sramWrite_sram (c : Core) (a : Nat) (bs : List Byte) (p : Bool) : (sramWrite c a bs p).sram = memStore c.sram a bs := rfl
@[simp] theorem stgFill_pc (c : Core) (k : Nat) (b : List Byte) (p : List Bool) (t : List Byte) : (stgFill c k b p t).pc = c.pc := rfl
@[simp] theorem stgFill_sram (c : Core) (k : Nat) (b : List Byte) (p : List Bool) (t : List Byte) : (stgFill c k b p t).sram = c.sram := rfl
@[simp] theorem ringAdvance_pc (c : Core) (r n : Nat) : (ringAdvance c r n).pc = c.pc := rfl

/-- An accumulator tile reads back. -/
@[simp] theorem accGet_accPut_same (c : Core) (n : BitVec 2) (t : AccTile) : accGet (accPut c n t) n = t := by
  simp [accGet, accPut]

theorem unlessExc_of {conds : List (Bool × Nat)} {k : TOut} (h : firstExc conds = none) : unlessExc conds k = k := by
  unfold unlessExc
  rw [h]

/-- No condition holds. -/
theorem firstExc_none {conds : List (Bool × Nat)} (h : ∀ e ∈ conds, e.1 = false) : firstExc conds = none := by
  induction conds with
  | nil => rfl
  | cons e es ih =>
    unfold firstExc
    rw [h e (List.mem_cons_self ..), if_neg (by decide)]
    exact ih (fun d hd => h d (List.mem_cons_of_mem _ hd))

end Sys2Proof.Machine
end

