-- ==== Sys2Proof/WellFormed.lean ====
section
/-! DEFINITION. Well-formedness: the operands that the engine's surroundings can supply, by the ranges that the manual gives them. -/

namespace Sys2Proof

/-- A number below a bound. -/
def lt (n v : Nat) : Bool := decide (v < n)

/-- A logical core: 320 columns and 288 rows (00_scope.md). -/
def CoreId.wf (c : CoreId) : Bool := lt 320 c.col && lt 288 c.row

/-- A physical core: 330 columns and 288 rows (R25). -/
def PhysId.wf (p : PhysId) : Bool := lt 330 p.col && lt 288 p.row

/-- A flit holds 64 bytes (R52). -/
def Flit.wf (f : Flit) : Bool := f.data.length == 64

/-- A packet holds 1 to 64 flits (R52). -/
def Packet.wf (p : Packet) : Bool := lt 65 p.flits.length && !p.flits.isEmpty && p.flits.all Flit.wf

/-- A core's SRAM holds 65,536 words of 64 bits (R78). -/
def SramErr.wf (e : SramErr) : Bool := lt 65536 e.word

/-- What surrounds an instruction's issue. -/
def Issue.wf (i : Issue) : Bool := i.core.wf && i.errs.all SramErr.wf

/-- An update unit has 64 program engines (R230). -/
def EngId.wf (e : EngId) : Bool := lt 16 e.unit && lt 64 e.eng

/-- A value of at most 64 bits. -/
def WReq.wf (w : WReq) : Bool := lt (2 ^ 64) w.val

/-- A DOMAIN value of at most 2^32 - 1 bytes (R430). -/
def DReq.wf (w : DReq) : Bool := lt (2 ^ 32) w.bytes.length

/-- An operation's fields fit its header (R425). -/
def POp.wf : POp → Bool
  | .read idx sub txn _ length offset change => lt 65536 idx && lt 256 sub && lt (2 ^ 32) txn && lt 65536 length && lt (2 ^ 32) offset && lt (2 ^ 64) change
  | .write idx sub txn offset data => lt 65536 idx && lt 256 sub && lt (2 ^ 32) txn && lt (2 ^ 32) offset && lt 65536 data.length
  | .begin_ => true
  | .commit txn => lt (2 ^ 32) txn
  | .rollback txn => lt (2 ^ 32) txn
  | .describe idx sub => lt 65536 idx && lt 256 sub

/-- A frame's fields fit its header (R419). -/
def PFrame.wf (f : PFrame) : Bool :=
  lt 256 f.kind && lt 256 f.role && lt (2 ^ 32) f.engine && lt (2 ^ 32) f.session && lt (2 ^ 32) f.epoch && lt (2 ^ 32) f.frameSeq &&
    f.ops.all POp.wf && f.mac.length == 16

/-- An exchange message's fields fit its header (R271). -/
def XMsg.wf (m : XMsg) : Bool :=
  lt 256 m.typ && lt 256 m.method && lt 256 m.kcode && lt (2 ^ 18) m.source && lt (2 ^ 64) m.step && lt 4096 m.group && lt 65536 m.rank &&
    lt (2 ^ 32) m.firstBlock && lt (2 ^ 32) m.blockCount

/-- A datagram's fields fit its header (R355). -/
def Datagram.wf (d : Datagram) : Bool :=
  lt 256 d.version && lt 256 d.kind && lt (2 ^ 18) d.source && lt (2 ^ 18) d.dest && lt (2 ^ 32) d.epoch && lt (2 ^ 32) d.msgSeq &&
    lt 65536 d.segment && lt 65536 d.segments

/-- A frame's header fields, at most 32 payload flits, and the report of the FEC on the codewords that it spans, at most five (R328). -/
def AFrame.wf (f : AFrame) : Bool :=
  lt 16 f.destX && lt 16 f.destY && lt 4096 f.landing && lt 6 (f.fec + f.fecBad) && lt 33 f.flits.length && f.flits.all Flit.wf

/-- A ring entry holds 64 bytes (R364). -/
def TicketEnv.wf (t : TicketEnv) : Bool := t.bytes.length == 64

/-- Lines of the 41-bit data space (R289). -/
def StackErrs.wf (e : StackErrs) : Bool := e.corrected.all (lt (2 ^ 35)) && e.uncorrected.all (lt (2 ^ 35))

/-- A crescent and an endpoint of it (R58). -/
def Endpoint.wf (e : Endpoint) : Bool := lt 4 e.crescent && lt 256 e.number

/-- A flit's codewords correct at most two errors that count (R53). -/
def WireErr.wf (x : WireErr) : Bool := lt 3 x.corrected

/-- The errors of a forwarded flit, by output. -/
def WireFlit.wf (x : WireFlit) : Bool := x.here.wf && x.others.all (fun y => lt 5 y.1 && y.2.wf)

/-- A core's SRAM errors, by core. -/
def sramMet (l : List (CoreId × List SramErr)) : Bool := l.all (fun e => e.1.wf && e.2.all SramErr.wf)

/-- Temperatures of 16 bits (R467). -/
def BoundaryEnv.wf (e : BoundaryEnv) : Bool :=
  lt (2 ^ 64) e.ptpTimeNs && e.stackErrs.wf && sramMet e.sramErrs && e.progress.all (fun p => lt 5 p.1) && decide (-32768 ≤ e.coolantIn) && decide (e.coolantIn < 32768) && decide (-32768 ≤ e.coolantOut) &&
    decide (e.coolantOut < 32768)

/-- A block number of a group. -/
def BlockData.wf (b : BlockData) : Bool := lt (2 ^ 32) b.block

/-- A status code (R428). -/
def JobOutcome.wf (o : JobOutcome) : Bool := lt 21 o.status

/-- Units 0 to 3 of each management core. -/
def MgmtEnv.wf (e : MgmtEnv) : Bool := e.cvuFailed.all (lt 8)

/-- Fields and physical cores of the wafer. -/
def ClocksEnv.wf (e : ClocksEnv) : Bool := e.controllerFails.all (lt 90) && e.testFails.all PhysId.wf && e.microcodeFails.all PhysId.wf

/-- Stacks and crescent units. -/
def MemEnv.wf (e : MemEnv) : Bool := e.trainFails.all (lt 16) && e.cvuFailed.all (lt 48)

/-- A field's report. -/
def RegReport.wf (r : RegReport) : Bool := lt 90 r.field

/-- A unit of R530. -/
def CvuId.wf : CvuId → Bool
  | .mc core unit => lt 2 core && lt 4 unit
  | .se n => lt 32 n
  | .uu n => lt 16 n

/-- A firmware header holds 256 bytes (R519). -/
def FwImage.wf (i : FwImage) : Bool := i.header.length == 256

/-- Whether a command's operands lie in the ranges that the manual gives them. -/
def Instr.wf : Instr → Bool
  | .nop i => i.wf
  | .halt i => i.wf
  | .loop i _ _ => i.wf
  | .lset i _ _ _ _ => i.wf
  | .br i _ _ _ _ => i.wf
  | .waitb i _ _ _ => i.wf
  | .wp i _ _ => i.wf
  | .syncInit i _ _ _ _ => i.wf
  | .syncWait i _ _ _ => i.wf
  | .xli i _ _ => i.wf
  | .xop i _ _ _ _ _ _ => i.wf
  | .agset i _ _ _ _ _ => i.wf
  | .lda i _ _ _ _ _ _ _ _ => i.wf
  | .ldat i _ _ _ _ _ _ _ => i.wf
  | .stv i _ _ _ _ => i.wf
  | .send i _ _ _ _ _ _ _ => i.wf
  | .recv i _ _ _ _ _ => i.wf
  | .mcjoin i _ _ _ => i.wf
  | .mma i _ _ => i.wf
  | .mmas i _ _ _ _ => i.wf
  | .mmax i _ _ _ => i.wf
  | .accz i _ => i.wf
  | .accout i _ _ _ _ _ => i.wf
  | .vop i _ _ _ _ _ _ _ _ _ => i.wf
  | .vred i _ _ _ _ _ _ => i.wf
  | .vcvt i _ => i.wf
  | .index24 i _ _ => i.wf
  | .zeroMap i _ _ _ => i.wf
  | .rngk i _ _ _ _ _ _ _ _ => i.wf
  | .rngf i _ _ _ _ => i.wf
  | .chk i _ _ _ _ _ _ _ => i.wf
  | .flg i _ _ _ => i.wf
  | .updateNop e => e.wf
  | .updEnd e => e.val.wf && e.errs.wf
  | .phase e => e.wf
  | .ld e _ _ => e.val.wf && e.errs.wf
  | .st e _ _ _ _ => e.wf
  | .fadd e _ => e.wf
  | .fsub e _ => e.wf
  | .fmul e _ => e.wf
  | .fma e _ => e.wf
  | .fmin e _ => e.wf
  | .fmax e _ => e.wf
  | .fabs e _ _ => e.wf
  | .fneg e _ _ => e.wf
  | .fsgn e _ _ => e.wf
  | .cmplt e _ => e.wf
  | .cmple e _ => e.wf
  | .sel e _ => e.wf
  | .rcp e _ _ => e.wf
  | .rsqrt e _ _ => e.wf
  | .div e _ => e.wf
  | .sqrt e _ _ => e.wf
  | .exp2 e _ _ => e.wf
  | .log2 e _ _ => e.wf
  | .rsum e _ _ => e.wf
  | .rssq e _ _ => e.wf
  | .rmax e _ _ => e.wf
  | .sbc e _ _ => e.wf
  | .updateWorkItem e => e.val.wf && e.errs.wf
  | .accumulationPass unit group block => lt 16 unit && lt 4096 group && lt (2 ^ 32) block.val && block.errs.wf
  | .slowSweep group => lt 4096 group
  | .beatBoundary env => env.wf
  | .fieldShutDrainEnd field => lt 90 field
  | .wakeProceed field => lt 90 field
  | .wakeDeferLimitExpiry field => lt 90 field
  | .hostLeaseExpired => true
  | .txnExpired handle => lt (2 ^ 32) handle
  | .syncTimeout core => core.wf
  | .subTail _ => true
  | .ticketRead t => t.wf
  | .acceptanceTokenWrite => true
  | .accHead _ => true
  | .release _ => true
  | .ringBaseWrite _ _ => true
  | .mailboxDoorbell _ frame => lt 4097 frame.length
  | .pcieLinkReset => true
  | .microbatchForwardStart seq => lt (2 ^ 64) seq
  | .backwardStart seq => lt (2 ^ 64) seq
  | .evaluationComplete acceptId => lt (2 ^ 64) acceptId
  | .partialReceive ep source flits => ep.wf && source.wf && flits.val.all Flit.wf && flits.errs.wf
  | .runningSumApply gate group block seq => lt 32 gate && lt 4096 group && lt (2 ^ 32) block && lt (2 ^ 64) seq.val && seq.errs.wf
  | .settle group seq => lt 4096 group && lt (2 ^ 64) seq.val && seq.errs.wf
  | .settleWaitExpiry gate seq => lt 32 gate && lt (2 ^ 64) seq
  | .contribReceive m => m.val.wf && m.errs.wf
  | .gatherReceive m => m.wf
  | .fingerprintReceive m => m.wf
  | .peerLate group => lt 4096 group
  | .excuse w => w.val.wf && w.errs.wf
  | .override w => w.wf
  | .setCompression w => w.wf
  | .keySlotWrite _ _ w => w.wf
  | .constantSetWrite _ k w => lt 12 k && w.wf
  | .datagramData d => d.val.datagram.wf && d.errs.wf
  | .datagramAck d => d.datagram.wf
  | .datagramEncap d => d.datagram.wf
  | .transportMessageSend dest _ => lt 262144 dest
  | .ackDelayExpiry source _ => lt 262144 source
  | .retxTimeout dest _ => lt 262144 dest
  | .epPortUp _ => true
  | .epPortDown _ => true
  | .epEnable _ w => w.wf
  | .dataFrameReceive port f => lt 48 port && f.wf
  | .controlFrameReceive port f => lt 48 port && f.wf
  | .signpostReceive port f => lt 48 port && f.wf
  | .signpostSend port => lt 48 port
  | .aelifReplayTimeout port => lt 48 port
  | .lossOfLock port => lt 48 port
  | .portTrained port _ => lt 48 port
  | .portDown port _ => lt 48 port
  | .neighbourAbsent _ => true
  | .tick port _ _ _ _ => lt 48 port
  | .tickLost => true
  | .ptpLost => true
  | .stretchRequest port => lt 48 port
  | .linkPlan w => w.wf
  | .portEnable port w => lt 48 port && w.wf
  | .substituteTable w => w.wf
  | .pullEndpointRequest requester group block => lt 262144 requester && lt 4096 group && lt (2 ^ 32) block.val && block.errs.wf
  | .pullBlockReceive group b => lt 4096 group && b.val.wf && b.errs.wf
  | .reshardBlockReceive group b => lt 4096 group && b.val.wf && b.errs.wf
  | .arm se w => lt 32 se && w.wf
  | .armPacket ep p => ep.wf && p.wf
  | .cancel se w => lt 32 se && w.wf
  | .stackGrant stack _ errs => lt 16 stack && errs.wf
  | .descriptorComplete se queue => lt 32 se && lt 32 queue
  | .inboundPacket crescent endpoint p => lt 4 crescent && lt 256 endpoint && p.val.wf
  | .mapPacketReceive ep p => ep.wf && p.wf
  | .trimmedTileSend se queue _ errs => lt 32 se && lt 32 queue && errs.wf
  | .mapWaitExpiry se queue errs => lt 32 se && lt 32 queue && errs.wf
  | .stackScrub stack errs => lt 16 stack && errs.wf
  | .scrubRowRead core _ errs => core.wf && errs.all SramErr.wf
  | .sramCorrectedWriteback core word => core.wf && lt 65536 word
  | .ringDelivery core _ => core.wf
  | .packetRoute at_ out _ wire => at_.wf && lt 9 out && wire.wf
  | .heartbeatPulse p _ _ => p.wf
  | .coreSilent p => p.wf
  | .coreDead p _ => p.wf
  | .detour p => p.val.wf && sramMet p.errs
  | .microbatchReplay => true
  | .coreExceptionReport core => core.val.wf && sramMet core.errs
  | .coreSuspend core => core.wf
  | .coreResume core => core.val.wf && core.errs.all SramErr.wf
  | .syncArrival root _ _ word => root.wf && word.errs.all SramErr.wf
  | .syncRelease core _ epoch => core.wf && epoch.errs.all SramErr.wf
  | .waypointReport _ core step => core.wf && lt (2 ^ 64) step
  | .inputSample _ _ => true
  | .powerFail => true
  | .inputRise => true
  | .regulatorStatusReport r => r.wf
  | .regulatorReportMissed field => lt 90 field
  | .phaseFailed field _ => lt 90 field
  | .crackSuspect field sensor => lt 90 field && lt 64 sensor
  | .thermalSample field readings => lt 90 field && readings.length == 16
  | .unparkHoldExpiry field => lt 90 field
  | .parkRequest w => w.wf
  | .wakeRequest w => w.wf
  | .vcoreMv w => w.wf
  | .clockHalfWrite _ w => w.wf
  | .sscWrite _ _ w => w.wf
  | .clkoutWrite _ _ w => w.wf
  | .clockEnableWrite _ w => w.wf
  | .beatPeriodUs w => w.wf
  | .hostLease w => w.wf
  | .hostLeaseBeats w => w.wf
  | .refSourceLoss code => lt 256 code
  | .refEligible code => lt 256 code
  | .holdoverExpiry => true
  | .parealoOpen f => f.wf
  | .parealoClose f => f.wf
  | .sessionExpired session => lt (2 ^ 32) session
  | .parealoRead f k => f.wf && lt 64 k
  | .parealoWrite f k => f.wf && lt 64 k
  | .parealoBegin f k => f.wf && lt 64 k
  | .commitOp f k => f.wf && lt 64 k
  | .parealoRollback f k => f.wf && lt 64 k
  | .describe f k => f.wf && lt 64 k
  | .w1cFlagClear idx sub w => lt 65536 idx && lt 256 sub && w.wf
  | .captureEmpty idx sub w => lt 65536 idx && lt 256 sub && w.wf
  | .highWaterReset idx sub w => lt 65536 idx && lt 256 sub && w.wf
  | .markCoreDefective w => w.wf
  | .releaseFieldLoss w => w.wf
  | .excludeField w => w.wf
  | .jobStart job w => lt 5 job && w.wf
  | .jobSuspend job w => lt 5 job && w.wf
  | .jobResume job w => lt 5 job && w.wf
  | .jobCancel job w => lt 5 job && w.wf
  | .jobSuspended job => lt 5 job.val
  | .jobEnd job o => lt 5 job && o.wf
  | .checkpointDump => true
  | .switch w => w.val.wf && sramMet w.errs
  | .resume w => w.wf
  | .replayStep w => w.val.wf && sramMet w.errs
  | .peerSubstitute w => w.wf
  | .resetRequest w => w.wf
  | .resetNLow => true
  | .resetNRise _ => true
  | .management env => env.wf
  | .clocksNetwork env => env.wf
  | .microcodeMismatch p => p.wf
  | .memories env => env.wf
  | .links epTrained aelifTrained => epTrained.all (lt 8) && aelifTrained.all (lt 48)
  | .compute => true
  | .bringupRestart field => lt 90 field
  | .failover => true
  | .mgmtHeartbeat _ bytes => bytes.length == 32
  | .fwStageRequest w image => w.wf && image.wf
  | .rollbackAdvance w => w.wf
  | .quoteNonce w _ => w.wf
  | .roleSecret _ w => w.wf
  | .debugToken w => w.wf
  | .jtagProvision secrets _ => secrets.length == 4 && secrets.all (fun x => x.length == 32)
  | .lock => true
  | .idcode => true
  | .bypass _ => true
  | .cvuStart u => u.u.wf
  | .cvuFinalise u => u.wf
  | .data8 u _ => u.wf
  | .data16 u _ => u.wf
  | .data32 u _ => u.wf
  | .value u _ => u.u.wf
  | .ptpMessageReceive m _ => decide (m.port < 2) && decide (m.domain < 256)
  | .neighborDiscoveryReceive _ _ target linkAddr => target.length == 16 && linkAddr.length == 6
  | .holdUpRunOut => true
  | .bottomTreeGenerated => true
  | .lastFrameSeqRequest lostPort viaPort => lt 48 lostPort && lt 48 viaPort
  | .regulatorLoopSample field droopMv _ => lt 90 field && droopMv.length == 64
  | .pcieLinkTrained _ _ => true

end Sys2Proof
end

