-- ==== Sys2Proof/Tests/Slice0.lean ====
section
/-! SUPPORT. Tests: ill-formed operands that WellFormed refuses, values that the manual prints, and for every statement with hypotheses a
concrete state and operands that meet them (one theorem per statement, `witness_<Name>`). -/

open Sys2Proof Sys2Proof.Machine

namespace Sys2Proof.Tests

set_option Elab.async false

/-! ### Small states -/

/-- The core (3, 5) of the grid and an issue on it. -/
def cid : CoreId := ⟨3, 5⟩

/-- An instruction issued on that core with no SRAM error, one cycle after the last. -/
def iss : Issue := ⟨cid, [], 1⟩

/-- A core in a state, else as after load. -/
def coreAs (st : CoreState) : Core := { Core.default with st := st }

/-- The engine after reset with one core. -/
def withCore (c : Core) : State := setCore State.reset cid c

/-- The engine after reset with one running core. -/
def running : State := withCore (coreAs .running)

/-- The state that a command answers. -/
def after (o : Host.Outcome State Fault Refusal) : State :=
  match o with
  | .next t => t
  | _ => State.reset

/-- A state with the word of a tile instruction at the program counter of the core. -/
def placed (o : Instr) (s : State) : State :=
  let c := getCore s cid
  setCore s cid { c with sram := memStore c.sram (8 * c.pc) (leBytes 8 ((instrWord o).getD 0)) }

/-- The core that a tile instruction leaves whose word stands at the program counter. -/
def coreAfter (o : Instr) (s : State) : Core := getCore (after (exec o (placed o s))) cid

/-- The conditions of `Issues` as one decidable proposition. -/
theorem issues_of {s : State} {i : Issue}
    (h : inGrid s i.core = true ∧ (getCore s i.core).st = .running ∧ i.errs = [] ∧ fetchExc (issueCore s i) = none) : Issues s i :=
  ⟨h.1, h.2.1, h.2.2.1, h.2.2.2⟩

/-- `Stands` as one decidable proposition. -/
theorem stands_of {s : State} {i : Issue} {o : Instr} (h : (instrWord o).any (spells (fetchWord (issueCore s i))) = true) : Stands s i o := by
  unfold Stands
  cases hw : instrWord o with
  | none => rw [hw] at h; cases h
  | some w => rw [hw] at h; exact ⟨w, rfl, h⟩

/-- Whether an instruction issues and stands at the program counter. -/
def ready (o : Instr) (s : State) : Bool :=
  inGrid s cid && (getCore s cid).st == .running && fetchExc (issueCore s iss) == none &&
    (instrWord o).any (spells (fetchWord (issueCore s iss)))

/-- Each of these instructions, placed in turn, issues and stands at the program counter. -/
theorem all_ready {os : List Instr} {s : State} (h : os.all (fun o => ready o (placed o s)) = true) :
    ∀ o ∈ os, Issues (placed o s) iss ∧ Stands (placed o s) iss o := by
  intro o ho
  have := List.all_eq_true.mp h o ho
  simp only [ready, Bool.and_eq_true, beq_iff_eq] at this
  exact ⟨⟨this.1.1.1, this.1.1.2, rfl, this.1.2⟩, stands_of this.2⟩

/-- An instruction, placed, issues and stands at the program counter. -/
theorem ready_of {o : Instr} {s : State} (h : ready o (placed o s) = true) : Issues (placed o s) iss ∧ Stands (placed o s) iss o :=
  all_ready (os := [o]) (by simpa using h) o List.mem_cons_self

/-- The core as a placed instruction finds it. -/
def found (o : Instr) (s : State) : Core := issueCore (placed o s) iss

/-! ### Registers and control -/

/-- A running core with the values of the boundaries in X1 to X3, 2 and 1 in the loop counters and three reports waiting. -/
def busyCore : Core :=
  { xset (xset (xset (coreAs .running) 1 5) 2 0xFFFFFFFF) 3 (BitVec.ofNat 32 (319 + 512 * 287)) with
    loops := #v[2, 1, 0, 0]
    reports := List.replicate 3 ⟨0, 0⟩ }

/-- That core alone. -/
def busyState : State := withCore busyCore

/-- The same core on an engine of variant L. -/
def lState : State := { busyState with variant := .l }

/-- A state whose core holds `n` packets of one flit in its send port. -/
def sending (n : Nat) (s : State) : State :=
  setWaiting s (waitKey cid 4 1) (List.replicate n ⟨0, 1, .unicast, true, true, ⟨List.replicate 64 0, false⟩, none, []⟩)

/-- A VCVT with stochastic rounding that names an odd register. -/
def oddVcvt : VcvtFields := ⟨0, 1, 2, true, 0, 1, true, true, 0, 31, true, 31, 1⟩

theorem witness_RegisterFileReadsBack :
    (31 : BitVec 5) ≠ 0 ∧ (30 : BitVec 5) ≠ 31 ∧ xodd 30 = false ∧ xodd 31 = true ∧ oddVcvt.xi = 31 ∧ oddVcvt.xs = 31 ∧
      ∀ o ∈ [Instr.send iss 0 false 0 1 false 0 31, .rngk iss 0 true 0 true 31 0 true 1, .rngk iss 0 true 0 true 0 31 true 1, .vcvt iss oddVcvt],
        Issues (placed o running) iss ∧ Stands (placed o running) iss o :=
  ⟨by decide, by decide, by decide, by decide, rfl, rfl, all_ready (by decide +kernel)⟩

theorem witness_ControlInstructionsComplete :
    (∀ o ∈ [Instr.nop iss, .halt iss, .loop iss 0 8191, .loop iss 1 8191, .loop iss 2 0, .lset iss 3 false 0 0xFFFFFFFF, .lset iss 3 true 31 0,
        .br iss 0 0 0 8191, .br iss 1 1 1 0, .br iss 2 1 2 0, .br iss 3 2 1 0, .br iss 4 1 2 0, .br iss 5 1 2 0, .br iss 6 2 1 0],
      Issues (placed o busyState) iss ∧ Stands (placed o busyState) iss o) ∧
    (let s := placed (.halt iss) (sending 1 busyState)
     (Issues s iss ∧ Stands s iss (.halt iss)) ∧ 0 < sendsHeld s cid ∧ sendsHeld (placed (.halt iss) busyState) cid = 0) ∧
    (1 < (issueCore busyState iss).loops[0].toNat ∧ (issueCore busyState iss).loops[1].toNat ≤ 1 ∧
      (issueCore busyState iss).loops[2].toNat ≤ 1) :=
  ⟨all_ready (by decide +kernel), ⟨ready_of (by decide +kernel), by decide +kernel⟩, by decide +kernel⟩

theorem witness_ScalarInstructionsComplete :
    (∀ o ∈ [Instr.xli iss 31 0xFFFFFFFF, .agset iss 7 0 false 0 0x7FFFF, .agset iss 7 1 false 0 1, .agset iss 7 1 false 0 8191,
        .agset iss 0 2 false 0 0xFFFFF, .agset iss 0 3 true 2 0, .agset iss 0 4 false 0 0, .mcjoin iss false 63 true, .mcjoin iss false 0 false,
        .mcjoin iss true 63 true, .mcjoin iss true 0 false, .flg iss 0 1 15, .flg iss 1 1 0, .flg iss 2 31 15, .flg iss 3 31 15,
        .wp iss false 0xFFFFFFFF, .wp iss true 0],
      Issues (placed o busyState) iss ∧ Stands (placed o busyState) iss o) ∧
    (∀ o ∈ [Instr.flg iss 2 31 15], Issues (placed o lState) iss ∧ Stands (placed o lState) iss o) ∧
    (busyState.variant = .x ∧ lState.variant = .l ∧ ((0x7FFFF : BitVec 20).setWidth 32 : W32).toNat ≤ 0x7FFFF ∧
      0 < ((1 : BitVec 20).setWidth 32 : W32).toNat ∧ ((8191 : BitVec 20).setWidth 32 : W32).toNat ≤ 8191 ∧
      (issueCore busyState iss).reports.length < 4) :=
  ⟨all_ready (by decide +kernel), all_ready (by decide +kernel), by decide +kernel⟩

theorem witness_XopComputes :
    (∀ o ∈ (List.range 13).map (fun n => Instr.xop iss 31 2 3 (BitVec.ofNat 4 n) true 7), Issues (placed o busyState) iss ∧ Stands (placed o busyState) iss o) ∧
    (∀ o ∈ (List.range 8).map (fun n => Instr.xop iss 4 2 3 11 true (BitVec.ofNat 32 n)), Issues (placed o busyState) iss ∧
      Stands (placed o busyState) iss o) ∧ (7 : W32).toNat < 8 ∧ (0 : W32).toNat < 8 :=
  ⟨all_ready (by decide +kernel), all_ready (by decide +kernel), by decide⟩

/-- A core that waits for beat 0, whose beat is now. -/
def waitCore : Core := { coreAs .waiting with wait := some (.beat 0) }

/-- A core that waits in SYNC with RELEASED set. -/
def syncCore : Core := sramWrite { coreAs .waiting with wait := some (.sync 2 7 0x5000) } 0x5005 [1] false

theorem witness_WaitsAndBarriers :
    (∀ o ∈ [Instr.waitb iss false 0 0, .waitb iss false 2 0, .waitb iss false 1 0, .waitb iss true 0 0xFFFF, .syncInit iss 15 3 0x4000 1,
        .syncInit iss 0 3 0x7CFF8 0xFFFF, .syncWait iss 15 3 0x4000, .syncWait iss 0 3 0x7CFF8],
      Issues (placed o busyState) iss ∧ Stands (placed o busyState) iss o) ∧
    ((BitVec.ofNat 32 (beatNow busyState) : W32) = xget (issueCore busyState iss) 0 ∧
      0 < ((BitVec.ofNat 32 (beatNow busyState) : W32) - xget (issueCore busyState iss) 2).toInt ∧
      ((BitVec.ofNat 32 (beatNow busyState) : W32) - xget (issueCore busyState iss) 1).toInt < 0 ∧
      (xget (issueCore busyState iss) 3).toNat < 2 ^ 18 ∧ inGrid busyState ⟨319, 287⟩ = true ∧
      stageEnd (issueCore busyState iss) ≤ (0x4000 : BitVec 19).toNat ∧ (0x7CFF8 : BitVec 19).toNat + 8 ≤ contextBase ∧
      leNat (sramRead (issueCore busyState iss) 0x4000 2) < (1 : BitVec 16).toNat) ∧
    (let o := Instr.waitb iss false 0 0
     let s := placed o (withCore waitCore)
     Stands s iss o ∧ inGrid s cid = true ∧ fetchExc (issueCore s iss) = none ∧ (issueCore s iss).st = .waiting ∧
      (issueCore s iss).wait = some (.beat 0) ∧ 0 ≤ ((BitVec.ofNat 32 (beatNow s) : W32) - 0).toInt) ∧
    (let o := Instr.syncWait iss 2 0 0x5000
     let s := placed o (withCore syncCore)
     Stands s iss o ∧ fetchExc (issueCore s iss) = none ∧ (issueCore s iss).wait = some (.sync 2 7 0x5000) ∧
      bit (memRead (issueCore s iss).sram 0x5005).toNat 0 = true) :=
  ⟨all_ready (by decide +kernel), by decide +kernel, ⟨stands_of (by decide +kernel), by decide +kernel⟩,
    ⟨stands_of (by decide +kernel), by decide +kernel⟩⟩

/-! What the manual says of single values (R170, R178, R191, R192). -/

theorem test_xli_x0 : xget (coreAfter (.xli iss 0 7) running) 0 = 0 := by decide +kernel
theorem test_xli : xget (coreAfter (.xli iss 31 0xFFFFFFFF) running) 31 = 0xFFFFFFFF := by decide +kernel
theorem test_loop_taken : (coreAfter (.loop iss 0 100) busyState).pc = 100 := by decide +kernel
theorem test_loop_falls : (coreAfter (.loop iss 1 100) busyState).pc = 1 := by decide +kernel
theorem test_br_signed : (coreAfter (.br iss 3 2 1 9) busyState).pc = 9 := by decide +kernel
theorem test_br_unsigned : (coreAfter (.br iss 5 2 1 9) busyState).pc = 1 := by decide +kernel
theorem test_xop_sra : xget (coreAfter (.xop iss 4 2 0 7 true 33) busyState) 4 = 0xFFFFFFFF := by decide +kernel
theorem test_xop_core : xget (coreAfter (.xop iss 4 0 0 11 true 7) busyState) 4 = 1603 := by decide +kernel
theorem test_agset_zero_count : (coreAfter (.agset iss 0 1 false 0 0) running).excCause = excIllegalOperand := by decide +kernel
theorem test_waitb_late : getN (after (exec (.waitb iss false 2 0) (placed (.waitb iss false 2 0) busyState))) Key.waitbLate = 1 := by decide +kernel
theorem test_sync_released : (coreAfter (.syncWait iss 2 0 0) (withCore syncCore)).st = .running := by decide +kernel
theorem test_halt : (coreAfter (.halt iss) running).st = .halted := by decide +kernel

/-- R166, R170: an instruction whose word does not stand at the program counter does not issue. -/
theorem test_other_word :
    let c := getCore (after (exec (.xli iss 1 5) (placed (.nop iss) running))) cid
    c.pc = 0 ∧ xget c 1 = 0 ∧ c.progressed = false := by
  decide +kernel

/-! ### SRAM, packets, arrays and vectors -/

/-- A running core with 16 KiB of program and one ring of one page at page 0, generators at the edges of its SRAM, rows 64 bytes apart
and the tile's address, the row pitch and a header in X. -/
def memCore : Core :=
  let c : Core := { coreAs .running with
    cfg := [0, 0, 1, 1] ++ List.replicate 4 0 ++ [1, 0] ++ List.replicate 118 0
    ag := #v[⟨0x5000, 1, 0x5000, 1, 0, 0⟩, ⟨0x7CFFC, 1, 0x7CFFC, 1, 0, 0⟩, ⟨0x7CC00, 1, 0x7CC00, 1, 0, 0⟩, ⟨0x7CFC0, 1, 0x7CFC0, 1, 0, 0⟩,
      ⟨0x4FFC, 1, 0x4FFC, 1, 0, 0⟩, ⟨0x7CFF8, 1, 0x7CFF8, 1, 0, 0⟩, ⟨0x7CF80, 1, 0x7CF80, 1, 0, 0⟩, ⟨0x6000, 1, 0x6000, 1, 64, 0⟩] }
  xset (xset c 1 64) 2 0x18

/-- That core alone, its ring empty. -/
def memState : State := withCore memCore

/-- The same with 64 flits in the ring. -/
def ringState : State := withCore { memCore with ringWr := #v[64, 0, 0, 0, 0, 0, 0, 0] }

theorem witness_LoadsFillRegistersAndTiles :
    (∀ o ∈ [Instr.lda iss 4 1 true 0 0 9 0 false, .lda iss 3 2 true 0 3 1 0 false, .lda iss 0 0 true 6 0 1 3 true, .ldat iss 2 2 true 3 1 2 15],
      Issues (placed o memState) iss ∧ Stands (placed o memState) iss o) ∧
    (let c := found (.lda iss 4 1 true 0 0 9 0 false) memState
     (agGet c 1).cursor.toNat % 4 = 0 ∧ mayRead c (agGet c 1).cursor.toNat 4 = true) ∧
    (let c := found (.lda iss 3 2 true 0 3 1 0 false) memState
     let as := rowAddrs (agGet c 2).cursor.toNat (xget c 1) 16
     (3 : BitVec 4).toNat < 4 ∧ rowCode 3 = some 16 ∧ expandBad c 0 3 = false ∧ misaligned 8 as = false ∧
       (∀ a ∈ as, mayRead c a (packedSize 0 / 16) = true) ∧ tileBusy c 3 = false) ∧
    (let c := found (.lda iss 0 0 true 6 0 1 3 true) memState
     let as := rowAddrs (agGet c 0).cursor.toNat (xget c 1) 1
     rowCode 0 = some 1 ∧ expandBad c 6 0 = false ∧ misaligned 8 as = false ∧ (∀ a ∈ as, mayRead c a (packedSize 6 / 1) = true) ∧
       (agGet (agTake c 0 true).2 3).cursor.toNat % 64 = 0 ∧ mayRead c (agGet (agTake c 0 true).2 3).cursor.toNat 64 = true ∧
       tileBusy c 0 = false) ∧
    (let c := found (.ldat iss 2 2 true 3 1 2 15) memState
     let as := rowAddrs (agGet c 2).cursor.toNat (xget c 1) 16
     (2 : BitVec 2) ≠ 3 ∧ (15 : BitVec 6).toNat + 1 ≤ 1024 / (16 * 2 ^ (2 : BitVec 2).toNat) ∧ misaligned 8 as = false ∧
       (∀ a ∈ as, mayRead c a (16 * 4) = true)) :=
  ⟨all_ready (by decide +kernel), by decide +kernel⟩

/-- The memory core on an engine of variant L. -/
def memL : State := { memState with variant := .l }

theorem witness_StoresWriteSegments :
    (∀ o ∈ [Instr.stv iss 4 1 true 1, .stv iss 3 2 true 1, .accout iss 3 2 true 1 false, .index24 iss true true, .zeroMap iss true 5 true,
        .zeroMap iss true 4 true], Issues (placed o memState) iss ∧ Stands (placed o memState) iss o) ∧
    (∀ o ∈ [Instr.index24 iss true true, .zeroMap iss true 5 true, .mmas iss ⟨8, 0, 1, false, true, 0, 0⟩ true true ⟨[], [], false, false, false⟩],
      Issues (placed o memL) iss ∧ Stands (placed o memL) iss o) ∧
    (memState.variant = .x ∧ memL.variant = .l) ∧
    (let c := found (.stv iss 4 1 true 1) memState
     (agGet c 1).cursor.toNat % 4 = 0 ∧ mayWrite c (agGet c 1).cursor.toNat 4 = true) ∧
    (let c := found (.stv iss 3 2 true 1) memState
     let as := rowAddrs (agGet c 2).cursor.toNat (xget c 1) 16
     misaligned 64 as = false ∧ ∀ a ∈ as, mayWrite c a 64 = true) ∧
    (let c := found (.accout iss 3 2 true 1 false) memState
     namesOpen c 3 = false ∧ parityBad (accGet c 3) 256 = false) ∧
    (let c := found (.zeroMap iss true 5 true) memState
     mayWrite c ((agGet c 5).cursor.toNat / 8 * 8) 8 = true) ∧
    (let c := found (.zeroMap iss true 4 true) memState
     mayWrite c ((agGet c 4).cursor.toNat / 8 * 8) 8 = false) :=
  ⟨all_ready (by decide +kernel), all_ready (by decide +kernel), by decide +kernel⟩

/-- A core with a poisoned line at the second of two lines. -/
def poisonState : State := withCore { memCore with poisonLines := [0x7CFC0 / 64] }

/-- A core whose last two lines hold a clean block: 64 bytes of zeros and the CRC-32C of sequence 0 and those. -/
def goodState : State := withCore (sramWrite memCore 0x7CFC0 (leBytes 4 (crc32c (List.replicate 68 0))) false)

theorem witness_SendReceiveCheckComplete :
    (∀ o ∈ [Instr.send iss 3 true 0 1 true 9 2, .send iss 0 false 62 3 true 9 2, .recv iss 0 4 0 0 0, .chk iss false 6 true 0 0 9 false],
      Issues (placed o memState) iss ∧ Stands (placed o memState) iss o) ∧
    (∀ o ∈ [Instr.recv iss 0 4 0 0 63, .recv iss 0 0 0 5 0, .chk iss true 0 true 62 0 9 true],
      Issues (placed o ringState) iss ∧ Stands (placed o ringState) iss o) ∧
    (let o := Instr.chk iss false 6 true 0 0 9 true
     (Issues (placed o poisonState) iss ∧ Stands (placed o poisonState) iss o) ∧ Issues (placed o goodState) iss ∧ Stands (placed o goodState) iss o) ∧
    (let o := Instr.send iss 3 true 0 1 true 9 2
     (Issues (placed o (sending 2 memState)) iss ∧ Stands (placed o (sending 2 memState)) iss o) ∧
       2 ≤ sendsHeld (placed o (sending 2 memState)) cid ∧ sendsHeld (placed o memState) cid < 2) ∧
    (let c := found (.send iss 3 true 0 1 true 9 2) memState
     let h := withLength (xpair c 2) 2
     (1 : BitVec 2) ≠ 0 ∧ xodd 2 = false ∧ (agGet c 3).cursor.toNat % 64 = 0 ∧ mayRead c (agGet c 3).cursor.toNat 64 = true ∧
       headerRefused (placed (.send iss 3 true 0 1 true 9 2) memState) h 1 = false) ∧
    (let c := found (.send iss 0 false 62 3 true 9 2) memState
     (62 : BitVec 6).toNat + 1 + b2n true ≤ 64 ∧ (agGet c 0).cursor.toNat % 64 = 0 ∧ mayRead c (agGet c 0).cursor.toNat (64 * 63) = true) ∧
    (let c := found (.recv iss 0 4 0 0 0) memState
     ringPages c 0 ≠ 0 ∧ ringHeld c 0 < (0 : BitVec 6).toNat + 1) ∧
    (let c := found (.recv iss 0 4 0 0 63) ringState
     ringPages c 0 ≠ 0 ∧ (63 : BitVec 6).toNat + 1 ≤ ringHeld c 0) ∧
    (let c := found (.recv iss 0 0 0 5 0) ringState
     rowCode 5 ≠ none ∧ expandBad c 0 5 = false ∧ packedSize 0 / 64 + b2n ((0 : BitVec 3) != 0) ≤ ringHeld c 0 ∧ tileBusy c 0 = false) ∧
    (let c := found (.chk iss true 0 true 62 0 9 true) ringState
     (62 : BitVec 6).toNat + 1 + 1 ≤ ringHeld c 0) ∧
    (let c := found (.chk iss false 6 true 0 0 9 true) poisonState
     (agGet c 6).cursor.toNat % 64 = 0 ∧ mayRead c (agGet c 6).cursor.toNat (64 * 2) = true ∧
       ([0x7CF80, 0x7CFC0] : List Nat).any (fun l => sramPoisoned c l 64) = true) ∧
    (let c := found (.chk iss false 6 true 0 0 9 false) memState
     ([0x7CF80, 0x7CFC0] : List Nat).any (fun l => sramPoisoned c l 64) = false ∧
       crc32c (leBytes 4 (xget c 0).toNat ++ sramRead c 0x7CF80 64) ≠ field (sramRead c 0x7CFC0 64) 0 4) ∧
    (let c := found (.chk iss false 6 true 0 0 9 true) goodState
     crc32c (leBytes 4 (xget c 0).toNat ++ sramRead c 0x7CF80 64) = field (sramRead c 0x7CFC0 64) 0 4) :=
  ⟨all_ready (by decide +kernel), all_ready (by decide +kernel), ⟨ready_of (by decide +kernel), ready_of (by decide +kernel)⟩,
    ⟨ready_of (by decide +kernel), by decide +kernel⟩, by decide +kernel⟩

/-- The fields of the smallest chunk. -/
def mmaF : MmaFields := ⟨8, 0, 1, false, true, 0, 0⟩

/-- The fields of an EX32 chunk. -/
def ex32F : MmaFields := ⟨0, 7, 1, false, true, 0, 0⟩

/-- A core with an EX32 chunk open at its last pass. -/
def ex32State : State := withCore { coreAs .running with ex32 := some ⟨ex32F, 5⟩ }

/-- The fields of a sparse chunk. -/
def mmasF : MmaFields := ⟨3, 0, 1, false, true, 0, 0⟩

/-- The array without a fault. -/
def noFault : ArrayFault := ⟨[], [], false, false, false⟩

theorem witness_ArrayInstructionsComplete :
    (∀ o ∈ [Instr.accz iss 3, .mmax iss ex32F 0 noFault, .mma iss mmaF noFault, .mmas iss mmasF true true noFault],
      Issues (placed o running) iss ∧ Stands (placed o running) iss o) ∧
    (let o := Instr.mmax iss ex32F 5 noFault
     Issues (placed o ex32State) iss ∧ Stands (placed o ex32State) iss o) ∧
    (let c := found (.accz iss 3) running
     namesOpen c 3 = false) ∧
    (let c := found (.mmax iss ex32F 0 noFault) running
     arrayOperandBad 2 ex32F = false ∧ mmaxBad c ex32F 0 = false) ∧
    (let c := found (.mma iss mmaF noFault) running
     arrayOperandBad 0 mmaF = false ∧ c.ex32 = none ∧ instrPoisoned c mmaF = false ∧
       parityBad (accGet c mmaF.acc) ((chunkOf c mmaF noMask).a.length * (chunkOf c mmaF noMask).b.length) = false ∧
       (tryChunk (getN running Key.checkTolUlp) (chunkOf c mmaF noMask) 1 []).ok = true) ∧
    (let c := found (.mmas iss mmasF true true noFault) running
     let sel := selectChunk c mmasF true (buildIndex c mmasF.asel)
     let chunk := chunkOf c mmasF (fun r k => !sel.fed.contains (r, k))
     arrayOperandBad 1 mmasF = false ∧ running.variant = .x ∧ instrPoisoned c mmasF = false ∧ sel.beyond = false ∧
       parityBad (accGet c mmasF.acc) (chunk.a.length * chunk.b.length) = false ∧ (tryChunk (getN running Key.checkTolUlp) chunk 1 []).ok = true) ∧
    (let c := found (.mmax iss ex32F 5 noFault) ex32State
     mmaxBad c ex32F 5 = false ∧ instrPoisoned c ex32F = false ∧
       parityBad (accGet c ex32F.acc) ((chunkOf c ex32F noMask).a.length * (chunkOf c ex32F noMask).b.length) = false ∧
       (tryChunk (getN ex32State Key.checkTolUlp) (chunkOf c ex32F noMask) 1 []).ok = true) :=
  ⟨all_ready (by decide +kernel), ready_of (by decide +kernel), by decide +kernel⟩

/-- An error term of 1 in one cell. -/
def cellErr : CellErr := ⟨some 0, some 0, 1, 0⟩

/-- An array that errs once, and one that errs twice. -/
def oneFault : ArrayFault := ⟨[cellErr], [], false, false, false⟩
def twoFaults : ArrayFault := ⟨[cellErr], [cellErr], false, false, false⟩

theorem witness_FailedChunkRaisesArrayCheck :
    (∀ o ∈ [Instr.mma iss mmaF oneFault, .mma iss mmaF twoFaults], Issues (placed o running) iss ∧ Stands (placed o running) iss o) ∧
    (let c := found (.mma iss mmaF oneFault) running
     let tol := getN running Key.checkTolUlp
     arrayOperandBad 0 mmaF = false ∧ c.ex32 = none ∧ (tryChunk tol (chunkOf c mmaF noMask) 1 [cellErr]).ok = false ∧
       (tryChunk tol (chunkOf c mmaF noMask) 1 []).ok = true) :=
  ⟨all_ready (by decide +kernel), by decide +kernel⟩

/-- A conversion of one vector from FP32 to E4M3 with stochastic rounding. -/
def vcvtF : VcvtFields := ⟨0, 3, 2, true, 0, 7, true, true, 0, 2, true, 4, 1⟩

/-- A VOP of two vectors with three sources. -/
def vopI : Instr := .vop iss 3 0 7 3 2 false 0 4 2

theorem witness_VectorInstructionsComplete :
    (∀ o ∈ [vopI, .vred iss 3 1 7 true true 1, .vcvt iss vcvtF, .rngk iss 3 true 15 true 2 4 true 1, .rngf iss 3 true false 1],
      Issues (placed o memState) iss ∧ Stands (placed o memState) iss o) ∧
    (let c := found vopI memState
     let v := (agVectors [0, 7, 3, 2] (vopUses 0 7 3 2 true true 4) 2 c).1
     vopReads 3 = some (true, true, true) ∧
       (∀ as ∈ v, as.getD 0 0 % 4 = 0 ∧ mayWrite c (as.getD 0 0) 64 = true ∧ as.getD 1 0 % 4 = 0 ∧ mayRead c (as.getD 1 0) 64 = true ∧
         (as.getD 2 0 % 4 = 0 ∧ mayRead c (as.getD 2 0) 64 = true) ∧ (as.getD 3 0 % 4 = 0 ∧ mayRead c (as.getD 3 0) 64 = true))) ∧
    (let c := found (.vred iss 3 1 7 true true 1) memState
     let v := (agVectors [1, 7] (agUses [(1, true), (7, true)]) 1 c).1
     ∀ as ∈ v, as.getD 0 0 % 4 = 0 ∧ as.getD 1 0 % 4 = 0 ∧ mayWrite c (as.getD 0 0) 4 = true ∧ mayRead c (as.getD 1 0) 64 = true) ∧
    (let c := found (.vcvt iss vcvtF) memState
     let v := (agVectors [0, 7] (agUses [(0, true), (7, true)]) vcvtF.count.toNat c).1
     vcvtF.count ≠ 0 ∧ vcvtF.srcf.toNat ≤ 10 ∧ vcvtF.dstf.toNat ≤ 10 ∧ vcvtF.srcf = 0 ∧ xodd vcvtF.xi = false ∧ xodd vcvtF.xs = false ∧
       (∀ as ∈ v, as.getD 0 0 % 4 = 0 ∧ as.getD 1 0 % 4 = 0 ∧ mayWrite c (as.getD 0 0) (vecLen vcvtF.dstf.toNat) = true ∧
         mayRead c (as.getD 1 0) (vecLen vcvtF.srcf.toNat) = true)) ∧
    (let c := found (.rngk iss 3 true 15 true 2 4 true 1) memState
     let v := (agVectors [3] (agUses [(3, true)]) 1 c).1
     (1 : BitVec 14) ≠ 0 ∧ xodd 4 = false ∧ xodd 2 = false ∧ ∀ as ∈ v, as.getD 0 0 % 4 = 0 ∧ mayWrite c (as.getD 0 0) 64 = true) :=
  ⟨all_ready (by decide +kernel), by decide +kernel⟩

theorem witness_RegisterInstructionsKeepData :
    (∀ o ∈ [Instr.nop iss, .halt iss, .loop iss 0 1, .lset iss 0 true 1 0, .br iss 0 0 0 1, .waitb iss false 2 0, .wp iss true 7, .xli iss 1 7,
        .xop iss 4 1 2 0 false 0, .agset iss 7 0 false 0 0x7FFFF, .mcjoin iss true 63 true, .flg iss 3 1 15],
      (Issues (placed o busyState) iss ∧ Stands (placed o busyState) iss o)) ∧
    (∀ o ∈ [Instr.nop iss, .halt iss, .loop iss 0 1, .lset iss 0 true 1 0, .br iss 0 0 0 1, .waitb iss false 2 0, .wp iss true 7, .xli iss 1 7,
        .xop iss 4 1 2 0 false 0, .agset iss 7 0 false 0 0x7FFFF, .mcjoin iss true 63 true, .flg iss 3 1 15],
      (coreAfter o busyState).st ≠ .faulted) ∧
    (issueCore busyState iss).reports.length < 4 ∧ sendsHeld (placed (.halt iss) busyState) cid = 0 :=
  ⟨all_ready (by decide +kernel), by decide +kernel⟩

theorem witness_StoringInstructionsTouchOnlyTheirBytes :
    (∀ o ∈ [Instr.stv iss 4 1 true 1, .stv iss 0 2 true 1, .accout iss 0 2 true 1 false, .zeroMap iss false 5 true, vopI, .vred iss 0 1 7 true true 1,
        .vcvt iss vcvtF, .rngk iss 3 true 15 true 2 4 true 1, .rngf iss 3 true false 1, .syncInit iss 0 0 0x7CFF8 1, .syncWait iss 0 0 0x7CFF8],
      (Issues (placed o memState) iss ∧ Stands (placed o memState) iss o)) ∧
    (∀ o ∈ [Instr.stv iss 4 1 true 1, .stv iss 0 2 true 1, .accout iss 0 2 true 1 false, .zeroMap iss false 5 true, vopI, .vred iss 0 1 7 true true 1,
        .vcvt iss vcvtF, .rngf iss 3 true false 1, .syncInit iss 0 0 0x7CFF8 1, .syncWait iss 0 0 0x7CFF8],
      (coreAfter o memState).st ≠ .faulted) ∧ vopReads 3 = some (true, true, true) :=
  ⟨all_ready (by decide +kernel), by decide +kernel⟩

/-- A core whose program counter stands at the end of its window. -/
def endState : State := withCore { coreAs .running with pc := 2048 }

theorem witness_ExceptionsRecordAndReport :
    (1 ≤ 12 ∧ 12 ≤ 12 ∧ getN running Key.excCaptureEmpty = 1 ∧
      getN (takeException running cid (coreAs .running) 1 0 0 []) Key.excCaptureEmpty ≠ 1 ∧ 12 ≠ excArrayCheck ∧ 9 = excArrayCheck) ∧
    (inGrid endState iss.core = true ∧ (getCore endState iss.core).st = .running ∧ iss.errs = [] ∧
      fetchExc (issueCore endState iss) = some excSramRegion) := by
  decide +kernel

theorem witness_SuspendThenResumeKeepsTheContext : (getCore running cid).st = .running := by decide +kernel

/-! What the manual says of single values (R132, R171, R179, R182, R185, R188, R206). -/

theorem test_stv_word : sramRead (coreAfter (.stv iss 4 1 true 1) memState) 0x7CFFC 4 = [64, 0, 0, 0] := by decide +kernel
theorem test_lda_misaligned : (coreAfter (.lda iss 4 1 false 0 0 1 0 false) (withCore { memCore with ag := memCore.ag.set 1 ⟨0, 1, 0x7CFFE, 1, 0, 0⟩ })).excCause =
    excAlignment := by decide +kernel
theorem test_chk_poison : xget (coreAfter (.chk iss false 6 true 0 0 9 false) poisonState) 9 = 2 := by decide +kernel
theorem test_chk_bad : xget (coreAfter (.chk iss false 6 true 0 0 9 false) memState) 9 = 1 := by decide +kernel
theorem test_chk_good : xget (coreAfter (.chk iss false 6 true 0 0 9 false) goodState) 9 = 0 := by decide +kernel
theorem test_recv_waits : (coreAfter (.recv iss 0 4 0 0 0) memState).st = .waiting := by decide +kernel
theorem test_recv_skips : (coreAfter (.recv iss 0 4 0 0 63) ringState).ringRd[0] = 64 := by decide +kernel
theorem test_send_injects : (getLane (after (exec (.send iss 3 false 0 1 false 0 2) (placed (.send iss 3 false 0 1 false 0 2) memState)))
    (laneKey cid 4 1 false)).flits.length = 1 := by decide +kernel
theorem test_zero_map_region : (coreAfter (.zeroMap iss false 4 true) memState).excCause = excSramRegion := by decide +kernel
theorem test_zero_map_l : (coreAfter (.zeroMap iss false 5 true) memL).excCause = excUnitAbsent := by decide +kernel
theorem test_mma_runs : (coreAfter (.mma iss mmaF ⟨[], [], false, false, false⟩) running).pc = 1 := by decide +kernel
theorem test_mma_check : (coreAfter (.mma iss mmaF ⟨[cellErr], [cellErr], false, false, false⟩) running).excCause = excArrayCheck := by decide +kernel
theorem test_mmax_sequence : (coreAfter (.mmax iss ex32F 1 ⟨[], [], false, false, false⟩) running).excCause = excArraySequence := by decide +kernel
theorem test_vcvt_runs : (coreAfter (.vcvt iss vcvtF) memState).st = .running := by decide +kernel
theorem test_vop_count_zero : (coreAfter (.vop iss 0 0 7 3 2 false 0 0 0) memState).excCause = excIllegalOperand := by decide +kernel

/-! ### Update units -/

/-- The descriptor of group 9: a vector of 256 BF16 weights with three states on stack 15, slow with delay 2 where asked. -/
def desc (slow : Bool) : List Byte :=
  [9, 0, 1, 1, 3, 0, 0, 0, if slow then 1 else 0, if slow then 2 else 1, 0, 0, 0, 0, 0, 0, 0, 1, 0, 0, 0, 0, 0, 0, 0, 0x80, 0, 0] ++ List.replicate 36 0

/-- A work item of that group: of step 0, or of the sweep of window 0, which belongs to step 3. -/
def item (slow : Bool) : WorkItem := ⟨9, 0, 1, if slow then 3 else 0, slow, false, false⟩

/-- Window 0 with its divisor, constants and key. -/
def window0 : SlowWindow := ⟨0, 16, some (List.replicate 12 0, 1, 2)⟩

/-- The last engine of the last unit. -/
def eng : EngId := ⟨15, 63⟩

/-- The engine with that group in its table and nothing running. -/
def groupState (slow : Bool) : State := { State.reset with doms := [(Key.groupTable, desc slow)] }

/-- The same with the item held by the program engine. -/
def heldState (slow poisoned : Bool) : State :=
  setGroup (setEng (groupState slow) eng { freshEng (groupState slow) (desc slow) (item slow) [] with poisoned := poisoned }) 9
    { GroupSt.default with sweep := if slow then some window0 else none }

theorem held (slow poisoned : Bool) : Holds (heldState slow poisoned) eng (item slow) (desc slow) := by
  cases slow <;> cases poisoned <;> exact ⟨by decide +kernel, by decide +kernel, by decide +kernel⟩

/-- An engine whose second work buffer held an operand, poisoned, when its item was promoted. -/
def readState : State := setEng (groupState false) eng (freshEng (groupState false) (desc false) (item false) [(1, [], true)])

theorem witness_UpdateArithmeticComplete : Holds (heldState false false) eng (item false) (desc false) := held false false

theorem witness_UpdateLoadsStoresReductionsComplete :
    Holds (heldState false false) eng (item false) (desc false) ∧ (item false).slow = false ∧
      ldKnown (desc false) 0 = true ∧ ldKnown (desc false) 1 = true ∧ ldKnown (desc false) 4 = true ∧ ldKnown (desc false) 7 = true ∧
      (7 : BitVec 4).toNat = 5 + 2 ∧ 2 < gdStates (desc false) ∧ (2 : BitVec 2) ≠ 3 ∧
      (getEng (heldState false false) eng).ops.find? (fun x => x.1 == 0) = none ∧
      Holds readState eng (item false) (desc false) ∧
      (getEng readState eng).ops.find? (fun x => x.1 == (1 : BitVec 4).toNat) = some ((1 : BitVec 4).toNat, [], true) :=
  ⟨held false false, by decide +kernel, by decide +kernel, by decide +kernel, by decide +kernel, by decide +kernel, by decide +kernel,
    by decide +kernel, by decide, by decide +kernel, ⟨by decide +kernel, by decide +kernel, by decide +kernel⟩,
    by decide +kernel⟩

/-- A unit with one item in its fast queue, or in its sweep queue. -/
def queueState (slow : Bool) : State :=
  { groupState slow with update := { (groupState slow).update with
      fast := if slow then [] else [(15, item slow)]
      sweep := if slow then [(15, item slow)] else [] } }

/-- An engine whose program is under way while another item waits for its second buffer. -/
def secondState : State :=
  let s := setEng (heldState false false) eng { getEng (heldState false false) eng with begun := true }
  { s with update := { s.update with fast := [(15, { item false with block := 1 })] } }

theorem witness_WorkItemsBeginAndEnd :
    (engExists (queueState false) eng = true ∧ (getEng (queueState false) eng).item = none ∧
      groupDesc (queueState false) 9 = some (desc false) ∧
      (queueState false).update.fast.find? (fun x => x.1 == eng.unit) = some (eng.unit, item false) ∧ (item false).pass = false) ∧
    (engExists (queueState true) eng = true ∧ (getEng (queueState true) eng).item = none ∧ groupDesc (queueState true) 9 = some (desc true) ∧
      (queueState true).update.fast.find? (fun x => x.1 == eng.unit) = none ∧
      (queueState true).update.sweep.find? (fun x => x.1 == eng.unit) = some (eng.unit, item true)) ∧
    (updatesStopped (queueState false) = false ∧ updatesStopped (queueState true) = false ∧ updatesStopped secondState = false ∧
      groupDesc secondState 9 = some (desc false) ∧ (getEng secondState eng).begun = true ∧ (item false).blocks = 1) ∧
    (engExists secondState eng = true ∧ (getEng secondState eng).item.isSome = true ∧ (getEng secondState eng).next = none ∧
      secondState.update.fast.find? (fun x => x.1 == eng.unit) = some (eng.unit, { item false with block := 1 })) ∧
    Holds (heldState false false) eng (item false) (desc false) ∧ Holds (heldState false true) eng (item false) (desc false) ∧
    Holds (heldState true true) eng (item true) (desc true) ∧
    (itemLive (heldState false false) (item false) = true ∧ (getEng (heldState false false) eng).poisoned = false ∧
      (getEng (heldState false false) eng).next = none ∧ itemLive (heldState false true) (item false) = true ∧
      (getEng (heldState false true) eng).poisoned = true ∧ itemLive (heldState true true) (item true) = true ∧
      getN (heldState false true) Key.poisonCaptureEmpty = 1) :=
  ⟨by decide +kernel, by decide +kernel, by decide +kernel, by decide +kernel, held _ _, held _ _, held _ _, by decide +kernel⟩

/-- The accumulation pass of a step over block 0. -/
def passItem (step : Nat) : WorkItem := ⟨9, 0, 1, step, true, false, true⟩

/-- A slow group whose accumulation pass of a step heads its unit's queue, clean or with a poisoned GRAD. -/
def passState (step : Nat) (poisoned : Bool) : State :=
  let s := setGroup { groupState true with update := { (groupState true).update with fast := [(15, passItem step)] } } 9
    { GroupSt.default with passStep := some step }
  if poisoned then { s with stk := { s.stk with poison := [blockAddr (desc true) 0 arrGrad 1024 / 64] } } else s

/-- A slow group whose window 0 is due. -/
def dueState : State := setGroup (groupState true) 9 { GroupSt.default with due := [window0] }

/-- The pass of a step whose sum the inactive slot holds already. -/
def writtenPass (step : Nat) : State :=
  let s := passState step false
  { s with stk := (writePtr s (desc true) 0 ⟨false, false, false, true, 0, step⟩).stk }

theorem witness_AccumulationPassesAndSweeps :
    (groupDesc (passState 1 false) 9 = some (desc true) ∧
      (passState 1 false).update.fast.find? (fun x => x.1 == 15) = some (15, passItem 1) ∧ (passItem 1).pass = true ∧
      passPoisoned (passState 1 false) (desc true) 1 0 = false ∧ 1 % gdDelay (desc true) + 1 = gdDelay (desc true)) ∧
    (groupDesc (passState 0 true) 9 = some (desc true) ∧ passPoisoned (passState 0 true) (desc true) 0 0 = true ∧
      (passState 0 true).update.fast.find? (fun x => x.1 == 15) = some (15, passItem 0)) ∧
    (groupDesc dueState 9 = some (desc true) ∧ (getGroup dueState 9).due = [window0] ∧ window0.consts.isSome = true ∧
      (getGroup dueState 9).sweep = none ∧ (getGroup dueState 9).hold = false ∧ updatesStopped dueState = false) ∧
    (passPoisoned (passState 0 false) (desc true) 0 0 = false ∧ (passState 0 false).update.fast.find? (fun x => x.1 == 15) = some (15, passItem 0) ∧
      0 % gdDelay (desc true) + 1 ≠ gdDelay (desc true) ∧ ¬(readPtr (passState 0 false) (desc true) 0).gwritten = true ∧
      readPtr (writtenPass 2) (desc true) 0 = ⟨false, false, false, true, 0, 2⟩ ∧ passPoisoned (writtenPass 2) (desc true) 2 0 = false ∧
      (writtenPass 2).update.fast.find? (fun x => x.1 == 15) = some (15, passItem 2) ∧ 2 % gdDelay (desc true) + 1 ≠ gdDelay (desc true) ∧ groupDesc (writtenPass 2) 9 = some (desc true)) ∧
    (let gacc := blockAddr (desc true) 0 (arrGacc 1) 1024
     let ptr := blockAddr (desc true) 0 arrPointer 16
     activeGacc (passState 0 false) (readPtr (passState 0 false) (desc true) 0) = 0 ∧ (ptr + 16 ≤ gacc ∨ gacc + 1024 ≤ ptr)) := by
  decide +kernel

/-! What the manual says of single values (R237, R246, R248, R249, R257). -/

theorem test_update_idle : (after (exec (.fadd eng ⟨0, 0, 0, 0, false, false⟩) (groupState false))).update = (groupState false).update := by
  decide +kernel
theorem test_update_fast_first : (getEng (after (exec (.updateWorkItem ⟨eng, ⟨[], [], 0⟩⟩) (queueState false))) eng).item = some (item false) := by
  decide +kernel
theorem test_end_poison : heldFor (getGroup (after (exec (.updEnd ⟨eng, ⟨[], [], 0⟩⟩) (heldState false true))) 9) 0 = true := by decide +kernel
theorem test_sbc : ((getEng (after (exec (.sbc eng 15 0) (heldState false false))) eng).v.getD 15 []).length = 256 := by decide +kernel
theorem test_pass_closes : (getGroup (after (exec (.accumulationPass 15 9 ⟨0, ⟨[], [], 0⟩⟩) (passState 1 false))) 9).passStep = none := by
  decide +kernel
theorem test_sweep_starts : (getGroup (after (exec (.slowSweep 9) dueState)) 9).sweep = some window0 := by decide +kernel

/-! ### Cores, barriers, rings, the mesh and the defect map -/

/-- The core in SYNC, its barrier's word holding ARRIVED and EXPECTED and the epoch. -/
def barrier (st : CoreState) (arrived expected : Nat) : State :=
  withCore (sramWrite { coreAs st with wait := some (.sync 2 7 0x5000), syncBeats := 2 ^ 32 } 0x5000
    (leBytes 2 arrived ++ leBytes 2 expected ++ [7, 0]) false)

/-- The engine with a powered field. -/
def lit (f : Nat) : State := setN State.reset (Key.pwrFieldPowerState f) 4

theorem witness_CoreServicesComplete :
    (inGrid running cid = true ∧ inParked running cid = false ∧ 65535 < 65536 ∧
      65535 / 32 = (2047 : BitVec 11).toNat) ∧
    (logicalOf running ⟨3, 5⟩ = some cid ∧ heartCounted (getCore running cid) = true ∧ (getCore running cid).silentReported = false ∧
      (getCore running cid).progressed = false ∧ heartIdle (getCore running cid) = false) ∧
    (let s := withCore { coreAs .halted with silentReported := true }
     logicalOf s ⟨3, 5⟩ = some cid ∧ heartCounted (getCore s cid) = true ∧ (getCore s cid).silentReported = true ∧
      heartIdle (getCore s cid) = true) ∧
    (logicalOf (lit 89) ⟨329, 287⟩ = none ∧ unusedSpare (lit 89) ⟨329, 287⟩ = true ∧ physWord ⟨329, 287⟩ ∉ (lit 89).grid.spareSilent) ∧
    (getCore (barrier .waiting 0 1) cid).st = .waiting ∧
    ((getCore (withCore (coreAs .suspended)) cid).st = .suspended ∧ (getCore (withCore (coreAs .suspended)) cid).wait = none ∧
      (getCore (withCore { coreAs .suspended with wait := some (.beat 5) }) cid).wait = some (.beat 5) ∧
      (getCore (withCore { coreAs .suspended with wait := some (.ring 7 64) }) cid).wait = some (.ring 7 64) ∧
      (getCore (barrier .suspended 0 1) cid).wait = some (.sync 2 7 0x5000) ∧ (getCore (barrier .suspended 0 1) cid).st = .suspended) ∧
    ((getCore (barrier .waiting 0 1) cid).wait = some (.sync 2 7 0x5000) ∧
      getN (barrier .waiting 0 1) Key.syncTimeoutBeats ≤ (getCore (barrier .waiting 0 1) cid).syncBeats) := by
  decide +kernel

theorem witness_BarrierRootCountsAndReleases :
    (let c := getCore (barrier .waiting 65533 65535) cid
     leNat (sramRead c 0x5000 2) + 1 < leNat (sramRead c 0x5002 2) ∧ leNat (sramRead c 0x5000 2) + 1 < 65536) ∧
    leNat (sramRead (getCore (barrier .waiting 65534 0) cid) 0x5002 2) = 0 ∧
    (let c := getCore (barrier .waiting 65534 65535) cid
     0 < leNat (sramRead c 0x5002 2) ∧ leNat (sramRead c 0x5000 2) + 1 = leNat (sramRead c 0x5002 2) ∧ leNat (sramRead c 0x5000 2) + 1 < 65536) ∧
    (let s := barrier .waiting 65534 65535
     let k := laneKey cid 4 0 false
     let full := setLane s k ⟨List.replicate 8 ⟨0, 0, .spread, true, true, ⟨[], false⟩, none, []⟩, none, false⟩
     getWaiting s (waitKey cid 4 0) = [] ∧ (getLane s k).flits.length < 8 ∧ (getLane s k).sink = false ∧ rowClosed s cid = false ∧
      getWaiting full (waitKey cid 4 0) = [] ∧ 8 ≤ (getLane full k).flits.length ∧
      leNat (sramRead (getCore full cid) 0x5000 2) + 1 = leNat (sramRead (getCore full cid) 0x5002 2)) ∧
    (let c := getCore (barrier .waiting 0 1) cid
     c.wait = some (.sync 2 7 0x5000) ∧ memRead c.sram 0x5004 = 7 ∧ c.st = .waiting) ∧
    (let c := getCore (barrier .suspended 0 1) cid
     c.wait = some (.sync 2 7 0x5000) ∧ memRead c.sram 0x5004 = 7 ∧ c.st = .suspended ∧ (3 : BitVec 4) ≠ 2 ∧ memRead c.sram 0x5004 ≠ 8) := by
  decide +kernel

/-- A flit of ones. -/
def flit (p : Bool) : Flit := ⟨List.replicate 64 1, p⟩

/-- A unicast packet to a core on a channel. -/
def pktTo (c : CoreId) (vc : BitVec 2) (fs : List Flit) : Packet := ⟨BitVec.ofNat 64 (8 * c.col + 2 ^ 12 * c.row + 2 ^ 55 * fs.length), vc, fs⟩

/-- The head of a packet, and its only flit, on a channel. -/
def headOf (p : Packet) (outs : List (Nat × Leg)) : MFlit := ⟨p.hdr, p.vc, .unicast, true, p.flits.length == 1, p.flits.headD (flit false), none, outs⟩

/-- The core with a flit granted to ring 0, which has one free line, its write pointer at the end of its range; RECV waits for its 64 flits. -/
def ringIn (p : Bool) : State :=
  withCore { memCore with
    st := .waiting
    wait := some (.ring 0 64)
    arrivals := [headOf (pktTo cid 3 [flit p]) []]
    ringWr := #v[127, 0, 0, 0, 0, 0, 0, 0]
    ringRd := #v[64, 0, 0, 0, 0, 0, 0, 0] }

theorem witness_RingsTakeFlitsInOrder (p : Bool) :
    let c := getCore (ringIn p) cid
    let m := headOf (pktTo cid 3 [flit p]) []
    let r := ringFor c m.hdr m.vc
    c.arrivals.find? (fun x => x.vc == 3) = some m ∧ m.flit.poison = p ∧ c.st ≠ .parked ∧ inParked (ringIn p) cid = false ∧ ringHeld c r < ringLines c r ∧ r < 8 ∧
      ringAddr c r (ringWrPtr c r) % 64 = 0 ∧ c.st = .waiting ∧ c.wait = some (.ring r 64) ∧ ringWrPtr c r < 2 * ringLines c r ∧
      64 ≤ ringHeld c r + 1 := by
  cases p <;> decide +kernel

/-- The engine whose powered field of a router holds a unicast at its west port's main lane, with a run of VC0 flits at an output. -/
def flying (from_ to_ : CoreId) (vc : BitVec 2) (out run : Nat) : State :=
  let s := lit (coreField State.reset to_)
  let s := setLane s (laneKey from_ 3 vc.toNat false) ⟨[headOf (pktTo to_ vc [flit false]) [(out, .unicast)]], none, false⟩
  { s with mesh := { s.mesh with ports := [(outKey from_ out, ⟨[], run, 0⟩)] } }

theorem witness_RoutersGrantAndForwardFlits :
    (let s := flying ⟨318, 0⟩ ⟨319, 0⟩ 0 1 15
     readyLanes s ⟨318, 0⟩ 1 0 ≠ [] ∧ (∀ k ∈ readyLanes s ⟨318, 0⟩ 1 0, forkAgreed s ⟨318, 0⟩ 1 0 k = true) ∧ (getOut s (outKey ⟨318, 0⟩ 1)).vc0Run < 16) ∧
    (let s := flying ⟨318, 0⟩ ⟨319, 0⟩ 3 1 16
     readyLanes s ⟨318, 0⟩ 1 3 ≠ [] ∧ (∀ k ∈ readyLanes s ⟨318, 0⟩ 1 3, forkAgreed s ⟨318, 0⟩ 1 3 k = true) ∧ 16 ≤ (getOut s (outKey ⟨318, 0⟩ 1)).vc0Run) ∧
    (∀ vc, vc < 4 → readyLanes (fillRouter State.reset ⟨318, 0⟩) ⟨318, 0⟩ 1 vc = []) ∧
    (let s := flying ⟨318, 0⟩ ⟨319, 0⟩ 1 1 0
     let k := laneKey ⟨318, 0⟩ 3 1 false
     let m := headOf (pktTo ⟨319, 0⟩ 1 [flit false]) [(1, .unicast)]
     inGrid s ⟨318, 0⟩ = true ∧ logicalCols s ≤ 320 ∧ grantVc s ⟨318, 0⟩ 1 = some (1, [k]) ∧
      getWaiting s (waitKey ⟨318, 0⟩ 4 0) = [] ∧ getWaiting s (waitKey ⟨318, 0⟩ 4 1) = [] ∧ [k][5 % 1]? = some k ∧ (getLane s k).flits = [m] ∧ m.vc.toNat = 1 ∧
      frontOuts (getLane s k) m = [(1, .unicast)] ∧ getFifo s (fifoKey ⟨318, 0⟩ (k / 8 % 5) 1) = [] ∧
      meshStep s ⟨318, 0⟩ 1 = some ⟨319, 0⟩ ∧ crosses s ⟨318, 0⟩ ⟨319, 0⟩ = false ∧
      (getLane s (laneKey ⟨319, 0⟩ (facing 1) 1 (slipLeg m.hdr .unicast))).sink = false ∧ m.head = true ∧ getN s Key.captureEmpty = 1) ∧
    (let s := setCore (flying ⟨319, 287⟩ ⟨319, 287⟩ 3 4 0) ⟨319, 287⟩ memCore
     let k := laneKey ⟨319, 287⟩ 3 3 false
     let m := headOf (pktTo ⟨319, 287⟩ 3 [flit false]) [(4, .unicast)]
     inGrid s ⟨319, 287⟩ = true ∧ grantVc s ⟨319, 287⟩ 4 = some (3, [k]) ∧
      getWaiting s (waitKey ⟨319, 287⟩ 4 0) = [] ∧ getWaiting s (waitKey ⟨319, 287⟩ 4 1) = [] ∧ (getLane s k).flits = [m] ∧ m.vc.toNat = 3 ∧
      frontOuts (getLane s k) m = [(4, .unicast)] ∧ getFifo s (fifoKey ⟨319, 287⟩ (k / 8 % 5) 3) = []) ∧
    (∀ e ∈ [((⟨0, 0⟩ : CoreId), (⟨319, 0⟩ : CoreId)), (⟨319, 0⟩, ⟨0, 0⟩), (⟨0, 0⟩, ⟨0, 287⟩), (⟨0, 287⟩, ⟨0, 0⟩), (⟨319, 287⟩, ⟨319, 287⟩)],
      let h := (pktTo e.2 1 [flit false]).hdr
      hdrMode h = 0 ∧ hdrCol h = e.2.col ∧ hdrRow h = e.2.row) := by
  decide +kernel

/-- The physical core at (3, 5), and another of its field row. -/
def pid : PhysId := ⟨3, 5⟩
def pid2 : PhysId := ⟨4, 5⟩

/-- A death that waits for its detour, and one whose detour waits for a barrier message in the mesh. -/
def deathState : State := { running with grid := { running.grid with deaths := [pid] } }
def barrierFlies : State :=
  setLane deathState (laneKey ⟨0, 0⟩ 4 0 false) ⟨[headOf (pktTo cid 0 [flit false]) [(2, .unicast)]], none, false⟩

/-- A core that faulted, for the first time or in the replay of micro-batch 4. -/
def faultState (again : Bool) : State :=
  let s := withCore { coreAs .faulted with excCause := 2 }
  { s with stp := { s.stp with
      work := [⟨4, 0, false, 1, 0, false, false, false, 0, 0, 0, false, []⟩]
      faultSeen := if again then [(coreKey cid, 2 * 65536, [4])] else [] } }

theorem witness_CoreDeathDetourReplay :
    (logicalOf running pid = some cid ∧ (getCore running cid).st ≠ .dead ∧ (getCore running cid).st ≠ .parked ∧ inParked running cid = false ∧
      entryInForce running pid % 64 = 63 ∧ (running.grid.underWay ++ running.grid.deaths).filter (fun d => physRow d == physRow pid) = [] ∧
      noDetour running (physField pid) = false) ∧
    (logicalOf deathState pid2 = some ⟨4, 5⟩ ∧ (getCore deathState ⟨4, 5⟩).st ≠ .dead ∧ (getCore deathState ⟨4, 5⟩).st ≠ .parked ∧ inParked deathState ⟨4, 5⟩ = false ∧
      (deathState.grid.underWay ++ deathState.grid.deaths).filter (fun d => physRow d == physRow pid2) ≠ []) ∧
    (pid ∈ detourDeaths deathState ∧ deathState.grid.underWay = [] ∧ meshFlits deathState = [] ∧ deathState.mesh.lanes = [] ∧
      (∀ d ∈ detourDeaths deathState, physRow d = physRow pid → d = pid)) ∧
    (pid ∈ detourDeaths barrierFlies ∧ barrierFlies.grid.underWay = [] ∧ barrierInFlight barrierFlies = true) ∧
    (let s := { running with grid := { running.grid with underWay := [pid] } }
     s.grid.underWay ≠ [] ∧ meshFlits s = [] ∧ s.mesh.lanes = []) ∧
    (let s := { running with grid := { running.grid with detouring := true } }
     s.grid.detouring = true ∧ s.grid.deaths = [] ∧ s.grid.underWay = []) ∧
    ((getCore (faultState false) cid).st = .faulted ∧ (getCore (faultState false) cid).excCause ≠ excArrayCheck ∧
      faultRepeats (faultState false) cid (getCore (faultState false) cid) = false ∧
      faultRepeats (faultState true) cid (getCore (faultState true) cid) = true ∧ (getCore (faultState true) cid).st = .faulted) := by
  decide +kernel

/-- A placement with one mark: waypoint 7 is the forward end of the step's first micro-batch. -/
def place : Placement where
  hash := List.replicate 32 0
  columns := 320
  excluded := none
  dark := none
  spare := false
  stage := 0
  stages := 1
  depthMax := 8
  contextIndex := 0
  contextSize := 1
  prev := 0
  next := 0
  microbatches := 1
  seqOrigin := 0
  stepOrigin := 0
  allowance := 0
  layers := []
  marks := [⟨7, 0, 0, 0⟩]
  cores := []
  programs := []
  groups := []
  regions := []
  schedule := []
  milestoneOffset := 0
  landing := []
  departure := []
  replicas := 1
  rank := 0
  peers := []
  compression := []
  sources := []
  spills := []
  mapSources := []
  arms := []
  trims := []
  feeders := []
  senders := []
  results := none
  groupLayers := []
  gradients := []
  tokens := none

/-- The engine whose schedule wants two reports of waypoint 7, one of which is in. -/
def waypoints : State :=
  { running with
    doms := [(Key.waypointSchedule, leBytes 4 7 ++ leBytes 4 2 ++ leBytes 8 0)]
    placement := some place
    stp := { running.stp with wpCount := [(7, 1)], work := [⟨0, 0, false, 1, 0, false, false, false, 0, 0, 0, false, []⟩] } }

theorem witness_WaypointReportsAreCounted :
    ((scheduleEntries waypoints).find? (fun e => e.1 == (7 : W32).toNat) = some ((7 : W32).toNat, 2, 0) ∧ 0 = waypoints.stp.step ∧
      stGet waypoints.stp.wpCount 7 < 2 ∧ stGet waypoints.stp.wpCount 7 + 1 = 2 ∧ waypoints.placement = some place ∧
      place.marks.filter (fun m : WpMark => m.waypoint == (7 : W32).toNat) = [⟨7, 0, 0, 0⟩] ∧
      (∃ x ∈ waypoints.stp.work, x.seq = stepFirstSeq waypoints waypoints.stp.step + 0 ∧ x.evaluation = false)) ∧
    (scheduleEntries waypoints).find? (fun e => e.1 == (8 : W32).toNat) = none ∧ (1 : Nat) ≠ waypoints.stp.step ∧
    (let s := { waypoints with stp := { waypoints.stp with wpCount := [(7, 2)] } }
     2 ≤ stGet s.stp.wpCount 7) := by
  decide +kernel

/-- The engine with Parealo open, and without a valid map copy. -/
def opened : State := { State.reset with par := { State.reset.par with isOpen := true } }
def noMap : State := { opened with grid := { opened.grid with mapA := none } }

/-- A write of the owner in a transaction. -/
def wr (v : Nat) : WReq := ⟨.owner, true, v⟩

theorem accepted_of {s : State} {key : Nat} {w : WReq} (h : writesOpen s w.role key = true ∧ reqStatus s key w = stOk) : Accepted s key w :=
  ⟨h.1, h.2⟩

theorem acceptedDom_of {s : State} {key : Nat} {w : DReq}
    (h : writesOpen s w.role key = true ∧ writeStatus s w.role w.inTxn key w.bytes = stOk) : AcceptedDom s key w :=
  ⟨h.1, h.2⟩

theorem witness_OwnerWritesTheDefectMap :
    (∃ m, curMap opened = some m ∧ lostByte (stGet m.fields 89) = false) ∧
    (∃ m, curMap (after (exec (.excludeField (wr 89)) opened)) = some m ∧ lostByte (stGet m.fields 89) = true) ∧
    (Accepted opened Key.excludeField (wr 89) ∧ (wr 89).val < 90) ∧
    (Accepted (after (exec (.excludeField (wr 89)) opened)) Key.excludeField (wr 89)) ∧
    (Accepted opened Key.releaseFieldLoss (wr 89) ∧ ¬((wr 89).val ≤ 89 ∧ fieldUnpowered opened (wr 89).val = true)) ∧
    (Accepted opened Key.markCoreDefective (wr (9 + 16 * 8 + 256 * 31 + 8192 * 32)) ∧ bits (9 + 16 * 8 + 256 * 31 + 8192 * 32) 3 0 ≤ 9 ∧
      bits (9 + 16 * 8 + 256 * 31 + 8192 * 32) 7 4 ≤ 8 ∧ bits (9 + 16 * 8 + 256 * 31 + 8192 * 32) 18 13 ≤ 32) ∧
    (curMap noMap = none ∧ Accepted noMap Key.excludeField (wr 0) ∧ Accepted noMap Key.releaseFieldLoss (wr 0) ∧ Accepted noMap Key.markCoreDefective (wr 0)) :=
  ⟨⟨_, rfl, by decide⟩, by
      have h : ((curMap (after (exec (.excludeField (wr 89)) opened))).map (fun m => lostByte (stGet m.fields 89))) = some true := by decide +kernel
      cases hm : curMap (after (exec (.excludeField (wr 89)) opened)) with
      | none => rw [hm] at h; exact absurd h (by decide)
      | some m => rw [hm] at h; exact ⟨m, rfl, by simpa using h⟩,
    ⟨accepted_of (by decide +kernel), by decide⟩, accepted_of (by decide +kernel), ⟨accepted_of (by decide +kernel), by decide +kernel⟩,
    ⟨accepted_of (by decide +kernel), by decide⟩, rfl, accepted_of (by decide +kernel), accepted_of (by decide +kernel), accepted_of (by decide +kernel)⟩

/-! What the manual says of single values (R37, R42, R81, R87, R97, R192, R402). -/

/-- The core that a command leaves. -/
def left (c : Instr) (s : State) : Core := getCore (after (exec c s)) cid

theorem test_arrival_release : (getLane (after (exec (.syncArrival cid 2 7 ⟨0x5000, []⟩) (barrier .waiting 0 1))) (laneKey cid 4 0 false)).flits.length = 1 := by decide +kernel
theorem test_release_runs : (left (.syncRelease cid 2 ⟨7, []⟩) (barrier .waiting 0 1)).st = .running := by decide +kernel
theorem test_ring_wraps : (left (.ringDelivery cid 3) (ringIn false)).ringWr[0] = 0 := by decide +kernel
theorem test_heartbeat : (left (.heartbeatPulse pid true true) running).heartbeatOk = true := by decide +kernel
theorem test_detour_entry : amGet 63 (after (exec (.detour ⟨pid, []⟩) deathState)).grid.runRows (physRow pid) = 3 + 128 := by decide +kernel
theorem test_exclude_field : ((curMap (after (exec (.excludeField (wr 89)) opened))).map (fun m => m.generation)) = some 2 := by decide +kernel
theorem test_waypoint_other_step : getN (after (exec (.waypointReport 7 cid 1) waypoints)) Key.reportsUnmatched = 1 := by decide +kernel
theorem test_core_dead : (left (.coreDead pid true) running).st = .dead := by decide +kernel

/-! ### The host's rings, tickets and slots -/

/-- The engine in RUN. -/
def inRunState : State := setN opened Key.bringupPhase 7

/-- The engine in RUN with its link up and given rings of 64 entries. -/
def ringsAt (subHead subTail accHead accTail : W32) : State :=
  { inRunState with host := { inRunState.host with
      linkUp := true
      bar := { inRunState.host.bar with
        subBase := 0, subEntries := 64, subTail := subTail, subHead := subHead
        accBase := 0, accEntries := 64, accHead := accHead, accTail := accTail } } }

theorem witness_RingRegistersTakeWrites :
    (let b := (ringsAt 1 2 60 2).host.bar
     barLive (ringsAt 1 2 60 2) = true ∧
     ((63 : W32).toNat < b.subEntries.toNat ∧ ((63 : W32) = b.subHead → (63 : W32) = b.subTail)) ∧
     b.subEntries.toNat ≤ (64 : W32).toNat ∧ ((1 : W32) = b.subHead ∧ (1 : W32) ≠ b.subTail) ∧
     ((2 : W32).toNat < b.accEntries.toNat ∧
       ringDist b.accEntries.toNat b.accHead.toNat (2 : W32).toNat ≤ ringDist b.accEntries.toNat b.accHead.toNat b.accTail.toNat) ∧
     ringDist b.accEntries.toNat b.accHead.toNat b.accTail.toNat < ringDist b.accEntries.toNat b.accHead.toNat (3 : W32).toNat ∧
     b.accEntries.toNat ≤ (64 : W32).toNat ∧ b.subHead ≠ b.subTail) ∧
    (let b := (ringsAt 5 5 7 7).host.bar
     barLive (ringsAt 5 5 7 7) = true ∧ b.subHead = b.subTail ∧ b.accTail = b.accHead ∧ (0x1000 : W64).toNat % 4096 = 0 ∧
       (0x1008 : W64).toNat % 4096 ≠ 0 ∧ (64 : W64).toNat % 2 ^ 32 = 2 ^ 6 ∧ (65536 : W64).toNat % 2 ^ 32 = 2 ^ 16 ∧
       (∀ k, k ≤ 16 → 6 ≤ k → (63 : W64).toNat % 2 ^ 32 ≠ 2 ^ k)) ∧
    barLive State.reset = false := by
  decide +kernel

/-- A training ticket of sequence number 0 into slot 4095 with 64 bytes of data, and one of another kind, sequence number or step. -/
def ticket (kind : Byte) (seq step : Nat) : List Byte :=
  let b := [kind, 0, 0xFF, 0x0F] ++ leBytes 4 64 ++ leBytes 8 seq ++ leBytes 8 step ++ leBytes 36 0
  b ++ leBytes 4 (crc32c b)

/-- The ring entry as read. -/
def entry (b : List Byte) (fault : Bool) : TicketEnv := ⟨b, List.replicate 64 7, [], fault, false, false⟩

/-- The engine in RUN with one micro-batch a step and one entry in its ring. -/
def ticketState : State := setN (ringsAt 0 1 0 0) Key.microbatchesPerStep 1

/-- The same with that ticket accepted, its slot PENDING, or ended by a result in the slot. -/
def acceptedState (slot : Byte) : State :=
  { ticketState with host := { ticketState.host with
      tickets := [⟨1, ticket 1 0 0, List.replicate 64 7, [], slot != 1, none⟩]
      slots := [(4095, sealSlot ([slot, 0, 5, 0] ++ List.replicate 36 0 ++ [1] ++ List.replicate 19 0) [])] } }

theorem witness_TicketsAreAcceptedOrRefused :
    (let s := ticketState
     2 ≤ getN s Key.bringupPhase ∧ s.host.bar.subEntries ≠ 0 ∧ s.host.bar.accEntries ≠ 0 ∧ s.host.bar.subHead ≠ s.host.bar.subTail ∧
       s.host.queued.length < tokenRoom s ∧ outstanding s < getN s Key.maxOutstanding ∧ ringUnread s = false ∧
       s.host.linkUp = true ∧ s.host.queued = [] ∧ notRunning s = false) ∧
    notRunning (setN ticketState Key.podSpare 1) = true ∧ badTicket (List.replicate 64 0) = true ∧ badTicket (ticket 1 0 0) = false ∧
    (badTicket (ticket 2 0 0) = false ∧ tkKind (ticket 2 0 0) = 2 ∧ ticketState.stp.evalCfg.1 = 0) ∧
    (badTicket (ticket 1 2 0) = false ∧ wrongStep ticketState (ticket 1 2 0) = true) ∧
    (badTicket (ticket 1 0 2) = false ∧ wrongStep ticketState (ticket 1 0 2) = true) ∧
    (wrongStep ticketState (ticket 1 0 0) = false ∧ duplicateOf ticketState (ticket 1 0 0) = none ∧
      slotState (getSlot ticketState (tkSlot (ticket 1 0 0))) = 0) ∧
    (∃ d, duplicateOf (acceptedState 1) (ticket 1 0 0) = some d) ∧
    (wrongStep (acceptedState 1) (ticket 1 1 1) = false ∧ duplicateOf (acceptedState 1) (ticket 1 1 1) = none ∧
      slotState (getSlot (acceptedState 1) (tkSlot (ticket 1 1 1))) ≠ 0 ∧ ringUnread (acceptedState 1) = false) ∧
    ticketData ticketState (entry (ticket 1 0 0) true) = none ∧
    ticketData ticketState (entry (ticket 1 0 0) false) = some (List.replicate 64 7) ∧
    ({ ticketState with host := { ticketState.host with linkUp := false } } : State).host.linkUp = false ∧
    ringUnread { ticketState with beat := { ticketState.beat with lapsed := true } } = true ∧
    tokenRoom (ringsAt 0 1 1 0) = 0 := by
  refine ⟨by decide +kernel, by decide +kernel, by decide +kernel, by decide +kernel, by decide +kernel, by decide +kernel,
    by decide +kernel, by decide +kernel, ⟨_, rfl⟩, by decide +kernel, by decide +kernel, by decide +kernel, by decide +kernel,
    by decide +kernel, by decide +kernel⟩

/-- A token that waits. -/
def token : Token := ⟨0, 0, 0, 1, 0⟩

theorem witness_TokensSlotsAndTheLink :
    (let s := { ringsAt 0 0 1 63 with host := { (ringsAt 0 0 1 63).host with queued := [token] } }
     s.host.queued = token :: [] ∧ s.host.linkUp = true ∧ 0 < tokenRoom s ∧ s.host.bar.accTail.toNat + 1 = s.host.bar.accEntries.toNat) ∧
    (let s := { ringsAt 0 0 0 62 with host := { (ringsAt 0 0 0 62).host with queued := [token] } }
     s.host.queued = token :: [] ∧ s.host.linkUp = true ∧ 0 < tokenRoom s ∧ s.host.bar.accTail.toNat + 1 ≠ s.host.bar.accEntries.toNat) ∧
    (barLive (acceptedState 2) = true ∧ slotState (getSlot (acceptedState 2) (bits 0x50FFF 11 0)) = 2 ∧
      slotGen (getSlot (acceptedState 2) (bits 0x50FFF 11 0)) = bits 0x50FFF 31 16) ∧
    (barLive (acceptedState 3) = true ∧ slotState (getSlot (acceptedState 3) (bits 0x50FFF 11 0)) = 3 ∧
      slotGen (getSlot (acceptedState 3) (bits 0x50FFF 11 0)) = bits 0x50FFF 31 16) ∧
    (slotState (getSlot (acceptedState 1) (bits 0x50FFF 11 0)) = 1 ∧ slotGen (getSlot (acceptedState 2) (bits 0x60FFF 11 0)) ≠ bits 0x60FFF 31 16) := by
  decide +kernel

/-- The work of the ticket of sequence number 0, as far as given. -/
def workAt (evaluation ended : Bool) : Work := ⟨0, 0, evaluation, 1, 0, ended, false, false, 0, 0, 0, false, []⟩

/-- The engine in RUN with that ticket and its work. -/
def working (evaluation ended : Bool) : State :=
  { acceptedState 1 with
    host := { (acceptedState 1).host with tickets := [⟨1, ticket (if evaluation then 2 else 1) 0 0, List.replicate 64 7, [], false, none⟩] }
    stp := { (acceptedState 1).stp with work := [workAt evaluation ended] } }

/-- The last stage with the micro-batch's forward work ended and its loss marked as computed, at depth 1. -/
def lossIn : State :=
  let s := setN (working false true) Key.depth 1
  { s with placement := some { place with marks := [⟨7, 0, 0, 0⟩, ⟨8, 0, 4, 0⟩] }, stp := { s.stp with outGrads := [(localLoss, 0)] } }

theorem witness_MicrobatchesBeginAndEnd :
    (let s := { ticketState with stp := { ticketState.stp with replayPending := [4] } }
     inRun s = true ∧ s.stp.suspended = false ∧ s.stp.replayPending = 4 :: []) ∧
    (let s := acceptedState 1
     inRun s = true ∧ s.stp.suspended = false ∧ s.stp.replayPending = [] ∧ s.stp.windowEnd = none ∧
       (∃ k, ticketOf s 1 0 = some k ∧ tkStep k.bytes = s.stp.step) ∧ getN s Key.reshardPhase ≤ 1 ∧ begun s false 0 = false ∧
       depthAllows s 0 = true ∧ stepFirstSeq s s.stp.step = 0) ∧
    (let s := { working true false with stp := { (working true false).stp with work := [], windowEnd := some 9, admitted := [1] } }
     inRun s = true ∧ s.stp.suspended = false ∧ s.stp.replayPending = [] ∧ s.stp.windowEnd ≠ none ∧
       (∃ k, ticketOf s 2 0 = some k ∧ k.acceptId ∈ s.stp.admitted) ∧ begun s true 0 = false ∧ admittedBefore s 0 = true) ∧
    (let s := lossIn
     inRun s = true ∧ s.stp.suspended = false ∧
       (∃ w ∈ s.stp.work, w.evaluation = false ∧ w.seq = 0 ∧ w.forwardEnded = true ∧ w.backwardBegun = false ∧ w.abandoned = false) ∧
       gradsIn s 0 = true ∧ slotReached s 0 = true ∧ 0 = stepFirstSeq s s.stp.step) ∧
    (let s := working true false
     workOf s 1 = some (workAt true false) ∧ s.log.failed = false ∧
       (∃ k, s.host.tickets.find? (fun t => t.acceptId == 1 && !t.ended) = some k)) := by
  refine ⟨by decide +kernel, ⟨by decide +kernel, rfl, rfl, rfl, ⟨_, rfl, by decide +kernel⟩, by decide +kernel, by decide +kernel, by decide +kernel⟩,
    ⟨by decide +kernel, rfl, rfl, by decide +kernel, ⟨_, rfl, by decide +kernel⟩, by decide +kernel, by decide +kernel⟩,
    ⟨by decide +kernel, rfl, ⟨_, List.mem_singleton.mpr rfl, rfl, rfl, rfl, rfl, rfl⟩, by decide +kernel⟩,
    ⟨by decide +kernel, rfl, ⟨_, rfl⟩⟩⟩

/-! What the manual says of single values (R365, R366, R367, R371). -/

theorem test_ticket_accepted : (after (exec (.ticketRead (entry (ticket 1 0 0) false)) ticketState)).host.tickets.length = 1 := by decide +kernel
theorem test_ticket_bad : getN (after (exec (.ticketRead (entry (List.replicate 64 0) false)) ticketState)) (Key.ticketsRefused 0) = 1 := by decide +kernel
theorem test_ticket_wrong_step : getN (after (exec (.ticketRead (entry (ticket 1 2 0) false)) ticketState)) (Key.ticketsRefused 1) = 1 := by decide +kernel
theorem test_phase_inverts : (after (exec .acceptanceTokenWrite { ringsAt 0 0 1 63 with host := { (ringsAt 0 0 1 63).host with queued := [token] } })).host.bar.phase = false := by decide +kernel
theorem test_release_frees : slotState (getSlot (after (exec (.release 0x50FFF) (acceptedState 2))) 4095) = 0 := by decide +kernel
theorem test_release_generation : getN (after (exec (.release 0x60FFF) (acceptedState 2))) Key.releasesIgnored = 1 := by decide +kernel

/-! ### Gates, the exchange and the transport -/

/-- The source table of gate 31: one partial of block 0 of group 9 from the core. -/
def gated : State :=
  setN { groupState true with gates := { (groupState true).gates with sources := [⟨31, coreKey cid, 0, 9, 0, false, 1⟩] } } Key.microbatchesPerStep 1

/-- A partial of ones in element order for the cursor's place, with or without poison. -/
def partialOf (p : Bool) : List Flit :=
  let body := List.replicate 16 (⟨List.replicate 64 1, p⟩ : Flit)
  body ++ [⟨trailerOf 0 (flitBytes body), false⟩]

/-- The gate after the poisoned partial, and with the clean one in its slot. -/
def summed (p : Bool) : State :=
  if p then after (exec (.partialReceive ⟨3, 0x47⟩ cid ⟨partialOf true, ⟨[], [], 0⟩⟩) gated)
  else { gated with gates := { gated.gates with
    slots := [⟨31, 9, 0, 0, [(coreKey cid, 0)], List.replicate 256 ElemSum.zero, false, false, false⟩] } }

/-- Some trailer fits none of up to four sequence words. -/
theorem some_trailer (f : Cursor → W32) (win : List Cursor) (payload : List Byte) (h : win.length ≤ 4) :
    ∃ b : Byte, ∀ q ∈ win, trailerHolds (f q) payload (b :: List.replicate 63 0) = false := by
  have hc : ((win.map (fun q => (slice (trailerOf (f q) payload) 0 4).headD 0)).toFinset).card < ({0, 1, 2, 3, 4} : Finset Byte).card := by
    refine lt_of_le_of_lt (List.toFinset_card_le _) ?_
    rw [List.length_map]
    exact lt_of_le_of_lt h (by decide)
  obtain ⟨b, -, hb⟩ := Finset.exists_mem_notMem_of_card_lt_card hc
  refine ⟨b, fun q hq => Bool.eq_false_iff.mpr (fun ht => hb ?_)⟩
  have he := congrArg (fun l => l.headD 0) (eq_of_beq ht)
  exact List.mem_toFinset.mpr (List.mem_map.mpr ⟨q, hq, he.symm⟩)

/-- The clean partial carries the trailer of sequence word 0. -/
theorem clean_trailer : flitBytes ((partialOf false).drop 16) = trailerOf 0 (flitBytes ((partialOf false).take 16)) := by
  have h : flitBytes ((partialOf false).drop 16) =
      flitBytes [⟨trailerOf 0 (flitBytes (List.replicate 16 (⟨List.replicate 64 1, false⟩ : Flit))), false⟩] := rfl
  have h2 : (partialOf false).take 16 = List.replicate 16 (⟨List.replicate 64 1, false⟩ : Flit) := rfl
  rw [h, h2]
  unfold trailerOf
  generalize crc32c _ = x
  rfl

/-- The gate with every slot in use by incomplete blocks. -/
def fullGate : State := { gated with gates := { gated.gates with slots := List.replicate 768 ⟨31, 9, 0, 5, [], [], false, false, false⟩ } }

theorem witness_PartialsAreMatchedAndSummed :
    (gateAt 3 0x47 = some 31 ∧ bit (getN gated Key.clockEnableGates) 31 = true ∧ ([] : List Flit).length ≠ 17 ∧
      sourceEntries gated 31 (coreKey ⟨0, 0⟩) = []) ∧
    (∃ b : Byte,
      let fs := List.replicate 16 (⟨List.replicate 64 1, false⟩ : Flit) ++ [⟨b :: List.replicate 63 0, false⟩]
      anyPoison fs = false ∧ ∀ q ∈ cursorWindow (sourceEntries gated 31 (coreKey cid)).length (cursorOf gated 31 (coreKey cid)),
        trailerHolds (partialWord (sourceEntries gated 31 (coreKey cid)) q) (flitBytes (fs.take 16)) (flitBytes (fs.drop 16)) = false) ∧
    (let es := sourceEntries gated 31 (coreKey cid)
     let c := cursorOf gated 31 (coreKey cid)
     (partialOf false).length = 17 ∧ es[c.pos]? = some ⟨31, coreKey cid, 0, 9, 0, false, 1⟩ ∧ anyPoison (partialOf true) = true ∧
       anyPoison (partialOf false) = false ∧
       (cursorWindow es.length c).find? (fun q => trailerHolds (partialWord es q) (flitBytes ((partialOf false).take 16))
         (flitBytes ((partialOf false).drop 16))) = some c ∧
       partialSeen gated ⟨31, coreKey cid, 0, 9, 0, false, 1⟩ c.seq = false ∧ findSlot gated 31 9 0 c.seq = none ∧
       (gated.gates.slots.filter (fun x => x.gate == 31 && !x.spilled && !x.applied)).length < 768) ∧
    partialSeen (summed true) ⟨31, coreKey cid, 0, 9, 0, false, 1⟩ 0 = true ∧
    (let busy := fullGate.gates.slots.filter (fun x => x.gate == 31 && !x.spilled && !x.applied)
     768 ≤ busy.length ∧ findSlot fullGate 31 9 0 0 = none ∧
       busy.find? (fun x => !slotFull fullGate x) = some ⟨31, 9, 0, 5, [], [], false, false, false⟩) := by
  refine ⟨by decide +kernel, ?_, ⟨by decide +kernel, by decide +kernel, by decide +kernel, by decide +kernel, ?_,
    by decide +kernel, by decide +kernel, by decide +kernel⟩, by decide +kernel, by decide +kernel⟩
  · obtain ⟨b, hb⟩ := some_trailer (partialWord (sourceEntries gated 31 (coreKey cid)))
      (cursorWindow (sourceEntries gated 31 (coreKey cid)).length (cursorOf gated 31 (coreKey cid)))
      (flitBytes (List.replicate 16 (⟨List.replicate 64 1, false⟩ : Flit))) (by decide +kernel)
    exact ⟨b, rfl, hb⟩
  · have hw : partialWord (sourceEntries gated 31 (coreKey cid)) (cursorOf gated 31 (coreKey cid)) = 0 := by decide +kernel
    unfold cursorWindow
    refine List.find?_cons_of_pos ?_
    unfold trailerHolds
    rw [hw, clean_trailer]
    exact beq_self_eq_true _

/-- The gate with reports of the micro-batch. -/
def reported (r : Report) : State := { gated with gates := { gated.gates with reports := [(31, 9, 0, r)] } }

theorem witness_RunningSumsSettleAndExpire :
    (groupDesc (summed false) 9 = some (desc true) ∧ ((findSlot (summed false) 31 9 0 0).map (fun x => (slotFull (summed false) x, x.applied, x.poison))) =
        some (true, false, false) ∧ isSettled (summed false) 9 0 = false ∧ predecessorSettled (summed false) 9 0 = true) ∧
    (((findSlot (summed true) 31 9 0 0).map (fun x => (slotFull (summed true) x, x.applied, x.poison))) = some (true, false, true)) ∧
    (groupGates gated 9 = [31] ∧ firstSeq gated ≤ 0 ∧ 0 ≤ lastSeq gated ∧ isSettled gated 9 0 = false ∧ predecessorSettled gated 9 0 = true ∧
      (∀ k ∈ groupGates (reported .clean) 9, reportOf (reported .clean) k 9 0 = some .clean) ∧
      reportOf (reported .poisoned) 31 9 0 = some .poisoned ∧ reportOf (reported .missing) 31 9 0 = some .missing) ∧
    (let s := { gated with gates := { gated.gates with backwardEnded := [(0, 5)] } }
     (∃ e ∈ s.gates.backwardEnded, e.1 = 0) ∧ 9 ∈ gateGroups s 31 ∧ partialLacks s 31 9 0 = true ∧ reportOf s 31 9 0 = none) := by
  decide +kernel

/-- Two ranks, this one the second, at step 1. -/
def ranks : State :=
  let s := setN (setN (setN { opened with doms := [(Key.groupTable, desc true)] } Key.replicas 2) Key.rank 1) Key.microbatchesPerStep 1
  { setDom s Key.peerTable [1, 0, 0, 0, 0, 0, 0, 0] with stp := { s.stp with step := 1 } }

/-- A message of the other rank with its CHECK. -/
def xmsg (typ method flags first count step : Nat) (payload : List Byte) : XMsg :=
  sealMsg 0 ⟨typ, 1, method, 0, 1, step, if typ = 3 then 0 else 9, 0, 2, flags, first, count, 0, 0, 0, 0, payload, 0⟩

/-- A contribution, a gather by SIGN and with its skip flag, and a fingerprint. -/
def contribMsg (step : Nat) : XMsg := xmsg 1 3 0 0 1 step (List.replicate 36 0)
def fpMsg (step : Nat) : XMsg := xmsg 3 0 0 0 1 step (List.replicate 16 0)

/-- The same two ranks, this one the first, so that the other owns the vector's block. -/
def ranksG : State := setN (setDom ranks Key.peerTable [0, 0, 0, 0, 1, 0, 0, 0]) Key.rank 0
def gatherMsg (skip : Bool) : XMsg :=
  sealMsg 0 ⟨2, 1, 3, 0, 1, 1, 9, 1, 2, b2n skip, 0, 1, 0, 0, 0, 0, if skip then [] else List.replicate 36 0, 0⟩

/-- Whether a message is sound for a state. -/
def soundMsg (s : State) (m : XMsg) : Bool :=
  m.check.toNat == xCheck (ownAddr s) m && !xReserved m && decide (m.rank < getN s Key.replicas) && m.source == peerAddr s m.rank &&
    m.replicas == getN s Key.replicas && xShapeOk s m

theorem witness_ExchangeMessagesAreJudgedAndTaken :
    (soundMsg ranks (contribMsg 1) = true ∧ soundMsg ranks (contribMsg 2) = true ∧ soundMsg ranks (contribMsg 3) = true ∧
      soundMsg ranks (fpMsg 0) = true ∧ soundMsg ranksG (gatherMsg false) = true ∧ soundMsg ranksG (gatherMsg true) = true ∧
      soundMsg ranks { contribMsg 1 with check := 0 } = false) ∧
    ((contribMsg 1).rank ∉ ranks.exch.excused ∧ (contribMsg 1).blockCount = 1 ∧ 1 < getN ranks Key.replicas ∧ 1 ≠ (contribMsg 1).rank ∧
      (∀ x ∈ ranks.exch.accepted, x.typ = 1 → x.rank ≠ 1) ∧ groupDesc ranks 9 = some (desc true) ∧
      (contribMsg 1).rank ∈ ({ ranks with exch := { ranks.exch with excused := [0] } } : State).exch.excused ∧
      (gatherMsg false).flags = 0 ∧ (gatherMsg true).flags = 1 ∧ (gatherMsg false).blockCount = 1) ∧
    (ranks.stp.step = 1 ∧ (acceptedMsgs ranks).any (sameMsg (contribMsg 1)) = false ∧ ranks.exch.nextStep.any (sameMsg (contribMsg 2)) = false ∧
      gatherWaits ranksG (gatherMsg false) = false ∧ gatherWaits ranks (fpMsg 0) = false ∧ groupDesc ranksG 9 = some (desc true)) ∧
    (let s := { ranks with exch := { ranks.exch with accepted := [contribMsg 1] } }
     (acceptedMsgs s).find? (sameMsg (contribMsg 1)) = some (contribMsg 1)) ∧
    (let s := { ranks with exch := { ranks.exch with fingerprints := [{ fpMsg 0 with rank := 1, source := 0 }] } }
     s.exch.comparedStep ≠ some (getN s Key.commitStep) ∧
       (∀ r, r < getN s Key.replicas → ∃ f ∈ s.exch.fingerprints ++ [fpMsg 0], f.rank = r ∧ f.step = getN s Key.commitStep) ∧
       (acceptedMsgs s).any (sameMsg (fpMsg 0)) = false ∧ desc true ∈ groupDescs s) := by
  refine ⟨by decide +kernel, by decide +kernel, by decide +kernel, by decide +kernel, by decide +kernel, ?_, by decide +kernel, by decide +kernel⟩
  intro r hr
  have h2 : getN ranks Key.replicas = 2 := by decide +kernel
  have h : r < 2 := h2 ▸ hr
  interval_cases r <;> decide +kernel

/-- A group whose sum is final and late. -/
def lateState : State :=
  setGroup (setN ranks Key.beatNumber 100000) 9 { GroupSt.default with final := true }

theorem witness_ExchangeObjectsAndLatePeers :
    Accepted ranks Key.excuse (wr 1) ∧ Accepted ranks Key.override (wr 0xFFFFFFFF) ∧ Accepted ranks Key.override (wr 0) ∧
    (Accepted ranks Key.setCompression (wr 0x0000000300030009) ∧ methodOk (bits 0x0000000300030009 23 16) (bits 0x0000000300030009 31 24) = true ∧
      methodOk (bits 0x0000000300030009 39 32) (bits 0x0000000300030009 47 40) = true ∧ groupDesc ranks (bits 0x0000000300030009 11 0) = some (desc true) ∧
      encSize (bits 0x0000000300030009 23 16) (bits 0x0000000300030009 31 24) ≤ inboundSize ranks (bits 0x0000000300030009 11 0)) ∧
    (Accepted ranks Key.setCompression (wr 0x0000000000000008) ∧ groupDesc ranks (bits 0x8 11 0) = none) ∧
    Accepted ranks (Key.keyHi 15) (wr (2 ^ 64 - 1)) ∧ Accepted ranks (Key.keyLo 0) (wr 0) ∧ Accepted ranks (Key.ksetK 63 11) (wr 0xFFFFFFFF) ∧
    (groupDesc lateState 9 = some (desc true) ∧
      (let g := getGroup lateState 9
       g.final = true ∧ g.hold = false ∧ g.ready = false ∧ g.late = false ∧ g.finalBeat + getN lateState Key.peerLateBeats ≤ beatNow lateState ∧
         lateRank lateState (desc true) = some 0)) ∧
    (groupDesc ranks 9 = some (desc true) ∧ (getGroup ranks 9).final = false) :=
  ⟨accepted_of (by decide +kernel), accepted_of (by decide +kernel), accepted_of (by decide +kernel),
    ⟨accepted_of (by decide +kernel), by decide +kernel⟩, ⟨accepted_of (by decide +kernel), by decide +kernel⟩, accepted_of (by decide +kernel),
    accepted_of (by decide +kernel), accepted_of (by decide +kernel), by decide +kernel, by decide +kernel⟩

/-- The engine with EP port 7 UP, one message waiting for engine 1 and one unacknowledged, and a flow from it. -/
def linked (unacked : List TxMsg) : State :=
  let s := setN (setN ranks (Key.epState 7) 2) Key.bringupPhase 7
  { s with eth := { s.eth with
      tx := [⟨1, false, 5, unacked, [[1, 2, 3]], 3, 4⟩]
      rx := [⟨1, false, 6, 0, [], true, false⟩]
      epochs := [(1, 6)] } }

/-- A datagram of engine 1 with its CHECK. -/
def dgram (kind seq segment segments epoch : Nat) (payload : List Byte) : Datagram :=
  let d : Datagram := ⟨1, kind, 0, 1, 0, epoch, seq, segment, segments, payload, true, 0⟩
  { d with check := BitVec.ofNat 32 (dgCheck d) }

/-- How the datagrams arrive. -/
def via : Arrival := ⟨7, 0, 0, false⟩

/-- Whether a datagram is sound for a state. -/
def soundDg (s : State) (kind : Nat) (d : Datagram) : Bool :=
  !via.extHeader && d.udpOk && d.check.toNat == dgCheck d && d.kind == kind && dgReservedOk d && d.dest == ownAddr s && knownSource s d.source

theorem witness_TransportSendsReceivesAndRetries :
    (let s := linked []
     findTx s 1 false = some ⟨1, false, 5, [], [[1, 2, 3]], 3, 4⟩ ∧ 0 < getN s Key.windowMessages ∧ upPorts s ≠ [] ∧ upPorts ranks = [] ∧
       (∀ g ∈ s.eth.tx, g.encap = true → g.waiting = [])) ∧
    (soundDg (linked []) 1 { dgram 1 1 0 2 6 [1] with check := 0 } = false ∧ heldEpoch (linked []) 1 = some 6 ∧ 5 < 6) ∧
    (let s := linked []
     let d := dgram 1 1 0 2 6 [1]
     let f := rxFlow s d false
     let m := rxMsg f d
     soundDg s 1 d = true ∧ heldEpoch s d.source = some d.epoch ∧ f.cum < d.msgSeq ∧ m.written = false ∧
       m.held.any (fun h => h.1 == d.segment) = false ∧ d.flags = 0 ∧ rxComplete { m with held := m.held ++ [(d.segment, d.payload)] } = false) ∧
    (let s := ranks
     let d := dgram 3 1 0 1 6 [1]
     soundDg s 3 d = true ∧ heldEpoch s d.source = none ∧ d.msgSeq = (rxFlow s d true).cum + 1 ∧ rxMsg (rxFlow s d true) d = ⟨1, 1, [], false⟩) ∧
    (let s := linked [⟨4, [1], [], true⟩]
     let d := dgram 2 4 0 0 6 [1, 0, 0, 0]
     soundDg s 2 d = true ∧ heldEpoch s d.source = some d.epoch ∧ ackOk d.payload = true ∧
       findTx s d.source (field d.payload 0 1 == 3) = some ⟨1, false, 5, [⟨4, [1], [], true⟩], [[1, 2, 3]], 3, 4⟩) ∧
    (findRx (linked []) 1 false = some ⟨1, false, 6, 0, [], true, false⟩) ∧
    (let s := { linked [] with eth := { (linked []).eth with rx := [⟨1, false, 6, 0, [], false, false⟩] } }
     findRx s 1 false = some ⟨1, false, 6, 0, [], false, false⟩) ∧
    (let s := linked [⟨4, [1], [], true⟩]
     findTx s 1 false = some ⟨1, false, 5, [⟨4, [1], [], true⟩], [[1, 2, 3]], 3, 4⟩ ∧ upPorts s ≠ [] ∧
       upPorts (setN s (Key.epState 7) 0) = []) := by
  decide +kernel

/-- A PTP message of domain 0 at MC-A's port. -/
def ptpMessage : PtpMessage := ⟨0, 0, -(2 ^ 63)⟩

/-- The engine with EP port 7 DOWN, its gateway set and not resolved, and an ACK that waits for a port. -/
def owing : State :=
  setDom { setN (linked []) (Key.epState 7) 0 with eth := { (linked []).eth with
      tx := [], rx := [⟨1, false, 6, 0, [], true, true⟩] } } (Key.epGateway 7) (List.replicate 16 1)

theorem witness_EthernetPortsAndPtp :
    (epSt State.reset 7 ≠ 3 ∧ epSt (setN State.reset (Key.epState 7) 3) 7 = 3 ∧ epSt (linked []) 7 = 2 ∧ epSt (setN State.reset (Key.epState 0) 1) 0 = 1 ∧
      epSt (setN State.reset (Key.epState 0) 0) 0 = 0 ∧ bit (getN State.reset Key.clockEnableEp) 7 = true ∧
      bit (getN (setN State.reset Key.clockEnableEp 0x7F) Key.clockEnableEp) 7 = false) ∧
    (Accepted (linked []) (Key.epEnable 7) (wr 0) ∧ Accepted (setN (linked []) (Key.epState 7) 3) (Key.epEnable 7) (wr 1) ∧
      epSt (setN (linked []) (Key.epState 7) 3) 7 = 3) ∧
    (List.replicate 16 (1 : Byte) ≠ portAddress (linked []) 7) ∧
    (let s := setN State.reset Key.bringupPhase 2
     2 ≤ getN s Key.bringupPhase ∧ ptpMessage.port = getN s Key.activeCore ∧ ptpMessage.domain = getN s Key.ptpDomain ∧
       { ptpMessage with domain := 1 }.domain ≠ getN s Key.ptpDomain) ∧
    (let s := owing
     epSt s 7 ≠ 3 ∧ bit (getN s Key.clockEnableEp) 7 = true ∧ (∃ f ∈ s.eth.rx, f.owed = true) ∧ (∀ f ∈ s.eth.tx, f.waiting = []) ∧
       s.eth.resolved.any (fun e => e.1 == 7) = false ∧ (getDom s (Key.epGateway 7)).all (fun b => b == 0) = false) :=
  ⟨by decide +kernel, ⟨accepted_of (by decide +kernel), accepted_of (by decide +kernel), by decide +kernel⟩, by decide +kernel, by decide +kernel,
    by decide +kernel⟩

/-! What the manual says of single values (R260, R263, R272, R275, R357, R359). -/

theorem test_partial_duplicate : getN (after (exec (.partialReceive ⟨3, 0x47⟩ cid ⟨partialOf true, ⟨[], [], 0⟩⟩) { summed true with gates := { (summed true).gates with cursors := [] } })) Key.duplicatesDiscarded = 1 := by decide +kernel
theorem test_settle_included : (getGroup (after (exec (.settle 9 ⟨0, ⟨[], [], 0⟩⟩) (setN (reported .clean) Key.microbatchesPerStep 2))) 9).included = 1 := by decide +kernel
theorem test_settle_excluded : getN (after (exec (.settle 9 ⟨0, ⟨[], [], 0⟩⟩) (setN (reported .missing) Key.microbatchesPerStep 2))) Key.excludedMissing = 1 := by decide +kernel
theorem test_contrib_accepted : (after (exec (.contribReceive ⟨contribMsg 1, ⟨[], [], 0⟩⟩) ranks)).exch.accepted.length = 1 := by decide +kernel
theorem test_contrib_check : getN (after (exec (.contribReceive ⟨{ contribMsg 1 with check := 0 }, ⟨[], [], 0⟩⟩) ranks)) Key.messagesRejected = 1 := by decide +kernel
theorem test_ack_covers : ((findTx (after (exec (.datagramAck ⟨via, dgram 2 4 0 0 6 [1, 0, 0, 0]⟩) (linked [⟨4, [1], [], true⟩]))) 1 false).map (fun f => f.cum)) = some 4 := by decide +kernel
theorem test_old_epoch : getN (after (exec (.datagramData ⟨⟨via, dgram 1 1 0 2 5 [1]⟩, ⟨[], [], 0⟩⟩) (linked []))) Key.segmentsDiscarded = 1 := by decide +kernel

/-! ### Aelif links, ticks and clocks -/

/-- Port 47 in a state. -/
def portAt (st : Nat) : State := setN opened (Key.portState 47) st

/-- The same trained, with a signpost heard or not. -/
def trainedAt (st : Nat) (heard : Bool) : State := setPort (portAt st) 47 { PortRec.default with trained := true, heard := heard }

/-- A frame of a type with a number and payload flits. -/
def frameOf (typ : Nat) (seq : BitVec 8) (n : Nat) (ok : Bool) : AFrame :=
  ⟨typ, if typ = 0 then 1 else 0, true, true, false, 0, 0, 0, seq, 0, false, 0, 0, List.replicate n ⟨List.replicate 64 0, false⟩, 0, 0, ok, false⟩

theorem witness_AelifFramesAreTakenInOrder :
    (47 < 48 ∧ portActive State.reset 47 = false ∧ portActive (portAt 4) 47 = true) ∧
    (frameOk (frameOf 0 0 1 false) = false ∧ (frameOf 0 0 0 true).flits = [] ∧ (frameOf 1 0 1 true).typ ≠ 0 ∧ 32 < (frameOf 0 0 33 true).flits.length) ∧
    (frameOk (frameOf 0 0 32 true) = true ∧ (frameOf 0 0 32 true).typ = 0 ∧ (frameOf 0 0 32 true).flits ≠ [] ∧
      (frameOf 0 0 32 true).flits.length ≤ 32 ∧ (frameOf 0 0 32 true).frameSeq = (getPort (portAt 4) 47).rxSeq + 1) ∧
    (frameOk (frameOf 1 0 0 true) = true ∧ (frameOf 1 0 0 true).typ = 1 ∧ (frameOf 1 0 0 true).flits = [] ∧
      (∀ q ∈ upFrom (12 * portDir 47) 12, (getPort (portAt 4) q).queue = []) ∧
      ((getPort (portAt 4) 47).naks.filter (fun b => decide (beatNow (portAt 4) < b + nakBeats (portAt 4)))).length + 1 < 16 ∧
      (let s := setPort (portAt 4) 47 { PortRec.default with naks := List.replicate 15 0 }
       { frameOf 1 0 0 true with nak := true }.nak = true ∧ frameOk { frameOf 1 0 0 true with nak := true } = true ∧ portActive s 47 = true ∧
         16 ≤ ((getPort s 47).naks.filter (fun b => decide (beatNow s < b + nakBeats s))).length + 1) ∧
      (getPort (setPort (portAt 4) 47 { PortRec.default with unacked := [frameOf 0 0 1 true] }) 47).unacked ≠ []) := by
  decide +kernel

/-- A plan of one engine that is the tick root, or that plans ports 0 to 7 of a pod two engines high. -/
def plan1 : List Byte :=
  let h := [0x50, 0x4C, 0x41, 0x4E, 1, 0, 0, 0] ++ leBytes 4 0 ++ leBytes 4 1 ++ [1, 1, 1, 0] ++ leBytes 40 0
  h ++ leBytes 4 (crc32c h) ++ leBytes 16 (2 ^ 27)
def plan2 : List Byte :=
  let h := [0x50, 0x4C, 0x41, 0x4E, 1, 0, 0, 0] ++ leBytes 4 0 ++ leBytes 4 1 ++ [1, 2, 2, 0] ++ leBytes 40 0
  h ++ leBytes 4 (crc32c h) ++ leBytes 16 (0xFF * 2 ^ 32) ++ leBytes 16 (2 ^ 27 + 1 + 2 ^ 22)

/-- A write of bytes by the owner in a transaction. -/
def wd (bs : List Byte) : DReq := ⟨.owner, true, bs⟩

/-- The engine with the second plan in force. -/
def planned : State := setN { opened with aelif := { opened.aelif with plan := plan2 } } Key.podPosition 0x1000

theorem witness_AelifPortsAndDiscovery :
    (3 ≤ portSt (portAt 3) 47 ∧ portSt (portAt 3) 47 ≤ 6 ∧ portSt (portAt 6) 47 = 6) ∧
    (portSt (portAt 2) 47 ≠ 0 ∧ portSt (portAt 2) 47 ≠ 7 ∧ (getPort (portAt 2) 47).trained = false ∧
      (getPort (trainedAt 2 true) 47).trained = true ∧ (getPort (trainedAt 2 true) 47).heard = true ∧ portSt (trainedAt 2 true) 47 ≠ 6 ∧
      portSt (trainedAt 6 true) 47 = 6) ∧
    (let s := setN (setPort (portAt 4) 47 { PortRec.default with unacked := [frameOf 0 0 1 true] }) (Key.portState 36) 4
     (getPort s 47).unacked ≠ [] ∧ portDir 36 = portDir 47 ∧ portActive s 36 = true ∧ portSt s 47 ≠ 5) ∧
    (portSt (portAt 5) 47 = 5 ∧ portSt (portAt 7) 47 = 7) ∧
    (Accepted (portAt 4) (Key.portEnable 47) (wr 0) ∧ Accepted (portAt 4) (Key.portEnable 47) (wr 1) ∧
      getN (portAt 4) (Key.portEnable 47) = 1 ∧ getN (setN (portAt 7) (Key.portEnable 47) 0) (Key.portEnable 47) = 0 ∧
      Accepted (setN (portAt 7) (Key.portEnable 47) 0) (Key.portEnable 47) (wr 1)) ∧
    (portDir 47 = portDir 36 ∧ portActive (portAt 4) 47 = true) ∧
    ((getPort (trainedAt 3 false) 47).trained = true ∧ 3 ≤ portSt (trainedAt 3 false) 47 ∧ portSt (trainedAt 3 false) 47 ≤ 6) ∧
    (let f := frameOf 2 0 1 true
     let bs := flitBytes f.flits
     frameOk f = true ∧ f.typ = 2 ∧ bs.length = 64 ∧ field bs 0 4 / 2 ^ 18 = 0 ∧ field bs 7 1 / 8 = 0 ∧ field bs 0x0D 1 = 0 ∧
       field bs 0x0E 2 = 0 ∧ field bs 0x38 8 = 0 ∧ field bs 4 1 ≤ 47 ∧
       peerReplaced (setN (setDom (trainedAt 4 true) (Key.portPeerSignpost 47) (List.replicate 64 1)) Key.bringupPhase 7) 47 bs = true ∧
       peerReplaced (trainedAt 3 false) 47 bs = false ∧ portSt (trainedAt 3 false) 47 = 3 ∧ f.nak = false ∧
       flitBytes (frameOf 2 0 0 true).flits = []) ∧
    (neighbourPlanned planned (dirNum .north) = true ∧ neighbourPlanned opened (dirNum .north) = false) ∧
    (AcceptedDom opened Key.linkPlan (wd plan1) ∧ planOk opened (wd plan1).bytes = true ∧ inRun opened = false) ∧
    (AcceptedDom inRunState Key.linkPlan (wd plan1) ∧ planOk inRunState (wd plan1).bytes = true ∧ inRun inRunState = true) ∧
    (AcceptedDom opened Key.linkPlan (wd (List.replicate 80 0)) ∧ planOk opened (wd (List.replicate 80 0)).bytes = false) ∧
    AcceptedDom opened Key.substituteTable (wd (List.replicate 256 0)) :=
  ⟨by decide +kernel, by decide +kernel, by decide +kernel, by decide +kernel,
    ⟨accepted_of (by decide +kernel), accepted_of (by decide +kernel), by decide +kernel, by decide +kernel, accepted_of (by decide +kernel)⟩,
    by decide +kernel, by decide +kernel, by decide +kernel, by decide +kernel,
    ⟨acceptedDom_of (by decide +kernel), by decide +kernel, by decide +kernel⟩,
    ⟨acceptedDom_of (by decide +kernel), by decide +kernel, by decide +kernel⟩,
    ⟨acceptedDom_of (by decide +kernel), by decide +kernel⟩, acceptedDom_of (by decide +kernel)⟩

/-- The running engine whose tick port is 47, before its own boundary has come to the ticks, and the pod's root. -/
def ticking : State := let s := setN (portAt 4) Key.tickPort 47; { s with beat := { s.beat with running := true } }
def slewing : State := { ticking with beat := { ticking.beat with tickLost := true } }
def root : State := let s := portAt 4; { s with aelif := { s.aelif with plan := plan1 }, beat := { s.beat with running := true } }

theorem witness_TicksReferencesAndTheLease :
    (ticking.beat.running = true ∧ isTickRoot ticking = false ∧ getN ticking Key.tickPort = 47 ∧ portActive ticking 47 = true ∧
      periodMismatch ticking 1001000 = false ∧ periodMismatch ticking 1001001 = true ∧ ticking.beat.tickLost = false ∧ slewing.beat.tickLost = true ∧ ticking.beat.tickRun = 0 ∧
      { ticking.beat with tickRun := 4 }.tickRun ≠ 0 ∧
      (40 : Int).natAbs ≤ 40 ∧ 40 < (41 : Int).natAbs ∧ portActive slewing 47 = true) ∧
    (isTickRoot root = true ∧ root.beat.ptpLostFlag = false ∧ portActive root 47 = true ∧ root.beat.stretchLen = 0 ∧
      { root.beat with stretchLen := 4 }.stretchLen ≠ 0) ∧
    (Accepted opened Key.beatPeriodUs (wr 1000) ∧ inRun opened = false ∧ Accepted inRunState Key.beatPeriodUs (wr 1000) ∧ inRun inRunState = true ∧
      Accepted opened Key.hostLease (wr 1) ∧ Accepted opened Key.hostLeaseBeats (wr 1)) ∧
    (let s := { setN opened Key.hostLeaseBeats 3 with beat := { opened.beat with leaseBeat := 3 } }
     getN s Key.hostLeaseBeats ≠ 0 ∧ s.beat.lapsed = false ∧ getN s Key.hostLeaseBeats ≤ s.beat.leaseBeat) ∧
    (getN State.reset Key.hostLeaseBeats = 0 ∨ State.reset.beat.leaseBeat < getN State.reset Key.hostLeaseBeats) ∧
    (let s := { opened with beat := { opened.beat with eligible := [9] } }
     s.beat.eligible.contains 9 = true ∧
       ((slice (getDom s Key.refPriority) 0 4).map (fun b => b.toNat)).find? (fun c => c == 0 || (nsDel 9 s.beat.eligible).contains c) = some 0 ∧
       getN s Key.refSource = 0 ∧ getN (setN s Key.refSource 9) Key.refSource ≠ 0 ∧ getN s Key.refState = 0 ∧
       ((slice (getDom (setDom s Key.refPriority [9, 8, 0xFF, 0xFF]) Key.refPriority) 0 4).map (fun b => b.toNat)).find?
         (fun c => c == 0 || (nsDel 9 s.beat.eligible).contains c) = none) ∧
    (getN (setN opened Key.refState 1) Key.refState = 1 ∧ getN opened Key.refState ≠ 1) :=
  ⟨by decide +kernel, by decide +kernel, ⟨accepted_of (by decide +kernel), by decide +kernel, accepted_of (by decide +kernel), by decide +kernel,
    accepted_of (by decide +kernel), accepted_of (by decide +kernel)⟩, by decide +kernel, by decide +kernel, by decide +kernel, by decide +kernel⟩

/-- The engine in RUN with a placement whose arms use stream engine 0. -/
def used : State := { inRunState with placement := some { place with arms := [(0, [])] } }

theorem witness_ClockObjectsTakeWrites :
    (Accepted opened (sscKey 4 false) (wr 1) ∧ (4 : BitVec 3).toNat ≤ 4 ∧ Accepted opened (sscKey 5 false) (wr 1) ∧ 4 < (5 : BitVec 3).toNat) ∧
    (Accepted opened (clkoutKey 0 0) (wr 0) ∧
      clkoutSourceKHz (setN opened (clkoutKey 0 0) 0) (getN (setN opened (clkoutKey 0 0) 0) (clkoutKey 0 0)) ≤
        400000 * getN (setN opened (clkoutKey 0 0) 0) (clkoutKey 0 1)) ∧
    (let s := setN opened (clkoutKey 0 1) 1
     Accepted s (clkoutKey 0 0) (wr 3) ∧ 400000 * getN (setN s (clkoutKey 0 0) 3) (clkoutKey 0 1) <
      clkoutSourceKHz (setN s (clkoutKey 0 0) 3) (getN (setN s (clkoutKey 0 0) 3) (clkoutKey 0 0))) ∧
    (Accepted used (enableKey 0) (wr 0) ∧ inRun used = true ∧
      unitsUsed used 0 &&& (getN used (enableKey 0) - (getN used (enableKey 0) &&& (wr 0).val)) ≠ 0) ∧
    (Accepted opened (enableKey 2) (wr 0) ∧ inRun opened = false ∧ (2 : BitVec 3).toNat ≠ 4) ∧
    (let s := setN opened (clkoutKey 0 2) 1
     Accepted s (clkoutKey 0 0) (wr 0) ∧ getN (setN s (clkoutKey 0 0) 0) (clkoutKey 0 2) = 1 ∧ bit (getN s Key.clockEnableMc) 4 = true ∧
      clkoutSourceKHz (setN s (clkoutKey 0 0) 0) (getN (setN s (clkoutKey 0 0) 0) (clkoutKey 0 0)) ≤
        400000 * getN (setN s (clkoutKey 0 0) 0) (clkoutKey 0 1)) ∧
    (let s := { opened with mgmt := { opened.mgmt with mcaRuns := true, mcbRuns := true } }
     Accepted s (enableKey 4) (wr 0x37) ∧ bit (getN s (enableKey 4)) 3 = true ∧ bit 0x37 3 = false ∧ s.mgmt.mcaRuns = true ∧ s.mgmt.mcbRuns = true) ∧
    (Accepted opened Key.vcoreMv (wr 720) ∧ getN opened Key.clockWestMhz ≤ clockLimit 720 ∧ getN opened Key.clockEastMhz ≤ clockLimit 720) ∧
    (Accepted opened Key.vcoreMv (wr 600) ∧ ¬(getN opened Key.clockWestMhz ≤ clockLimit 600 ∧ getN opened Key.clockEastMhz ≤ clockLimit 600)) ∧
    (Accepted opened (halfWritten true) (wr 1500) ∧ 1500 ≤ clockLimit (getN opened Key.vcoreMv) ∧
      getN opened (halfWritten (!true)) ≤ clockLimit (getN opened Key.vcoreMv)) ∧
    (Accepted opened (halfWritten true) (wr 1510) ∧ ¬1510 ≤ clockLimit (getN opened Key.vcoreMv)) :=
  ⟨⟨accepted_of (by decide +kernel), by decide, accepted_of (by decide +kernel), by decide⟩, ⟨accepted_of (by decide +kernel), by decide +kernel⟩,
    ⟨accepted_of (by decide +kernel), by decide +kernel⟩, ⟨accepted_of (by decide +kernel), by decide +kernel, by decide +kernel⟩,
    ⟨accepted_of (by decide +kernel), by decide +kernel, by decide⟩, ⟨accepted_of (by decide +kernel), by decide +kernel⟩,
    ⟨accepted_of (by decide +kernel), by decide +kernel⟩, ⟨accepted_of (by decide +kernel), by decide +kernel, by decide +kernel⟩,
    ⟨accepted_of (by decide +kernel), by decide +kernel⟩, ⟨accepted_of (by decide +kernel), by decide +kernel, by decide +kernel⟩,
    ⟨accepted_of (by decide +kernel), by decide +kernel⟩⟩

/-- The engine that counts its own beats, with a sticky event in its core, a flag raised and a lease of one beat. -/
def beating : State :=
  let s := setN (withCore { coreAs .running with beatA := 8, beatV := 1 }) Key.hostLeaseBeats 1
  { s with beat := { s.beat with running := true }, raised := [(Key.parealoFlags, 8)] }

theorem witness_BeatBoundaryNumbersAndGathers :
    State.reset.beat.running = false ∧ beating.beat.running = true ∧ beating.beat.tick = none ∧ beating.beat.stretchLen = 0 ∧
      getN beating Key.beatEpochNs = 0 ∧ beating.par.due = [] ∧ beating.mgmt.resetDue = 0 ∧ getN beating Key.hostLeaseBeats ≠ 0 ∧
      getN beating Key.hostLeaseBeats ≤ beating.beat.leaseBeat + 1 ∧ (Key.parealoFlags, 4) ∈ gatheredWords ∧
      bit (stGet beating.raised Key.parealoFlags) 3 = true ∧
      (getCore beating cid).beatA.getLsbD 3 = true ∧ (getCore beating cid).beatV.getLsbD 0 = true := by
  decide +kernel

/-! What the manual says of single values (R333, R340, R342, R396, R409, R412). -/

theorem test_frame_accepted : (getPort (after (exec (.dataFrameReceive 47 (frameOf 0 0 1 true)) (portAt 4))) 47).rxSeq = 0 := by decide +kernel
theorem test_frame_nak : (getPort (after (exec (.dataFrameReceive 47 (frameOf 0 0 1 false)) (portAt 4))) 47).nakState = true := by decide +kernel
theorem test_port_disabled : getN (after (exec (.portEnable 47 (wr 0)) (portAt 4))) (Key.portState 47) = 7 := by decide +kernel
theorem test_plan_refused_in_run : (after (exec (.linkPlan (wd plan1)) inRunState)).out = [.objStatus Key.linkPlan 10] := by decide +kernel
theorem test_tick_source : getN (after (exec (.tick 47 7 ⟨1000000, 0⟩ 0 0) ticking)) Key.beatSource = 0 := by decide +kernel
theorem test_tick_slews : (after (exec (.tick 47 7 ⟨1000000, 41⟩ 0 0) slewing)).beat.tickLost = true := by decide +kernel
theorem test_ssc_refused : (after (exec (.sscWrite 5 false (wr 1)) opened)).out = [.objStatus (sscKey 5 false) 7] := by decide +kernel
theorem test_holdover_ends :
    getN (after (exec .holdoverExpiry (setDom (setN opened Key.refState 1) Key.refPriority [9, 8, 0xFF, 0xFF]))) Key.refState = 2 := by decide +kernel
theorem test_holdover_locks : getN (after (exec .holdoverExpiry (setN opened Key.refState 1))) Key.refState = 0 := by decide +kernel

/-! ### Streams, pulls, power -/

/-- A descriptor with a CRC: its DIR and flag byte, SEQUENCE, SOURCE, flits and entry, DEST, RUN_BYTES, MAP_COUNT. -/
def sdesc (queue flags : Nat) (source fe dest run maps : Nat) : List Byte :=
  let b := leBytes 1 queue ++ leBytes 1 flags ++ leBytes 2 0 ++ leBytes 4 5 ++ leBytes 6 source ++ leBytes 2 fe ++ leBytes 8 dest ++
    leBytes 4 run ++ leBytes 4 1 ++ leBytes 8 0 ++ leBytes 2 0 ++ leBytes 2 maps ++ leBytes 4 4096 ++ leBytes 12 0
  b ++ leBytes 4 (crc32c b)

/-- A copy within stack 15, an inbound run to it, and a trimmed stream of layer entry 63. -/
def copyDesc : List Byte := sdesc 31 2 (stackAddr 15 0) 1 (stackAddr 15 64) 64 0
def inDesc : List Byte := sdesc 15 1 0 1 (stackAddr 15 64) 64 0
def trimDesc : List Byte := sdesc 0 16 (stackAddr 15 0) (1 + 63 * 64) 0 64 1

/-- The engine with Parealo open, stacks started, and a queue of stream engine 31 filled. -/
def streaming (qn : Nat) (q : Queue) : State := setQueue (setN opened Key.bringupPhase 7) 31 qn q

/-- A queue with a CURRENT. -/
def current (d : Desc) : Queue := { Queue.default with current := some d }

/-- A packet of one flit. -/
def onePkt (b : List Byte) (p : Bool) : Packet := ⟨0, 3, [⟨b, p⟩]⟩

/-- An inbound run of ones with its trailer. -/
def inPkt : Packet := ⟨0, 3, [flit true, ⟨trailerOf (BitVec.ofNat 32 (5 * 2 ^ 16)) (List.replicate 64 1), false⟩]⟩

theorem witness_StreamsArmTakeAndComplete :
    (AcceptedDom inRunState (Key.seArm 31) (wd copyDesc) ∧ descOk inRunState 31 (wd copyDesc).bytes = true ∧ canArm inRunState 31 copyDesc = true ∧
      (getQueue inRunState 31 (dsQueue copyDesc)).current = none) ∧
    (let s := streaming 31 (current (newDesc copyDesc 1))
     (getQueue s 31 (dsQueue copyDesc)).current ≠ none ∧ canArm s 31 copyDesc = true ∧ descOk s 31 copyDesc = true) ∧
    (let s := streaming 31 { current (newDesc copyDesc 1) with shadow := some (newDesc copyDesc 2) }
     AcceptedDom s (Key.seArm 31) (wd copyDesc) ∧ descOk s 31 (wd copyDesc).bytes = true ∧ canArm s 31 (wd copyDesc).bytes = false) ∧
    (AcceptedDom inRunState (Key.seArm 31) (wd (List.replicate 64 0)) ∧ descOk inRunState 31 (List.replicate 64 0) = false) ∧
    (endpointSe 0 3 7 = some 31 ∧ seLive inRunState 31 = true ∧ (onePkt copyDesc false).flits.length = 1 ∧ anyPoison (onePkt copyDesc false).flits = false ∧
      descOk inRunState 31 (flitBytes (onePkt copyDesc false).flits) = true ∧ canArm inRunState 31 (flitBytes (onePkt copyDesc false).flits) = true ∧ anyPoison (onePkt copyDesc true).flits = true) ∧
    Accepted inRunState (Key.seCancel 31) (wr 31) ∧
    (let d := { newDesc copyDesc 1 with nextRun := 1, done := [0] }
     (getQueue (streaming 31 (current d)) 31 31).current = some d ∧ descOver (streaming 31 (current d)) 31 31 d = true ∧
       (streaming 31 (current d)).streams.rearm = [] ∧
       descOver (streaming 31 (current (newDesc copyDesc 1))) 31 31 (newDesc copyDesc 1) = false) ∧
    (let d := { newDesc inDesc 1 with nextRun := 1, done := [0] }
     let s := { streaming 15 (current d) with placement := some { place with gradients := [(31, 15, 1)] } }
     (getQueue s 31 15).current = some d ∧ descOver s 31 15 d = true ∧ (31, 15, 1) ∈ (place.gradients ++ [(31, 15, 1)]) ∧ dsDir d.bytes = 1) ∧
    (let d := newDesc inDesc 1
     seLive (streaming 15 (current d)) (8 * 3 + 7) = true ∧ descOk inRunState 31 inDesc = true ∧ (getQueue (streaming 15 (current d)) 31 15).current = some d ∧ dsDir d.bytes = 1 ∧ d.cancelled = false ∧
       inboundRun d inPkt = some 0 ∧ d.done.contains 0 = false ∧ inboundRun d (onePkt copyDesc false) = none) :=
  ⟨⟨acceptedDom_of (by decide +kernel), by decide +kernel, by decide +kernel, by decide +kernel⟩, by decide +kernel,
    ⟨acceptedDom_of (by decide +kernel), by decide +kernel, by decide +kernel⟩, ⟨acceptedDom_of (by decide +kernel), by decide +kernel⟩,
    by decide +kernel, accepted_of (by decide +kernel), by decide +kernel, by decide +kernel, by decide +kernel⟩

/-- The trimmed stream granted, its entry in a mode, with a map that covers it or none. -/
def trimming (mode : Nat) (covered : Bool) : State :=
  let s := streaming 0 (current { newDesc trimDesc 1 with nextRun := 1 })
  let s := setTrim s 31 trimDesc ⟨5, none, [], if covered then [(1, 0)] else [], [(0, 0)], false⟩
  setDom { s with streams := { s.streams with layers := [(63, mode, 1)] } } (Key.seMapSourceTable 31) [1, 0, 0, 0]

/-- A map packet of the stream from core word 1: row 0 nonzero. -/
def mapPkt : Packet :=
  let h := [63, 1, 0, 0] ++ leBytes 4 5 ++ leBytes 4 0 ++ leBytes 4 1 ++ leBytes 48 0
  let m := [1] ++ List.replicate 63 0
  ⟨0, 3, [⟨h, false⟩, ⟨m, false⟩, ⟨trailerOf 5 (h ++ m), false⟩]⟩

theorem witness_GrantsTrimsAndScrubs :
    (let s := setDom (streaming 31 (current (newDesc copyDesc 1))) (Key.seOutstandingLimits 31) (List.replicate 32 8)
     let d := newDesc copyDesc 1
     getN s (Key.msStackState 15) = 0 ∧ grantChoice s 15 = some (31, 31, d) ∧ dsTrim d.bytes = false ∧ dsDir d.bytes = 2 ∧
       dsRunBytes d.bytes % 64 = 0 ∧
       streamByte d.bytes (0 * 64) + slotOff s d.bytes (runSlot s 15 d.bytes) + 64 ≤ dsDest d.bytes + 0 * 64) ∧
    (let s := setDom (streaming 0 (current (newDesc trimDesc 1))) (Key.seOutstandingLimits 31) (List.replicate 32 8)
     grantChoice s 15 = some (31, 0, newDesc trimDesc 1) ∧ dsTrim (newDesc trimDesc 1).bytes = true ∧ rowsGranted s 31 trimDesc 0 ≠ []) ∧
    (let s := setDom (streaming 0 (current (newDesc trimDesc 1))) (Key.seOutstandingLimits 31) (List.replicate 32 8)
     let s := setTrim { s with streams := { s.streams with layers := [(63, 2, 1)] } } 31 trimDesc ⟨5, some [], [], [], [], false⟩
     grantChoice s 15 = some (31, 0, newDesc trimDesc 1) ∧ rowsGranted s 31 trimDesc 0 = []) ∧
    grantChoice inRunState 15 = none ∧
    (let s := trimming 1 false
     let h := flitBytes (mapPkt.flits.take 1)
     endpointSe 0x10 3 0x17 = some 31 ∧ seLive s 31 = true ∧ mapPacketOk (onePkt copyDesc false) = false ∧
       field (flitBytes ((onePkt copyDesc false).flits.take 1)) 0 1 < 64 ∧ 64 ≤ field (flitBytes ((onePkt [64] false).flits.take 1)) 0 1 ∧ field h 0 1 < 64 ∧ mapPacketOk mapPkt = true ∧
       (trimQueues s 31 (field h 0 1) (field h 4 4)).filter (mapInTime s 31 h) = [(0, { newDesc trimDesc 1 with nextRun := 1 })] ∧
       (trimQueues inRunState 31 (field h 0 1) (field h 4 4)).filter (mapInTime inRunState 31 h) = []) ∧
    (let d := { newDesc trimDesc 1 with nextRun := 1 }
     let rows (s : State) := tileRows (getQueue s 31 0) (trimPlan s 31 d.bytes)
     tileReady (trimming 0 false) 31 0 = some d ∧ (layerMode (trimming 0 false) (dsEntry d.bytes)).1 = 0 ∧
       tileReady (trimming 1 false) 31 0 = some d ∧ (layerMode (trimming 1 false) (dsEntry d.bytes)).1 ≠ 0 ∧
       mapsCover (trimming 1 false) 31 d.bytes (getTrim (trimming 1 false) 31 d.bytes) 1 (rows (trimming 1 false)) = false ∧
       tileReady (trimming 1 true) 31 0 = some d ∧
       mapsCover (trimming 1 true) 31 d.bytes (getTrim (trimming 1 true) 31 d.bytes) 1 (rows (trimming 1 true)) = true) ∧
    (bit (stackPresent inRunState.variant) 15 = true ∧ getN inRunState (Key.msStackState 15) = 0 ∧ stGet inRunState.stk.scrubPos 15 * 64 < dataBytes) := by
  decide +kernel

/-- The descriptor of group 9 as one block of zeros: E4M3 weights without states. -/
def desc8 : List Byte :=
  [9, 0, 1, 3, 0, 0, 0, 0, 0, 1, 0, 0, 0, 0, 0, 0, 0, 1, 0, 0, 0, 0, 0, 0, 0, 0x80, 0, 0] ++ List.replicate 36 0

/-- A block of zeros, whose digest is 0, and one with another digest. -/
def zeroBlock (digest : W64) : BlockData := ⟨0, 4, 2, List.replicate 256 0, [], 0, [], [], [], [], digest⟩

/-- The engine that pulls group 9 or reshards it. -/
def pulling (job : Nat) : State :=
  let s := setN (setN (setN { opened with doms := [(Key.groupTable, desc8)] } (Key.jobState 3) 1) (Key.jobState 2) 1) Key.reshardPhase 2
  { s with
    mgmt := { s.mgmt with pullOpen := true }
    pulls := [⟨job, 9, some 1, false, false, 0, none, [], []⟩]
    images := [(frameKey 0 0, { place with groups := [desc8] })] }

/-- The reshard with block 0 of group 9 from engine 1 and to it. -/
def resharding : State :=
  setDom (pulling 2) Key.reshardPlan (leBytes 8 0 ++ leBytes 4 2 ++ leBytes 52 0 ++
    leBytes 4 1 ++ leBytes 4 0 ++ [9, 0, 9, 0] ++ leBytes 8 0 ++ leBytes 12 1 ++ leBytes 4 0 ++ leBytes 4 1 ++ [9, 0, 9, 0] ++ leBytes 8 0 ++ leBytes 12 1)

theorem crc64_zeros (n : Nat) : crc64 (List.replicate n 0) = 0 := by
  have h : crc64Byte 0 0 = 0 := by decide +kernel
  unfold crc64
  induction n with
  | zero => rfl
  | succ n ih => rw [List.replicate_succ, List.foldl_cons, h]; exact ih

theorem zero_digest : blockDigest desc8 0 (blockVals desc8 (zeroBlock 0) false) = 0 := by
  have h : blockDigest desc8 0 (blockVals desc8 (zeroBlock 0) false) = crc64 (List.replicate 265 0) := by
    unfold blockDigest
    apply congrArg
    show _ = List.replicate 265 (0 : Byte)
    decide +kernel
  rw [h, crc64_zeros]

theorem zero_digest_one : blockDigest desc8 0 (blockVals desc8 (zeroBlock 1) false) = 0 :=
  (congrArg (blockDigest desc8 0) (rfl : blockVals desc8 (zeroBlock 1) false = blockVals desc8 (zeroBlock 0) false)).trans zero_digest

theorem witness_BlocksAreServedAndPulled :
    (groupDesc (pulling 3) 9 = some desc8 ∧ (pulling 3).mgmt.pullOpen = true ∧ 0 < gdBlocks desc8 ∧ opened.mgmt.pullOpen = false) ∧
    ((pulling 3).pulls.find? (fun p => p.group == 9 && (p.job == 5 || p.job == 3 && jobSt (pulling 3) 3 == jobRunning)) =
        some ⟨3, 9, some 1, false, false, 0, none, [], []⟩ ∧
      blockDigest desc8 0 (blockVals desc8 (zeroBlock 0) false) = (zeroBlock 0).digest.toNat ∧
      blockDigest desc8 0 (blockVals desc8 (zeroBlock 1) false) ≠ (zeroBlock 1).digest.toNat) ∧
    (groupDesc resharding 9 = some desc8 ∧ resharding.mgmt.pullOpen = true ∧ sendsReshard resharding 1 9 0 = true ∧
      sendsReshard resharding 2 9 0 = false ∧ entryFor resharding 9 0 = some ⟨1, 0, 9, 9, 0, 0, 1⟩) ∧
    (getN resharding Key.reshardPhase = 2 ∧ jobSt resharding 2 = jobRunning ∧
      resharding.pulls.find? (fun p => p.job == 2 && p.group == 9) = some ⟨2, 9, some 1, false, false, 0, none, [], []⟩ ∧
      (reshardTarget resharding).bind (fun t => t.groups.find? (fun d => gdGroup d == 9)) = some desc8) :=
  ⟨by decide +kernel, ⟨by decide +kernel, zero_digest, by rw [zero_digest_one]; decide⟩, by decide +kernel, by decide +kernel⟩

/-- Field 89 with its regulator on, in a power state, with a record. -/
def fieldAt (st : Nat) (r : FieldRec) : State := setField (setN (setN opened (Key.regState 89) 2) (Key.pwrFieldPowerState 89) st) 89 r

theorem witness_InputAndRegulators :
    (State.reset.power.input = true ∧ ({ State.reset with mgmt := { State.reset.mgmt with mcbRuns := true } } : State).mgmt.mcbRuns = true ∧
      State.reset.mgmt.mcaRuns = false ∧ State.reset.mgmt.mcbRuns = false ∧ (after (exec .powerFail State.reset)).power.holdUp = true ∧
      (after (exec .powerFail State.reset)).power.input = false) ∧
    (regOn (fieldAt 4 FieldRec.default) 89 = true ∧ (getField (fieldAt 4 FieldRec.default) 89).missed < 2 ∧
      2 ≤ (getField (fieldAt 4 { FieldRec.default with missed := 2 }) 89).missed) ∧
    (let s := setN (fieldAt 4 FieldRec.default) (Key.regPhasesOk 89) 0xFFF
     bit (getN s (Key.regPhasesOk 89)) (11 : BitVec 4).toNat = true ∧ getN s (Key.regState 89) ≠ 3 ∧
       6 < ((List.range 12).filter (bit (setBit (getN s (Key.regPhasesOk 89)) 11 false))).length) ∧
    (let s := setN (setN (fieldAt 0 FieldRec.default) (Key.regState 89) 0) (Key.regPhasesOk 89) 0x001
     bit (getN s (Key.regPhasesOk 89)) (0 : BitVec 4).toNat = true ∧ getN s (Key.regState 89) ≠ 3 ∧ regOn s 89 = false) ∧
    (let s := setN (fieldAt 4 FieldRec.default) (Key.regPhasesOk 89) 0x07F
     bit (getN s (Key.regPhasesOk 89)) (0 : BitVec 4).toNat = true ∧ getN s (Key.regState 89) ≠ 3 ∧ regOn s 89 = true ∧
       ((List.range 12).filter (bit (setBit (getN s (Key.regPhasesOk 89)) 0 false))).length ≤ 6) ∧
    ((List.replicate 64 65535).length = 64 ∧ (∀ x ∈ List.replicate 64 65535, x < 65536) ∧
      bit (getN (fieldAt 4 FieldRec.default) (Key.drpSensorMask 89)) 63 = false ∧
      min (getN (fieldAt 4 FieldRec.default) Key.vcoreAppliedMv + 60) 860 ≤ 860) ∧
    (let s := setN (setN (setDom (fieldAt 4 FieldRec.default) (Key.drpDroopReadings 89) (List.replicate 128 0)) (Key.drpDroopMedianMv 89) 720)
        (Key.regFieldCurrentA 89) 90
     crackHolds s 89 63 = true ∧ (∀ e ∈ (getField s 89).cracks, e.1 ≠ 63) ∧ getN s Key.crackCaptureEmpty = 1 ∧
       getN (setN s Key.crackAction 1) Key.crackAction = 1 ∧ getN (setN s Key.crackAction 0) Key.crackAction ≠ 1) := by
  decide +kernel

/-- Sixteen readings of the same temperature in 0.1 °C. -/
def temps (t : Int) : List Int := List.replicate 16 t

theorem witness_FieldsHeatParkAndWake :
    (let s := fieldAt 4 FieldRec.default
     let trip := 10 * (getN s Key.tripC : Int)
     let park := 10 * (getN s Key.parkC : Int)
     let shut := 10 * (getN s Key.shutC : Int)
     getN s (Key.thmThermalFailed 89) = 0 ∧ failedSensors 0 (temps trip) = [] ∧ fieldTempOf 0 (temps trip) = some trip ∧ regOn s 89 = true ∧
       failedSensors 0 (temps (trip - 1)) = [] ∧ fieldTempOf 0 (temps (trip - 1)) = some (trip - 1) ∧ shut ≤ trip - 1 ∧
       failedSensors 0 (temps park) = [] ∧ fieldTempOf 0 (temps park) = some park ∧ park < trip ∧ (2 ≤ fieldPower s 89 ∧ fieldPower s 89 ≤ 4) ∧
       fieldPower (fieldAt 2 FieldRec.default) 89 = 2 ∧
       8 < ((List.range 16).filter (bit ((failedSensors 0 (List.replicate 9 (1501 : Int) ++ List.replicate 7 300)).foldl (fun m i => m ||| 2 ^ i) 0))).length ∧
       fieldTempOf ((failedSensors 0 (List.replicate 9 (1501 : Int) ++ List.replicate 7 300)).foldl (fun m i => m ||| 2 ^ i) 0)
         (List.replicate 9 (1501 : Int) ++ List.replicate 7 300) = some 300 ∧ 300 < trip ∧
       bit (getN s (Key.pwrParkCauses 89)) 0 = false ∧ fieldTempOf 0 (temps (park - 1)) = some (park - 1) ∧
       ((List.range 16).filter (bit ((failedSensors 0 (List.replicate 8 (1501 : Int) ++ List.replicate 8 300)).foldl (fun m i => m ||| 2 ^ i) 0))).length ≤ 8) ∧
    (let s := setN (setN (fieldAt 6 FieldRec.default) (Key.pwrParkCauses 89) 1) (Key.thmFieldTemp 89) (10 * getN opened Key.unparkC)
     bit (getN s (Key.pwrParkCauses 89)) 0 = true ∧ fieldTemp s 89 ≤ 10 * (getN s Key.unparkC : Int)) ∧
    (let p : State := { setN (fieldAt 4 FieldRec.default) Key.bringupPhase 7 with
        placement := some { place with cores := [⟨⟨319, 287⟩, [], [], [], [], []⟩] } }
     Accepted p Key.parkRequest (wr 89) ∧ inRun p = true ∧ fieldPlaced p 89 = true) ∧
    (Accepted (fieldAt 4 FieldRec.default) Key.parkRequest (wr 89) ∧ inRun (fieldAt 4 FieldRec.default) = false ∧ fieldPower (fieldAt 4 FieldRec.default) 89 = 4 ∧
      Accepted (fieldAt 2 FieldRec.default) Key.parkRequest (wr 89)) ∧
    (let s := fieldAt 6 FieldRec.default
     Accepted s Key.wakeRequest (wr 89) ∧ inRun s = false ∧ getN s (Key.pwrParkCauses 89) &&& 0x13 = 0 ∧ fieldParked s 89 = true ∧ fieldParked (fieldAt 5 FieldRec.default) 89 = true ∧ wakeDeferred s 89 = false) ∧
    (let s := setN (fieldAt 6 FieldRec.default) (Key.pwrParkCauses 89) 2
     Accepted s Key.wakeRequest (wr 89) ∧ getN s (Key.pwrParkCauses 89) &&& 0x13 ≠ 0) ∧
    (let s := setN (setN (fieldAt 6 { FieldRec.default with wakeWaiting := true }) (Key.regState 88) 2) (Key.regFieldCurrentA 88) 306
     Accepted s Key.wakeRequest (wr 89) ∧ wakeDeferred s 89 = true ∧ (getField s 89).wakeWaiting = true) ∧
    ((getField (fieldAt 6 { FieldRec.default with wakeWaiting := true }) 89).wakeWaiting = true ∧
      wakeDeferred (fieldAt 6 { FieldRec.default with wakeWaiting := true }) 89 = false ∧
      (getField (fieldAt 4 { FieldRec.default with draining := true }) 89).draining = true ∧
      regOn (fieldAt 4 { FieldRec.default with draining := true }) 89 = true) :=
  ⟨by decide +kernel, by decide +kernel, ⟨accepted_of (by decide +kernel), by decide +kernel, by decide +kernel⟩,
    ⟨accepted_of (by decide +kernel), by decide +kernel, by decide +kernel, accepted_of (by decide +kernel)⟩, ⟨accepted_of (by decide +kernel), by decide +kernel⟩,
    ⟨accepted_of (by decide +kernel), by decide +kernel⟩, ⟨accepted_of (by decide +kernel), by decide +kernel⟩, by decide +kernel⟩

/-! What the manual says of single values (R209, R308, R311, R317, R386, R450, R456, R465). -/

theorem test_arm_refused : (after (exec (.arm 31 (wd (List.replicate 64 0))) inRunState)).out = [.objStatus (Key.seArm 31) 7] := by decide +kernel
theorem test_inbound_writes : memRead (after (exec (.inboundPacket 3 0xFF ⟨inPkt, false⟩) (streaming 15 (current (newDesc inDesc 1))))).stk.mem (stackAddr 15 64) = 1 := by decide +kernel
theorem test_tile_waits : (getQueue (after (exec (.trimmedTileSend 31 0 0 ⟨[], [], 0⟩) (trimming 1 false))) 31 0).tile = 0 := by decide +kernel
theorem test_map_nonzero : (getTrim (after (exec (.mapPacketReceive ⟨3, 0x17⟩ mapPkt) (trimming 1 false))) 31 trimDesc).nonzero = [0] := by decide +kernel
theorem test_input_power : getN (after (exec (.inputSample 48000 2000) State.reset)) Key.inputPowerW = 96 := by decide +kernel
theorem test_third_missed : getN (after (exec (.regulatorReportMissed 89) (fieldAt 4 { FieldRec.default with missed := 2 }))) (Key.regState 89) = 3 := by decide +kernel
theorem test_trip : fieldPower (after (exec (.thermalSample 89 (temps 1500)) (fieldAt 4 FieldRec.default))) 89 = 0 := by decide +kernel

/-! ### Parealo -/

/-- A session on the first management port. -/
def sess (num : Nat) (r : Role) : Session := ⟨num, r, .mgmtA, 4, [(4, List.replicate 16 7, [9])], []⟩

/-- An open transaction of a session. -/
def txn (handle session : Nat) (r : Role) : Txn := ⟨handle, session, r, 0, 0, [], [], false⟩

/-- The provisioned engine: the service role has no secret, the others the same one. -/
def managed (ss : List Session) (ts : List Txn) : State :=
  { opened with sec := { opened.sec with provisioned := true, secrets := List.replicate 3 (List.replicate 32 1) ++ [List.replicate 32 0] },
                par := { opened.par with sessions := ss, txns := ts }, mgmt := { opened.mgmt with udpPort := 5000 } }

/-- The UDP ends of a request. -/
def ends : UdpEnds := ⟨List.replicate 16 1, 4000, 5000⟩

/-- A frame with its MAC. -/
def frame (path : Path) (kind role session seq : Nat) (nonce : List Byte) (ops : List POp) : PFrame :=
  let f : PFrame := ⟨path, ends, kind, role, 0, session, 0, seq, nonce, ops, false, true, []⟩
  { f with mac := macOf (List.replicate 32 1) (requestBytes f) }

/-- A REQUEST of one operation in session 7. -/
def request (role seq : Nat) (op : POp) : PFrame := frame .mgmtA 1 role 7 seq [] [op]

/-- An OPEN on a path. -/
def opening (path : Path) : PFrame := frame path 3 2 0 0 (List.replicate 16 3) []

/-- The engine with a frame waiting in its mailbox. -/
def mailed (ss : List Session) (f : PFrame) (busy : Bool) : State :=
  let s := setN (managed ss []) Key.bringupPhase 2
  { s with host := { s.host with linkUp := true, bar := { s.host.bar with mailboxBusy := busy, mailboxRequest := requestBytes f ++ f.mac } } }

theorem mac_ok {s : State} {path : Path} {kind role session seq : Nat} {nonce : List Byte} {ops : List POp}
    (h : secretOf s role = List.replicate 32 1) : macOk s (frame path kind role session seq nonce ops) = true := by
  have hm : (frame path kind role session seq nonce ops).mac = macOf (secretOf s role) (requestBytes (frame path kind role session seq nonce ops)) := by
    rw [h]; rfl
  have hr : secretOf s (frame path kind role session seq nonce ops).role = secretOf s role := rfl
  unfold macOk
  rw [hm, hr, h, beq_self_eq_true, Bool.and_true]
  decide +kernel

theorem judged_opens {s : State} {path : Path} (hs : secretOf s 2 = List.replicate 32 1)
    (h : pathOpen s (opening path).path (opening path).udp = true ∧ frameBad s (opening path) = false)
    (hb : path = .mailbox → s.host.bar.mailboxRequest = requestBytes (opening path) ++ (opening path).mac) : judgeFrame s (opening path) = .opens := by
  have hm : macOk s (opening path) = true := mac_ok hs
  unfold judgeFrame
  rw [h.1, h.2, hm, if_neg (by decide), if_neg (by decide), if_neg (fun hp => hp.2 (hb hp.1)), if_neg (by decide)]
  rfl

theorem judged_by {s : State} {x : Session} {path : Path} {kind role session seq : Nat} {ops : List POp}
    (hs : secretOf s role = List.replicate 32 1) (hk : kind ≠ 3)
    (h : pathOpen s path ends = true ∧ frameBad s (frame path kind role session seq [] ops) = false ∧
      findSession s session role path = some x ∧ s.log.epoch = 0)
    (hb : path = .mailbox → s.host.bar.mailboxRequest = requestBytes (frame path kind role session seq [] ops) ++ (frame path kind role session seq [] ops).mac) :
    judgeFrame s (frame path kind role session seq [] ops) = .of x := by
  have hm : macOk s (frame path kind role session seq [] ops) = true := mac_ok hs
  have hf : findSession s (frame path kind role session seq [] ops).session (frame path kind role session seq [] ops).role
    (frame path kind role session seq [] ops).path = some x := h.2.2.1
  have hp : pathOpen s (frame path kind role session seq [] ops).path (frame path kind role session seq [] ops).udp = true := h.1
  have he : (frame path kind role session seq [] ops).epoch = s.log.epoch := h.2.2.2.symm
  unfold judgeFrame
  rw [hp, h.2.1, hm, hf, if_neg (by decide), if_neg (by decide), if_neg (fun hp => hp.2 (hb hp.1)), if_neg (by decide),
    if_neg (show ¬(frame path kind role session seq [] ops).kind = 3 from hk)]
  exact if_pos he

theorem judged_of_session {s : State} {x : Session} {kind role session seq : Nat} {ops : List POp}
    (hs : secretOf s role = List.replicate 32 1) (hk : kind ≠ 3)
    (h : pathOpen s .mgmtA ends = true ∧ frameBad s (frame .mgmtA kind role session seq [] ops) = false ∧
      findSession s session role .mgmtA = some x ∧ s.log.epoch = 0) : judgeFrame s (frame .mgmtA kind role session seq [] ops) = .of x :=
  judged_by hs hk h nofun

theorem kept_found (m : List Byte) : [(4, m, [(9 : Byte)])].find? (fun e => e.1 == 4 && e.2.1 == m) = some (4, m, [9]) := by simp

/-- A frame under the secret of zeros. -/
def unsecret (path : Path) : PFrame := { opening path with role := 3, mac := [] }

theorem witness_ParealoSessionsOpenAndClose :
    (mailboxLive (mailed [] (opening .mailbox) false) = true ∧ (mailed [] (opening .mailbox) false).host.bar.mailboxBusy = false ∧
      mailboxLive (mailed [] (opening .mailbox) true) = true ∧ (mailed [] (opening .mailbox) true).host.bar.mailboxBusy = true ∧
      0 < (4096 : W32).toNat ∧ (4096 : W32).toNat ≤ 4096) ∧
    (pathOpen (managed [] []) (opening .mgmtA).path (opening .mgmtA).udp = true ∧ frameBad (managed [] []) { opening .mgmtA with reserved := true } = true ∧
      frameBad (managed [] []) (unsecret .mgmtA) = false ∧ macOk (managed [] []) (unsecret .mgmtA) = false) ∧
    (pathOpen (mailed [] (unsecret .mailbox) true) (unsecret .mailbox).path (unsecret .mailbox).udp = true ∧ frameBad (mailed [] (unsecret .mailbox) true) (unsecret .mailbox) = false ∧
      (mailed [] (unsecret .mailbox) true).host.bar.mailboxRequest = requestBytes (unsecret .mailbox) ++ (unsecret .mailbox).mac ∧
      macOk (mailed [] (unsecret .mailbox) true) (unsecret .mailbox) = false) ∧
    (judgeFrame (mailed [] (opening .mailbox) true) (opening .mailbox) = .opens ∧ (mailed [] (opening .mailbox) true).par.sessions.length < 32) ∧
    (judgeFrame (managed (List.replicate 31 (sess 7 .owner)) []) (opening .mgmtA) = .opens ∧
      (managed (List.replicate 31 (sess 7 .owner)) []).par.sessions.length < 32) ∧
    (judgeFrame (managed (List.replicate 32 (sess 7 .owner)) []) (opening .mgmtA) = .opens ∧
      32 ≤ (managed (List.replicate 32 (sess 7 .owner)) []).par.sessions.length) ∧
    (judgeFrame (managed [sess 7 .owner] []) (frame .mgmtA 5 2 7 0 [] []) = .of (sess 7 .owner) ∧ (frame .mgmtA 5 2 7 0 [] []).kind = 5) ∧
    (sess 7 .owner ∈ (managed [sess 7 .owner] []).par.sessions ∧ (sess 7 .owner).num = 7) ∧
    (managed [sess 7 .owner] [txn 5 7 .owner]).par.txns.find? (fun y => y.handle == 5 && !y.committing) = some (txn 5 7 .owner) ∧
    (let f := request 2 4 .begin_
     let x := { sess 7 .owner with kept := [(4, f.mac, [9])] }
     judgeFrame (managed [x] []) f = .of x ∧ f.kind = 1 ∧ f.ops.head? = some .begin_ ∧ f.frameSeq ≤ x.highest ∧
       x.kept.find? (fun e => e.1 == f.frameSeq && e.2.1 == f.mac) = some (4, f.mac, [9])) :=
  ⟨by decide +kernel, by decide +kernel, by decide +kernel,
    ⟨judged_opens (by decide +kernel) (by decide +kernel) (fun _ => rfl), by decide +kernel⟩,
    ⟨judged_opens (by decide +kernel) (by decide +kernel) nofun, by decide +kernel⟩,
    ⟨judged_opens (by decide +kernel) (by decide +kernel) nofun, by decide +kernel⟩,
    ⟨judged_of_session (by decide +kernel) (by decide) (by decide +kernel), by decide +kernel⟩,
    by decide +kernel, by decide +kernel,
    judged_of_session (by decide +kernel) (by decide) ⟨by decide +kernel, by decide +kernel, rfl, by decide +kernel⟩, rfl, rfl, by decide +kernel,
    kept_found _⟩

/-- A request of one operation that passes its judgement, as `ParealoOperationsExecute` has it. -/
def Judged (s : State) (x : Session) (f : PFrame) (op : POp) : Prop :=
  judgeFrame s f = .of x ∧ f.kind = 1 ∧ f.ops = [op] ∧ x.highest < f.frameSeq ∧ x.open_ = [] ∧ s.mgmt.recovery = false

theorem judged_of {s : State} {x : Session} {role : Nat} {op : POp}
    (h : secretOf s role = List.replicate 32 1 ∧ (pathOpen s .mgmtA ends = true ∧ frameBad s (request role 5 op) = false ∧
      findSession s 7 role .mgmtA = some x ∧ s.log.epoch = 0) ∧ x.highest < 5 ∧ x.open_ = [] ∧ s.mgmt.recovery = false) :
    Judged s x (request role 5 op) op :=
  ⟨judged_of_session h.1 (by decide) h.2.1, rfl, rfl, h.2.2.1, h.2.2.2.1, h.2.2.2.2⟩

/-- The state in which a request is answered. -/
def atOp (s : State) (x : Session) (f : PFrame) : State := syncDerived (beginFrame s x f)

/-- The engine with session 7, and a transaction in it. -/
def inTxn : State := managed [sess 7 .owner] [txn 5 7 .owner]
def inSess : State := managed [sess 7 .owner] []

/-- A session of the mailbox, and a request in it. -/
def boxSess : Session := { sess 7 .owner with path := .mailbox }
def boxRequest (op : POp) : PFrame := frame .mailbox 1 2 7 5 [] [op]

/-- The engine with a plan of three bytes. -/
def planned3 : State := setDom inSess Key.linkPlan [1, 2, 3]

theorem witness_ParealoOperationsExecute :
    (let op := POp.read (Key.beatPeriodUs / 256) (Key.beatPeriodUs % 256) 0 false 0 0 0
     Judged (mailed [boxSess] (boxRequest op) true) boxSess (boxRequest op) op ∧ (boxRequest op).path = .mailbox) ∧
    (let op := POp.read (Key.seArm 0 / 256) (Key.seArm 0 % 256) 0 false 0 0 0
     Judged inSess (sess 7 .owner) (request 2 5 op) op ∧ (objRow (Key.seArm 0 / 256) (Key.seArm 0 % 256)).any (fun r => r.acc == 3) = true) ∧
    (let op := POp.read (Key.linkPlan / 256) (Key.linkPlan % 256) 0 false 4024 1 1
     Judged planned3 (sess 7 .owner) (request 2 5 op) op ∧
       versionBytes (atOp planned3 (sess 7 .owner) (request 2 5 op)) Key.linkPlan 1 = some [1, 2, 3] ∧
       versionBytes (atOp planned3 (sess 7 .owner) (request 2 5 op)) Key.linkPlan 9 = none) ∧
    (let op := POp.read 0x0FFF 255 0 false 0 0 0
     Judged inSess (sess 7 .owner) (request 2 5 op) op ∧ objRow 0x0FFF 255 = none) ∧
    (let op := POp.read (Key.beatPeriodUs / 256) (Key.beatPeriodUs % 256) 0 false 0 0 0
     Judged inSess (sess 7 .owner) (request 2 5 op) op ∧
       (objRow (Key.beatPeriodUs / 256) (Key.beatPeriodUs % 256)).any (fun r => r.acc != 3 && r.typ != 12) = true ∧
       (objValue (atOp inSess (sess 7 .owner) (request 2 5 op)) Key.beatPeriodUs).length ≤ 4024) ∧
    (let op := POp.read (Key.linkPlan / 256) (Key.linkPlan % 256) 0 false 4024 0 0
     Judged inSess (sess 7 .owner) (request 2 5 op) op ∧
       (objRow (Key.linkPlan / 256) (Key.linkPlan % 256)).any (fun r => r.acc != 3 && r.typ == 12) = true ∧ Key.linkPlan ≠ Key.resultSlots) ∧
    (let op := POp.describe (Key.beatPeriodUs / 256) (Key.beatPeriodUs % 256)
     Judged inSess (sess 7 .owner) (request 2 5 op) op ∧ (objRow (Key.beatPeriodUs / 256) (Key.beatPeriodUs % 256)).isSome = true) ∧
    (let op := POp.write 0x1101 0 0 0 [1, 0, 0, 0]
     Judged inSess (sess 7 .owner) (request 2 5 op) op ∧ directStatus (atOp inSess (sess 7 .owner) (request 2 5 op)) .owner 0x110100 0 [1, 0, 0, 0] = 0) ∧
    (let op := POp.write 0x1101 0 0 0 [1, 2]
     Judged inSess (sess 7 .owner) (request 2 5 op) op ∧ directStatus (atOp inSess (sess 7 .owner) (request 2 5 op)) .owner 0x110100 0 [1, 2] ≠ 0) ∧
    (let op := POp.write (Key.beatPeriodUs / 256) (Key.beatPeriodUs % 256) 5 0 [0, 4, 0, 0]
     Judged inTxn (sess 7 .owner) (request 2 5 op) op ∧
       inTxn.par.txns.find? (fun y => y.handle == 5 && y.session == (sess 7 .owner).num && !y.committing) = some (txn 5 7 .owner) ∧
       stageStatus (atOp inTxn (sess 7 .owner) (request 2 5 op)) .owner (txn 5 7 .owner) Key.beatPeriodUs 0 [0, 4, 0, 0] = 0) ∧
    (Judged inTxn (sess 7 .owner) (request 2 5 .begin_) .begin_ ∧ txn 5 7 .owner ∈ inTxn.par.txns) ∧
    (Judged (managed [sess 7 .observer] []) (sess 7 .observer) (request 0 5 .begin_) .begin_ ∧
      (managed [sess 7 .observer] []).par.txns = [] ∧ (sess 7 .observer).role = .observer) ∧
    (let s := managed [sess 7 .owner] (List.replicate 63 (txn 4 6 .owner))
     Judged s (sess 7 .owner) (request 2 5 .begin_) .begin_ ∧ (∀ y ∈ s.par.txns, y.session ≠ (sess 7 .owner).num) ∧ s.par.txns.length < 64) ∧
    (Judged inTxn (sess 7 .owner) (request 2 5 (.commit 5)) (.commit 5) ∧ Judged inTxn (sess 7 .owner) (request 2 5 (.commit 0)) (.commit 0)) ∧
    (Judged inTxn (sess 7 .owner) (request 2 5 (.rollback 5)) (.rollback 5) ∧
      Judged inTxn (sess 7 .owner) (request 2 5 (.rollback 0)) (.rollback 0)) :=
  ⟨⟨⟨judged_by (by decide +kernel) (by decide) (by decide +kernel) (fun _ => rfl), rfl, rfl, by decide, rfl, by decide +kernel⟩, rfl⟩,
    ⟨judged_of (by decide +kernel), by decide +kernel⟩, ⟨judged_of (by decide +kernel), by decide +kernel⟩,
    ⟨judged_of (by decide +kernel), by decide +kernel⟩, ⟨judged_of (by decide +kernel), by decide +kernel⟩,
    ⟨judged_of (by decide +kernel), by decide +kernel⟩, ⟨judged_of (by decide +kernel), by decide +kernel⟩,
    ⟨judged_of (by decide +kernel), by decide +kernel⟩, ⟨judged_of (by decide +kernel), by decide +kernel⟩,
    ⟨judged_of (by decide +kernel), by decide +kernel⟩, ⟨judged_of (by decide +kernel), by decide +kernel⟩,
    ⟨judged_of (by decide +kernel), by decide +kernel⟩, ⟨judged_of (by decide +kernel), by decide +kernel⟩,
    ⟨judged_of (by decide +kernel), judged_of (by decide +kernel)⟩, judged_of (by decide +kernel), judged_of (by decide +kernel)⟩

/-! ### Flags, jobs, recovery and resets -/

/-- A write by the observer, which every listed object refuses. -/
def wObs : WReq := ⟨.observer, true, 0⟩

theorem witness_FlagsCapturesAndRefusedWrites :
    (objKind Key.meshFlags = .w1c 7 ∧ Accepted opened Key.meshFlags (wr 4) ∧ eventFlags Key.meshFlags = true) ∧
    (objKind Key.parealoFlags = .w1c 0xF ∧ Accepted opened Key.parealoFlags (wr 8) ∧ eventFlags Key.parealoFlags = false) ∧
    (objKind 0x200306 = .emptier ∧ Accepted opened 0x200306 (wr 0) ∧ Accepted opened 0x200306 (wr 1) ∧ 0x200306 ≠ Key.invalidCaptureEmpty) ∧
    (objKind Key.invalidCaptureEmpty = .emptier ∧ Accepted opened Key.invalidCaptureEmpty (wr 1) ∧ (wr 1).val ≠ 0 ∧ (wr 0).val = 0) ∧
    (objKind 0xB01001 = .hiWater ∧ Accepted opened 0xB01001 (wr 0)) ∧
    (∀ key ∈ [Key.setCompression, Key.excuse, Key.override, Key.hostLease, Key.hostLeaseBeats, Key.beatPeriodUs, Key.parkRequest, Key.wakeRequest,
        Key.vcoreMv, Key.markCoreDefective, Key.releaseFieldLoss, Key.excludeField, Key.switch, Key.resume, Key.replayStep, Key.rollbackAdvance],
      writesOpen State.reset (wr 0).role key = false ∧ writesOpen opened wObs.role key = true ∧ reqStatus opened key wObs ≠ 0) ∧
    (∀ key ∈ [Key.linkPlan, Key.substituteTable, Key.peerSubstitute, Key.quoteNonce],
      writesOpen State.reset (wd []).role key = false ∧ writesOpen opened Role.observer key = true ∧
        writeStatus opened .observer true key [] ≠ 0) :=
  ⟨⟨by decide +kernel, accepted_of (by decide +kernel), by decide +kernel⟩, ⟨by decide +kernel, accepted_of (by decide +kernel), by decide +kernel⟩,
    ⟨by decide +kernel, accepted_of (by decide +kernel), accepted_of (by decide +kernel), by decide +kernel⟩,
    ⟨by decide +kernel, accepted_of (by decide +kernel), by decide, rfl⟩, ⟨by decide +kernel, accepted_of (by decide +kernel)⟩,
    by decide +kernel, by decide +kernel⟩

/-- A job in a state. -/
def jobAt (n st : Nat) : State := setN opened (Key.jobState n) st

/-- The same with a suspension pending, or a dump under way. -/
def jobWith (n st : Nat) (j : JobSt) : State := { jobAt n st with jobs := [j] }

/-- The load of `place` with its hash and the dump into a buffer of a capacity. -/
def dumping (cap : Nat) : State :=
  let s := setDom (jobAt 4 1) (Key.jobParameters 4) (leBytes 8 0 ++ leBytes 8 cap)
  { s with stp := { s.stp with milestoneDone := true, lastMilestoneBeat := beatNow s } }

/-- A job's end with a status and a placement. -/
def ended (status : Nat) (p : Option Placement) : JobOutcome := ⟨status, 0, 0, 0, none, p, 0, [], 0⟩

/-- A load running that has found its image, and waits for the boundary that applies it. -/
def loadingAt (n st : Nat) : State := { jobAt n st with jobs := [⟨1, false, none, some place⟩] }

/-- The parameters of a load of the placement whose hash is `place`'s, with APPLY or without. -/
def loadParams (apply : Nat) : List Byte := leBytes 2 (apply * 256) ++ List.replicate 22 0 ++ place.hash

/-- A placement job that runs with those parameters, on a grid of no columns. -/
def fitting (apply : Nat) : State := setDom (setN (jobAt 1 1) Key.logicalColumns 0) (Key.jobParameters 1) (loadParams apply)

theorem witness_JobsRunAndEnd :
    (jobSt (loadingAt 1 1) 1 = 1 ∧ (getJob (loadingAt 1 1) 1).load = some place) ∧
    (∀ s ∈ [jobAt 0 1, inRunState, opened, jobAt 1 1, jobAt 2 1, jobAt 0 2, jobWith 4 2 ⟨4, false, some (0, []), none⟩, setN opened Key.reshardPhase 3],
      (getJob s 1).load = none) ∧ getN opened Key.podSpare ≠ 1 ∧
    (Accepted (jobAt 0 1) (Key.jobCommand 0) (wr 1) ∧ jobSt (jobAt 0 1) 0 = 1) ∧
    (Accepted inRunState (Key.jobCommand 0) (wr 1) ∧ jobSt inRunState 0 ≠ 1 ∧ jobSt inRunState 0 ≠ 2 ∧ startCheck 0 inRunState ≠ 0) ∧
    (Accepted opened (Key.jobCommand 0) (wr 1) ∧ jobSt opened 0 ≠ 1 ∧ jobSt opened 0 ≠ 2 ∧ startCheck 0 opened = 0) ∧
    (Accepted (jobAt 0 1) (Key.jobCommand 0) (wr 2) ∧ jobSt (jobAt 0 1) 0 = 1 ∧ (getJob (jobAt 0 1) 0).suspendPending = false ∧
      maySuspend (jobAt 0 1) 0 = true) ∧
    (Accepted (jobAt 1 1) (Key.jobCommand 1) (wr 2) ∧ maySuspend (jobAt 1 1) 1 = false) ∧ jobSt opened 0 ≠ 1 ∧
    (Accepted (jobAt 0 2) (Key.jobCommand 0) (wr 3) ∧ jobSt (jobAt 0 2) 0 = 2 ∧ jobSt (jobAt 0 1) 0 ≠ 2) ∧
    (∀ c ∈ [0, 1], Accepted (jobWith 4 2 ⟨4, false, some (c, []), none⟩) (Key.jobCommand 4) (wr 3) ∧ jobSt (jobWith 4 2 ⟨4, false, some (c, []), none⟩) 4 = 2 ∧
      (getJob (jobWith 4 2 ⟨4, false, some (c, []), none⟩) 4).dump = some (c, [])) ∧ getN (jobWith 4 2 ⟨4, false, some (0, []), none⟩) Key.commitStep = 0 ∧
    (Accepted (setN opened Key.reshardPhase 3) (Key.jobCommand 2) (wr 4) ∧ getN (setN opened Key.reshardPhase 3) Key.reshardPhase = 3 ∧
      Accepted opened (Key.jobCommand 2) (wr 4) ∧ jobSt opened 2 = 0 ∧ getN opened Key.reshardPhase = 0) ∧
    (jobSt (jobAt 1 1) 1 = 1 ∧ (ended 7 none).status ≠ 0 ∧ (ended 7 none).placement = none ∧
      { place with hash := [] }.hash ≠ slice (jobParams (jobAt 1 1) 1) 0x18 32 ∧ place.hash = slice (jobParams (jobAt 1 1) 1) 0x18 32 ∧
      (∀ apply ∈ [0, 1], loadFail (noteProgress (fitting apply) 1 0) { place with columns := 0, peers := [0, 0, 0, 0] } = none ∧
        ({ place with columns := 0, peers := [0, 0, 0, 0] } : Placement).hash = slice (jobParams (fitting apply) 1) 0x18 32 ∧
        jobSt (fitting apply) 1 = 1 ∧ (getJob (fitting apply) 1).load = none ∧ b2n (bit (field (jobParams (fitting apply) 1) 1 1) 0) = apply) ∧
      (∃ fail, loadFail (noteProgress (jobAt 1 1) 1 0) { place with columns := 288 } = some fail) ∧ place.hash = ({ place with columns := 288 } : Placement).hash) ∧
    (jobSt (jobWith 4 1 ⟨4, false, some (0, []), none⟩) 4 = 1 ∧ (getJob (jobWith 4 1 ⟨4, false, some (0, []), none⟩) 4).load = none ∧
      (getJob (jobWith 4 1 ⟨4, false, some (0, []), none⟩) 4).dump = some (0, []) ∧ (ended 0 none).status = 0) ∧
    (jobSt (setN (jobAt 2 1) Key.reshardPhase 2) 2 = 1 ∧ getN (setN (jobAt 2 1) Key.reshardPhase 2) Key.reshardPhase = 2 ∧
      getN (setN (jobAt 2 1) Key.reshardPhase 2) Key.blocksExpected ≤ getN (setN (jobAt 2 1) Key.reshardPhase 2) Key.blocksReceived ∧
      getN (setN (jobAt 2 1) Key.blocksExpected 1) Key.blocksReceived < getN (setN (jobAt 2 1) Key.blocksExpected 1) Key.blocksExpected) ∧
    jobSt (jobAt 3 1) 3 = 1 ∧
    (∀ cap ∈ [0, 65536], jobSt (dumping cap) 4 = 1 ∧ (getJob (dumping cap) 4).dump = none ∧ (dumping cap).stp.milestoneDone = true ∧
      (dumping cap).stp.lastMilestoneBeat = beatNow (dumping cap) ∧ field (jobParams (dumping cap) 4) 8 8 = cap) ∧
    (field (jobParams (dumping 0) 4) 8 8 < (imageBytes (dumping 0)).length ∧
      (imageBytes (dumping 65536)).length ≤ field (jobParams (dumping 65536) 4) 8 8 ∧ (jobAt 4 1).stp.milestoneDone = false) :=
  ⟨by decide +kernel, by decide +kernel, by decide +kernel, ⟨accepted_of (by decide +kernel), by decide +kernel⟩,
    ⟨accepted_of (by decide +kernel), by decide +kernel⟩,
    ⟨accepted_of (by decide +kernel), by decide +kernel⟩, ⟨accepted_of (by decide +kernel), by decide +kernel⟩,
    ⟨accepted_of (by decide +kernel), by decide +kernel⟩, by decide +kernel, ⟨accepted_of (by decide +kernel), by decide +kernel⟩,
    by
      intro c hc
      simp only [List.mem_cons, List.not_mem_nil, or_false] at hc
      rcases hc with rfl | rfl <;> exact ⟨accepted_of (by decide +kernel), by decide +kernel⟩,
    by decide +kernel, ⟨accepted_of (by decide +kernel), by decide +kernel, accepted_of (by decide +kernel), by decide +kernel⟩,
    ⟨by decide +kernel, by decide +kernel, rfl, by decide +kernel, by decide +kernel, by decide +kernel,
      Option.isSome_iff_exists.mp (by decide +kernel), rfl⟩, by decide +kernel,
    by decide +kernel, by decide +kernel, by decide +kernel, by decide +kernel⟩

/-- A micro-batch of the current step in flight. -/
def batch : Work := ⟨0, 0, false, 1, 0, false, false, false, 0, 0, 0, false, []⟩
def batching (deaths : List PhysId) : State :=
  { opened with stp := { opened.stp with work := [batch] }, grid := { opened.grid with deaths := deaths } }

/-- A reshard that has copied one group. -/
def copied : State := setN { pulling 2 with pulls := [⟨2, 9, some 1, false, false, 0, none, [], []⟩] } Key.reshardPhase 3

theorem witness_SwitchResumeReplaySubstitute :
    (Accepted opened Key.switch (wr 1) ∧ getN opened Key.reshardPhase ≠ 3) ∧
    (Accepted copied Key.switch (wr 1) ∧ getN copied Key.reshardPhase = 3 ∧ (wr 1).val = 1 ∧ (reshardTarget copied).isSome = true ∧
      copied.pulls.filter (fun q => q.job == 2) = [⟨2, 9, some 1, false, false, 0, none, [], []⟩]) ∧
    (Accepted opened Key.resume (wr 1) ∧ getN opened Key.reshardPhase ≠ 4 ∧ Accepted (setN opened Key.reshardPhase 4) Key.resume (wr 1) ∧
      getN (setN opened Key.reshardPhase 4) Key.reshardPhase = 4) ∧
    (Accepted (batching []) Key.replayStep (wr 0) ∧ Accepted (batching []) Key.replayStep (wr 1) ∧ batch ∈ (batching []).stp.work ∧
      batch.evaluation = false ∧ (batching []).grid.deaths = [] ∧ (batching []).grid.underWay = [] ∧ (batching []).grid.abandoned = [] ∧
      Accepted (batching [⟨3, 5⟩]) Key.replayStep (wr 1) ∧ batch ∈ (batching [⟨3, 5⟩]).stp.work ∧ (batching [⟨3, 5⟩]).grid.deaths ≠ []) ∧
    (AcceptedDom opened Key.peerSubstitute (wd [1]) ∧ substituteCheck opened (wd [1]).bytes ≠ 0 ∧
      AcceptedDom opened Key.peerSubstitute (wd [1, 0, 0, 0, 2, 0, 0, 0]) ∧ substituteCheck opened (wd [1, 0, 0, 0, 2, 0, 0, 0]).bytes = 0 ∧
      substPairs (wd [1, 0, 0, 0, 2, 0, 0, 0]).bytes = [(1, 2)]) :=
  ⟨⟨accepted_of (by decide +kernel), by decide +kernel⟩, ⟨accepted_of (by decide +kernel), by decide +kernel⟩,
    ⟨accepted_of (by decide +kernel), by decide +kernel, accepted_of (by decide +kernel), by decide +kernel⟩,
    ⟨accepted_of (by decide +kernel), accepted_of (by decide +kernel), by decide +kernel, rfl, rfl, rfl, rfl, accepted_of (by decide +kernel),
      by decide +kernel, by decide +kernel⟩,
    ⟨acceptedDom_of (by decide +kernel), by decide +kernel, acceptedDom_of (by decide +kernel), by decide +kernel, by decide +kernel⟩⟩

/-- Both management cores running in phase 2, with one failed unit of the second or none. -/
def twoCores (failed : Nat) : State :=
  let s := setN (setN opened Key.bringupPhase 2) Key.cvuFailedMc failed
  { s with mgmt := { s.mgmt with mcaRuns := true, mcbRuns := true } }

/-- A heartbeat of zeros with its check value, as unit 3 of core B computes it. -/
def heartbeat : List Byte :=
  List.replicate 30 0 ++ leBytes 2 (cvuEnd (cvuData (cvuBegin (getCvu (twoCores 0) (.mc 1 3))) (List.replicate 30 0))).result.toNat

/-- Field 89 lost since the start, in phase 3. -/
def lostField (again : Bool) : State :=
  let s := setN opened Key.bringupPhase 3
  { s with grid := { s.grid with runFields := [(89, 1)], lostThisStart := 1 }, mgmt := { s.mgmt with restarted := again } }

/-- A core whose microcode failed so often. -/
def missedCode (n : Nat) : State :=
  let s := setN opened Key.bringupPhase 2
  { s with grid := { s.grid with microcode := if n = 0 then [] else [(287 * 330 + 329, n)] } }

theorem witness_ResetsAndFailover :
    (Accepted opened Key.resetRequest (wr 1) ∧ Accepted opened Key.resetRequest (wr 2)) ∧
    (opened.power.input = true ∧ opened.power.resetLow = false ∧ ({ opened.power with resetLow := true } : Power).resetLow = true) ∧
    (getN (twoCores 0) Key.activeCore ≤ 1 ∧ 2 ≤ getN (twoCores 0) Key.bringupPhase ∧ (twoCores 0).mgmt.mcaRuns = true ∧
      (twoCores 0).mgmt.mcbRuns = true ∧ mayBeActive (twoCores 0) (1 - getN (twoCores 0) Key.activeCore) = true ∧
      mayBeActive (twoCores 16) (1 - getN (twoCores 16) Key.activeCore) = false ∧ opened.mgmt.mcaRuns = false ∧ opened.mgmt.mcbRuns = false) ∧
    (cvuLive (twoCores 0) (.mc (b2n (!false)) 3) = true ∧ heartbeat.length = 32 ∧
      field heartbeat 30 2 = (cvuEnd (cvuData (cvuBegin (getCvu (twoCores 0) (.mc (b2n (!false)) 3))) (slice heartbeat 0 30))).result.toNat % 2 ^ 16) ∧
    (cvuLive (twoCores 0) (.mc (b2n (!true)) 3) = true ∧ ([] : List Byte).length ≠ 32) ∧
    (∀ again, fieldLostNow (lostField again) 89 = true ∧ (lostField again).grid.lostThisStart ≠ 0 ∧ 3 ≤ getN (lostField again) Key.bringupPhase ∧
      getN (lostField again) Key.bringupPhase ≤ 6 ∧ (lostField again).mgmt.restarted = again) ∧
    (∀ n ∈ [0, 2, 3], getN (missedCode n) Key.bringupPhase = 2 ∧ stGet (missedCode n).grid.microcode (287 * 330 + 329) = n) ∧
    (⟨329, 287⟩ : PhysId).col < 330 ∧ (⟨329, 287⟩ : PhysId).row < 288 :=
  ⟨⟨accepted_of (by decide +kernel), accepted_of (by decide +kernel)⟩, by decide +kernel, by decide +kernel, by decide +kernel, by decide +kernel,
    by decide +kernel, by decide +kernel, by decide⟩

/-! ### Bring-up, security and check-value units -/

/-- An environment in which everything starts, and one in which no core does. -/
def mgmtEnv (ok : Bool) : MgmtEnv := ⟨ok, ok, true, 16, 5, true, []⟩

/-- The engine whose first root slot is revoked, so that no banked image runs. -/
def revoked : State := { opened with sec := { opened.sec with rootRevoked := 1 } }

/-- The engine with its crescents powered, at a start of a kind. -/
def startedAs (phase : Nat) (warm full : Bool) : State :=
  let s := setN opened Key.bringupPhase phase
  { s with power := { s.power with crescents := true }, mgmt := { s.mgmt with startKind := b2n warm, fullStart := full } }

theorem witness_BringUpPhases :
    (let s := setN State.reset Key.bringupPhase 1
     s.power.input = true ∧ s.power.resetLow = false ∧ getN s Key.bringupPhase = 1 ∧ s.mgmt.awaitStart = true ∧ chooseBank s 0 = some 0 ∧
       (mgmtEnv true).mcaOk = true ∧ (mgmtEnv true).logbookOk = true ∧ (mgmtEnv true).cvuFailed = [] ∧ (mgmtEnv true).pcieTrained = true ∧
       (mgmtEnv false).mcaOk = false ∧ (mgmtEnv false).mcbOk = false) ∧
    (let s := setN revoked Key.bringupPhase 1
     s.power.input = true ∧ s.power.resetLow = false ∧ getN s Key.bringupPhase = 1 ∧ s.mgmt.awaitStart = true ∧ chooseBank s 0 = none) ∧
    (getN (setN revoked Key.bringupPhase 2) Key.bringupPhase = 2 ∧ revoked.power.input = true ∧ chooseBank (setN revoked Key.bringupPhase 2) 2 = none) ∧
    (let s := setN opened Key.bringupPhase 2
     getN s Key.bringupPhase = 2 ∧ s.power.input = true ∧ chooseBank s 2 = some 0 ∧ chooseBank s 1 = some 0 ∧ (curMap s).isSome = true ∧
       s.grid.released = [] ∧ s.grid.microcode = [] ∧ (89 ∈ poweredFields s)) ∧
    (∀ warm full, getN (startedAs 3 warm full) Key.bringupPhase = 3 ∧ (startedAs 3 warm full).power.crescents = true ∧
      chooseBank (startedAs 3 warm full) 3 = some 0 ∧ (startedAs 3 warm full).mgmt.startKind = b2n warm ∧
      (startedAs 3 warm full).mgmt.fullStart = full) ∧
    (let s := { startedAs 3 false false with sec := revoked.sec }
     getN s Key.bringupPhase = 3 ∧ s.power.crescents = true ∧ chooseBank s 3 = none) ∧
    bit (stackPresent .x) 15 = true ∧
    (getN (startedAs 4 false false) Key.bringupPhase = 4 ∧ getN (setN (startedAs 4 false false) (Key.epEnable 7) 1) (Key.epEnable 7) = 1) ∧
    (getN (startedAs 5 false false) Key.bringupPhase = 5 ∧ (startedAs 5 false false).mgmt.startKind ≠ 1 ∧ logicalCols (startedAs 5 false false) ≤ 320) := by
  decide +kernel

/-- A header of R519 with a kind, a security version and a nonce, over an empty body and a key of ones. -/
def header (kind bodyLen version : Nat) (bodyHash nonce : List Byte) : List Byte :=
  leBytes 4 0x44474D49 ++ leBytes 2 1 ++ [BitVec.ofNat 8 kind, 0] ++ leBytes 4 9 ++ leBytes 4 version ++ leBytes 4 bodyLen ++ leBytes 12 0 ++ bodyHash ++
    List.replicate 60 1 ++ leBytes 4 0 ++ List.replicate 16 48 ++ nonce ++ leBytes 76 0 ++ leBytes 4 5396

/-- An image of a kind whose body is given. -/
def image (kind : Nat) (body nonce : List Byte) : FwImage :=
  ⟨header kind body.length 1 (sha256 body) nonce, List.replicate 5396 0, body⟩

/-- The engine with that key's hash in slot 0, and banks that hold version 1. -/
def fused : State :=
  { opened with sec := { opened.sec with
      rootHash := sha256 (List.replicate 60 1) :: List.replicate 3 (List.replicate 32 0)
      banks := List.replicate 4 (⟨image 0 [] (leBytes 32 0), true⟩, ⟨image 0 [] (leBytes 32 0), true⟩) } }

/-- A stage request for a kind and a length. -/
def stageReq (kind len : Nat) : DReq := ⟨.owner, true, [0, BitVec.ofNat 8 kind] ++ leBytes 6 0 ++ leBytes 8 0 ++ leBytes 4 len ++ leBytes 12 0⟩

/-- An image is accepted where `Config.hssVerify`, which has no value in the model, accepts its signature. -/
theorem image_accepted (kind : Nat) (body nonce : List Byte) (hk : kind = 3 ∧ body = [] ∧ nonce = leBytes 32 0 ∨ kind = 5 ∧ body = [2] ∧ nonce = leBytes 32 0 ∨ kind = 4 ∧ body = [] ∧ nonce = List.replicate 32 5)
    (hv : Config.hssVerify (List.replicate 60 1) (List.replicate 5396 0) (image kind body nonce).header = true) :
    imageOk fused kind (image kind body nonce) = true := by
  have hs : (image kind body nonce).signature.length = 5396 := List.length_replicate
  have hkey : imgBytes (image kind body nonce) 0x40 60 = List.replicate 60 1 := by
    rcases hk with ⟨rfl, rfl, rfl⟩ | ⟨rfl, rfl, rfl⟩ | ⟨rfl, rfl, rfl⟩ <;> decide +kernel
  unfold imageOk imageShape
  rw [hkey, hs]
  rw [show (image kind body nonce).signature = List.replicate 5396 0 from rfl, hv]
  rcases hk with ⟨rfl, rfl, rfl⟩ | ⟨rfl, rfl, rfl⟩ | ⟨rfl, rfl, rfl⟩ <;> decide +kernel

/-- A secret of zeros or of ones, and a token. -/
def secret (b : Byte) : DReq := ⟨.owner, true, List.replicate 32 b⟩
def debugTok : DReq := ⟨.service, true, header 4 0 1 (sha256 []) (List.replicate 32 5) ++ List.replicate 5396 0⟩

/-- The unprovisioned engine with an owner secret. -/
def unlocked : State := { opened with sec := { opened.sec with secrets := List.replicate 4 (List.replicate 32 1) } }

theorem witness_SecurityRowsComplete :
    (AcceptedDom fused Key.fwStageRequest (stageReq 3 5652) ∧ getN fused Key.fwStageState ≠ 1 ∧ stageCheck fused (stageReq 3 5652).bytes = 0 ∧
      field (stageReq 3 5652).bytes 1 1 ≤ 3 ∧ fused.sec.banks.length = 4 ∧ imageOk fused 3 ⟨[], [], []⟩ = false) ∧
    (AcceptedDom fused Key.fwStageRequest (stageReq 4 5652) ∧ stageCheck fused (stageReq 4 5652).bytes ≠ 0) ∧
    (AcceptedDom fused Key.fwStageRequest (stageReq 5 5653) ∧ stageCheck fused (stageReq 5 5653).bytes = 0 ∧
      revokeOk fused (image 5 [2] (leBytes 32 0)) = true) ∧
    (Accepted opened Key.rollbackAdvance (wr 1) ∧ advanceCheck opened (wr 1).val ≠ 0) ∧
    (Accepted fused Key.rollbackAdvance (wr 1) ∧ advanceCheck fused (wr 1).val = 0) ∧
    (AcceptedDom opened Key.quoteNonce (secret 1) ∧ quoteCheck (opened.sec.lastQuote.map (fun _ => 0)) opened (secret 1).bytes = 0 ∧
      AcceptedDom (setN opened Key.identityState 1) Key.quoteNonce (secret 1) ∧
      quoteCheck ((setN opened Key.identityState 1).sec.lastQuote.map (fun _ => 0)) (setN opened Key.identityState 1) (secret 1).bytes ≠ 0) ∧
    (∀ b : Bool, AcceptedDom opened (Key.roleSecret (roleCode .owner)) (secret (if b then 1 else 0))) ∧ opened.par.secretDue = [] ∧
    opened.sec.secrets.length = 4 ∧ leNat (secret 0).bytes = 0 ∧ leNat (secret 1).bytes ≠ 0 ∧
    (AcceptedDom fused Key.debugToken debugTok ∧ tokenCheck revoked debugTok.bytes ≠ 0 ∧ AcceptedDom revoked Key.debugToken debugTok) ∧
    (getN (setN opened Key.identityState 1) Key.identityState = 1 ∧ getN opened Key.identityState = 0) ∧
    (jtagOpen unlocked = true ∧ leNat (secretOf unlocked 2) ≠ 0 ∧ jtagOpen (managed [] []) = false ∧ leNat (secretOf opened 2) = 0 ∧
      opened.power.management = true ∧ jtagClocked opened = true ∧ jtagClocked (setN opened Key.clockEnableMc 0) = false ∧
      jtagClocked { opened with power := { opened.power with management := false } } = false) :=
  ⟨⟨acceptedDom_of (by decide +kernel), by decide +kernel⟩, ⟨acceptedDom_of (by decide +kernel), by decide +kernel⟩,
    ⟨acceptedDom_of (by decide +kernel), by decide +kernel⟩, ⟨accepted_of (by decide +kernel), by decide +kernel⟩,
    ⟨accepted_of (by decide +kernel), by decide +kernel⟩,
    ⟨acceptedDom_of (by decide +kernel), by decide +kernel, acceptedDom_of (by decide +kernel), by decide +kernel⟩,
    fun b => acceptedDom_of (by cases b <;> decide +kernel), rfl, rfl, by decide +kernel, by decide +kernel,
    ⟨acceptedDom_of (by decide +kernel), by decide +kernel, acceptedDom_of (by decide +kernel)⟩, by decide +kernel, by decide +kernel⟩

theorem tokenImage_append {h t : List Byte} (hh : h.length = 256) (ht : t.length = 5396) : tokenImage (h ++ t) = ⟨h, t, []⟩ := by
  unfold tokenImage
  rw [List.take_left' hh, List.drop_left' hh, List.take_of_length_le (Nat.le_of_eq ht),
    List.drop_eq_nil_of_le (by rw [List.length_append, hh, ht])]

/-- The cases of the same statement that end in an acceptance by `Config.hssVerify`, which has no value in the model: they are met where it
accepts the images named here, and where the debug nonce is the one that the token names. -/
theorem witness_SecurityRowsComplete_accepted
    (hv : ∀ i ∈ [image 3 [] (leBytes 32 0), image 5 [2] (leBytes 32 0), image 4 [] (List.replicate 32 5)],
      Config.hssVerify (List.replicate 60 1) (List.replicate 5396 0) i.header = true)
    (hn : debugNonce fused = List.replicate 32 5) :
    (imageOk fused 3 (image 3 [] (leBytes 32 0)) = true ∧ field (stageReq 3 5652).bytes 0x10 4 = 5652 + (image 3 [] (leBytes 32 0)).body.length) ∧
    (imageOk fused 5 (image 5 [2] (leBytes 32 0)) = true ∧ field (stageReq 5 5653).bytes 0x10 4 = 5652 + (image 5 [2] (leBytes 32 0)).body.length) ∧
    tokenCheck fused debugTok.bytes = 0 := by
  have ht : tokenImage debugTok.bytes = image 4 [] (List.replicate 32 5) :=
    tokenImage_append (by decide +kernel) List.length_replicate
  refine ⟨⟨image_accepted 3 _ _ (.inl ⟨rfl, rfl, rfl⟩) (hv _ (by simp)), by decide +kernel⟩,
    ⟨image_accepted 5 _ _ (.inr (.inl ⟨rfl, rfl, rfl⟩)) (hv _ (by simp)), by decide +kernel⟩, ?_⟩
  have hi := image_accepted 4 [] (List.replicate 32 5) (.inr (.inr ⟨rfl, rfl, rfl⟩)) (hv _ (by simp))
  unfold tokenCheck
  simp only [ht, hn, hi, Bool.true_and]
  decide +kernel

/-- Unit 0 of stream engine 31, its stream open or not, by a polynomial. -/
def unitAt (p : Nat) (active : Bool) : State :=
  setCvu { opened with power := { opened.power with crescents := true } } (.se 31) { Cvu.default with config := BitVec.ofNat 32 p, active := active }

theorem witness_CheckValueUnitsCompute :
    (cvuLive (unitAt 3 false) (.se 31) = true ∧
      (([(0, 0xFFFFFFE0)] : List (BitVec 16 × W64)).foldl cvuRegister (getCvu (unitAt 3 false) (.se 31))).config.toNat % 32 = 0 ∧
      bits (([(0, 0xFFFFFFE0)] : List (BitVec 16 × W64)).foldl cvuRegister (getCvu (unitAt 3 false) (.se 31))).config.toNat 3 2 = 0) ∧
    (cvuLive (unitAt 0 false) (.se 31) = true ∧ (getCvu (unitAt 0 false) (.se 31)).config.toNat % 32 = 0 ∧
      (getCvu (unitAt 0 false) (.se 31)).active = false ∧ bits (getCvu (unitAt 0 false) (.se 31)).config.toNat 3 2 = 0) ∧
    (cvuLive (unitAt 0 true) (.se 31) = true ∧ (getCvu (unitAt 0 true) (.se 31)).active = true ∧
      bit (getCvu (unitAt 0 true) (.se 31)).config.toNat 4 = false) ∧
    cvuLive opened (.mc 0 0) = false := by
  decide +kernel

theorem witness_FourCheckValues :
    ∀ e ∈ [(0, 32, 0x1EDC6F41, true, 0xFFFFFFFF, 0xFFFFFFFF, 0xE3069283), (1, 32, 0x04C11DB7, true, 0xFFFFFFFF, 0xFFFFFFFF, 0xCBF43926),
        (2, 64, 0x42F0E1EBA9EA3693, false, 0, 0, 0x6C40DF5F0B497347), (3, 16, 0x1021, false, 0xFFFF, 0, 0x29B1)],
      cvuLive (unitAt 0 false) (.se 31) = true ∧
        (([(0, BitVec.ofNat 64 (0xFFFFFFE0 + (e : Nat × Nat × Nat × Bool × Nat × Nat × Nat).1))] : List (BitVec 16 × W64)).foldl cvuRegister
          (getCvu (unitAt 0 false) (.se 31))).config.toNat % 32 = e.1 := by
  decide +kernel

/-! ### Every state and step -/

theorem memOk_reset : State.reset.MemOk := by
  unfold State.MemOk memoriesOk
  decide +kernel

theorem witness_StepKeepsMemoriesCanonical : ∃ t, State.reset.MemOk ∧ step { State.reset with pending := [.powerFail] } = .next t :=
  ⟨_, memOk_reset, rfl⟩

/-! ### Values that the manual prints -/

/-- R531's check values over "123456789", as the four CRC functions of the model compute them. -/
theorem test_check_values :
    let bs := (List.range 9).map (fun i => BitVec.ofNat 8 (0x31 + i))
    crc32c bs = 0xE3069283 ∧ crc64 bs = 0x6C40DF5F0B497347 ∧
      ((List.range 4).map (fun p => (cvuEnd (cvuData (cvuBegin { Cvu.default with config := BitVec.ofNat 32 p }) bs)).result.toNat)) =
        [0xE3069283, 0xCBF43926, 0x6C40DF5F0B497347, 0x29B1] := by
  decide +kernel

/-- FIPS 180-4's example: SHA-256 of "abc". -/
theorem test_sha256 : beNat (sha256 [0x61, 0x62, 0x63]) = 0xBA7816BF8F01CFEA414140DE5DAE2223B00361A396177A9CB410FF61F20015AD := by
  decide +kernel

/-! ### Ill-formed operands (WellFormed.lean) -/

theorem test_wf_places :
    CoreId.wf ⟨319, 287⟩ = true ∧ CoreId.wf ⟨320, 287⟩ = false ∧ CoreId.wf ⟨319, 288⟩ = false ∧ PhysId.wf ⟨329, 287⟩ = true ∧
      PhysId.wf ⟨330, 287⟩ = false ∧ PhysId.wf ⟨329, 288⟩ = false ∧ EngId.wf ⟨15, 63⟩ = true ∧ EngId.wf ⟨16, 63⟩ = false ∧
      EngId.wf ⟨15, 64⟩ = false ∧ CvuId.wf (.mc 1 3) = true ∧ CvuId.wf (.mc 2 0) = false ∧ CvuId.wf (.mc 0 4) = false ∧
      CvuId.wf (.se 32) = false ∧ CvuId.wf (.uu 16) = false := by
  decide

theorem test_wf_packets :
    Flit.wf (flit true) = true ∧ Flit.wf ⟨[1], false⟩ = false ∧ Packet.wf (onePkt (List.replicate 64 1) false) = true ∧ Packet.wf ⟨0, 3, []⟩ = false ∧
      Packet.wf ⟨0, 3, List.replicate 65 (flit false)⟩ = false ∧ SramErr.wf ⟨65536, false⟩ = false ∧
      Issue.wf { iss with core := ⟨320, 0⟩ } = false ∧ Issue.wf { iss with errs := [⟨65536, false⟩] } = false ∧ Issue.wf iss = true := by
  decide +kernel

theorem test_wf_writes :
    WReq.wf (wr 5) = true ∧ WReq.wf (wr (2 ^ 64)) = false ∧ POp.wf (.read 65536 0 0 false 0 0 0) = false ∧ POp.wf (.read 0 256 0 false 0 0 0) = false ∧
      POp.wf (.write 0 0 (2 ^ 32) 0 []) = false ∧ POp.wf (.commit (2 ^ 32)) = false ∧ POp.wf (.rollback (2 ^ 32)) = false ∧
      POp.wf (.describe 65536 0) = false ∧ PFrame.wf { opening .mgmtA with mac := List.replicate 16 0 } = true ∧
      PFrame.wf { opening .mgmtA with mac := [0] } = false ∧ PFrame.wf { opening .mgmtA with kind := 256 } = false := by
  decide +kernel

theorem test_wf_data_too_long (bs : List Byte) (h : bs.length = 2 ^ 32) : DReq.wf (wd bs) = false := by
  simp [DReq.wf, lt, wd, h]

theorem test_wf_messages :
    XMsg.wf (contribMsg 1) = true ∧ XMsg.wf { contribMsg 1 with group := 4096 } = false ∧ Datagram.wf (dgram 1 4 0 0 5 [1]) = true ∧
      Datagram.wf { dgram 1 4 0 0 5 [1] with source := 2 ^ 18 } = false ∧ AFrame.wf (frameOf 0 0 32 true) = true ∧
      AFrame.wf (frameOf 0 0 33 true) = false ∧ AFrame.wf { frameOf 0 0 1 true with destX := 16 } = false ∧
      TicketEnv.wf (entry (ticket 1 0 0) false) = true ∧ TicketEnv.wf (entry [1] false) = false := by
  decide +kernel

theorem test_wf_surroundings :
    BoundaryEnv.wf ⟨0, true, 0, ⟨[], [], 0⟩, [], [], false, -32768, 32767⟩ = true ∧ BoundaryEnv.wf ⟨2 ^ 64, true, 0, ⟨[], [], 0⟩, [], [], false, 0, 0⟩ = false ∧
      BoundaryEnv.wf ⟨0, true, 0, ⟨[], [], 0⟩, [], [], false, 32768, 0⟩ = false ∧ BoundaryEnv.wf ⟨0, true, 0, ⟨[], [], 0⟩, [], [], false, 0, -32769⟩ = false ∧
      StackErrs.wf ⟨[2 ^ 35], [], 0⟩ = false ∧ StackErrs.wf ⟨[], [2 ^ 35], 0⟩ = false ∧ RegReport.wf ⟨90, false, 0⟩ = false ∧
      BlockData.wf { zeroBlock 0 with block := 2 ^ 32 } = false ∧ JobOutcome.wf (ended 20 none) = true ∧ JobOutcome.wf (ended 21 none) = false ∧
      MgmtEnv.wf (mgmtEnv true) = true ∧ MgmtEnv.wf { mgmtEnv true with cvuFailed := [8] } = false ∧ ClocksEnv.wf ⟨[90], [], []⟩ = false ∧
      ClocksEnv.wf ⟨[], [⟨330, 0⟩], []⟩ = false ∧ MemEnv.wf ⟨[16], 0, [], []⟩ = false ∧ MemEnv.wf ⟨[], 0, [], [48]⟩ = false ∧
      FwImage.wf (image 3 [] (leBytes 32 0)) = true ∧ FwImage.wf ⟨[], [], []⟩ = false := by
  decide +kernel

theorem test_wf_commands :
    Instr.wf (.nop iss) = true ∧ Instr.wf (.nop { iss with core := ⟨0, 288⟩ }) = false ∧ Instr.wf (.slowSweep 4096) = false ∧
      Instr.wf (.wakeProceed 90) = false ∧ Instr.wf (.lossOfLock 48) = false ∧ Instr.wf (.descriptorComplete 0 32) = false ∧
      Instr.wf (.jobStart 5 (wr 1)) = false ∧ Instr.wf (.transportMessageSend 262144 false) = false ∧
      Instr.wf (.mgmtHeartbeat true []) = false ∧ Instr.wf (.jtagProvision [] 0) = false ∧ Instr.wf (.links [8] []) = false ∧
      Instr.wf (.w1cFlagClear 0 256 (wr 0)) = false ∧ Instr.wf (.constantSetWrite 0 12 (wr 0)) = false ∧ Instr.wf .powerFail = true := by
  decide +kernel

/-- R167: the worked example of 07_tile_programs.md (an MMA) passes the check of a program window, and the same word with a reserved bit does not. No row of the opcode table gives
bits, so no word spells a command. -/
theorem test_words : tileWordOk 0x8001C27800000000 = true ∧ tileWordOk 0x8001C27800000001 = false ∧ decodeTableWord 64 0x8001C27800000000 = none := by
  decide +kernel

/-- R172's worked example: the word is the MMA that it names, and decodes to it. -/
theorem test_mma_word :
    instrWord (.mma iss ⟨0, 0, 1, true, true, 2, 15⟩ noFault) = some 0x8001C27800000000 ∧
      tileInstr iss 0x8001C27800000000 = some (.mma iss ⟨0, 0, 1, true, true, 2, 15⟩ noFault) := by
  exact ⟨by decide +kernel, rfl⟩

/-- Words written out from the tables of R166 and R170 to R173, field by field, for instructions of each unit. -/
def wordTable : List (Nat × Instr) :=
  [(1 * 2 ^ 58, .halt iss),
   (2 * 2 ^ 58 + 3 * 2 ^ 56 + 8191 * 2 ^ 43, .loop iss 3 8191),
   (4 * 2 ^ 58 + 6 * 2 ^ 55 + 31 * 2 ^ 50 + 1 * 2 ^ 45 + 4096 * 2 ^ 32, .br iss 6 31 1 4096),
   (7 * 2 ^ 58 + 1 * 2 ^ 56 + 15 * 2 ^ 52 + 3 * 2 ^ 47 + 0x7CFF8 * 2 ^ 28 + 65535, .syncInit iss 15 3 0x7CFF8 65535),
   (8 * 2 ^ 58 + 31 * 2 ^ 53 + 0xFFFFFFFF, .xli iss 31 0xFFFFFFFF),
   (9 * 2 ^ 58 + 4 * 2 ^ 53 + 2 * 2 ^ 48 + 7 * 2 ^ 39 + 1 * 2 ^ 38 + 33, .xop iss 4 2 0 7 true 33),
   (0x10 * 2 ^ 58 + 3 * 2 ^ 54 + 2 * 2 ^ 51 + 1 * 2 ^ 50 + 3 * 2 ^ 44 + 1 * 2 ^ 39, .lda iss 3 2 true 0 3 1 0 false),
   (0x18 * 2 ^ 58 + 3 * 2 ^ 55 + 1 * 2 ^ 54 + 63 * 2 ^ 48 + 1 * 2 ^ 46 + 9 * 2 ^ 40 + 2 * 2 ^ 35, .send iss 3 true 63 1 false 9 2),
   (0x23 * 2 ^ 58 + 3 * 2 ^ 48, .accz iss 3),
   (0x28 * 2 ^ 58 + 3 * 2 ^ 52 + 7 * 2 ^ 46 + 3 * 2 ^ 43 + 2 * 2 ^ 40 + 4 * 2 ^ 30 + 2 * 2 ^ 16, vopI),
   (0x29 * 2 ^ 58 + 3 * 2 ^ 56 + 1 * 2 ^ 49 + 7 * 2 ^ 46 + 3 * 2 ^ 32 + 1 * 2 ^ 16, .vred iss 3 1 7 true true 1)]

theorem test_words_decode : ∀ e ∈ wordTable, instrWord e.2 = some e.1 ∧ (tileInstr iss e.1).bind instrWord = some e.1 := by
  decide +kernel

end Sys2Proof.Tests
end

/-! SUPPORT and PROOFS. Tickets (14_ethernet_host.md R365 to R368) and the micro-batches of a step (01_training_step.md R14, R22, R23; R226,
R227, R370): what the host's operations leave alone, the judgement of a ticket, and the beginnings and ends of work. -/

namespace Sys2Proof.Machine

/-! ### Numbers in byte strings and in the headers of result slots (R8, R369) -/

theorem slice_eq_map_range (bs : List Byte) (off n : Nat) : slice bs off n = (List.range n).map (fun i => bs.getD (off + i) 0) := by
  apply List.ext_getElem
  · simp [slice]
  · intro i h₁ h₂
    simp [slice, List.getElem_append]
    grind

theorem leNat_leBytes (n v : Nat) : leNat (leBytes n v) = v % 256 ^ n := by
  induction n generalizing v with
  | zero => simp [leBytes, leNat, Nat.mod_one]
  | succ n ih => simp [leBytes, leNat, ih, pow_succ', Nat.mod_mul]

/-- Sealing a header keeps its fields below the CRC's place. -/
theorem field_sealSlot (h p : List Byte) (off n : Nat) (hn : off + n ≤ 60) : field (sealSlot h p).header off n = field h off n := by
  have hlen : (slice h 0 60).length = 60 := by simp [slice_eq_map_range]
  show leNat (slice (slice h 0 60 ++ _) off n) = leNat (slice h off n)
  rw [slice_eq_map_range _ off, slice_eq_map_range h off]
  congr 1
  refine List.map_congr_left fun i hi => ?_
  have hi' : off + i < 60 := by have := List.mem_range.mp hi; omega
  rw [List.getD_append _ _ _ _ (by omega), slice_eq_map_range]
  simp [List.getD_eq_getElem?_getD, hi']

@[simp] theorem slotState_sealed (st flags gen size seq step tag loss excluded acceptId : Nat) (p : List Byte) :
    slotState (sealSlot (slotHeader st flags gen size seq step tag loss excluded acceptId) p) = st % 256 := by
  rw [slotState, field_sealSlot _ _ _ _ (by omega)]
  exact leNat_leBytes 1 st

@[simp] theorem slotGen_sealed (st flags gen size seq step tag loss excluded acceptId : Nat) (p : List Byte) :
    slotGen (sealSlot (slotHeader st flags gen size seq step tag loss excluded acceptId) p) = gen % 65536 := by
  rw [slotGen, field_sealSlot _ _ _ _ (by omega)]
  exact leNat_leBytes 2 gen

/-! ### setSlot -/

@[simp] theorem setSlot_log (s : State) (k : Nat) (r : RSlot) : (setSlot s k r).log = s.log := by
  unfold setSlot; split <;> simp
@[simp] theorem setSlot_out (s : State) (k : Nat) (r : RSlot) : (setSlot s k r).out = s.out := by
  unfold setSlot; split <;> simp
@[simp] theorem setSlot_stp (s : State) (k : Nat) (r : RSlot) : (setSlot s k r).stp = s.stp := by
  unfold setSlot; split <;> simp

/-- Of the host's attachment a slot's write changes the slots only. -/
theorem setSlot_host (s : State) (k : Nat) (r : RSlot) : (setSlot s k r).host = { s.host with slots := (setSlot s k r).host.slots } := by
  unfold setSlot; split <;> simp

@[simp] theorem setSlot_tickets (s : State) (k : Nat) (r : RSlot) : (setSlot s k r).host.tickets = s.host.tickets := by rw [setSlot_host]
@[simp] theorem setSlot_bar (s : State) (k : Nat) (r : RSlot) : (setSlot s k r).host.bar = s.host.bar := by rw [setSlot_host]
@[simp] theorem setSlot_linkUp (s : State) (k : Nat) (r : RSlot) : (setSlot s k r).host.linkUp = s.host.linkUp := by rw [setSlot_host]
@[simp] theorem setSlot_queued (s : State) (k : Nat) (r : RSlot) : (setSlot s k r).host.queued = s.host.queued := by rw [setSlot_host]

theorem getSlot_eq (s t : State) (k : Nat) (h : t.host.slots = s.host.slots) : getSlot t k = getSlot s k := by simp only [getSlot, h]

@[simp] theorem getSlot_emit (s : State) (o : Out) (k : Nat) : getSlot (emit s o) k = getSlot s k := rfl

@[simp] theorem getSlot_setSlot_same (s : State) (k : Nat) (r : RSlot) : getSlot (setSlot s k r) k = r := by
  unfold setSlot getSlot
  split
  · next h => simpa [getSlot] using h
  · simp

theorem getN_setSlot_other (s : State) (j : Nat) (r : RSlot) (k : Nat) (hp : k ≠ Key.slotsPending) (hr : k ≠ Key.slotsReady) :
    getN (setSlot s j r) k = getN s k := by
  unfold setSlot
  rw [getN_setN_other _ _ _ _ hr, getN_setN_other _ _ _ _ hp]
  split
  · rfl
  · exact getN_eq _ _ _ rfl rfl

/-! ### journal -/

theorem journal_prepends (s : State) (typ : Nat) (body : List Byte) :
    ∃ j, (journal s typ body).log.journal = j :: s.log.journal ∧ j.typ = typ ∧ j.body = body :=
  ⟨⟨typ, getN s Key.journalRecordSeq + 1, beatNow s, getN s Key.activeCore, body⟩, by simp [journal], rfl, rfl⟩

/-! ### storeTokens -/

@[simp] theorem storeTokens_variant (s : State) (k : Nat) (bs : List Byte) : (storeTokens s k bs).variant = s.variant := by
  unfold storeTokens; split <;> rfl
@[simp] theorem storeTokens_objs (s : State) (k : Nat) (bs : List Byte) : (storeTokens s k bs).objs = s.objs := by
  unfold storeTokens; split <;> rfl
@[simp] theorem storeTokens_host (s : State) (k : Nat) (bs : List Byte) : (storeTokens s k bs).host = s.host := by
  unfold storeTokens; split <;> rfl
@[simp] theorem storeTokens_log (s : State) (k : Nat) (bs : List Byte) : (storeTokens s k bs).log = s.log := by
  unfold storeTokens; split <;> rfl
@[simp] theorem storeTokens_out (s : State) (k : Nat) (bs : List Byte) : (storeTokens s k bs).out = s.out := by
  unfold storeTokens; split <;> rfl
@[simp] theorem getN_storeTokens (s : State) (k : Nat) (bs : List Byte) (key : Nat) : getN (storeTokens s k bs) key = getN s key :=
  getN_eq _ _ _ (by simp) (by simp)

/-! ### sendToken: a token changes the acceptance ring, the tokens that wait and what leaves (R367) -/

@[simp] theorem sendToken_tickets (s : State) (k : Token) : (sendToken s k).host.tickets = s.host.tickets := by
  unfold sendToken; split <;> rfl
@[simp] theorem sendToken_slots (s : State) (k : Token) : (sendToken s k).host.slots = s.host.slots := by
  unfold sendToken; split <;> rfl
@[simp] theorem sendToken_nextAccept (s : State) (k : Token) : (sendToken s k).host.nextAccept = s.host.nextAccept := by
  unfold sendToken; split <;> rfl
@[simp] theorem sendToken_subHead (s : State) (k : Token) : (sendToken s k).host.bar.subHead = s.host.bar.subHead := by
  unfold sendToken; split <;> rfl
@[simp] theorem sendToken_subEntries (s : State) (k : Token) : (sendToken s k).host.bar.subEntries = s.host.bar.subEntries := by
  unfold sendToken; split <;> rfl
@[simp] theorem sendToken_log (s : State) (k : Token) : (sendToken s k).log = s.log := by
  unfold sendToken; split <;> rfl
@[simp] theorem getN_sendToken (s : State) (k : Token) (key : Nat) : getN (sendToken s k) key = getN s key := by
  unfold sendToken; split <;> rfl
@[simp] theorem getSlot_sendToken (s : State) (k : Token) (j : Nat) : getSlot (sendToken s k) j = getSlot s j := getSlot_eq _ _ _ (by simp)

theorem sendToken_out_of_linkUp (s : State) (k : Token) (hl : s.host.linkUp = true) (hq : s.host.queued = []) :
    (sendToken s k).out = s.out ++ [.token s.host.bar.accTail.toNat (tokenBytes k s.host.bar.phase), .msix 0] := by
  simp [sendToken, hl, hq, writeToken, emit, setBar]

theorem sendToken_queued_of_linkDown (s : State) (k : Token) (hl : s.host.linkUp = false) :
    (sendToken s k).host.queued = s.host.queued ++ [k] := by
  simp [sendToken, hl]

/-! ### advanceSubHead -/

@[simp] theorem advanceSubHead_tickets (s : State) : (advanceSubHead s).host.tickets = s.host.tickets := rfl
@[simp] theorem advanceSubHead_slots (s : State) : (advanceSubHead s).host.slots = s.host.slots := rfl
@[simp] theorem advanceSubHead_queued (s : State) : (advanceSubHead s).host.queued = s.host.queued := rfl
@[simp] theorem advanceSubHead_nextAccept (s : State) : (advanceSubHead s).host.nextAccept = s.host.nextAccept := rfl
@[simp] theorem advanceSubHead_log (s : State) : (advanceSubHead s).log = s.log := rfl
@[simp] theorem advanceSubHead_out (s : State) : (advanceSubHead s).out = s.out := rfl
@[simp] theorem getN_advanceSubHead (s : State) (key : Nat) : getN (advanceSubHead s) key = getN s key := rfl
@[simp] theorem getSlot_advanceSubHead (s : State) (k : Nat) : getSlot (advanceSubHead s) k = getSlot s k := rfl

/-- SUB_HEAD after the ticket at it is read. -/
def nextSubHead (r : Bar0) : W32 := if r.subHead.toNat + 1 < r.subEntries.toNat then r.subHead + 1 else 0

theorem advanceSubHead_subHead (s : State) : (advanceSubHead s).host.bar.subHead = nextSubHead s.host.bar := rfl

theorem nextSubHead_eq (r r' : Bar0) (hh : r'.subHead = r.subHead) (he : r'.subEntries = r.subEntries) : nextSubHead r' = nextSubHead r := by
  simp only [nextSubHead, hh, he]

/-! ### The judgement of a ticket, a case at a time (R366) -/

section Judge
variable (s : State) (e : TicketEnv)

theorem judgeTicket_notRunning (h : notRunning s = true) : judgeTicket s e = refuseTicket s (slice e.bytes 0 64) 6 0 := by
  simp only [judgeTicket, h, if_true]

variable (hr : notRunning s = false)
include hr

theorem judgeTicket_bad (h : badTicket (slice e.bytes 0 64) = true) : judgeTicket s e = refuseTicket s (slice e.bytes 0 64) 1 0 := by
  simp [judgeTicket, hr, h]

variable (hb : badTicket (slice e.bytes 0 64) = false)
include hb

theorem judgeTicket_evalNotPlanned (hk : tkKind (slice e.bytes 0 64) = 2) (hc : s.stp.evalCfg.1 = 0) :
    judgeTicket s e = refuseTicket s (slice e.bytes 0 64) 7 0 := by
  simp [judgeTicket, hr, hb, hk, hc]

variable (hp : tkKind (slice e.bytes 0 64) ≠ 2 ∨ s.stp.evalCfg.1 ≠ 0)
include hp

theorem judgeTicket_wrongStep (h : wrongStep s (slice e.bytes 0 64) = true) : judgeTicket s e = refuseTicket s (slice e.bytes 0 64) 2 0 := by
  simp [judgeTicket, hr, hb, not_and_or.mpr hp, h]

variable (hw : wrongStep s (slice e.bytes 0 64) = false)
include hw

theorem judgeTicket_duplicate (d : Ticket) (h : duplicateOf s (slice e.bytes 0 64) = some d) :
    judgeTicket s e = refuseTicket s (slice e.bytes 0 64) 3 d.acceptId := by
  simp [judgeTicket, hr, hb, not_and_or.mpr hp, hw, h]

variable (hd : duplicateOf s (slice e.bytes 0 64) = none)
include hd

theorem judgeTicket_slotBusy (h : slotState (getSlot s (tkSlot (slice e.bytes 0 64))) ≠ 0) :
    judgeTicket s e = refuseTicket s (slice e.bytes 0 64) 4 0 := by
  simp [judgeTicket, hr, hb, not_and_or.mpr hp, hw, hd, h]

variable (hs : slotState (getSlot s (tkSlot (slice e.bytes 0 64))) = 0)
include hs

theorem judgeTicket_dataFault (h : ticketData s e = none) : judgeTicket s e = refuseTicket s (slice e.bytes 0 64) 5 0 := by
  simp [judgeTicket, hr, hb, not_and_or.mpr hp, hw, hd, hs, h]

theorem judgeTicket_accept (data : List Byte) (h : ticketData s e = some data) : judgeTicket s e = acceptTicket s e data := by
  simp [judgeTicket, hr, hb, not_and_or.mpr hp, hw, hd, hs, h]

end Judge

/-! ### When TICKET_READ reads (R368) -/

/-- The errors of the endpoint's reads only raise flags for the next boundary. -/
theorem reportAer_eq (s : State) (e : TicketEnv) : ∃ r, reportAer s e = { s with raised := r } := by
  unfold reportAer
  split <;> split <;> exact ⟨_, rfl⟩

/-- The submission ring holds a ticket and TICKET_READ may read it (R368). -/
def TicketReadable (s : State) : Prop :=
  2 ≤ getN s Key.bringupPhase ∧ s.host.bar.subEntries ≠ 0 ∧ s.host.bar.accEntries ≠ 0 ∧ s.host.bar.subHead ≠ s.host.bar.subTail ∧
    s.host.queued.length < tokenRoom s ∧ outstanding s < getN s Key.maxOutstanding ∧ ringUnread s = false

/-- Where the ring is read, the ticket is judged over the state with the endpoint's errors noted, and SUB_HEAD passes it. -/
theorem exec_ticketRead_of_readable (s : State) (e : TicketEnv) (h : TicketReadable s) :
    ∃ r, exec (.ticketRead e) s = .next (advanceSubHead (judgeTicket { s with raised := r } e)) := by
  obtain ⟨hphase, hsub, hacc, hheld, hroom, hout, hread⟩ := h
  obtain ⟨r, hr⟩ := reportAer_eq s e
  refine ⟨r, ?_⟩
  show execTicketRead e s = _
  rw [execTicketRead, hr]
  refine if_neg ?_
  simp only [not_or, not_lt, not_le, hread]
  exact ⟨hphase, hsub, hacc, hheld, hroom, hout, Bool.false_ne_true⟩

theorem exec_ticketRead_of_unread (s : State) (e : TicketEnv) (h : ringUnread s = true ∨ tokenRoom s ≤ s.host.queued.length ∨
    getN s Key.maxOutstanding ≤ outstanding s ∨ s.host.bar.subHead = s.host.bar.subTail) : exec (.ticketRead e) s = .next s := by
  show execTicketRead e s = _
  unfold execTicketRead
  exact if_pos (by tauto)

/-! ### A refused ticket (R366) -/

/-- TICKET_READ refuses the ticket that it passes: the refusal is counted and answered with its token, and nothing else of the tickets,
the slots or the logbook changes. -/
def TicketRefused (s : State) (e : TicketEnv) (status acceptId : Nat) : Prop :=
  let b := slice e.bytes 0 64
  let r := s.host.bar
  ∃ t, exec (.ticketRead e) s = .next t ∧ t.host.bar.subHead = nextSubHead r ∧
    getN t (Key.ticketsRefused (status - 1)) = satAdd 64 (getN s (Key.ticketsRefused (status - 1))) 1 ∧
    t.host.tickets = s.host.tickets ∧ t.host.slots = s.host.slots ∧ t.log = s.log ∧
    (s.host.linkUp = true → s.host.queued = [] →
      t.out = s.out ++ [.token r.accTail.toNat (tokenBytes ⟨status, r.subHead.toNat, tkSeq b, acceptId, tkTag b⟩ r.phase), .msix 0]) ∧
    (s.host.linkUp = false → t.host.queued = s.host.queued ++ [⟨status, r.subHead.toNat, tkSeq b, acceptId, tkTag b⟩])

/-- A judgement that refuses the ticket has TICKET_READ refuse it. -/
theorem ticketRefused_of_judge (s : State) (e : TicketEnv) (status acceptId : Nat) (h : TicketReadable s)
    (hj : ∀ r, judgeTicket { s with raised := r } e = refuseTicket { s with raised := r } (slice e.bytes 0 64) status acceptId) :
    TicketRefused s e status acceptId := by
  obtain ⟨r, hx⟩ := exec_ticketRead_of_readable s e h
  rw [hj, refuseTicket] at hx
  refine ⟨_, hx, ?_, ?_, by simp, by simp, by simp, fun hl hq => ?_, fun hl => ?_⟩
  · rw [advanceSubHead_subHead]
    exact nextSubHead_eq _ _ (by simp) (by simp)
  · rw [getN_advanceSubHead, getN_sendToken, getN_count64_same]
    rfl
  · rw [advanceSubHead_out, sendToken_out_of_linkUp _ _ (by simpa using hl) (by simpa using hq)]
    simp
  · rw [advanceSubHead_queued, sendToken_queued_of_linkDown _ _ (by simpa using hl)]
    simp

/-! ### An accepted ticket (R365) -/

/-- The state with a ticket kept, and the next ACCEPT_ID. -/
def keepTicket (s : State) (k : Ticket) : State :=
  { s with host := { s.host with nextAccept := k.acceptId + 1, tickets := s.host.tickets ++ [k] } }

@[simp] theorem keepTicket_tickets (s : State) (k : Ticket) : (keepTicket s k).host.tickets = s.host.tickets ++ [k] := rfl
@[simp] theorem keepTicket_nextAccept (s : State) (k : Ticket) : (keepTicket s k).host.nextAccept = k.acceptId + 1 := rfl
@[simp] theorem keepTicket_bar (s : State) (k : Ticket) : (keepTicket s k).host.bar = s.host.bar := rfl
@[simp] theorem keepTicket_linkUp (s : State) (k : Ticket) : (keepTicket s k).host.linkUp = s.host.linkUp := rfl
@[simp] theorem keepTicket_queued (s : State) (k : Ticket) : (keepTicket s k).host.queued = s.host.queued := rfl
@[simp] theorem keepTicket_slots (s : State) (k : Ticket) : (keepTicket s k).host.slots = s.host.slots := rfl
@[simp] theorem keepTicket_log (s : State) (k : Ticket) : (keepTicket s k).log = s.log := rfl
@[simp] theorem keepTicket_out (s : State) (k : Ticket) : (keepTicket s k).out = s.out := rfl
@[simp] theorem getN_keepTicket (s : State) (k : Ticket) (key : Nat) : getN (keepTicket s k) key = getN s key := rfl

/-- A slot that becomes PENDING for a ticket: its GENERATION stays (R365). -/
def pendingSlot (s : State) (b : List Byte) : RSlot :=
  sealSlot (slotHeader 1 0 (slotGen (getSlot s (tkSlot b))) 0 (tkSeq b) (tkStep b) (tkTag b) 0 0 s.host.nextAccept) []

/-- The slot PENDING and the ACCEPT record journalled (steps 2 and 3 of R365). -/
def acceptJournalled (s : State) (b : List Byte) : State :=
  journal (setSlot s (tkSlot b) (pendingSlot s b)) 1 (leBytes 8 s.host.nextAccept ++ leBytes 24 0 ++ b)

/-- The targets that an accepted ticket keeps. -/
def ticketTargets (e : TicketEnv) : List Byte :=
  let b := slice e.bytes 0 64
  if bit (tkFlags b) 1 then slice e.targets 0 (tkTargetBytes b) else []

/-- The ticket as accepted and counted, before its token. -/
def ticketKept (s : State) (e : TicketEnv) (data : List Byte) : State :=
  let b := slice e.bytes 0 64
  count64 (keepTicket (storeTokens (acceptJournalled s b) (tkSlot b) (data ++ ticketTargets e))
    ⟨s.host.nextAccept, b, data, ticketTargets e, false, none⟩) Key.ticketsAccepted

theorem acceptTicket_eq (s : State) (e : TicketEnv) (data : List Byte) :
    acceptTicket s e data = sendToken (ticketKept s e data) ⟨0, (ticketKept s e data).host.bar.subHead.toNat,
      tkSeq (slice e.bytes 0 64), s.host.nextAccept, tkTag (slice e.bytes 0 64)⟩ := by
  simp only [acceptTicket, ticketKept, acceptJournalled, keepTicket, pendingSlot, ticketTargets]

section Kept
variable (s : State) (e : TicketEnv) (data : List Byte)

@[simp] theorem ticketKept_bar : (ticketKept s e data).host.bar = s.host.bar := by simp [ticketKept, acceptJournalled]
@[simp] theorem ticketKept_linkUp : (ticketKept s e data).host.linkUp = s.host.linkUp := by simp [ticketKept, acceptJournalled]
@[simp] theorem ticketKept_queued : (ticketKept s e data).host.queued = s.host.queued := by simp [ticketKept, acceptJournalled]
@[simp] theorem ticketKept_out : (ticketKept s e data).out = s.out := by simp [ticketKept, acceptJournalled]
@[simp] theorem ticketKept_nextAccept : (ticketKept s e data).host.nextAccept = s.host.nextAccept + 1 := by simp [ticketKept]

theorem ticketKept_tickets : (ticketKept s e data).host.tickets =
    s.host.tickets ++ [⟨s.host.nextAccept, slice e.bytes 0 64, data, ticketTargets e, false, none⟩] := by
  simp [ticketKept, acceptJournalled]

theorem ticketKept_slot : slotState (getSlot (ticketKept s e data) (tkSlot (slice e.bytes 0 64))) = 1 := by
  rw [getSlot_eq (setSlot s (tkSlot (slice e.bytes 0 64)) (pendingSlot s (slice e.bytes 0 64))) _ _ (by simp [ticketKept, acceptJournalled])]
  simp [pendingSlot]

theorem ticketKept_journal : ∃ j, (ticketKept s e data).log.journal = j :: s.log.journal ∧ j.typ = 1 ∧
    j.body = leBytes 8 s.host.nextAccept ++ leBytes 24 0 ++ slice e.bytes 0 64 := by
  have hlog : (ticketKept s e data).log = (acceptJournalled s (slice e.bytes 0 64)).log := by simp [ticketKept]
  rw [hlog, ← setSlot_log s]
  exact journal_prepends _ _ _

theorem ticketKept_count : getN (ticketKept s e data) Key.ticketsAccepted = satAdd 64 (getN s Key.ticketsAccepted) 1 := by
  rw [ticketKept, getN_count64_same, getN_keepTicket, getN_storeTokens, acceptJournalled, getN_journal_other _ _ _ _ (by decide) (by decide),
    getN_setSlot_other _ _ _ _ (by decide) (by decide)]

end Kept

/-- TICKET_READ accepts the ticket that it passes: the ticket is kept under the next ACCEPT_ID, its slot is PENDING, its record is
journalled, and it is counted and answered with its token. -/
def TicketAccepted (s : State) (e : TicketEnv) (data : List Byte) : Prop :=
  let b := slice e.bytes 0 64
  let r := s.host.bar
  ∃ t, exec (.ticketRead e) s = .next t ∧ t.host.bar.subHead = nextSubHead r ∧ t.host.nextAccept = s.host.nextAccept + 1 ∧
    (∃ targets, t.host.tickets = s.host.tickets ++ [⟨s.host.nextAccept, b, data, targets, false, none⟩]) ∧
    slotState (getSlot t (tkSlot b)) = 1 ∧
    (∃ j, t.log.journal = j :: s.log.journal ∧ j.typ = 1 ∧ j.body = leBytes 8 s.host.nextAccept ++ leBytes 24 0 ++ b) ∧
    getN t Key.ticketsAccepted = satAdd 64 (getN s Key.ticketsAccepted) 1 ∧
    (s.host.linkUp = true → s.host.queued = [] → t.out = s.out ++ [.token r.accTail.toNat
      (tokenBytes ⟨0, r.subHead.toNat, tkSeq b, s.host.nextAccept, tkTag b⟩ r.phase), .msix 0])

/-- A judgement that accepts the ticket has TICKET_READ accept it. -/
theorem ticketAccepted_of_judge (s : State) (e : TicketEnv) (data : List Byte) (h : TicketReadable s)
    (hj : ∀ r, judgeTicket { s with raised := r } e = acceptTicket { s with raised := r } e data) : TicketAccepted s e data := by
  obtain ⟨r, hx⟩ := exec_ticketRead_of_readable s e h
  rw [hj, acceptTicket_eq] at hx
  refine ⟨_, hx, ?_, by simp, ⟨ticketTargets e, ?_⟩, ?_, ?_, ?_, fun hl hq => ?_⟩
  · rw [advanceSubHead_subHead]
    exact nextSubHead_eq _ _ (by simp) (by simp)
  · rw [advanceSubHead_tickets, sendToken_tickets, ticketKept_tickets]
  · rw [getSlot_advanceSubHead, getSlot_sendToken, ticketKept_slot]
  · rw [advanceSubHead_log, sendToken_log]
    exact ticketKept_journal _ _ _
  · rw [getN_advanceSubHead, getN_sendToken, ticketKept_count]
    rfl
  · rw [advanceSubHead_out, sendToken_out_of_linkUp _ _ (by simpa using hl) (by simpa using hq)]
    simp

/-- Settles O32: the judgement of R366 a case at a time, over what a refused and an accepted ticket leave. -/
theorem ticketsAreAcceptedOrRefused : Obligations.TicketsAreAcceptedOrRefused := by
  unfold Obligations.TicketsAreAcceptedOrRefused
  intro s e b r head
  refine ⟨fun hphase hsub hacc hheld hroom hout hread => ?_, exec_ticketRead_of_unread s e⟩
  have hready : TicketReadable s := ⟨hphase, hsub, hacc, hheld, hroom, hout, hread⟩
  have refuse := fun st id => ticketRefused_of_judge s e st id hready
  refine ⟨fun hn => refuse 6 0 fun u => judgeTicket_notRunning { s with raised := u } e hn, fun hn => ?_⟩
  refine ⟨fun hb => refuse 1 0 fun u => judgeTicket_bad { s with raised := u } e hn hb, fun hb => ?_⟩
  refine ⟨fun hk hc => refuse 7 0 fun u => judgeTicket_evalNotPlanned { s with raised := u } e hn hb hk hc, fun hp => ?_⟩
  refine ⟨fun hw => refuse 2 0 fun u => judgeTicket_wrongStep { s with raised := u } e hn hb hp hw, fun hw => ?_⟩
  refine ⟨fun d hd => refuse 3 d.acceptId fun u => judgeTicket_duplicate { s with raised := u } e hn hb hp hw d hd, fun hd => ?_⟩
  refine ⟨fun hs => refuse 4 0 fun u => judgeTicket_slotBusy { s with raised := u } e hn hb hp hw hd hs, fun hs => ?_⟩
  refine ⟨fun hf => refuse 5 0 fun u => judgeTicket_dataFault { s with raised := u } e hn hb hp hw hd hs hf, fun data hf => ?_⟩
  exact ticketAccepted_of_judge s e data hready fun u => judgeTicket_accept { s with raised := u } e hn hb hp hw hd hs data hf

/-! ### Arming again leaves the step's work alone (R318) -/

@[simp] theorem beginTrim_stp (s : State) (se : Nat) (d : Desc) : (beginTrim s se d).stp = s.stp := by
  unfold beginTrim; split <;> rfl

@[simp] theorem armFrom_stp (s : State) (se : Nat) (b : List Byte) (done : List Nat) : (armFrom s se b done).stp = s.stp := by
  simp only [armFrom]
  split
  · simp [refreshSe, setQueue]
  · rfl

@[simp] theorem armScheduled_stp (s : State) (se : Nat) (b : List Byte) (done : List Nat) : (armScheduled s se b done).stp = s.stp := by
  unfold armScheduled; split <;> simp

@[simp] theorem rearmReplayed_stp (s : State) : (rearmReplayed s).stp = s.stp := by
  unfold rearmReplayed
  refine List.foldlRecOn (motive := fun t : State => t.stp = s.stp) _ _ rfl fun t ht e _ => ?_
  rw [armScheduled_stp, ht]

/-! ### The work of a micro-batch -/

theorem beginReplay_replayPending (s : State) (seq : Nat) (rest : List Nat) : (beginReplay s seq rest).stp.replayPending = rest := by
  simp [beginReplay, modifyWork]

theorem beginReplay_work (s : State) (seq : Nat) (rest : List Nat) (w : Work) (hw : w ∈ (beginReplay s seq rest).stp.work)
    (hs : w.seq = seq) : w.abandoned = false := by
  simp only [beginReplay, modifyWork, rearmReplayed_stp, List.mem_map] at hw
  obtain ⟨v, -, rfl⟩ := hw
  by_cases hv : v.seq = seq
  · simp [hv]
  · simp [hv] at hs

theorem mem_upFrom (lo n x : Nat) : x ∈ upFrom lo n ↔ lo ≤ x ∧ x < lo + n := by
  induction n generalizing lo with
  | zero => simp [upFrom]
  | succ n ih => simp only [upFrom, List.mem_cons, ih]; omega

/-- Every micro-batch of the step before this one has begun. -/
theorem all_begun_upFrom (s : State) (first seq : Nat) (h : ∀ q, first ≤ q → q < seq → begun s false q = true) :
    (upFrom first (seq - first)).all (begun s false) = true := by
  rw [List.all_eq_true]
  intro q hq
  obtain ⟨hlo, hhi⟩ := (mem_upFrom _ _ _).mp hq
  exact h q hlo (by omega)

/-! ### MICROBATCH_FORWARD_START (R14, R22, R43, R226) -/

section ForwardStart
variable (s : State) (seq : Nat) (hrun : inRun s = true) (hsus : s.stp.suspended = false)
include hrun hsus

theorem forwardStart_replay (rest : List Nat) (hp : s.stp.replayPending = seq :: rest) :
    exec (.microbatchForwardStart seq) s = .next (beginReplay s seq rest) := by
  show execMicrobatchForwardStart seq s = _
  simp [execMicrobatchForwardStart, hrun, hsus, hp]

variable (hp : s.stp.replayPending = [])
include hp

theorem forwardStart_training (k : Ticket) (hwin : s.stp.windowEnd = none) (ht : ticketOf s 1 seq = some k)
    (hstep : tkStep k.bytes = s.stp.step) (hphase : getN s Key.reshardPhase ≤ 1) (hnew : begun s false seq = false)
    (hdepth : depthAllows s seq = true) (hall : ∀ q, stepFirstSeq s s.stp.step ≤ q → q < seq → begun s false q = true) :
    exec (.microbatchForwardStart seq) s = .next (beginWork s false k) := by
  have hbefore := all_begun_upFrom s _ seq hall
  show execMicrobatchForwardStart seq s = _
  simp only [execMicrobatchForwardStart, hrun, hsus, hp, hwin, ht, hstep, hphase, hnew, hdepth, hbefore]
  simp

theorem forwardStart_evaluation (k : Ticket) (hwin : s.stp.windowEnd ≠ none) (ht : ticketOf s 2 seq = some k)
    (hadm : k.acceptId ∈ s.stp.admitted) (hnew : begun s true seq = false) (hbefore : admittedBefore s seq = true) :
    exec (.microbatchForwardStart seq) s = .next (beginWork s true k) := by
  have hopen : s.stp.windowEnd.isSome = true := Option.isSome_iff_ne_none.mpr hwin
  show execMicrobatchForwardStart seq s = _
  simp [execMicrobatchForwardStart, hrun, hsus, hp, hopen, ht, hadm, hnew, hbefore]

end ForwardStart

/-! ### BACKWARD_START (R226, R227) -/

/-- The backward work of a micro-batch noted as begun. -/
def beginBackward (w : Work) : Work := if w.evaluation then w else { w with backwardBegun := true }

theorem backwardReady_of_work (s : State) (seq : Nat) (w : Work) (hw : w ∈ s.stp.work) (he : w.evaluation = false) (hs : w.seq = seq)
    (hf : w.forwardEnded = true) (hb : w.backwardBegun = false) (ha : w.abandoned = false) (hg : gradsIn s seq = true)
    (hr : slotReached s seq = true)
    (hprev : seq = stepFirstSeq s s.stp.step ∨ ∃ v ∈ s.stp.work, v.evaluation = false ∧ v.seq + 1 = seq ∧ v.backwardEnded = true) :
    backwardReady s seq = true := by
  have hmine : s.stp.work.any (fun w => !w.evaluation && w.seq == seq && w.forwardEnded && !w.backwardBegun && !w.abandoned) = true :=
    List.any_eq_true.mpr ⟨w, hw, by simp [he, hs, hf, hb, ha]⟩
  have hbefore : (seq == stepFirstSeq s s.stp.step || s.stp.work.any (fun w => !w.evaluation && w.seq + 1 == seq && w.backwardEnded)) = true := by
    rcases hprev with h | ⟨v, hv, hve, hvs, hvb⟩
    · simp [← h]
    · exact Bool.or_eq_true_iff.mpr (.inr (List.any_eq_true.mpr ⟨v, hv, by simp [hve, hvs, hvb]⟩))
  rw [backwardReady, hmine, hg, hr, hbefore]
  rfl

theorem exec_backwardStart_of_ready (s : State) (seq : Nat) (hrun : inRun s = true) (hsus : s.stp.suspended = false)
    (h : backwardReady s seq = true) : exec (.backwardStart seq) s = .next (modifyWork s seq beginBackward) := by
  show execBackwardStart seq s = _
  rw [execBackwardStart, if_pos ⟨hrun, by simp [hsus], h⟩]
  rfl

theorem mem_modifyWork (s : State) (seq : Nat) (f : Work → Work) (w : Work) (hw : w ∈ s.stp.work) (hs : w.seq = seq) :
    f w ∈ (modifyWork s seq f).stp.work :=
  List.mem_map.mpr ⟨w, hw, by simp [hs]⟩

theorem modifyWork_length (s : State) (seq : Nat) (f : Work → Work) : (modifyWork s seq f).stp.work.length = s.stp.work.length :=
  List.length_map _

/-! ### EVALUATION_COMPLETE (R23, R370) -/

/-- A result's write puts a sealed header and payload in the ticket's slot, READY with the next generation, and raises MSI-X 1 (R370). -/
theorem writeResult_eq (s : State) (t : Ticket) (step : Nat) (loss : Option Nat) :
    ∃ r : RSlot, slotState r = 2 ∧ slotGen r = (slotGen (getSlot s (tkSlot t.bytes)) + 1) % 65536 ∧
      writeResult s t step loss = emit (setSlot s (tkSlot t.bytes) r) (.msix 1) :=
  ⟨_, slotState_sealed 2 .., by rw [slotGen_sealed, Nat.mod_mod], rfl⟩

@[simp] theorem endTicket_log (s : State) (id : Nat) : (endTicket s id).log = s.log := rfl
@[simp] theorem endTicket_stp (s : State) (id : Nat) : (endTicket s id).stp = s.stp := rfl
@[simp] theorem endTicket_out (s : State) (id : Nat) : (endTicket s id).out = s.out := rfl
@[simp] theorem getN_endTicket (s : State) (id k : Nat) : getN (endTicket s id) k = getN s k := rfl
@[simp] theorem getSlot_endTicket (s : State) (id k : Nat) : getSlot (endTicket s id) k = getSlot s k := rfl

theorem endTicket_ended (s : State) (id : Nat) (x : Ticket) (hx : x ∈ (endTicket s id).host.tickets) (hid : x.acceptId = id) :
    x.ended = true := by
  obtain ⟨y, -, rfl⟩ := List.mem_map.mp hx
  by_cases hy : y.acceptId = id
  · simp [hy]
  · simp [hy] at hid

/-- A completed ticket: its result stands READY in its slot with MSI-X 1, it has ended, and the rest of the engine is as before. -/
theorem completeTicket_effect (s : State) (t : Ticket) (step : Nat) (loss : Option Nat) :
    ∃ u, completeTicket s t step loss = u ∧ slotState (getSlot u (tkSlot t.bytes)) = 2 ∧
      slotGen (getSlot u (tkSlot t.bytes)) = (slotGen (getSlot s (tkSlot t.bytes)) + 1) % 65536 ∧ u.out = s.out ++ [.msix 1] ∧
      u.log = s.log ∧ u.stp = s.stp ∧ (∀ x ∈ u.host.tickets, x.acceptId = t.acceptId → x.ended = true) ∧
      (∀ k, k ≠ Key.slotsPending → k ≠ Key.slotsReady → getN u k = getN s k) := by
  obtain ⟨r, hstate, hgen, hw⟩ := writeResult_eq s t step loss
  have hslot : getSlot (completeTicket s t step loss) (tkSlot t.bytes) = r := by simp [completeTicket, hw]
  refine ⟨_, rfl, by rw [hslot, hstate], by rw [hslot, hgen], ?_, ?_, ?_, endTicket_ended _ _, fun k hp hr => ?_⟩
  · rw [completeTicket, hw, endTicket_out, emit, setSlot_out]
  · simp [completeTicket, hw]
  · simp [completeTicket, hw]
  · rw [completeTicket, hw, getN_endTicket, getN_emit, getN_setSlot_other _ _ _ _ hp hr]

/-- The forward work of a ticket ended in the current beat, its layby copies dropped. -/
def endForward (s : State) (id : Nat) (w : Work) : State :=
  { s with stp := { s.stp with
    work := s.stp.work.map (fun v => if v.acceptId == id then { v with forwardEnded := true, endBeat := beatNow s } else v)
    layby := s.stp.layby.filter (fun r => r.seq != w.seq % 2 ^ 32) } }

theorem endForward_work (s : State) (id : Nat) (w v : Work) (hv : v ∈ (endForward s id w).stp.work) (hid : v.acceptId = id) :
    v.forwardEnded = true ∧ v.endBeat = beatNow s := by
  obtain ⟨u, -, rfl⟩ := List.mem_map.mp hv
  by_cases hu : u.acceptId = id
  · simp [hu]
  · simp [hu] at hid

/-- An evaluation ended, journalled and counted, before its result is written. -/
def evaluationCounted (s : State) (id : Nat) (w : Work) : State :=
  count64 (journal (endForward s id w) 3 (leBytes 8 id ++ leBytes 8 (getN s Key.commitStep))) Key.evalTicketsDone

theorem exec_evaluationComplete (s : State) (id : Nat) (w : Work) (k : Ticket) (hw : workOf s id = some w) (he : w.evaluation = true)
    (ha : w.abandoned = false) (hf : s.log.failed = false) (hk : s.host.tickets.find? (fun t => t.acceptId == id && !t.ended) = some k) :
    exec (.evaluationComplete id) s = .next (completeTicket (evaluationCounted s id w) k (getN s Key.commitStep) none) := by
  show execEvaluationComplete id s = _
  simp only [execEvaluationComplete, hw, hk, he, ha, hf]
  rfl

theorem evaluationCounted_count (s : State) (id : Nat) (w : Work) :
    getN (evaluationCounted s id w) Key.evalTicketsDone = satAdd 64 (getN s Key.evalTicketsDone) 1 := by
  rw [evaluationCounted, getN_count64_same, getN_journal_other _ _ _ _ (by decide) (by decide)]
  rfl

theorem evaluationCounted_slot (s : State) (id : Nat) (w : Work) (j : Nat) : getSlot (evaluationCounted s id w) j = getSlot s j :=
  getSlot_eq _ _ _ (by simp [evaluationCounted, endForward])

/-- Settles O34: the start of forward work by its three cases, of backward work from its four conditions, and the end of an evaluation. -/
theorem microbatchesBeginAndEnd : Obligations.MicrobatchesBeginAndEnd := by
  unfold Obligations.MicrobatchesBeginAndEnd
  refine ⟨fun s seq hrun hsus => ⟨fun rest hp => ?_, fun k hp hwin ht hstep hphase hnew hdepth hall => ?_,
    fun k hp hwin ht hadm hnew hbefore => ?_, fun w hw he hs hf hb ha hg hr hprev => ?_⟩, fun s id w k hw he ha hf hk => ?_⟩
  · exact ⟨_, forwardStart_replay s seq hrun hsus rest hp, beginReplay_replayPending s seq rest, beginReplay_work s seq rest⟩
  · exact forwardStart_training s seq hrun hsus hp k hwin ht hstep hphase hnew hdepth hall
  · exact forwardStart_evaluation s seq hrun hsus hp k hwin ht hadm hnew hbefore
  · have hready := backwardReady_of_work s seq w hw he hs hf hb ha hg hr hprev
    refine ⟨_, exec_backwardStart_of_ready s seq hrun hsus hready, ?_, modifyWork_length s seq _⟩
    simpa [beginBackward, he] using mem_modifyWork s seq beginBackward w hw hs
  · have hid : k.acceptId = id := by
      have h := List.find?_some hk
      simp only [Bool.and_eq_true, beq_iff_eq] at h
      exact h.1
    obtain ⟨t, ht, hstate, hgen, hout, hlog, hstp, hended, hn⟩ :=
      completeTicket_effect (evaluationCounted s id w) k (getN s Key.commitStep) none
    refine ⟨t, by rw [exec_evaluationComplete s id w k hw he ha hf hk, ht], ?_, ?_, hstate, ?_, ?_, ?_, ?_⟩
    · rw [hlog, evaluationCounted, count64_log]
      exact journal_prepends (endForward s id w) _ _
    · rw [hn _ (by decide) (by decide), evaluationCounted_count]
    · rw [hgen, evaluationCounted_slot]
    · simpa [evaluationCounted, endForward] using hout
    · exact hid ▸ hended
    · rw [hstp, evaluationCounted, count64_stp, journal_stp]
      exact endForward_work s id w

end Sys2Proof.Machine


/-! PROOFS. The owner's writes of the defect map (02_wafer_grid.md R37, R41, R48, R49; R555): the committed write, the stored map, and O30. -/

namespace Sys2Proof.Machine

/-! ### A committed write that passes its checks (R557) -/

theorem ownWrite_refused {s : State} {key : Nat} {w : WReq} (ha : Accepted s key w) {check : State → Nat → Nat} {effect : State → Nat → State}
    {st : Nat} (hc : check s w.val = st) (hst : st ≠ stOk) : ownWrite s key w check effect = emit s (.objStatus key st) := by
  simp [ownWrite, ha.open_, ha.checks, hc, hst]

theorem ownWrite_done {s : State} {key : Nat} {w : WReq} (ha : Accepted s key w) {check : State → Nat → Nat} {effect : State → Nat → State}
    (hc : check s w.val = stOk) : ownWrite s key w check effect = emit (effect s w.val) (.objStatus key stOk) := by
  simp [ownWrite, ha.open_, ha.checks, hc]

theorem ownWriteDom_refused {s : State} {key : Nat} {w : DReq} (ha : AcceptedDom s key w) {check : State → List Byte → Nat}
    {effect : State → List Byte → State} {st : Nat} (hc : check s w.bytes = st) (hst : st ≠ stOk) :
    ownWriteDom s key w check effect = emit s (.objStatus key st) := by
  simp [ownWriteDom, ha.open_, ha.checks, hc, hst]

theorem ownWriteDom_done {s : State} {key : Nat} {w : DReq} (ha : AcceptedDom s key w) {check : State → List Byte → Nat}
    {effect : State → List Byte → State} (hc : check s w.bytes = stOk) :
    ownWriteDom s key w check effect = emit (effect s w.bytes) (.objStatus key stOk) := by
  simp [ownWriteDom, ha.open_, ha.checks, hc]

/-! ### The stored map written (R35, R36, R555): of the grid only the copies change -/

theorem foldl_touch_eq {α : Type} (f : State → α → State) (hf : ∀ s x, ∃ n m, f s x = { s with change := n, changes := m }) (xs : List α) :
    ∀ s, ∃ n m, xs.foldl f s = { s with change := n, changes := m } := by
  induction xs with
  | nil => exact fun s => ⟨s.change, s.changes, rfl⟩
  | cons x xs ih =>
    intro s
    obtain ⟨n, m, h⟩ := hf s x
    obtain ⟨n', m', h'⟩ := ih (f s x)
    exact ⟨n', m', by rw [List.foldl_cons, h', h]⟩

/-- The copy that a write of the map leaves. -/
def newCopy (s : State) (old new : MapCopy) : MapCopy :=
  { new with
    generation := (old.generation + 1) % 2 ^ 32
    gridMode := (gridModeOf new.fields).1
    excludedCol := (gridModeOf new.fields).2
    beat := beatNow s }

/-- The grid with a copy written where the current one is not. -/
def gridWritten (s : State) (old new : MapCopy) : Grid :=
  if s.grid.currentB then { s.grid with mapA := some (newCopy s old new), currentB := false }
  else { s.grid with mapB := some (newCopy s old new), currentB := true }

theorem writeMap_eq (s : State) (old new : MapCopy) : ∃ r n m, writeMap s old new =
    { s with grid := gridWritten s old new, par := r, change := n, changes := m } := by
  unfold writeMap
  extract_lets md copy grid s₁ par s₂ s₃ s₄
  obtain ⟨n, c, h⟩ := foldl_touch_eq (fun s k => touch (touch s (Key.fldRowEntry (k / 32) (k % 32))) (Key.fldDetourMask (k / 32)))
    (fun _ _ => ⟨_, _, rfl⟩) (changedRows old new) s₄
  obtain ⟨n', c', h'⟩ := foldl_touch_eq (fun s f => touch s (Key.fldFieldState f)) (fun _ _ => ⟨_, _, rfl⟩) (changedFields old new) s₃
  exact ⟨_, n, c, h.trans (by rw [show s₄ = _ from h']; rfl)⟩

theorem curMap_writeMap (s : State) (old new : MapCopy) : curMap (writeMap s old new) = some (newCopy s old new) := by
  obtain ⟨r, n, m, h⟩ := writeMap_eq s old new
  rw [h]
  unfold curMap gridWritten
  cases hb : s.grid.currentB <;> simp

theorem updateMap_of_same (s : State) (f : MapCopy → MapCopy) (m : MapCopy) (hm : curMap s = some m) (hf : f m = m) : updateMap s f = s := by
  simp [updateMap, hm, hf]

theorem updateMap_of_change (s : State) (f : MapCopy → MapCopy) (m : MapCopy) (hm : curMap s = some m) (hf : f m ≠ m) :
    updateMap s f = writeMap s m (f m) := by
  simp [updateMap, hm, hf]

theorem updateMap_eq (s : State) (f : MapCopy → MapCopy) : ∃ a b c r n m, updateMap s f =
    { s with grid := { s.grid with mapA := a, mapB := b, currentB := c }, par := r, change := n, changes := m } := by
  unfold updateMap
  split
  · exact ⟨_, _, _, _, _, _, rfl⟩
  split
  · exact ⟨_, _, _, _, _, _, rfl⟩
  next old _ _ =>
    obtain ⟨r, n, m, h⟩ := writeMap_eq s old (f old)
    rw [h]
    unfold gridWritten
    split <;> exact ⟨_, _, _, _, _, _, rfl⟩

section UpdateMap
variable (s : State) (f : MapCopy → MapCopy)

@[simp] theorem updateMap_cores : (updateMap s f).cores = s.cores := by obtain ⟨a, b, c, r, n, m, h⟩ := updateMap_eq s f; rw [h]
@[simp] theorem updateMap_mesh : (updateMap s f).mesh = s.mesh := by obtain ⟨a, b, c, r, n, m, h⟩ := updateMap_eq s f; rw [h]
@[simp] theorem updateMap_stp : (updateMap s f).stp = s.stp := by obtain ⟨a, b, c, r, n, m, h⟩ := updateMap_eq s f; rw [h]
@[simp] theorem updateMap_out : (updateMap s f).out = s.out := by obtain ⟨a, b, c, r, n, m, h⟩ := updateMap_eq s f; rw [h]
@[simp] theorem updateMap_runRows : (updateMap s f).grid.runRows = s.grid.runRows := by obtain ⟨a, b, c, r, n, m, h⟩ := updateMap_eq s f; rw [h]
@[simp] theorem updateMap_runFields : (updateMap s f).grid.runFields = s.grid.runFields := by
  obtain ⟨a, b, c, r, n, m, h⟩ := updateMap_eq s f; rw [h]
@[simp] theorem updateMap_deaths : (updateMap s f).grid.deaths = s.grid.deaths := by obtain ⟨a, b, c, r, n, m, h⟩ := updateMap_eq s f; rw [h]
@[simp] theorem updateMap_underWay : (updateMap s f).grid.underWay = s.grid.underWay := by
  obtain ⟨a, b, c, r, n, m, h⟩ := updateMap_eq s f; rw [h]
@[simp] theorem getN_updateMap (k : Nat) : getN (updateMap s f) k = getN s k := by
  obtain ⟨a, b, c, r, n, m, h⟩ := updateMap_eq s f; rw [h]; rfl

end UpdateMap

@[simp] theorem curMap_setN (s : State) (key v : Nat) : curMap (setN s key v) = curMap s := by simp [curMap]
@[simp] theorem curMap_emit (s : State) (o : Out) : curMap (emit s o) = curMap s := rfl

/-! ### The owner's writes (R41, R48, R49) -/

/-- What an owner's write of the map leaves alone: the rows and fields in force, the cores, and what has left the engine. -/
structure GridRuns (s t : State) : Prop where
  rows : t.grid.runRows = s.grid.runRows
  fields : t.grid.runFields = s.grid.runFields
  cores : t.cores = s.cores
  out : t.out = s.out

theorem updateMap_gridRuns (s : State) (key v : Nat) (f : MapCopy → MapCopy) : GridRuns s (updateMap (setN s key v) f) :=
  ⟨by simp, by simp, by simp, by simp⟩

theorem excludeEffect_eq (s : State) (v : Nat) (h : v < 90) : excludeEffect s v =
    updateMap (setN s Key.excludeField v) (fun m => if lostByte (stGet m.fields v) then m else loseField v 5 m) := by
  have h' : ¬ 89 < v := by omega
  simp [excludeEffect, h']

theorem stGet_loseField (m : MapCopy) (v cause : Nat) : stGet (loseField v cause m).fields v = 1 + 4 * cause := amGet_put_same _ _ _ _

theorem loseField_ne (m : MapCopy) (v cause : Nat) (h : lostByte (stGet m.fields v) = false) : loseField v cause m ≠ m := by
  intro he
  have hv := stGet_loseField m v cause
  rw [he] at hv
  rw [hv, lostByte] at h
  simp at h

theorem excludeEffect_of_lost (s : State) (v : Nat) (h : v < 90) (m : MapCopy) (hm : curMap s = some m)
    (hl : lostByte (stGet m.fields v) = true) : curMap (excludeEffect s v) = some m := by
  rw [excludeEffect_eq s v h, updateMap_of_same _ _ m (by simpa using hm) (by simp [hl])]
  simpa using hm

theorem excludeEffect_of_notLost (s : State) (v : Nat) (h : v < 90) (m : MapCopy) (hm : curMap s = some m)
    (hl : lostByte (stGet m.fields v) = false) : ∃ n, curMap (excludeEffect s v) = some n ∧ stGet n.fields v = 21 ∧
      n.generation = (m.generation + 1) % 2 ^ 32 ∧ n.rows = m.rows := by
  have hf : (if lostByte (stGet m.fields v) then m else loseField v 5 m) = loseField v 5 m := by simp [hl]
  rw [excludeEffect_eq s v h, updateMap_of_change _ _ m (by simpa using hm) (by rw [hf]; exact loseField_ne m v 5 hl), curMap_writeMap, hf]
  exact ⟨_, rfl, stGet_loseField m v 5, rfl, rfl⟩

theorem markEffect_of_same (s : State) (v : Nat) (m : MapCopy) (hm : curMap s = some m)
    (hr : recordDefect (10 * bits v 7 4 + bits v 3 0) (bits v 12 8) (bits v 18 13) 3 m = m) : curMap (markEffect s v) = some m := by
  rw [markEffect, updateMap_of_same _ _ m (by simpa using hm) hr]
  simpa using hm

theorem markEffect_of_change (s : State) (v : Nat) (m : MapCopy) (hm : curMap s = some m)
    (hr : recordDefect (10 * bits v 7 4 + bits v 3 0) (bits v 12 8) (bits v 18 13) 3 m ≠ m) :
    curMap (markEffect s v) =
      some (newCopy (setN s Key.markCoreDefective v) m (recordDefect (10 * bits v 7 4 + bits v 3 0) (bits v 12 8) (bits v 18 13) 3 m)) := by
  rw [markEffect, updateMap_of_change _ _ m (by simpa using hm) hr, curMap_writeMap]

theorem mem_nsIns (n k : Nat) (ks : List Nat) : k ∈ nsIns n ks ↔ k = n ∨ k ∈ ks := by
  induction ks with
  | nil => simp [nsIns]
  | cons j js ih =>
    unfold nsIns
    split
    · next h => simp [h]
    split
    · simp
    · simp [ih, or_left_comm]

theorem releaseEffect_gridRuns (s : State) (v : Nat) : GridRuns s (releaseEffect s v) :=
  ⟨by simp [releaseEffect], by simp [releaseEffect], by simp [releaseEffect], by simp [releaseEffect]⟩

theorem mem_releaseEffect (s : State) (v : Nat) : v ∈ (releaseEffect s v).grid.released := (mem_nsIns v v _).mpr (.inl rfl)

theorem curMap_releaseEffect (s : State) (v : Nat) : curMap (releaseEffect s v) = curMap s := curMap_setN s Key.releaseFieldLoss v

section OwnerChecks
variable {s : State}

theorem excludeCheck_of_map {m : MapCopy} (hm : curMap s = some m) (v : Nat) : excludeCheck s v = stOk := by simp [excludeCheck, hm]
theorem excludeCheck_of_noMap (hm : curMap s = none) (v : Nat) : excludeCheck s v = stWrongState := by simp [excludeCheck, hm]
theorem markCheck_of_map {m : MapCopy} (hm : curMap s = some m) (v : Nat) : markCheck s v = stOk := by simp [markCheck, hm]
theorem markCheck_of_noMap (hm : curMap s = none) (v : Nat) : markCheck s v = stWrongState := by simp [markCheck, hm]
theorem releaseCheck_of_map {m : MapCopy} (hm : curMap s = some m) (v : Nat) (hu : ¬(v ≤ 89 ∧ fieldUnpowered s v = true)) :
    releaseCheck s v = stOk := by simp only [releaseCheck, hm, hu]; rfl
theorem releaseCheck_of_noMap (hm : curMap s = none) (v : Nat) : releaseCheck s v = stWrongState := by simp [releaseCheck, hm]

end OwnerChecks

/-- Settles O30: each write passes its check where a map stands, and its effect is one write of the map's other copy. -/
theorem ownerWritesTheDefectMap : Obligations.OwnerWritesTheDefectMap := by
  unfold Obligations.OwnerWritesTheDefectMap
  intro s w runs
  have hruns : ∀ t o, GridRuns s t → runs (emit t o) ∧ (emit t o).out = s.out ++ [o] :=
    fun t o h => ⟨⟨h.rows, h.fields, h.cores⟩, by simp [emit, h.out]⟩
  refine ⟨fun m hm => ⟨fun ha hv => ?_, fun ha hu => ?_, fun ha _ _ _ => ?_⟩, fun hm => ⟨fun ha => ?_, fun ha => ?_, fun ha _ _ _ => ?_⟩⟩
  · obtain ⟨hr, ho⟩ := hruns _ (.objStatus Key.excludeField stOk)
      (excludeEffect_eq s w.val hv ▸ updateMap_gridRuns s Key.excludeField w.val _)
    exact ⟨_, congrArg Host.Outcome.next (ownWrite_done ha (excludeCheck_of_map hm _)), hr, ho,
      excludeEffect_of_lost s w.val hv m hm, excludeEffect_of_notLost s w.val hv m hm⟩
  · obtain ⟨hr, ho⟩ := hruns _ (.objStatus Key.releaseFieldLoss stOk) (releaseEffect_gridRuns s w.val)
    exact ⟨_, congrArg Host.Outcome.next (ownWrite_done ha (releaseCheck_of_map hm _ hu)), hr, mem_releaseEffect s w.val,
      (curMap_releaseEffect s w.val).trans hm, ho⟩
  · obtain ⟨hr, ho⟩ := hruns _ (.objStatus Key.markCoreDefective stOk) (updateMap_gridRuns s Key.markCoreDefective w.val _)
    exact ⟨_, congrArg Host.Outcome.next (ownWrite_done ha (markCheck_of_map hm _)), hr, ho, markEffect_of_same s w.val m hm,
      fun hne => ⟨_, markEffect_of_change s w.val m hm hne, rfl, rfl, rfl⟩⟩
  · exact congrArg Host.Outcome.next (ownWrite_refused ha (excludeCheck_of_noMap hm _) (by decide))
  · exact congrArg Host.Outcome.next (ownWrite_refused ha (releaseCheck_of_noMap hm _) (by decide))
  · exact congrArg Host.Outcome.next (ownWrite_refused ha (markCheck_of_noMap hm _) (by decide))

end Sys2Proof.Machine


/-! SUPPORT. What the suspension, the resume and the replay of the tile programs do to the engine (R42, R43, R81, R92): the errors that the
cores meet as they go on count in a few objects and change cores, and a replay puts the abandoned micro-batches among those replayed. -/

namespace Sys2Proof.Machine

/-! ### Flags -/

@[simp] theorem bit_or_two_pow (v b : Nat) : bit (v ||| 2 ^ b) b = true := by
  have h : (v ||| 2 ^ b).testBit b = true := by simp [Nat.testBit_or, Nat.testBit_two_pow_self]
  rw [Nat.testBit_eq_decide_div_mod_eq] at h
  simpa [bit] using h

theorem bit_or_of_bit (v w b : Nat) (h : bit v b = true) : bit (v ||| w) b = true := by
  have hb : ∀ n, bit n b = n.testBit b := fun n => by rw [Nat.testBit_eq_decide_div_mod_eq]; simp [bit, beq_eq_decide]
  rw [hb] at h ⊢
  simp [Nat.testBit_or, h]

theorem bit_raised_raise (s : State) (key b : Nat) : bit (stGet (raise s key b).raised key) b = true := by
  simp [raise, stGet, stPut]

@[simp] theorem overrunCause_grid (s : State) (b : Nat) : (overrunCause s b).grid = s.grid := rfl
@[simp] theorem getN_overrunCause (s : State) (b k : Nat) : getN (overrunCause s b) k = getN s k := rfl

theorem overrunCause_causes (s : State) : (overrunCause s 3).stp.causes.getLsbD 3 = true := by
  simp [overrunCause]

/-! ### Objects written alone -/

theorem setN_eq (s : State) (key v : Nat) : ∃ o n m, setN s key v = { s with objs := o, change := n, changes := m } := by
  unfold setN
  split <;> exact ⟨_, _, _, rfl⟩

/-! ### The SRAM errors that a core meets (R81, R109) -/

/-- The objects in which the errors of the cores' SRAM count. -/
def sramKeys : List Nat := [Key.coreFlags, Key.coreFlags + 1, Key.coreFlags + 2, Key.sramCorrectedTotal, Key.sramUncorrectedTotal]

/-- A state after changes of cores and of the objects that count SRAM errors. -/
structure ErrsMet (s t : State) : Prop where
  rest : ∃ o n m k, t = { s with objs := o, change := n, changes := m, cores := k }
  objs : ∀ k, k ∉ sramKeys → getN t k = getN s k

namespace ErrsMet

theorem refl (s : State) : ErrsMet s s := ⟨⟨_, _, _, _, rfl⟩, fun _ _ => rfl⟩

theorem trans {s t u : State} (h : ErrsMet s t) (h' : ErrsMet t u) : ErrsMet s u := by
  obtain ⟨o, n, m, k, rfl⟩ := h.rest
  obtain ⟨o', n', m', k', rfl⟩ := h'.rest
  exact ⟨⟨o', n', m', k', rfl⟩, fun k hk => (h'.objs k hk).trans (h.objs k hk)⟩

variable {s t : State}

theorem grid (h : ErrsMet s t) : t.grid = s.grid := by obtain ⟨o, n, m, k, rfl⟩ := h.rest; rfl
theorem mesh (h : ErrsMet s t) : t.mesh = s.mesh := by obtain ⟨o, n, m, k, rfl⟩ := h.rest; rfl
theorem stp (h : ErrsMet s t) : t.stp = s.stp := by obtain ⟨o, n, m, k, rfl⟩ := h.rest; rfl
theorem update (h : ErrsMet s t) : t.update = s.update := by obtain ⟨o, n, m, k, rfl⟩ := h.rest; rfl
theorem pulls (h : ErrsMet s t) : t.pulls = s.pulls := by obtain ⟨o, n, m, k, rfl⟩ := h.rest; rfl
theorem placement (h : ErrsMet s t) : t.placement = s.placement := by obtain ⟨o, n, m, k, rfl⟩ := h.rest; rfl

end ErrsMet

theorem setN_errsMet (s : State) (key v : Nat) (hk : key ∈ sramKeys) : ErrsMet s (setN s key v) := by
  obtain ⟨o, n, m, h⟩ := setN_eq s key v
  exact ⟨⟨o, n, m, s.cores, h⟩, fun k hn => getN_setN_other s key v k fun e => hn (e ▸ hk)⟩

theorem setCore_errsMet (s : State) (id : CoreId) (c : Core) : ErrsMet s (setCore s id c) := ⟨⟨_, _, _, _, rfl⟩, fun _ _ => rfl⟩

theorem mapCores_errsMet (s : State) (f : CoreId → Core → Core) : ErrsMet s (mapCores s f) := ⟨⟨_, _, _, _, rfl⟩, fun _ _ => rfl⟩

theorem raiseNow_errsMet (s : State) (b : Nat) (hb : b ≤ 1) : ErrsMet s (raiseNow s Key.coreFlags b) := by
  refine (setN_errsMet s _ _ (by decide)).trans (setN_errsMet _ _ _ ?_)
  interval_cases b <;> decide

theorem sramError_errsMet (p : State × Core) (e : SramErr) : ErrsMet p.1 (sramError p e).1 := by
  obtain ⟨s, c⟩ := p
  simp only [sramError]
  split
  · exact ErrsMet.refl s
  split
  · exact (raiseNow_errsMet s 0 (by decide)).trans (setN_errsMet _ _ _ (by decide))
  refine (raiseNow_errsMet s 1 (by decide)).trans ?_
  show ErrsMet _ (if _ then _ else _)
  split
  · exact ErrsMet.refl _
  · exact setN_errsMet _ _ _ (by decide)

theorem foldl_sramError_errsMet (errs : List SramErr) (p : State × Core) : ErrsMet p.1 (errs.foldl sramError p).1 :=
  List.foldlRecOn (motive := fun q : State × Core => ErrsMet p.1 q.1) errs sramError (ErrsMet.refl p.1) fun q h e _ => h.trans (sramError_errsMet q e)

theorem readErrs_errsMet (a n : Nat) (errs : List SramErr) (p : State × Core) : ErrsMet p.1 (readErrs a n errs p).1 :=
  foldl_sramError_errsMet _ p

theorem syncErrs_errsMet (errs : List SramErr) (p : State × Core) : ErrsMet p.1 (syncErrs errs p).1 := by
  unfold syncErrs
  split
  · split
    · exact readErrs_errsMet _ _ _ p
    · exact ErrsMet.refl _
  · exact ErrsMet.refl _

theorem contextErrs_errsMet (s : State) (id : CoreId) (errs : List SramErr) : ErrsMet s (contextErrs s id errs) := by
  simp only [contextErrs]
  split
  · exact ((readErrs_errsMet _ _ _ (s, getCore s id)).trans (syncErrs_errsMet _ _)).trans (setCore_errsMet _ _ _)
  · exact ErrsMet.refl s

theorem foldl_contextErrs_errsMet (errs : List (CoreId × List SramErr)) (s : State) :
    ErrsMet s (errs.foldl (fun s e => contextErrs s e.1 e.2) s) :=
  List.foldlRecOn (motive := ErrsMet s) errs _ (ErrsMet.refl s) fun t h e _ => h.trans (contextErrs_errsMet t e.1 e.2)

/-- The errors are marked in the core that reads; the cores of the state stay. -/
theorem sramError_cores (p : State × Core) (e : SramErr) : (sramError p e).1.cores = p.1.cores := by
  obtain ⟨s, c⟩ := p
  simp only [sramError]
  split
  · rfl
  split
  · simp
  show (if _ then _ else _ : State).cores = _
  split <;> simp

theorem readErrs_cores (a n : Nat) (errs : List SramErr) (p : State × Core) : (readErrs a n errs p).1.cores = p.1.cores :=
  List.foldlRecOn (motive := fun q : State × Core => q.1.cores = p.1.cores) _ sramError rfl fun q h e _ => (sramError_cores q e).trans h

theorem syncErrs_cores (errs : List SramErr) (p : State × Core) : (syncErrs errs p).1.cores = p.1.cores := by
  unfold syncErrs
  split
  · split
    · exact readErrs_cores _ _ _ p
    · rfl
  · rfl

/-- A core that is not suspended reads no context back. -/
theorem getCore_contextErrs (s : State) (j : CoreId) (errs : List SramErr) (id : CoreId) (h : (getCore s id).st ≠ .suspended) :
    getCore (contextErrs s j errs) id = getCore s id := by
  simp only [contextErrs]
  split
  · next hj =>
    have hk : coreKey id ≠ coreKey j := fun e => h (by rw [← hj]; simp only [getCore, e])
    rw [getCore_setCore_other _ _ _ _ hk]
    exact getCore_eq _ _ _ ((syncErrs_cores _ _).trans (readErrs_cores _ _ _ _))
  · rfl

theorem getCore_foldl_contextErrs (errs : List (CoreId × List SramErr)) (s : State) (id : CoreId) (h : (getCore s id).st ≠ .suspended) :
    getCore (errs.foldl (fun s e => contextErrs s e.1 e.2) s) id = getCore s id :=
  List.foldlRecOn (motive := fun t => getCore t id = getCore s id) errs _ rfl fun t ht e _ =>
    (getCore_contextErrs t e.1 e.2 id (ht ▸ h)).trans ht

/-! ### Every core changed -/

theorem amGet_map {α : Type} (d : α) (f : Nat → α → α) (m : List (Nat × α)) (k : Nat) :
    amGet d (m.map (fun e => (e.1, f e.1 e.2))) k = if amHas m k then f k (amGet d m k) else d := by
  induction m with
  | nil => rfl
  | cons e m ih =>
    by_cases h : k = e.1
    · simp [amGet, amHas, h]
    · simp [amGet, amHas, h, ih]

/-- A core that is listed is changed; one that is not reads as a core after reset. -/
theorem getCore_mapCores (s : State) (f : CoreId → Core → Core) (id : CoreId) :
    getCore (mapCores s f) id = if amHas s.cores (coreKey id) then f (keyCore (coreKey id)) (getCore s id) else Core.default :=
  amGet_map Core.default (fun k => f (keyCore k)) s.cores (coreKey id)

/-! ### Programs suspended and resumed (R42, R92) -/


/-- Whether a resume leaves the programs suspended: they were, and the engine holds them or is not in RUN (R95, R485). -/
def staysSuspended (s : State) : Bool := s.stp.suspended && (s.stp.hold || !inRun s)

/-- The cores that go on read their contexts back, with the errors that this meets. -/
def contextsRead (s : State) : State := s.stp.met.foldl (fun s e => contextErrs s e.1 e.2) s

/-- Every core resumed or started. -/
def coresResumed (s : State) : State := mapCores (contextsRead s) fun _ c => startCore (resumeCore (contextsRead s) c)

theorem coresResumed_errsMet (s : State) : ErrsMet s (coresResumed s) :=
  (foldl_contextErrs_errsMet s.stp.met s).trans (mapCores_errsMet _ _)

theorem resumeAll_of_held (s : State) (h : (s.stp.hold || !inRun s) = true) : resumeAll s = s := by
  unfold resumeAll
  rw [if_pos h]

theorem resumeAll_of_free (s : State) (h : ¬(s.stp.hold || !inRun s) = true) :
    resumeAll s = { coresResumed s with stp := { s.stp with suspended := false } } := by
  have hs : (contextsRead s).stp = s.stp := (foldl_contextErrs_errsMet s.stp.met s).stp
  unfold resumeAll
  rw [if_neg h]
  show ({ coresResumed s with stp := { (contextsRead s).stp with suspended := false } } : State) = _
  rw [hs]

theorem resumeAll_eq (s : State) : ∃ t, ErrsMet s t ∧ resumeAll s = { t with stp := { s.stp with suspended := staysSuspended s } } := by
  by_cases h : (s.stp.hold || !inRun s) = true
  · exact ⟨s, ErrsMet.refl s, by rw [resumeAll_of_held s h, staysSuspended, h, Bool.and_true]⟩
  · refine ⟨_, coresResumed_errsMet s, ?_⟩
    rw [resumeAll_of_free s h, staysSuspended, (Bool.not_eq_true _).mp h, Bool.and_false]

/-- A core that stands HALTED or PARKED is not FAULTED after a resume. -/
theorem resumeAll_notFaulted (s : State) (id : CoreId) (h : (getCore s id).st = .halted ∨ (getCore s id).st = .parked) :
    (getCore (resumeAll s) id).st ≠ .faulted := by
  by_cases hh : (s.stp.hold || !inRun s) = true
  · rw [resumeAll_of_held s hh]
    rcases h with h | h <;> simp [h]
  have hc : getCore (contextsRead s) id = getCore s id := getCore_foldl_contextErrs s.stp.met s id (by rcases h with h | h <;> simp [h])
  rw [resumeAll_of_free s hh]
  show (getCore (coresResumed s) id).st ≠ .faulted
  rw [coresResumed, getCore_mapCores, hc]
  split
  · rcases h with h | h
    · simp only [resumeCore, startCore, h]
      split <;> simp [h]
    · simp [resumeCore, startCore, h]
  · simp [Core.default]

/-! ### Micro-batches abandoned and replayed (R43, R45) -/

/-- Numbers put into a rising list one after the other. -/
theorem mem_foldl_nsIns (xs : List Nat) : ∀ (a : List Nat) (q : Nat), q ∈ xs.foldl (fun a q => nsIns q a) a ↔ q ∈ xs ∨ q ∈ a := by
  induction xs with
  | nil => simp
  | cons x xs ih =>
    intro a q
    rw [List.foldl_cons, ih, mem_nsIns, List.mem_cons]
    tauto

theorem abandon_grid (s : State) (seqs : List Nat) :
    (abandon s seqs).grid = { s.grid with abandoned := seqs.foldl (fun a q => nsIns q a) s.grid.abandoned } := by
  unfold abandon
  split
  · next h => rw [h]; rfl
  · rfl

@[simp] theorem abandon_stp (s : State) (seqs : List Nat) : (abandon s seqs).stp = s.stp := by unfold abandon; split <;> rfl
@[simp] theorem abandon_mesh (s : State) (seqs : List Nat) : (abandon s seqs).mesh = s.mesh := by unfold abandon; split <;> rfl
@[simp] theorem getN_abandon (s : State) (seqs : List Nat) (k : Nat) : getN (abandon s seqs) k = getN s k := by unfold abandon; split <;> rfl

/-- A work record after a replay: that of an abandoned micro-batch begins anew. -/
def replayedWork (ab : List Nat) (w : Work) : Work :=
  if ab.contains w.seq then { w with forwardEnded := false, backwardBegun := false, backwardEnded := false, abandoned := true } else w

/-- What a replay leaves. -/
structure Replayed (s t : State) : Prop where
  grid : t.grid = { s.grid with detouring := false, abandoned := [] }
  pending : t.stp.replayPending = s.grid.abandoned.foldl (fun a q => nsIns q a) s.stp.replayPending
  suspended : t.stp.suspended = staysSuspended s
  causes : t.stp.causes = s.stp.causes
  work : t.stp.work = s.stp.work.map (replayedWork s.grid.abandoned)
  flag : s.grid.abandoned ≠ [] → bit (stGet t.raised Key.recoveryFlags) 2 = true
  cores : t.cores = (resumeAll s).cores

theorem replayNow_waits (s : State) (h : s.grid.deaths ≠ [] ∨ s.grid.underWay ≠ []) : replayNow s = s := by
  unfold replayNow
  rw [if_pos h]

/-- The micro-batches that are to be replayed, those that still wait from an earlier replay among them. -/
def toReplay (s : State) : List Nat := s.grid.abandoned.foldl (fun a q => nsIns q a) s.stp.replayPending

/-- The cursors set back to the first micro-batch replayed, with its flag (R260); nothing where none is abandoned. -/
def replayFlagged (s : State) (ab waiting : List Nat) : State :=
  match ab, waiting with
  | _ :: _, m :: _ => raise (resetCursors s m) Key.recoveryFlags 2
  | _, _ => s

section ReplayFlagged
variable (s : State) (ab waiting : List Nat)

@[simp] theorem replayFlagged_grid : (replayFlagged s ab waiting).grid = s.grid := by unfold replayFlagged; split <;> rfl
@[simp] theorem replayFlagged_stp : (replayFlagged s ab waiting).stp = s.stp := by unfold replayFlagged; split <;> rfl
@[simp] theorem replayFlagged_cores : (replayFlagged s ab waiting).cores = s.cores := by unfold replayFlagged; split <;> rfl

theorem replayFlagged_flag (ha : ab ≠ []) (hw : waiting ≠ []) : bit (stGet (replayFlagged s ab waiting).raised Key.recoveryFlags) 2 = true := by
  obtain ⟨q, qs, rfl⟩ := List.exists_cons_of_ne_nil ha
  obtain ⟨m, ms, rfl⟩ := List.exists_cons_of_ne_nil hw
  exact bit_raised_raise _ _ _

end ReplayFlagged

theorem toReplay_ne_nil (s : State) (h : s.grid.abandoned ≠ []) : toReplay s ≠ [] := by
  obtain ⟨q, hq⟩ := List.exists_mem_of_ne_nil _ h
  exact List.ne_nil_of_mem ((mem_foldl_nsIns _ _ _).mpr (.inl hq))

/-- A replay of what is abandoned, as the engine is after the resume and the flag. -/
def replayEnds (s t : State) : State :=
  { t with
    grid := { t.grid with detouring := false, abandoned := [] }
    gates := { t.gates with backwardEnded := t.gates.backwardEnded.filter (fun e => !s.grid.abandoned.contains e.1) }
    stp := { t.stp with replayPending := toReplay s, work := t.stp.work.map (replayedWork s.grid.abandoned) } }

theorem replayNow_goes (s : State) (hd : s.grid.deaths = []) (hu : s.grid.underWay = []) :
    replayNow s = replayEnds s (replayFlagged (forgetWork (resumeAll s) s.grid.abandoned) s.grid.abandoned (toReplay s)) := by
  unfold replayNow
  rw [if_neg (by simp [hd, hu])]
  rfl

theorem replayNow_replayed (s : State) (hd : s.grid.deaths = []) (hu : s.grid.underWay = []) : Replayed s (replayNow s) := by
  obtain ⟨t, ht, hr⟩ := resumeAll_eq s
  have hg : (resumeAll s).grid = s.grid := hr ▸ ht.grid
  have hstp : (resumeAll s).stp = { s.stp with suspended := staysSuspended s } := by rw [hr]
  rw [replayNow_goes s hd hu]
  constructor <;> simp only [replayEnds, replayFlagged_grid, replayFlagged_stp, replayFlagged_cores, forgetWork, hg, hstp]
  case pending => rfl
  case flag => exact fun h => replayFlagged_flag _ _ _ h (toReplay_ne_nil s h)

end Sys2Proof.Machine


/-! SUPPORT and PROOFS. The wafer grid while it runs (02_wafer_grid.md R41 to R45, R74, R95, R99): a core's death, the loss of its field, the
detour of its row, the replay, and the report of a faulted core. -/

namespace Sys2Proof.Machine

/-! ### Flits that pass on into their lanes (R66, R72) -/

/-- The objects that a flit taken in can change: HEADER_LOST with its counter, and its capture (R72). -/
def meshKeys : List Nat := [Key.meshFlags, Key.meshFlags + 1 + 2, Key.headerLostCapture, Key.headerLostRouter, Key.captureEmpty]

/-- A state after changes of the mesh and of the objects of lost headers. -/
structure MeshMoves (s t : State) : Prop where
  rest : ∃ o n m x, t = { s with objs := o, change := n, changes := m, mesh := x }
  objs : ∀ k, k ∉ meshKeys → getN t k = getN s k

namespace MeshMoves

theorem refl (s : State) : MeshMoves s s := ⟨⟨_, _, _, _, rfl⟩, fun _ _ => rfl⟩

theorem trans {s t u : State} (h : MeshMoves s t) (h' : MeshMoves t u) : MeshMoves s u := by
  obtain ⟨o, n, m, x, rfl⟩ := h.rest
  obtain ⟨o', n', m', x', rfl⟩ := h'.rest
  exact ⟨⟨o', n', m', x', rfl⟩, fun k hk => (h'.objs k hk).trans (h.objs k hk)⟩

variable {s t : State}

theorem grid (h : MeshMoves s t) : t.grid = s.grid := by obtain ⟨o, n, m, x, rfl⟩ := h.rest; rfl
theorem cores (h : MeshMoves s t) : t.cores = s.cores := by obtain ⟨o, n, m, x, rfl⟩ := h.rest; rfl
theorem stp (h : MeshMoves s t) : t.stp = s.stp := by obtain ⟨o, n, m, x, rfl⟩ := h.rest; rfl

end MeshMoves

theorem setN_meshMoves (s : State) (key v : Nat) (hk : key ∈ meshKeys) : MeshMoves s (setN s key v) := by
  obtain ⟨o, n, m, h⟩ := setN_eq s key v
  exact ⟨⟨o, n, m, s.mesh, h⟩, fun k hn => getN_setN_other s key v k fun e => hn (e ▸ hk)⟩

/-- A change of the mesh alone. -/
theorem mesh_meshMoves (s : State) (x : Mesh) : MeshMoves s { s with mesh := x } := ⟨⟨_, _, _, _, rfl⟩, fun _ _ => rfl⟩

theorem headerLost_meshMoves (s : State) (c : CoreId) (raw : W64) : MeshMoves s (headerLost s c raw) := by
  have hf : MeshMoves s (raiseNow s Key.meshFlags 2) := (setN_meshMoves s _ _ (by decide)).trans (setN_meshMoves _ _ _ (by decide))
  simp only [headerLost]
  split
  · exact ((hf.trans (setN_meshMoves _ _ _ (by decide))).trans (setN_meshMoves _ _ _ (by decide))).trans (setN_meshMoves _ _ _ (by decide))
  · exact hf

theorem missBroadcast_meshMoves (s : State) (h : W64) (flit : Flit) (fs : List Nat) : MeshMoves s (missBroadcast s h flit fs) := by
  unfold missBroadcast
  simp only
  split
  · exact MeshMoves.refl s
  split
  · exact MeshMoves.refl s
  split <;> exact mesh_meshMoves s _

theorem enterLane_meshMoves (s : State) (c : CoreId) (k : Nat) (m : MFlit) : MeshMoves s (enterLane s c k m) := by
  unfold enterLane
  simp only
  split
  · exact (headerLost_meshMoves s c _).trans (mesh_meshMoves _ _)
  split
  · exact mesh_meshMoves s _
  · refine MeshMoves.trans ?_ (mesh_meshMoves _ _)
    split
    · exact missBroadcast_meshMoves s _ _ _
    · exact MeshMoves.refl s

theorem drainFifo_meshMoves (n : Nat) : ∀ (s : State) (c : CoreId) (port vc : Nat), MeshMoves s (drainFifo s c port vc n) := by
  induction n with
  | zero => exact fun s _ _ _ => MeshMoves.refl s
  | succ n ih =>
    intro s c port vc
    unfold drainFifo
    simp only
    split
    · exact MeshMoves.refl s
    split
    · exact MeshMoves.refl s
    split
    · exact ((mesh_meshMoves s _).trans (enterLane_meshMoves _ c _ _)).trans (ih _ c port vc)
    · exact MeshMoves.refl s

theorem openRows_meshMoves (s : State) : MeshMoves s (openRows s) :=
  List.foldlRecOn (motive := MeshMoves s) s.mesh.fifos _ (mesh_meshMoves s _) fun t h _ _ => h.trans (drainFifo_meshMoves 8 t _ _ _)

/-! ### The loss of a field (R39, R44, R456) -/

/-- The objects that the loss of a field changes: FIELD_LOST with its counter, the event log and the journal. -/
def lossKeys : List Nat := [Key.gridFlags, Key.gridFlags + 1 + 2, Key.eventSeq, Key.journalRecordSeq, Key.journalBytesWritten]

@[simp] theorem beginHandover_cores (s : State) : (beginHandover s).cores = s.cores := by
  unfold beginHandover
  split
  · rfl
  split <;> simp
@[simp] theorem beginHandover_grid (s : State) : (beginHandover s).grid = s.grid := by
  unfold beginHandover
  split
  · rfl
  split <;> simp

theorem getN_beginHandover (s : State) (k : Nat) (hk : k ∉ lossKeys) : getN (beginHandover s) k = getN s k := by
  simp only [lossKeys, List.mem_cons, not_or] at hk
  obtain ⟨-, -, hseq, hrec, hbytes, -⟩ := hk
  unfold beginHandover
  split
  · rfl
  split
  · rfl
  · rw [getN_logEvent_other _ _ _ _ hseq, getN_raise]
    exact getN_journal_other s _ _ k hrec hbytes

/-- The field recorded, flagged and logged as lost. -/
def lossRecorded (s : State) (f cause : Nat) : State :=
  let s := updateMap s (loseField f cause)
  logEvent (raiseNow { s with grid := { s.grid with runFields := stPut s.grid.runFields f (1 + 4 * cause) } } Key.gridFlags 2) 3 [f, cause]

/-- A handover that finds the reshard COPYING ends it. -/
def copyingStops (s : State) : State :=
  if getN s Key.reshardPhase = 2 then { s with mgmt := { s.mgmt with handover := 4 } } else s

@[simp] theorem copyingStops_cores (s : State) : (copyingStops s).cores = s.cores := by unfold copyingStops; split <;> rfl
@[simp] theorem copyingStops_grid (s : State) : (copyingStops s).grid = s.grid := by unfold copyingStops; split <;> rfl
@[simp] theorem getN_copyingStops (s : State) (k : Nat) : getN (copyingStops s) k = getN s k := by unfold copyingStops; split <;> rfl

/-- A loss counted before RUN (R480). -/
def lossCounted (s : State) : State := { s with grid := { s.grid with lostThisStart := s.grid.lostThisStart + 1 } }

@[simp] theorem lossCounted_cores (s : State) : (lossCounted s).cores = s.cores := rfl
@[simp] theorem lossCounted_deaths (s : State) : (lossCounted s).grid.deaths = s.grid.deaths := rfl
@[simp] theorem lossCounted_underWay (s : State) : (lossCounted s).grid.underWay = s.grid.underWay := rfl
@[simp] theorem lossCounted_runFields (s : State) : (lossCounted s).grid.runFields = s.grid.runFields := rfl
@[simp] theorem getN_lossCounted (s : State) (k : Nat) : getN (lossCounted s) k = getN s k := rfl

/-- The loss of a field goes on to the handover in RUN, and is counted before. -/
theorem fieldLoss_eq (s : State) (f cause : Nat) : fieldLoss s f cause =
    if inRun (lossRecorded s f cause) then copyingStops (beginHandover (lossRecorded s f cause)) else lossCounted (lossRecorded s f cause) := by
  unfold fieldLoss
  extract_lets s₁ grid s₂ s₃ s₄ mgmt
  have h : lossRecorded s f cause = s₃ := rfl
  rw [h]
  clear_value s₃
  rfl

section LossRecorded
variable (s : State) (f cause : Nat)

@[simp] theorem lossRecorded_cores : (lossRecorded s f cause).cores = s.cores := by simp [lossRecorded]
@[simp] theorem lossRecorded_deaths : (lossRecorded s f cause).grid.deaths = s.grid.deaths := by simp [lossRecorded]
@[simp] theorem lossRecorded_underWay : (lossRecorded s f cause).grid.underWay = s.grid.underWay := by simp [lossRecorded]
@[simp] theorem lossRecorded_runFields : (lossRecorded s f cause).grid.runFields = stPut s.grid.runFields f (1 + 4 * cause) := by
  simp [lossRecorded]

theorem getN_lossRecorded (k : Nat) (hk : k ∉ lossKeys) : getN (lossRecorded s f cause) k = getN s k := by
  simp only [lossKeys, List.mem_cons, not_or] at hk
  obtain ⟨hflag, hcount, hseq, -⟩ := hk
  rw [lossRecorded, getN_logEvent_other _ _ _ _ hseq, getN_raiseNow_other _ _ _ _ hflag hcount]
  exact getN_updateMap s (loseField f cause) k

end LossRecorded

section FieldLoss
variable (s : State) (f cause : Nat)

@[simp] theorem fieldLoss_cores : (fieldLoss s f cause).cores = s.cores := by rw [fieldLoss_eq]; split <;> simp
@[simp] theorem fieldLoss_deaths : (fieldLoss s f cause).grid.deaths = s.grid.deaths := by rw [fieldLoss_eq]; split <;> simp
@[simp] theorem fieldLoss_underWay : (fieldLoss s f cause).grid.underWay = s.grid.underWay := by rw [fieldLoss_eq]; split <;> simp
@[simp] theorem fieldLoss_runFields : (fieldLoss s f cause).grid.runFields = stPut s.grid.runFields f (1 + 4 * cause) := by
  rw [fieldLoss_eq]; split <;> simp

theorem getN_fieldLoss (k : Nat) (hk : k ∉ lossKeys) : getN (fieldLoss s f cause) k = getN s k := by
  have hr := getN_lossRecorded s f cause k hk
  rw [fieldLoss_eq]
  split
  · rw [getN_copyingStops, getN_beginHandover _ k hk, hr]
  · exact (getN_lossCounted _ k).trans hr

end FieldLoss

/-! ### A core's death (R42, R44, R45, R99) -/

/-- A core declared dead, flagged and logged. -/
def deathDeclared (s : State) (p : PhysId) (id : CoreId) (heartbeat : Bool) : State :=
  logEvent (raiseNow (setCore s id { getCore s id with st := .dead, heartbeatOk := false }) Key.coreFlags 3) 1
    [physWord p, if heartbeat then 0 else 1]

/-- The deaths of a row that wait for their detour or are being detoured. -/
def sameRow (s : State) (p : PhysId) : List PhysId := (s.grid.underWay ++ s.grid.deaths).filter (fun d => physRow d == physRow p)

section CoreDead
variable (s : State) (p : PhysId) (id : CoreId) (heartbeat : Bool)

@[simp] theorem deathDeclared_grid : (deathDeclared s p id heartbeat).grid = s.grid := by simp [deathDeclared]
@[simp] theorem deathDeclared_power : (deathDeclared s p id heartbeat).power = s.power := by simp [deathDeclared]
@[simp] theorem deathDeclared_core :
    getCore (deathDeclared s p id heartbeat) id = { getCore s id with st := .dead, heartbeatOk := false } := by simp [deathDeclared]

theorem deathDeclared_flag : bit (getN (deathDeclared s p id heartbeat) Key.coreFlags) 3 = true := by
  rw [deathDeclared, getN_logEvent_other _ _ _ _ (by decide), getN_raiseNow_same]
  exact bit_or_two_pow _ 3

theorem noDetour_eq (s t : State) (f : Nat) (hg : t.grid.runFields = s.grid.runFields) (hp : t.power = s.power) : noDetour t f = noDetour s f := by
  simp only [noDetour, fieldLostNow, getField, hg, hp]

/-- A death that waits for its detour. -/
def deathWaits (s : State) (p : PhysId) : State := { s with grid := { s.grid with deaths := s.grid.deaths ++ [p] } }

variable {s p id}

/-- CORE_DEAD of a live core by its three outcomes, over the core declared dead. -/
theorem exec_coreDead (hl : logicalOf s p = some id) (hd : (getCore s id).st ≠ .dead) (hp : (getCore s id).st ≠ .parked)
    (hf : inParked s id = false) : exec (.coreDead p heartbeat) s = .next
      (if entryInForce s p % 64 ≠ 63 ∨ sameRow s p ≠ [] then noSpare (deathDeclared s p id heartbeat) (sameRow s p) p
       else if noDetour s (physField p) then deathDeclared s p id heartbeat else deathWaits (deathDeclared s p id heartbeat) p) := by
  have hg := deathDeclared_grid s p id heartbeat
  have he : entryInForce (deathDeclared s p id heartbeat) p = entryInForce s p := by rw [entryInForce, hg]; rfl
  have hs : sameRow (deathDeclared s p id heartbeat) p = sameRow s p := by rw [sameRow, hg]; rfl
  have hn := noDetour_eq s (deathDeclared s p id heartbeat) (physField p) (by rw [hg]) (deathDeclared_power s p id heartbeat)
  show execCoreDead p heartbeat s = _
  unfold execCoreDead
  rw [hl]
  dsimp -zeta only
  extract_lets c s₁ s₂ same grid
  rw [if_neg (by simp [c, hd, hp, hf])]
  have h₂ : deathDeclared s p id heartbeat = s₂ := rfl
  have hsame : same = sameRow s₂ p := rfl
  rw [h₂] at he hs hn ⊢
  rw [hsame, he, hs, hn]
  split_ifs <;> rfl

end CoreDead

/-- The detours that a field without a spare ends: that of the row, and those of the field that still wait. -/
def detoursDropped (s : State) (p : PhysId) : State :=
  { s with grid := { s.grid with
      deaths := s.grid.deaths.filter (fun d => physField d != physField p)
      underWay := s.grid.underWay.filter (fun d => physRow d != physRow p) } }

/-- The deaths of a row and the one that finds no spare recorded in the stored map. -/
def deathsRecorded (s : State) (qs : List PhysId) (p : PhysId) : State :=
  updateMap s (fun m => recordRun p (qs.foldl (fun m q => recordRun q m) m))

theorem noSpare_eq (s : State) (qs : List PhysId) (p : PhysId) :
    noSpare s qs p = fieldLoss (openRows (detoursDropped (deathsRecorded s qs p) p)) (physField p) 1 := rfl

section NoSpare
variable (s : State) (qs : List PhysId) (p : PhysId)

theorem openRows_dropped : MeshMoves (detoursDropped (deathsRecorded s qs p) p) (openRows (detoursDropped (deathsRecorded s qs p) p)) :=
  openRows_meshMoves _

theorem noSpare_cores : (noSpare s qs p).cores = s.cores := by
  rw [noSpare_eq, fieldLoss_cores, (openRows_dropped s qs p).cores]
  exact updateMap_cores s _

theorem noSpare_deaths : (noSpare s qs p).grid.deaths = s.grid.deaths.filter (fun d => physField d != physField p) := by
  rw [noSpare_eq, fieldLoss_deaths, (openRows_dropped s qs p).grid]
  simp [detoursDropped, deathsRecorded]

theorem noSpare_underWay : (noSpare s qs p).grid.underWay = s.grid.underWay.filter (fun d => physRow d != physRow p) := by
  rw [noSpare_eq, fieldLoss_underWay, (openRows_dropped s qs p).grid]
  simp [detoursDropped, deathsRecorded]

theorem noSpare_lost : fieldLostNow (noSpare s qs p) (physField p) = true := by
  have h5 : ∀ m, stGet (stPut m (physField p) 5) (physField p) = 5 := fun m => amGet_put_same _ _ _ _
  rw [fieldLostNow, noSpare_eq, fieldLoss_runFields, h5]
  rfl

theorem getN_noSpare_coreFlags : getN (noSpare s qs p) Key.coreFlags = getN s Key.coreFlags := by
  rw [noSpare_eq, getN_fieldLoss _ _ _ _ (by decide), (openRows_dropped s qs p).objs _ (by decide)]
  exact getN_updateMap s _ _

end NoSpare

/-! ### The detour (R42, R43, R74, R193) -/

/-- One row of a detour: its entry in force, its count and its flags; only objects, cores and the log change beside. -/
structure RowDetoured (s t : State) (d : PhysId) : Prop where
  grid : t.grid = { s.grid with runRows := amPut 63 (d.col % 33 + 128) s.grid.runRows (physRow d) }
  mesh : t.mesh = s.mesh
  stp : t.stp = s.stp
  count : getN t Key.detoursRuntime = satAdd 16 (getN s Key.detoursRuntime) 1
  flags : bit (getN t Key.gridFlags) 0 = true ∧ bit (getN t Key.gridFlags) 1 = true

/-- The entry of a row put in force, flagged, counted and logged. -/
def entryForced (s : State) (d : PhysId) : State :=
  let s := { s with grid := { s.grid with runRows := amPut 63 (d.col % 33 + 2 * 64) s.grid.runRows (physRow d) } }
  logEvent (addN (raiseNow (raiseNow s Key.gridFlags 0) Key.gridFlags 1) Key.detoursRuntime 16 1) 2 [physRow d, d.col % 33]

theorem entryForced_detoured (s : State) (d : PhysId) : RowDetoured s (entryForced s d) d := by
  have hn : ∀ k, k ≠ Key.eventSeq → k ≠ Key.detoursRuntime → getN (entryForced s d) k =
      getN (raiseNow (raiseNow { s with grid := { s.grid with runRows := amPut 63 (d.col % 33 + 2 * 64) s.grid.runRows (physRow d) } }
        Key.gridFlags 0) Key.gridFlags 1) k := fun k h h' => by
    rw [entryForced, getN_logEvent_other _ _ _ _ h, getN_addN_other _ _ _ _ _ h']
  refine ⟨by simp [entryForced], by simp [entryForced], by simp [entryForced], ?_, ?_⟩
  · rw [entryForced, getN_logEvent_other _ _ _ _ (by decide), getN_addN_same, getN_raiseNow_other _ _ _ _ (by decide) (by decide),
      getN_raiseNow_other _ _ _ _ (by decide) (by decide)]
    rfl
  · rw [hn _ (by decide) (by decide), getN_raiseNow_same, getN_raiseNow_same]
    exact ⟨bit_or_of_bit _ _ 0 (bit_or_two_pow _ 0), bit_or_two_pow _ 1⟩

/-- A change of cores alone, after a row is detoured. -/
theorem RowDetoured.thenCores {s t u : State} {d : PhysId} (h : RowDetoured s t d) (hu : ∃ k, u = { t with cores := k }) : RowDetoured s u d := by
  obtain ⟨k, rfl⟩ := hu
  exact ⟨h.grid, h.mesh, h.stp, h.count, h.flags⟩

theorem foldl_setCore_eq {α : Type} (xs : List α) (f : State → α → State) (hf : ∀ s x, ∃ k, f s x = { s with cores := k }) :
    ∀ s, ∃ k, xs.foldl f s = { s with cores := k } :=
  fun s => List.foldlRecOn (motive := fun t => ∃ k, t = { s with cores := k }) xs f ⟨s.cores, rfl⟩ fun t ⟨k, h⟩ x _ => by
    obtain ⟨k', h'⟩ := hf t x
    exact ⟨k', by rw [h', h]⟩

theorem detourRow_detoured (s : State) (d : PhysId) : RowDetoured s (detourRow s d) d := by
  have h := entryForced_detoured s d
  unfold detourRow
  extract_lets dead grid s₁ s₂ s₃ s₄
  have h₄ : entryForced s d = s₄ := rfl
  rw [h₄] at h
  clear_value s₄ dead
  cases dead with
  | none => exact h
  | some id =>
    dsimp -zeta only
    extract_lets s₅
    obtain ⟨k, hk⟩ : ∃ k, s₅ = { s₄ with cores := k } := foldl_setCore_eq _ _ (fun _ _ => ⟨_, rfl⟩) _
    exact h.thenCores ⟨_, by rw [reloadCore, setCore, hk]⟩

/-- Row entries put in force one after the other. -/
def rowsForced (ds : List PhysId) (rows : Store) : Store := ds.foldl (fun r d => amPut 63 (d.col % 33 + 128) r (physRow d)) rows

/-- The row of a core has the entry of that core, where no other core of the row is detoured. -/
theorem amGet_rowsForced (p : PhysId) (ds : List PhysId) : ∀ rows, p ∈ ds ∨ amGet 63 rows (physRow p) = p.col % 33 + 128 →
    (∀ d ∈ ds, physRow d = physRow p → d = p) → amGet 63 (rowsForced ds rows) (physRow p) = p.col % 33 + 128 := by
  induction ds with
  | nil => exact fun rows h _ => h.resolve_left (List.not_mem_nil)
  | cons d ds ih =>
    intro rows h hsame
    refine ih _ ?_ fun e he => hsame e (List.mem_cons_of_mem _ he)
    by_cases hd : physRow d = physRow p
    · obtain rfl := hsame d List.mem_cons_self hd
      exact .inr (amGet_put_same _ _ _ _)
    · rw [amGet_put_other _ _ _ _ _ (Ne.symm hd)]
      exact h.imp_left fun hm => (List.mem_cons.mp hm).resolve_left fun e => hd (e ▸ rfl)

/-- Several rows detoured: their entries in force, their count and their flags. -/
structure RowsDetoured (s t : State) (ds : List PhysId) : Prop where
  grid : t.grid = { s.grid with runRows := rowsForced ds s.grid.runRows }
  mesh : t.mesh = s.mesh
  stp : t.stp = s.stp
  count : getN t Key.detoursRuntime = ds.foldl (fun n _ => satAdd 16 n 1) (getN s Key.detoursRuntime)
  flags : ds ≠ [] → bit (getN t Key.gridFlags) 0 = true ∧ bit (getN t Key.gridFlags) 1 = true

theorem foldl_detourRow (ds : List PhysId) : ∀ s, RowsDetoured s (ds.foldl detourRow s) ds := by
  induction ds with
  | nil => exact fun s => ⟨rfl, rfl, rfl, rfl, fun h => absurd rfl h⟩
  | cons d ds ih =>
    intro s
    have h := detourRow_detoured s d
    have h' := ih (detourRow s d)
    refine ⟨by rw [List.foldl_cons, h'.grid, h.grid]; rfl, h'.mesh.trans h.mesh, h'.stp.trans h.stp, ?_, fun _ => ?_⟩
    · rw [List.foldl_cons, h'.count, h.count]
      rfl
    · by_cases hd : ds = []
      · subst hd
        exact h.flags
      · exact h'.flags hd

/-- The rows about the detours closed to new heads. -/
def rowsClosed (s : State) : State := { s with mesh := { s.mesh with closed := closedRows s.grid.underWay } }

/-- No detour under way any more. -/
def detoursDone (s : State) : State := { s with grid := { s.grid with underWay := [] } }

/-- Steps 3 to 6 wait for a barrier message. -/
theorem detourGo_of_barrier (s : State) (h : barrierInFlight s = true) : detourGo s = s := by
  unfold detourGo
  rw [if_pos (.inr h)]

/-- Steps 3 to 6 where nothing of the mesh stands against them. -/
theorem detourGo_of_clear (s : State) (hu : s.grid.underWay ≠ []) (hb : barrierInFlight s = false) (hl : s.mesh.lanes = []) :
    detourGo s = openRows (detoursDone (s.grid.underWay.foldl detourRow (rowsClosed s))) := by
  have hc : closedHold (rowsClosed s) = false := by simp [closedHold, rowsClosed, hl]
  unfold detourGo
  rw [if_neg (by simp [hu, hb])]
  extract_lets mesh s₁ s₂
  have h₁ : s₁ = rowsClosed s := rfl
  rw [h₁, hc]
  rfl

/-- A detour that has taken its rows on. -/
structure Detoured (s t : State) : Prop where
  grid : t.grid = { s.grid with runRows := rowsForced s.grid.underWay s.grid.runRows, underWay := [] }
  count : getN t Key.detoursRuntime = s.grid.underWay.foldl (fun n _ => satAdd 16 n 1) (getN s Key.detoursRuntime)
  flags : bit (getN t Key.gridFlags) 0 = true ∧ bit (getN t Key.gridFlags) 1 = true

theorem barrierInFlight_of_empty (s : State) (h : meshFlits s = []) : barrierInFlight s = false := by simp [barrierInFlight, h]

theorem detourGo_detoured (s : State) (hu : s.grid.underWay ≠ []) (hm : meshFlits s = []) (hl : s.mesh.lanes = []) :
    Detoured s (detourGo s) := by
  have h := foldl_detourRow s.grid.underWay (rowsClosed s)
  have ho := openRows_meshMoves (detoursDone (s.grid.underWay.foldl detourRow (rowsClosed s)))
  rw [detourGo_of_clear s hu (barrierInFlight_of_empty s hm) hl]
  refine ⟨by rw [ho.grid, detoursDone, h.grid]; rfl, (ho.objs _ (by decide)).trans h.count, ?_⟩
  rw [ho.objs _ (by decide)]
  exact h.flags hu

/-- Whatever steps 3 to 6 do, they leave the deaths that wait, and the step. -/
theorem detourGo_keeps (s : State) : (∃ r u, (detourGo s).grid = { s.grid with runRows := r, underWay := u }) ∧ (detourGo s).stp = s.stp := by
  unfold detourGo
  split
  · exact ⟨⟨_, _, rfl⟩, rfl⟩
  extract_lets mesh s₁ s₂
  split
  · exact ⟨⟨_, _, rfl⟩, rfl⟩
  · have h := foldl_detourRow s.grid.underWay (rowsClosed s)
    have ho := openRows_meshMoves (detoursDone (s.grid.underWay.foldl detourRow (rowsClosed s)))
    exact ⟨⟨_, _, ho.grid.trans (by rw [detoursDone, h.grid]; rfl)⟩, ho.stp.trans h.stp⟩

/-! A detour taken on, with the errors that its copies and the contexts read back meet. -/

theorem copyErrs_errsMet (s : State) (e : CoreId × List SramErr) : ErrsMet s (copyErrs s e) := by
  unfold copyErrs
  split
  · exact (foldl_sramError_errsMet e.2 (s, getCore s e.1)).trans (setCore_errsMet _ _ _)
  · exact ErrsMet.refl s

/-- The engine after the copies of step 3 have met their errors, where the detour goes on now. -/
def copiesMade (errs : List (CoreId × List SramErr)) (s : State) : State :=
  if s.grid.underWay ≠ [] ∧ (detourGo s).grid.underWay = [] then errs.foldl copyErrs s else s

theorem copiesMade_errsMet (errs : List (CoreId × List SramErr)) (s : State) : ErrsMet s (copiesMade errs s) := by
  unfold copiesMade
  split
  · exact List.foldlRecOn (motive := ErrsMet s) errs _ (ErrsMet.refl s) fun t h e _ => h.trans (copyErrs_errsMet t e)
  · exact ErrsMet.refl s

section DetourOn
variable (errs : List (CoreId × List SramErr)) (s : State)

/-- A detour taken on is its steps 3 to 6 but for the errors met, and marks the beat. -/
theorem detourOn_eq : ∃ t, ErrsMet (detourGo (copiesMade errs s)) t ∧ detourOn errs s = overrunCause t 3 :=
  ⟨_, foldl_contextErrs_errsMet errs _, rfl⟩

theorem detourOn_grid : (detourOn errs s).grid = (detourGo (copiesMade errs s)).grid := by
  obtain ⟨t, h, e⟩ := detourOn_eq errs s
  rw [e, overrunCause_grid, h.grid]

theorem detourOn_stp : (detourOn errs s).stp = (overrunCause s 3).stp := by
  obtain ⟨t, h, e⟩ := detourOn_eq errs s
  rw [e, overrunCause, overrunCause, h.stp, (detourGo_keeps _).2, (copiesMade_errsMet errs s).stp]

theorem getN_detourOn (k : Nat) (hk : k ∉ sramKeys) : getN (detourOn errs s) k = getN (detourGo (copiesMade errs s)) k := by
  obtain ⟨t, h, e⟩ := detourOn_eq errs s
  rw [e, getN_overrunCause, h.objs k hk]

theorem detourOn_keeps : ∃ r u, (detourOn errs s).grid = { s.grid with runRows := r, underWay := u } := by
  obtain ⟨r, u, h⟩ := (detourGo_keeps (copiesMade errs s)).1
  exact ⟨r, u, by rw [detourOn_grid, h, (copiesMade_errsMet errs s).grid]⟩

theorem meshFlits_eq (s t : State) (h : t.mesh = s.mesh) : meshFlits t = meshFlits s := by simp only [meshFlits, h]
theorem barrierInFlight_eq (s t : State) (h : t.mesh = s.mesh) : barrierInFlight t = barrierInFlight s := by
  simp only [barrierInFlight, meshFlits_eq s t h]

theorem detourOn_detoured (hu : s.grid.underWay ≠ []) (hm : meshFlits s = []) (hl : s.mesh.lanes = []) : Detoured s (detourOn errs s) := by
  have hc := copiesMade_errsMet errs s
  have h := detourGo_detoured (copiesMade errs s) (by rw [hc.grid]; exact hu) ((meshFlits_eq s _ hc.mesh).trans hm) (by rw [hc.mesh]; exact hl)
  refine ⟨by rw [detourOn_grid, h.grid, hc.grid], ?_, ?_⟩
  · rw [getN_detourOn _ _ _ (by decide), h.count, hc.grid, hc.objs _ (by decide)]
  · rw [getN_detourOn _ _ _ (by decide)]
    exact h.flags

theorem detourOn_of_barrier (h : barrierInFlight s = true) : (detourOn errs s).grid = s.grid := by
  have hc := copiesMade_errsMet errs s
  rw [detourOn_grid, detourGo_of_barrier _ ((barrierInFlight_eq s _ hc.mesh).trans h), hc.grid]

end DetourOn

/-! Steps 1 and 2. -/

section DetourBegin
variable (s : State)

@[simp] theorem detourBegin_underWay : (detourBegin s).grid.underWay = detourDeaths s := rfl
@[simp] theorem detourBegin_runRows : (detourBegin s).grid.runRows = s.grid.runRows := by
  simp [detourBegin, abandon_grid, suspendAll]
@[simp] theorem detourBegin_mesh : (detourBegin s).mesh = s.mesh := by simp [detourBegin, suspendAll]
@[simp] theorem detourBegin_suspended : (detourBegin s).stp.suspended = true := by simp [detourBegin, suspendAll]
@[simp] theorem getN_detourBegin (k : Nat) : getN (detourBegin s) k = getN s k := by
  show getN (updateMap _ _) k = _
  rw [getN_updateMap, getN_abandon]
  rfl

end DetourBegin

/-! ### The report of a faulted core (R81, R95) -/

theorem loadCore_halted (s : State) (id : CoreId) (sram : Core) (plan : CorePlan) : (loadCore s id sram plan).st = .halted :=
  List.foldlRecOn (motive := fun c : Core => c.st = .halted) plan.image _ rfl fun _ h _ _ => h

/-- A core reloaded stands HALTED, or PARKED in a parked field (R91). -/
theorem reloadCore_st (s : State) (id : CoreId) (sram : Core) :
    (getCore (reloadCore s id sram) id).st = .halted ∨ (getCore (reloadCore s id sram) id).st = .parked := by
  unfold reloadCore
  extract_lets c
  have hc : c.st = .halted := by
    unfold c
    split
    · rfl
    · exact loadCore_halted s id sram _
  rw [getCore_setCore_same]
  split
  · exact .inr rfl
  · exact .inl hc

/-- The engine while a command's errors wait for the cores that go on (R81). -/
def withMet (errs : List (CoreId × List SramErr)) (s : State) : State := { s with stp := { s.stp with met := errs } }

section Report
variable (s : State) (id : CoreId)

/-- Every program held after a repeated fault. -/
def faultHeld (s : State) : State := { suspendAll s with stp := { (suspendAll s).stp with hold := true } }

/-- A repeated fault holds every program (R95). -/
theorem coreExceptionReport_repeats (hf : (getCore s id).st = .faulted) (hc : (getCore s id).excCause ≠ excArrayCheck)
    (hr : faultRepeats s id (getCore s id) = true) : coreExceptionReport id s =
      overrunCause (logEvent (raiseNow (faultHeld s) Key.coreFlags 4) 0x12 [coreWord id, (getCore s id).excCause, (getCore s id).excPc]) 3 := by
  unfold coreExceptionReport
  extract_lets c
  rw [if_neg (by simp [c, hf, hc]), if_pos hr]
  rfl

/-- The faulted core reloaded in place over its SRAM, its micro-batches abandoned. -/
def faultReloaded (s : State) (id : CoreId) : State :=
  let t := abandon (suspendAll s) (abandonSet s id)
  let u := reloadCore t id (getCore t id)
  overrunCause { u with stp := { u.stp with faultSeen := noteFault s id (getCore s id) (abandonSet s id) } } 3

/-- A first fault has its core reloaded; the replay follows where no detour is under way (R95). -/
theorem coreExceptionReport_first (hf : (getCore s id).st = .faulted) (hc : (getCore s id).excCause ≠ excArrayCheck)
    (hr : faultRepeats s id (getCore s id) = false) : coreExceptionReport id s =
      if (faultReloaded s id).grid.detouring then faultReloaded s id else replayNow (faultReloaded s id) := by
  unfold coreExceptionReport
  extract_lets c
  rw [if_neg (by simp [c, hf, hc]), if_neg (by simp [c, hr])]
  rfl

theorem faultReloaded_core :
    (getCore (faultReloaded s id) id).st = .halted ∨ (getCore (faultReloaded s id) id).st = .parked := reloadCore_st _ id _

theorem faultReloaded_causes : (faultReloaded s id).stp.causes.getLsbD 3 = true := overrunCause_causes _

/-- A replay does not make a core FAULTED that stands HALTED or PARKED, and leaves the beat's causes. -/
theorem replayNow_keeps (h : (getCore s id).st = .halted ∨ (getCore s id).st = .parked) :
    (getCore (replayNow s) id).st ≠ .faulted ∧ (replayNow s).stp.causes = s.stp.causes := by
  by_cases hw : s.grid.deaths ≠ [] ∨ s.grid.underWay ≠ []
  · rw [replayNow_waits s hw]
    exact ⟨by rcases h with h | h <;> simp [h], rfl⟩
  · push Not at hw
    have hr := replayNow_replayed s hw.1 hw.2
    rw [getCore_eq _ _ id hr.cores]
    exact ⟨resumeAll_notFaulted s id h, hr.causes⟩

theorem coreExceptionReport_reloads (hf : (getCore s id).st = .faulted) (hc : (getCore s id).excCause ≠ excArrayCheck)
    (hr : faultRepeats s id (getCore s id) = false) :
    (getCore (coreExceptionReport id s) id).st ≠ .faulted ∧ (coreExceptionReport id s).stp.causes.getLsbD 3 = true := by
  have hcore := faultReloaded_core s id
  rw [coreExceptionReport_first s id hf hc hr]
  split
  · exact ⟨by rcases hcore with h | h <;> simp [h], faultReloaded_causes s id⟩
  · obtain ⟨hst, hcauses⟩ := replayNow_keeps _ id hcore
    exact ⟨hst, by rw [hcauses]; exact faultReloaded_causes s id⟩

/-- What a repeated fault leaves: the programs held and suspended, its flag, and the beat's cause. -/
theorem coreExceptionReport_holds (hf : (getCore s id).st = .faulted) (hc : (getCore s id).excCause ≠ excArrayCheck)
    (hr : faultRepeats s id (getCore s id) = true) :
    (coreExceptionReport id s).stp.hold = true ∧ (coreExceptionReport id s).stp.suspended = true ∧
      bit (getN (coreExceptionReport id s) Key.coreFlags) 4 = true ∧ (coreExceptionReport id s).stp.causes.getLsbD 3 = true := by
  rw [coreExceptionReport_repeats s id hf hc hr]
  refine ⟨by simp [overrunCause, faultHeld], by simp [overrunCause, faultHeld, suspendAll], ?_, overrunCause_causes _⟩
  rw [getN_overrunCause, getN_logEvent_other _ _ _ _ (by decide), getN_raiseNow_same]
  exact bit_or_two_pow _ 4

end Report

/-! ### CORE_DEAD, DETOUR, MICROBATCH_REPLAY and CORE_EXCEPTION_REPORT -/

/-- A core that stands declared dead: its state, its heartbeat and the flag CORE_DEAD (R45, R99). -/
structure DeadDeclared (t : State) (id : CoreId) : Prop where
  st : (getCore t id).st = .dead
  heartbeat : (getCore t id).heartbeatOk = false
  flag : bit (getN t Key.coreFlags) 3 = true

/-- A core's death declared stands where the cores and the core flags stand. -/
theorem DeadDeclared.of_eq {t u : State} {id : CoreId} (h : DeadDeclared t id) (hc : u.cores = t.cores)
    (hf : getN u Key.coreFlags = getN t Key.coreFlags) : DeadDeclared u id := by
  have he := getCore_eq _ _ id hc
  exact ⟨he ▸ h.st, he ▸ h.heartbeat, hf ▸ h.flag⟩

theorem deathDeclared_dead (s : State) (p : PhysId) (id : CoreId) (heartbeat : Bool) : DeadDeclared (deathDeclared s p id heartbeat) id :=
  ⟨by simp, by simp, deathDeclared_flag s p id heartbeat⟩

theorem DeadDeclared.noSpare {s : State} {id : CoreId} (h : DeadDeclared s id) (qs : List PhysId) (p : PhysId) :
    DeadDeclared (noSpare s qs p) id := h.of_eq (noSpare_cores s qs p) (getN_noSpare_coreFlags s qs p)

theorem DeadDeclared.deathWaits {s : State} {id : CoreId} (h : DeadDeclared s id) (p : PhysId) : DeadDeclared (deathWaits s p) id :=
  h.of_eq rfl rfl

theorem exec_detour_begins (s : State) (p : PhysId) (errs : List (CoreId × List SramErr)) (hp : p ∈ detourDeaths s) (hu : s.grid.underWay = []) :
    exec (.detour ⟨p, errs⟩) s = .next (detourOn errs (detourBegin s)) := by
  show execDetour ⟨p, errs⟩ s = _
  unfold execDetour
  rw [if_neg (by simp [hu]), if_pos (by simpa using hp)]

theorem exec_detour_goes_on (s : State) (p : PhysId) (errs : List (CoreId × List SramErr)) (hu : s.grid.underWay ≠ []) :
    exec (.detour ⟨p, errs⟩) s = .next (detourOn errs s) := if_pos hu

theorem exec_microbatchReplay (s : State) (hg : s.grid.detouring = true) (hd : s.grid.deaths = []) (hu : s.grid.underWay = []) :
    exec .microbatchReplay s = .next (overrunCause (replayNow s) 3) := if_pos (by simp [hg, hd, hu])

/-- Settles O28: a death by its outcomes, the detour's two parts over the mesh, the replay, and a fault by whether it repeats. -/
theorem coreDeathDetourReplay : Obligations.CoreDeathDetourReplay := by
  unfold Obligations.CoreDeathDetourReplay
  refine ⟨fun s p id heartbeat hl hd hp hf => ?_, fun s p errs hp hu => ?_, fun s p errs hu hm hl => ?_, fun s hg hd hu => ?_,
    fun s id errs hf hc => ⟨fun hr => ?_, fun hr => ?_⟩⟩
  · intro same
    have hsame : same = sameRow s p := rfl
    clear_value same
    subst hsame
    have hdead := deathDeclared_dead s p id heartbeat
    have hgrid := deathDeclared_grid s p id heartbeat
    refine ⟨_, exec_coreDead heartbeat hl hd hp hf, ?_⟩
    generalize deathDeclared s p id heartbeat = t at hdead hgrid
    by_cases hs : entryInForce s p % 64 ≠ 63 ∨ sameRow s p ≠ []
    · rw [if_pos hs]
      obtain ⟨hst, hbeat, hflag⟩ := hdead.noSpare (sameRow s p) p
      refine ⟨hst, hbeat, hflag, fun he hsame => absurd hs (by simp [he, hsame]), fun _ => ⟨noSpare_lost t _ p, fun d hd => ?_, ?_⟩⟩
      · rw [noSpare_deaths] at hd
        simpa using (List.mem_filter.mp hd).2
      · rw [noSpare_underWay, hgrid]
    · rw [if_neg hs]
      cases hn : noDetour s (physField p) with
      | true => exact ⟨hdead.st, hdead.heartbeat, hdead.flag, fun _ _ h => absurd h (by decide), fun h => absurd h hs⟩
      | false =>
        obtain ⟨hst, hbeat, hflag⟩ := hdead.deathWaits p
        exact ⟨hst, hbeat, hflag, fun _ _ _ => ⟨by simp [deathWaits, hgrid], by simp [deathWaits, hgrid]⟩, fun h => absurd h hs⟩
  · obtain ⟨r, u, hk⟩ := detourOn_keeps errs (detourBegin s)
    have hne : detourDeaths s ≠ [] := List.ne_nil_of_mem hp
    refine ⟨_, exec_detour_begins s p errs hp hu, by rw [hk]; rfl, by rw [hk]; rfl, ?_, ?_, fun hm hl => ?_, fun hb => ?_⟩
    · rw [detourOn_stp]
      exact overrunCause_causes _
    · rw [detourOn_stp]
      exact detourBegin_suspended s
    · obtain ⟨hgrid, hcount, hflag0, hflag1⟩ := detourOn_detoured errs (detourBegin s) hne
        ((meshFlits_eq s _ (detourBegin_mesh s)).trans hm) (by rw [detourBegin_mesh]; exact hl)
      refine ⟨by rw [hgrid], fun hsame => ?_, ?_, hflag0, hflag1⟩
      · rw [hgrid]
        exact amGet_rowsForced p (detourDeaths s) _ (.inl hp) hsame
      · rw [hcount, getN_detourBegin, detourBegin_underWay]
    · rw [detourOn_of_barrier errs _ ((barrierInFlight_eq s _ (detourBegin_mesh s)).trans hb)]
      exact ⟨detourBegin_underWay s, detourBegin_runRows s⟩
  · have h := detourOn_detoured errs s hu hm hl
    exact ⟨_, exec_detour_goes_on s p errs hu, by rw [h.grid], h.count⟩
  · have h := replayNow_replayed s hd hu
    exact ⟨_, exec_microbatchReplay s hg hd hu, by rw [overrunCause_grid, h.grid], by rw [overrunCause_grid, h.grid], h.pending, h.suspended,
      overrunCause_causes _⟩
  · obtain ⟨hst, hcauses⟩ := coreExceptionReport_reloads (withMet errs s) id hf hc hr
    exact ⟨metBy errs (coreExceptionReport id) s, rfl, hst, hcauses⟩
  · obtain ⟨hhold, hsus, hflag, hcauses⟩ := coreExceptionReport_holds (withMet errs s) id hf hc hr
    exact ⟨metBy errs (coreExceptionReport id) s, rfl, hhold, hsus, hflag, hcauses⟩

end Sys2Proof.Machine


/-! SUPPORT and PROOFS. The commands that end a recovery (15_job_mapping.md R386 to R388; 20_recovery.md R492, R504, R505). Messages sent and
taken leave the step's records, the placement, the pulls and the phase of a reshard as they are; this is said once per operation of the
exchange, and SWITCH, RESUME, REPLAY_STEP and PEER_SUBSTITUTE follow. -/

namespace Sys2Proof.Machine

/-! ### What the exchange of messages leaves as it is -/

/-- A state with the step's records, the placement, the pulls and the phase of a reshard of another. -/
structure StepKept (s t : State) : Prop where
  stp : t.stp = s.stp
  placement : t.placement = s.placement
  pulls : t.pulls = s.pulls
  phase : getN t Key.reshardPhase = getN s Key.reshardPhase

theorem StepKept.refl (s : State) : StepKept s s := ⟨rfl, rfl, rfl, rfl⟩

section StepKept
variable {s t : State}

/-- Changes of components that hold none of these. -/
theorem StepKept.of_eq {u : State} (h : StepKept s t) (hs : u.stp = t.stp) (hp : u.placement = t.placement) (hq : u.pulls = t.pulls)
    (hv : u.variant = t.variant) (ho : u.objs = t.objs) : StepKept s u :=
  ⟨hs.trans h.stp, hp.trans h.placement, hq.trans h.pulls, (getN_eq _ _ _ hv ho).trans h.phase⟩

theorem foldl_stepKept {α : Type} (xs : List α) (f : State → α → State) (h : StepKept s t) (hf : ∀ u x, StepKept s u → StepKept s (f u x)) :
    StepKept s (xs.foldl f t) :=
  List.foldlRecOn (motive := StepKept s) xs f h fun u hu x _ => hf u x hu

theorem foldl_fst_stepKept {α β : Type} (xs : List α) (f : State × β → α → State × β) (p : State × β) (h : StepKept s p.1)
    (hf : ∀ q x, StepKept s q.1 → StepKept s (f q x).1) : StepKept s (xs.foldl f p).1 :=
  List.foldlRecOn (motive := fun q : State × β => StepKept s q.1) xs f h fun q hq x _ => hf q x hq

theorem setN_stepKept (key v : Nat) (hk : key ≠ Key.reshardPhase) (h : StepKept s t) : StepKept s (setN t key v) :=
  ⟨by rw [setN_stp, h.stp], by rw [setN_placement, h.placement], by rw [setN_pulls, h.pulls],
    by rw [getN_setN_other _ _ _ _ hk.symm, h.phase]⟩

theorem addN_stepKept (key w n : Nat) (hk : key ≠ Key.reshardPhase) (h : StepKept s t) : StepKept s (addN t key w n) :=
  setN_stepKept key _ hk h

theorem count64_stepKept (key : Nat) (hk : key ≠ Key.reshardPhase) (h : StepKept s t) : StepKept s (count64 t key) :=
  addN_stepKept key 64 1 hk h

theorem setDom_stepKept (key : Nat) (bs : List Byte) (h : StepKept s t) : StepKept s (setDom t key bs) :=
  h.of_eq (by simp) (by simp) (by simp) (by simp) (by simp)

theorem raise_stepKept (key b : Nat) (h : StepKept s t) : StepKept s (raise t key b) := h.of_eq rfl rfl rfl rfl rfl

theorem logEvent_stepKept (code : Nat) (detail : List Nat) (h : StepKept s t) : StepKept s (logEvent t code detail) :=
  ⟨by rw [logEvent_stp, h.stp], by rw [logEvent_placement, h.placement], by rw [logEvent_pulls, h.pulls],
    by rw [getN_logEvent_other _ _ _ _ (by decide), h.phase]⟩

theorem setGroup_stepKept (g : Nat) (v : GroupSt) (h : StepKept s t) : StepKept s (setGroup t g v) := h.of_eq rfl rfl rfl rfl rfl

theorem stkWrite_stepKept (a : Nat) (bs : List Byte) (poison : Bool) (h : StepKept s t) : StepKept s (stkWrite t a bs poison) :=
  h.of_eq rfl rfl rfl rfl rfl

/-! ### The update units' queues (R247, R257) -/

theorem uuState_ne_reshardPhase {u : Nat} (hu : u < 16) : Key.uuState u ≠ Key.reshardPhase := by
  simp only [Key.uuState, Key.reshardPhase]; omega

theorem uuItemsQueued_ne_reshardPhase {u : Nat} (hu : u < 16) : Key.uuItemsQueued u ≠ Key.reshardPhase := by
  simp only [Key.uuItemsQueued, Key.reshardPhase]; omega

theorem refreshUnits_stepKept (h : StepKept s t) : StepKept s (refreshUnits t) :=
  List.foldlRecOn (motive := StepKept s) _ refreshUnit h fun _ hu _ hm =>
    setN_stepKept _ _ (uuItemsQueued_ne_reshardPhase (List.mem_range.mp hm)) (setN_stepKept _ _ (uuState_ne_reshardPhase (List.mem_range.mp hm)) hu)

theorem queueFast_stepKept (d : List Byte) (stamp : Nat) (redo : Bool) (h : StepKept s t) : StepKept s (queueFast t d stamp redo) :=
  refreshUnits_stepKept (h.of_eq rfl rfl rfl rfl rfl)

theorem queuePasses_stepKept (d : List Byte) (stamp : Nat) (done : List Nat) (redo : Bool) (h : StepKept s t) :
    StepKept s (queuePasses t d stamp done redo) :=
  refreshUnits_stepKept (h.of_eq rfl rfl rfl rfl rfl)

theorem tryUpdate_stepKept (g : Nat) (h : StepKept s t) : StepKept s (tryUpdate t g) := by
  unfold tryUpdate
  split
  · exact h
  dsimp only
  split_ifs
  · exact h
  · exact queuePasses_stepKept _ _ _ _ (setGroup_stepKept _ _ h)
  · exact queueFast_stepKept _ _ _ (setGroup_stepKept _ _ h)
  · exact h

/-! ### Messages sent and gathers accepted (R270, R276) -/

theorem sendMsg_stepKept (dest : Nat) (m : XMsg) (h : StepKept s t) : StepKept s (sendMsg t dest m) := h.of_eq rfl rfl rfl rfl rfl

theorem keepMsg_stepKept (m : XMsg) (h : StepKept s t) : StepKept s (keepMsg t m) := by
  unfold keepMsg
  split
  · exact h
  · exact h.of_eq rfl rfl rfl rfl rfl

theorem setAccepted_stepKept (m : XMsg) (h : StepKept s t) : StepKept s (setAccepted t m) := h.of_eq rfl rfl rfl rfl rfl

theorem writeGrad_stepKept (d : List Byte) (m : XMsg) (h : StepKept s t) : StepKept s (writeGrad t d m) :=
  foldl_stepKept _ _ h fun _ _ hu => stkWrite_stepKept _ _ _ hu

theorem writeInbound_stepKept (d : List Byte) (m : XMsg) (h : StepKept s t) : StepKept s (writeInbound t d m) :=
  foldl_stepKept _ _ h fun _ _ hu => stkWrite_stepKept _ _ _ hu

theorem gatherComplete_stepKept (d : List Byte) (h : StepKept s t) : StepKept s (gatherComplete t d) := by
  unfold gatherComplete
  dsimp only
  split
  · exact h
  · exact tryUpdate_stepKept _ (h.of_eq rfl rfl rfl rfl rfl)

theorem acceptGather_stepKept (m : XMsg) (h : StepKept s t) : StepKept s (acceptGather t m) := by
  unfold acceptGather
  split
  · exact h
  · next d _ =>
    extract_lets t₁ skip t₂ g clash t₃
    have h₁ : StepKept s t₁ := by
      dsimp only [t₁]
      split
      · exact h
      · exact setAccepted_stepKept m h
    have h₂ : StepKept s t₂ := by
      dsimp only [t₂]
      split
      · exact raise_stepKept _ _ h₁
      · exact writeGrad_stepKept d m h₁
    have h₃ : StepKept s t₃ := by
      dsimp only [t₃]
      split
      · exact raise_stepKept _ _ h₂
      · exact h₂
    exact gatherComplete_stepKept d (setGroup_stepKept _ _ h₃)

theorem takeOwnGather_stepKept (m : XMsg) (h : StepKept s t) : StepKept s (takeOwnGather t m) := by
  unfold takeOwnGather
  split
  · exact keepMsg_stepKept m h
  · exact acceptGather_stepKept m h

/-! ### The owner's sums (R274, R275) -/

theorem encodeWithResidual_stepKept (method kcode : Nat) (xs : List W32) (resAt : Nat) (h : StepKept s t) :
    StepKept s (encodeWithResidual t method kcode xs resAt).1 := by
  unfold encodeWithResidual
  extract_lets bs ds rs t₁ t₂ t₃
  have h₂ : StepKept s t₂ := count64_stepKept _ (by decide) (stkWrite_stepKept _ _ _ h)
  have h₃ : StepKept s t₃ := by
    dsimp only [t₃]
    split
    · exact count64_stepKept _ (by decide) h₂
    · exact h₂
  exact addN_stepKept _ _ _ (by decide) h₃

theorem encodeOwned_stepKept (d : List Byte) (method kcode b : Nat) (acc : State × List Byte) (h : StepKept s acc.1) :
    StepKept s (encodeOwned d method kcode acc b).1 := encodeWithResidual_stepKept _ _ _ _ h

theorem formGather_stepKept (d : List Byte) (c : Nat × Nat) (h : StepKept s t) : StepKept s (formGather d t c) := by
  unfold formGather
  extract_lets g e counts _ t₁ r
  have h₁ : StepKept s t₁ := h.of_eq rfl rfl rfl rfl rfl
  have hr : StepKept s r.1 := foldl_fst_stepKept _ _ _ h₁ fun q b hq => encodeOwned_stepKept _ _ _ b q hq
  clear_value t₁ r
  split_ifs <;> refine takeOwnGather_stepKept _ (foldl_stepKept _ _ ?_ fun _ _ hu => sendMsg_stepKept _ _ hu)
  · exact h₁
  · exact setGroup_stepKept _ _ hr

theorem tryOwner_stepKept (g : Nat) (h : StepKept s t) : StepKept s (tryOwner t g) := by
  unfold tryOwner
  split
  · exact h
  dsimp only
  split
  · exact h
  · exact foldl_stepKept _ _ h fun _ c hu => formGather_stepKept _ c hu

theorem acceptContrib_stepKept (m : XMsg) (h : StepKept s t) : StepKept s (acceptContrib t m) := by
  unfold acceptContrib
  split
  · exact tryOwner_stepKept _ h
  split
  · exact h
  split
  · exact writeInbound_stepKept _ m (h.of_eq rfl rfl rfl rfl rfl)
  · exact tryOwner_stepKept _ (writeInbound_stepKept _ m (setAccepted_stepKept m h))

/-! ### Fingerprints (R280 to R282) -/

theorem compareGroup_stepKept (step : Nat) (d : List Byte) (h : StepKept s t) : StepKept s (compareGroup step t d) := by
  unfold compareGroup
  extract_lets g n fs agree _ t₁ t₂ t₃ _ t₄
  have h₁ : StepKept s t₁ := setGroup_stepKept _ _ h
  have h₂ : StepKept s t₂ := logEvent_stepKept _ _ (raise_stepKept _ _ h₁)
  have h₃ : StepKept s t₃ := by
    dsimp only [t₃]
    split
    · exact setN_stepKept _ _ (by decide) (setN_stepKept _ _ (by decide) (setN_stepKept _ _ (by decide) h₂))
    · exact h₂
  have h₄ : StepKept s t₄ := h₃.of_eq rfl rfl rfl rfl rfl
  split
  · exact h₁
  split
  · split
    · exact h₄.of_eq rfl rfl rfl rfl rfl
    · exact h₄
  · exact h₄

theorem tryCompare_stepKept (h : StepKept s t) : StepKept s (tryCompare t) := by
  unfold tryCompare
  dsimp only
  split
  · exact h
  · exact foldl_stepKept _ _ (h.of_eq rfl rfl rfl rfl rfl) fun _ d hu => compareGroup_stepKept _ d hu

theorem acceptFingerprint_stepKept (m : XMsg) (h : StepKept s t) : StepKept s (acceptFingerprint t m) :=
  tryCompare_stepKept (h.of_eq rfl rfl rfl rfl rfl)

theorem sendFingerprint_stepKept (step : Nat) (updated : List Nat) (h : StepKept s t) : StepKept s (sendFingerprint t step updated) :=
  acceptFingerprint_stepKept _ (foldl_stepKept _ _ (setDom_stepKept _ _ h) fun _ _ hu => sendMsg_stepKept _ _ hu)

/-! ### Messages taken (R273) -/

theorem takeDuplicate_stepKept (m : XMsg) (h : StepKept s t) : StepKept s (takeDuplicate t m) := by
  have h₁ : StepKept s (count64 t Key.duplicatesDiscarded) := count64_stepKept _ (by decide) h
  unfold takeDuplicate
  dsimp only
  split
  · split
    · exact h₁
    · exact raise_stepKept _ _ h₁
  · exact h₁

theorem acceptMsg_stepKept (m : XMsg) (h : StepKept s t) : StepKept s (acceptMsg t m) := by
  unfold acceptMsg
  split
  · exact acceptContrib_stepKept m h
  · exact acceptGather_stepKept m h
  · exact acceptFingerprint_stepKept m h

theorem receiveMsg_stepKept (m : XMsg) (h : StepKept s t) : StepKept s (receiveMsg t m).1 := by
  unfold receiveMsg
  split
  · exact count64_stepKept _ (by decide) h
  · exact keepMsg_stepKept m h
  · exact takeDuplicate_stepKept m h
  · exact acceptMsg_stepKept m h

theorem retryKept_stepKept (h : StepKept s t) : StepKept s (retryKept t) := by
  refine foldl_stepKept _ _ (h.of_eq rfl rfl rfl rfl rfl) fun u m hu => ?_
  split
  · exact takeOwnGather_stepKept m hu
  · exact receiveMsg_stepKept m hu

end StepKept

/-! ### RESUME (R387) -/

/-- The phase NONE and the step opened, before LAST_RECOVERY_MS and the messages of the resume. -/
def stepOpened (s : State) : State := setN { s with stp := { s.stp with openBeat := beatNow s } } Key.reshardPhase 0

theorem stepOpened_stp (s : State) : (stepOpened s).stp = { s.stp with openBeat := beatNow s } := by simp [stepOpened]
theorem stepOpened_placement (s : State) : (stepOpened s).placement = s.placement := by simp [stepOpened]
theorem stepOpened_phase (s : State) : getN (stepOpened s) Key.reshardPhase = 0 := by rw [stepOpened, getN_setN_same]

theorem recovered_stepKept (s : State) : StepKept s (recovered s) := setN_stepKept _ _ (by decide) ((StepKept.refl s).of_eq rfl rfl rfl rfl rfl)

theorem resumeEffect_stepKept (s : State) : StepKept (stepOpened (setN s Key.resume 1)) (resumeEffect s 1) :=
  retryKept_stepKept (sendFingerprint_stepKept _ _ (recovered_stepKept _))

section Resume
variable {s : State} {w : WReq} (ha : Accepted s Key.resume w)
include ha

theorem exec_resume_refused (h : getN s Key.reshardPhase ≠ 4) : exec (.resume w) s = .next (emit s (.objStatus Key.resume stWrongState)) :=
  congrArg Host.Outcome.next (ownWrite_refused ha (if_neg h) (by decide))

theorem exec_resume_done (h : getN s Key.reshardPhase = 4) (hv : w.val = 1) :
    exec (.resume w) s = .next (emit (resumeEffect s 1) (.objStatus Key.resume stOk)) :=
  hv ▸ congrArg Host.Outcome.next (ownWrite_done ha (if_pos h))

end Resume

/-! ### REPLAY_STEP (R43, R504) -/

/-- The micro-batches of the current step, in rising order. -/
def stepSeqs (s : State) : List Nat := ((s.stp.work.filter (fun w => !w.evaluation)).map (fun w => w.seq)).foldl (fun a q => nsIns q a) []

theorem mem_stepSeqs (s : State) (q : Nat) : q ∈ stepSeqs s ↔ ∃ v ∈ s.stp.work, v.evaluation = false ∧ v.seq = q := by
  simp only [stepSeqs, mem_foldl_nsIns, List.mem_map, List.mem_filter, List.not_mem_nil, or_false, Bool.not_eq_true', and_assoc]

/-- The step's micro-batches abandoned, before their replay. -/
def stepAbandoned (s : State) : State := abandon (suspendAll s) (stepSeqs s)

theorem stepAbandoned_grid (s : State) :
    (stepAbandoned s).grid = { s.grid with abandoned := (stepSeqs s).foldl (fun a q => nsIns q a) s.grid.abandoned } := by
  rw [stepAbandoned, abandon_grid]
  rfl

theorem stepAbandoned_stp (s : State) : (stepAbandoned s).stp = { s.stp with suspended := true } := by
  rw [stepAbandoned, abandon_stp]
  rfl

theorem mem_stepAbandoned (s : State) (q : Nat) : q ∈ (stepAbandoned s).grid.abandoned ↔ q ∈ stepSeqs s ∨ q ∈ s.grid.abandoned := by
  rw [stepAbandoned_grid]
  exact mem_foldl_nsIns _ _ _

theorem replayEffect_eq (s : State) (v : Nat) (hv : v ≠ 0) (hq : stepSeqs s ≠ []) : replayEffect s v = replayNow (stepAbandoned s) := by
  unfold replayEffect
  rw [if_neg hv]
  exact if_neg hq

/-- A record of a replayed micro-batch is that of one abandoned, with no end. -/
theorem replayedWork_ends {ab : List Nat} {v : Work} (h : v.seq ∈ ab) :
    (replayedWork ab v).abandoned = true ∧ (replayedWork ab v).forwardEnded = false ∧ (replayedWork ab v).backwardEnded = false := by
  simp [replayedWork, h]

theorem replayedWork_seq (ab : List Nat) (v : Work) : (replayedWork ab v).seq = v.seq ∧ (replayedWork ab v).evaluation = v.evaluation := by
  unfold replayedWork
  split <;> exact ⟨rfl, rfl⟩

/-- What a replay of the whole step leaves, where no detour is outstanding. -/
theorem replayEffect_replays {s : State} {u : Work} (hu : u ∈ s.stp.work) (he : u.evaluation = false) {v : Nat} (hv : v ≠ 0)
    (hd : s.grid.deaths = []) (hw : s.grid.underWay = []) (ha : s.grid.abandoned = []) :
    (∀ q, q ∈ (replayEffect s v).stp.replayPending ↔ (∃ x ∈ s.stp.work, x.evaluation = false ∧ x.seq = q) ∨ q ∈ s.stp.replayPending) ∧
      (replayEffect s v).grid.abandoned = [] ∧
      (∀ x ∈ (replayEffect s v).stp.work, x.evaluation = false → x.abandoned = true ∧ x.forwardEnded = false ∧ x.backwardEnded = false) ∧
      bit (stGet (replayEffect s v).raised Key.recoveryFlags) 2 = true := by
  have hseq : u.seq ∈ stepSeqs s := (mem_stepSeqs s _).mpr ⟨u, hu, he, rfl⟩
  have hmem : ∀ q, q ∈ (stepAbandoned s).grid.abandoned ↔ q ∈ stepSeqs s := fun q => by simp [mem_stepAbandoned, ha]
  have hr := replayNow_replayed (stepAbandoned s) (by rw [stepAbandoned_grid, hd]) (by rw [stepAbandoned_grid, hw])
  rw [replayEffect_eq s v hv (List.ne_nil_of_mem hseq)]
  refine ⟨fun q => ?_, by rw [hr.grid], fun x hx hx' => ?_, hr.flag (List.ne_nil_of_mem ((hmem _).mpr hseq))⟩
  · rw [hr.pending, mem_foldl_nsIns, hmem, mem_stepSeqs, stepAbandoned_stp]
  · rw [hr.work, stepAbandoned_stp] at hx
    obtain ⟨y, hy, rfl⟩ := List.mem_map.mp hx
    rw [(replayedWork_seq _ y).2] at hx'
    exact replayedWork_ends ((hmem _).mpr ((mem_stepSeqs s _).mpr ⟨y, hy, hx', rfl⟩))

/-- A replay of the whole step waits for the detours that are outstanding. -/
theorem replayEffect_waits {s : State} {u : Work} (hu : u ∈ s.stp.work) (he : u.evaluation = false) {v : Nat} (hv : v ≠ 0)
    (hd : s.grid.deaths ≠ [] ∨ s.grid.underWay ≠ []) :
    u.seq ∈ (replayEffect s v).grid.abandoned ∧ (replayEffect s v).stp.work = s.stp.work ∧ (replayEffect s v).stp.suspended = true := by
  have hseq : u.seq ∈ stepSeqs s := (mem_stepSeqs s _).mpr ⟨u, hu, he, rfl⟩
  rw [replayEffect_eq s v hv (List.ne_nil_of_mem hseq), replayNow_waits _ (by rwa [stepAbandoned_grid]), stepAbandoned_stp]
  exact ⟨(mem_stepAbandoned s _).mpr (.inl hseq), rfl, rfl⟩

theorem exec_replayStep_done {s : State} {w : WReq} (ha : Accepted s Key.replayStep w) (errs : List (CoreId × List SramErr)) :
    exec (.replayStep ⟨w, errs⟩) s = .next (emit (metBy errs (fun s => replayEffect s w.val) s) (.objStatus Key.replayStep stOk)) :=
  congrArg Host.Outcome.next (ownWrite_done ha rfl)

/-! ### PEER_SUBSTITUTE (R492, R505) -/

/-- A message handed to the transport opens a flow to its destination alone. -/
theorem dest_of_mem_ethEnqueue {s : State} {dest : Nat} {encap : Bool} {bs : List Byte} {f : TxFlow} (hf : f ∈ (ethEnqueue s dest encap bs).eth.tx) :
    f.dest = dest ∨ ∃ g ∈ s.eth.tx, g.dest = f.dest := by
  simp only [ethEnqueue] at hf
  split at hf
  · obtain ⟨g, hg, rfl⟩ := List.mem_map.mp hf
    exact .inr ⟨g, hg, by split <;> rfl⟩
  · rcases List.mem_append.mp hf with h | h
    · exact .inr ⟨f, h, rfl⟩
    · exact .inl (by rw [List.mem_singleton.mp h])

theorem dest_of_mem_resendStep {s : State} {dest : Nat} {f : TxFlow} (hf : f ∈ (resendStep s dest).eth.tx) :
    f.dest = dest ∨ ∃ g ∈ s.eth.tx, g.dest = f.dest := by
  refine List.foldlRecOn (motive := fun t : State => ∀ f ∈ t.eth.tx, f.dest = dest ∨ ∃ g ∈ s.eth.tx, g.dest = f.dest) _ _ ?_ ?_ f hf
  · exact fun g hg => .inr ⟨g, (List.mem_filter.mp hg).1, rfl⟩
  · intro t ht e _ g hg
    rcases dest_of_mem_ethEnqueue hg with h | ⟨x, hx, h⟩
    · exact .inl h
    · exact h ▸ ht x hx

theorem resendStep_keeps (s : State) (dest : Nat) : (resendStep s dest).exch = s.exch ∧ (resendStep s dest).doms = s.doms :=
  List.foldlRecOn (motive := fun t : State => t.exch = s.exch ∧ t.doms = s.doms) _ _ ⟨rfl, rfl⟩ fun _ ht _ _ => ht

/-- A kept message with its new destination. -/
def readdressed (a b : Nat) (e : Nat × XMsg) : Nat × XMsg := if e.1 == a then (b, sealMsg b e.2) else e

theorem readdressed_ne {a b : Nat} (hab : a ≠ b) (e : Nat × XMsg) : (readdressed a b e).1 ≠ a := by
  unfold readdressed
  split
  · exact hab.symm
  · next h => simpa using h

/-- One pair of the table: the kept messages readdressed, the flows to the old address dropped. -/
def peerDropped (s : State) (p : Nat × Nat) : State :=
  { s with
    exch := { s.exch with sent := s.exch.sent.map (readdressed p.1 p.2) }
    eth := { s.eth with tx := s.eth.tx.filter (fun f => f.dest != p.1) } }

theorem substituteEffect_eq (s : State) (bs : List Byte) :
    substituteEffect s bs = (substPairs bs).foldl (fun s p => resendStep (peerDropped s p) p.2) (setDom s Key.peerSubstitute bs) := rfl

theorem getDom_substituteEffect (s : State) (bs : List Byte) : getDom (substituteEffect s bs) Key.peerSubstitute = bs := by
  rw [substituteEffect_eq]
  exact List.foldlRecOn (motive := fun t => getDom t Key.peerSubstitute = bs) _ _ (getDom_setDom_same _ _ _) fun t ht p _ =>
    (getDom_eq _ _ _ (resendStep_keeps (peerDropped t p) p.2).2).trans ht

theorem substituteEffect_redirects (s : State) (bs : List Byte) (a b : Nat) (hp : substPairs bs = [(a, b)]) (hab : a ≠ b) :
    (∀ e ∈ (substituteEffect s bs).exch.sent, e.1 ≠ a) ∧ (∀ f ∈ (substituteEffect s bs).eth.tx, f.dest ≠ a) := by
  rw [substituteEffect_eq, hp]
  show (∀ e ∈ (resendStep (peerDropped _ (a, b)) b).exch.sent, _) ∧ ∀ f ∈ (resendStep (peerDropped _ (a, b)) b).eth.tx, _
  generalize setDom s Key.peerSubstitute bs = t
  constructor
  · intro e he
    rw [(resendStep_keeps (peerDropped t (a, b)) b).1] at he
    obtain ⟨y, -, rfl⟩ := List.mem_map.mp he
    exact readdressed_ne hab y
  · intro f hf
    rcases dest_of_mem_resendStep hf with h | ⟨g, hg, h⟩
    · exact h ▸ hab.symm
    · have := (List.mem_filter.mp hg).2
      rw [← h]
      simpa using this

/-- The check answers OK or BAD_VALUE. -/
theorem substituteCheck_bad (s : State) (bs : List Byte) (h : substituteCheck s bs ≠ stOk) : substituteCheck s bs = stBadValue := by
  unfold substituteCheck at h ⊢
  split
  · next hc => exact absurd (if_pos hc) h
  · rfl

section PeerSubstitute
variable {s : State} {w : DReq} (ha : AcceptedDom s Key.peerSubstitute w)
include ha

theorem exec_peerSubstitute_refused (h : substituteCheck s w.bytes ≠ stOk) :
    exec (.peerSubstitute w) s = .next (emit s (.objStatus Key.peerSubstitute stBadValue)) :=
  congrArg Host.Outcome.next (ownWriteDom_refused ha (substituteCheck_bad s w.bytes h) (by decide))

theorem exec_peerSubstitute_done (h : substituteCheck s w.bytes = stOk) :
    exec (.peerSubstitute w) s = .next (emit (substituteEffect s w.bytes) (.objStatus Key.peerSubstitute stOk)) :=
  congrArg Host.Outcome.next (ownWriteDom_done ha h)

end PeerSubstitute

/-! ### A placement put in force (R386, R387, R445): it becomes the one in force, and the pulls stay -/

section Arming
variable (s : State) (se : Nat) (b : List Byte) (done : List Nat)

@[simp] theorem beginTrim_placement (d : Desc) : (beginTrim s se d).placement = s.placement := by unfold beginTrim; split <;> rfl
@[simp] theorem beginTrim_pulls (d : Desc) : (beginTrim s se d).pulls = s.pulls := by unfold beginTrim; split <;> rfl

@[simp] theorem armFrom_placement : (armFrom s se b done).placement = s.placement := by
  simp only [armFrom]
  split
  · simp [refreshSe, setQueue]
  · rfl
@[simp] theorem armFrom_pulls : (armFrom s se b done).pulls = s.pulls := by
  simp only [armFrom]
  split
  · simp [refreshSe, setQueue]
  · rfl

@[simp] theorem armScheduled_placement : (armScheduled s se b done).placement = s.placement := by unfold armScheduled; split <;> simp
@[simp] theorem armScheduled_pulls : (armScheduled s se b done).pulls = s.pulls := by unfold armScheduled; split <;> simp

end Arming

section Install
variable (s : State) (p : Placement)

theorem armPlaced_keeps : (armPlaced s p).placement = s.placement ∧ (armPlaced s p).pulls = s.pulls :=
  List.foldlRecOn (motive := fun t : State => t.placement = s.placement ∧ t.pulls = s.pulls) p.arms _ ⟨rfl, rfl⟩ fun t ht a _ => by
    simpa using ht

theorem loadCores_keeps : (loadCores s p).placement = s.placement ∧ (loadCores s p).pulls = s.pulls :=
  List.foldlRecOn (motive := fun t : State => t.placement = s.placement ∧ t.pulls = s.pulls) p.cores _ ⟨rfl, rfl⟩ fun t ht plan _ => by
    dsimp only
    split <;> exact ht

theorem installObjs_pulls : (installObjs s p).pulls = s.pulls := by
  unfold installObjs
  exact List.foldlRecOn (motive := fun t : State => t.pulls = s.pulls) p.mapSources _ (by simp) fun t ht m _ => by simpa using ht

theorem installMapping_pulls : (installMapping s p).pulls = s.pulls := by simp [installMapping]

theorem preview_pulls : (preview s p).pulls = s.pulls := by
  simp only [preview, installMapping_pulls, installObjs_pulls]

theorem installPlacement_keeps : (installPlacement s p).placement = some p ∧ (installPlacement s p).pulls = s.pulls := by
  obtain ⟨hp, hq⟩ := armPlaced_keeps (clearWork (loadCores (preview s p) p) p) p
  obtain ⟨hp', hq'⟩ := loadCores_keeps (preview s p) p
  constructor <;> simp only [installPlacement, setN_placement, setN_pulls]
  · exact hp.trans hp'
  · exact hq.trans (hq'.trans (preview_pulls s p))

end Install

/-! ### The groups after a switch (R386, R507) -/

/-- A state after changes of the update units and of the free values drawn. -/
def GroupsChange (s t : State) : Prop := ∃ u n, t = { s with update := u, free := n }

theorem GroupsChange.refl (s : State) : GroupsChange s s := ⟨_, _, rfl⟩

theorem GroupsChange.trans {s t u : State} (h : GroupsChange s t) (h' : GroupsChange t u) : GroupsChange s u := by
  obtain ⟨x, n, rfl⟩ := h
  obtain ⟨y, m, rfl⟩ := h'
  exact ⟨y, m, rfl⟩

/-- The t of every moved group as its pull brought it. -/
def movedIn (s : State) (qs : List Pull) : State := qs.foldl (fun s q => setGroup s q.group { getGroup s q.group with t := q.t }) s

theorem movedIn_groupsChange (s : State) (qs : List Pull) : GroupsChange s (movedIn s qs) :=
  List.foldlRecOn (motive := GroupsChange s) qs _ (GroupsChange.refl s) fun _ ht _ _ => ht.trans ⟨_, _, rfl⟩

@[simp] theorem getGroup_setGroup_same (s : State) (g : Nat) (v : GroupSt) : getGroup (setGroup s g v) g = v := amGet_ins_same _ _ _ _

theorem getGroup_setGroup_other (s : State) (g : Nat) (v : GroupSt) {h : Nat} (hg : h ≠ g) : getGroup (setGroup s g v) h = getGroup s h :=
  amGet_ins_other _ _ _ _ _ hg

theorem getGroup_movedIn_single (s : State) (q : Pull) : (getGroup (movedIn s [q]) q.group).t = q.t := by
  show (getGroup (setGroup s q.group _) q.group).t = q.t
  rw [getGroup_setGroup_same]

/-- Windows adopted change only the groups, and no group's t. -/
theorem adoptWindows_keeps (c : Nat) (s : State) (d : List Byte) :
    GroupsChange s (adoptWindows c s d) ∧ ∀ g, (getGroup (adoptWindows c s d) g).t = (getGroup s g).t := by
  unfold adoptWindows
  split
  · exact ⟨GroupsChange.refl s, fun _ => rfl⟩
  · extract_lets g n a b own w
    refine ⟨⟨_, _, rfl⟩, fun k => ?_⟩
    by_cases hk : k = gdGroup d
    · rw [hk, getGroup_setGroup_same]
    · rw [getGroup_setGroup_other _ _ _ hk]
      rfl

/-- The windows of every group adopted. -/
def windowsAdopted (drain : Nat) (s : State) : State := (groupDescs s).foldl (adoptWindows drain) s

theorem windowsAdopted_keeps (drain : Nat) (s : State) :
    GroupsChange s (windowsAdopted drain s) ∧ ∀ g, (getGroup (windowsAdopted drain s) g).t = (getGroup s g).t :=
  List.foldlRecOn (motive := fun t => GroupsChange s t ∧ ∀ g, (getGroup t g).t = (getGroup s g).t) _ (adoptWindows drain)
    ⟨GroupsChange.refl s, fun _ => rfl⟩ fun t ⟨hc, hg⟩ d _ =>
      ⟨hc.trans (adoptWindows_keeps drain t d).1, fun g => ((adoptWindows_keeps drain t d).2 g).trans (hg g)⟩

/-! ### SWITCH (R387) -/

/-- The pulls of the reshard. -/
def reshardPulls (s : State) : List Pull := s.pulls.filter (fun q => q.job == 2)

theorem getN_setSteps_commitStep (s : State) (c : Nat) : getN (setSteps s c) Key.commitStep = c % 2 ^ 64 := getN_setN_same s Key.commitStep _

/-- The target placement in force at a step, the reshard's pulls dropped and the programs suspended. -/
def switchInstalled (s : State) (p : Placement) (drain : Nat) : State := setSteps (installPlacement (dropPulls (suspendAll s) 2) p) drain

section SwitchInstalled
variable (s : State) (p : Placement) (drain : Nat)

theorem switchInstalled_placement : (switchInstalled s p drain).placement = some p := by
  simp only [switchInstalled, setSteps, setN_placement, (installPlacement_keeps _ p).1]

theorem switchInstalled_pulls : (switchInstalled s p drain).pulls = s.pulls.filter (fun q => q.job != 2) := by
  simp only [switchInstalled, setSteps, setN_pulls, (installPlacement_keeps _ p).2]
  rfl

theorem switchInstalled_step : (switchInstalled s p drain).stp.step = (drain + 1) % 2 ^ 64 := rfl

theorem getN_switchInstalled_commitStep : getN (switchInstalled s p drain) Key.commitStep = drain % 2 ^ 64 :=
  getN_setSteps_commitStep _ drain

end SwitchInstalled

/-- What a switch at a step leaves, before the programs go on. -/
def switchedAt (s : State) (p : Placement) (drain : Nat) : State :=
  setN (windowsAdopted drain (movedIn (switchInstalled s p drain) (reshardPulls s))) Key.reshardPhase 4

theorem reshardTarget_setN (s : State) (key v : Nat) : reshardTarget (setN s key v) = reshardTarget s := by
  simp only [reshardTarget, reshardPlan, getDom_setN, setN_images]

theorem switchEffect_eq (s : State) (p : Placement) (h : reshardTarget s = some p) :
    switchEffect s 1 = resumeAll (switchedAt (setN s Key.switch 1) p (getN (setN s Key.switch 1) Key.drainStep)) := by
  unfold switchEffect
  extract_lets s₁
  rw [show reshardTarget s₁ = some p from (reshardTarget_setN s _ _).trans h]
  rfl

/-- What a switch at a step has put in force. -/
structure Switched (s : State) (p : Placement) (drain : Nat) (t : State) : Prop where
  phase : getN t Key.reshardPhase = 4
  commit : getN t Key.commitStep = drain % 2 ^ 64
  step : t.stp.step = (drain + 1) % 2 ^ 64
  placement : t.placement = some p
  pulls : t.pulls = s.pulls.filter (fun q => q.job != 2)
  groups : ∀ q, reshardPulls s = [q] → (getGroup t q.group).t = q.t

theorem switchedAt_switched (s : State) (p : Placement) (drain : Nat) : Switched s p drain (switchedAt s p drain) := by
  obtain ⟨⟨u, n, hw⟩, ht⟩ := windowsAdopted_keeps drain (movedIn (switchInstalled s p drain) (reshardPulls s))
  obtain ⟨u', n', hm⟩ := movedIn_groupsChange (switchInstalled s p drain) (reshardPulls s)
  have hc : GroupsChange (switchInstalled s p drain) (windowsAdopted drain (movedIn (switchInstalled s p drain) (reshardPulls s))) :=
    GroupsChange.trans ⟨u', n', hm⟩ ⟨u, n, hw⟩
  have hcommit := getN_switchInstalled_commitStep s p drain
  have hstep := switchInstalled_step s p drain
  have hplaced := switchInstalled_placement s p drain
  have hpulls := switchInstalled_pulls s p drain
  unfold switchedAt
  generalize windowsAdopted drain _ = t at hc ht
  generalize switchInstalled s p drain = r at *
  obtain ⟨x, k, rfl⟩ := hc
  refine ⟨getN_setN_same _ _ _, ?_, by rw [setN_stp]; exact hstep, by rw [setN_placement]; exact hplaced,
    by rw [setN_pulls]; exact hpulls, fun q hq => ?_⟩
  · rw [getN_setN_other _ _ _ _ (by decide)]
    exact hcommit
  · rw [hq] at ht
    simp only [getGroup, setN_update]
    exact (ht q.group).trans (getGroup_movedIn_single r q)

/-- The programs that go on leave what the switch has put in force. -/
theorem Switched.resumed {s t : State} {p : Placement} {drain : Nat} (h : Switched s p drain t) : Switched s p drain (resumeAll t) := by
  obtain ⟨u, hu, hr⟩ := resumeAll_eq t
  rw [hr]
  refine ⟨(hu.objs _ (by decide)).trans h.phase, (hu.objs _ (by decide)).trans h.commit, h.step, hu.placement.trans h.placement,
    hu.pulls.trans h.pulls, fun q hq => ?_⟩
  simp only [getGroup, hu.update]
  exact h.groups q hq

theorem switchEffect_switched (s : State) (p : Placement) (h : reshardTarget s = some p) :
    Switched s p (getN s Key.drainStep) (switchEffect s 1) := by
  rw [switchEffect_eq s p h, getN_setN_other _ _ _ _ (by decide)]
  obtain ⟨hphase, hcommit, hstep, hplaced, hpulls, hgroups⟩ := (switchedAt_switched (setN s Key.switch 1) p (getN s Key.drainStep)).resumed
  rw [setN_pulls] at hpulls
  rw [reshardPulls, setN_pulls] at hgroups
  exact ⟨hphase, hcommit, hstep, hplaced, hpulls, hgroups⟩

theorem metBy_switched (errs : List (CoreId × List SramErr)) {f : State → State} {s : State} {p : Placement} {drain : Nat}
    (h : Switched (withMet errs s) p drain (f (withMet errs s))) : Switched s p drain (metBy errs f s) := by
  obtain ⟨hphase, hcommit, hstep, hplaced, hpulls, hgroups⟩ := h
  exact ⟨hphase, hcommit, hstep, hplaced, hpulls, hgroups⟩

section Switch
variable {s : State} {w : WReq} (ha : Accepted s Key.switch w) (errs : List (CoreId × List SramErr))
include ha

theorem exec_switch_refused (h : getN s Key.reshardPhase ≠ 3) :
    exec (.switch ⟨w, errs⟩) s = .next (emit s (.objStatus Key.switch stWrongState)) :=
  congrArg Host.Outcome.next (ownWrite_refused ha (if_neg h) (by decide))

theorem exec_switch_done (h : getN s Key.reshardPhase = 3) (hv : w.val = 1) :
    exec (.switch ⟨w, errs⟩) s = .next (emit (metBy errs (fun s => switchEffect s 1) s) (.objStatus Key.switch stOk)) :=
  hv ▸ congrArg Host.Outcome.next (ownWrite_done ha (if_pos h))

end Switch

/-- Settles O55: each of the four commands by its check, over what its effect leaves. -/
theorem switchResumeReplaySubstitute : Obligations.SwitchResumeReplaySubstitute := by
  unfold Obligations.SwitchResumeReplaySubstitute
  refine ⟨fun s w errs ha => ⟨exec_switch_refused ha errs, fun p h3 hv hp => ?_⟩, fun s w ha => ⟨exec_resume_refused ha, fun h4 hv => ?_⟩,
    fun s w errs ha => ⟨fun hv => ?_, fun u hu hv he hd hw hab => ?_, fun u hu hv he hd => ?_⟩,
    fun s w ha => ⟨exec_peerSubstitute_refused ha, fun hc => ?_⟩⟩
  · have h := metBy_switched errs (f := fun s => switchEffect s 1) (switchEffect_switched (withMet errs s) p hp)
    refine ⟨_, exec_switch_done ha errs h3 hv, ?_⟩
    generalize metBy errs (fun s => switchEffect s 1) s = t at h
    obtain ⟨hphase, hcommit, hstep, hplaced, hpulls, hgroups⟩ := h
    refine ⟨hphase, hcommit, hstep, hplaced, by simp [emit, stOk], fun q hq => ?_, hgroups⟩
    rw [emit_pulls, hpulls] at hq
    simpa using (List.mem_filter.mp hq).2
  · obtain ⟨hstp, hplaced, -, hphase⟩ := resumeEffect_stepKept s
    rw [stepOpened_stp, setN_stp] at hstp
    refine ⟨_, exec_resume_done ha h4 hv, ?_, ?_, ?_, ?_, by simp [emit, stOk]⟩
    · rw [getN_emit, hphase, stepOpened_phase]
    · rw [emit_stp, hstp]
      exact getN_setN_other _ _ _ _ (by decide)
    · rw [emit_stp, hstp]
    · rw [emit_placement, hplaced, stepOpened_placement, setN_placement]
  · rw [exec_replayStep_done ha errs, hv]
    rfl
  · obtain ⟨hpending, habandoned, hwork, hflag⟩ := replayEffect_replays (s := withMet errs s) hu he hv hd hw hab
    exact ⟨_, exec_replayStep_done ha errs, by simp [emit, stOk], hpending, habandoned, hwork, hflag⟩
  · obtain ⟨hmem, hwork, hsus⟩ := replayEffect_waits (s := withMet errs s) hu he hv hd
    exact ⟨_, exec_replayStep_done ha errs, hmem, hwork, hsus⟩
  · exact ⟨_, exec_peerSubstitute_done ha hc, by simp [emit, stOk], getDom_substituteEffect s w.bytes, substituteEffect_redirects s w.bytes⟩

end Sys2Proof.Machine


/-! SUPPORT. The routers' state (03_wafer_network.md R53 to R66, R72): what each update of the mesh leaves of lanes, crossings and queues, what
routing reads, and what a link's errors, a flit that enters a lane and a grant do. -/

namespace Sys2Proof.Machine

/-! ### Lanes, crossings, queues and output ports -/

@[simp] theorem getLane_setLane_same (s : State) (k : Nat) (l : Lane) : getLane (setLane s k l) k = l := amGet_put_same _ _ _ _

theorem getLane_setLane_other (s : State) (k j : Nat) (l : Lane) (h : j ≠ k) : getLane (setLane s k l) j = getLane s j :=
  amGet_put_other _ _ _ _ _ h

@[simp] theorem getWaiting_setWaiting_same (s : State) (k : Nat) (fs : List MFlit) : getWaiting (setWaiting s k fs) k = fs :=
  amGet_put_same _ _ _ _

theorem getLane_congr {s t : State} (h : t.mesh.lanes = s.mesh.lanes) (k : Nat) : getLane t k = getLane s k := by simp only [getLane, h]
theorem getFifo_congr {s t : State} (h : t.mesh.fifos = s.mesh.fifos) (k : Nat) : getFifo t k = getFifo s k := by simp only [getFifo, h]
theorem getWaiting_congr {s t : State} (h : t.mesh.waiting = s.mesh.waiting) (k : Nat) : getWaiting t k = getWaiting s k := by
  simp only [getWaiting, h]

@[simp] theorem getLane_setCore (s : State) (id : CoreId) (c : Core) (k : Nat) : getLane (setCore s id c) k = getLane s k := rfl
@[simp] theorem getWaiting_setCore (s : State) (id : CoreId) (c : Core) (k : Nat) : getWaiting (setCore s id c) k = getWaiting s k := rfl

/-- A lane's key names its router. -/
theorem laneKey_div (c : CoreId) {port vc : Nat} (hp : port < 5) (hv : vc < 4) (slip : Bool) : laneKey c port vc slip / 40 = coreKey c := by
  unfold laneKey b2n
  split <;> omega

/-- Lanes of different routers differ. -/
theorem laneKey_ne {c d : CoreId} (h : coreKey c ≠ coreKey d) {p q v w : Nat} (hp : p < 5) (hq : q < 5) (hv : v < 4) (hw : w < 4) (a b : Bool) :
    laneKey c p v a ≠ laneKey d q w b := fun e =>
  h (by rw [← laneKey_div c hp hv a, e, laneKey_div d hq hw b])

/-- A router's neighbour is another router. -/
theorem coreKey_meshStep_ne {s : State} {a c : CoreId} {out : Nat} (h : meshStep s a out = some c) : coreKey c ≠ coreKey a := by
  obtain ⟨x, y⟩ := a
  unfold meshStep at h
  split at h
  all_goals
    dsimp only at h
    split at h
    all_goals simp only [Option.some.injEq, reduceCtorEq] at h
    subst h
    simp only [coreKey]
    omega

/-! ### Where nothing waits, nothing goes on -/

theorem fillLocal_of_empty {s : State} {c : CoreId} {q : Nat} (h : getWaiting s (waitKey c 4 q) = []) (n : Nat) : fillLocal s c q n = s := by
  cases n with
  | zero => rfl
  | succ n => rw [fillLocal, h]

theorem fillRouter_of_empty {s : State} {c : CoreId} (h0 : getWaiting s (waitKey c 4 0) = []) (h1 : getWaiting s (waitKey c 4 1) = []) :
    fillRouter s c = s := by
  rw [fillRouter, fillLocal_of_empty h0, fillLocal_of_empty h1]

theorem drainFifo_of_empty {s : State} {c : CoreId} {port vc : Nat} (h : getFifo s (fifoKey c port vc) = []) (n : Nat) :
    drainFifo s c port vc n = s := by
  cases n with
  | zero => rfl
  | succ n => rw [drainFifo, h]

/-- A queue whose first flit may not leave stays. -/
theorem fillLocal_of_held {s : State} {c : CoreId} {q : Nat} {m : MFlit} {rest : List MFlit} (h : getWaiting s (waitKey c 4 q) = m :: rest)
    (hl : mayLeave s c m = false) (n : Nat) : fillLocal s c q n = s := by
  cases n with
  | zero => rfl
  | succ n => rw [fillLocal, h]; simp only [hl, Bool.false_eq_true, if_false]

/-- A queue whose first flit may leave gives it to the router and goes on. -/
theorem fillLocal_of_free {s : State} {c : CoreId} {q : Nat} {m : MFlit} {rest : List MFlit} (h : getWaiting s (waitKey c 4 q) = m :: rest)
    (hl : mayLeave s c m = true) (n : Nat) :
    fillLocal s c q (n + 1) = fillLocal (enterPort (setWaiting s (waitKey c 4 q) rest) c 4 m) c q n := by
  rw [fillLocal, h]
  simp only [hl, if_true]

/-- Whether a barrier's message, on VC0, may leave its core's queue: the lane has room, and a closed row takes no head (R55, R74). -/
theorem mayLeave_vc0 {s : State} {c : CoreId} {m : MFlit} (h : m.vc = 0) :
    mayLeave s c m = (decide ((getLane s (laneKey c 4 0 false)).flits.length < 8) && !(m.head && rowClosed s c)) := by
  simp [mayLeave, h]

/-! ### What routing reads (R59, R60, R66, R70) -/

/-- Two states in which every packet takes the same routes. -/
structure SameRouting (s t : State) : Prop where
  cores : t.cores = s.cores
  cols : logicalCols t = logicalCols s
  excluded : getN t Key.excludedFieldColumn = getN s Key.excludedFieldColumn
  bands : getN t Key.darkBands = getN s Key.darkBands
  power : ∀ f, getN t (Key.pwrFieldPowerState f) = getN s (Key.pwrFieldPowerState f)

namespace SameRouting
variable {s t : State}

theorem trans {u : State} (h : SameRouting s t) (h' : SameRouting t u) : SameRouting s u :=
  ⟨h'.cores.trans h.cores, h'.cols.trans h.cols, h'.excluded.trans h.excluded, h'.bands.trans h.bands, fun f => (h'.power f).trans (h.power f)⟩

theorem coreField (h : SameRouting s t) (c : CoreId) : coreField t c = coreField s c := by simp only [Machine.coreField, h.excluded]
theorem crosses (h : SameRouting s t) (a b : CoreId) : crosses t a b = crosses s a b := by simp only [Machine.crosses, h.coreField]
theorem crossesSeam (h : SameRouting s t) (a b : CoreId) : crossesSeam t a b = crossesSeam s a b := by
  simp only [Machine.crossesSeam, h.coreField]
theorem meshStep (h : SameRouting s t) (c : CoreId) (d : Nat) : meshStep t c d = meshStep s c d := by simp only [Machine.meshStep, h.cols]
theorem linkTo (h : SameRouting s t) (c : CoreId) (hdr : W64) (out : Nat) (leg : Leg) : linkTo t c hdr out leg = linkTo s c hdr out leg := by
  simp only [Machine.linkTo, h.meshStep]
theorem getCore (h : SameRouting s t) (c : CoreId) : getCore t c = getCore s c := getCore_eq _ _ _ h.cores
theorem bandDark (h : SameRouting s t) : bandDark t = bandDark s := funext fun y => by simp only [Machine.bandDark, h.bands]
theorem slipRow (h : SameRouting s t) (row : Nat) : slipRow t row = slipRow s row := by rw [Machine.slipRow, h.bandDark]; rfl
theorem slipOut (h : SameRouting s t) (c : CoreId) (hdr : W64) : slipOut t c hdr = slipOut s c hdr := by
  simp only [Machine.slipOut, h.slipRow]
theorem rowOuts (h : SameRouting s t) (c : CoreId) (hdr : W64) (e w : Bool) : rowOuts t c hdr e w = rowOuts s c hdr e w := by
  simp only [Machine.rowOuts, h.getCore]
theorem colOuts (h : SameRouting s t) (c : CoreId) (hdr : W64) (a b : Bool) : colOuts t c hdr a b = colOuts s c hdr a b := by
  simp only [Machine.colOuts, h.getCore]
theorem takesBroadcast (h : SameRouting s t) (c : CoreId) : takesBroadcast t c = takesBroadcast s c := by
  simp only [Machine.takesBroadcast, inParked, fieldParked, h.coreField, h.power]
theorem allOuts (h : SameRouting s t) (c : CoreId) (e w : Bool) : allOuts t c e w = allOuts s c e w := by
  simp only [Machine.allOuts, h.takesBroadcast, h.cols]
theorem spreadOut (h : SameRouting s t) (c : CoreId) (hdr : W64) : spreadOut t c hdr = spreadOut s c hdr := by
  simp only [Machine.spreadOut, h.rowOuts, h.colOuts, h.allOuts]

theorem routeOf (h : SameRouting s t) (c : CoreId) (hdr : W64) (leg : Leg) : routeOf t c hdr leg = routeOf s c hdr leg := by
  cases leg with
  | unicast => rfl
  | slip => exact h.slipOut c hdr
  | spread => exact h.spreadOut c hdr
  | rowFork west => simp only [Machine.routeOf, h.rowOuts, h.allOuts]
  | colFork north => simp only [Machine.routeOf, h.colOuts, h.takesBroadcast]

end SameRouting

/-- No crossing of a field boundary is none of the seam. -/
theorem crossesSeam_of_not_crosses {s : State} {a b : CoreId} (h : crosses s a b = false) : crossesSeam s a b = false := by
  have hf : coreField s a = coreField s b := by simpa [crosses] using h
  simp [crossesSeam, hf]

/-! ### A flit enters a lane (R61, R72, R461) -/

/-- A broadcast missed changes its log alone. -/
theorem missBroadcast_eq (s : State) (h : W64) (flit : Flit) (fs : List Nat) : ∃ l d, missBroadcast s h flit fs =
    { s with mesh := { s.mesh with log := l, logDropped := d } } := by
  unfold missBroadcast
  dsimp only
  split
  · exact ⟨_, _, rfl⟩
  split_ifs <;> exact ⟨_, _, rfl⟩

/-- The broadcast log as it is when a flit has entered a router: one that a parked field's router does not deliver is logged (R461). -/
def missedHere (s : State) (c : CoreId) (m : MFlit) : State :=
  if m.head && hdrMode m.hdr == 4 && !takesBroadcast s c then missBroadcast s m.hdr m.flit [coreField s c] else s

theorem missedHere_eq (s : State) (c : CoreId) (m : MFlit) : ∃ l d, missedHere s c m =
    { s with mesh := { s.mesh with log := l, logDropped := d } } := by
  unfold missedHere
  split
  · exact missBroadcast_eq ..
  · exact ⟨_, _, rfl⟩

/-- A flit as it stands in a lane: a head with its outputs decided. -/
def inLane (s : State) (c : CoreId) (m : MFlit) : MFlit := { m with outs := if m.head then routeOf s c m.hdr m.leg else [] }

theorem enterLane_clean {s : State} {c : CoreId} {k : Nat} {m : MFlit} (hr : m.raw = none) (hs : (getLane s k).sink = false) :
    enterLane s c k m = setLane (missedHere s c m) k { getLane s k with flits := (getLane s k).flits ++ [inLane s c m] } := by
  obtain ⟨hdr, vc, leg, head, tail, flit, raw, outs⟩ := m
  subst hr
  exact if_neg (by rw [hs]; decide)

theorem enterLane_lost {s : State} {c : CoreId} {k : Nat} {m : MFlit} {h : W64} (hr : m.raw = some h) :
    enterLane s c k m = setLane (headerLost s c h) k { getLane s k with sink := !m.tail } := by
  unfold enterLane
  simp only [hr]

/-- The parts of the mesh that a flit's entry into a lane leaves. -/
structure EntersLane (s t : State) (k : Nat) : Prop where
  lanes : ∀ j, j ≠ k → getLane t j = getLane s j
  fifos : t.mesh.fifos = s.mesh.fifos
  waiting : t.mesh.waiting = s.mesh.waiting
  cores : t.cores = s.cores

/-- A clean flit joins its lane, and nothing else changes but the broadcast log. -/
structure JoinsLane (s t : State) (c : CoreId) (k : Nat) (m : MFlit) : Prop extends EntersLane s t k where
  lane : getLane t k = { getLane s k with flits := (getLane s k).flits ++ [inLane s c m] }
  objs : ∀ j, getN t j = getN s j

theorem enterLane_joins {s : State} {c : CoreId} {k : Nat} {m : MFlit} (hr : m.raw = none) (hs : (getLane s k).sink = false) :
    JoinsLane s (enterLane s c k m) c k m := by
  obtain ⟨l, d, h⟩ := missedHere_eq s c m
  rw [enterLane_clean hr hs, h]
  exact ⟨⟨fun j hj => getLane_setLane_other _ k j _ hj, rfl, rfl, rfl⟩, getLane_setLane_same .., fun _ => rfl⟩

/-! ### A lost header (R72) -/

theorem headerLost_mesh (s : State) (c : CoreId) (h : W64) : (headerLost s c h).mesh = s.mesh := by
  unfold headerLost
  dsimp only
  split <;> simp

theorem headerLost_cores (s : State) (c : CoreId) (h : W64) : (headerLost s c h).cores = s.cores := (headerLost_meshMoves s c h).cores

theorem headerLost_flag (s : State) (c : CoreId) (h : W64) : bit (getN (headerLost s c h) Key.meshFlags) 2 = true := by
  unfold headerLost
  dsimp only
  split
  · rw [getN_setN_other _ _ _ _ (by decide), getN_setN_other _ _ _ _ (by decide), getN_setN_other _ _ _ _ (by decide), getN_raiseNow_same]
    exact bit_or_two_pow _ _
  · rw [getN_raiseNow_same]
    exact bit_or_two_pow _ _

/-- The capture, where it is empty, takes the header as received and is full. -/
theorem headerLost_capture {s : State} (he : getN s Key.captureEmpty = 1) (c : CoreId) (h : W64) :
    getN (headerLost s c h) Key.headerLostCapture = h.toNat ∧ getN (headerLost s c h) Key.captureEmpty = 0 := by
  unfold headerLost
  dsimp only
  rw [if_pos (by rw [getN_raiseNow_other _ _ _ _ (by decide) (by decide), he])]
  refine ⟨?_, getN_setN_same ..⟩
  rw [getN_setN_other _ _ _ _ (by decide), getN_setN_other _ _ _ _ (by decide), getN_setN_same]

/-- A head without its header opens a sink, and is not taken into the lane. -/
theorem enterLane_sinks {s : State} {c : CoreId} {k : Nat} {m : MFlit} {h : W64} (hr : m.raw = some h) : EntersLane s (enterLane s c k m) k ∧
    getLane (enterLane s c k m) k = { getLane s k with sink := !m.tail } ∧ ∀ j, getN (enterLane s c k m) j = getN (headerLost s c h) j := by
  have hm := headerLost_mesh s c h
  rw [enterLane_lost hr]
  refine ⟨⟨fun j hj => ?_, congrArg (·.fifos) hm, congrArg (·.waiting) hm, headerLost_cores s c h⟩, getLane_setLane_same .., fun _ => rfl⟩
  rw [getLane_setLane_other _ _ _ _ hj]
  exact getLane_congr (congrArg Mesh.lanes hm) j

/-! ### Errors on a link (R53) -/

/-- The objects in which a link's errors count. -/
def wireKeys : List Nat := [Key.meshFlags, Key.meshFlags + 1, Key.meshFlags + 2, Key.poisonedFlits]

/-- A state after changes of the objects that count a link's errors. -/
structure WireCounted (s t : State) : Prop where
  rest : ∃ o n m, t = { s with objs := o, change := n, changes := m }
  objs : ∀ k, k ∉ wireKeys → getN t k = getN s k

namespace WireCounted
variable {s t u : State}

theorem refl (s : State) : WireCounted s s := ⟨⟨_, _, _, rfl⟩, fun _ _ => rfl⟩

theorem trans (h : WireCounted s t) (h' : WireCounted t u) : WireCounted s u := by
  obtain ⟨o, n, m, rfl⟩ := h.rest
  obtain ⟨o', n', m', rfl⟩ := h'.rest
  exact ⟨⟨o', n', m', rfl⟩, fun k hk => (h'.objs k hk).trans (h.objs k hk)⟩

theorem mesh (h : WireCounted s t) : t.mesh = s.mesh := by obtain ⟨o, n, m, rfl⟩ := h.rest; rfl
theorem cores (h : WireCounted s t) : t.cores = s.cores := by obtain ⟨o, n, m, rfl⟩ := h.rest; rfl

theorem routing (h : WireCounted s t) : SameRouting s t where
  cores := h.cores
  cols := h.objs _ (by decide)
  excluded := h.objs _ (by decide)
  bands := h.objs _ (by decide)
  power f := h.objs _ (by
    simp only [wireKeys, List.mem_cons, List.not_mem_nil, or_false, Key.pwrFieldPowerState, Key.meshFlags, Key.poisonedFlits]
    omega)

end WireCounted

theorem setN_wireCounted (s : State) (key v : Nat) (hk : key ∈ wireKeys) : WireCounted s (setN s key v) :=
  ⟨setN_eq s key v, fun k hn => getN_setN_other s key v k fun e => hn (e ▸ hk)⟩

theorem raiseNow_wireCounted (s : State) (b : Nat) (hb : b ≤ 1) : WireCounted s (raiseNow s Key.meshFlags b) := by
  refine (setN_wireCounted s _ _ (by decide)).trans (setN_wireCounted _ _ _ ?_)
  interval_cases b <;> decide

/-- The corrected errors of a flit's two phits counted. -/
def correctedCounted (s : State) (x : WireErr) : State := (List.range (min x.corrected 2)).foldl (fun s _ => raiseNow s Key.meshFlags 0) s

/-- An uncorrectable error counted. -/
def badCounted (s : State) (x : WireErr) : State := if x.bad then count64 (raiseNow s Key.meshFlags 1) Key.poisonedFlits else s

/-- A flit as a link brings it. -/
def wireFlit (m : MFlit) (x : WireErr) : MFlit :=
  { m with flit := if x.bad then { m.flit with poison := true } else m.flit, raw := if m.head then x.raw else none }

theorem wireErrors_eq (s : State) (m : MFlit) (x : WireErr) : wireErrors s m x = (badCounted (correctedCounted s x) x, wireFlit m x) := rfl

theorem correctedCounted_wireCounted (s : State) (x : WireErr) : WireCounted s (correctedCounted s x) :=
  List.foldlRecOn (motive := WireCounted s) _ _ (WireCounted.refl s) fun t h _ _ => h.trans (raiseNow_wireCounted t 0 (by decide))

theorem badCounted_wireCounted (s : State) (x : WireErr) : WireCounted s (badCounted s x) := by
  unfold badCounted
  split
  · exact (raiseNow_wireCounted s 1 (by decide)).trans (setN_wireCounted _ _ _ (by decide))
  · exact WireCounted.refl s

theorem wireErrors_wireCounted (s : State) (m : MFlit) (x : WireErr) : WireCounted s (wireErrors s m x).1 :=
  (correctedCounted_wireCounted s x).trans (badCounted_wireCounted _ x)

theorem getN_badCounted_meshFlags (s : State) (x : WireErr) :
    getN (badCounted s x) Key.meshFlags = if x.bad then getN s Key.meshFlags ||| 2 ^ 1 else getN s Key.meshFlags := by
  unfold badCounted
  split
  · rw [getN_count64_other _ _ _ (by decide), getN_raiseNow_same]
  · rfl

/-- An uncorrectable error counts the poisoned flit and sets its flag. -/
theorem wireErrors_bad (s : State) (m : MFlit) {x : WireErr} (h : x.bad = true) :
    getN (wireErrors s m x).1 Key.poisonedFlits = satAdd 64 (getN s Key.poisonedFlits) 1 ∧
      bit (getN (wireErrors s m x).1 Key.meshFlags) 1 = true := by
  have hc : getN (correctedCounted s x) Key.poisonedFlits = getN s Key.poisonedFlits :=
    List.foldlRecOn (motive := fun t => getN t Key.poisonedFlits = getN s Key.poisonedFlits) _ _ rfl fun t ht _ _ =>
      (getN_raiseNow_other t _ _ _ (by decide) (by decide)).trans ht
  rw [wireErrors_eq]
  refine ⟨?_, ?_⟩
  · show getN (badCounted _ x) _ = _
    unfold badCounted
    rw [if_pos h, getN_count64_same, getN_raiseNow_other _ _ _ _ (by decide) (by decide), hc]
  · show bit (getN (badCounted _ x) _) 1 = true
    rw [getN_badCounted_meshFlags, if_pos h]
    exact bit_or_two_pow _ _

/-- A corrected error sets its flag. -/
theorem wireErrors_corrected (s : State) (m : MFlit) {x : WireErr} (h : 0 < x.corrected) :
    bit (getN (wireErrors s m x).1 Key.meshFlags) 0 = true := by
  obtain ⟨n, hn⟩ : ∃ n, min x.corrected 2 = n + 1 := ⟨min x.corrected 2 - 1, by omega⟩
  have hc : bit (getN (correctedCounted s x) Key.meshFlags) 0 = true := by
    rw [correctedCounted, hn, List.range_succ, List.foldl_append, List.foldl_cons, List.foldl_nil, getN_raiseNow_same]
    exact bit_or_two_pow _ _
  rw [wireErrors_eq]
  show bit (getN (badCounted _ x) _) 0 = true
  rw [getN_badCounted_meshFlags]
  split
  · exact bit_or_of_bit _ _ _ hc
  · exact hc

end Sys2Proof.Machine


/-! PROOFS. Arbitration and the hop of a flit (03_wafer_network.md R52 to R56, R59 to R61, R66, R72, R87), and O27. -/

namespace Sys2Proof.Machine

/-! ### Arbitration (R55) -/

/-- VC0 where it has a ready flit. -/
def readyZero (s : State) (at_ : CoreId) (out : Nat) : List Nat := if readyLanes s at_ out 0 != [] then [0] else []

/-- The channels of VC1 to VC3 with a ready flit, in round-robin order. -/
def readyOthers (s : State) (at_ : CoreId) (out : Nat) : List Nat :=
  ((List.range 3).map (fun i => ((getOut s (outKey at_ out)).served + i) % 3 + 1)).filter (fun vc => readyLanes s at_ out vc != [])

theorem vcOrder_eq (s : State) (at_ : CoreId) (out : Nat) : vcOrder s at_ out =
    if (getOut s (outKey at_ out)).vc0Run < 16 then readyZero s at_ out ++ readyOthers s at_ out
    else readyOthers s at_ out ++ readyZero s at_ out := rfl

theorem mem_readyOthers (s : State) (at_ : CoreId) (out vc : Nat) :
    vc ∈ readyOthers s at_ out ↔ (0 < vc ∧ vc < 4) ∧ readyLanes s at_ out vc ≠ [] := by
  simp only [readyOthers, List.mem_filter, List.mem_map, List.mem_range, bne_iff_ne]
  refine and_congr_left fun _ => ⟨?_, fun h => ⟨(vc + 2 - (getOut s (outKey at_ out)).served % 3) % 3, by omega, by omega⟩⟩
  rintro ⟨i, -, rfl⟩
  omega

theorem mem_readyZero {s : State} {at_ : CoreId} {out vc : Nat} (h : vc ∈ readyZero s at_ out) : vc = 0 ∧ readyLanes s at_ out 0 ≠ [] := by
  unfold readyZero at h
  split at h <;> simp_all

/-- The ready lanes of a channel whose packets all grant it at their other outputs. -/
def agreedLanes (s : State) (at_ : CoreId) (out vc : Nat) : List Nat := (readyLanes s at_ out vc).filter (forkAgreed s at_ out vc)

theorem agreedLanes_of_all {s : State} {at_ : CoreId} {out vc : Nat} (h : ∀ k ∈ readyLanes s at_ out vc, forkAgreed s at_ out vc k = true) :
    agreedLanes s at_ out vc = readyLanes s at_ out vc := List.filter_eq_self.mpr h

/-- A channel of the order that all its packets' outputs grant: the first of these is granted. -/
theorem grantVc_of_find {s : State} {at_ : CoreId} {out vc : Nat}
    (h : (vcOrder s at_ out).find? (fun vc => agreedLanes s at_ out vc != []) = some vc) :
    grantVc s at_ out = some (vc, agreedLanes s at_ out vc) := by
  unfold grantVc
  unfold agreedLanes at h
  simp only [h]
  rfl

theorem grantVc_of_empty {s : State} {at_ : CoreId} {out : Nat} (h : vcOrder s at_ out = []) : grantVc s at_ out = none := by
  simp [grantVc, h]

/-- VC0 is granted first, unless 16 flits of it went in a row. -/
theorem grantVc_zero {s : State} {at_ : CoreId} {out : Nat} (hr : readyLanes s at_ out 0 ≠ [])
    (ha : ∀ k ∈ readyLanes s at_ out 0, forkAgreed s at_ out 0 k = true) (hrun : (getOut s (outKey at_ out)).vc0Run < 16) :
    grantVc s at_ out = some (0, readyLanes s at_ out 0) := by
  have hz : readyZero s at_ out = [0] := if_pos (by simpa using hr)
  have hg := grantVc_of_find (s := s) (at_ := at_) (out := out) (vc := 0) (by
    rw [vcOrder_eq, if_pos hrun, hz, List.singleton_append, List.find?_cons_of_pos]
    simpa [agreedLanes_of_all ha] using hr)
  rw [hg, agreedLanes_of_all ha]

/-- After 16 flits of VC0 in a row another channel is granted. -/
theorem grantVc_other {s : State} {at_ : CoreId} {out vc : Nat} (h0 : 0 < vc) (h4 : vc < 4) (hr : readyLanes s at_ out vc ≠ [])
    (ha : ∀ k ∈ readyLanes s at_ out vc, forkAgreed s at_ out vc k = true) (hrun : 16 ≤ (getOut s (outKey at_ out)).vc0Run) :
    ∃ v ks, grantVc s at_ out = some (v, ks) ∧ v ≠ 0 := by
  have hm : vc ∈ readyOthers s at_ out := (mem_readyOthers ..).mpr ⟨⟨h0, h4⟩, hr⟩
  obtain ⟨v, hv⟩ : ∃ v, (readyOthers s at_ out).find? (fun vc => agreedLanes s at_ out vc != []) = some v :=
    Option.isSome_iff_exists.mp (List.find?_isSome.mpr ⟨vc, hm, by simpa [agreedLanes_of_all ha] using hr⟩)
  refine ⟨v, _, grantVc_of_find (by rw [vcOrder_eq, if_neg (by omega), List.find?_append, hv]; rfl), ?_⟩
  have := ((mem_readyOthers ..).mp (List.mem_of_find?_eq_some hv)).1.1
  omega

/-- Where no channel has a ready flit nothing is granted. -/
theorem grantVc_none {s : State} {at_ : CoreId} {out : Nat} (h : ∀ vc, vc < 4 → readyLanes s at_ out vc = []) : grantVc s at_ out = none := by
  have hz : readyZero s at_ out = [] := List.eq_nil_iff_forall_not_mem.mpr fun _ hv => (mem_readyZero hv).2 (h 0 (by omega))
  have ho : readyOthers s at_ out = [] := List.eq_nil_iff_forall_not_mem.mpr fun v hv =>
    ((mem_readyOthers ..).mp hv).2 (h v ((mem_readyOthers ..).mp hv).1.2)
  exact grantVc_of_empty (by rw [vcOrder_eq, hz, ho, List.append_nil, ite_self])

/-- The lanes granted are ready lanes of the channel. -/
theorem grantVc_ready {s : State} {at_ : CoreId} {out vc : Nat} {ks : List Nat} (h : grantVc s at_ out = some (vc, ks)) {k : Nat} (hk : k ∈ ks) :
    k ∈ readyLanes s at_ out vc := by
  unfold grantVc at h
  dsimp only at h
  split at h
  · obtain ⟨rfl, rfl⟩ := Prod.mk.inj (Option.some.inj h)
    exact (List.mem_filter.mp hk).1
  · obtain ⟨v, -, hv⟩ := Option.map_eq_some_iff.mp h
    obtain ⟨rfl, rfl⟩ := Prod.mk.inj hv
    exact hk

/-- A ready lane is one of its router's. -/
theorem readyLanes_own {s : State} {at_ : CoreId} {out vc k : Nat} (h : k ∈ readyLanes s at_ out vc) :
    ∃ port slip, port < 5 ∧ k = laneKey at_ port vc slip := by
  obtain ⟨p, hp, hk⟩ := List.mem_flatMap.mp (List.mem_filter.mp h).1
  simp only [List.mem_cons, List.not_mem_nil, or_false] at hk
  rcases hk with rfl | rfl
  · exact ⟨p, false, List.mem_range.mp hp, rfl⟩
  · exact ⟨p, true, List.mem_range.mp hp, rfl⟩

/-! ### The hop of a granted flit -/

/-- The flit that PACKET_ROUTE moves: its router's core has nothing to inject, the output grants its lane, its packet takes this output
alone, and no crossing feeds its lane. -/
structure FrontGranted (s : State) (at_ : CoreId) (out pick vc k : Nat) (leg : Leg) (m : MFlit) (rest : List MFlit) : Prop where
  idle : getWaiting s (waitKey at_ 4 0) = [] ∧ getWaiting s (waitKey at_ 4 1) = []
  grant : ∃ ks, grantVc s at_ out = some (vc, ks) ∧ ks[pick % ks.length]? = some k
  front : (getLane s k).flits = m :: rest
  channel : m.vc.toNat = vc
  outs : frontOuts (getLane s k) m = [(out, leg)]
  fifo : getFifo s (fifoKey at_ (k / 8 % 5) vc) = []

/-- The lane that the flit leaves. -/
def laneLeft (l : Lane) (m : MFlit) (rest : List MFlit) (os : List (Nat × Leg)) : Lane :=
  { l with flits := rest, route := if m.tail then none else some os }

/-- The flit has left its lane, and the output has granted it. -/
def flitTaken (s : State) (at_ : CoreId) (out vc k : Nat) (leg : Leg) (m : MFlit) (rest : List MFlit) : State :=
  granted (setLane s k (laneLeft (getLane s k) m rest [(out, leg)])) at_ vc k m.tail (out, leg)

section Taken
variable (s : State) (at_ : CoreId) (out vc k : Nat) (leg : Leg) (m : MFlit) (rest : List MFlit)

theorem flitTaken_lanes (j : Nat) : getLane (flitTaken s at_ out vc k leg m rest) j =
    if j = k then laneLeft (getLane s k) m rest [(out, leg)] else getLane s j := by
  show getLane (setLane s k _) j = _
  split
  · next h => rw [h, getLane_setLane_same]
  · next h => exact getLane_setLane_other s k j _ h

theorem flitTaken_routing : SameRouting s (flitTaken s at_ out vc k leg m rest) := ⟨rfl, rfl, rfl, rfl, fun _ => rfl⟩

end Taken

section Front
variable {s : State} {at_ : CoreId} {out pick vc k : Nat} {leg : Leg} {m : MFlit} {rest : List MFlit}

/-- PACKET_ROUTE moves the granted flit to its one output; the crossing and the queues of the router, empty, add nothing. -/
theorem exec_packetRoute_front (hf : FrontGranted s at_ out pick vc k leg m rest) (ho : out < 5) (x : WireErr) (others : List (Nat × WireErr))
    {t : State} (ht : moveCopy (flitTaken s at_ out vc k leg m rest) at_ m x (out, leg) = t) (hfifo : t.mesh.fifos = s.mesh.fifos)
    (hwait : t.mesh.waiting = s.mesh.waiting) : exec (.packetRoute at_ out pick ⟨x, others⟩) s = .next t := by
  obtain ⟨ks, hg, hk⟩ := hf.grant
  have hmove : moveFront s at_ out k vc ⟨x, others⟩ = drainFifo t at_ (k / 8 % 5) vc 8 := by
    rw [← ht]
    simp only [moveFront, hf.front, hf.outs, List.foldl_cons, List.foldl_nil, wireAt, if_true]
    rfl
  have hdrain : drainFifo t at_ (k / 8 % 5) vc 8 = t := drainFifo_of_empty (by rw [getFifo_congr hfifo, hf.fifo]) 8
  have hfill : fillRouter t at_ = t := fillRouter_of_empty (by rw [getWaiting_congr hwait, hf.idle.1]) (by rw [getWaiting_congr hwait, hf.idle.2])
  show execPacketRoute at_ out pick ⟨x, others⟩ s = _
  simp only [execPacketRoute, fillRouter_of_empty hf.idle.1 hf.idle.2, if_neg (show ¬ 5 ≤ out by omega), hg, hk, hmove, hdrain, hfill]

/-- At its core a flit of VC1 to VC3 is granted a line of its ring. -/
theorem packetRoute_delivers (hf : FrontGranted s at_ 4 pick vc k leg m rest) (hv : vc ≠ 0) (x : WireErr) (others : List (Nat × WireErr)) :
    ∃ t, exec (.packetRoute at_ 4 pick ⟨x, others⟩) s = .next t ∧ getLane t k = laneLeft (getLane s k) m rest [(4, leg)] ∧
      (∀ k', k' ≠ k → getLane t k' = getLane s k') ∧ (getCore t at_).arrivals = (getCore s at_).arrivals ++ [{ m with leg := leg }] := by
  have hvc : m.vc ≠ 0 := fun h => hv (by rw [← hf.channel, h]; rfl)
  have hd : moveCopy (flitTaken s at_ 4 vc k leg m rest) at_ m x (4, leg) = setCore (flitTaken s at_ 4 vc k leg m rest) at_
      { getCore s at_ with arrivals := (getCore s at_).arrivals ++ [{ m with leg := leg }] } := by
    unfold moveCopy putOut deliverCore
    rw [if_pos rfl, if_pos rfl]
    exact if_neg hvc
  have hl := flitTaken_lanes s at_ 4 vc k leg m rest
  refine ⟨_, exec_packetRoute_front hf (by decide) x others hd rfl rfl, (hl k).trans (if_pos rfl), fun j hj => (hl j).trans (if_neg hj), ?_⟩
  rw [getCore_setCore_same]

theorem crossesNorth_of_step {c : CoreId} (hstep : meshStep s at_ out = some c) : crossesNorth at_ out = false := by
  by_contra h
  obtain ⟨rfl, hr⟩ : out = 0 ∧ at_.row = 0 := by simpa [crossesNorth] using h
  simp [meshStep, hr] at hstep

/-- The lane entered at a neighbour is not the one left. -/
theorem laneEntered_ne {c : CoreId} (hstep : meshStep s at_ out = some c) (hf : FrontGranted s at_ out pick vc k leg m rest) :
    laneKey c (facing out) vc (slipLeg m.hdr leg) ≠ k := by
  obtain ⟨ks, hg, hk⟩ := hf.grant
  obtain ⟨port, slip, hport, rfl⟩ := readyLanes_own (grantVc_ready hg (List.mem_of_getElem? hk))
  have hvc : vc < 4 := hf.channel ▸ m.vc.isLt
  exact laneKey_ne (coreKey_meshStep_ne hstep) (by unfold facing; omega) hport hvc hvc _ _

/-- The lane at the neighbour, when the flit has left its own and the link's errors are counted, is as it was. -/
theorem laneEntered_eq {c : CoreId} (hstep : meshStep s at_ out = some c) (hf : FrontGranted s at_ out pick vc k leg m rest) (x : WireErr) :
    getLane (wireErrors (flitTaken s at_ out vc k leg m rest) m x).1 (laneKey c (facing out) vc (slipLeg m.hdr leg)) =
      getLane s (laneKey c (facing out) vc (slipLeg m.hdr leg)) := by
  have hw := wireErrors_wireCounted (flitTaken s at_ out vc k leg m rest) m x
  rw [getLane_congr (congrArg (·.lanes) hw.mesh), flitTaken_lanes, if_neg (laneEntered_ne hstep hf)]

/-! Over a link inside a field. -/

section Link
variable {c : CoreId} (ho : out < 4) (hstep : meshStep s at_ out = some c) (hc : crosses s at_ c = false)
include ho hstep hc

/-- The flit enters the lane of its channel at the neighbour. -/
theorem moveCopy_link {u : State} (hu : SameRouting s u) (x : WireErr) : moveCopy u at_ m x (out, leg) =
    enterLane (wireErrors u m x).1 c (laneKey c (facing out) m.vc.toNat (slipLeg m.hdr leg)) { wireFlit m x with leg := leg } := by
  have ht : SameRouting s (wireErrors u m x).1 := hu.trans (wireErrors_wireCounted u m x).routing
  have hlink : linkTo s at_ m.hdr out leg = some (c, facing out) := by simp only [linkTo, if_neg (show out ≠ 4 by omega), hstep]
  have hlink' : linkTo (wireErrors u m x).1 at_ (wireErrors u m x).2.hdr out leg = some (c, facing out) := (ht.linkTo ..).trans hlink
  have hseam : crossesSeam u at_ c = false := by rw [hu.crossesSeam, crossesSeam_of_not_crosses hc]
  have hcross : crosses (wireErrors u m x).1 at_ c = false := by rw [ht.crosses, hc]
  simp only [moveCopy, if_neg (show out ≠ 4 by omega), hu.linkTo, hlink, Option.isSome_some, if_true, hseam, Bool.false_eq_true, if_false,
    putOut, hlink', crossesNorth_of_step hstep, sendLink, hcross]
  rfl

/-- What a hop leaves of the lanes and the cores, whichever way the flit enters. -/
theorem packetRoute_hop (hf : FrontGranted s at_ out pick vc k leg m rest) (x : WireErr) (others : List (Nat × WireErr)) {t : State}
    (he : enterLane (wireErrors (flitTaken s at_ out vc k leg m rest) m x).1 c (laneKey c (facing out) vc (slipLeg m.hdr leg))
      { wireFlit m x with leg := leg } = t)
    (ht : EntersLane (wireErrors (flitTaken s at_ out vc k leg m rest) m x).1 t (laneKey c (facing out) vc (slipLeg m.hdr leg))) :
    exec (.packetRoute at_ out pick ⟨x, others⟩) s = .next t ∧ getLane t k = laneLeft (getLane s k) m rest [(out, leg)] ∧
      (∀ k', k' ≠ k → k' ≠ laneKey c (facing out) vc (slipLeg m.hdr leg) → getLane t k' = getLane s k') ∧ t.cores = s.cores := by
  have hw := wireErrors_wireCounted (flitTaken s at_ out vc k leg m rest) m x
  have hl : ∀ j, getLane (wireErrors (flitTaken s at_ out vc k leg m rest) m x).1 j = _ := fun j =>
    (getLane_congr (congrArg (·.lanes) hw.mesh) j).trans (flitTaken_lanes s at_ out vc k leg m rest j)
  have hm := moveCopy_link (m := m) (leg := leg) ho hstep hc (flitTaken_routing s at_ out vc k leg m rest) x
  rw [hf.channel] at hm
  refine ⟨exec_packetRoute_front hf (by omega) x others (hm.trans he) (ht.fifos.trans (congrArg (·.fifos) hw.mesh))
    (ht.waiting.trans (congrArg (·.waiting) hw.mesh)), ?_, fun j hj hj' => ?_, ht.cores.trans hw.cores⟩
  · rw [ht.lanes k (laneEntered_ne hstep hf).symm, hl, if_pos rfl]
  · rw [ht.lanes j hj', hl, if_neg hj]

/-- A flit whose header the link leaves joins the lane, poisoned by an uncorrectable error, a head with its outputs decided. -/
theorem packetRoute_joins (hf : FrontGranted s at_ out pick vc k leg m rest) (x : WireErr) (others : List (Nat × WireErr)) (hx : x.raw = none)
    (hs : (getLane s (laneKey c (facing out) vc (slipLeg m.hdr leg))).sink = false) :
    ∃ t, exec (.packetRoute at_ out pick ⟨x, others⟩) s = .next t ∧ getLane t k = laneLeft (getLane s k) m rest [(out, leg)] ∧
      (getLane t (laneKey c (facing out) vc (slipLeg m.hdr leg))).flits =
        (getLane s (laneKey c (facing out) vc (slipLeg m.hdr leg))).flits ++ [{ m with
          leg := leg
          raw := none
          flit := if x.bad then { m.flit with poison := true } else m.flit
          outs := if m.head then routeOf s c m.hdr leg else [] }] ∧
      (∀ k', k' ≠ k → k' ≠ laneKey c (facing out) vc (slipLeg m.hdr leg) → getLane t k' = getLane s k') ∧ t.cores = s.cores ∧
      (x.bad = true → getN t Key.poisonedFlits = satAdd 64 (getN s Key.poisonedFlits) 1 ∧ bit (getN t Key.meshFlags) 1 = true) ∧
      (0 < x.corrected → bit (getN t Key.meshFlags) 0 = true) := by
  have hraw : ({ wireFlit m x with leg := leg } : MFlit).raw = none := by simp [wireFlit, hx]
  have hlane := laneEntered_eq hstep hf x
  have hj := enterLane_joins (c := c) hraw (hlane ▸ hs)
  obtain ⟨hexec, hleft, hothers, hcores⟩ := packetRoute_hop ho hstep hc hf x others rfl hj.toEntersLane
  have hroute := (flitTaken_routing s at_ out vc k leg m rest).trans (wireErrors_wireCounted _ m x).routing
  refine ⟨_, hexec, hleft, ?_, hothers, hcores, fun hb => ?_, fun hk => ?_⟩
  · rw [hj.lane, hlane, inLane, hroute.routeOf]
    simp only [wireFlit, hx, ite_self]
  · rw [hj.objs, hj.objs]
    exact wireErrors_bad _ m hb
  · rw [hj.objs]
    exact wireErrors_corrected _ m hk

/-- A head whose header the link spoils is taken in by no lane; HEADER_LOST is set, and the header captured. -/
theorem packetRoute_loses (hf : FrontGranted s at_ out pick vc k leg m rest) (x : WireErr) (others : List (Nat × WireErr)) {h : W64}
    (hx : x.raw = some h) (hm : m.head = true) :
    ∃ t, exec (.packetRoute at_ out pick ⟨x, others⟩) s = .next t ∧ getLane t k = laneLeft (getLane s k) m rest [(out, leg)] ∧
      (getLane t (laneKey c (facing out) vc (slipLeg m.hdr leg))).flits =
        (getLane s (laneKey c (facing out) vc (slipLeg m.hdr leg))).flits ∧
      (getLane t (laneKey c (facing out) vc (slipLeg m.hdr leg))).sink = !m.tail ∧ bit (getN t Key.meshFlags) 2 = true ∧
      t.cores = s.cores ∧ (getN s Key.captureEmpty = 1 → getN t Key.headerLostCapture = h.toNat ∧ getN t Key.captureEmpty = 0) := by
  have hraw : ({ wireFlit m x with leg := leg } : MFlit).raw = some h := by simp [wireFlit, hx, hm]
  obtain ⟨hj, hlane, hobjs⟩ := enterLane_sinks (s := (wireErrors (flitTaken s at_ out vc k leg m rest) m x).1) (c := c)
    (k := laneKey c (facing out) vc (slipLeg m.hdr leg)) hraw
  obtain ⟨hexec, hleft, -, hcores⟩ := packetRoute_hop ho hstep hc hf x others rfl hj
  refine ⟨_, hexec, hleft, ?_, ?_, ?_, hcores, fun he => ?_⟩
  · rw [hlane, laneEntered_eq hstep hf x]
  · rw [hlane]
    rfl
  · rw [hobjs]
    exact headerLost_flag _ _ _
  · have hempty : getN (wireErrors (flitTaken s at_ out vc k leg m rest) m x).1 Key.captureEmpty = 1 := by
      rw [(wireErrors_wireCounted _ m x).objs _ (by decide)]
      exact he
    rw [hobjs, hobjs]
    exact headerLost_capture hempty c h

end Link

end Front

/-! ### Unicasts (R59, R62) -/

/-- The column first, then the row, then the core. -/
theorem routeOf_unicast (s : State) (at_ : CoreId) (h : W64) : routeOf s at_ h .unicast = [(unicastOut at_ h, .unicast)] := rfl

theorem unicastOut_mode0 {at_ : CoreId} {h : W64} (hm : hdrMode h = 0) : unicastOut at_ h =
    if at_.col < hdrCol h then 1 else if hdrCol h < at_.col then 3 else if at_.row < hdrRow h then 2 else if hdrRow h < at_.row then 0 else 4 := by
  simp only [unicastOut, hm, Nat.zero_ne_one, if_false]

/-- Settles O27: the grant by the order of the channels, the hop by where the output leads, the route by the column and the row. -/
theorem routersGrantAndForwardFlits : Obligations.RoutersGrantAndForwardFlits := by
  unfold Obligations.RoutersGrantAndForwardFlits
  refine ⟨fun s at_ out pick wire => ⟨grantVc_zero, fun vc => grantVc_other, fun ho hr => ?_⟩, ?_, fun s at_ h hm => ?_⟩
  · show execPacketRoute at_ out pick wire s = _
    simp only [execPacketRoute, if_neg (show ¬ 5 ≤ out by omega), grantVc_none hr]
  · intro s at_ out pick vc k ks leg m rest x others _ _ hw0 hw1 hg hk hl hvc hos hq
    have hf : FrontGranted s at_ out pick vc k leg m rest := ⟨⟨hw0, hw1⟩, ⟨ks, hg, hk⟩, hl, hvc, hos, hq⟩
    refine ⟨fun h4 hv => ?_, fun c ho hstep hc => ⟨fun hx hs => packetRoute_joins ho hstep hc hf x others hx hs, fun h hx hm =>
      packetRoute_loses ho hstep hc hf x others hx hm⟩⟩
    subst h4
    exact packetRoute_delivers hf hv x others
  · rw [routeOf_unicast, unicastOut_mode0 hm]
    refine ⟨fun hc => ?_, fun hc => ?_, fun hc hr => ?_, fun hc hr => ?_, fun hc hr => ?_⟩
    · rw [if_pos hc]
    · rw [if_neg (by omega), if_pos hc]
    · rw [if_neg (by omega), if_neg (by omega), if_pos hr]
    · rw [if_neg (by omega), if_neg (by omega), if_neg (by omega), if_pos hr]
    · rw [if_neg (by omega), if_neg (by omega), if_neg (by omega), if_neg (by omega)]

end Sys2Proof.Machine


/-! PROOFS. Barriers (07_tile_programs.md R192, R193, R196; R55, R74): the root's word, the release that enters the mesh, the core released, and
O25. -/

namespace Sys2Proof.Machine

/-! ### Numbers in SRAM -/

@[simp] theorem length_memBytes (m : Mem) (a n : Nat) : (memBytes m a n).length = n := by
  induction n generalizing a with
  | zero => rfl
  | succ n ih => rw [memBytes, List.length_cons, ih]

@[simp] theorem length_leBytes (n v : Nat) : (leBytes n v).length = n := by
  induction n generalizing v with
  | zero => rfl
  | succ n ih => rw [leBytes, List.length_cons, ih]

theorem memBytes_congr {m m' : Mem} {a n : Nat} (h : ∀ x, a ≤ x → x < a + n → memRead m' x = memRead m x) :
    memBytes m' a n = memBytes m a n := by
  induction n generalizing a with
  | zero => rfl
  | succ n ih => rw [memBytes, memBytes, h a (by omega) (by omega), ih fun x hx hx' => h x (by omega) (by omega)]

/-- The number in the bytes of an access. -/
theorem field_sramRead (c : Core) (a n : Nat) : field (sramRead c a n) 0 n = leNat (sramRead c a n) := by
  have h : (sramRead c a n).length = n := length_memBytes ..
  simp [field, slice, h, List.take_of_length_le]

/-- A 16-bit number written reads back. -/
theorem leNat_sramWrite_same (c : Core) (a v : Nat) (p : Bool) (hv : v < 65536) : leNat (sramRead (sramWrite c a (leBytes 2 v) p) a 2) = v := by
  have h := memBytes_store_same c.sram a (leBytes 2 v)
  rw [length_leBytes] at h
  rw [sramRead, sramWrite_sram, h, leNat_leBytes]
  exact Nat.mod_eq_of_lt hv

/-- A 16-bit write leaves every byte but its two. -/
theorem memRead_sramWrite_other (c : Core) (a v x : Nat) (p : Bool) (hx : x < a ∨ a + 2 ≤ x) :
    memRead (sramWrite c a (leBytes 2 v) p).sram x = memRead c.sram x := by
  rw [sramWrite_sram, memRead_store_other _ _ _ _ (by rwa [length_leBytes])]

/-! ### The root's word (R192) -/

/-- ARRIVED and EXPECTED of a barrier's word in its root. -/
def arrivedAt (c : Core) (a : Nat) : Nat := leNat (sramRead c a 2)
def expectedAt (c : Core) (a : Nat) : Nat := leNat (sramRead c (a + 2) 2)

/-- ARRIVED written. -/
def arrivedSet (c : Core) (a v : Nat) : Core := sramWrite c a (leBytes 2 v) false

section Arrived
variable (c : Core) (a v : Nat)

theorem arrivedAt_set (hv : v < 65536) : arrivedAt (arrivedSet c a v) a = v := leNat_sramWrite_same c a v false hv

theorem memRead_arrivedSet {x : Nat} (h : x ≠ a) (h' : x ≠ a + 1) : memRead (arrivedSet c a v).sram x = memRead c.sram x :=
  memRead_sramWrite_other c a v x false (by omega)

theorem expectedAt_set : expectedAt (arrivedSet c a v) a = expectedAt c a :=
  congrArg leNat (memBytes_congr fun _ _ _ => memRead_arrivedSet c a v (by omega) (by omega))

end Arrived

/-- The root with an arrival counted, which it remembers as the last one. -/
def arrivalCounted (c : Core) (a : Nat) (b : BitVec 4) (epoch : Byte) : Core :=
  { arrivedSet c a ((arrivedAt c a + 1) % 65536) with lastArrival := amIns (b.toNat * 256 + epoch.toNat) c.lastArrival a }

section Counted
variable (c : Core) (a : Nat) (b : BitVec 4) (epoch : Byte)

theorem arrivedAt_counted (h : arrivedAt c a + 1 < 65536) : arrivedAt (arrivalCounted c a b epoch) a = arrivedAt c a + 1 :=
  (arrivedAt_set c a _ (Nat.mod_lt _ (by decide))).trans (Nat.mod_eq_of_lt h)

theorem expectedAt_counted : expectedAt (arrivalCounted c a b epoch) a = expectedAt c a := expectedAt_set c a _

theorem memRead_counted {x : Nat} (h : x ≠ a) (h' : x ≠ a + 1) : memRead (arrivalCounted c a b epoch).sram x = memRead c.sram x :=
  memRead_arrivedSet c a _ h h'

/-- The release names the barrier and the epoch of the last arrival. -/
theorem releasePacket_last : releasePacket (BitVec.ofNat 4 (amGet 0 (arrivalCounted c a b epoch).lastArrival a / 256))
    (BitVec.ofNat 8 (amGet 0 (arrivalCounted c a b epoch).lastArrival a)) = releasePacket b epoch := by
  have hl : amGet 0 (arrivalCounted c a b epoch).lastArrival a = b.toNat * 256 + epoch.toNat := amGet_ins_same ..
  have hb : (b.toNat * 256 + epoch.toNat) / 256 = b.toNat := by have := epoch.isLt; omega
  have he : BitVec.ofNat 8 (b.toNat * 256 + epoch.toNat) = epoch := BitVec.eq_of_toNat_eq (by rw [BitVec.toNat_ofNat]; have := epoch.isLt; omega)
  rw [hl, hb, he, BitVec.ofNat_toNat, BitVec.setWidth_eq]

end Counted

section Judge
variable {s : State} {id : CoreId} {c : Core} {a : Nat}

theorem judgeBarrier_waits (h : expectedAt c a = 0 ∨ arrivedAt c a < expectedAt c a) : judgeBarrier s id c a = (s, c) := by
  unfold judgeBarrier
  dsimp only
  rw [field_sramRead, field_sramRead]
  exact if_pos h

/-- The releases that a word's judgement broadcasts. -/
def releasesSent (s : State) (id : CoreId) (c : Core) (a : Nat) : State :=
  (List.range (arrivedAt c a / expectedAt c a)).foldl (fun s _ => inject s id (releasePacket (BitVec.ofNat 4 (amGet 0 c.lastArrival a / 256))
    (BitVec.ofNat 8 (amGet 0 c.lastArrival a)))) s

theorem judgeBarrier_releases (h : ¬(expectedAt c a = 0 ∨ arrivedAt c a < expectedAt c a)) :
    judgeBarrier s id c a = (releasesSent s id c a, arrivedSet c a (arrivedAt c a % expectedAt c a)) := by
  unfold judgeBarrier
  dsimp only
  rw [field_sramRead, field_sramRead]
  exact if_neg h

end Judge

/-! ### A release enters the mesh (R55, R74, R192) -/

/-- The one flit of a release, as it waits at its core. -/
def releaseFlit (b : BitVec 4) (epoch : Byte) : MFlit :=
  ⟨4, 0, .unicast, true, true, ⟨slice [b.setWidth 8, epoch] 0 64, false⟩, none, []⟩

theorem portFlits_release (b : BitVec 4) (epoch : Byte) : portFlits (releasePacket b epoch) = [releaseFlit b epoch] := rfl

theorem logBroadcast_eq (s : State) (p : Packet) : ∃ l d, logBroadcast s p = { s with mesh := { s.mesh with log := l, logDropped := d } } := by
  unfold logBroadcast
  split
  · exact ⟨_, _, rfl⟩
  · obtain ⟨l, d, h⟩ := missBroadcast_eq { s with mesh := { s.mesh with log := trimLog s s.mesh.log ++ [(p, [])] } } p.hdr _ (parkedFields s)
    exact ⟨l, d, h⟩

/-- A release sets out on its spreading leg. -/
theorem enterPort_release (s : State) (id : CoreId) (b : BitVec 4) (epoch : Byte) : enterPort s id 4 (releaseFlit b epoch) =
    enterLane s id (laneKey id 4 0 false) { releaseFlit b epoch with leg := .spread } := by
  have hslip : needsSlip s id 4#64 = false := by
    have hmode : decide (hdrMode 4#64 ≤ 1) = false := by decide
    simp only [needsSlip, hmode, Bool.false_and]
  have hleg : firstLeg s id 4#64 = .spread := by
    unfold firstLeg
    rw [hslip]
    decide
  simp [enterPort, releaseFlit, hleg]

section Release
variable (s : State) (id : CoreId) (b : BitVec 4) (epoch : Byte)

/-- A release waits at its core, and the broadcast is logged. -/
def releaseWaits : State := injectAt s id 4 (releasePacket b epoch)

/-- The release has left its core's queue. -/
def releaseGone : State := setWaiting (releaseWaits s id b epoch) (waitKey id 4 0) []

theorem inject_release : inject s id (releasePacket b epoch) = fillLocal (releaseWaits s id b epoch) id 0 8 := rfl

theorem releaseWaits_eq (h : getWaiting s (waitKey id 4 0) = []) : ∃ l d, releaseWaits s id b epoch =
    setWaiting { s with mesh := { s.mesh with log := l, logDropped := d } } (waitKey id 4 0) [releaseFlit b epoch] := by
  obtain ⟨l, d, hl⟩ := logBroadcast_eq s (releasePacket b epoch)
  have hshort : ¬((releasePacket b epoch).vc = 0 ∧ 4 < (releasePacket b epoch).flits.length) := fun hp => absurd hp.2 (show ¬ 4 < 1 by decide)
  have hmode : hdrMode (releasePacket b epoch).hdr = 4 := (by decide : hdrMode 4 = 4)
  refine ⟨l, d, ?_⟩
  unfold releaseWaits injectAt
  rw [if_neg hshort, if_pos hmode, hl, portFlits_release]
  show setWaiting _ (waitKey id 4 0) (getWaiting s (waitKey id 4 0) ++ _) = _
  rw [h, List.nil_append]

variable {s id} (h : getWaiting s (waitKey id 4 0) = [])
include h

theorem mayLeave_release : mayLeave (releaseWaits s id b epoch) id (releaseFlit b epoch) =
    (decide ((getLane s (laneKey id 4 0 false)).flits.length < 8) && !rowClosed s id) := by
  obtain ⟨l, d, hl⟩ := releaseWaits_eq s id b epoch h
  rw [mayLeave_vc0 rfl, hl]
  rfl

/-- Where the lane is full or the row closed, the release waits at the core. -/
theorem inject_release_waits (hf : 8 ≤ (getLane s (laneKey id 4 0 false)).flits.length ∨ rowClosed s id = true) :
    getWaiting (inject s id (releasePacket b epoch)) (waitKey id 4 0) = portFlits (releasePacket b epoch) ∧
      getLane (inject s id (releasePacket b epoch)) (laneKey id 4 0 false) = getLane s (laneKey id 4 0 false) := by
  obtain ⟨l, d, hl⟩ := releaseWaits_eq s id b epoch h
  have hw : getWaiting (releaseWaits s id b epoch) (waitKey id 4 0) = [releaseFlit b epoch] := by rw [hl, getWaiting_setWaiting_same]
  have hm : mayLeave (releaseWaits s id b epoch) id (releaseFlit b epoch) = false := by
    rw [mayLeave_release b epoch h]
    rcases hf with hf | hf
    · simp [Nat.not_lt.mpr hf]
    · simp [hf]
  rw [inject_release, fillLocal_of_held hw hm]
  refine ⟨hw, ?_⟩
  rw [hl]
  rfl

/-- Where the lane has room and the row is open, the release enters the router at once, on its spreading leg. -/
theorem inject_release_enters (hr : (getLane s (laneKey id 4 0 false)).flits.length < 8) (hs : (getLane s (laneKey id 4 0 false)).sink = false)
    (hc : rowClosed s id = false) : getWaiting (inject s id (releasePacket b epoch)) (waitKey id 4 0) = [] ∧
      ∃ o, (getLane (inject s id (releasePacket b epoch)) (laneKey id 4 0 false)).flits =
        (getLane s (laneKey id 4 0 false)).flits ++ [{ releaseFlit b epoch with leg := .spread, outs := o }] := by
  obtain ⟨l, d, hl⟩ := releaseWaits_eq s id b epoch h
  have hw : getWaiting (releaseWaits s id b epoch) (waitKey id 4 0) = [releaseFlit b epoch] := by rw [hl, getWaiting_setWaiting_same]
  have hm : mayLeave (releaseWaits s id b epoch) id (releaseFlit b epoch) = true := by
    rw [mayLeave_release b epoch h]
    simp [hr, hc]
  have hlane : getLane (releaseGone s id b epoch) (laneKey id 4 0 false) = getLane s (laneKey id 4 0 false) := by
    rw [releaseGone, hl]
    rfl
  have hj := enterLane_joins (s := releaseGone s id b epoch) (c := id) (k := laneKey id 4 0 false)
    (m := { releaseFlit b epoch with leg := .spread }) rfl (hlane ▸ hs)
  have hempty : getWaiting (enterPort (releaseGone s id b epoch) id 4 (releaseFlit b epoch)) (waitKey id 4 0) = [] := by
    rw [enterPort_release, getWaiting_congr hj.waiting, releaseGone, getWaiting_setWaiting_same]
  have hfill : inject s id (releasePacket b epoch) = enterPort (releaseGone s id b epoch) id 4 (releaseFlit b epoch) := by
    rw [inject_release, fillLocal_of_free hw hm]
    exact fillLocal_of_empty hempty 7
  rw [hfill]
  refine ⟨hempty, routeOf (releaseGone s id b epoch) id 4 .spread, ?_⟩
  rw [enterPort_release, hj.lane, hlane]
  simp [inLane, releaseFlit]

end Release

/-! ### SYNC_ARRIVAL -/

section Arrival
variable {s : State} {id : CoreId} {b : BitVec 4} {epoch : Byte} {word : BitVec 19}

theorem exec_syncArrival : exec (.syncArrival id b epoch ⟨word, []⟩) s = .next
    (setCore (judgeBarrier s id (arrivalCounted (getCore s id) word.toNat b epoch) word.toNat).1 id
      (judgeBarrier s id (arrivalCounted (getCore s id) word.toNat b epoch) word.toNat).2) := by
  show execSyncArrival id b epoch ⟨word, []⟩ s = _
  unfold arrivalCounted arrivedAt
  rw [← field_sramRead]
  rfl

/-- An arrival that is not the last is counted, and nothing leaves. -/
theorem syncArrival_counts (hn : arrivedAt (getCore s id) word.toNat + 1 < 65536) (he : expectedAt (getCore s id) word.toNat = 0 ∨
    arrivedAt (getCore s id) word.toNat + 1 < expectedAt (getCore s id) word.toNat) :
    exec (.syncArrival id b epoch ⟨word, []⟩) s = .next (setCore s id (arrivalCounted (getCore s id) word.toNat b epoch)) := by
  rw [exec_syncArrival, judgeBarrier_waits]
  rwa [arrivedAt_counted _ _ _ _ hn, expectedAt_counted]

/-- The last arrival takes EXPECTED off, and the releases leave. -/
theorem syncArrival_releases (hn : arrivedAt (getCore s id) word.toNat + 1 < 65536) (he : ¬(expectedAt (getCore s id) word.toNat = 0 ∨
    arrivedAt (getCore s id) word.toNat + 1 < expectedAt (getCore s id) word.toNat)) :
    exec (.syncArrival id b epoch ⟨word, []⟩) s = .next
      (setCore (releasesSent s id (arrivalCounted (getCore s id) word.toNat b epoch) word.toNat) id
        (arrivedSet (arrivalCounted (getCore s id) word.toNat b epoch) word.toNat
          ((arrivedAt (getCore s id) word.toNat + 1) % expectedAt (getCore s id) word.toNat))) := by
  have hc := arrivedAt_counted (getCore s id) word.toNat b epoch hn
  have hx := expectedAt_counted (getCore s id) word.toNat b epoch
  rw [exec_syncArrival, judgeBarrier_releases (by rwa [hc, hx]), hc, hx]

/-- One release leaves where the arrivals are as many as expected. -/
theorem releasesSent_one (hn : arrivedAt (getCore s id) word.toNat + 1 < 65536)
    (he : arrivedAt (getCore s id) word.toNat + 1 = expectedAt (getCore s id) word.toNat) :
    releasesSent s id (arrivalCounted (getCore s id) word.toNat b epoch) word.toNat = inject s id (releasePacket b epoch) := by
  unfold releasesSent
  rw [arrivedAt_counted _ _ _ _ hn, expectedAt_counted, ← he, Nat.div_self (by omega), releasePacket_last]
  rfl

end Arrival

/-! ### SYNC_RELEASE -/

theorem bit_and_FE (x : Byte) : bit (x &&& 0xFE).toNat 0 = false := by revert x; decide

theorem memRead_sramWrite_one (c : Core) (a : Nat) (x : Byte) (p : Bool) : memRead (sramWrite c a [x] p).sram a = x := memRead_write_same ..

theorem memRead_sramWrite_one_other (c : Core) (a j : Nat) (x : Byte) (p : Bool) (h : j ≠ a) :
    memRead (sramWrite c a [x] p).sram j = memRead c.sram j := memRead_write_other _ _ _ _ h

theorem setReleased_bit (c : Core) (w : BitVec 19) : bit (memRead (setReleased c w).sram (w.toNat + 5)).toNat 0 = true := by
  rw [setReleased, memRead_sramWrite_one, BitVec.toNat_or]
  exact bit_or_two_pow _ 0

section SyncRelease
variable {s : State} {id : CoreId} {b b' : BitVec 4} {e : Byte} {epoch : Byte} {w : BitVec 19}

/-- A core that waits in SYNC WAIT goes on once RELEASED is set. -/
theorem wakeCore_released {c : Core} (hst : c.st = .waiting) (hwait : c.wait = some (.sync b e w))
    (hb : bit (memRead c.sram (w.toNat + 5)).toNat 0 = true) : wakeCore s c =
      { (sramWrite c (w.toNat + 5) [memRead c.sram (w.toNat + 5) &&& 0xFE] false).proceed with syncBeats := 0 } := by
  unfold wakeCore
  rw [hst, hwait]
  exact if_pos hb

variable (hw : (getCore s id).wait = some (.sync b e w))
include hw

theorem exec_syncRelease_waiting (hst : (getCore s id).st = .waiting) (hm : memRead (getCore s id).sram (w.toNat + 4) = epoch) :
    exec (.syncRelease id b ⟨epoch, []⟩) s = .next (setCore s id (wakeCore s (setReleased (getCore s id) w))) := by
  show execSyncRelease id b ⟨epoch, []⟩ s = _
  unfold execSyncRelease
  dsimp only
  rw [hst, hw]
  exact if_pos ⟨rfl, hm⟩

theorem exec_syncRelease_suspended (hst : (getCore s id).st = .suspended) (hm : memRead (getCore s id).sram (w.toNat + 4) = epoch) :
    exec (.syncRelease id b ⟨epoch, []⟩) s = .next (setCore s id (setReleased (getCore s id) w)) := by
  show execSyncRelease id b ⟨epoch, []⟩ s = _
  unfold execSyncRelease
  dsimp only
  rw [hst, hw]
  exact if_pos ⟨rfl, hm⟩

/-- A release of another barrier or epoch changes nothing. -/
theorem exec_syncRelease_other (errs : List SramErr) (h : b' ≠ b ∨ memRead (getCore s id).sram (w.toNat + 4) ≠ epoch) :
    exec (.syncRelease id b' ⟨epoch, errs⟩) s = .next s := by
  have hn : ¬(b = b' ∧ memRead (getCore s id).sram (w.toNat + 4) = epoch) := by
    rintro ⟨rfl, hm⟩
    exact h.elim (· rfl) (· hm)
  show execSyncRelease id b' ⟨epoch, errs⟩ s = _
  unfold execSyncRelease
  dsimp only
  rw [hw]
  split
  · next h' =>
    obtain ⟨rfl, rfl, rfl⟩ := Wait.sync.inj (Option.some.inj h')
    exact if_neg hn
  · next h' =>
    obtain ⟨rfl, rfl, rfl⟩ := Wait.sync.inj (Option.some.inj h')
    exact if_neg hn
  · rfl

end SyncRelease

/-- Settles O25: an arrival by whether it is the last, a release by the state of the core that it finds. -/
theorem barrierRootCountsAndReleases : Obligations.BarrierRootCountsAndReleases := by
  unfold Obligations.BarrierRootCountsAndReleases
  intro s id b epoch word
  refine ⟨fun hn he => ?_, fun h0 hn => ?_, fun hm => ⟨fun e' hw hst => ?_, fun e' hw hst => ?_⟩,
    fun b' e' errs hw h => exec_syncRelease_other hw errs h⟩
  · refine ⟨_, syncArrival_counts hn he, ?_, fun x hx hx' => ?_, rfl, rfl⟩
    · show arrivedAt (getCore (setCore _ _ _) _) _ = _
      rw [getCore_setCore_same]
      exact arrivedAt_counted _ _ b epoch hn
    · rw [getCore_setCore_same]
      exact memRead_counted _ _ b epoch hx hx'
  · show ∃ t, _ ∧ arrivedAt (getCore t id) _ = (arrivedAt _ _ + 1) % expectedAt _ _ ∧ _
    by_cases hlt : arrivedAt (getCore s id) word.toNat + 1 < expectedAt (getCore s id) word.toNat
    · refine ⟨_, syncArrival_counts hn (.inr hlt), ?_, fun x hx hx' => ?_, fun he => absurd he hlt.ne, fun he => absurd he hlt.ne⟩
      · rw [getCore_setCore_same, arrivedAt_counted _ _ b epoch hn, Nat.mod_eq_of_lt hlt]
      · rw [getCore_setCore_same, memRead_counted _ _ b epoch hx hx']
    · refine ⟨_, syncArrival_releases hn (not_or.mpr ⟨h0.ne', hlt⟩), ?_, fun x hx hx' => ?_, fun he hw hf => ?_, fun he hw hr hs hc => ?_⟩
      · rw [getCore_setCore_same]
        exact arrivedAt_set _ _ _ ((Nat.mod_le _ _).trans_lt hn)
      · rw [getCore_setCore_same, memRead_arrivedSet _ _ _ hx hx', memRead_counted _ _ b epoch hx hx']
      · rw [getWaiting_setCore, getLane_setCore, releasesSent_one hn he]
        exact inject_release_waits b epoch hw hf
      · rw [getWaiting_setCore, getLane_setCore, releasesSent_one hn he]
        obtain ⟨hempty, o, ho⟩ := inject_release_enters b epoch hw hr hs hc
        exact ⟨hempty, _, ho, rfl, (by decide : hdrMode 4 = 4), rfl, rfl, rfl, rfl, rfl⟩
  · have hset := setReleased_bit (getCore s id) word
    refine ⟨_, exec_syncRelease_waiting hw hst hm, ?_⟩
    rw [getCore_setCore_same, wakeCore_released (c := setReleased (getCore s id) word) hst hw hset]
    refine ⟨rfl, rfl, rfl, ?_, fun x hx => ?_⟩
    · show bit (memRead (sramWrite _ _ _ false).sram _).toNat 0 = false
      rw [memRead_sramWrite_one]
      exact bit_and_FE _
    · show memRead (sramWrite _ _ _ false).sram x = _
      rw [memRead_sramWrite_one_other _ _ _ _ _ hx]
      exact memRead_sramWrite_one_other _ _ _ _ _ hx
  · refine ⟨_, exec_syncRelease_suspended hw hst hm, ?_⟩
    rw [getCore_setCore_same]
    exact ⟨hst, rfl, setReleased_bit _ _⟩

end Sys2Proof.Machine


/-! PROOFS. The fields' heat, parks and wakes (18_power_thermal.md R458 to R465; R69): what each operation on a field's power leaves of the
objects and of the field's record, and O50. -/

namespace Sys2Proof.Machine

/-! ### The objects of the fields -/

/-- Whether an object is one of a field's regulator, sensors or power state (objects 2010, 2110 and 6110 on). -/
def fieldObj (k : Nat) : Bool :=
  decide (0x201000 ≤ k ∧ k < 0x206A00) || decide (0x211000 ≤ k ∧ k < 0x216A00) || decide (0x611000 ≤ k ∧ k < 0x616A00)

theorem fieldObj_ne {j k : Nat} (hk : fieldObj k = true) (hj : fieldObj j = false) : k ≠ j := fun e => by simp [← e, hk] at hj

theorem fieldObj_notMem {k : Nat} (hk : fieldObj k = true) {l : List Nat} (hl : ∀ j ∈ l, fieldObj j = false) : k ∉ l := fun h =>
  fieldObj_ne hk (hl k h) rfl

section FieldObj
variable {f : Nat} (hf : f < 90)
include hf

theorem fieldObj_add {b : Nat} (hb : 0x201000 ≤ b ∧ b < 0x201100 ∨ 0x211000 ≤ b ∧ b < 0x211100 ∨ 0x611000 ≤ b ∧ b < 0x611100) :
    fieldObj (b + f * 256) = true := by
  simp only [fieldObj, Bool.or_eq_true, decide_eq_true_eq]
  omega

theorem fieldObj_regState : fieldObj (Key.regState f) = true := fieldObj_add hf (by decide)
theorem fieldObj_temp : fieldObj (Key.thmFieldTemp f) = true := fieldObj_add hf (by decide)
theorem fieldObj_failed : fieldObj (Key.thmThermalFailed f) = true := fieldObj_add hf (by decide)
theorem fieldObj_power : fieldObj (Key.pwrFieldPowerState f) = true := fieldObj_add hf (by decide)
theorem fieldObj_causes : fieldObj (Key.pwrParkCauses f) = true := fieldObj_add hf (by decide)
theorem fieldObj_deferred : fieldObj (Key.pwrWakeDeferredUs f) = true := fieldObj_add hf (by decide)

end FieldObj

/-! ### The power state of a field (R458) -/

/-- The power state, with DARK_BANDS, before the DOMAINs that list the fields. -/
def powerNoted (s : State) (f st : Nat) : State :=
  let s := setN s (Key.pwrFieldPowerState f) st
  if f % 10 = getN s Key.excludedFieldColumn then setN s Key.darkBands (darkBandsOf s) else s

theorem setFieldPower_eq (s : State) (f st : Nat) : ∃ p q, setFieldPower s f st =
    setDom (setDom (powerNoted s f st) Key.fieldsParked p) Key.fieldsDark q := ⟨_, _, rfl⟩

section SetFieldPower
variable (s : State) (f st : Nat)

@[simp] theorem powerNoted_power : (powerNoted s f st).power = s.power := by unfold powerNoted; dsimp only; split <;> simp
@[simp] theorem powerNoted_raised : (powerNoted s f st).raised = s.raised := by unfold powerNoted; dsimp only; split <;> simp
@[simp] theorem powerNoted_out : (powerNoted s f st).out = s.out := by unfold powerNoted; dsimp only; split <;> simp

@[simp] theorem setFieldPower_power : (setFieldPower s f st).power = s.power := by obtain ⟨p, q, h⟩ := setFieldPower_eq s f st; simp [h]
@[simp] theorem setFieldPower_raised : (setFieldPower s f st).raised = s.raised := by obtain ⟨p, q, h⟩ := setFieldPower_eq s f st; simp [h]
@[simp] theorem setFieldPower_out : (setFieldPower s f st).out = s.out := by obtain ⟨p, q, h⟩ := setFieldPower_eq s f st; simp [h]

theorem power_ne_darkBands : Key.pwrFieldPowerState f ≠ Key.darkBands := by unfold Key.pwrFieldPowerState Key.darkBands; omega

theorem getN_setFieldPower_other (k : Nat) (h : k ≠ Key.pwrFieldPowerState f) (h' : k ≠ Key.darkBands) :
    getN (setFieldPower s f st) k = getN s k := by
  obtain ⟨p, q, hp⟩ := setFieldPower_eq s f st
  rw [hp, getN_setDom, getN_setDom]
  unfold powerNoted
  dsimp only
  split
  · rw [getN_setN_other _ _ _ _ h', getN_setN_other _ _ _ _ h]
  · rw [getN_setN_other _ _ _ _ h]

@[simp] theorem fieldPower_setFieldPower : fieldPower (setFieldPower s f st) f = st := by
  obtain ⟨p, q, hp⟩ := setFieldPower_eq s f st
  rw [fieldPower, hp, getN_setDom, getN_setDom]
  unfold powerNoted
  dsimp only
  split
  · rw [getN_setN_other _ _ _ _ (power_ne_darkBands f), getN_setN_same]
  · rw [getN_setN_same]

end SetFieldPower

/-- The cores of a field changed, and nothing else. -/
theorem mapField_eq (s : State) (f : Nat) (g : Core → Core) : ∃ k, mapField s f g = { s with cores := k } :=
  List.foldlRecOn (motive := fun t : State => ∃ k, t = { s with cores := k }) (fieldCores s f) _ ⟨_, rfl⟩ fun t ht c _ => by
    obtain ⟨k, rfl⟩ := ht
    exact ⟨_, rfl⟩

section MapField
variable (s : State) (f : Nat) (g : Core → Core)

@[simp] theorem mapField_power : (mapField s f g).power = s.power := by obtain ⟨k, h⟩ := mapField_eq s f g; rw [h]
@[simp] theorem mapField_raised : (mapField s f g).raised = s.raised := by obtain ⟨k, h⟩ := mapField_eq s f g; rw [h]
@[simp] theorem mapField_out : (mapField s f g).out = s.out := by obtain ⟨k, h⟩ := mapField_eq s f g; rw [h]
@[simp] theorem getN_mapField (j : Nat) : getN (mapField s f g) j = getN s j := by obtain ⟨k, h⟩ := mapField_eq s f g; rw [h]; rfl

end MapField

@[simp] theorem abandon_power (s : State) (seqs : List Nat) : (abandon s seqs).power = s.power := by unfold abandon; split <;> rfl

theorem getField_congr {s t : State} (h : t.power = s.power) (f : Nat) : getField t f = getField s f := by simp only [getField, h]

/-! ### A park (R462) -/

/-- A core of a field that parks. -/
def parkedCore (c : Core) : Core :=
  match c.st with
  | .dead => c
  | .parked => c
  | _ => { c with parkedFrom := c.st, st := .parked }

/-- The cause of a park recorded, and no wake due any more. -/
def parkNoted (s : State) (f cause : Nat) : State :=
  let s := setN s (Key.pwrParkCauses f) (getN s (Key.pwrParkCauses f) ||| 2 ^ cause)
  setField s f { getField s f with wakeWaiting := false, wakeDue := false }

section Park
variable (s : State) (f cause : Nat)

theorem getN_parkNoted_other (k : Nat) (h : k ≠ Key.pwrParkCauses f) : getN (parkNoted s f cause) k = getN s k := by
  rw [parkNoted, getN_setField, getN_setN_other _ _ _ _ h]

theorem causes_parkNoted : getN (parkNoted s f cause) (Key.pwrParkCauses f) = getN s (Key.pwrParkCauses f) ||| 2 ^ cause := by
  rw [parkNoted, getN_setField, getN_setN_same]

theorem shutDue_parkNoted : (getField (parkNoted s f cause) f).shutDue = (getField s f).shutDue := by
  rw [parkNoted, getField_setField_same]
  simp only [getField_congr (setN_power s _ _)]

theorem parkNoted_raised : (parkNoted s f cause).raised = s.raised := by simp [parkNoted]
theorem parkNoted_out : (parkNoted s f cause).out = s.out := by simp [parkNoted]

theorem power_ne_causes : Key.pwrFieldPowerState f ≠ Key.pwrParkCauses f := by unfold Key.pwrFieldPowerState Key.pwrParkCauses; omega

theorem fieldParked_parkNoted : fieldParked (parkNoted s f cause) f = fieldParked s f := by
  simp only [fieldParked, getN_parkNoted_other s f cause _ (power_ne_causes f)]

/-- A park by the power state that it finds: an unpowered field parks not, one that parks or is parked records the cause, and one that is up
parks. -/
theorem parkField_eq : parkField s f cause =
    if fieldPower s f < 2 then s
    else if fieldParked s f then parkNoted s f cause
    else setFieldPower (mapField (parkNoted s f cause) f parkedCore) f 5 := by
  rw [← fieldParked_parkNoted s f cause]
  rfl

theorem getN_parkField_other (k : Nat) (hc : k ≠ Key.pwrParkCauses f) (hp : k ≠ Key.pwrFieldPowerState f) (hd : k ≠ Key.darkBands) :
    getN (parkField s f cause) k = getN s k := by
  rw [parkField_eq]
  split_ifs
  · rfl
  · exact getN_parkNoted_other s f cause k hc
  · rw [getN_setFieldPower_other _ _ _ _ hp hd, getN_mapField, getN_parkNoted_other _ _ _ _ hc]

@[simp] theorem shutDue_parkField : (getField (parkField s f cause) f).shutDue = (getField s f).shutDue := by
  rw [parkField_eq]
  split_ifs
  · rfl
  · exact shutDue_parkNoted s f cause
  · rw [getField_congr (setFieldPower_power _ _ _), getField_congr (mapField_power _ _ _), shutDue_parkNoted]

@[simp] theorem parkField_raised : (parkField s f cause).raised = s.raised := by
  rw [parkField_eq]
  split_ifs <;> simp [parkNoted_raised]

@[simp] theorem parkField_out : (parkField s f cause).out = s.out := by
  rw [parkField_eq]
  split_ifs <;> simp [parkNoted_out]

theorem causes_ne_darkBands : Key.pwrParkCauses f ≠ Key.darkBands := by unfold Key.pwrParkCauses Key.darkBands; omega

variable {s f}

/-- A field that is not off records the cause. -/
theorem causes_parkField (h : 2 ≤ fieldPower s f) :
    getN (parkField s f cause) (Key.pwrParkCauses f) = getN s (Key.pwrParkCauses f) ||| 2 ^ cause := by
  rw [parkField_eq, if_neg (by omega)]
  split
  · exact causes_parkNoted s f cause
  · rw [getN_setFieldPower_other _ _ _ _ (power_ne_causes f).symm (causes_ne_darkBands f), getN_mapField, causes_parkNoted]

/-- A cause stays recorded. -/
theorem bit_causes_parkField {b : Nat} (h : bit (getN s (Key.pwrParkCauses f)) b = true) :
    bit (getN (parkField s f cause) (Key.pwrParkCauses f)) b = true := by
  by_cases hp : 2 ≤ fieldPower s f
  · rw [causes_parkField cause hp]
    exact bit_or_of_bit _ _ _ h
  · rw [parkField_eq, if_pos (by omega)]
    exact h

/-- A field that is up parks. -/
theorem parkField_up (h : 2 ≤ fieldPower s f ∧ fieldPower s f ≤ 4) : fieldPower (parkField s f cause) f = 5 := by
  have hn : fieldParked s f = false := by
    have h5 : getN s (Key.pwrFieldPowerState f) ≤ 4 := h.2
    simp only [fieldParked, Bool.or_eq_false_iff, beq_eq_false_iff_ne]
    omega
  rw [parkField_eq, if_neg (by omega), hn]
  exact fieldPower_setFieldPower _ _ _

/-- A field that parks goes on parking. -/
theorem parkField_parking (h : fieldPower s f = 5) : fieldPower (parkField s f cause) f = 5 := by
  have hn : fieldParked s f = true := by
    have h5 : getN s (Key.pwrFieldPowerState f) = 5 := h
    simp [fieldParked, h5]
  rw [parkField_eq, if_neg (by omega), if_pos hn, fieldPower, getN_parkNoted_other _ _ _ _ (power_ne_causes f)]
  exact h

end Park

/-! ### A field that goes dark (R69, R456, R465) -/

/-- The objects of a field that goes dark, before its mesh and its record. -/
def darkNoted (s : State) (f reg : Nat) : State :=
  setFieldPower (setN (setN (mapField s f (fun _ => Core.default)) (Key.regState f) reg) (Key.regFieldCurrentA f) 0) f 0

/-- The objects that a field's darkening can change beside the field's own. -/
def darkKeys : List Nat := Key.darkBands :: Key.computeCurrentA :: meshKeys

section Darken
variable (s : State) (f reg : Nat)

/-- A field goes dark: its objects, its mesh, its record and the current of the engine. -/
theorem darkenField_eq : ∃ x g r, darkenField s f reg =
    refreshCurrent (setField (openRows { darkNoted s f reg with mesh := x, grid := g }) f r) := ⟨_, _, _, rfl⟩

theorem getN_darkenField {k : Nat} (hk : k ∉ darkKeys) : getN (darkenField s f reg) k = getN (darkNoted s f reg) k := by
  simp only [darkKeys, List.mem_cons, not_or] at hk
  obtain ⟨-, hc, hm⟩ := hk
  obtain ⟨x, g, r, h⟩ := darkenField_eq s f reg
  rw [h, refreshCurrent, getN_setN_other _ _ _ _ hc, getN_setField]
  exact (openRows_meshMoves { darkNoted s f reg with mesh := x, grid := g }).objs k (by simpa [meshKeys] using hm)

theorem getN_stopEngine (k : Nat) : getN (stopEngine s) k = getN s k := by
  unfold stopEngine
  split <;> rfl

variable (cause : Nat)

/-- A field that stops at once, but for its darkening's and its loss's own objects, reads as its objects noted. -/
theorem getN_dropField {k : Nat} (hd : k ∉ darkKeys) (hl : k ∉ lossKeys) :
    getN (dropField s f reg cause) k = getN (darkNoted (stopEngine s) f reg) k := by
  rw [dropField, getN_fieldLoss _ _ _ k hl, getN_darkenField _ _ _ hd]

theorem dropField_lost : stGet (dropField s f reg cause).grid.runFields f = 1 + 4 * cause := by
  rw [dropField, fieldLoss_runFields]
  exact amGet_put_same _ _ _ _

variable {f} (hf : f < 90)
include hf

/-- The dark field's power state is OFF. -/
theorem fieldPower_dropField : fieldPower (dropField s f reg cause) f = 0 := by
  have hk := fieldObj_power hf
  rw [fieldPower, getN_dropField _ _ _ _ (fieldObj_notMem hk (by decide)) (fieldObj_notMem hk (by decide))]
  exact fieldPower_setFieldPower _ _ _

/-- Its regulator is in the state asked for. -/
theorem regState_dropField : getN (dropField s f reg cause) (Key.regState f) = reg := by
  have hk := fieldObj_regState hf
  rw [getN_dropField _ _ _ _ (fieldObj_notMem hk (by decide)) (fieldObj_notMem hk (by decide)), darkNoted,
    getN_setFieldPower_other _ _ _ _ (by simp) (fieldObj_ne hk (by decide)), getN_setN_other _ _ _ _ (by simp), getN_setN_same]

/-- The objects of the field's sensors stay. -/
theorem getN_dropField_sensor {k : Nat} (hk : k = Key.thmFieldTemp f ∨ k = Key.thmThermalFailed f) :
    getN (dropField s f reg cause) k = getN s k := by
  have hobj : fieldObj k = true := by
    rcases hk with rfl | rfl
    · exact fieldObj_temp hf
    · exact fieldObj_failed hf
  have hne : k ≠ Key.pwrFieldPowerState f ∧ k ≠ Key.regFieldCurrentA f ∧ k ≠ Key.regState f := by
    rcases hk with rfl | rfl <;> simp
  obtain ⟨hpower, hcurrent, hstate⟩ := hne
  rw [getN_dropField _ _ _ _ (fieldObj_notMem hobj (by decide)) (fieldObj_notMem hobj (by decide)), darkNoted,
    getN_setFieldPower_other _ _ _ _ hpower (fieldObj_ne hobj (by decide)), getN_setN_other _ _ _ _ hcurrent, getN_setN_other _ _ _ _ hstate,
    getN_mapField, getN_stopEngine]

end Darken

/-! ### A wake (R460, R461) -/

theorem MeshMoves.power {s t : State} (h : MeshMoves s t) : t.power = s.power := by obtain ⟨o, n, m, x, rfl⟩ := h.rest; rfl
theorem ErrsMet.power {s t : State} (h : ErrsMet s t) : t.power = s.power := by obtain ⟨o, n, m, k, rfl⟩ := h.rest; rfl

theorem logBroadcast_meshMoves (s : State) (p : Packet) : MeshMoves s (logBroadcast s p) := by
  obtain ⟨l, d, h⟩ := logBroadcast_eq s p
  rw [h]
  exact mesh_meshMoves s _

theorem injectAt_meshMoves (s : State) (c : CoreId) (port : Nat) (p : Packet) : MeshMoves s (injectAt s c port p) := by
  unfold injectAt
  split
  · exact MeshMoves.refl s
  · refine MeshMoves.trans ?_ (mesh_meshMoves _ _)
    split
    · exact logBroadcast_meshMoves s p
    · exact MeshMoves.refl s

theorem crescentInject_meshMoves (s : State) (crescent : Nat) (src : Option Nat) (p : Packet) : MeshMoves s (crescentInject s crescent src p) := by
  unfold crescentInject
  split
  · exact MeshMoves.refl s
  · exact injectAt_meshMoves s _ _ p

/-- The logged broadcasts sent again change the mesh alone. -/
theorem resendLog_meshMoves (s : State) (f : Nat) : MeshMoves s (resendLog s f) := by
  unfold resendLog
  refine MeshMoves.trans ?_ (mesh_meshMoves _ _)
  refine List.foldlRecOn (motive := MeshMoves s) _ _ (MeshMoves.refl s) fun t ht e _ => ?_
  exact List.foldlRecOn (motive := MeshMoves s) _ _ ht fun u hu c _ => hu.trans (crescentInject_meshMoves u _ _ _)

/-- A resume leaves the objects but those of SRAM errors, and the fields' records. -/
theorem resumeAll_leaves (s : State) : (resumeAll s).power = s.power ∧ ∀ k, k ∉ sramKeys → getN (resumeAll s) k = getN s k := by
  obtain ⟨t, ht, hr⟩ := resumeAll_eq s
  rw [hr]
  exact ⟨ht.power, ht.objs⟩

/-- So does a replay. -/
theorem replayNow_leaves (s : State) : (replayNow s).power = s.power ∧ ∀ k, k ∉ sramKeys → getN (replayNow s) k = getN s k := by
  by_cases h : s.grid.deaths ≠ [] ∨ s.grid.underWay ≠ []
  · rw [replayNow_waits s h]
    exact ⟨rfl, fun _ _ => rfl⟩
  · have hflag : ∀ t ab waiting, (replayFlagged t ab waiting).power = t.power ∧ ∀ k, getN (replayFlagged t ab waiting) k = getN t k := by
      intro t ab waiting
      unfold replayFlagged
      split <;> exact ⟨rfl, fun _ => rfl⟩
    push Not at h
    obtain ⟨hpower, hobjs⟩ := resumeAll_leaves s
    rw [replayNow_goes s h.1 h.2]
    exact ⟨(hflag _ _ _).1.trans hpower, fun k hk => ((hflag _ _ _).2 k).trans (hobjs k hk)⟩

/-- The logged broadcasts sent again, and what the log dropped for the field forgotten. -/
def broadcastsSent (s : State) (f : Nat) : State :=
  let t := resendLog s f
  { t with mesh := { t.mesh with logDropped := nsDel f t.mesh.logDropped } }

theorem broadcastsSent_meshMoves (s : State) (f : Nat) : MeshMoves s (broadcastsSent s f) := (resendLog_meshMoves s f).trans (mesh_meshMoves _ _)

/-- A wake begun: the field WAKING, and no wake of it waiting or due. -/
def wakeBegun (s : State) (f : Nat) : State :=
  let t := broadcastsSent s f
  setFieldPower (setField t f { getField t f with wakeWaiting := false, wakeDue := false }) f 3

section StartWake
variable (s : State) (f : Nat)

theorem startWake_eq : startWake s f = if (resendLog s f).mesh.logDropped.contains f then
    replayNow (abandon (raise (wakeBegun s f) Key.powerFlags 6) (fieldSeqs (raise (wakeBegun s f) Key.powerFlags 6) f)) else wakeBegun s f := rfl

/-- The replay, where the log overflowed, leaves the fields' objects and records. -/
theorem startWake_leaves : (startWake s f).power = (wakeBegun s f).power ∧
    ∀ k, k ∉ sramKeys → getN (startWake s f) k = getN (wakeBegun s f) k := by
  rw [startWake_eq]
  split
  · obtain ⟨hpower, hobjs⟩ := replayNow_leaves
      (abandon (raise (wakeBegun s f) Key.powerFlags 6) (fieldSeqs (raise (wakeBegun s f) Key.powerFlags 6) f))
    refine ⟨?_, fun k hk => ?_⟩
    · rw [hpower, abandon_power, raise_power]
    · rw [hobjs k hk, getN_abandon, getN_raise]
  · exact ⟨rfl, fun _ _ => rfl⟩

/-- No wake of the field waits any more. -/
theorem wakeWaiting_startWake : (getField (startWake s f) f).wakeWaiting = false := by
  rw [getField_congr (startWake_leaves s f).1, wakeBegun]
  dsimp only
  rw [getField_congr (setFieldPower_power _ _ _), getField_setField_same]

/-- The other objects of the fields stay. -/
theorem getN_startWake {k : Nat} (hk : fieldObj k = true) (hp : k ≠ Key.pwrFieldPowerState f) : getN (startWake s f) k = getN s k := by
  rw [(startWake_leaves s f).2 k (fieldObj_notMem hk (by decide)), wakeBegun, getN_setFieldPower_other _ _ _ _ hp (fieldObj_ne hk (by decide)),
    getN_setField, (broadcastsSent_meshMoves s f).objs k (fieldObj_notMem hk (by decide))]

/-- The field is WAKING. -/
theorem fieldPower_startWake (hf : f < 90) : fieldPower (startWake s f) f = 3 := by
  rw [fieldPower, (startWake_leaves s f).2 _ (fieldObj_notMem (fieldObj_power hf) (by decide))]
  exact fieldPower_setFieldPower _ _ _

end StartWake

/-! ### A sample of the sensors (R464, R465) -/

/-- The failed sensors after a sample. -/
def failedAfter (s : State) (f : Nat) (xs : List Int) : Nat :=
  (failedSensors (getN s (Key.thmThermalFailed f)) xs).foldl (fun m i => m ||| 2 ^ i) (getN s (Key.thmThermalFailed f))

/-- How many sensors have failed. -/
def failedCount (bad : Nat) : Nat := ((List.range 16).filter (bit bad)).length

/-- The readings and the failed sensors taken in. -/
def readingsTaken (s : State) (f : Nat) (xs : List Int) : State :=
  let t := setN (setDom s (Key.thmThermalReadings f) ((List.range 16).flatMap (fun i => leBytes 2 (unsigned 16 (xs.getD i 0)))))
    (Key.thmThermalFailed f) (failedAfter s f xs)
  if failedSensors (getN s (Key.thmThermalFailed f)) xs = [] then t else raise t Key.thermalFlags 4

/-- A field with more than eight failed sensors parks. -/
def blindParked (s : State) (f bad : Nat) : State := if 8 < failedCount bad then parkField s f 4 else s

/-- The field's temperature taken in. -/
def tempTaken (s : State) (f : Nat) (t : Int) : State := refreshHottest (setN s (Key.thmFieldTemp f) (unsigned 16 t))

/-- What the thresholds find noted in the field's record. -/
def heatNoted (s : State) (f : Nat) (t : Int) : State :=
  let deg (k : Nat) : Int := 10 * (getN s k : Int)
  let fr := getField s f
  setField s f { fr with
    hot := fr.hot || decide (deg Key.throttleC ≤ t)
    cool := fr.cool && decide (t ≤ deg Key.throttleC - 20)
    wakeDue := fr.wakeDue && decide (t ≤ deg Key.unparkC)
    shutDue := fr.shutDue || (regOn s f && decide (deg Key.shutC ≤ t)) }

section Sample
variable (s : State) (f : Nat) (xs : List Int) (t : Int)

theorem exec_thermalSample (hf : f < 90) : exec (.thermalSample f xs) s = .next
    (match fieldTempOf (failedAfter s f xs) xs with
     | none => blindParked (readingsTaken s f xs) f (failedAfter s f xs)
     | some t => applyHeat (tempTaken (blindParked (readingsTaken s f xs) f (failedAfter s f xs)) f t) f t) := by
  show execThermalSample f xs s = _
  unfold execThermalSample
  rw [if_neg (by omega)]
  rfl

theorem getN_readingsTaken_other {k : Nat} (h : k ≠ Key.thmThermalFailed f) : getN (readingsTaken s f xs) k = getN s k := by
  unfold readingsTaken
  dsimp only
  split
  · rw [getN_setN_other _ _ _ _ h, getN_setDom]
  · rw [getN_raise, getN_setN_other _ _ _ _ h, getN_setDom]

theorem getN_readingsTaken_failed : getN (readingsTaken s f xs) (Key.thmThermalFailed f) = failedAfter s f xs := by
  unfold readingsTaken
  dsimp only
  split
  · rw [getN_setN_same]
  · rw [getN_raise, getN_setN_same]

theorem getN_tempTaken_other {k : Nat} (h : k ≠ Key.thmFieldTemp f) (hf : k ≠ Key.hottestField) (ht : k ≠ Key.hottestTemp) :
    getN (tempTaken s f t) k = getN s k := by
  unfold tempTaken refreshHottest
  dsimp only
  split
  · rw [getN_setN_other _ _ _ _ h]
  · rw [getN_setN_other _ _ _ _ ht, getN_setN_other _ _ _ _ hf, getN_setN_other _ _ _ _ h]

theorem getN_tempTaken_temp (hf : f < 90) : getN (tempTaken s f t) (Key.thmFieldTemp f) = unsigned 16 t := by
  have hk := fieldObj_temp hf
  unfold tempTaken refreshHottest
  dsimp only
  split
  · rw [getN_setN_same]
  · rw [getN_setN_other _ _ _ _ (fieldObj_ne hk (by decide)), getN_setN_other _ _ _ _ (fieldObj_ne hk (by decide)), getN_setN_same]

/-! The thresholds, by the temperature. -/

theorem getN_heatNoted (k : Nat) : getN (heatNoted s f t) k = getN s k := getN_setField ..

/-- Whether a field trips: its regulator is on, and it stands at TRIP_C. -/
def trips (s : State) (f : Nat) (t : Int) : Bool := regOn s f && decide (10 * (getN s Key.tripC : Int) ≤ t)

theorem trips_of_lt {s : State} {t : Int} (f : Nat) (h : t < 10 * (getN s Key.tripC : Int)) : trips s f t = false := by simp [trips, h]

theorem applyHeat_eq : applyHeat s f t =
    if trips s f t then dropField (raise (heatNoted s f t) Key.thermalFlags 3) f 0 3
    else if 10 * (getN s Key.parkC : Int) ≤ t ∧ 2 ≤ fieldPower s f ∧ !bit (getN s (Key.pwrParkCauses f)) 0 then
      parkField (raise (heatNoted s f t) Key.thermalFlags 1) f 0
    else if 10 * (getN s Key.parkC : Int) ≤ t ∧ (getField (heatNoted s f t) f).wakeWaiting then parkField (heatNoted s f t) f 0
    else heatNoted s f t := rfl

variable {s f t}

/-- A field that trips drops out. -/
theorem applyHeat_trips (h : trips s f t = true) : applyHeat s f t = dropField (raise (heatNoted s f t) Key.thermalFlags 3) f 0 3 := by
  rw [applyHeat_eq, if_pos h]

variable (h : trips s f t = false)
include h

/-- One that does not, and is powered, parks at PARK_C. -/
theorem applyHeat_parks (hp : 10 * (getN s Key.parkC : Int) ≤ t) (hu : 2 ≤ fieldPower s f) (hb : bit (getN s (Key.pwrParkCauses f)) 0 = false) :
    applyHeat s f t = parkField (raise (heatNoted s f t) Key.thermalFlags 1) f 0 := by
  rw [applyHeat_eq, if_neg (by simp [h]), if_pos ⟨hp, hu, by rw [hb]; rfl⟩]

/-- Below PARK_C the thresholds are only noted. -/
theorem applyHeat_cool (hp : t < 10 * (getN s Key.parkC : Int)) : applyHeat s f t = heatNoted s f t := by
  rw [applyHeat_eq, if_neg (by simp [h]), if_neg (fun h => absurd h.1 (by omega)), if_neg (fun h => absurd h.1 (by omega))]

/-- A field that does not trip has the thresholds noted, and parks or not. -/
theorem applyHeat_below : ∃ u, u.power = (heatNoted s f t).power ∧ (∀ k, getN u k = getN s k) ∧
    (applyHeat s f t = u ∨ applyHeat s f t = parkField u f 0) := by
  have hn := getN_heatNoted s f t
  rw [applyHeat_eq, if_neg (by simp [h])]
  split_ifs
  · exact ⟨_, raise_power _ _ _, fun k => (getN_raise _ _ _ k).trans (hn k), .inr rfl⟩
  · exact ⟨_, rfl, hn, .inr rfl⟩
  · exact ⟨_, rfl, hn, .inl rfl⟩

theorem getN_applyHeat_below {k : Nat} (hc : k ≠ Key.pwrParkCauses f) (hp : k ≠ Key.pwrFieldPowerState f) (hd : k ≠ Key.darkBands) :
    getN (applyHeat s f t) k = getN s k := by
  obtain ⟨u, -, hu, he | he⟩ := applyHeat_below h
  · rw [he, hu]
  · rw [he, getN_parkField_other _ _ _ _ hc hp hd, hu]

theorem shutDue_applyHeat_below : (getField (applyHeat s f t) f).shutDue = (getField (heatNoted s f t) f).shutDue := by
  obtain ⟨u, hpower, -, he | he⟩ := applyHeat_below h
  · rw [he, getField_congr hpower]
  · rw [he, shutDue_parkField, getField_congr hpower]

/-- A field that parks, with its causes, goes on parking. -/
theorem applyHeat_below_parking (hp : fieldPower s f = 5) {b : Nat} (hb : bit (getN s (Key.pwrParkCauses f)) b = true) :
    fieldPower (applyHeat s f t) f = 5 ∧ bit (getN (applyHeat s f t) (Key.pwrParkCauses f)) b = true := by
  obtain ⟨u, -, hu, he | he⟩ := applyHeat_below h
  · rw [he, fieldPower, hu, hu]
    exact ⟨hp, hb⟩
  · rw [he]
    exact ⟨parkField_parking _ ((hu _).trans hp), bit_causes_parkField _ ((congrArg (bit · b) (hu _)).trans hb)⟩

end Sample

/-! ### THERMAL_SAMPLE -/

/-- The engine when the thresholds are applied to a sample's temperature. -/
def sampled (s : State) (f : Nat) (xs : List Int) (t : Int) : State :=
  tempTaken (blindParked (readingsTaken s f xs) f (failedAfter s f xs)) f t

section Sampled
variable {s : State} {f : Nat} (hf : f < 90) (xs : List Int) (t : Int)

theorem exec_thermalSample_some (hf : f < 90) {xs : List Int} {t : Int} (ht : fieldTempOf (failedAfter s f xs) xs = some t) :
    exec (.thermalSample f xs) s = .next (applyHeat (sampled s f xs t) f t) := by
  rw [exec_thermalSample s f xs hf, ht]
  rfl

/-- With at most eight failed sensors no other object of the fields is written. -/
theorem getN_sampled_field (hn : failedCount (failedAfter s f xs) ≤ 8) {k : Nat} (hk : fieldObj k = true) (hfail : k ≠ Key.thmThermalFailed f)
    (htemp : k ≠ Key.thmFieldTemp f) : getN (sampled s f xs t) k = getN s k := by
  rw [sampled, getN_tempTaken_other _ _ _ htemp (fieldObj_ne hk (by decide)) (fieldObj_ne hk (by decide)), blindParked, if_neg (by omega),
    getN_readingsTaken_other _ _ _ hfail]

include hf

/-- The objects that no sample writes, the limits of R465 among them. -/
theorem getN_sampled_shared {k : Nat} (hk : fieldObj k = false) (hd : k ≠ Key.darkBands) (hh : k ≠ Key.hottestField)
    (ht : k ≠ Key.hottestTemp) : getN (sampled s f xs t) k = getN s k := by
  have hne : ∀ {j}, fieldObj j = true → k ≠ j := fun hj => (fieldObj_ne hj hk).symm
  have hread := getN_readingsTaken_other s f xs (hne (fieldObj_failed hf))
  rw [sampled, getN_tempTaken_other _ _ _ (hne (fieldObj_temp hf)) hh ht, blindParked]
  split
  · rw [getN_parkField_other _ _ _ _ (hne (fieldObj_causes hf)) (hne (fieldObj_power hf)) hd, hread]
  · exact hread

theorem getN_sampled_failed : getN (sampled s f xs t) (Key.thmThermalFailed f) = failedAfter s f xs := by
  have hk := fieldObj_failed hf
  rw [sampled, getN_tempTaken_other _ _ _ (by simp) (fieldObj_ne hk (by decide)) (fieldObj_ne hk (by decide)), blindParked]
  split
  · rw [getN_parkField_other _ _ _ _ (by simp) (by simp) (fieldObj_ne hk (by decide)), getN_readingsTaken_failed]
  · rw [getN_readingsTaken_failed]

/-- With more than eight a field that is up parks with cause 5. -/
theorem blindParked_parks (hn : 8 < failedCount (failedAfter s f xs)) (hu : 2 ≤ fieldPower s f ∧ fieldPower s f ≤ 4) :
    fieldPower (blindParked (readingsTaken s f xs) f (failedAfter s f xs)) f = 5 ∧
      bit (getN (blindParked (readingsTaken s f xs) f (failedAfter s f xs)) (Key.pwrParkCauses f)) 4 = true ∧
      getN (blindParked (readingsTaken s f xs) f (failedAfter s f xs)) (Key.thmThermalFailed f) = failedAfter s f xs := by
  have hp : fieldPower (readingsTaken s f xs) f = fieldPower s f := getN_readingsTaken_other s f xs (by simp)
  rw [blindParked, if_pos hn]
  refine ⟨parkField_up _ (by rwa [hp]), ?_, ?_⟩
  · rw [causes_parkField _ (by rw [hp]; exact hu.1)]
    exact bit_or_two_pow _ _
  · rw [getN_parkField_other _ _ _ _ (by simp) (by simp) (fieldObj_ne (fieldObj_failed hf) (by decide)), getN_readingsTaken_failed]

end Sampled

theorem regOn_congr {s t : State} {f : Nat} (h : getN t (Key.regState f) = getN s (Key.regState f)) : regOn t f = regOn s f := by
  simp only [regOn, h]

/-- With more than eight failed sensors and no temperature at TRIP_C, a field that is up parks with cause 5. -/
theorem thermalSample_blind {s : State} {f : Nat} (hf : f < 90) {xs : List Int} (hn : 8 < failedCount (failedAfter s f xs))
    (hu : 2 ≤ fieldPower s f ∧ fieldPower s f ≤ 4)
    (ht : ∀ x, fieldTempOf (failedAfter s f xs) xs = some x → x < 10 * (getN s Key.tripC : Int)) :
    ∃ t, exec (.thermalSample f xs) s = .next t ∧ getN t (Key.thmThermalFailed f) = failedAfter s f xs ∧ fieldPower t f = 5 ∧
      bit (getN t (Key.pwrParkCauses f)) 4 = true := by
  obtain ⟨hpower, hcauses, hfailed⟩ := blindParked_parks hf xs hn hu
  cases hx : fieldTempOf (failedAfter s f xs) xs with
  | none =>
    rw [exec_thermalSample s f xs hf, hx]
    exact ⟨_, rfl, hfailed, hpower, hcauses⟩
  | some x =>
    have hk := fieldObj_failed hf
    have htrip : trips (sampled s f xs x) f x = false := trips_of_lt f (by
      rw [getN_sampled_shared hf xs x (by decide) (by decide) (by decide) (by decide)]
      exact ht x hx)
    have hne : ∀ {k}, fieldObj k = true → k ≠ Key.thmFieldTemp f → getN (sampled s f xs x) k = _ := fun h h' =>
      getN_tempTaken_other _ f x h' (fieldObj_ne h (by decide)) (fieldObj_ne h (by decide))
    obtain ⟨hp, hb⟩ := applyHeat_below_parking htrip (b := 4) ((hne (fieldObj_power hf) (by simp)).trans hpower)
      (by rw [hne (fieldObj_causes hf) (by simp), hcauses])
    refine ⟨_, exec_thermalSample_some hf hx, ?_, hp, hb⟩
    rw [getN_applyHeat_below htrip (by simp) (by simp) (fieldObj_ne hk (by decide)), getN_sampled_failed hf]

section ThermalSample
variable {s : State} {f : Nat} (hf : f < 90) {xs : List Int} {t : Int}
include hf

/-- A field that trips goes dark and is LOST with cause 3, the sample taken in. -/
theorem thermalSample_trips (h : trips (sampled s f xs t) f t = true) :
    fieldPower (applyHeat (sampled s f xs t) f t) f = 0 ∧ getN (applyHeat (sampled s f xs t) f t) (Key.regState f) = 0 ∧
      stGet (applyHeat (sampled s f xs t) f t).grid.runFields f = 13 ∧
      ∀ k, k = Key.thmFieldTemp f ∨ k = Key.thmThermalFailed f → getN (applyHeat (sampled s f xs t) f t) k = getN (sampled s f xs t) k := by
  rw [applyHeat_trips h]
  exact ⟨fieldPower_dropField _ _ _ hf, regState_dropField _ _ _ hf, dropField_lost _ _ _ _, fun k hk =>
    (getN_dropField_sensor _ _ _ hf hk).trans ((getN_raise _ _ _ k).trans (getN_heatNoted _ _ _ k))⟩

/-- The temperature and the failed sensors stand as the sample found them, whatever the thresholds do. -/
theorem thermalSample_written : getN (applyHeat (sampled s f xs t) f t) (Key.thmFieldTemp f) = unsigned 16 t ∧
    getN (applyHeat (sampled s f xs t) f t) (Key.thmThermalFailed f) = failedAfter s f xs := by
  have hkeep : ∀ k, k = Key.thmFieldTemp f ∨ k = Key.thmThermalFailed f →
      getN (applyHeat (sampled s f xs t) f t) k = getN (sampled s f xs t) k := by
    intro k hk
    cases h : trips (sampled s f xs t) f t with
    | true => exact (thermalSample_trips hf h).2.2.2 k hk
    | false =>
      have hobj : fieldObj k = true := by
        rcases hk with rfl | rfl
        · exact fieldObj_temp hf
        · exact fieldObj_failed hf
      have hne : k ≠ Key.pwrParkCauses f ∧ k ≠ Key.pwrFieldPowerState f := by rcases hk with rfl | rfl <;> simp
      exact getN_applyHeat_below h hne.1 hne.2 (fieldObj_ne hobj (by decide))
  rw [hkeep _ (.inl rfl), hkeep _ (.inr rfl)]
  exact ⟨getN_tempTaken_temp _ f t hf, getN_sampled_failed hf xs t⟩

variable (hn : failedCount (failedAfter s f xs) ≤ 8)
include hn

/-- With at most eight failed sensors the sample leaves what decides on a trip. -/
theorem trips_sampled : trips (sampled s f xs t) f t = trips s f t := by
  rw [trips, trips, regOn_congr (getN_sampled_field xs t hn (fieldObj_regState hf) (by simp) (by simp)),
    getN_sampled_shared hf xs t (by decide) (by decide) (by decide) (by decide)]

theorem fieldPower_sampled : fieldPower (sampled s f xs t) f = fieldPower s f :=
  getN_sampled_field xs t hn (fieldObj_power hf) (by simp) (by simp)

/-- From SHUT_C on a field whose regulator is on, and that does not trip, is due to be shut. -/
theorem thermalSample_shuts (h : trips s f t = false) (hr : regOn s f = true) (ht : 10 * (getN s Key.shutC : Int) ≤ t) :
    (getField (applyHeat (sampled s f xs t) f t) f).shutDue = true := by
  have hon : regOn (sampled s f xs t) f = true := by
    rw [regOn_congr (getN_sampled_field xs t hn (fieldObj_regState hf) (by simp) (by simp)), hr]
  have hshut : getN (sampled s f xs t) Key.shutC = getN s Key.shutC :=
    getN_sampled_shared hf xs t (by decide) (by decide) (by decide) (by decide)
  rw [shutDue_applyHeat_below (by rwa [trips_sampled hf hn]), heatNoted, getField_setField_same]
  simp [hon, hshut, ht]

/-- At PARK_C a field that is up, and does not trip, parks with cause 1. -/
theorem thermalSample_parks (h : trips s f t = false) (ht : 10 * (getN s Key.parkC : Int) ≤ t) (hu : 2 ≤ fieldPower s f ∧ fieldPower s f ≤ 4)
    (hb : bit (getN s (Key.pwrParkCauses f)) 0 = false) : fieldPower (applyHeat (sampled s f xs t) f t) f = 5 ∧
      bit (getN (applyHeat (sampled s f xs t) f t) (Key.pwrParkCauses f)) 0 = true ∧
      bit (stGet (applyHeat (sampled s f xs t) f t).raised Key.thermalFlags) 1 = true := by
  have hpower : fieldPower (raise (heatNoted (sampled s f xs t) f t) Key.thermalFlags 1) f = fieldPower s f :=
    ((getN_raise _ _ _ _).trans (getN_heatNoted _ _ _ _)).trans (fieldPower_sampled hf hn)
  have hcauses : getN (sampled s f xs t) (Key.pwrParkCauses f) = getN s (Key.pwrParkCauses f) :=
    getN_sampled_field xs t hn (fieldObj_causes hf) (by simp) (by simp)
  have hpark : getN (sampled s f xs t) Key.parkC = getN s Key.parkC :=
    getN_sampled_shared hf xs t (by decide) (by decide) (by decide) (by decide)
  rw [applyHeat_parks (by rwa [trips_sampled hf hn]) (by rwa [hpark]) (by rw [fieldPower_sampled hf hn]; exact hu.1) (by rwa [hcauses])]
  refine ⟨parkField_up _ (by rwa [hpower]), ?_, ?_⟩
  · rw [causes_parkField _ (by rw [hpower]; exact hu.1)]
    exact bit_or_two_pow _ 0
  · rw [parkField_raised]
    exact bit_raised_raise _ _ _

/-- Below PARK_C a field that does not trip stays in its power state. -/
theorem thermalSample_stays (h : trips s f t = false) (ht : t < 10 * (getN s Key.parkC : Int)) :
    fieldPower (applyHeat (sampled s f xs t) f t) f = fieldPower s f := by
  have hpark : getN (sampled s f xs t) Key.parkC = getN s Key.parkC :=
    getN_sampled_shared hf xs t (by decide) (by decide) (by decide) (by decide)
  rw [applyHeat_cool (by rwa [trips_sampled hf hn]) (by rwa [hpark]), fieldPower, getN_heatNoted]
  exact fieldPower_sampled hf hn

end ThermalSample

/-! ### PARK_REQUEST and WAKE_REQUEST (R463) -/

theorem parkRequest_ne {v : Nat} : Key.parkRequest ≠ Key.pwrParkCauses v ∧ Key.parkRequest ≠ Key.pwrFieldPowerState v := by
  simp only [Key.parkRequest, Key.pwrParkCauses, Key.pwrFieldPowerState]
  omega

/-- What a granted PARK_REQUEST of a field that is up leaves. -/
theorem parkEffect_parks {s : State} {v : Nat} (hv : v ≤ 89) (hu : 2 ≤ fieldPower s v ∧ fieldPower s v ≤ 4) :
    fieldPower (parkEffect s v) v = 5 ∧ bit (getN (parkEffect s v) (Key.pwrParkCauses v)) 2 = true ∧
      getN (parkEffect s v) Key.parkRequest = v ∧ (parkEffect s v).out = s.out := by
  obtain ⟨hcauses, hpower⟩ := parkRequest_ne (v := v)
  have hp : fieldPower (setN s Key.parkRequest v) v = fieldPower s v := getN_setN_other _ _ _ _ hpower.symm
  have he : parkEffect s v = parkField (setN s Key.parkRequest v) v 2 := if_pos hv
  rw [he]
  refine ⟨parkField_up _ (by rwa [hp]), ?_, ?_, ?_⟩
  · rw [causes_parkField _ (by rw [hp]; exact hu.1)]
    exact bit_or_two_pow _ _
  · rw [getN_parkField_other _ _ _ _ hcauses hpower (by decide), getN_setN_same]
  · rw [parkField_out, setN_out]

/-- The engine whose field is to be woken: the request stands, and the causes of its park end. -/
def wakeAsked (s : State) (v : Nat) : State := setN (setN s Key.wakeRequest v) (Key.pwrParkCauses v) 0

theorem getN_wakeAsked_other (s : State) (v k : Nat) (hr : k ≠ Key.wakeRequest) (hc : k ≠ Key.pwrParkCauses v) :
    getN (wakeAsked s v) k = getN s k := by
  rw [wakeAsked, getN_setN_other _ _ _ _ hc, getN_setN_other _ _ _ _ hr]

theorem fieldPower_wakeAsked (s : State) (v : Nat) : fieldPower (wakeAsked s v) v = fieldPower s v :=
  getN_wakeAsked_other s v _ (by simp only [Key.pwrFieldPowerState, Key.wakeRequest]; omega) (by simp)

theorem fieldParked_wakeAsked (s : State) (v : Nat) : fieldParked (wakeAsked s v) v = fieldParked s v := by
  have h := fieldPower_wakeAsked s v
  simp only [fieldPower] at h
  simp only [fieldParked, h]

theorem wakeDeferred_wakeAsked (s : State) (v : Nat) : wakeDeferred (wakeAsked s v) v = wakeDeferred s v := by
  have hobj : ∀ n, getN (wakeAsked s v) (Key.regState n) = getN s (Key.regState n) ∧
      getN (wakeAsked s v) (Key.regCurrentRatingA n) = getN s (Key.regCurrentRatingA n) ∧
      getN (wakeAsked s v) (Key.regFieldCurrentA n) = getN s (Key.regFieldCurrentA n) := by
    intro n
    refine ⟨?_, ?_, ?_⟩ <;> refine getN_wakeAsked_other s v _ ?_ ?_ <;>
      simp only [Key.regState, Key.regCurrentRatingA, Key.regFieldCurrentA, Key.wakeRequest, Key.pwrParkCauses] <;> omega
  unfold wakeDeferred
  congr 1
  funext n
  obtain ⟨hstate, hrating, hcurrent⟩ := hobj n
  rw [regOn_congr hstate, hrating, hcurrent]

theorem wakeEffect_eq (s : State) {v : Nat} (hv : v ≤ 89) : wakeEffect s v = decideWake (wakeAsked s v) v := if_pos hv

/-- A parked field that no neighbour's current defers wakes. -/
theorem wakeEffect_wakes {s : State} {v : Nat} (hv : v ≤ 89) (hp : fieldParked s v = true) (hd : wakeDeferred s v = false) :
    fieldPower (wakeEffect s v) v = 3 ∧ getN (wakeEffect s v) (Key.pwrParkCauses v) = 0 := by
  have hf : v < 90 := by omega
  have he : wakeEffect s v = startWake (wakeAsked s v) v := by
    rw [wakeEffect_eq s hv, decideWake, fieldParked_wakeAsked, hp, wakeDeferred_wakeAsked, hd]
    rfl
  rw [he]
  refine ⟨fieldPower_startWake _ _ hf, ?_⟩
  rw [getN_startWake _ _ (fieldObj_causes hf) (by simp), wakeAsked, getN_setN_same]

/-- One that is deferred waits. -/
theorem wakeEffect_defers {s : State} {v : Nat} (hv : v ≤ 89) (hp : fieldParked s v = true) (hd : wakeDeferred s v = true) :
    fieldPower (wakeEffect s v) v = fieldPower s v ∧ (getField (wakeEffect s v) v).wakeWaiting = true ∧
      bit (stGet (wakeEffect s v).raised Key.powerFlags) 4 = true := by
  have he : wakeEffect s v = raise (setField (wakeAsked s v) v { getField (wakeAsked s v) v with wakeWaiting := true, wakeDue := false })
      Key.powerFlags 4 := by
    rw [wakeEffect_eq s hv, decideWake, fieldParked_wakeAsked, hp, wakeDeferred_wakeAsked, hd]
    rfl
  rw [he]
  refine ⟨?_, ?_, bit_raised_raise _ _ _⟩
  · rw [fieldPower, getN_raise, getN_setField]
    exact fieldPower_wakeAsked s v
  · rw [getField_congr (raise_power _ _ _), getField_setField_same]

/-! ### WAKE_PROCEED and WAKE_DEFER_LIMIT_EXPIRY (R460) -/

/-- A deferred wake that proceeds after a time. -/
theorem startWake_deferred {s : State} {f : Nat} (hf : f < 90) (n : Nat) :
    fieldPower (startWake (addN s (Key.pwrWakeDeferredUs f) 64 n) f) f = 3 ∧
      getN (startWake (addN s (Key.pwrWakeDeferredUs f) 64 n) f) (Key.pwrWakeDeferredUs f) = satAdd 64 (getN s (Key.pwrWakeDeferredUs f)) n := by
  refine ⟨fieldPower_startWake _ _ hf, ?_⟩
  rw [getN_startWake _ _ (fieldObj_deferred hf) (by simp), getN_addN_same]

section Requests
variable {s : State} {w : WReq}

theorem exec_parkRequest_refused (ha : Accepted s Key.parkRequest w) (hv : w.val ≤ 89) (hr : inRun s = true) (hp : fieldPlaced s w.val = true) :
    exec (.parkRequest w) s = .next (emit s (.objStatus Key.parkRequest stWrongState)) :=
  congrArg Host.Outcome.next (ownWrite_refused ha (if_pos ⟨hv, hr, hp⟩) (by decide))

theorem exec_parkRequest_done (ha : Accepted s Key.parkRequest w) (h : inRun s = false ∨ fieldPlaced s w.val = false) :
    exec (.parkRequest w) s = .next (emit (parkEffect s w.val) (.objStatus Key.parkRequest stOk)) := by
  refine congrArg Host.Outcome.next (ownWrite_done ha (if_neg ?_))
  rintro ⟨-, hr, hp⟩
  rcases h with h | h
  · simp [h] at hr
  · simp [h] at hp

/-- Whether WAKE_REQUEST is refused: the field is placed and in RUN, or causes 1, 2 or 5 hold. -/
def wakeBarred (s : State) (v : Nat) : Prop := (inRun s = true ∧ fieldPlaced s v = true) ∨ getN s (Key.pwrParkCauses v) &&& 0x13 ≠ 0

theorem exec_wakeRequest_refused (ha : Accepted s Key.wakeRequest w) (hv : w.val ≤ 89) (h : wakeBarred s w.val) :
    exec (.wakeRequest w) s = .next (emit s (.objStatus Key.wakeRequest stWrongState)) :=
  congrArg Host.Outcome.next (ownWrite_refused ha (if_pos ⟨hv, h⟩) (by decide))

theorem exec_wakeRequest_done (ha : Accepted s Key.wakeRequest w) (h : ¬wakeBarred s w.val) :
    exec (.wakeRequest w) s = .next (emit (wakeEffect s w.val) (.objStatus Key.wakeRequest stOk)) :=
  congrArg Host.Outcome.next (ownWrite_done ha (if_neg fun hb => h hb.2))

end Requests

section Deferred
variable {s : State} {f : Nat}

/-- A wake that is still deferred does not proceed. -/
theorem exec_wakeProceed_deferred (hd : wakeDeferred s f = true) : exec (.wakeProceed f) s = .next s := by
  show execWakeProceed f s = _
  exact if_pos (.inr (.inr hd))

variable (hf : f < 90) (hw : (getField s f).wakeWaiting = true)
include hf hw

theorem exec_wakeProceed_wakes (hd : wakeDeferred s f = false) : exec (.wakeProceed f) s = .next
    (startWake (addN (drawFree s).2 (Key.pwrWakeDeferredUs f) 64 ((drawFree s).1 % (1000 * getN s Key.wakeDeferLimitMs + 1))) f) := by
  show execWakeProceed f s = _
  exact if_neg (by simp [hw, hd]; omega)

theorem exec_wakeDeferLimitExpiry : exec (.wakeDeferLimitExpiry f) s = .next
    (startWake (addN s (Key.pwrWakeDeferredUs f) 64 (1000 * getN s Key.wakeDeferLimitMs)) f) := by
  show execWakeDeferLimitExpiry f s = _
  exact if_neg (by simp [hw]; omega)

end Deferred

/-- Settles O50: each command by what its operation on the field leaves. -/
theorem fieldsHeatParkAndWake : Obligations.FieldsHeatParkAndWake := by
  unfold Obligations.FieldsHeatParkAndWake
  refine ⟨fun s f xs temp hf => ⟨fun hn hu ht => thermalSample_blind hf hn hu ht, fun hn ht => ?_⟩, fun s f hf hb ht => ?_,
    fun s w ha hv => ⟨exec_parkRequest_refused ha hv, fun h hu => ?_⟩,
    fun s w ha hv => ⟨exec_wakeRequest_refused ha hv, fun hb hp hd => ?_, fun hb hp hd => ?_⟩,
    fun s f hf hw => ⟨exec_wakeProceed_deferred, fun hd => ?_, ?_⟩, fun s f hr hd => ?_⟩
  · obtain ⟨htemp, hfailed⟩ := thermalSample_written (s := s) hf (xs := xs) (t := temp)
    refine ⟨_, exec_thermalSample_some hf ht, htemp, hfailed, fun hr htrip => ?_, fun hr hlow hshut => ?_, fun hlow hpark hu hb => ?_,
      fun hlow hcool => thermalSample_stays hf hn (trips_of_lt f hlow) hcool⟩
    · obtain ⟨hpower, hstate, hlost, -⟩ := thermalSample_trips (s := s) hf (xs := xs) (t := temp)
        (by rw [trips_sampled hf hn, trips, hr, decide_eq_true htrip]; rfl)
      exact ⟨hpower, hstate, hlost⟩
    · exact thermalSample_shuts hf hn (trips_of_lt f hlow) hr hshut
    · exact thermalSample_parks hf hn (trips_of_lt f hlow) hpark hu hb
  · show execUnparkHoldExpiry f s = _
    exact if_neg (by simp [hb]; omega)
  · obtain ⟨hpower, hcause, hreq, hout⟩ := parkEffect_parks hv hu
    refine ⟨_, exec_parkRequest_done ha h, ?_, ?_, ?_, ?_⟩
    · rw [fieldPower, getN_emit]
      exact hpower
    · rw [getN_emit, hcause]
    · rw [getN_emit, hreq]
    · exact congrArg (· ++ _) hout
  · obtain ⟨hpower, hcause⟩ := wakeEffect_wakes hv hp hd
    refine ⟨_, exec_wakeRequest_done ha hb, ?_, ?_, List.mem_append_right _ (List.mem_singleton.mpr rfl)⟩
    · rw [fieldPower, getN_emit]
      exact hpower
    · rw [getN_emit, hcause]
  · obtain ⟨hpower, hwait, hflag⟩ := wakeEffect_defers hv hp hd
    exact ⟨_, exec_wakeRequest_done ha hb, (getN_emit _ _ _).trans hpower, hwait, hflag⟩
  · obtain ⟨hpower, htime⟩ := startWake_deferred (s := (drawFree s).2) hf ((drawFree s).1 % (1000 * getN s Key.wakeDeferLimitMs + 1))
    exact ⟨_, _, exec_wakeProceed_wakes hf hw hd, hpower, Nat.lt_succ_iff.mp (Nat.mod_lt _ (Nat.succ_pos _)), htime⟩
  · obtain ⟨hpower, htime⟩ := startWake_deferred (s := s) hf (1000 * getN s Key.wakeDeferLimitMs)
    exact ⟨_, exec_wakeDeferLimitExpiry hf hw, hpower, wakeWaiting_startWake _ _, htime⟩
  · have hf : f < 90 := by simp only [regOn, Bool.and_eq_true, decide_eq_true_eq] at hr; exact hr.1
    refine ⟨dropField s f 0 3, ?_, regState_dropField _ _ _ hf, fieldPower_dropField _ _ _ hf, dropField_lost _ _ _ _⟩
    show execFieldShutDrainEnd f s = _
    exact if_neg (by simp [hr, hd])

end Sys2Proof.Machine


/-! SUPPORT. What a core's SRAM holds after writes (04_core.md R78, R82; R8): byte strings that read back, whole and in parts, the poison bits
of their lines, and the fields of the core that no write reaches. -/

namespace Sys2Proof.Machine

/-! ### Byte strings in memory (R8) -/

/-- Memory holds a byte string from an address on. -/
def HoldsBytes (m : Mem) (a : Nat) (bs : List Byte) : Prop := memBytes m a bs.length = bs

theorem memBytes_add (m : Mem) (a k n : Nat) : memBytes m a (k + n) = memBytes m a k ++ memBytes m (a + k) n := by
  induction k generalizing a with
  | zero => simp [memBytes]
  | succ k ih => rw [Nat.add_right_comm, memBytes, ih, memBytes, List.cons_append, Nat.add_right_comm a 1 k, ← Nat.add_assoc]

theorem getElem_memBytes (m : Mem) (a n i : Nat) (h : i < (memBytes m a n).length) : (memBytes m a n)[i] = memRead m (a + i) := by
  induction n generalizing a i with
  | zero => exact absurd h (Nat.not_lt_zero i)
  | succ n ih =>
    cases i with
    | zero => rfl
    | succ i => exact (ih (a + 1) i _).trans (by rw [Nat.add_right_comm, Nat.add_assoc])

theorem holdsBytes_memStore (m : Mem) (a : Nat) (bs : List Byte) : HoldsBytes (memStore m a bs) a bs := memBytes_store_same m a bs

namespace HoldsBytes
variable {m : Mem} {a : Nat}

theorem append {xs ys : List Byte} (h : HoldsBytes m a (xs ++ ys)) : HoldsBytes m a xs ∧ HoldsBytes m (a + xs.length) ys := by
  unfold HoldsBytes at h
  rw [List.length_append, memBytes_add] at h
  exact List.append_inj h (length_memBytes ..)

theorem append_at {xs ys : List Byte} (h : HoldsBytes m a (xs ++ ys)) {n : Nat} (hn : xs.length = n) :
    HoldsBytes m a xs ∧ HoldsBytes m (a + n) ys := hn ▸ h.append

theorem byte {bs : List Byte} (h : HoldsBytes m a bs) {i : Nat} (hi : i < bs.length) : memRead m (a + i) = bs[i] := by
  have hb := getElem_memBytes m a bs.length i (by rwa [length_memBytes])
  rw [← hb]
  exact List.getElem_of_eq h _

/-- Of strings of one length put one after the other, each is held at its own place. -/
theorem flatMap {α : Type} {xs : List α} {f : α → List Byte} {n : Nat} (h : HoldsBytes m a (xs.flatMap f)) (hn : ∀ x, (f x).length = n)
    {k : Nat} (hk : k < xs.length) : HoldsBytes m (a + n * k) (f xs[k]) := by
  induction xs generalizing a k with
  | nil => exact absurd hk (Nat.not_lt_zero k)
  | cons x xs ih =>
    obtain ⟨hx, hxs⟩ := h.append
    cases k with
    | zero => exact hx
    | succ k =>
      have hp := ih hxs (Nat.lt_of_succ_lt_succ hk)
      rwa [hn, Nat.add_assoc, Nat.add_comm n, ← Nat.mul_succ] at hp

/-- A number held reads as itself modulo its bytes (R8). -/
theorem number {n v : Nat} (h : HoldsBytes m a (leBytes n v)) : leNat (memBytes m a n) = v % 256 ^ n := by
  have hb : memBytes m a n = leBytes n v := by simpa [HoldsBytes] using h
  rw [hb, leNat_leBytes]

theorem congr {m' : Mem} {bs : List Byte} (h : HoldsBytes m a bs) (hm : ∀ x, a ≤ x → x < a + bs.length → memRead m' x = memRead m x) :
    HoldsBytes m' a bs := (memBytes_congr hm).trans h

end HoldsBytes

theorem sramWord_of_holds {c : Core} {a v : Nat} (h : HoldsBytes c.sram a (leBytes 4 v)) : sramWord c a = BitVec.ofNat 32 v :=
  by
  rw [sramWord, sramRead, h.number]
  exact BitVec.eq_of_toNat_eq (by simp)

/-! ### One write (R82) -/

@[simp] theorem sramRead_sramWrite_same (c : Core) (a : Nat) (bs : List Byte) (p : Bool) : sramRead (sramWrite c a bs p) a bs.length = bs :=
  memBytes_store_same c.sram a bs

theorem sramRead_sramWrite_of_length (c : Core) (a n : Nat) (bs : List Byte) (p : Bool) (hn : bs.length = n) :
    sramRead (sramWrite c a bs p) a n = bs := hn ▸ sramRead_sramWrite_same c a bs p

theorem mem_linesOf (a n l : Nat) : l ∈ linesOf a n ↔ a / 64 ≤ l ∧ l < (a + n + 63) / 64 := by
  rw [linesOf, mem_upFrom]
  omega

theorem mem_nsDel (n k : Nat) (ks : List Nat) : k ∈ nsDel n ks ↔ k ∈ ks ∧ k ≠ n := by
  simp [nsDel]

theorem mem_foldl_poisonLine (a n : Nat) (p : Bool) (ls ps : List Nat) (l : Nat) :
    l ∈ ls.foldl (poisonLine a n p) ps ↔
      if p then l ∈ ls ∨ l ∈ ps else l ∈ ps ∧ ¬(l ∈ ls ∧ a ≤ 64 * l ∧ 64 * l + 64 ≤ a + n) := by
  induction ls generalizing ps with
  | nil => cases p <;> simp
  | cons k ks ih =>
    rw [List.foldl_cons, ih]
    cases p with
    | true => simp [poisonLine, mem_nsIns, or_left_comm, or_assoc]
    | false =>
      by_cases hk : a ≤ 64 * k ∧ 64 * k + 64 ≤ a + n
      · simp only [poisonLine, hk, and_self, if_true, if_false, Bool.false_eq_true, mem_nsDel, List.mem_cons]
        grind
      · simp only [poisonLine, hk, if_false, Bool.false_eq_true, List.mem_cons]
        grind

/-- The poisoned lines after a write: a poisoned write adds the lines that it touches, a clean one takes away those that it covers (R82). -/
theorem mem_poisonLines_sramWrite (c : Core) (a : Nat) (bs : List Byte) (p : Bool) (l : Nat) :
    l ∈ (sramWrite c a bs p).poisonLines ↔
      if p then l ∈ linesOf a bs.length ∨ l ∈ c.poisonLines
      else l ∈ c.poisonLines ∧ ¬(a ≤ 64 * l ∧ 64 * l + 64 ≤ a + bs.length) := by
  refine (mem_foldl_poisonLine a bs.length p _ _ l).trans ?_
  rw [mem_linesOf]
  split
  · rfl
  · exact and_congr_right fun _ => not_congr ⟨And.right, fun h => ⟨by omega, h⟩⟩

/-! ### The fields that a write leaves -/

/-- A core after changes of its SRAM, its poison bits and the words that wait for their write-back. -/
def SramChange (c d : Core) : Prop := ∃ m p w, d = { c with sram := m, poisonLines := p, writeback := w }

theorem SramChange.refl (c : Core) : SramChange c c := ⟨_, _, _, rfl⟩

theorem SramChange.trans {c d e : Core} (h : SramChange c d) (h' : SramChange d e) : SramChange c e := by
  obtain ⟨_, _, _, rfl⟩ := h
  obtain ⟨m, p, w, rfl⟩ := h'
  exact ⟨m, p, w, rfl⟩

theorem sramWrite_sramChange (c : Core) (a : Nat) (bs : List Byte) (p : Bool) : SramChange c (sramWrite c a bs p) := ⟨_, _, _, rfl⟩

/-! ### Writes one after the other -/

/-- A write to SRAM. -/
structure SramPut where
  addr : Nat
  bytes : List Byte
  poison : Bool

/-- The core after writes in their order. -/
def sramPuts (ws : List SramPut) (c : Core) : Core := ws.foldl (fun d w => sramWrite d w.addr w.bytes w.poison) c

/-- A write that ends where another begins, or before. -/
def SramPut.Below (v w : SramPut) : Prop := v.addr + v.bytes.length ≤ w.addr

/-- A write of whole lines. -/
structure SramPut.WholeLines (w : SramPut) : Prop where
  start : w.addr % 64 = 0
  length : w.bytes.length % 64 = 0
  some : 0 < w.bytes.length

theorem sramPuts_sramChange (ws : List SramPut) (c : Core) : SramChange c (sramPuts ws c) :=
  List.foldlRecOn (motive := SramChange c) ws _ (.refl c) fun d h w _ => h.trans (sramWrite_sramChange d w.addr w.bytes w.poison)

/-- A byte below every write reads as before. -/
theorem memRead_sramPuts_below {ws : List SramPut} {x : Nat} (h : ∀ w ∈ ws, x < w.addr) (c : Core) :
    memRead (sramPuts ws c).sram x = memRead c.sram x :=
  List.foldlRecOn (motive := fun d : Core => memRead d.sram x = memRead c.sram x) ws _ rfl fun d hd w hw => by
    rw [sramWrite_sram, memRead_store_other _ _ _ _ (.inl (h w hw)), hd]

/-- A line below every write, all of them starting on a line, keeps its poison bit. -/
theorem mem_poisonLines_sramPuts_below {ws : List SramPut} {l : Nat} (ha : ∀ w ∈ ws, w.addr % 64 = 0) (h : ∀ w ∈ ws, 64 * l + 64 ≤ w.addr)
    (c : Core) : l ∈ (sramPuts ws c).poisonLines ↔ l ∈ c.poisonLines :=
  List.foldlRecOn (motive := fun d : Core => l ∈ d.poisonLines ↔ l ∈ c.poisonLines) ws _ Iff.rfl fun d hd w hw => by
    have := ha w hw
    have := h w hw
    have hl : l ∉ linesOf w.addr w.bytes.length := by rw [mem_linesOf]; omega
    have hc : ¬(w.addr ≤ 64 * l ∧ 64 * l + 64 ≤ w.addr + w.bytes.length) := by omega
    rw [mem_poisonLines_sramWrite]
    split <;> simp [hl, hc, hd]

section InOrder
variable {ws : List SramPut} (hp : ws.Pairwise SramPut.Below) {w : SramPut} (hw : w ∈ ws) (c : Core)
include hp hw

/-- Each of several writes in rising order reads back. -/
theorem holdsBytes_sramPuts : HoldsBytes (sramPuts ws c).sram w.addr w.bytes := by
  induction ws generalizing c with
  | nil => exact absurd hw List.not_mem_nil
  | cons v vs ih =>
    obtain ⟨hv, hvs⟩ := List.pairwise_cons.mp hp
    rcases List.mem_cons.mp hw with rfl | hw
    · exact (holdsBytes_memStore c.sram w.addr w.bytes).congr fun x _ hx =>
        memRead_sramPuts_below (fun u hu => lt_of_lt_of_le hx (hv u hu)) (sramWrite c w.addr w.bytes w.poison)
    · exact ih hvs hw _

/-- Where all start on a line, the lines of one of whole lines have its poison. -/
theorem mem_poisonLines_sramPuts (ha : ∀ v ∈ ws, v.addr % 64 = 0) (hl : w.WholeLines) {l : Nat} (hx : l ∈ linesOf w.addr w.bytes.length) :
    l ∈ (sramPuts ws c).poisonLines ↔ w.poison = true := by
  induction ws generalizing c with
  | nil => exact absurd hw List.not_mem_nil
  | cons v vs ih =>
    obtain ⟨hv, hvs⟩ := List.pairwise_cons.mp hp
    have ha' : ∀ u ∈ vs, u.addr % 64 = 0 := fun u hu => ha u (List.mem_cons_of_mem _ hu)
    rcases List.mem_cons.mp hw with rfl | hw
    · have hs := hl.start
      have hn := hl.length
      have hline := (mem_linesOf _ _ _).mp hx
      refine (mem_poisonLines_sramPuts_below ha' (fun u hu => ?_) (sramWrite c w.addr w.bytes w.poison)).trans ?_
      · have : w.addr + w.bytes.length ≤ u.addr := hv u hu
        omega
      · have hc : w.addr ≤ 64 * l ∧ 64 * l + 64 ≤ w.addr + w.bytes.length := by omega
        rw [mem_poisonLines_sramWrite]
        cases w.poison <;> simp [hx, hc]
    · exact ih hvs hw _ ha'

/-- An access of just those lines meets its poison. -/
theorem sramPoisoned_sramPuts (ha : ∀ v ∈ ws, v.addr % 64 = 0) (hl : w.WholeLines) :
    sramPoisoned (sramPuts ws c) w.addr w.bytes.length = w.poison := by
  have hline := fun {l} hx => mem_poisonLines_sramPuts hp hw c ha hl (l := l) hx
  have hfirst : w.addr / 64 ∈ linesOf w.addr w.bytes.length := by
    have := hl.some
    rw [mem_linesOf]
    omega
  rw [Bool.eq_iff_iff, sramPoisoned, List.any_eq_true]
  constructor
  · rintro ⟨l, hx, h⟩
    exact (hline hx).mp (List.contains_iff_mem.mp h)
  · exact fun h => ⟨_, hfirst, List.contains_iff_mem.mpr ((hline hfirst).mpr h)⟩

end InOrder

end Sys2Proof.Machine


/-! SUPPORT and PROOFS. The context of a core saved and read back (04_core.md R92, R93, R96, R135): the save is a list of writes in rising
order, each field is read back from its own place, and O19. -/

namespace Sys2Proof.Machine

@[simp] theorem getElem_vecOf {α : Type} {n : Nat} (f : Nat → α) (i : Nat) (h : i < n) : (vecOf n f)[i] = f i := by simp [vecOf]

theorem vecOf_eq {α : Type} {n : Nat} {f : Nat → α} {v : Vector α n} (h : ∀ i (hi : i < n), f i = v[i]) : vecOf n f = v :=
  Vector.ext fun i hi => (getElem_vecOf f i hi).trans (h i hi)

/-! ### The save as a list of writes (R93) -/

/-- The bytes of the words of an accumulator tile. -/
def accBytes (t : AccTile) : List Byte := t.words.toList.flatMap fun w => leBytes 4 w.toNat

/-- The write of accumulator tile `i`. -/
def accPutAt (c : Core) (i : Nat) : SramPut :=
  let t := c.acc[i]?.getD ⟨Vector.replicate 256 0, 0, false⟩
  ⟨contextBase + 1024 * i, accBytes t, t.poison⟩

/-- The write of segment `s` of staging tile `i`. -/
def segPutAt (c : Core) (i s : Nat) : SramPut :=
  ⟨contextBase + 0x1000 + 1024 * i + 64 * s, slice (stgGet c i).bytes.toList (64 * s) 64, (stgGet c i).poison[s]?.getD false⟩

/-- The writes of the accumulators, of the staging tiles, and of the rest of the context. -/
def accPuts (c : Core) : List SramPut := (List.range 4).map (accPutAt c)
def segPuts (c : Core) : List SramPut := (List.range 4).flatMap fun i => (List.range 16).map (segPutAt c i)
def tailPut (c : Core) : SramPut := ⟨contextBase + 0x2000, contextTail c, false⟩
def contextPuts (c : Core) : List SramPut := accPuts c ++ segPuts c ++ [tailPut c]

theorem saveContext_eq (c : Core) : saveContext c = sramPuts (contextPuts c) c := by
  simp only [sramPuts, contextPuts, accPuts, segPuts, List.foldl_append, List.foldl_map, List.foldl_flatMap]
  rfl

theorem saveContext_sramChange (c : Core) : SramChange c (saveContext c) := saveContext_eq c ▸ sramPuts_sramChange _ c

theorem length_flatMap_of_length {α : Type} {f : α → List Byte} {n : Nat} (hn : ∀ x, (f x).length = n) (xs : List α) :
    (xs.flatMap f).length = n * xs.length := by
  simp [List.length_flatMap, hn, Nat.mul_comm]

theorem length_vectorBytes {w n : Nat} (k : Nat) (v : Vector (BitVec w) n) : (v.toList.flatMap fun x => leBytes k x.toNat).length = k * n := by
  rw [length_flatMap_of_length (fun x => length_leBytes k (BitVec.toNat x)), Vector.length_toList]

@[simp] theorem length_accBytes (t : AccTile) : (accBytes t).length = 1024 := length_vectorBytes 4 t.words

@[simp] theorem length_slice (bs : List Byte) (off n : Nat) : (slice bs off n).length = n := by simp [slice_eq_map_range]

theorem mem_accPuts {c : Core} {w : SramPut} : w ∈ accPuts c ↔ ∃ i < 4, accPutAt c i = w := by simp [accPuts]

theorem mem_segPuts {c : Core} {w : SramPut} : w ∈ segPuts c ↔ ∃ i < 4, ∃ s < 16, segPutAt c i s = w := by simp [segPuts]

theorem contextPuts_inOrder (c : Core) : (contextPuts c).Pairwise SramPut.Below := by
  have hacc : (accPuts c).Pairwise SramPut.Below := by
    refine List.pairwise_map.mpr (List.pairwise_lt_range.imp fun {i j} h => ?_)
    simp only [SramPut.Below, accPutAt, length_accBytes]
    omega
  have hseg : (segPuts c).Pairwise SramPut.Below := by
    refine List.pairwise_flatMap.mpr ⟨fun i _ => List.pairwise_map.mpr (List.pairwise_lt_range.imp fun {s t} h => ?_),
      List.pairwise_lt_range.imp fun {i j} h v hv w hw => ?_⟩
    · simp only [SramPut.Below, segPutAt, length_slice]
      omega
    · obtain ⟨s, hs, rfl⟩ := List.mem_map.mp hv
      obtain ⟨t, _, rfl⟩ := List.mem_map.mp hw
      have := List.mem_range.mp hs
      simp only [SramPut.Below, segPutAt, length_slice]
      omega
  refine List.pairwise_append.mpr
    ⟨List.pairwise_append.mpr ⟨hacc, hseg, fun v hv w hw => ?_⟩, List.pairwise_singleton _ _, fun v hv w hw => ?_⟩
  · obtain ⟨i, hi, rfl⟩ := mem_accPuts.mp hv
    obtain ⟨j, _, s, _, rfl⟩ := mem_segPuts.mp hw
    simp only [SramPut.Below, accPutAt, segPutAt, length_accBytes]
    omega
  · obtain rfl := List.mem_singleton.mp hw
    rcases List.mem_append.mp hv with hv | hv
    · obtain ⟨i, hi, rfl⟩ := mem_accPuts.mp hv
      simp only [SramPut.Below, accPutAt, tailPut, length_accBytes]
      omega
    · obtain ⟨i, hi, s, hs, rfl⟩ := mem_segPuts.mp hv
      simp only [SramPut.Below, segPutAt, tailPut, length_slice]
      omega

/-- Every write starts on a line of the context area (R84). -/
theorem contextPuts_start {c : Core} {w : SramPut} (hw : w ∈ contextPuts c) : contextBase ≤ w.addr ∧ w.addr % 64 = 0 := by
  rcases List.mem_append.mp hw with hw | hw
  · rcases List.mem_append.mp hw with hw | hw
    · obtain ⟨i, _, rfl⟩ := mem_accPuts.mp hw
      simp only [accPutAt, contextBase]
      omega
    · obtain ⟨i, _, s, _, rfl⟩ := mem_segPuts.mp hw
      simp only [segPutAt, contextBase]
      omega
  · obtain rfl := List.mem_singleton.mp hw
    exact ⟨Nat.le_add_right .., (by decide : (contextBase + 0x2000) % 64 = 0)⟩

/-! ### The context read back (R92, R135) -/

/-- A core whose context area holds the context of `c`, and whose tiles have the fill counts of `c`. -/
structure ContextOf (c e : Core) : Prop where
  sram : e.sram = (saveContext c).sram
  poisonLines : e.poisonLines = (saveContext c).poisonLines
  stg : e.stg = c.stg

namespace ContextOf
variable {c e : Core} (h : ContextOf c e)
include h

theorem holds {w : SramPut} (hw : w ∈ contextPuts c) : HoldsBytes e.sram w.addr w.bytes := by
  rw [h.sram, saveContext_eq]
  exact holdsBytes_sramPuts (contextPuts_inOrder c) hw c

theorem poisoned {w : SramPut} (hw : w ∈ contextPuts c) (hl : w.WholeLines) : sramPoisoned e w.addr w.bytes.length = w.poison := by
  have hp : sramPoisoned e w.addr w.bytes.length = sramPoisoned (saveContext c) w.addr w.bytes.length := by
    simp only [sramPoisoned, h.poisonLines]
  rw [hp, saveContext_eq]
  exact sramPoisoned_sramPuts (contextPuts_inOrder c) hw c (fun _ hv => (contextPuts_start hv).2) hl

theorem memRead_below {a : Nat} (ha : a < contextBase) : memRead e.sram a = memRead c.sram a := by
  rw [h.sram, saveContext_eq]
  exact memRead_sramPuts_below (fun w hw => lt_of_lt_of_le ha (contextPuts_start hw).1) c

theorem acc (i : Nat) (hi : i < 4) :
    (restoreContext e).acc[i].words = c.acc[i].words ∧ (restoreContext e).acc[i].poison = c.acc[i].poison := by
  have hput : accPutAt c i = ⟨contextBase + 1024 * i, accBytes c.acc[i], c.acc[i].poison⟩ := by simp [accPutAt, hi]
  have hmem : accPutAt c i ∈ contextPuts c :=
    List.mem_append_left _ (List.mem_append_left _ (mem_accPuts.mpr ⟨i, hi, rfl⟩))
  have hheld := h.holds hmem
  have hpois := h.poisoned hmem
  rw [hput] at hheld hpois
  have hacc : (restoreContext e).acc[i] = accOf (vecOf 256 fun k => sramWord e (contextBase + 1024 * i + 4 * k))
      (sramPoisoned e (contextBase + 1024 * i) 1024) := getElem_vecOf _ i hi
  rw [hacc]
  refine ⟨vecOf_eq fun k hk => ?_, ?_⟩
  · have hw := sramWord_of_holds (hheld.flatMap (fun w => length_leBytes 4 _) (k := k) (by simpa using hk))
    simpa using hw
  · have hl : SramPut.WholeLines ⟨contextBase + 1024 * i, accBytes c.acc[i], c.acc[i].poison⟩ :=
      ⟨by simp only [contextBase]; omega, by simp, by simp⟩
    simpa [accOf] using hpois hl

theorem segment {i k : Nat} (hi : i < 4) (hk : k < 16) :
    HoldsBytes e.sram (contextBase + 0x1000 + 1024 * i + 64 * k) (slice c.stg[i].bytes.toList (64 * k) 64) ∧
      sramPoisoned e (contextBase + 0x1000 + 1024 * i + 64 * k) 64 = c.stg[i].poison[k] := by
  have hput : segPutAt c i k =
      ⟨contextBase + 0x1000 + 1024 * i + 64 * k, slice c.stg[i].bytes.toList (64 * k) 64, c.stg[i].poison[k]⟩ := by
    simp [segPutAt, stgGet, hi, hk]
  have hmem : segPutAt c i k ∈ contextPuts c :=
    List.mem_append_left _ (List.mem_append_right _ (mem_segPuts.mpr ⟨i, hi, k, hk, rfl⟩))
  have hheld := h.holds hmem
  have hpois := h.poisoned hmem
  rw [hput] at hheld hpois
  refine ⟨hheld, ?_⟩
  simpa using hpois ⟨by simp only [contextBase]; omega, by simp, by simp⟩

/-- Byte `j` of staging tile `i`. -/
theorem stgByte {i j : Nat} (hi : i < 4) (hj : j < 1024) : memRead e.sram (contextBase + 0x1000 + 1024 * i + j) = c.stg[i].bytes[j] := by
  have hheld := (h.segment hi (k := j / 64) (by omega)).1.byte (i := j % 64) (by rw [length_slice]; omega)
  have hj' : 64 * (j / 64) + j % 64 = j := Nat.div_add_mod j 64
  rw [Nat.add_assoc _ (64 * (j / 64)), hj'] at hheld
  rw [hheld]
  simp [slice_eq_map_range, hj', hj]

end ContextOf

/-- The parts of the context area from 0x2000 on that a restore reads (R93). -/
structure TailHeld (m : Mem) (c : Core) : Prop where
  x : HoldsBytes m (contextBase + 0x2000) (c.x.toList.flatMap fun v => leBytes 4 v.toNat)
  ag : HoldsBytes m (contextBase + 0x2080) (c.ag.toList.flatMap agBytes)
  loops : HoldsBytes m (contextBase + 0x2100) (c.loops.toList.flatMap fun v => leBytes 4 v.toNat)
  pc : HoldsBytes m (contextBase + 0x2110) (leBytes 4 c.pc)
  rings : HoldsBytes m (contextBase + 0x2120) ((List.range 8).flatMap fun r => leBytes 4 (ringRdPtr c r) ++ leBytes 4 (ringWrPtr c r))
  lanes : HoldsBytes m (contextBase + 0x2160) (c.lanes.toList.flatMap fun v => leBytes 8 v.toNat)
  scales : HoldsBytes m (contextBase + 0x21F0) (c.stg.toList.flatMap fun t => t.scales.toList)

@[simp] theorem length_agBytes (g : Ag) : (agBytes g).length = 16 := length_leBytes ..

/-- An address generator reads back from its bytes (R163). -/
theorem agOf_agBytes (g : Ag) : agOf (leNat (agBytes g)) = g := by
  obtain ⟨base, innerCount, cursor, innerLeft, innerStep, outerStep⟩ := g
  have h1 := base.isLt
  have h2 := innerCount.isLt
  have h3 := cursor.isLt
  have h4 := innerLeft.isLt
  have h5 := innerStep.isLt
  have h6 := outerStep.isLt
  rw [agBytes, leNat_leBytes, Nat.mod_eq_of_lt (by omega)]
  simp only [agOf, bits, Ag.mk.injEq]
  refine ⟨?_, ?_, ?_, ?_, ?_, ?_⟩ <;> refine BitVec.eq_of_toNat_eq ?_ <;> rw [BitVec.toNat_ofNat] <;> omega

theorem tailHeld_of_holds {m : Mem} {c : Core} (h : HoldsBytes m (contextBase + 0x2000) (contextTail c)) : TailHeld m c := by
  have hx : (c.x.toList.flatMap fun v => leBytes 4 v.toNat).length = 0x80 := length_vectorBytes 4 c.x
  have hag : (c.ag.toList.flatMap agBytes).length = 0x80 := by rw [length_flatMap_of_length length_agBytes, Vector.length_toList]
  have hloops : (c.loops.toList.flatMap fun v => leBytes 4 v.toNat).length = 0x10 := length_vectorBytes 4 c.loops
  have hpc : (leBytes 4 c.pc ++ leBytes 4 0 ++ leBytes 4 c.excCause ++ leBytes 4 0).length = 0x10 := by simp
  have hrings : ((List.range 8).flatMap fun r => leBytes 4 (ringRdPtr c r) ++ leBytes 4 (ringWrPtr c r)).length = 0x40 := by
    rw [length_flatMap_of_length (n := 8) fun r => by simp, List.length_range]
  have hlanes : (c.lanes.toList.flatMap fun v => leBytes 8 v.toNat).length = 0x80 := length_vectorBytes 8 c.lanes
  have hflags : (leBytes 4 c.stickyA.toNat ++ leBytes 4 c.stickyV.toNat ++ leBytes 4 c.stickyC.toNat ++
      leBytes 4 (c.beatA.toNat + c.beatV.toNat * 16 + c.beatC.toNat * 256)).length = 0x10 := by simp
  have hlen : ∀ {xs ys : List Byte} {n k : Nat}, xs.length = n → ys.length = k → (xs ++ ys).length = n + k :=
    fun hxs hys => by rw [List.length_append, hxs, hys]
  have h2 := hlen hx hag
  have h3 := hlen h2 hloops
  have h4 := hlen h3 hpc
  have h5 := hlen h4 hrings
  have h6 := hlen h5 hlanes
  obtain ⟨h, scales⟩ := h.append_at (hlen h6 hflags)
  obtain ⟨h, -⟩ := h.append_at h6
  obtain ⟨h, lanes⟩ := h.append_at h5
  obtain ⟨h, rings⟩ := h.append_at h4
  obtain ⟨h, pc⟩ := h.append_at h3
  obtain ⟨h, loops⟩ := h.append_at h2
  obtain ⟨x, ag⟩ := h.append_at hx
  exact ⟨x, ag, loops, pc.append.1.append.1.append.1, rings, lanes, scales⟩

namespace ContextOf
variable {c e : Core} (h : ContextOf c e)
include h

theorem tail : TailHeld e.sram c := tailHeld_of_holds (h.holds (w := tailPut c) (List.mem_append_right _ (List.mem_singleton_self _)))

theorem x : (restoreContext e).x = c.x := vecOf_eq fun i hi => by
  have hw := sramWord_of_holds (h.tail.x.flatMap (fun v => length_leBytes 4 _) (k := i) (by simpa using hi))
  simpa using hw

theorem loops : (restoreContext e).loops = c.loops := vecOf_eq fun i hi => by
  have hw := sramWord_of_holds (h.tail.loops.flatMap (fun v => length_leBytes 4 _) (k := i) (by simpa using hi))
  simpa using hw

theorem lanes : (restoreContext e).lanes = c.lanes := vecOf_eq fun i hi => by
  have hw := (h.tail.lanes.flatMap (fun v => length_leBytes 8 _) (k := i) (by simpa using hi)).number
  rw [sramRead, hw]
  refine BitVec.eq_of_toNat_eq ?_
  simpa using c.lanes[i].isLt

theorem ag : (restoreContext e).ag = c.ag := vecOf_eq fun i hi => by
  have hw : memBytes e.sram _ 16 = agBytes _ := h.tail.ag.flatMap length_agBytes (k := i) (by simpa using hi)
  rw [sramRead, hw, agOf_agBytes, Vector.getElem_toList]

theorem pc : (restoreContext e).pc = c.pc % 2 ^ 32 := by
  have hw := sramWord_of_holds h.tail.pc
  exact (congrArg BitVec.toNat hw).trans (BitVec.toNat_ofNat ..)

theorem ringRd (r : Nat) (hr : r < 8) : (restoreContext e).ringRd[r] = c.ringRd[r] % 2 ^ 32 := by
  have hw := sramWord_of_holds (h.tail.rings.flatMap (n := 8) (fun r => by simp) (k := r) (by simpa using hr)).append.1
  refine (getElem_vecOf _ r hr).trans ?_
  rw [hw]
  simp [ringRdPtr, hr]

theorem stg_eq (i : Nat) (hi : i < 4) : (restoreContext e).stg[i] = { c.stg[i] with fill := c.stg[i].fill + 1 } := by
  have hscales := h.tail.scales.flatMap (n := 32) (fun t => by simp) (k := i) (by simpa using hi)
  refine (getElem_vecOf _ i hi).trans ?_
  rw [Staging.mk.injEq]
  refine ⟨vecOf_eq fun j hj => h.stgByte hi hj, vecOf_eq fun k hk => (h.segment hi hk).2, vecOf_eq fun k hk => ?_, ?_⟩
  · rw [hscales.byte (by simpa using hk)]
    simp
  · simp [stgGet, h.stg, hi]

end ContextOf

/-! ### CORE_SUSPEND and CORE_RESUME (R92) -/

theorem exec_coreSuspend (s : State) (id : CoreId) : exec (.coreSuspend id) s = .next (setCore s id (suspendCore (getCore s id))) := rfl

/-- A resume of a suspended core whose reads meet no error. -/
theorem exec_coreResume {s : State} {id : CoreId} (h : (getCore s id).st = .suspended) : exec (.coreResume ⟨id, []⟩) s =
    .next (setCore (setCore s id (getCore s id)) id (resumeCore (setCore s id (getCore s id)) (getCore s id))) := by
  have herrs : contextErrs s id [] = setCore s id (getCore s id) := by
    have hsync : ∀ sc : State × Core, syncErrs [] sc = sc := fun sc => by
      unfold syncErrs
      split
      · split <;> rfl
      · rfl
    simp only [contextErrs, h, hsync]
    rfl
  show Host.Outcome.next (setCore (contextErrs s id []) id (resumeCore (contextErrs s id []) (getCore (contextErrs s id []) id))) = _
  rw [herrs, getCore_setCore_same]

theorem suspendCore_running {c : Core} (h : c.st = .running) :
    suspendCore c = { saveContext c with st := .suspended, wait := none, progressed := true } := by
  simp only [suspendCore, h]

theorem suspendCore_waiting {c : Core} (h : c.st = .waiting) :
    suspendCore c = { saveContext c with st := .suspended, progressed := true } := by
  simp only [suspendCore, h]

/-- A suspended core that waits for nothing runs again with its context read back. -/
theorem resumeCore_of_none {s : State} {c : Core} (h : c.st = .suspended) (hw : c.wait = none) :
    resumeCore s c = { restoreContext c with st := .running } := by
  simp only [resumeCore, h, hw]
  rfl

/-- Settles O19: the suspension saves the context in writes of rising order, and the resume reads each field from its place. -/
theorem suspendThenResumeKeepsTheContext : Obligations.SuspendThenResumeKeepsTheContext := by
  unfold Obligations.SuspendThenResumeKeepsTheContext
  intro s id c hrun
  obtain ⟨m, p, w, hsave⟩ := saveContext_sramChange c
  obtain ⟨e, he⟩ : ∃ e, e = suspendCore c := ⟨_, rfl⟩
  rw [suspendCore_running hrun] at he
  have hctx : ContextOf c e := ⟨by rw [he], by rw [he], by rw [he, hsave]⟩
  have hst : e.st = .suspended := by rw [he]
  have hwait : e.wait = none := by rw [he]
  have hcore : getCore (setCore s id e) id = e := getCore_setCore_same ..
  refine ⟨setCore s id e, _, ?_, by rw [hcore, hst], exec_coreResume (by rw [hcore, hst]), ?_⟩
  · rw [exec_coreSuspend, he, suspendCore_running hrun]
  rw [hcore, getCore_setCore_same, resumeCore_of_none hst hwait]
  refine ⟨rfl, hwait, hctx.x, hctx.ag, hctx.loops, hctx.pc, fun r => hctx.ringRd r r.isLt, ?_, hctx.lanes, ?_, ?_, ?_,
    fun k => hctx.acc k k.isLt, fun k => hctx.stg_eq k k.isLt, fun a ha => hctx.memRead_below ha⟩
  all_goals
    rw [he, hsave]
    rfl

end Sys2Proof.Machine


/-! SUPPORT and PROOFS. Exceptions (04_core.md R94, R95; 05_matrix_array.md R132; 07_tile_programs.md R168, R169): the core that an exception
leaves, its capture and its count, the report, and O18. -/

namespace Sys2Proof.Machine

/-! ### The core and the capture -/

/-- The core that an exception leaves (R94). -/
def faultCore (c : Core) (code pc : Nat) : Core :=
  saveContext { c with
    st := .faulted, excCause := code, excPc := pc, pc := pc, wait := none, progressed := true
    ex32 := if code = 8 then none else c.ex32 }

/-- The capture of an exception where it is empty (R169). -/
def excCaptured (s : State) (id : CoreId) (code pc chunkPc : Nat) : State :=
  if getN s Key.excCaptureEmpty = 1 then
    setN (setN (setN (setN (setN (setN s Key.excCaptureCore (coreWord id)) Key.excCaptureCause code) Key.excCapturePc pc)
      Key.excCaptureChunkPc chunkPc) Key.excCaptureBeat (beatNow s)) Key.excCaptureEmpty 0
  else s

/-- The core replaced and the exception counted. -/
def excCounted (s : State) (id : CoreId) (c : Core) (code pc : Nat) : State :=
  addN (setCore s id (faultCore c code pc)) (Key.excCount 0 + code - 1) 32 1

@[simp] theorem excCounted_out (s : State) (id : CoreId) (c : Core) (code pc : Nat) : (excCounted s id c code pc).out = s.out := by
  simp [excCounted]

theorem takeException_eq (s : State) (id : CoreId) (c : Core) (code pc chunkPc : Nat) (report : List Nat) :
    takeException s id c code pc chunkPc report =
      if code = excArrayCheck then
        emit (excCaptured (excCounted s id c code pc) id code pc chunkPc) (.vc0Report 1 ([coreWord id, code, pc] ++ report))
      else emit (raiseNow (excCaptured (excCounted s id c code pc) id code pc chunkPc) Key.coreFlags 2)
        (.vc0Report 2 [coreWord id, code, pc]) := rfl

theorem faultCore_fields (c : Core) (code pc : Nat) : (faultCore c code pc).st = .faulted ∧ (faultCore c code pc).excCause = code ∧
    (faultCore c code pc).excPc = pc ∧ (faultCore c code pc).pc = pc ∧ (faultCore c code pc).wait = none ∧ (faultCore c code pc).x = c.x := by
  obtain ⟨m, p, w, h⟩ := saveContext_sramChange { c with
    st := .faulted, excCause := code, excPc := pc, pc := pc, wait := none, progressed := true
    ex32 := if code = 8 then none else c.ex32 }
  rw [faultCore, h]
  exact ⟨rfl, rfl, rfl, rfl, rfl, rfl⟩

/-- The objects of the capture. -/
def captureKeys : List Nat :=
  [Key.excCaptureCore, Key.excCaptureCause, Key.excCapturePc, Key.excCaptureChunkPc, Key.excCaptureBeat, Key.excCaptureEmpty]

/-- The counts of the causes stand above the capture and CORE_FLAGS. -/
theorem ne_excCount {k code : Nat} (hk : k < Key.excCount 0) (h : 1 ≤ code) : k ≠ Key.excCount 0 + code - 1 := by omega

section Captured
variable (s : State) (id : CoreId) (code pc chunkPc : Nat)

@[simp] theorem excCaptured_cores : (excCaptured s id code pc chunkPc).cores = s.cores := by
  unfold excCaptured
  split <;> simp

@[simp] theorem excCaptured_out : (excCaptured s id code pc chunkPc).out = s.out := by
  unfold excCaptured
  split <;> simp

/-- The capture writes its own objects only. -/
theorem getN_excCaptured_other {k : Nat} (hk : k ∉ captureKeys) : getN (excCaptured s id code pc chunkPc) k = getN s k := by
  simp only [captureKeys, List.mem_cons, List.not_mem_nil, or_false, not_or] at hk
  obtain ⟨h1, h2, h3, h4, h5, h6⟩ := hk
  unfold excCaptured
  split
  · rw [getN_setN_other _ _ _ _ h6, getN_setN_other _ _ _ _ h5, getN_setN_other _ _ _ _ h4, getN_setN_other _ _ _ _ h3,
      getN_setN_other _ _ _ _ h2, getN_setN_other _ _ _ _ h1]
  · rfl

theorem excCaptured_of_full (h : getN s Key.excCaptureEmpty ≠ 1) : excCaptured s id code pc chunkPc = s := if_neg h

/-- What an empty capture holds after an exception. -/
theorem excCaptured_of_empty (h : getN s Key.excCaptureEmpty = 1) :
    getN (excCaptured s id code pc chunkPc) Key.excCaptureCore = coreWord id ∧
      getN (excCaptured s id code pc chunkPc) Key.excCaptureCause = code ∧ getN (excCaptured s id code pc chunkPc) Key.excCapturePc = pc ∧
      getN (excCaptured s id code pc chunkPc) Key.excCaptureChunkPc = chunkPc ∧
      getN (excCaptured s id code pc chunkPc) Key.excCaptureBeat = beatNow s ∧ getN (excCaptured s id code pc chunkPc) Key.excCaptureEmpty = 0 := by
  unfold excCaptured
  rw [if_pos h]
  simp (disch := decide) only [getN_setN_other, getN_setN_same, and_self]

end Captured

/-! ### What an exception leaves -/

section Exception
variable (s : State) (id : CoreId) (c : Core) (code pc chunkPc : Nat) (report : List Nat)

theorem takeException_cores : (takeException s id c code pc chunkPc report).cores = (setCore s id (faultCore c code pc)).cores := by
  rw [takeException_eq]
  split <;> simp [excCounted]

theorem getCore_takeException : getCore (takeException s id c code pc chunkPc report) id = faultCore c code pc :=
  (getCore_eq _ _ _ (takeException_cores ..)).trans (getCore_setCore_same ..)

theorem getCore_takeException_other {k : CoreId} (hk : coreKey k ≠ coreKey id) :
    getCore (takeException s id c code pc chunkPc report) k = getCore s k :=
  (getCore_eq _ _ _ (takeException_cores ..)).trans (getCore_setCore_other _ _ _ _ hk)

/-- An object that is neither CORE_FLAGS nor the count of its CORE_EXCEPTION reads as the capture leaves it. -/
theorem getN_takeException {k : Nat} (hk : k ≠ Key.coreFlags) (hk' : k ≠ Key.coreFlags + 1 + 2) :
    getN (takeException s id c code pc chunkPc report) k = getN (excCaptured (excCounted s id c code pc) id code pc chunkPc) k := by
  rw [takeException_eq]
  split
  · exact getN_emit ..
  · rw [getN_emit, getN_raiseNow_other _ _ _ _ hk hk']

theorem getN_excCounted_other {k : Nat} (hk : k ≠ Key.excCount 0 + code - 1) : getN (excCounted s id c code pc) k = getN s k := by
  rw [excCounted, getN_addN_other _ _ _ _ _ hk, getN_setCore]

end Exception

/-! ### The fetch (R85, R168) -/

/-- An instruction that issues, with no SRAM error, where the fetch raises an exception. -/
theorem tileIssue_fetchExc {s : State} {i : Issue} {word code : Nat} {mine : Wait → Bool} {body : Core → State → TOut}
    (hg : inGrid s i.core = true) (hr : (getCore s i.core).st = .running) (he : i.errs = []) (hf : fetchExc (issueCore s i) = some code) :
    tileIssue i word mine body s = takeException s i.core (issueCore s i) code (issueCore s i).pc 0 [] := by
  unfold tileIssue
  simp only [hg, takesIssue_running hr, he, Bool.and_self, if_true, List.foldl_nil]
  unfold issueCore at hf
  rw [hf]
  rfl

/-- Settles O18: the record of an exception by its capture, its count and its report, and the fetch's exception at issue. -/
theorem exceptionsRecordAndReport : Obligations.ExceptionsRecordAndReport := by
  unfold Obligations.ExceptionsRecordAndReport
  refine ⟨fun s id c code pc chunkPc report h1 _ => ?_, fun s i code hg hr he hf => ?_⟩
  · obtain ⟨hst, hcause, hexcPc, hpc, hwait, hx⟩ := faultCore_fields c code pc
    have hcap : ∀ k ∈ captureKeys, getN (excCounted s id c code pc) k = getN s k := fun k hk =>
      getN_excCounted_other s id c code pc (ne_excCount ((by decide : ∀ k ∈ captureKeys, k < Key.excCount 0) k hk) h1)
    have hread : ∀ k ∈ captureKeys, getN (takeException s id c code pc chunkPc report) k =
        getN (excCaptured (excCounted s id c code pc) id code pc chunkPc) k := fun k hk =>
      getN_takeException _ _ _ _ _ _ _ (fun e => absurd (e ▸ hk) (by decide)) (fun e => absurd (e ▸ hk) (by decide))
    have hempty := hcap Key.excCaptureEmpty (by decide)
    dsimp only
    rw [getCore_takeException]
    refine ⟨hst, hcause, hexcPc, hpc, hwait, hx, ?_, fun he => ?_, fun he => ?_, fun ha => ?_, fun ha => ?_,
      fun k hk => getCore_takeException_other _ _ _ _ _ _ _ hk⟩
    · have hcount : Key.excCount 0 + code - 1 ∉ captureKeys := fun h =>
        ne_excCount ((by decide : ∀ k ∈ captureKeys, k < Key.excCount 0) _ h) h1 rfl
      rw [getN_takeException _ _ _ _ _ _ _ (ne_excCount (by decide) h1).symm (ne_excCount (by decide) h1).symm,
        getN_excCaptured_other _ _ _ _ _ hcount, excCounted, getN_addN_same, getN_setCore]
    · have hbeat : beatNow (excCounted s id c code pc) = beatNow s := getN_excCounted_other s id c code pc (ne_excCount (by decide) h1)
      rw [hread _ (by decide), hread _ (by decide), hread _ (by decide), hread _ (by decide), hread _ (by decide), hread _ (by decide), ← hbeat]
      exact excCaptured_of_empty _ id code pc chunkPc (hempty.trans he)
    · have hfull : ∀ k ∈ captureKeys, getN (takeException s id c code pc chunkPc report) k = getN s k := fun k hk => by
        rw [hread k hk, excCaptured_of_full _ _ _ _ _ (hempty ▸ he), hcap k hk]
      exact ⟨hfull _ (by decide), hfull _ (by decide), hfull _ (by decide)⟩
    · rw [takeException_eq, if_neg ha, getN_emit, getN_raiseNow_same, bit_or_two_pow]
      refine ⟨rfl, ?_⟩
      show (raiseNow _ _ _).out ++ _ = _
      rw [raiseNow_out, excCaptured_out, excCounted_out]
    · rw [takeException_eq, if_pos ha, getN_emit, getN_excCaptured_other _ _ _ _ _ (by decide),
        getN_excCounted_other _ _ _ _ _ (ne_excCount (by decide) h1)]
      refine ⟨rfl, ?_⟩
      show (excCaptured _ _ _ _ _).out ++ _ = _
      rw [excCaptured_out, excCounted_out]
  · have htaken : ∀ word (mine : Wait → Bool) (body : Core → State → TOut), (Host.Outcome.next (tileIssue i word mine body s) :
        Host.Outcome State Fault Refusal) = .next (takeException s i.core (issueCore s i) code (issueCore s i).pc 0 []) :=
      fun word mine body => congrArg _ (tileIssue_fetchExc hg hr he hf)
    exact ⟨htaken .., htaken .., fun _ _ => htaken .., fun _ _ _ _ => htaken .., fun _ => htaken .., fun _ _ => htaken ..,
      fun _ _ _ _ _ _ _ _ => ⟨htaken .., htaken ..⟩⟩

end Sys2Proof.Machine


/-! SUPPORT and PROOFS. What happens to a core beside its program (04_core.md R81 to R83, R92, R97 to R99, R109; 07_tile_programs.md R193, R196):
the errors of a scrubbed row, a wait judged again, the heartbeat, and O24. -/

namespace Sys2Proof.Machine

/-! ### One SRAM error (R81, R109) -/

section SramError
variable (s : State) (c : Core) {word : Nat}

/-- The engine after an uncorrectable word of a line. -/
def uncorrectedCounted (s : State) (c : Core) (word : Nat) : State :=
  if c.poisonLines.contains (word / 8) then raiseNow s Key.coreFlags 1 else count64 (raiseNow s Key.coreFlags 1) Key.sramUncorrectedTotal

theorem sramError_corrected (h : word < 65536) : sramError (s, c) ⟨word, true⟩ =
    (count64 (raiseNow s Key.coreFlags 0) Key.sramCorrectedTotal, { c with writeback := nsIns word c.writeback }) :=
  if_neg (Nat.not_le.mpr h)

theorem sramError_uncorrected (h : word < 65536) : sramError (s, c) ⟨word, false⟩ =
    (uncorrectedCounted s c word, { c with poisonLines := nsIns (word / 8) c.poisonLines, uncorrSeen := true }) :=
  if_neg (Nat.not_le.mpr h)

theorem coreFlags_uncorrectedCounted : bit (getN (uncorrectedCounted s c word) Key.coreFlags) 1 = true := by
  unfold uncorrectedCounted
  split
  · rw [getN_raiseNow_same, bit_or_two_pow]
  · rw [getN_count64_other _ _ _ (by decide), getN_raiseNow_same, bit_or_two_pow]

theorem getN_uncorrectedCounted : getN (uncorrectedCounted s c word) Key.sramUncorrectedTotal =
    if word / 8 ∈ c.poisonLines then getN s Key.sramUncorrectedTotal else satAdd 64 (getN s Key.sramUncorrectedTotal) 1 := by
  have hr : getN (raiseNow s Key.coreFlags 1) Key.sramUncorrectedTotal = getN s Key.sramUncorrectedTotal :=
    getN_raiseNow_other _ _ _ _ (by decide) (by decide)
  unfold uncorrectedCounted
  by_cases hl : word / 8 ∈ c.poisonLines
  · rw [if_pos (List.contains_iff_mem.mpr hl), if_pos hl, hr]
  · rw [if_neg (fun h => hl (List.contains_iff_mem.mp h)), if_neg hl, getN_count64_same, hr]

end SramError

/-- A scrubbed row with one bad word (R83). -/
theorem exec_scrubRowRead {s : State} {id : CoreId} {row : BitVec 11} {e : SramErr} (hg : inGrid s id = true) (hp : inParked s id = false)
    (hw : e.word / 32 = row.toNat) : exec (.scrubRowRead id row [e]) s =
      .next (setCore (sramError (s, getCore s id) e).1 id (sramError (s, getCore s id) e).2) := by
  show execScrubRowRead id row [e] s = _
  unfold execScrubRowRead
  rw [if_neg (by simp [hg, hp]), List.filter_cons_of_pos (by simpa using hw)]
  rfl

/-! ### A wait judged again (R177, R196) -/

section Wake
variable {s : State} {c : Core} (hst : c.st = .waiting)
include hst

theorem wakeCore_beat {b : W32} (hw : c.wait = some (.beat b)) : wakeCore s c = if beatReached s b then c.proceed else c := by
  unfold wakeCore
  rw [hst, hw]

theorem wakeCore_ring {r need : Nat} (hw : c.wait = some (.ring r need)) :
    wakeCore s c = if need ≤ ringHeld c r then { c with st := .running, wait := none } else c := by
  unfold wakeCore
  rw [hst, hw]

theorem wakeCore_unreleased {b : BitVec 4} {e : Byte} {w : BitVec 19} (hw : c.wait = some (.sync b e w))
    (hb : bit (memRead c.sram (w.toNat + 5)).toNat 0 = false) : wakeCore s c = c := by
  unfold wakeCore
  rw [hst, hw]
  exact if_neg (by simp [hb])

end Wake

/-- A suspended core that waits has its context read back and its wait judged again (R92). -/
theorem resumeCore_of_some {s : State} {c : Core} (h : c.st = .suspended) (hw : c.wait.isSome = true) :
    resumeCore s c = wakeCore s { restoreContext c with st := .waiting } := by
  simp only [resumeCore, h, hw, if_true]

section Resume
variable {s : State} {c : Core} (h : c.st = .suspended)
include h

theorem resumeCore_beat {b : W32} (hw : c.wait = some (.beat b)) :
    (resumeCore s c).st = (if beatReached s b then .running else .waiting) ∧
      (resumeCore s c).pc = (restoreContext c).pc + b2n (beatReached s b) ∧ (resumeCore s c).sram = c.sram := by
  rw [resumeCore_of_some h (by rw [hw]; rfl), wakeCore_beat (c := { restoreContext c with st := .waiting }) rfl hw]
  cases beatReached s b <;> exact ⟨rfl, rfl, rfl⟩

theorem resumeCore_ring {r need : Nat} (hw : c.wait = some (.ring r need)) :
    (resumeCore s c).st = (if need ≤ ringHeld (restoreContext c) r then .running else .waiting) ∧ (resumeCore s c).sram = c.sram := by
  rw [resumeCore_of_some h (by rw [hw]; rfl), wakeCore_ring (c := { restoreContext c with st := .waiting }) rfl hw]
  have hheld : ringHeld { restoreContext c with st := .waiting } r = ringHeld (restoreContext c) r := rfl
  rw [hheld]
  split <;> exact ⟨rfl, rfl⟩

theorem resumeCore_sync {b : BitVec 4} {e : Byte} {w : BitVec 19} (hw : c.wait = some (.sync b e w)) :
    (resumeCore s c).st = (if bit (memRead c.sram (w.toNat + 5)).toNat 0 then .running else .waiting) ∧
      bit (memRead (resumeCore s c).sram (w.toNat + 5)).toNat 0 = false := by
  rw [resumeCore_of_some h (by rw [hw]; rfl)]
  by_cases hb : bit (memRead c.sram (w.toNat + 5)).toNat 0 = true
  · rw [wakeCore_released (c := { restoreContext c with st := .waiting }) rfl hw hb, if_pos hb]
    refine ⟨rfl, ?_⟩
    show bit (memRead (sramWrite _ _ _ false).sram _).toNat 0 = false
    rw [memRead_sramWrite_one]
    exact bit_and_FE _
  · have hb' : bit (memRead c.sram (w.toNat + 5)).toNat 0 = false := by simpa using hb
    rw [wakeCore_unreleased (c := { restoreContext c with st := .waiting }) rfl hw hb', if_neg hb]
    exact ⟨rfl, hb'⟩

end Resume

/-! ### The heartbeat (R97 to R99) -/

section Heartbeat
variable {s : State} {p : PhysId} {id : CoreId}

theorem exec_heartbeatPulse (hl : logicalOf s p = some id) (ok progress : Bool) : exec (.heartbeatPulse p ok progress) s =
    .next (if heartCounted (getCore s id) && ok && ((getCore s id).progressed || progress || heartIdle (getCore s id)) then
      setCore s id { getCore s id with heartbeatOk := true, silentReported := false, progressed := heartIdle (getCore s id) } else s) := by
  show execHeartbeatPulse p ok progress s = _
  unfold execHeartbeatPulse
  rw [hl]
  exact (apply_ite _ _ _ _).symm

theorem exec_coreSilent (hl : logicalOf s p = some id) : exec (.coreSilent p) s =
    .next (if heartCounted (getCore s id) && !(getCore s id).silentReported then
      emit (setCore s id { getCore s id with heartbeatOk := false, silentReported := true }) (.vc0Report 4 [physWord p]) else s) := by
  show execCoreSilent p s = _
  unfold execCoreSilent
  rw [hl]
  exact (apply_ite _ _ _ _).symm

theorem exec_coreSilent_spare (hl : logicalOf s p = none) (hu : unusedSpare s p = true) (hn : physWord p ∉ s.grid.spareSilent) :
    exec (.coreSilent p) s =
      .next (emit { s with grid := { s.grid with spareSilent := nsIns (physWord p) s.grid.spareSilent } } (.vc0Report 4 [physWord p])) := by
  show execCoreSilent p s = _
  unfold execCoreSilent
  rw [hl]
  exact if_pos (by simp [hu, hn])

end Heartbeat

/-- Settles O24: each service by its own equation, a resume by what its core waits for. -/
theorem coreServicesComplete : Obligations.CoreServicesComplete := by
  unfold Obligations.CoreServicesComplete
  intro s id c
  refine ⟨fun row word hg hp hw hr => ⟨?_, ?_⟩, fun word => ?_, fun p hl hc => ?_, fun p hl hu hn => ?_, fun hst => ?_, fun hst => ?_,
    fun b e word hst hw ht => ?_⟩
  · refine ⟨_, exec_scrubRowRead hg hp hr, ?_⟩
    rw [sramError_uncorrected s _ hw, getCore_setCore_same, getN_setCore, getN_setCore]
    exact ⟨(mem_nsIns ..).mpr (.inl rfl), rfl, rfl, coreFlags_uncorrectedCounted s _, getN_uncorrectedCounted s _⟩
  · refine ⟨_, exec_scrubRowRead hg hp hr, ?_⟩
    rw [sramError_corrected s _ hw, getCore_setCore_same, getN_setCore, getN_setCore, getN_count64_same,
      getN_raiseNow_other _ _ _ _ (by decide) (by decide), getN_count64_other _ _ _ (by decide), getN_raiseNow_same, bit_or_two_pow]
    exact ⟨(mem_nsIns ..).mpr (.inl rfl), rfl, rfl, rfl, rfl⟩
  · refine ⟨setCore s id { c with writeback := nsDel word c.writeback }, rfl, ?_⟩
    rw [getCore_setCore_same]
    exact ⟨fun h => ((mem_nsDel ..).mp h).2 rfl, rfl⟩
  · refine ⟨fun progress h => ?_, fun progress => ?_, fun hpr hi => ?_, fun hs => ?_, fun hs => ?_⟩
    · have hcond : (heartCounted c && true && (c.progressed || progress || heartIdle c)) = true := by
        rcases h with h | h | h <;> simp [hc, h]
      rw [exec_heartbeatPulse hl]
      exact congrArg _ (if_pos hcond)
    · rw [exec_heartbeatPulse hl, if_neg (by simp)]
    · have hcond : (heartCounted c && true && (c.progressed || false || heartIdle c)) = false := by simp [hpr, hi]
      rw [exec_heartbeatPulse hl]
      exact congrArg _ (if_neg (ne_true_of_eq_false hcond))
    · have hcond : (heartCounted c && !c.silentReported) = true := by simp [hc, hs]
      rw [exec_coreSilent hl]
      exact congrArg _ (if_pos hcond)
    · have hcond : (heartCounted c && !c.silentReported) = false := by simp [hs]
      rw [exec_coreSilent hl]
      exact congrArg _ (if_neg (ne_true_of_eq_false hcond))
  · exact ⟨_, exec_coreSilent_spare hl hu hn, (mem_nsIns ..).mpr (.inl rfl), rfl, rfl⟩
  · refine ⟨_, exec_coreSuspend s id, ?_⟩
    rw [getCore_setCore_same]
    obtain ⟨m, p, w, h⟩ := saveContext_sramChange c
    rcases hst with hst | hst
    · rw [suspendCore_running hst, h]
      exact ⟨rfl, rfl, fun k hk => getCore_setCore_other _ _ _ _ hk⟩
    · rw [suspendCore_waiting hst, h]
      exact ⟨rfl, rfl, fun k hk => getCore_setCore_other _ _ _ _ hk⟩
  · refine ⟨_, exec_coreResume hst, fun k hk => ?_, ?_⟩
    · rw [getCore_setCore_other _ _ _ _ hk, getCore_setCore_other _ _ _ _ hk]
    rw [getCore_setCore_same]
    refine ⟨fun hw => ?_, fun b hw => resumeCore_beat hst hw, fun r need hw => resumeCore_ring hst hw, fun b e w hw => resumeCore_sync hst hw⟩
    rw [resumeCore_of_none hst hw, ← hw]
    rfl
  · show execSyncTimeout id s = _
    unfold execSyncTimeout
    dsimp only
    rw [hst, hw]
    exact if_pos ht

end Sys2Proof.Machine


/-! PROOFS. RING_DELIVERY (04_core.md R86, R87; 07_tile_programs.md R177), and O26 refuted: the statement bounds a ring's write pointer by the two
turns over which pointers count and leaves the read pointer free, and `ringHeld` of a read pointer beyond the two turns is 0 however many
flits come in. -/

namespace Sys2Proof.Machine

/-- A core that waits for one flit of ring 0, of one page, with one flit granted on VC1, its write pointer at 0 and its read pointer one line
beyond the ring's two turns of 64 lines. -/
def strayReader : Core :=
  { Core.default with
    st := .waiting
    wait := some (.ring 0 1)
    cfg := setAt 1 Core.default.cfg 8
    ringRd := #v[129, 0, 0, 0, 0, 0, 0, 0]
    arrivals := [⟨0, 1, .unicast, true, true, ⟨[], false⟩, none, []⟩] }

/-- The engine at reset with that core. -/
def strayState : State := setCore State.reset ⟨0, 0⟩ strayReader

/-- The delivery leaves the core waiting: the ring still counts no flit. -/
theorem strayState_waits {t : State} (h : exec (.ringDelivery ⟨0, 0⟩ 1) strayState = .next t) : (getCore t ⟨0, 0⟩).st = .waiting := by
  obtain rfl := Host.Outcome.next.inj h
  decide +kernel

/-- Refutes O26: a core that waits for one flit of a ring whose read pointer stands beyond its two turns goes on waiting when the flit comes. -/
theorem not_ringsTakeFlitsInOrder : ¬ Obligations.RingsTakeFlitsInOrder := by
  unfold Obligations.RingsTakeFlitsInOrder
  intro h
  obtain ⟨t, ht, -, -, -, -, -, -, -, -, -, hgoes⟩ := h strayState ⟨0, 0⟩ 1 ⟨0, 1, .unicast, true, true, ⟨[], false⟩, none, []⟩
    (by decide +kernel) (by decide +kernel) (by decide +kernel) (by decide +kernel) (by decide +kernel) (by decide +kernel)
    (by intro b e w; simp [strayState, strayReader]) (by intro b; simp [strayState, strayReader])
  have hruns := (hgoes 1 (by decide +kernel) (by decide +kernel) (by decide +kernel) (by decide +kernel)).1
  rw [strayState_waits ht] at hruns
  exact absurd hruns (by decide)

end Sys2Proof.Machine


/-! SUPPORT and PROOFS. The vector and random instructions (04_core.md R100 to R105; 07_tile_programs.md R164, R173, R185, R186): what they leave
of a core, what one vector writes, and O15. -/

namespace Sys2Proof.Machine

/-! ### What a vector instruction leaves of its core -/

/-- A core after changes of its generators, its SRAM with the poison bits and write-backs, and what it notes of poison and of its flags. -/
def VectorChange (c d : Core) : Prop := ∃ g m p w u v b,
  d = { c with ag := g, sram := m, poisonLines := p, writeback := w, poisonSeen := u, stickyV := v, beatV := b }

namespace VectorChange
variable {c d e : Core}

theorem refl (c : Core) : VectorChange c c := ⟨_, _, _, _, _, _, _, rfl⟩

theorem trans (h : VectorChange c d) (h' : VectorChange d e) : VectorChange c e := by
  obtain ⟨_, _, _, _, _, _, _, rfl⟩ := h
  obtain ⟨g, m, p, w, u, v, b, rfl⟩ := h'
  exact ⟨g, m, p, w, u, v, b, rfl⟩

theorem pc (h : VectorChange c d) : d.pc = c.pc := by obtain ⟨_, _, _, _, _, _, _, rfl⟩ := h; rfl

theorem same (h : VectorChange c d) : d.x = c.x ∧ d.stg = c.stg ∧ d.acc = c.acc := by
  obtain ⟨_, _, _, _, _, _, _, rfl⟩ := h
  exact ⟨rfl, rfl, rfl⟩

end VectorChange

theorem consume_vectorChange (c : Core) (p : Bool) : VectorChange c (consume c p) := by
  unfold consume
  split <;> exact ⟨_, _, _, _, _, _, _, rfl⟩

/-- Flags raised and a result written, of data that may be poisoned. -/
theorem result_vectorChange (c : Core) (pois p : Bool) (f a : Nat) (bs : List Byte) :
    VectorChange c (sramWrite (flagVector (consume c pois) f) a bs p) :=
  (consume_vectorChange c pois).trans ⟨_, _, _, _, _, _, _, rfl⟩

theorem foldl_vectorChange {α : Type} {f : Core → α → Core} (hf : ∀ d x, VectorChange d (f d x)) (xs : List α) (c : Core) :
    VectorChange c (xs.foldl f c) :=
  List.foldlRecOn (motive := VectorChange c) xs f (.refl c) fun d h x _ => h.trans (hf d x)

/-! ### The generators (R164) -/

/-- A core after changes of its generators. -/
def AgChange (c d : Core) : Prop := ∃ g, d = { c with ag := g }

theorem AgChange.trans {c d e : Core} (h : AgChange c d) (h' : AgChange d e) : AgChange c e := by
  obtain ⟨_, rfl⟩ := h
  obtain ⟨g, rfl⟩ := h'
  exact ⟨g, rfl⟩

theorem AgChange.vectorChange {c d : Core} (h : AgChange c d) : VectorChange c d := by
  obtain ⟨g, rfl⟩ := h
  exact ⟨_, _, _, _, _, _, _, rfl⟩

theorem AgChange.sram {c d : Core} (h : AgChange c d) : d.sram = c.sram := by obtain ⟨g, rfl⟩ := h; rfl

theorem agStep_agChange (c : Core) (us : List AgUse) : AgChange c (agStep c us).2 :=
  List.foldlRecOn (motive := AgChange c) us _ ⟨_, rfl⟩ fun _ h _ _ => h.trans ⟨_, rfl⟩

theorem agVectors_agChange (fields : List (BitVec 3)) (us : List AgUse) (n : Nat) (c : Core) : AgChange c (agVectors fields us n c).2 := by
  induction n generalizing c with
  | zero => exact ⟨_, rfl⟩
  | succ n ih => exact (agStep_agChange c us).trans (ih _)

/-- The address that a generator stands at. -/
def agAddr (c : Core) (n : BitVec 3) : Nat := (agGet c n).cursor.toNat

/-- One vector uses the addresses at which its generators stand. -/
theorem agVectors_one (fields : List (BitVec 3)) (us : List AgUse) {count : BitVec 14} (h : count = 1) (c : Core) :
    agVectors fields us count.toNat c = ([fields.map (agAddr c)], (agStep c us).2) := by
  subst h
  rfl

theorem agStep_sram (c : Core) (us : List AgUse) : (agStep c us).2.sram = c.sram := (agStep_agChange c us).sram

/-- The core after its vectors, whatever each of them changes by `f`. -/
theorem vectors_vectorChange {α : Type} {f : Core → α → Core} (hf : ∀ d x, VectorChange d (f d x)) (xs : List α) (fields : List (BitVec 3))
    (us : List AgUse) (n : Nat) (c : Core) : VectorChange c (xs.foldl f (agVectors fields us n c).2) :=
  (agVectors_agChange fields us n c).vectorChange.trans (foldl_vectorChange hf xs _)

/-! ### Completion -/

theorem misaligned_of {k : Nat} {as : List Nat} (h : ∀ a ∈ as, a % k = 0) : misaligned k as = false := by
  simpa [misaligned] using h

theorem misaligned_flatten_of {k : Nat} {v : List (List Nat)} (h : ∀ as ∈ v, ∀ a ∈ as, a % k = 0) : misaligned k v.flatten = false :=
  misaligned_of fun a ha => by
    obtain ⟨as, has, ha⟩ := List.mem_flatten.mp ha
    exact h as has a ha

/-- A vector instruction that stands at the program counter and meets none of its exceptions completes at the next instruction. -/
theorem vector_completes {s : State} {i : Issue} {o : Instr} {word : Nat} {body : Core → State → TOut} {conds : List (Bool × Nat)} {d : Core}
    (h : Issues s i) (hs : Stands s i o) (hw : instrWord o = some word) (hb : body (issueCore s i) s = unlessExc conds (.next s d))
    (hc : ∀ e ∈ conds, e.1 = false) (hd : VectorChange (issueCore s i) d) :
    (Host.Outcome.next (tileIssue i word noWait body s) : Host.Outcome State Fault Refusal) =
      .next (completed s i d ((issueCore s i).pc + 1)) := by
  refine tileIssue_next h (hs.spells hw) (hb.trans ?_)
  rw [unlessExc_of (firstExc_none hc), TOut.next, hd.pc]

/-! ### What one vector writes -/

theorem length_vecBytes (vs : List W32) : (vecBytes vs).length = 4 * vs.length := length_flatMap_of_length (fun _ => length_leBytes 4 _) vs

/-- Sixteen elements written read back one by one, and no other byte changes. -/
theorem elements_written {c d : Core} (hd : d.sram = c.sram) (a : Nat) (f : Nat → W32) (p : Bool) :
    (∀ b, b < a ∨ a + 64 ≤ b → memRead (sramWrite d a (vecBytes ((List.range 16).map f)) p).sram b = memRead c.sram b) ∧
      ∀ l, l < 16 → sramRead (sramWrite d a (vecBytes ((List.range 16).map f)) p) (a + 4 * l) 4 = leBytes 4 (f l).toNat := by
  refine ⟨fun b hb => ?_, fun l hl => ?_⟩
  · rw [sramWrite_sram, memRead_store_other _ _ _ _ (by simpa [length_vecBytes] using hb), hd]
  · have h := (holdsBytes_memStore d.sram a (vecBytes ((List.range 16).map f))).flatMap (fun _ => length_leBytes 4 _) (k := l) (by simpa using hl)
    rw [sramRead, sramWrite_sram]
    simpa [HoldsBytes] using h

/-- A byte string written reads back, and no other byte changes. -/
theorem bytes_written {c d : Core} (hd : d.sram = c.sram) (a n : Nat) (bs : List Byte) (p : Bool) (hn : bs.length = n) :
    (∀ b, b < a ∨ a + n ≤ b → memRead (sramWrite d a bs p).sram b = memRead c.sram b) ∧ sramRead (sramWrite d a bs p) a n = bs :=
  ⟨fun b hb => by rw [sramWrite_sram, memRead_store_other _ _ _ _ (hn ▸ hb), hd], sramRead_sramWrite_of_length d a n bs p hn⟩

/-- The core that a result is written to, its flags raised, holds the SRAM that was read. -/
theorem flagged_sram {c d : Core} (hd : d.sram = c.sram) (pois : Bool) (f : Nat) : (flagVector (consume d pois) f).sram = c.sram :=
  (consume_sram d pois).trans hd

theorem sramRead_congr {c d : Core} (hd : d.sram = c.sram) (a n : Nat) : sramRead d a n = sramRead c a n := by simp only [sramRead, hd]

/-- Element `l` of the vector at an address. -/
def laneAt (c : Core) (a l : Nat) : W32 := BitVec.ofNat 32 (leNat (sramRead c (a + 4 * l) 4))

theorem vecRead_congr {c d : Core} (hd : d.sram = c.sram) (a : Nat) : vecRead d a = vecRead c a := by
  simp only [vecRead, sramWord, sramRead, hd]

theorem getD_vecRead (c : Core) (a : Nat) {l : Nat} (hl : l < 16) : (vecRead c a).getD l 0 = laneAt c a l := by
  simp [vecRead, sramWord, laneAt, hl]

/-! ### VOP (R100, R155, R185) -/

section Vop
variable (func : Nat) (useB useC : Bool) (x : W32)

theorem vopVector_vectorChange (d : Core) (as : List Nat) : VectorChange d (vopVector func useB useC x d as) := result_vectorChange ..

/-- Lane `l` of an operand: the element read, or a constant where the operand is not read. -/
theorem getD_operand (c : Core) (read : Bool) (a : Nat) (y : W32) {l : Nat} (hl : l < 16) :
    (if read then vecRead c a else List.replicate 16 y).getD l 0 = if read then laneAt c a l else y := by
  cases read
  · exact List.getD_replicate _ hl
  · exact getD_vecRead c a hl

theorem vopVector_eq {c d : Core} (hd : d.sram = c.sram) (ad aa ab ac : Nat) : ∃ pois fl, vopVector func useB useC x d [ad, aa, ab, ac] =
    sramWrite (flagVector (consume d pois) fl) ad (vecBytes ((List.range 16).map fun l =>
      (vopElem func (laneAt c aa l) (if useB then laneAt c ab l else x) (if useC then laneAt c ac l else 0)).1)) pois := by
  refine ⟨_, _, congrArg (fun vs => sramWrite _ ad (vecBytes vs) _) ?_⟩
  rw [List.map_map]
  refine List.map_congr_left fun l hl => ?_
  have hl := List.mem_range.mp hl
  show (vopElem func ((vecRead d aa).getD l 0) ((if useB then vecRead d ab else List.replicate 16 x).getD l 0)
    ((if useC then vecRead d ac else List.replicate 16 0).getD l 0)).1 = _
  rw [vecRead_congr hd, vecRead_congr hd, vecRead_congr hd, getD_vecRead c aa hl, getD_operand c useB ab x hl, getD_operand c useC ac 0 hl]

theorem vopVector_writes {c d : Core} (hd : d.sram = c.sram) (ad aa ab ac : Nat) :
    (∀ b, b < ad ∨ ad + 64 ≤ b → memRead (vopVector func useB useC x d [ad, aa, ab, ac]).sram b = memRead c.sram b) ∧
      ∀ l, l < 16 → sramRead (vopVector func useB useC x d [ad, aa, ab, ac]) (ad + 4 * l) 4 =
        leBytes 4 (vopElem func (laneAt c aa l) (if useB then laneAt c ab l else x) (if useC then laneAt c ac l else 0)).1.toNat := by
  obtain ⟨pois, fl, he⟩ := vopVector_eq func useB useC x hd ad aa ab ac
  rw [he]
  exact elements_written (flagged_sram hd pois fl) _ _ _

end Vop

/-! ### VRED and VCVT (R101, R143, R185) -/

theorem vredOne_vectorChange (func : BitVec 2) (d : Core) (as : List Nat) : VectorChange d (vredOne func d as) := result_vectorChange ..

theorem vredOne_writes (func : BitVec 2) {c d : Core} (hd : d.sram = c.sram) (ad aa : Nat) :
    (∀ b, b < ad ∨ ad + 4 ≤ b → memRead (vredOne func d [ad, aa]).sram b = memRead c.sram b) ∧
      sramRead (vredOne func d [ad, aa]) ad 4 = leBytes 4 (vredVector func (vecRead c aa)).1.toNat := by
  rw [← vecRead_congr hd]
  exact bytes_written (flagged_sram hd _ _) _ _ _ _ (length_leBytes ..)

section Vcvt
variable (f : VcvtFields) (draw : Nat → Nat → W32)

theorem vcvtOne_vectorChange (d : Core) (e : List Nat × Nat) : VectorChange d (vcvtOne f draw d e) := result_vectorChange ..

theorem vcvtOne_eq {c d : Core} (hd : d.sram = c.sram) (ad aa : Nat) : ∃ pois fl, vcvtOne f draw d ([ad, aa], 0) =
    sramWrite (flagVector (consume d pois) fl) ad (leBytes (vecLen f.dstf.toNat) (pack (fmtBits f.dstf.toNat) ((List.range 16).map fun l =>
      (vcvtElem f (element f.srcf.toNat (sramRead c aa (vecLen f.srcf.toNat)) l) (draw 0 l)).1))) pois := by
  rw [← sramRead_congr hd]
  exact ⟨_, _, congrArg (fun vs => sramWrite _ ad (leBytes _ (pack _ vs)) _) List.map_map⟩

theorem vcvtOne_writes {c d : Core} (hd : d.sram = c.sram) (ad aa : Nat) :
    (∀ b, b < ad ∨ ad + vecLen f.dstf.toNat ≤ b → memRead (vcvtOne f draw d ([ad, aa], 0)).sram b = memRead c.sram b) ∧
      sramRead (vcvtOne f draw d ([ad, aa], 0)) ad (vecLen f.dstf.toNat) = leBytes (vecLen f.dstf.toNat) (pack (fmtBits f.dstf.toNat)
        ((List.range 16).map fun l =>
          (vcvtElem f (element f.srcf.toNat (sramRead c aa (vecLen f.srcf.toNat)) l) (draw 0 l)).1)) := by
  obtain ⟨pois, fl, he⟩ := vcvtOne_eq f draw hd ad aa
  rw [he]
  exact bytes_written (flagged_sram hd pois fl) _ _ _ _ (length_leBytes ..)

end Vcvt

/-! ### RNGK and RNGF (R103, R104, R186) -/

theorem writeSamples_vectorChange (c : Core) (form : Bool) (addrs : List (List Nat)) (draw : Nat → Nat → W32) :
    VectorChange c (writeSamples c form addrs draw) :=
  foldl_vectorChange (fun _ _ => ⟨_, _, _, _, _, _, _, rfl⟩) _ c

/-- The samples of one vector: its draws, raw or as FP32 in [0, 1). -/
theorem writeSamples_one {c d : Core} (hd : d.sram = c.sram) (form : Bool) (a : Nat) (draw : Nat → Nat → W32) :
    (∀ b, b < a ∨ a + 64 ≤ b → memRead (writeSamples d form [[a]] draw).sram b = memRead c.sram b) ∧
      ∀ l, l < 16 → sramRead (writeSamples d form [[a]] draw) (a + 4 * l) 4 =
        leBytes 4 (if form then unitF32 (draw 0 l) else draw 0 l).toNat :=
  elements_written hd a (fun l => if form then unitF32 (draw 0 l) else draw 0 l) false

/-! ### The five instructions -/

section Instructions
variable {s : State} {i : Issue} (h : Issues s i)
include h

theorem exec_vop {func : BitVec 6} {ad aa ab ac : BitVec 3} {scalb : Bool} {xb : BitVec 5} {post : BitVec 4} {count : BitVec 14}
    {ra rb rc : Bool} (hr : vopReads func.toNat = some (ra, rb, rc)) (hcount : count ≠ 0)
    (hv : ∀ as ∈ (agVectors [ad, aa, ab, ac] (vopUses ad aa ab ac (rb && !scalb) rc post) count.toNat (issueCore s i)).1,
      as.getD 0 0 % 4 = 0 ∧ mayWrite (issueCore s i) (as.getD 0 0) 64 = true ∧ as.getD 1 0 % 4 = 0 ∧
        mayRead (issueCore s i) (as.getD 1 0) 64 = true ∧
        ((rb && !scalb) = true → as.getD 2 0 % 4 = 0 ∧ mayRead (issueCore s i) (as.getD 2 0) 64 = true) ∧
        (rc = true → as.getD 3 0 % 4 = 0 ∧ mayRead (issueCore s i) (as.getD 3 0) 64 = true))
    (hs : Stands s i (.vop i func ad aa ab ac scalb xb post count)) :
    exec (.vop i func ad aa ab ac scalb xb post count) s = .next (completed s i
      ((agVectors [ad, aa, ab, ac] (vopUses ad aa ab ac (rb && !scalb) rc post) count.toNat (issueCore s i)).1.foldl
        (vopVector func.toNat (rb && !scalb) rc (xget (issueCore s i) xb))
        (agVectors [ad, aa, ab, ac] (vopUses ad aa ab ac (rb && !scalb) rc post) count.toNat (issueCore s i)).2) ((issueCore s i).pc + 1)) := by
  refine vector_completes h hs rfl (by dsimp only; rw [hr]) ?_ (vectors_vectorChange (vopVector_vectorChange _ _ _ _) _ _ _ _ _)
  generalize agVectors [ad, aa, ab, ac] (vopUses ad aa ab ac (rb && !scalb) rc post) count.toNat (issueCore s i) = v at hv
  generalize (rb && !scalb) = useB at hv
  have hread : ∀ a ∈ (v.1.map fun as => [as.getD 1 0] ++ (if useB then [as.getD 2 0] else []) ++ (if rc then [as.getD 3 0] else [])).flatten,
      a % 4 = 0 ∧ mayRead (issueCore s i) a 64 = true := by
    intro a ha
    obtain ⟨_, hl, ha⟩ := List.mem_flatten.mp ha
    obtain ⟨as, has, rfl⟩ := List.mem_map.mp hl
    obtain ⟨-, -, h1, h1', h2, h3⟩ := hv as has
    rcases List.mem_append.mp ha with ha | ha
    · rcases List.mem_append.mp ha with ha | ha
      · rw [List.mem_singleton.mp ha]
        exact ⟨h1, h1'⟩
      · cases useB
        · exact absurd ha List.not_mem_nil
        · rw [List.mem_singleton.mp ha]
          exact h2 rfl
    · cases rc
      · exact absurd ha List.not_mem_nil
      · rw [List.mem_singleton.mp ha]
        exact h3 rfl
  have hwrite : ∀ a ∈ v.1.map fun as => as.getD 0 0, a % 4 = 0 ∧ mayWrite (issueCore s i) a 64 = true := by
    intro a ha
    obtain ⟨as, has, rfl⟩ := List.mem_map.mp ha
    exact ⟨(hv as has).1, (hv as has).2.1⟩
  refine List.forall_mem_cons.mpr ⟨by simpa using hcount, List.forall_mem_cons.mpr ⟨?_, List.forall_mem_singleton.mpr ?_⟩⟩
  · exact misaligned_of fun a ha => (List.mem_append.mp ha).elim (fun ha => (hwrite a ha).1) fun ha => (hread a ha).1
  · exact Bool.or_eq_false_iff.mpr
      ⟨List.any_eq_false.mpr fun a ha => by simp [(hwrite a ha).2], List.any_eq_false.mpr fun a ha => by simp [(hread a ha).2]⟩

theorem exec_vred {func : BitVec 2} {ad aa : BitVec 3} {pd pa : Bool} {count : BitVec 14} (hcount : count ≠ 0)
    (hv : ∀ as ∈ (agVectors [ad, aa] (agUses [(ad, pd), (aa, pa)]) count.toNat (issueCore s i)).1,
      (∀ a ∈ as, a % 4 = 0) ∧ mayWrite (issueCore s i) (as.getD 0 0) 4 = true ∧ mayRead (issueCore s i) (as.getD 1 0) 64 = true)
    (hs : Stands s i (.vred i func ad aa pd pa count)) :
    exec (.vred i func ad aa pd pa count) s = .next (completed s i
      ((agVectors [ad, aa] (agUses [(ad, pd), (aa, pa)]) count.toNat (issueCore s i)).1.foldl (vredOne func)
        (agVectors [ad, aa] (agUses [(ad, pd), (aa, pa)]) count.toNat (issueCore s i)).2) ((issueCore s i).pc + 1)) := by
  refine vector_completes h hs rfl rfl ?_ (vectors_vectorChange (vredOne_vectorChange func) _ _ _ _ _)
  refine List.forall_mem_cons.mpr ⟨by simpa using hcount, List.forall_mem_cons.mpr ⟨misaligned_flatten_of fun as ha => (hv as ha).1, ?_⟩⟩
  refine List.forall_mem_singleton.mpr (List.any_eq_false.mpr fun as ha => ?_)
  simp [(hv as ha).2.1, (hv as ha).2.2, -List.getD_eq_getElem?_getD]

theorem exec_vcvt {f : VcvtFields} (hcount : f.count ≠ 0) (hsrc : f.srcf.toNat ≤ 10) (hdst : f.dstf.toNat ≤ 10)
    (hz : f.srcf = 0 ∨ f.dstf = 0) (hxi : xodd f.xi = false) (hxs : xodd f.xs = false)
    (hv : ∀ as ∈ (agVectors [f.ad, f.aa] (agUses [(f.ad, f.postD), (f.aa, f.postA)]) f.count.toNat (issueCore s i)).1,
      (∀ a ∈ as, a % 4 = 0) ∧ mayWrite (issueCore s i) (as.getD 0 0) (vecLen f.dstf.toNat) = true ∧
        mayRead (issueCore s i) (as.getD 1 0) (vecLen f.srcf.toNat) = true)
    (hs : Stands s i (.vcvt i f)) :
    exec (.vcvt i f) s = .next (completed s i
      ((agVectors [f.ad, f.aa] (agUses [(f.ad, f.postD), (f.aa, f.postA)]) f.count.toNat (issueCore s i)).1.zipIdx.foldl
        (vcvtOne f (vcvtDraw s (issueCore s i) f))
        (agVectors [f.ad, f.aa] (agUses [(f.ad, f.postD), (f.aa, f.postA)]) f.count.toNat (issueCore s i)).2) ((issueCore s i).pc + 1)) := by
  refine vector_completes h hs rfl rfl ?_ (vectors_vectorChange (vcvtOne_vectorChange f _) _ _ _ _ _)
  refine List.forall_mem_cons.mpr ⟨?_, List.forall_mem_cons.mpr ⟨misaligned_flatten_of fun as ha => (hv as ha).1, ?_⟩⟩
  · have h1 : (f.count == 0) = false := beq_eq_false_iff_ne.mpr hcount
    have h2 : (f.srcf != 0 && f.dstf != 0) = false := by rcases hz with hz | hz <;> simp [hz]
    show (f.count == 0 || decide _ || decide _ || (f.srcf != 0 && f.dstf != 0) || xodd f.xi || xodd f.xs) = false
    rw [h1, h2, hxi, hxs, decide_eq_false (Nat.not_lt.mpr hsrc), decide_eq_false (Nat.not_lt.mpr hdst)]
    rfl
  · refine List.forall_mem_singleton.mpr (List.any_eq_false.mpr fun as ha => ?_)
    simp [(hv as ha).2.1, (hv as ha).2.2, -List.getD_eq_getElem?_getD]

section Samples
variable {ad : BitVec 3} {post form : Bool} {count : BitVec 14}
  (hv : ∀ as ∈ (agVectors [ad] (agUses [(ad, post)]) count.toNat (issueCore s i)).1,
    ∀ a ∈ as, a % 4 = 0 ∧ mayWrite (issueCore s i) a 64 = true)
include hv

omit h in
/-- No condition of a sampling instruction holds where that of its operands does not. -/
theorem samples_conds {bad : Bool} (hb : bad = false) :
    ∀ e ∈ [(bad, excIllegalOperand),
      (misaligned 4 (agVectors [ad] (agUses [(ad, post)]) count.toNat (issueCore s i)).1.flatten, excAlignment),
      ((agVectors [ad] (agUses [(ad, post)]) count.toNat (issueCore s i)).1.flatten.any fun a => !mayWrite (issueCore s i) a 64, excSramRegion)],
      e.1 = false := by
  refine List.forall_mem_cons.mpr ⟨hb, List.forall_mem_cons.mpr
    ⟨misaligned_flatten_of fun as ha a h => (hv as ha a h).1, List.forall_mem_singleton.mpr (List.any_eq_false.mpr fun a ha => ?_)⟩⟩
  obtain ⟨as, has, ha⟩ := List.mem_flatten.mp ha
  simp [(hv as has a ha).2]

variable (hcount : count ≠ 0)
include hcount

theorem exec_rngk {key : BitVec 4} {src : Bool} {xs xi : BitVec 5} (hxi : xodd xi = false) (hxs : xodd xs = false)
    (hs : Stands s i (.rngk i ad post key src xs xi form count)) :
    exec (.rngk i ad post key src xs xi form count) s = .next (completed s i
      (writeSamples (agVectors [ad] (agUses [(ad, post)]) count.toNat (issueCore s i)).2 form
        (agVectors [ad] (agUses [(ad, post)]) count.toNat (issueCore s i)).1
        fun n l => keyedDraw s key.toNat (drawStep s (issueCore s i) src xs) (xpair (issueCore s i) xi + BitVec.ofNat 64 (16 * n + l)))
      ((issueCore s i).pc + 1)) :=
  vector_completes h hs rfl rfl (samples_conds hv (by rw [hxi, hxs, beq_eq_false_iff_ne.mpr hcount]; rfl))
    ((agVectors_agChange ..).vectorChange.trans (writeSamples_vectorChange ..))

theorem exec_rngf (hs : Stands s i (.rngf i ad post form count)) : exec (.rngf i ad post form count) s = .next (completed s i
    (writeSamples (agVectors [ad] (agUses [(ad, post)]) count.toNat (issueCore s i)).2 form
      (agVectors [ad] (agUses [(ad, post)]) count.toNat (issueCore s i)).1 fun n l => freeDraw (issueCore s i) n l)
    ((issueCore s i).pc + 1)) :=
  vector_completes h hs rfl rfl (samples_conds hv (beq_eq_false_iff_ne.mpr hcount))
    ((agVectors_agChange ..).vectorChange.trans (writeSamples_vectorChange ..))

end Samples

end Instructions

/-- Settles O15: no exception's condition holds, and a single vector is one write of its results at the address of its generator. -/
theorem vectorInstructionsComplete : Obligations.VectorInstructionsComplete := by
  unfold Obligations.VectorInstructionsComplete
  intro s i h
  refine ⟨fun func ad aa ab ac scalb xb post count ra rb rc hr hcount hv hs => ?_, fun func ad aa pd pa count hcount hv hs => ?_,
    fun f hcount hsrc hdst hz hxi hxs hv hs => ?_, fun ad post key src xs xi form count hcount hv => ⟨fun hxi hxs hs => ?_, fun hs => ?_⟩⟩
  · refine ⟨_, exec_vop h hr hcount hv hs, (vectors_vectorChange (vopVector_vectorChange _ _ _ _) _ _ _ _ _).same, fun h1 => ?_⟩
    rw [agVectors_one _ _ h1]
    exact vopVector_writes func.toNat (rb && !scalb) rc (xget (issueCore s i) xb) (agStep_sram (issueCore s i) _) (agAddr (issueCore s i) ad)
      (agAddr (issueCore s i) aa) (agAddr (issueCore s i) ab) (agAddr (issueCore s i) ac)
  · refine ⟨_, exec_vred h hcount hv hs, (vectors_vectorChange (vredOne_vectorChange func) _ _ _ _ _).same, fun h1 => ?_⟩
    rw [agVectors_one _ _ h1]
    exact vredOne_writes func (agStep_sram (issueCore s i) _) (agAddr (issueCore s i) ad) (agAddr (issueCore s i) aa)
  · refine ⟨_, exec_vcvt h hcount hsrc hdst hz hxi hxs hv hs, (vectors_vectorChange (vcvtOne_vectorChange f _) _ _ _ _ _).same, fun h1 => ?_⟩
    rw [agVectors_one _ _ h1]
    exact vcvtOne_writes f (vcvtDraw s (issueCore s i) f) (agStep_sram (issueCore s i) _) (agAddr (issueCore s i) f.ad)
      (agAddr (issueCore s i) f.aa)
  · refine ⟨_, exec_rngk h hv hcount hxi hxs hs, ((agVectors_agChange ..).vectorChange.trans (writeSamples_vectorChange ..)).same, fun h1 => ?_⟩
    rw [agVectors_one _ _ h1]
    have hw := writeSamples_one (agStep_sram (issueCore s i) (agUses [(ad, post)])) form (agAddr (issueCore s i) ad) fun n l =>
      keyedDraw s key.toNat (drawStep s (issueCore s i) src xs) (xpair (issueCore s i) xi + BitVec.ofNat 64 (16 * n + l))
    simp only [Nat.mul_zero, Nat.zero_add] at hw
    exact hw
  · refine ⟨_, exec_rngf h hv hcount hs, ((agVectors_agChange ..).vectorChange.trans (writeSamples_vectorChange ..)).same, fun h1 => ?_⟩
    rw [agVectors_one _ _ h1]
    exact writeSamples_one (agStep_sram (issueCore s i) (agUses [(ad, post)])) form (agAddr (issueCore s i) ad) fun n l =>
      freeDraw (issueCore s i) n l

end Sys2Proof.Machine


/-! SUPPORT and PROOFS. The objects that steer the exchange (11_gradient_exchange.md R277, R283, R287; R105, R252, R304): what the owner's sums
leave of the excused ranks, the staged writes, a late peer, and O38. -/

namespace Sys2Proof.Machine

/-! ### What the owner's sums leave of an excuse (R274 to R277) -/

/-- A state with the object EXCUSE and the excused ranks of another. -/
structure ExcuseKept (s t : State) : Prop where
  excuse : getN t Key.excuse = getN s Key.excuse
  excused : t.exch.excused = s.exch.excused

theorem ExcuseKept.refl (s : State) : ExcuseKept s s := ⟨rfl, rfl⟩

section ExcuseKept
variable {s t : State}

/-- Changes of components that hold neither. -/
theorem ExcuseKept.of_eq {u : State} (h : ExcuseKept s t) (hv : u.variant = t.variant) (ho : u.objs = t.objs)
    (he : u.exch.excused = t.exch.excused) : ExcuseKept s u :=
  ⟨(getN_eq _ _ _ hv ho).trans h.excuse, he.trans h.excused⟩

theorem foldl_excuseKept {α : Type} (xs : List α) (f : State → α → State) (h : ExcuseKept s t)
    (hf : ∀ u x, ExcuseKept s u → ExcuseKept s (f u x)) : ExcuseKept s (xs.foldl f t) :=
  List.foldlRecOn (motive := ExcuseKept s) xs f h fun u hu x _ => hf u x hu

theorem setN_excuseKept (key v : Nat) (hk : Key.excuse ≠ key) (h : ExcuseKept s t) : ExcuseKept s (setN t key v) :=
  ⟨(getN_setN_other _ _ _ _ hk).trans h.excuse, by rw [setN_exch, h.excused]⟩

theorem count64_excuseKept (key : Nat) (hk : Key.excuse ≠ key) (h : ExcuseKept s t) : ExcuseKept s (count64 t key) :=
  setN_excuseKept key _ hk h

theorem raise_excuseKept (key b : Nat) (h : ExcuseKept s t) : ExcuseKept s (raise t key b) := h.of_eq rfl rfl rfl

theorem setGroup_excuseKept (g : Nat) (v : GroupSt) (h : ExcuseKept s t) : ExcuseKept s (setGroup t g v) := h.of_eq rfl rfl rfl

theorem stkWrite_excuseKept (a : Nat) (bs : List Byte) (poison : Bool) (h : ExcuseKept s t) : ExcuseKept s (stkWrite t a bs poison) :=
  h.of_eq rfl rfl rfl

/-- The objects of the update units stand below EXCUSE. -/
theorem refreshUnits_excuseKept (h : ExcuseKept s t) : ExcuseKept s (refreshUnits t) :=
  List.foldlRecOn (motive := ExcuseKept s) _ refreshUnit h fun _ hu n hn => by
    have hn := List.mem_range.mp hn
    exact setN_excuseKept _ _ (by simp only [Key.excuse, Key.uuItemsQueued]; omega)
      (setN_excuseKept _ _ (by simp only [Key.excuse, Key.uuState]; omega) hu)

theorem tryUpdate_excuseKept (g : Nat) (h : ExcuseKept s t) : ExcuseKept s (tryUpdate t g) := by
  unfold tryUpdate
  split
  · exact h
  dsimp only
  split_ifs
  · exact h
  · exact refreshUnits_excuseKept (h.of_eq rfl rfl rfl)
  · exact refreshUnits_excuseKept (h.of_eq rfl rfl rfl)
  · exact h

theorem gatherComplete_excuseKept (d : List Byte) (h : ExcuseKept s t) : ExcuseKept s (gatherComplete t d) := by
  unfold gatherComplete
  dsimp only
  split
  · exact h
  · exact tryUpdate_excuseKept _ (h.of_eq rfl rfl rfl)

theorem acceptGather_excuseKept (m : XMsg) (h : ExcuseKept s t) : ExcuseKept s (acceptGather t m) := by
  unfold acceptGather
  split
  · exact h
  · next d _ =>
    extract_lets t₁ skip t₂ g clash t₃
    have h₁ : ExcuseKept s t₁ := by
      dsimp only [t₁]
      split
      · exact h
      · exact h.of_eq rfl rfl rfl
    have h₂ : ExcuseKept s t₂ := by
      dsimp only [t₂]
      split
      · exact raise_excuseKept _ _ h₁
      · exact foldl_excuseKept _ _ h₁ fun _ _ hu => stkWrite_excuseKept _ _ _ hu
    have h₃ : ExcuseKept s t₃ := by
      dsimp only [t₃]
      split
      · exact raise_excuseKept _ _ h₂
      · exact h₂
    exact gatherComplete_excuseKept d (setGroup_excuseKept _ _ h₃)

theorem takeOwnGather_excuseKept (m : XMsg) (h : ExcuseKept s t) : ExcuseKept s (takeOwnGather t m) := by
  unfold takeOwnGather keepMsg
  split
  · split
    · exact h
    · exact h.of_eq rfl rfl rfl
  · exact acceptGather_excuseKept m h

theorem encodeOwned_excuseKept (d : List Byte) (method kcode b : Nat) (acc : State × List Byte) (h : ExcuseKept s acc.1) :
    ExcuseKept s (encodeOwned d method kcode acc b).1 := by
  unfold encodeOwned encodeWithResidual
  extract_lets _ _ _ _ _ bs ds rs t₁ t₂ t₃ r
  have h₂ : ExcuseKept s t₂ := count64_excuseKept _ (by decide) (stkWrite_excuseKept _ _ _ h)
  have h₃ : ExcuseKept s t₃ := by
    dsimp only [t₃]
    split
    · exact count64_excuseKept _ (by decide) h₂
    · exact h₂
  exact setN_excuseKept _ _ (by decide) h₃

theorem formGather_excuseKept (d : List Byte) (c : Nat × Nat) (h : ExcuseKept s t) : ExcuseKept s (formGather d t c) := by
  unfold formGather
  extract_lets g e counts _ t₁ r
  have h₁ : ExcuseKept s t₁ := h.of_eq rfl rfl rfl
  have hr : ExcuseKept s r.1 := List.foldlRecOn (motive := fun q : State × List Byte => ExcuseKept s q.1) _ _ h₁ fun q hq b _ =>
    encodeOwned_excuseKept _ _ _ b q hq
  clear_value t₁ r
  split_ifs <;> refine takeOwnGather_excuseKept _ (foldl_excuseKept _ _ ?_ fun _ _ hu => hu.of_eq rfl rfl rfl)
  · exact h₁
  · exact setGroup_excuseKept _ _ hr

theorem tryOwner_excuseKept (g : Nat) (h : ExcuseKept s t) : ExcuseKept s (tryOwner t g) := by
  unfold tryOwner
  split
  · exact h
  dsimp only
  split
  · exact h
  · exact foldl_excuseKept _ _ h fun _ c hu => formGather_excuseKept _ c hu

end ExcuseKept

/-! ### EXCUSE (R277) -/

/-- Reads that meet no error of a stack leave the engine as it is. -/
theorem metStacks_none (f : State → State) (s : State) : metStacks ⟨[], [], 0⟩ f s = f s := by
  have hone : ∀ u st, meetErrors u st ⟨[], [], 0⟩ = u := fun _ _ => rfl
  have hall : ∀ sts, meetErrorsOf s sts ⟨[], [], 0⟩ = s := by
    intro sts
    cases sts with
    | nil => rfl
    | cons st rest => exact List.foldlRecOn (motive := (· = s)) rest _ (hone s st) fun u hu n _ => (hone u n).trans hu
  rw [metStacks, hall]

/-- The object and the excused ranks written, before the owner's sums. -/
def excuseSet (s : State) (v : Nat) : State :=
  let s := setN s Key.excuse v
  if v < getN s Key.replicas then { s with exch := { s.exch with excused := nsIns v s.exch.excused } } else s

theorem excuseEffect_eq (s : State) (v : Nat) :
    excuseEffect s v = (groupsInOrder (excuseSet s v)).foldl (fun s d => tryOwner s (gdGroup d)) (excuseSet s v) := rfl

theorem excuseEffect_excuseKept (s : State) (v : Nat) : ExcuseKept (excuseSet s v) (excuseEffect s v) :=
  excuseEffect_eq s v ▸ foldl_excuseKept _ _ (.refl _) fun _ _ hu => tryOwner_excuseKept _ hu

theorem getN_excuseSet (s : State) (v : Nat) : getN (excuseSet s v) Key.excuse = v := by
  unfold excuseSet
  dsimp only
  split
  · exact getN_setN_same s _ _
  · exact getN_setN_same s _ _

theorem mem_excused_excuseSet (s : State) {v : Nat} (hv : v < getN s Key.replicas) : v ∈ (excuseSet s v).exch.excused := by
  have hv' : v < getN (setN s Key.excuse v) Key.replicas := by rwa [getN_setN_other _ _ _ _ (by decide)]
  unfold excuseSet
  dsimp only
  rw [if_pos hv']
  exact (mem_nsIns ..).mpr (.inl rfl)

/-- Every contribution of an excused rank stands in. -/
theorem contribThere_of_excused {s : State} {r : Nat} (h : r ∈ s.exch.excused) (g b : Nat) : contribThere s g r b = true := by
  simp [contribThere, h]

/-! ### PEER_LATE (R277) -/

theorem getGroup_setN (s : State) (key v g : Nat) : getGroup (setN s key v) g = getGroup s g := by rw [getGroup, setN_update]; rfl

/-- That a group is known to be late does not change the ranks outstanding. -/
theorem lateRank_late (s : State) (group : Nat) (d : List Byte) :
    lateRank (raise (setGroup s group { getGroup s group with late := true }) Key.exchangeFlags 2) d = lateRank s d := by
  have hg : (getGroup (raise (setGroup s group { getGroup s group with late := true }) Key.exchangeFlags 2) (gdGroup d)).gathered =
      (getGroup s (gdGroup d)).gathered := by
    show (getGroup (setGroup s group _) (gdGroup d)).gathered = _
    by_cases h : gdGroup d = group
    · rw [h, getGroup_setGroup_same]
    · rw [getGroup_setGroup_other _ _ _ h]
  unfold lateRank
  dsimp only
  rw [hg]
  rfl

/-- A group late for the first time: it is marked, the flag raised, and the lowest rank outstanding recorded. -/
def peerLateSet (s : State) (group : Nat) (d : List Byte) : State :=
  let t := raise (setGroup s group { getGroup s group with late := true }) Key.exchangeFlags 2
  (lateRank s d).elim t fun r => setN t Key.peerLateRank r

section PeerLate
variable {s : State} {group : Nat} {d : List Byte} (hd : groupDesc s group = some d)
include hd

theorem exec_peerLate : exec (.peerLate group) s = .next
    (if !(getGroup s group).final || (getGroup s group).hold || (getGroup s group).ready || (getGroup s group).late ||
      decide (beatNow s < (getGroup s group).finalBeat + getN s Key.peerLateBeats) then s else peerLateSet s group d) := by
  show execPeerLate group s = _
  unfold execPeerLate peerLateSet
  rw [hd]
  dsimp only
  rw [lateRank_late]
  cases lateRank s d <;> rfl

end PeerLate

theorem peerLateSet_leaves (s : State) (group : Nat) (d : List Byte) :
    getGroup (peerLateSet s group d) group = { getGroup s group with late := true } ∧
      bit (stGet (peerLateSet s group d).raised Key.exchangeFlags) 2 = true ∧
      (∀ r, lateRank s d = some r → getN (peerLateSet s group d) Key.peerLateRank = r) ∧ (peerLateSet s group d).stk = s.stk := by
  have hraised := bit_raised_raise (setGroup s group { getGroup s group with late := true }) Key.exchangeFlags 2
  have hgroup := getGroup_setGroup_same s group { getGroup s group with late := true }
  unfold peerLateSet
  cases h : lateRank s d with
  | none => exact ⟨hgroup, hraised, by simp, rfl⟩
  | some r =>
    refine ⟨?_, ?_, fun r' hr => ?_, ?_⟩
    · exact (getGroup_setN _ _ _ _).trans hgroup
    · rw [Option.elim_some, setN_raised]
      exact hraised
    · rw [Option.elim_some, getN_setN_same]
      exact Option.some.inj hr
    · rw [Option.elim_some, setN_stk]
      rfl

/-! ### The other objects (R105, R252, R283, R287, R304) -/

section Compression
variable {s : State} {v : Nat}

/-- The group is loaded and its encoding fits the area placed for it (R304). -/
theorem compressionCheck_fits {d : List Byte} (hd : groupDesc s (bits v 11 0) = some d)
    (hf : encSize (bits v 23 16) (bits v 31 24) ≤ inboundSize s (bits v 11 0)) : compressionCheck s v = stOk := by
  have hf' := Nat.not_lt.mpr hf
  simp [compressionCheck, hd, hf']

theorem compressionCheck_bad (h : ¬((∃ d, groupDesc s (bits v 11 0) = some d) ∧
    encSize (bits v 23 16) (bits v 31 24) ≤ inboundSize s (bits v 11 0))) : compressionCheck s v = stBadValue := by
  refine if_pos ?_
  cases hd : groupDesc s (bits v 11 0) with
  | none => rfl
  | some d => simpa [hd] using h

end Compression

/-- A staged value of its own object. -/
theorem ownWrite_setN {s : State} {key : Nat} {w : WReq} (ha : Accepted s key w) :
    ownWrite s key w noCheck (fun s v => setN s key v) = emit (setN s key w.val) (.objStatus key stOk) := ownWrite_done ha rfl

/-- Settles O38: each accepted write by its effect, EXCUSE through the owner's sums, and a late peer by the conditions of R277. -/
theorem exchangeObjectsAndLatePeers : Obligations.ExchangeObjectsAndLatePeers := by
  unfold Obligations.ExchangeObjectsAndLatePeers
  refine ⟨fun s w ha => ?_, fun s w ha => ?_, fun s w ha => ?_, fun s slot high w ha => ?_, fun s set k w hk ha => ?_, fun s group d hd => ?_⟩
  · have hkept := excuseEffect_excuseKept s w.val
    refine ⟨emit (excuseEffect s w.val) (.objStatus Key.excuse stOk), ?_, ?_, by simp [emit], fun hv => ?_⟩
    · show Host.Outcome.next (ownWrite s Key.excuse w _ _) = _
      rw [ownWrite_done ha rfl, metStacks_none]
    · rw [getN_emit, hkept.excuse, getN_excuseSet]
    · have hmem : w.val ∈ (excuseEffect s w.val).exch.excused := hkept.excused ▸ mem_excused_excuseSet s hv
      exact ⟨hmem, contribThere_of_excused hmem⟩
  · refine ⟨_, congrArg Host.Outcome.next (ownWrite_done ha rfl), ?_, ?_, ?_, ?_⟩
    · exact getN_setN_same s _ _
    · simp [emit, overrideEffect]
    · simp [emit, overrideEffect]
    · simp [emit, overrideEffect]
  · refine ⟨fun ⟨⟨d, hd⟩, hf⟩ => ?_, fun hf => congrArg _ (ownWrite_refused ha (compressionCheck_bad hf) (by decide))⟩
    refine ⟨_, congrArg Host.Outcome.next (ownWrite_done ha (compressionCheck_fits hd hf)), ?_, ?_, ?_⟩
    · simp [emit, compressionEffect]
    · exact amGet_ins_same ..
    · exact getDom_setN s ..
  · refine ⟨_, congrArg Host.Outcome.next (ownWrite_setN ha), ?_, ?_, fun k hk => ?_, ?_⟩
    · rw [getN_emit, getN_setN_same]
    · simp [emit]
    · rw [getN_emit, getN_setN_other _ _ _ _ hk]
    · simp
  · refine ⟨_, congrArg Host.Outcome.next ((if_neg (Nat.not_le.mpr hk)).trans (ownWrite_setN ha)), ?_, ?_, fun x hx => ?_, ?_⟩
    · rw [getN_emit, getN_setN_same]
    · simp [emit]
    · rw [getN_emit, getN_setN_other _ _ _ _ hx]
    · simp
  · intro g
    refine ⟨fun hfin hhold hready hlate hbeat =>
      ⟨_, (exec_peerLate hd).trans (congrArg _ (if_neg ?_)), peerLateSet_leaves s group d⟩, fun h => ?_⟩
    · show ¬(!g.final || g.hold || g.ready || g.late || decide (beatNow s < g.finalBeat + getN s Key.peerLateBeats)) = true
      simp [hfin, hhold, hready, hlate, Nat.not_lt.mpr hbeat]
    · have hcond : (!g.final || g.hold || g.ready || g.late || decide (beatNow s < g.finalBeat + getN s Key.peerLateBeats)) = true := by
        rcases h with h | h | h | h | h <;> simp [h]
      exact (exec_peerLate hd).trans (congrArg _ (if_pos hcond))

end Sys2Proof.Machine


/-! SUPPORT and PROOFS. The array instructions (05_matrix_array.md R111, R119 to R137; 08_activation_sparsity.md R200 to R205): a chunk computed
ends in one of three ways, it passes at once, it passes on its retry, or it fails twice; what each leaves of the state and of the core, and
O13 and O14. -/

namespace Sys2Proof.Machine

/-! ### Objects counted and flagged -/

/-- A state after changes of the objects of `ks` and of no other; the raised flags and the operations not yet counted may change as well. -/
structure CountedIn (ks : List Nat) (s t : State) : Prop where
  rest : ∃ o n m r p, t = { s with objs := o, change := n, changes := m, raised := r, opsLow := p }
  objs : ∀ k, k ∉ ks → getN t k = getN s k

namespace CountedIn

theorem refl (ks : List Nat) (s : State) : CountedIn ks s s := ⟨⟨_, _, _, _, _, rfl⟩, fun _ _ => rfl⟩

variable {ks ks' : List Nat} {s t u : State}

theorem trans (h : CountedIn ks s t) (h' : CountedIn ks t u) : CountedIn ks s u := by
  obtain ⟨o, n, m, r, p, rfl⟩ := h.rest
  obtain ⟨o', n', m', r', p', rfl⟩ := h'.rest
  exact ⟨⟨o', n', m', r', p', rfl⟩, fun k hk => (h'.objs k hk).trans (h.objs k hk)⟩

theorem mono (h : CountedIn ks s t) (hs : ks ⊆ ks') : CountedIn ks' s t := ⟨h.rest, fun k hk => h.objs k fun hn => hk (hs hn)⟩

theorem out (h : CountedIn ks s t) : t.out = s.out := by obtain ⟨o, n, m, r, p, rfl⟩ := h.rest; rfl
theorem grid (h : CountedIn ks s t) : t.grid = s.grid := by obtain ⟨o, n, m, r, p, rfl⟩ := h.rest; rfl

end CountedIn

section Counted
variable {ks : List Nat} (s : State) {key : Nat}

theorem setN_countedIn (v : Nat) (hk : key ∈ ks) : CountedIn ks s (setN s key v) := by
  obtain ⟨o, n, m, h⟩ := setN_eq s key v
  exact ⟨⟨o, n, m, s.raised, s.opsLow, h⟩, fun k hn => getN_setN_other s key v k fun e => hn (e ▸ hk)⟩

theorem addN_countedIn (w n : Nat) (hk : key ∈ ks) : CountedIn ks s (addN s key w n) := setN_countedIn s _ hk

theorem count64_countedIn (hk : key ∈ ks) : CountedIn ks s (count64 s key) := setN_countedIn s _ hk

theorem raiseNow_countedIn (b : Nat) (hk : key ∈ ks) (hc : key + 1 + b ∈ ks) : CountedIn ks s (raiseNow s key b) :=
  (setN_countedIn s _ hk).trans (addN_countedIn _ _ _ hc)

theorem raise_countedIn (b : Nat) : CountedIn ks s (raise s key b) := ⟨⟨_, _, _, _, _, rfl⟩, fun _ _ => rfl⟩

theorem countOps_countedIn (n : Nat) (hk : Key.arrayDenseOps ∈ ks) : CountedIn ks s (countOps s n) := by
  have hlow : CountedIn ks s { s with opsLow := (s.opsLow + n) % 2 ^ 20 } := ⟨⟨_, _, _, _, _, rfl⟩, fun _ _ => rfl⟩
  exact hlow.trans (addN_countedIn _ _ _ hk)

end Counted

/-- A flag of ARRAY_FLAGS stays where another is raised (R434). -/
theorem bit_arrayFlags_raiseNow {s : State} {b : Nat} (k : Nat) (h : bit (getN s Key.arrayFlags) b = true) :
    bit (getN (raiseNow s Key.arrayFlags k) Key.arrayFlags) b = true := by
  rw [getN_raiseNow_same]
  exact bit_or_of_bit _ _ _ h

/-! ### A core's accumulator tile and its flags -/

theorem accGet_accPut_other (c : Core) {n k : BitVec 2} (t : AccTile) (h : k ≠ n) : accGet (accPut c n t) k = accGet c k :=
  Vector.getElem_set_ne n.isLt k.isLt fun e => h (BitVec.eq_of_toNat_eq e).symm

/-- A tile that is written back as it stands changes nothing. -/
theorem accPut_accGet (c : Core) (n : BitVec 2) : accPut c n (accGet c n) = c := by simp [accPut, accGet]

/-- A core after changes of one accumulator tile and the array's flags. -/
def ArrayChange (n : BitVec 2) (c d : Core) : Prop :=
  ∃ t u v, d = { accPut c n t with stickyA := u, beatA := v }

namespace ArrayChange
variable {n : BitVec 2} {c d e : Core}

theorem refl (n : BitVec 2) (c : Core) : ArrayChange n c c :=
  ⟨accGet c n, c.stickyA, c.beatA, by rw [accPut_accGet]⟩

theorem trans (h : ArrayChange n c d) (h' : ArrayChange n d e) : ArrayChange n c e := by
  obtain ⟨t, u, v, rfl⟩ := h
  obtain ⟨t', u', v', rfl⟩ := h'
  exact ⟨t', u', v', by simp [accPut]⟩

theorem sram (h : ArrayChange n c d) : d.sram = c.sram := by obtain ⟨t, u, v, rfl⟩ := h; rfl
theorem x (h : ArrayChange n c d) : d.x = c.x := by obtain ⟨t, u, v, rfl⟩ := h; rfl
theorem stg (h : ArrayChange n c d) : d.stg = c.stg := by obtain ⟨t, u, v, rfl⟩ := h; rfl
theorem ix (h : ArrayChange n c d) : d.ix = c.ix := by obtain ⟨t, u, v, rfl⟩ := h; rfl
theorem ex32 (h : ArrayChange n c d) : d.ex32 = c.ex32 := by obtain ⟨t, u, v, rfl⟩ := h; rfl
theorem pc (h : ArrayChange n c d) : d.pc = c.pc := by obtain ⟨t, u, v, rfl⟩ := h; rfl

theorem otherTile (h : ArrayChange n c d) {k : BitVec 2} (hk : k ≠ n) : accGet d k = accGet c k := by
  obtain ⟨t, u, v, rfl⟩ := h
  exact accGet_accPut_other c t hk

end ArrayChange

theorem accPut_arrayChange (c : Core) (n : BitVec 2) (t : AccTile) : ArrayChange n c (accPut c n t) := ⟨t, _, _, rfl⟩

theorem flagArray_arrayChange (c : Core) (n : BitVec 2) (f : Nat) : ArrayChange n c (flagArray c f) :=
  ⟨accGet c n, _, _, by rw [accPut_accGet]; rfl⟩

@[simp] theorem accGet_flagArray (c : Core) (f : Nat) (n : BitVec 2) : accGet (flagArray c f) n = accGet c n := rfl

@[simp] theorem accGet_consume (c : Core) (p : Bool) (n : BitVec 2) : accGet (consume c p) n = accGet c n := by simp [accGet]

/-! ### Poison and parity of a tile (R133, R134) -/

theorem poisonAcc_countedIn (s : State) (c : Core) (n : BitVec 2) : CountedIn [Key.tilesPoisoned] s (poisonAcc s c n).1 := by
  unfold poisonAcc
  dsimp only
  split
  · exact .refl _ s
  · exact count64_countedIn s (by decide)

@[simp] theorem accGet_poisonAcc (s : State) (c : Core) (n : BitVec 2) :
    accGet (poisonAcc s c n).2 n = { accGet c n with poison := true } := accGet_accPut_same c n _

/-- The objects that a poisoned or a misread tile counts in. -/
def tileKeys : List Nat := [Key.tilesPoisoned, Key.arrayFlags, Key.arrayFlags + 1 + 3]

section ReadParity
variable (s : State) (c : Core) (n : BitVec 2) (parity : Bool) (words : Nat)

/-- Words that agree with their parity bits are read and nothing else. -/
theorem readParity_of_good (h : parityBad (accGet c n) words = false) : readParity s c n false words = (s, c) := by
  simp [readParity, h]

theorem readParity_countedIn : CountedIn tileKeys s (readParity s c n parity words).1 := by
  unfold readParity
  split
  · exact ((poisonAcc_countedIn s c n).mono (by decide)).trans (raiseNow_countedIn _ 3 (by decide) (by decide))
  · exact .refl _ s

/-- The read goes on with the stored values. -/
theorem words_readParity : (accGet (readParity s c n parity words).2 n).words = (accGet c n).words := by
  unfold readParity
  split
  · exact (congrArg AccTile.words (accGet_poisonAcc s c n):)
  · rfl

theorem bit_arrayFlags_readParity {b : Nat} (h : bit (getN s Key.arrayFlags) b = true) :
    bit (getN (readParity s c n parity words).1 Key.arrayFlags) b = true := by
  unfold readParity
  split
  · exact bit_arrayFlags_raiseNow 3 (by rwa [(poisonAcc_countedIn s c n).objs _ (by decide)])
  · exact h

end ReadParity

/-! ### What a chunk reads of its core -/

theorem instrPoisoned_congr {c d : Core} (m : MmaFields) (h : d.stg = c.stg) : instrPoisoned d m = instrPoisoned c m := by
  simp only [instrPoisoned, stgGet, h]

theorem chunkOf_congr {c d : Core} (m : MmaFields) (mask : Nat → Nat → Bool) (h : d.stg = c.stg) : chunkOf d m mask = chunkOf c m mask := by
  simp only [chunkOf, stgGet, h]

theorem selectChunk_congr {c d : Core} (m : MmaFields) (drop : Bool) (x : IndexSet) (h : d.stg = c.stg) :
    selectChunk d m drop x = selectChunk c m drop x := by
  simp only [selectChunk, stgGet, h]

/-! ### A chunk written (R119 to R121, R134) -/

/-- The words of a tile after a chunk. -/
abbrev tileAfter (ws : Vector W32 256) (ch : Chunk) (r : TryRes) : Vector W32 256 :=
  vecOf 256 fun k => (accumulateTile ws.toList ch r.cells).1.getD k 0

/-- The core with a chunk's results in its tile and their flags raised. -/
def chunkWritten (c : Core) (m : MmaFields) (ch : Chunk) (r : TryRes) : Core :=
  flagArray (accPut c m.acc (accOf (tileAfter (accGet c m.acc).words ch r) (accGet c m.acc).poison))
    (accumulateTile (accGet c m.acc).words.toList ch r.cells).2

theorem chunkWritten_arrayChange (c : Core) (m : MmaFields) (ch : Chunk) (r : TryRes) : ArrayChange m.acc c (chunkWritten c m ch r) :=
  (accPut_arrayChange c m.acc _).trans (flagArray_arrayChange _ _ _)

@[simp] theorem accGet_chunkWritten (c : Core) (m : MmaFields) (ch : Chunk) (r : TryRes) :
    accGet (chunkWritten c m ch r) m.acc = accOf (tileAfter (accGet c m.acc).words ch r) (accGet c m.acc).poison := by
  simp [chunkWritten]

section FinishChunk
variable (s : State) (c : Core) (m : MmaFields) (parity : Bool) (ch : Chunk) (r : TryRes)

theorem finishChunk_eq : finishChunk s c m parity ch r =
    let p := readParity s c m.acc parity (ch.a.length * ch.b.length)
    let d := chunkWritten p.2 m ch r
    if instrPoisoned d m then ((poisonAcc p.1 d m.acc).1, consume (poisonAcc p.1 d m.acc).2 true) else (p.1, d) := rfl

/-- A chunk of clean segments into a tile whose words agree with their parity. -/
theorem finishChunk_of_clean (hp : instrPoisoned c m = false) (hb : parityBad (accGet c m.acc) (ch.a.length * ch.b.length) = false) :
    finishChunk s c m false ch r = (s, chunkWritten c m ch r) := by
  have hp' : instrPoisoned (chunkWritten c m ch r) m = false :=
    (instrPoisoned_congr m (chunkWritten_arrayChange c m ch r).stg).trans hp
  rw [finishChunk_eq, readParity_of_good s c m.acc _ hb]
  simp [hp']

theorem finishChunk_countedIn : CountedIn tileKeys s (finishChunk s c m parity ch r).1 := by
  rw [finishChunk_eq]
  dsimp only
  split
  · exact (readParity_countedIn ..).trans ((poisonAcc_countedIn ..).mono (by decide))
  · exact readParity_countedIn ..

theorem bit_arrayFlags_finishChunk {b : Nat} (h : bit (getN s Key.arrayFlags) b = true) :
    bit (getN (finishChunk s c m parity ch r).1 Key.arrayFlags) b = true := by
  have hread := bit_arrayFlags_readParity s c m.acc parity (ch.a.length * ch.b.length) h
  rw [finishChunk_eq]
  dsimp only
  split
  · rwa [(poisonAcc_countedIn ..).objs _ (by decide)]
  · exact hread

/-- Poison and parity errors leave the words as the chunk makes them (R133, R134). -/
theorem words_finishChunk : (accGet (finishChunk s c m parity ch r).2 m.acc).words = tileAfter (accGet c m.acc).words ch r := by
  have hwords := words_readParity s c m.acc parity (ch.a.length * ch.b.length)
  rw [finishChunk_eq]
  dsimp only
  split <;> simp [accOf, hwords]

end FinishChunk

/-! ### A failed comparison (R131, R137) -/

/-- The capture of a failed comparison. -/
def checkCaptureKeys : List Nat :=
  [Key.checkCaptureCore, Key.checkCapturePhys, Key.checkCaptureRows, Key.checkCaptureCols, Key.checkCaptureKind, Key.checkCaptureFormat,
    Key.checkCaptureBeat, Key.checkCaptureEmpty]

/-- The objects that a failed comparison changes. -/
def mismatchKeys : List Nat :=
  [Key.arrayFlags, Key.arrayFlags + 1, Key.arrayFlags + 1 + 2, Key.mismatchesTotal] ++ checkCaptureKeys

/-- A failed comparison flagged and counted. -/
def mismatchCounted (s : State) (adders : Bool) : State :=
  let s := count64 (raiseNow s Key.arrayFlags 0) Key.mismatchesTotal
  if adders then raiseNow s Key.arrayFlags 2 else s

theorem mismatchCounted_countedIn (s : State) (adders : Bool) : CountedIn mismatchKeys s (mismatchCounted s adders) := by
  have hfirst : CountedIn mismatchKeys s (count64 (raiseNow s Key.arrayFlags 0) Key.mismatchesTotal) :=
    (raiseNow_countedIn s 0 (by decide) (by decide)).trans (count64_countedIn _ (by decide))
  unfold mismatchCounted
  dsimp only
  split
  · exact hfirst.trans (raiseNow_countedIn _ 2 (by decide) (by decide))
  · exact hfirst

theorem getN_mismatchCounted_total (s : State) (adders : Bool) :
    getN (mismatchCounted s adders) Key.mismatchesTotal = satAdd 64 (getN s Key.mismatchesTotal) 1 := by
  unfold mismatchCounted
  dsimp only
  split <;> simp (disch := decide) only [getN_raiseNow_other, getN_count64_same]

theorem bit_mismatchCounted (s : State) (adders : Bool) : bit (getN (mismatchCounted s adders) Key.arrayFlags) 0 = true := by
  have hfirst : bit (getN (count64 (raiseNow s Key.arrayFlags 0) Key.mismatchesTotal) Key.arrayFlags) 0 = true := by
    rw [getN_count64_other _ _ _ (by decide), getN_raiseNow_same, bit_or_two_pow]
  unfold mismatchCounted
  dsimp only
  split
  · exact bit_arrayFlags_raiseNow 2 hfirst
  · exact hfirst

section CheckMismatch
variable (s : State) (id : CoreId) (m : MmaFields) (r : TryRes) (adders : Bool)

/-- After its flags and its count a failed comparison changes at most the capture. -/
theorem checkMismatch_of_counted : CountedIn checkCaptureKeys (mismatchCounted s adders) (checkMismatch s id m r adders) := by
  show CountedIn checkCaptureKeys (mismatchCounted s adders) (if getN (mismatchCounted s adders) Key.checkCaptureEmpty = 1 then _ else _)
  split
  · refine .trans (.trans (.trans (.trans (.trans (.trans (.trans (setN_countedIn _ _ ?_) (setN_countedIn _ _ ?_)) (setN_countedIn _ _ ?_))
      (setN_countedIn _ _ ?_)) (setN_countedIn _ _ ?_)) (setN_countedIn _ _ ?_)) (setN_countedIn _ _ ?_)) (setN_countedIn _ _ ?_)
    all_goals decide
  · exact .refl _ _

theorem checkMismatch_countedIn : CountedIn mismatchKeys s (checkMismatch s id m r adders) :=
  (mismatchCounted_countedIn s adders).trans ((checkMismatch_of_counted ..).mono (by decide))

theorem getN_checkMismatch_total : getN (checkMismatch s id m r adders) Key.mismatchesTotal = satAdd 64 (getN s Key.mismatchesTotal) 1 := by
  rw [(checkMismatch_of_counted ..).objs _ (by decide), getN_mismatchCounted_total]

theorem bit_checkMismatch : bit (getN (checkMismatch s id m r adders) Key.arrayFlags) 0 = true := by
  rw [(checkMismatch_of_counted ..).objs _ (by decide), bit_mismatchCounted]

end CheckMismatch

/-- The data of a failed check read the beat and the place of the core only (R132). -/
theorem checkData_of_countedIn {ks : List Nat} {s t : State} (h : CountedIn ks s t) (hb : Key.beatNumber ∉ ks)
    (he : Key.excludedFieldColumn ∉ ks) (id : CoreId) (m : MmaFields) (r : TryRes) : checkData t id m r = checkData s id m r := by
  have hfield : coreField t id = coreField s id := by simp only [coreField, h.objs _ he]
  have hdetour : ∀ f i, detourCol t f i = detourCol s f i := fun f i => by
    unfold detourCol rowEntry
    rw [h.grid]
  have hplace : physicalOf t id = physicalOf s id := by simp only [physicalOf, hfield, hdetour]
  rw [checkData, checkData, hplace, show beatNow t = beatNow s from h.objs _ hb]

/-! ### The three ends of a chunk (R116 to R134) -/

/-- One computation of the chunk of an instruction. -/
abbrev attempt (s : State) (c : Core) (m : MmaFields) (mask : Nat → Nat → Bool) (es : List CellErr) : TryRes :=
  tryChunk (getN s Key.checkTolUlp) (chunkOf c m mask) (m.kcM1.toNat + 1) es

/-- A computation reads CHECK_TOL_ULP and the staging tiles. -/
theorem attempt_congr {s t : State} {c d : Core} (m : MmaFields) (mask : Nat → Nat → Bool) (es : List CellErr)
    (ht : getN t Key.checkTolUlp = getN s Key.checkTolUlp) (h : d.stg = c.stg) : attempt t d m mask es = attempt s c m mask es := by
  rw [attempt, attempt, ht, chunkOf_congr m mask h]

/-- The objects that every chunk counts in. -/
def chunkKeys : List Nat := [Key.chunksChecked, Key.arrayDenseOps, Key.arrayBusyCycles, Key.comparesSkipped]

/-- A chunk's first computation counted (R130, R137). -/
def chunkCounted (s : State) (ch : Chunk) (kc cycles : Nat) (first : TryRes) : State :=
  let s := addN (countOps (count64 s Key.chunksChecked) (2 * ch.a.length * ch.b.length * kc)) Key.arrayBusyCycles 64 cycles
  if first.skipped then count64 s Key.comparesSkipped else s

/-- The flags of the split of an EX32 chunk (R124). -/
def splitFlagged (c : Core) (m : MmaFields) (ch : Chunk) : Core :=
  if m.fmt = 7 ∧ (ch.a ++ ch.b).any (fun r => r.any ex32Dropped) then flagArray c flagInexact else c

/-- The failed first computation noted and the retry's cycles counted (R131). -/
def retryBegun (s : State) (id : CoreId) (m : MmaFields) (first : TryRes) (adders : Bool) (again : Nat) : State :=
  addN (checkMismatch s id m first adders) Key.arrayBusyCycles 64 again

/-- What adders that disagree have read before a second failure poisons the tile (R133). -/
def failureRead (s : State) (c : Core) (m : MmaFields) (fault : ArrayFault) (ch : Chunk) : State × Core :=
  if fault.addersFirst || fault.addersRetry then readParity s c m.acc fault.parity (ch.a.length * ch.b.length) else (s, c)

/-- The state and the core that a second failure leaves to its exception (R132, R133). -/
def chunkFailed (s : State) (c : Core) (m : MmaFields) (fault : ArrayFault) (ch : Chunk) : State × Core :=
  let p := poisonAcc (failureRead s c m fault ch).1 (failureRead s c m fault ch).2 m.acc
  let s := raiseNow p.1 Key.arrayFlags 1
  (if fault.addersRetry then raiseNow s Key.arrayFlags 2 else s, p.2)

section RunChunk
variable (s : State) (id : CoreId) (c : Core) (m : MmaFields) (mask : Nat → Nat → Bool) (fault : ArrayFault) (cycles again : Nat)

/-- The state after the first computation of an instruction's chunk. -/
abbrev tried : State := chunkCounted s (chunkOf c m mask) (m.kcM1.toNat + 1) cycles (attempt s c m mask fault.first)

/-- The state in which an instruction's chunk is computed again. -/
abbrev retried : State := retryBegun (tried s c m mask fault cycles) id m (attempt s c m mask fault.first) fault.addersFirst again

theorem runChunk_of_pass (h : (attempt s c m mask fault.first).ok = true) (ha : fault.addersFirst = false) :
    runChunk s id c m mask fault cycles again =
      let p := finishChunk (tried s c m mask fault cycles) (splitFlagged c m (chunkOf c m mask)) m fault.parity (chunkOf c m mask)
        (attempt s c m mask fault.first)
      .next p.1 p.2 :=
  if_pos (by rw [h, ha]; rfl)

theorem runChunk_of_retry (h : (attempt s c m mask fault.first).ok = false ∨ fault.addersFirst = true)
    (h2 : (attempt s c m mask fault.retry).ok = true) (ha : fault.addersRetry = false) :
    runChunk s id c m mask fault cycles again =
      let p := finishChunk (count64 (retried s id c m mask fault cycles again) Key.retriesPassed) (splitFlagged c m (chunkOf c m mask)) m
        fault.parity (chunkOf c m mask) (attempt s c m mask fault.retry)
      .next p.1 p.2 :=
  (if_neg (by rcases h with h | h <;> simp [h])).trans (if_pos (by rw [h2, ha]; rfl))

theorem runChunk_of_failure (h : (attempt s c m mask fault.first).ok = false ∨ fault.addersFirst = true)
    (h2 : (attempt s c m mask fault.retry).ok = false ∨ fault.addersRetry = true) :
    runChunk s id c m mask fault cycles again =
      let p := chunkFailed (retried s id c m mask fault cycles again) (splitFlagged c m (chunkOf c m mask)) m fault (chunkOf c m mask)
      .late p.1 p.2 excArrayCheck (checkData (tried s c m mask fault cycles) id m (attempt s c m mask fault.first)) :=
  (if_neg (by rcases h with h | h <;> simp [h])).trans (if_neg (by rcases h2 with h | h <;> simp [h]))

end RunChunk

/-! ### What the three ends leave -/

theorem chunkCounted_countedIn (s : State) (ch : Chunk) (kc cycles : Nat) (first : TryRes) :
    CountedIn chunkKeys s (chunkCounted s ch kc cycles first) := by
  have hfed : CountedIn chunkKeys s
      (addN (countOps (count64 s Key.chunksChecked) (2 * ch.a.length * ch.b.length * kc)) Key.arrayBusyCycles 64 cycles) :=
    ((count64_countedIn s (by decide)).trans (countOps_countedIn _ _ (by decide))).trans (addN_countedIn _ _ _ (by decide))
  unfold chunkCounted
  dsimp only
  split
  · exact hfed.trans (count64_countedIn _ (by decide))
  · exact hfed

/-- The count of operations leaves every object but its own. -/
theorem getN_countOps_other (s : State) (n : Nat) {k : Nat} (hk : k ≠ Key.arrayDenseOps) : getN (countOps s n) k = getN s k :=
  (countOps_countedIn (ks := [Key.arrayDenseOps]) s n (by decide)).objs k (by simpa using hk)

/-- A chunk is counted once, with the cycles of its feed (R137). -/
theorem getN_chunkCounted (s : State) (ch : Chunk) (kc cycles : Nat) (first : TryRes) :
    getN (chunkCounted s ch kc cycles first) Key.chunksChecked = satAdd 64 (getN s Key.chunksChecked) 1 ∧
      getN (chunkCounted s ch kc cycles first) Key.arrayBusyCycles = satAdd 64 (getN s Key.arrayBusyCycles) cycles := by
  unfold chunkCounted
  dsimp only
  split <;> simp (disch := decide) only [getN_count64_other, getN_addN_other, getN_addN_same, getN_countOps_other, getN_count64_same, and_self]

theorem splitFlagged_arrayChange (c : Core) (m : MmaFields) (ch : Chunk) : ArrayChange m.acc c (splitFlagged c m ch) := by
  unfold splitFlagged
  split
  · exact flagArray_arrayChange c m.acc _
  · exact .refl _ c

@[simp] theorem accGet_splitFlagged (c : Core) (m : MmaFields) (ch : Chunk) (n : BitVec 2) : accGet (splitFlagged c m ch) n = accGet c n := by
  unfold splitFlagged
  split <;> rfl

section Retry
variable (s : State) (id : CoreId) (m : MmaFields) (first : TryRes) (adders : Bool) (again : Nat)

theorem retryBegun_countedIn : CountedIn (Key.arrayBusyCycles :: mismatchKeys) s (retryBegun s id m first adders again) :=
  ((checkMismatch_countedIn ..).mono (by decide)).trans (addN_countedIn _ _ _ (by decide))

theorem getN_retryBegun_total :
    getN (retryBegun s id m first adders again) Key.mismatchesTotal = satAdd 64 (getN s Key.mismatchesTotal) 1 := by
  rw [retryBegun, getN_addN_other _ _ _ _ _ (by decide), getN_checkMismatch_total]

theorem bit_retryBegun : bit (getN (retryBegun s id m first adders again) Key.arrayFlags) 0 = true := by
  rw [retryBegun, getN_addN_other _ _ _ _ _ (by decide), bit_checkMismatch]

end Retry

/-- The objects that a second failure changes. -/
def failureKeys : List Nat :=
  [Key.tilesPoisoned, Key.arrayFlags, Key.arrayFlags + 1 + 1, Key.arrayFlags + 1 + 2, Key.arrayFlags + 1 + 3]

section Failed
variable (s : State) (c : Core) (m : MmaFields) (fault : ArrayFault) (ch : Chunk)

theorem failureRead_countedIn : CountedIn tileKeys s (failureRead s c m fault ch).1 := by
  unfold failureRead
  split
  · exact readParity_countedIn ..
  · exact .refl _ s

theorem chunkFailed_countedIn : CountedIn failureKeys s (chunkFailed s c m fault ch).1 := by
  have hpoison : CountedIn failureKeys s (poisonAcc (failureRead s c m fault ch).1 (failureRead s c m fault ch).2 m.acc).1 :=
    ((failureRead_countedIn s c m fault ch).mono (by decide)).trans ((poisonAcc_countedIn ..).mono (by decide))
  have hflag := hpoison.trans (raiseNow_countedIn (key := Key.arrayFlags) _ 1 (by decide) (by decide))
  unfold chunkFailed
  dsimp only
  split
  · exact hflag.trans (raiseNow_countedIn _ 2 (by decide) (by decide))
  · exact hflag

theorem bit_chunkFailed : bit (getN (chunkFailed s c m fault ch).1 Key.arrayFlags) 1 = true := by
  have hflag (u : State) : bit (getN (raiseNow u Key.arrayFlags 1) Key.arrayFlags) 1 = true := by rw [getN_raiseNow_same, bit_or_two_pow]
  unfold chunkFailed
  dsimp only
  split
  · exact bit_arrayFlags_raiseNow 2 (hflag _)
  · exact hflag _

/-- The flags that stand in ARRAY_FLAGS stay through a second failure. -/
theorem bit_chunkFailed_of_bit {b : Nat} (h : bit (getN s Key.arrayFlags) b = true) :
    bit (getN (chunkFailed s c m fault ch).1 Key.arrayFlags) b = true := by
  have hread : bit (getN (failureRead s c m fault ch).1 Key.arrayFlags) b = true := by
    unfold failureRead
    split
    · exact bit_arrayFlags_readParity _ _ _ _ _ h
    · exact h
  have hflag : bit (getN (raiseNow (poisonAcc (failureRead s c m fault ch).1 (failureRead s c m fault ch).2 m.acc).1 Key.arrayFlags 1)
      Key.arrayFlags) b = true :=
    bit_arrayFlags_raiseNow 1 (by rwa [(poisonAcc_countedIn ..).objs _ (by decide)])
  unfold chunkFailed
  dsimp only
  split
  · exact bit_arrayFlags_raiseNow 2 hflag
  · exact hflag

@[simp] theorem poison_chunkFailed : (accGet (chunkFailed s c m fault ch).2 m.acc).poison = true :=
  congrArg AccTile.poison (accGet_poisonAcc (failureRead s c m fault ch).1 _ _)

end Failed

/-! ### ARRAY_CHECK (R132, R169) -/

/-- An instruction that issues, takes effect and raises an exception after it. -/
theorem tileIssue_late {s : State} {i : Issue} {word : Nat} {mine : Wait → Bool} {body : Core → State → TOut} (h : Issues s i)
    (hw : spells (fetchWord (issueCore s i)) word = true) {s2 : State} {c2 : Core} {code : Nat} {report : List Nat}
    (hb : body (issueCore s i) s = .late s2 c2 code report) :
    tileIssue i word mine body s = takeException s2 i.core c2 code ((issueCore s i).pc + 1) (issueCore s i).pc report := by
  rw [tileIssue_of h.inGrid (takesIssue_running h.running) h.clean h.fetch hw, hb]

/-- The save of the context writes no accumulator tile. -/
theorem accGet_faultCore (c : Core) (code pc : Nat) (n : BitVec 2) : accGet (faultCore c code pc) n = accGet c n := by
  obtain ⟨m, p, w, h⟩ := saveContext_sramChange { c with
    st := .faulted, excCause := code, excPc := pc, pc := pc, wait := none, progressed := true
    ex32 := if code = 8 then none else c.ex32 }
  rw [faultCore, h]
  rfl

section ArrayCheck
variable (s : State) (id : CoreId) (c : Core) (pc chunkPc : Nat) (report : List Nat)

/-- ARRAY_CHECK sends ARRAY_FAULT and sets no flag of the cores. -/
theorem takeException_arrayCheck : takeException s id c excArrayCheck pc chunkPc report =
    emit (excCaptured (excCounted s id c excArrayCheck pc) id excArrayCheck pc chunkPc)
      (.vc0Report 1 ([coreWord id, excArrayCheck, pc] ++ report)) := rfl

theorem takeException_arrayCheck_out : (takeException s id c excArrayCheck pc chunkPc report).out =
    s.out ++ [.vc0Report 1 ([coreWord id, excArrayCheck, pc] ++ report)] := by
  rw [takeException_arrayCheck]
  show (excCaptured _ _ _ _ _).out ++ _ = _
  rw [excCaptured_out, excCounted_out]

/-- ARRAY_CHECK changes the exceptions' capture and its own count only. -/
theorem getN_takeException_arrayCheck {k : Nat} (hk : k ∉ (Key.excCount 0 + excArrayCheck - 1) :: captureKeys) :
    getN (takeException s id c excArrayCheck pc chunkPc report) k = getN s k := by
  rw [List.mem_cons, not_or] at hk
  rw [takeException_arrayCheck, getN_emit, getN_excCaptured_other _ _ _ _ _ hk.2, getN_excCounted_other _ _ _ _ _ hk.1]

end ArrayCheck

/-- The objects that a second failure and its ARRAY_CHECK change. -/
def arrayCheckKeys : List Nat := failureKeys ++ (Key.excCount 0 + excArrayCheck - 1) :: captureKeys

/-- A chunk of `m` that failed twice, from the state `u` in which it was computed again: the core at `pc` is FAULTED, its tile poisoned, and
ARRAY_FAULT carries the data of the check. -/
structure ArrayCheckTaken (u : State) (id : CoreId) (m : MmaFields) (pc : Nat) (data : List Nat) (t : State) : Prop where
  st : (getCore t id).st = .faulted
  cause : (getCore t id).excCause = excArrayCheck
  excPc : (getCore t id).excPc = pc
  poison : (accGet (getCore t id) m.acc).poison = true
  failed : bit (getN t Key.arrayFlags) 1 = true
  flags : ∀ b, bit (getN u Key.arrayFlags) b = true → bit (getN t Key.arrayFlags) b = true
  objs : ∀ k, k ∉ arrayCheckKeys → getN t k = getN u k
  out : t.out = u.out ++ [.vc0Report 1 ([coreWord id, excArrayCheck, pc] ++ data)]

theorem arrayCheckTaken_of {s u : State} {i : Issue} {word : Nat} {body : Core → State → TOut} {m : MmaFields} {c : Core}
    {fault : ArrayFault} {ch : Chunk} {data : List Nat} (hi : Issues s i) (hw : spells (fetchWord (issueCore s i)) word = true)
    (hb : body (issueCore s i) s = .late (chunkFailed u c m fault ch).1 (chunkFailed u c m fault ch).2 excArrayCheck data) :
    ArrayCheckTaken u i.core m ((issueCore s i).pc + 1) data (tileIssue i word noWait body s) := by
  have hfail := chunkFailed_countedIn u c m fault ch
  have hcore := getCore_takeException (chunkFailed u c m fault ch).1 i.core (chunkFailed u c m fault ch).2 excArrayCheck
    ((issueCore s i).pc + 1) (issueCore s i).pc data
  obtain ⟨hst, hcause, hexcPc, -, -, -⟩ := faultCore_fields (chunkFailed u c m fault ch).2 excArrayCheck ((issueCore s i).pc + 1)
  rw [tileIssue_late hi hw hb]
  exact
    { st := by rw [hcore, hst]
      cause := by rw [hcore, hcause]
      excPc := by rw [hcore, hexcPc]
      poison := by rw [hcore, accGet_faultCore, poison_chunkFailed]
      failed := by rw [getN_takeException_arrayCheck _ _ _ _ _ _ (by decide), bit_chunkFailed]
      flags := fun b hbit => by
        rw [getN_takeException_arrayCheck _ _ _ _ _ _ (by decide)]
        exact bit_chunkFailed_of_bit _ _ _ _ _ hbit
      objs := fun k hk => by
        rw [arrayCheckKeys, List.mem_append, not_or] at hk
        obtain ⟨hk, hk'⟩ := hk
        rw [getN_takeException_arrayCheck _ _ _ _ _ _ hk', hfail.objs k hk]
      out := by rw [takeException_arrayCheck_out, hfail.out] }

/-! ### MMA (R184) -/

/-- An MMA with valid operands, and no EX32 chunk open, runs its chunk. -/
theorem exec_mma {s : State} {i : Issue} {m : MmaFields} (fault : ArrayFault) (ho : arrayOperandBad 0 m = false)
    (hx : (issueCore s i).ex32 = none) :
    ∃ body : Core → State → TOut, exec (.mma i m fault) s = .next (tileIssue i (wordMma m) noWait body s) ∧
      body (issueCore s i) s = runChunk s i.core (issueCore s i) m noMask fault (chunkCycles m.shape m.fmt) (chunkCycles m.shape m.fmt) :=
  ⟨_, rfl, unlessExc_of (firstExc_none (by simp [ho, hx]))⟩

/-- A chunk of `m` written by a retry that passes (R131), from the state `u` in which it was computed again. -/
structure RetryPassed (u : State) (id : CoreId) (m : MmaFields) (ws : Vector W32 256) (t : State) : Prop where
  st : (getCore t id).st = .running
  words : (accGet (getCore t id) m.acc).words = ws
  counted : getN t Key.retriesPassed = satAdd 64 (getN u Key.retriesPassed) 1
  flags : ∀ b, bit (getN u Key.arrayFlags) b = true → bit (getN t Key.arrayFlags) b = true
  objs : ∀ k, k ∉ Key.retriesPassed :: tileKeys → getN t k = getN u k

theorem retryPassed_of {s u : State} {i : Issue} {word : Nat} {body : Core → State → TOut} {m : MmaFields} {c : Core} {ch : Chunk}
    {r : TryRes} {parity : Bool} (hi : Issues s i) (hw : spells (fetchWord (issueCore s i)) word = true)
    (hb : body (issueCore s i) s =
      let p := finishChunk (count64 u Key.retriesPassed) c m parity ch r
      .next p.1 p.2) :
    RetryPassed u i.core m (tileAfter (accGet c m.acc).words ch r) (tileIssue i word noWait body s) := by
  have hcount : CountedIn [Key.retriesPassed] u (count64 u Key.retriesPassed) := count64_countedIn u (by decide)
  have hfinish := finishChunk_countedIn (count64 u Key.retriesPassed) c m parity ch r
  have hwritten := words_finishChunk (count64 u Key.retriesPassed) c m parity ch r
  rw [tileIssue_done hi hw hb]
  exact
    { st := by rw [completed, getCore_setCore_same]
      words := by
        rw [completed, getCore_setCore_same]
        exact hwritten
      counted := by rw [completed, getN_setCore, hfinish.objs _ (by decide), getN_count64_same]
      flags := fun b hbit => by
        rw [completed, getN_setCore]
        exact bit_arrayFlags_finishChunk _ _ _ _ _ _ (by rwa [hcount.objs _ (by decide)])
      objs := fun k hk => by
        rw [List.mem_cons, not_or] at hk
        rw [completed, getN_setCore, hfinish.objs k hk.2, hcount.objs k (by simpa using hk.1)] }

/-- Settles O14: a chunk that fails its first computation is counted as a mismatch, and ends by its retry or in ARRAY_CHECK. -/
theorem failedChunkRaisesArrayCheck : Obligations.FailedChunkRaisesArrayCheck := by
  unfold Obligations.FailedChunkRaisesArrayCheck
  intro s i m f hi hs ho hx c chunk first second hfirst
  obtain ⟨body, hexec, hbody⟩ := exec_mma f ho hx
  let v := tried s c m noMask f (chunkCycles m.shape m.fmt)
  let u := retried s i.core c m noMask f (chunkCycles m.shape m.fmt) (chunkCycles m.shape m.fmt)
  have htried : CountedIn chunkKeys s v := chunkCounted_countedIn ..
  have hretried : CountedIn (chunkKeys ++ mismatchKeys) s u :=
    (htried.mono (by decide)).trans ((retryBegun_countedIn ..).mono (by decide))
  have htotal : getN u Key.mismatchesTotal = satAdd 64 (getN s Key.mismatchesTotal) 1 := by
    rw [getN_retryBegun_total, htried.objs _ (by decide)]
  have hflag : bit (getN u Key.arrayFlags) 0 = true := bit_retryBegun ..
  refine ⟨_, hexec, ?_⟩
  by_cases hpass : second.ok = true ∧ f.addersRetry = false
  · obtain ⟨hok, hadders⟩ := hpass
    have h := retryPassed_of hi (hs.spells rfl) (hbody.trans (runChunk_of_retry s i.core c m noMask f _ _ hfirst hok hadders))
    refine ⟨?_, h.flags 0 hflag, fun _ _ => ⟨h.st, ?_, ?_⟩, fun hbad => ?_⟩
    · rw [h.objs _ (by decide), htotal]
    · rw [h.counted, hretried.objs _ (by decide)]
    · rw [h.words, accGet_splitFlagged]
    · rcases hbad with hbad | hbad
      · exact absurd (hok.symm.trans hbad) (by decide)
      · exact absurd (hadders.symm.trans hbad) (by decide)
  · have hsecond : second.ok = false ∨ f.addersRetry = true := by
      by_contra hnot
      exact hpass (by simpa using hnot)
    have h := arrayCheckTaken_of hi (hs.spells rfl) (hbody.trans (runChunk_of_failure s i.core c m noMask f _ _ hfirst hsecond))
    refine ⟨?_, h.flags 0 hflag, fun hok hadders => (hpass ⟨hok, hadders⟩).elim,
      fun _ => ⟨h.st, h.cause, h.excPc, h.poison, h.failed, ?_, ?_⟩⟩
    · rw [h.objs _ (by decide), htotal]
    · rw [h.out, hretried.out, checkData_of_countedIn htried (by decide) (by decide)]
    · rw [h.objs _ (by decide), hretried.objs _ (by decide)]

/-! ### A chunk of clean segments in a fault-free array -/

/-- An array without a fault. -/
def cleanArray : ArrayFault := ⟨[], [], false, false, false⟩

/-- The core that a chunk that passes leaves. -/
abbrev written (c : Core) (m : MmaFields) (ch : Chunk) (r : TryRes) : Core := chunkWritten (splitFlagged c m ch) m ch r

theorem written_arrayChange (c : Core) (m : MmaFields) (ch : Chunk) (r : TryRes) : ArrayChange m.acc c (written c m ch r) :=
  (splitFlagged_arrayChange c m ch).trans (chunkWritten_arrayChange ..)

theorem accGet_written (c : Core) (m : MmaFields) (ch : Chunk) (r : TryRes) :
    accGet (written c m ch r) m.acc = accOf (tileAfter (accGet c m.acc).words ch r) (accGet c m.acc).poison := by
  rw [accGet_chunkWritten, accGet_splitFlagged]

section CleanChunk
variable {s : State} {c : Core} {m : MmaFields} {mask : Nat → Nat → Bool} (id : CoreId) (cycles again : Nat)

theorem runChunk_clean_of_pass (hp : instrPoisoned c m = false)
    (hb : parityBad (accGet c m.acc) ((chunkOf c m mask).a.length * (chunkOf c m mask).b.length) = false)
    (hok : (attempt s c m mask []).ok = true) : runChunk s id c m mask cleanArray cycles again =
      .next (tried s c m mask cleanArray cycles) (written c m (chunkOf c m mask) (attempt s c m mask [])) := by
  rw [runChunk_of_pass s id c m mask cleanArray cycles again hok rfl]
  dsimp only
  rw [show cleanArray.parity = false from rfl, finishChunk_of_clean _ _ _ _ _
    ((instrPoisoned_congr m (splitFlagged_arrayChange ..).stg).trans hp) (by rwa [accGet_splitFlagged])]
  rfl

/-- A fault-free array fails its retry as it failed at first. -/
theorem runChunk_clean_of_failure (hok : (attempt s c m mask []).ok = false) : runChunk s id c m mask cleanArray cycles again =
    let p := chunkFailed (retried s id c m mask cleanArray cycles again) (splitFlagged c m (chunkOf c m mask)) m cleanArray (chunkOf c m mask)
    .late p.1 p.2 excArrayCheck (checkData (tried s c m mask cleanArray cycles) id m (attempt s c m mask [])) :=
  runChunk_of_failure s id c m mask cleanArray cycles again (.inl hok) (.inl hok)

end CleanChunk

/-- What a chunk of clean segments that feeds every element answers in a fault-free array. -/
def CleanAnswer (s : State) (i : Issue) (m : MmaFields) (cycles : Nat) (t : State) : Prop :=
  let c := issueCore s i
  let r := attempt s c m noMask []
  let d := getCore t i.core
  (r.ok = true → d.st = .running ∧ d.pc = c.pc + 1 ∧
    accGet d m.acc = accOf (tileAfter (accGet c m.acc).words (chunkOf c m noMask) r) (accGet c m.acc).poison ∧
    (∀ k : BitVec 2, k ≠ m.acc → accGet d k = accGet c k) ∧ d.sram = c.sram ∧ d.x = c.x ∧ d.stg = c.stg ∧ d.ex32 = none ∧
    getN t Key.chunksChecked = satAdd 64 (getN s Key.chunksChecked) 1 ∧
    getN t Key.arrayBusyCycles = satAdd 64 (getN s Key.arrayBusyCycles) cycles) ∧
  (r.ok = false → d.st = .faulted ∧ d.excCause = excArrayCheck ∧ (accGet d m.acc).poison = true)

theorem cleanAnswer_of {s : State} {i : Issue} {word : Nat} {body : Core → State → TOut} {m : MmaFields} {cycles again : Nat}
    (hi : Issues s i) (hw : spells (fetchWord (issueCore s i)) word = true)
    (hb : body (issueCore s i) s = runChunk s i.core (dropEx32 (issueCore s i)) m noMask cleanArray cycles again)
    (hp : instrPoisoned (issueCore s i) m = false)
    (hpar : parityBad (accGet (issueCore s i) m.acc)
      ((chunkOf (issueCore s i) m noMask).a.length * (chunkOf (issueCore s i) m noMask).b.length) = false) :
    CleanAnswer s i m cycles (tileIssue i word noWait body s) := by
  refine ⟨fun hok => ?_, fun hok => ?_⟩
  · rw [tileIssue_done hi hw (hb.trans (runChunk_clean_of_pass (c := dropEx32 (issueCore s i)) i.core cycles again hp hpar hok))]
    have hchange := written_arrayChange (dropEx32 (issueCore s i)) m (chunkOf (issueCore s i) m noMask) (attempt s (issueCore s i) m noMask [])
    have htile := accGet_written (dropEx32 (issueCore s i)) m (chunkOf (issueCore s i) m noMask) (attempt s (issueCore s i) m noMask [])
    rw [completed, getCore_setCore_same, getN_setCore, getN_setCore]
    exact ⟨rfl, congrArg (· + 1) hchange.pc, htile, fun k hk => hchange.otherTile hk, hchange.sram, hchange.x, hchange.stg, hchange.ex32,
      getN_chunkCounted ..⟩
  · have h := arrayCheckTaken_of hi hw (hb.trans (runChunk_clean_of_failure (c := dropEx32 (issueCore s i)) i.core cycles again hok))
    exact ⟨h.st, h.cause, h.poison⟩

/-! ### MMAX and ACCZ (R119, R124 to R126) -/

theorem dropEx32_of_none {c : Core} (h : c.ex32 = none) : dropEx32 c = c := by rw [dropEx32, ← h]

/-- An MMAX of valid operands and in sequence runs the chunk in pass 5 and opens it, or goes on, in the others. -/
theorem exec_mmax {s : State} {i : Issue} {m : MmaFields} {pass : BitVec 3} (fault : ArrayFault) (hpass : pass.toNat < 6)
    (ho : arrayOperandBad 2 m = false) (hx : mmaxBad (issueCore s i) m pass.toNat = false) :
    ∃ body : Core → State → TOut, exec (.mmax i m pass fault) s = .next (tileIssue i (wordMmax m pass) noWait body s) ∧
      body (issueCore s i) s =
        if pass.toNat = 5 then runChunk s i.core (dropEx32 (issueCore s i)) m noMask fault 32 192
        else .next (addN s Key.arrayBusyCycles 64 32) { issueCore s i with ex32 := some ⟨m, pass.toNat + 1⟩ } :=
  ⟨_, rfl, unlessExc_of (firstExc_none (by simp [ho, hx, hpass]))⟩

/-- An ACCZ of another tile than an open chunk's. -/
theorem exec_accz {s : State} {i : Issue} {acc : BitVec 2} (h : namesOpen (issueCore s i) acc = false) :
    ∃ body : Core → State → TOut, exec (.accz i acc) s = .next (tileIssue i (wordAccz acc) noWait body s) ∧
      body (issueCore s i) s = .next s (accPut (issueCore s i) acc ⟨Vector.replicate 256 0, 0, false⟩) :=
  ⟨_, rfl, unlessExc_of (firstExc_none (by simp [h]))⟩

/-! ### MMAS (R199 to R205) -/

/-- The index set that an MMAS uses: the one that stands where it is of the A tile as filled, else one built (R200). -/
def indexUsed (c : Core) (m : MmaFields) (ixsel : Bool) : IndexSet :=
  if (ixGet c ixsel).tag = some (m.asel, (stgGet c (aTile m)).fill) then ixGet c ixsel else buildIndex c m.asel

/-- The selection of an MMAS. -/
abbrev selection (c : Core) (m : MmaFields) (drop ixsel : Bool) : Selection := selectChunk c m drop (indexUsed c m ixsel)

/-- The elements that an MMAS feeds as +0 (R205). -/
abbrev notFed (c : Core) (m : MmaFields) (drop ixsel : Bool) : Nat → Nat → Bool :=
  fun r k => !(selection c m drop ixsel).fed.contains (r, k)

/-- The objects that the selector counts in. -/
def selectorKeys : List Nat := [Key.indexRebuilds, Key.structSpillChunks, Key.structDropElements]

/-- An index set used or built again (R200, R215). -/
def indexCounted (s : State) (c : Core) (m : MmaFields) (ixsel : Bool) : State :=
  if (ixGet c ixsel).tag == some (m.asel, (stgGet c (aTile m)).fill) then s else count64 s Key.indexRebuilds

/-- The core with the index set that the MMAS uses. -/
def indexedCore (c : Core) (m : MmaFields) (ixsel : Bool) : Core :=
  if (ixGet c ixsel).tag == some (m.asel, (stgGet c (aTile m)).fill) then c else ixPut c ixsel (buildIndex c m.asel)

/-- A selection's spills and drops counted and raised (R202, R214). -/
def selectionCounted (s : State) (sel : Selection) : State :=
  let s := if sel.spill then raise (count64 s Key.structSpillChunks) Key.sparsityFlags 0 else s
  if sel.dropped.isEmpty then s else raise (addN s Key.structDropElements 64 sel.dropped.length) Key.sparsityFlags 1

/-- A selection's flags of the compaction engine. -/
def selectionFlagged (c : Core) (sel : Selection) : Core :=
  flagCompaction c ((if sel.dropped.isEmpty then 0 else flagInexact) ||| (if sel.sawNan then flagInvalid else 0))

/-- The cycles of an MMAS, and those of its retry (R202). -/
def selectionCycles (m : MmaFields) (sel : Selection) : Nat := chunkCycles m.shape m.fmt / 2 * (if sel.spill then 2 else 1)

theorem indexCounted_countedIn (s : State) (c : Core) (m : MmaFields) (ixsel : Bool) : CountedIn selectorKeys s (indexCounted s c m ixsel) := by
  unfold indexCounted
  split
  · exact .refl _ s
  · exact count64_countedIn s (by decide)

theorem selectionCounted_countedIn (s : State) (sel : Selection) : CountedIn selectorKeys s (selectionCounted s sel) := by
  have hspill : CountedIn selectorKeys s (if sel.spill then raise (count64 s Key.structSpillChunks) Key.sparsityFlags 0 else s) := by
    split
    · exact (count64_countedIn s (by decide)).trans (raise_countedIn _ 0)
    · exact .refl _ s
  unfold selectionCounted
  dsimp only
  split
  · exact hspill
  · exact hspill.trans ((addN_countedIn _ _ _ (by decide)).trans (raise_countedIn _ 1))

/-- The core of an MMAS as its chunk finds it: an index set and the compaction engine's flags have changed. -/
def selectorCore (c : Core) (m : MmaFields) (drop ixsel : Bool) : Core :=
  selectionFlagged (indexedCore c m ixsel) (selection c m drop ixsel)

theorem ixGet_ixPut_same (c : Core) (sel : Bool) (x : IndexSet) : ixGet (ixPut c sel x) sel = x := by
  cases sel <;> simp [ixGet, ixPut]

theorem ixGet_congr {c d : Core} (sel : Bool) (h : d.ix = c.ix) : ixGet d sel = ixGet c sel := by simp only [ixGet, h]

theorem ixGet_indexedCore (c : Core) (m : MmaFields) (ixsel : Bool) : ixGet (indexedCore c m ixsel) ixsel = indexUsed c m ixsel := by
  unfold indexedCore indexUsed
  simp only [beq_iff_eq]
  split
  · rfl
  · exact ixGet_ixPut_same ..

/-- The selector leaves everything but an index set and the compaction engine's flags. -/
theorem selectorCore_eq (c : Core) (m : MmaFields) (drop ixsel : Bool) :
    ∃ x u v, selectorCore c m drop ixsel = { c with ix := x, stickyC := u, beatC := v } := by
  unfold selectorCore indexedCore
  split
  · exact ⟨c.ix, _, _, rfl⟩
  · exact ⟨_, _, _, rfl⟩

section SelectorCore
variable (c : Core) (m : MmaFields) (drop ixsel : Bool)

@[simp] theorem selectorCore_stg : (selectorCore c m drop ixsel).stg = c.stg := by
  obtain ⟨x, u, v, h⟩ := selectorCore_eq c m drop ixsel
  rw [h]

@[simp] theorem selectorCore_sram : (selectorCore c m drop ixsel).sram = c.sram := by
  obtain ⟨x, u, v, h⟩ := selectorCore_eq c m drop ixsel
  rw [h]

@[simp] theorem selectorCore_x : (selectorCore c m drop ixsel).x = c.x := by
  obtain ⟨x, u, v, h⟩ := selectorCore_eq c m drop ixsel
  rw [h]

@[simp] theorem selectorCore_pc : (selectorCore c m drop ixsel).pc = c.pc := by
  obtain ⟨x, u, v, h⟩ := selectorCore_eq c m drop ixsel
  rw [h]

@[simp] theorem accGet_selectorCore (n : BitVec 2) : accGet (selectorCore c m drop ixsel) n = accGet c n := by
  obtain ⟨x, u, v, h⟩ := selectorCore_eq c m drop ixsel
  rw [h]
  rfl

end SelectorCore

theorem exec_mmas {s : State} {i : Issue} {m : MmaFields} {drop ixsel : Bool} (fault : ArrayFault) (hv : s.variant = .x)
    (ho : arrayOperandBad 1 m = false) (hx : (issueCore s i).ex32 = none) (hb : (selection (issueCore s i) m drop ixsel).beyond = false) :
    ∃ body : Core → State → TOut, exec (.mmas i m drop ixsel fault) s = .next (tileIssue i (wordMmas m drop ixsel) noWait body s) ∧
      body (issueCore s i) s = countWritten Key.mmasChunks
        (runChunk (selectionCounted (indexCounted s (issueCore s i) m ixsel) (selection (issueCore s i) m drop ixsel)) i.core
          (selectorCore (issueCore s i) m drop ixsel) m (notFed (issueCore s i) m drop ixsel) fault
          (selectionCycles m (selection (issueCore s i) m drop ixsel)) (selectionCycles m (selection (issueCore s i) m drop ixsel))) := by
  have hsel : selectChunk (indexedCore (issueCore s i) m ixsel) m drop (ixGet (indexedCore (issueCore s i) m ixsel) ixsel) =
      selection (issueCore s i) m drop ixsel := by
    rw [ixGet_indexedCore]
    refine selectChunk_congr m drop _ ?_
    unfold indexedCore
    split <;> rfl
  refine ⟨_, rfl, (unlessExc_of (firstExc_none (by simp [hv, ho, hx]))).trans ?_⟩
  change (let sel := selectChunk (indexedCore (issueCore s i) m ixsel) m drop (ixGet (indexedCore (issueCore s i) m ixsel) ixsel)
    let u := selectionCounted (indexCounted s (issueCore s i) m ixsel) sel
    let d := selectionFlagged (indexedCore (issueCore s i) m ixsel) sel
    let p := if sel.beyond then indexBeyond u i.core d m.acc else (u, d)
    countWritten Key.mmasChunks (runChunk p.1 i.core p.2 m (fun r k => !sel.fed.contains (r, k)) fault (selectionCycles m sel)
      (selectionCycles m sel))) = _
  rw [hsel]
  simp only [hb]
  rfl

/-- A chunk of an MMAS that is written is counted, and changes what its chunk changes. -/
theorem mmas_of_pass {s u : State} {i : Issue} {word : Nat} {body : Core → State → TOut} {m : MmaFields} {mask : Nat → Nat → Bool}
    {d : Core} {cycles again : Nat} (hi : Issues s i) (hw : spells (fetchWord (issueCore s i)) word = true)
    (hb : body (issueCore s i) s = countWritten Key.mmasChunks (runChunk u i.core d m mask cleanArray cycles again))
    (hp : instrPoisoned d m = false)
    (hpar : parityBad (accGet d m.acc) ((chunkOf d m mask).a.length * (chunkOf d m mask).b.length) = false)
    (hok : (attempt u d m mask []).ok = true) :
    tileIssue i word noWait body s = completed (count64 (tried u d m mask cleanArray cycles) Key.mmasChunks) i
      (written d m (chunkOf d m mask) (attempt u d m mask [])) (d.pc + 1) := by
  rw [runChunk_clean_of_pass i.core cycles again hp hpar hok] at hb
  rw [tileIssue_done hi hw hb, (written_arrayChange d m _ _).pc]

/-- What an MMAS of clean segments answers in a fault-free array (R205, R215). -/
def MmasAnswer (s : State) (i : Issue) (m : MmaFields) (drop ixsel : Bool) (t : State) : Prop :=
  let c := issueCore s i
  let r := attempt s c m (notFed c m drop ixsel) []
  let d := getCore t i.core
  (r.ok = true → d.st = .running ∧ d.pc = c.pc + 1 ∧
    accGet d m.acc = accOf (tileAfter (accGet c m.acc).words (chunkOf c m (notFed c m drop ixsel)) r) (accGet c m.acc).poison ∧
    ixGet d ixsel = indexUsed c m ixsel ∧ d.sram = c.sram ∧ d.x = c.x ∧ d.stg = c.stg ∧
    getN t Key.mmasChunks = satAdd 64 (getN s Key.mmasChunks) 1) ∧
  (r.ok = false → d.st = .faulted ∧ d.excCause = excArrayCheck ∧ getN t Key.mmasChunks = getN s Key.mmasChunks)

theorem mmasAnswer_of {s u : State} {i : Issue} {word : Nat} {body : Core → State → TOut} {m : MmaFields} {drop ixsel : Bool}
    {cycles again : Nat} (hi : Issues s i) (hw : spells (fetchWord (issueCore s i)) word = true) (hu : CountedIn selectorKeys s u)
    (hb : body (issueCore s i) s = countWritten Key.mmasChunks
      (runChunk u i.core (selectorCore (issueCore s i) m drop ixsel) m (notFed (issueCore s i) m drop ixsel) cleanArray cycles again))
    (hp : instrPoisoned (issueCore s i) m = false)
    (hpar : parityBad (accGet (issueCore s i) m.acc) ((chunkOf (issueCore s i) m (notFed (issueCore s i) m drop ixsel)).a.length *
      (chunkOf (issueCore s i) m (notFed (issueCore s i) m drop ixsel)).b.length) = false) :
    MmasAnswer s i m drop ixsel (tileIssue i word noWait body s) := by
  unfold MmasAnswer
  dsimp only
  generalize notFed (issueCore s i) m drop ixsel = mask at hb hpar ⊢
  have hstg := selectorCore_stg (issueCore s i) m drop ixsel
  have hchunk := chunkOf_congr m mask hstg
  have htry := attempt_congr m mask [] (hu.objs Key.checkTolUlp (by decide)) hstg
  refine ⟨fun hok => ?_, fun hok => ?_⟩
  · have hchange := written_arrayChange (selectorCore (issueCore s i) m drop ixsel) m (chunkOf (issueCore s i) m mask)
      (attempt s (issueCore s i) m mask [])
    have htile := accGet_written (selectorCore (issueCore s i) m drop ixsel) m (chunkOf (issueCore s i) m mask)
      (attempt s (issueCore s i) m mask [])
    rw [accGet_selectorCore] at htile
    rw [mmas_of_pass hi hw hb ((instrPoisoned_congr m hstg).trans hp) (by rwa [hchunk, accGet_selectorCore]) (by rwa [htry]), hchunk, htry,
      completed, getCore_setCore_same, getN_setCore, getN_count64_same, (chunkCounted_countedIn ..).objs _ (by decide), hu.objs _ (by decide)]
    exact ⟨rfl, congrArg (· + 1) (selectorCore_pc ..), htile, (ixGet_congr ixsel hchange.ix).trans (ixGet_indexedCore ..),
      hchange.sram.trans (selectorCore_sram ..), hchange.x.trans (selectorCore_x ..), hchange.stg.trans hstg, rfl⟩
  · rw [← htry] at hok
    rw [runChunk_clean_of_failure i.core cycles again hok] at hb
    have h := arrayCheckTaken_of hi hw hb
    refine ⟨h.st, h.cause, ?_⟩
    rw [h.objs _ (by decide), (retryBegun_countedIn ..).objs _ (by decide), (chunkCounted_countedIn ..).objs _ (by decide),
      hu.objs _ (by decide)]

/-! ### The array instructions -/

/-- Settles O13: ACCZ and the passes that open an EX32 chunk by their effect, MMA and pass 5 by the answer of a clean chunk, MMAS by that of
the chunk that its selector feeds. -/
theorem arrayInstructionsComplete : Obligations.ArrayInstructionsComplete := by
  unfold Obligations.ArrayInstructionsComplete
  intro s i hi c clean
  refine ⟨fun acc hopen hs => ?_, fun m pass f ho hpass hseq hs => ?_, ?_, ?_⟩
  · obtain ⟨body, hexec, hbody⟩ := exec_accz hopen
    exact hexec.trans (tileIssue_next hi (hs.spells rfl) hbody)
  · obtain ⟨body, hexec, hbody⟩ := exec_mmax f (by omega) ho hseq
    rw [if_neg (by omega)] at hbody
    exact hexec.trans (tileIssue_next hi (hs.spells rfl) hbody)
  · intro m chunk r new after hp hpar
    refine ⟨fun ho hx hs => ?_, fun ho hseq hs => ?_⟩
    · obtain ⟨body, hexec, hbody⟩ := exec_mma clean ho hx
      have hdrop := congrArg (runChunk s i.core · m noMask clean (chunkCycles m.shape m.fmt) (chunkCycles m.shape m.fmt))
        (dropEx32_of_none hx).symm
      exact ⟨_, hexec, cleanAnswer_of hi (hs.spells rfl) (hbody.trans hdrop) hp hpar⟩
    · obtain ⟨body, hexec, hbody⟩ := exec_mmax (pass := 5) clean (by decide) ho hseq
      exact ⟨_, hexec, cleanAnswer_of hi (hs.spells rfl) hbody hp hpar⟩
  · intro m drop ixsel hv ho hx hp set sel chunk r hpar hbeyond hs
    obtain ⟨body, hexec, hbody⟩ := exec_mmas clean hv ho hx hbeyond
    exact ⟨_, hexec, mmasAnswer_of hi (hs.spells rfl) ((indexCounted_countedIn ..).trans (selectionCounted_countedIn ..)) hbody hp hpar⟩

end Sys2Proof.Machine

/-! SUPPORT and PROOFS. Committed writes of flag words, EMPTY objects and high-water marks, and writes that fail their checks
(06_number_formats.md R158; 15_job_mapping.md R379; 17_object_dictionary.md R434, R557): what the three rows leave, and the judgement of
the rows. -/

namespace Sys2Proof.Machine

/-! ### Bits of numbers -/

theorem bit_eq_testBit (v n : Nat) : bit v n = v.testBit n := by
  rw [Nat.testBit_eq_decide_div_mod_eq]
  simp [bit, beq_eq_decide]

theorem and_add_ldiff (v w : Nat) : (v &&& w) + Nat.ldiff v w = v := by
  induction v using Nat.binaryRec generalizing w with
  | zero => simp [Nat.ldiff]
  | bit x v ih =>
    rw [← Nat.bit_bodd_div2 w, Nat.land_bit, Nat.ldiff_bit]
    have h := ih w.div2
    cases x <;> cases w.bodd <;> simp [Nat.bit_val] <;> omega

theorem bit_sub_and (v w i : Nat) : bit (v - (v &&& w)) i = (bit v i && !bit w i) := by
  have h : v - (v &&& w) = Nat.ldiff v w := by have := and_add_ldiff v w; omega
  simp only [h, bit_eq_testBit, Nat.testBit_ldiff]

theorem bit_or (v w i : Nat) : bit (v ||| w) i = (bit v i || bit w i) := by simp only [bit_eq_testBit, Nat.testBit_or]

/-! ### The three rows of the writable words (R158, R379, R434) -/

theorem emit_out (s : State) (o : Out) : (emit s o).out = s.out ++ [o] := rfl

section Rows
variable {s : State} {idx sub : Nat} {w : WReq} (hs : sub < 256) (ha : Accepted s (idx * 256 + sub) w)
include hs ha

theorem exec_w1cFlagClear {m : Nat} (hk : objKind (idx * 256 + sub) = .w1c m) :
    exec (.w1cFlagClear idx sub w) s = .next (emit (clearFlags s (idx * 256 + sub) w.val) (.objStatus (idx * 256 + sub) stOk)) := by
  show execW1cFlagClear idx sub w s = _
  simp only [execW1cFlagClear, Nat.mod_eq_of_lt hs, hk, ownWrite_done ha (check := noCheck) rfl]

theorem exec_captureEmpty (hk : objKind (idx * 256 + sub) = .emptier) :
    exec (.captureEmpty idx sub w) s = .next (emit (writeEmpty s (idx * 256 + sub) w.val) (.objStatus (idx * 256 + sub) stOk)) := by
  show execCaptureEmpty idx sub w s = _
  simp only [execCaptureEmpty, Nat.mod_eq_of_lt hs, hk, ownWrite_done ha (check := noCheck) rfl]

theorem exec_highWaterReset (hk : objKind (idx * 256 + sub) = .hiWater) :
    exec (.highWaterReset idx sub w) s = .next (emit (setN s (idx * 256 + sub) 0) (.objStatus (idx * 256 + sub) stOk)) := by
  show execHighWaterReset idx sub w s = _
  simp only [execHighWaterReset, Nat.mod_eq_of_lt hs, hk, ownWrite_done ha (check := noCheck) rfl, resetHighWater]

end Rows

/-! ### The flags written one to clear (R434) -/

theorem clearFlags_of_event (s : State) {key : Nat} (v : Nat) (h : eventFlags key = true) :
    clearFlags s key v = setN s key (getN s key - (getN s key &&& v)) := if_pos h

theorem clearFlags_of_gathered (s : State) {key : Nat} (v : Nat) (h : eventFlags key = false) :
    clearFlags s key v = { s with clears := stPut s.clears key (stGet s.clears key ||| v) } := if_neg (by simp [h])

@[simp] theorem stGet_stPut_same (m : Store) (k v : Nat) : stGet (stPut m k v) k = v := amGet_put_same _ _ _ _

/-! ### The captures emptied (R158) -/

/-- What the emptying of captures does to one object of the index. -/
def emptyObj (base : Nat) (s : State) (i : Nat) : State :=
  if base + i = Key.cycleCapture then setDom s (base + i) [] else setN s (base + i) 0

theorem emptyCapture_eq (s : State) (key : Nat) : emptyCapture s key =
    setN ((upFrom (captureSubs key).1 ((captureSubs key).2 + 1 - (captureSubs key).1)).foldl (emptyObj (key / 256 * 256)) s) key 1 := rfl

theorem emptyObj_zeroes (base : Nat) (s : State) {i k : Nat} (h : getN s k = 0 ∨ k = base + i) (hc : k ≠ Key.cycleCapture) :
    getN (emptyObj base s i) k = 0 := by
  unfold emptyObj
  split
  · next hi => rw [getN_setDom]; exact h.resolve_right (hi ▸ hc)
  · by_cases hk : k = base + i
    · rw [hk, getN_setN_same]
    · rw [getN_setN_other _ _ _ _ hk]; exact h.resolve_right hk

theorem foldl_emptyObj_zeroes (base : Nat) {k : Nat} (hc : k ≠ Key.cycleCapture) (is : List Nat) :
    ∀ s : State, getN s k = 0 ∨ (∃ i ∈ is, k = base + i) → getN (is.foldl (emptyObj base) s) k = 0 := by
  induction is with
  | nil => exact fun s h => h.resolve_right (by simp)
  | cons j is ih =>
    intro s h
    by_cases hj : getN s k = 0 ∨ k = base + j
    · exact ih _ (.inl (emptyObj_zeroes base s hj hc))
    · obtain ⟨i, hi, hk⟩ := h.resolve_left fun h0 => hj (.inl h0)
      rcases List.mem_cons.mp hi with rfl | hi
      · exact absurd (.inr hk) hj
      · exact ih _ (.inr ⟨i, hi, hk⟩)

theorem foldl_emptyObj_frame (base : Nat) (is : List Nat) (s : State) :
    (is.foldl (emptyObj base) s).clears = s.clears ∧ (is.foldl (emptyObj base) s).out = s.out :=
  List.foldlRecOn (motive := fun t : State => t.clears = s.clears ∧ t.out = s.out) is _ ⟨rfl, rfl⟩ fun t ht i _ => by
    unfold emptyObj
    split <;> simpa using ht

theorem emptyCapture_clears (s : State) (key : Nat) : (emptyCapture s key).clears = s.clears := by
  rw [emptyCapture_eq, setN_clears, (foldl_emptyObj_frame _ _ s).1]

theorem emptyCapture_out (s : State) (key : Nat) : (emptyCapture s key).out = s.out := by
  rw [emptyCapture_eq, setN_out, (foldl_emptyObj_frame _ _ s).2]

theorem getN_emptyCapture_same (s : State) (key : Nat) : getN (emptyCapture s key) key = 1 := by rw [emptyCapture_eq, getN_setN_same]

/-- Every captured value of the index reads 0; the cycle capture is a DOMAIN. -/
theorem getN_emptyCapture_value (s : State) {idx sub i : Nat} (hs : sub < 256) (hlo : (captureSubs (idx * 256 + sub)).1 ≤ i)
    (hhi : i ≤ (captureSubs (idx * 256 + sub)).2) (hc : idx * 256 + i ≠ Key.cycleCapture) (hk : idx * 256 + i ≠ idx * 256 + sub) :
    getN (emptyCapture s (idx * 256 + sub)) (idx * 256 + i) = 0 := by
  have hbase : (idx * 256 + sub) / 256 * 256 = idx * 256 := by omega
  rw [emptyCapture_eq, getN_setN_other _ _ _ _ hk, hbase]
  exact foldl_emptyObj_zeroes _ hc _ s (.inr ⟨i, (mem_upFrom _ _ _).mpr (by omega), rfl⟩)

theorem writeEmpty_zero (s : State) (key : Nat) : writeEmpty s key 0 = s := if_pos rfl

theorem writeEmpty_invalid (s : State) {v : Nat} (hv : v ≠ 0) :
    writeEmpty s Key.invalidCaptureEmpty v = { s with clears := stPut s.clears Key.invalidCaptureEmpty 1 } := by
  rw [writeEmpty, if_neg hv, if_pos rfl]

theorem writeEmpty_capture (s : State) {key v : Nat} (hv : v ≠ 0) (hk : key ≠ Key.invalidCaptureEmpty) :
    writeEmpty s key v = emptyCapture s key := by
  rw [writeEmpty, if_neg hv, if_neg hk]

/-! ### Writes that fail their checks (R521, R557) -/

/-- A row of its own whose write is judged like any other: where writes are not open nothing happens, and a failed check is the status. -/
def JudgedRow (i : Instr) (s : State) (role : Role) (key status : Nat) : Prop :=
  (writesOpen s role key = false → exec i s = .next s) ∧
  (writesOpen s role key = true → status ≠ 0 → exec i s = .next (emit s (.objStatus key status)))

theorem judgedRow_of_ownWrite {i : Instr} {s : State} {key : Nat} {w : WReq} {check : State → Nat → Nat} {effect : State → Nat → State}
    (h : exec i s = .next (ownWrite s key w check effect)) : JudgedRow i s w.role key (reqStatus s key w) := by
  refine ⟨fun hw => ?_, fun hw hst => ?_⟩ <;> rw [h] <;> simp [ownWrite, hw]
  simp [hst]

theorem judgedRow_of_ownWriteDom {i : Instr} {s : State} {key : Nat} {w : DReq} {check : State → List Byte → Nat}
    {effect : State → List Byte → State} (h : exec i s = .next (ownWriteDom s key w check effect)) :
    JudgedRow i s w.role key (writeStatus s w.role w.inTxn key w.bytes) := by
  refine ⟨fun hw => ?_, fun hw hst => ?_⟩ <;> rw [h] <;> simp [ownWriteDom, hw]
  simp [hst]

/-- Settles O53: each row by what its committed write does, and a refused one by the judgement that every row shares. -/
theorem flagsCapturesAndRefusedWrites : Obligations.FlagsCapturesAndRefusedWrites := by
  unfold Obligations.FlagsCapturesAndRefusedWrites
  refine ⟨fun s idx sub m w hs hk ha => ?_, fun s idx sub w hs hk ha => ?_, fun s idx sub w hs hk ha => ?_, fun s w stks errs => ?_,
    fun s w => ?_⟩
  · refine ⟨_, exec_w1cFlagClear hs ha hk, ?_⟩
    cases he : eventFlags (idx * 256 + sub) with
    | true =>
      rw [clearFlags_of_event s w.val he]
      exact ⟨by rw [emit_out, setN_out], by simp, fun _ => ⟨by simp, fun i => by rw [getN_emit, getN_setN_same, bit_sub_and]⟩, nofun⟩
    | false =>
      rw [clearFlags_of_gathered s w.val he]
      exact ⟨rfl, rfl, nofun, fun _ => ⟨rfl, fun i => by rw [emit_clears, stGet_stPut_same, bit_or]⟩⟩
  · rw [exec_captureEmpty hs ha hk]
    refine ⟨fun hv => by rw [hv, writeEmpty_zero], fun hv hi => ⟨_, rfl, ?_⟩, fun hv hi => ⟨_, rfl, ?_⟩⟩
    · rw [hi, writeEmpty_invalid s hv]
      exact ⟨rfl, by rw [emit_clears, stGet_stPut_same], rfl⟩
    · rw [writeEmpty_capture s hv hi]
      refine ⟨by rw [getN_emit, getN_emptyCapture_same], by rw [emit_out, emptyCapture_out], by rw [emit_clears, emptyCapture_clears],
        fun i hlo hhi hc hne => ?_⟩
      rw [getN_emit, getN_emptyCapture_value s hs hlo hhi hc hne]
  · refine ⟨_, exec_highWaterReset hs ha hk, by rw [getN_emit, getN_setN_same], by rw [emit_out, setN_out], fun k hne => ?_⟩
    rw [getN_emit, getN_setN_other _ _ _ _ hne]
  · simp only [List.forall_mem_cons, List.not_mem_nil, false_implies, implies_true, and_true]
    exact ⟨judgedRow_of_ownWrite rfl, judgedRow_of_ownWrite (w := w) (check := noCheck) rfl, judgedRow_of_ownWrite (check := noCheck) rfl,
      judgedRow_of_ownWrite (check := noCheck) rfl, judgedRow_of_ownWrite (check := noCheck) rfl, judgedRow_of_ownWrite rfl,
      judgedRow_of_ownWrite rfl, judgedRow_of_ownWrite rfl, judgedRow_of_ownWrite rfl, judgedRow_of_ownWrite rfl, judgedRow_of_ownWrite rfl,
      judgedRow_of_ownWrite rfl, judgedRow_of_ownWrite (w := w) rfl, judgedRow_of_ownWrite rfl,
      judgedRow_of_ownWrite (w := w) (check := noCheck) rfl, judgedRow_of_ownWrite rfl⟩
  · simp only [List.forall_mem_cons, List.not_mem_nil, false_implies, implies_true, and_true]
    exact ⟨judgedRow_of_ownWriteDom rfl, judgedRow_of_ownWriteDom (check := noCheck) rfl, judgedRow_of_ownWriteDom rfl,
      judgedRow_of_ownWriteDom rfl⟩

end Sys2Proof.Machine

/-! SUPPORT and PROOFS. The beat boundary (R157, R214, R395, R407, R434, R467): what each of its parts leaves of the beat number, the
lease, the raised flags and the gathered words. -/

namespace Sys2Proof.Machine

/-! ### What the parts of a boundary leave -/

/-- The objects that place the beat and its lease. -/
def timeKeys : List Nat := [Key.beatNumber, Key.hostLeaseBeats]

/-- The objects that the gathering of a boundary leaves behind. -/
def flagKeys : List Nat := timeKeys ++ [Key.arrayNumFlags, Key.vectorNumFlags] ++ gatheredWords.map Prod.fst

/-- The objects that a boundary writes and that stay to its end: those, and the coolant temperatures. -/
def boundaryKeys : List Nat := [Key.coolantInlet, Key.coolantOutlet] ++ flagKeys

/-- From `s` to `t` the objects of `ks` and the lease stay, and neither a commit nor a reset comes due. -/
structure Framed (ks : List Nat) (s t : State) : Prop where
  pending : t.pending = s.pending
  objs : ∀ k ∈ ks, getN t k = getN s k
  lease : t.beat.leaseBeat = s.beat.leaseBeat
  lapsed : s.beat.lapsed = true → t.beat.lapsed = true
  due : t.par.due = s.par.due
  reset : t.mgmt.resetDue = s.mgmt.resetDue

/-- Moreover no raised flag is lost, and the cores keep the numeric flags of the beat. -/
structure Kept (ks : List Nat) (s t : State) : Prop extends Framed ks s t where
  raised : ∀ k b, bit (stGet s.raised k) b = true → bit (stGet t.raised k) b = true
  array : ∀ id, (getCore t id).beatA = (getCore s id).beatA
  vector : ∀ id, (getCore t id).beatV = (getCore s id).beatV

theorem Framed.trans {ks : List Nat} {s t u : State} (h : Framed ks s t) (g : Framed ks t u) : Framed ks s u where
  pending := g.pending.trans h.pending
  objs k hk := (g.objs k hk).trans (h.objs k hk)
  lease := g.lease.trans h.lease
  lapsed := g.lapsed ∘ h.lapsed
  due := g.due.trans h.due
  reset := g.reset.trans h.reset

theorem Framed.mono {ks ls : List Nat} {s t : State} (h : Framed ls s t) (hs : ks ⊆ ls) : Framed ks s t :=
  { h with objs := fun k hk => h.objs k (hs hk) }

namespace Kept
variable {ks : List Nat} {s t u : State}

theorem refl : Kept ks s s := ⟨⟨rfl, fun _ _ => rfl, rfl, id, rfl, rfl⟩, fun _ _ => id, fun _ => rfl, fun _ => rfl⟩

theorem trans (h : Kept ks s t) (g : Kept ks t u) : Kept ks s u where
  toFramed := h.toFramed.trans g.toFramed
  raised k b := g.raised k b ∘ h.raised k b
  array id := (g.array id).trans (h.array id)
  vector id := (g.vector id).trans (h.vector id)

theorem mono {ls : List Nat} (h : Kept ls s t) (hs : ks ⊆ ls) : Kept ks s t := { h with toFramed := h.toFramed.mono hs }

/-- A change of parts of the state that `Kept` does not look at. -/
theorem same (h : Kept ks s t) (e : (u.pending, u.variant, u.objs, u.beat, u.par.due, u.mgmt.resetDue, u.raised, u.cores) =
    (t.pending, t.variant, t.objs, t.beat, t.par.due, t.mgmt.resetDue, t.raised, t.cores) := by rfl) : Kept ks s u := by
  simp only [Prod.mk.injEq] at e
  obtain ⟨hp, hv, ho, hb, hd, hm, hr, hc⟩ := e
  have core (id : CoreId) : getCore u id = getCore t id := by simp only [getCore, hc]
  exact h.trans ⟨⟨hp, fun _ _ => getN_eq _ _ _ hv ho, by rw [hb], by rw [hb]; exact id, hd, hm⟩, by rw [hr]; exact fun _ _ => id,
    fun _ => by rw [core], fun _ => by rw [core]⟩

/-! One component written: none of these holds what `Kept` looks at. -/

theorem mesh (h : Kept ks s t) (x : Mesh) : Kept ks s { t with mesh := x } := h.same
theorem power (h : Kept ks s t) (x : Power) : Kept ks s { t with power := x } := h.same
theorem stk (h : Kept ks s t) (x : Stacks) : Kept ks s { t with stk := x } := h.same
theorem streams (h : Kept ks s t) (x : Streams) : Kept ks s { t with streams := x } := h.same
theorem update (h : Kept ks s t) (x : Update) : Kept ks s { t with update := x } := h.same
theorem gates (h : Kept ks s t) (x : Gates) : Kept ks s { t with gates := x } := h.same
theorem exch (h : Kept ks s t) (x : Exchange) : Kept ks s { t with exch := x } := h.same
theorem eth (h : Kept ks s t) (x : Transport) : Kept ks s { t with eth := x } := h.same
theorem aelif (h : Kept ks s t) (x : Aelif) : Kept ks s { t with aelif := x } := h.same
theorem host (h : Kept ks s t) (x : HostIf) : Kept ks s { t with host := x } := h.same
theorem stp (h : Kept ks s t) (x : StepSt) : Kept ks s { t with stp := x } := h.same
theorem log (h : Kept ks s t) (x : Logbook) : Kept ks s { t with log := x } := h.same
theorem sec (h : Kept ks s t) (x : Security) : Kept ks s { t with sec := x } := h.same
theorem jobs (h : Kept ks s t) (x : List JobSt) : Kept ks s { t with jobs := x } := h.same
theorem pulls (h : Kept ks s t) (x : List Pull) : Kept ks s { t with pulls := x } := h.same
theorem placement (h : Kept ks s t) (x : Option Placement) : Kept ks s { t with placement := x } := h.same
theorem out (h : Kept ks s t) (o : Out) : Kept ks s (emit t o) := h.same
theorem par (h : Kept ks s t) (x : Parealo) (hx : x.due = t.par.due := by rfl) : Kept ks s { t with par := x } := h.same (by rw [hx])
theorem mgmt (h : Kept ks s t) (x : Mgmt) (hx : x.resetDue = t.mgmt.resetDue := by rfl) : Kept ks s { t with mgmt := x } := h.same (by rw [hx])

theorem seen (h : Kept ks s t) (snap : Store) (x : Parealo) (key : Nat) (hx : x.due = t.par.due := by rfl) :
    Kept ks s (touch { t with snapshot := snap, par := x } key) := h.same (by simp only [touch, hx])

theorem beat (h : Kept ks s t) (x : BeatSt) (hl : x.leaseBeat = t.beat.leaseBeat := by rfl)
    (hd : t.beat.lapsed = true → x.lapsed = true := by exact id) : Kept ks s { t with beat := x } :=
  h.trans { (refl : Kept ks t t) with lease := hl, lapsed := hd }

/-! What is written: `obj`, `add` and `count` an object, `dom` a DOMAIN, `flag` and `flagNow` a flag, `event` an entry of the event log,
`record` one of the journal. A part of the boundary is kept by the terms that mirror its writes. -/

theorem ite {c : Prop} [Decidable c] (ht : Kept ks s t) (hu : Kept ks s u) : Kept ks s (if c then t else u) := by
  split <;> assumption

theorem foldl {α : Type} (h : Kept ks s t) (xs : List α) {f : State → α → State} (hf : ∀ u, ∀ x ∈ xs, Kept ks s u → Kept ks s (f u x)) :
    Kept ks s (xs.foldl f t) :=
  List.foldlRecOn (motive := Kept ks s) xs f h fun u hu x hx => hf u x hx hu

theorem foldl_fst {α β : Type} {p : State × β} (h : Kept ks s p.1) (xs : List α) {f : State × β → α → State × β}
    (hf : ∀ q, ∀ x ∈ xs, Kept ks s q.1 → Kept ks s (f q x).1) : Kept ks s (xs.foldl f p).1 :=
  List.foldlRecOn (motive := fun q : State × β => Kept ks s q.1) xs f h fun q hq x hx => hf q x hx hq

theorem obj (h : Kept ks s t) (key v : Nat) (hk : key ∉ ks) : Kept ks s (setN t key v) :=
  h.trans { pending := by simp
            objs := fun k hm => getN_setN_other _ _ _ _ fun e => hk (e ▸ hm)
            lease := by simp
            lapsed := by simp
            due := by simp
            reset := by simp
            raised := by simp
            array := by simp
            vector := by simp }

theorem add (h : Kept ks s t) (key w n : Nat) (hk : key ∉ ks) : Kept ks s (addN t key w n) := h.obj _ _ hk

theorem count (h : Kept ks s t) (key : Nat) (hk : key ∉ ks) : Kept ks s (count64 t key) := h.obj _ _ hk

theorem dom (h : Kept ks s t) (key : Nat) (bs : List Byte) : Kept ks s (setDom t key bs) := h.same (by simp [setDom]; split <;> simp)

theorem flag (h : Kept ks s t) (key b : Nat) : Kept ks s (raise t key b) :=
  h.trans { (refl : Kept ks t t) with
    raised := fun k c hc => by
      by_cases hk : k = key
      · subst hk; rw [raise, stGet_stPut_same]; exact bit_or_of_bit _ _ _ hc
      · simpa only [raise, stGet, stPut, amGet_put_other _ _ _ _ _ hk] using hc }

theorem flagNow (h : Kept ks s t) (key b : Nat) (hk : key ∉ ks) (hc : key + 1 + b ∉ ks) : Kept ks s (raiseNow t key b) :=
  (h.obj _ _ hk).add _ _ _ hc

theorem event (h : Kept ks s t) (code : Nat) (detail : List Nat) (hk : Key.eventSeq ∉ ks := by decide) : Kept ks s (logEvent t code detail) := by
  unfold logEvent logEventAs
  extract_lets seq cs t₁ t₂ _ t₃ t₄
  have h₂ : Kept ks s t₂ := dom (obj h _ _ hk) _ _
  have h₄ : Kept ks s t₄ := dom (log h₂ _) _ _
  exact ite (out h₄ _) h₄

theorem record (h : Kept boundaryKeys s t) (typ : Nat) (body : List Byte) : Kept boundaryKeys s (journal t typ body) :=
  ((h.obj Key.journalRecordSeq _ (by decide)).add Key.journalBytesWritten _ _ (by decide)).same

theorem toTime (h : Kept boundaryKeys s t) : Kept timeKeys s t := h.mono (by decide)

theorem toFlags (h : Kept boundaryKeys s t) : Kept flagKeys s t := h.mono (by simp [boundaryKeys])

end Kept

/-! ### Objects numbered by port, field, stack or unit -/

theorem sub_lt_of_mem_boundaryKeys {k : Nat} (hk : k ∈ boundaryKeys) : k % 256 < 2 := (by decide : ∀ w ∈ boundaryKeys, w % 256 < 2) k hk

theorem not_mem_of_sub (base n : Nat) (h : 2 ≤ base % 256) : base + n * 256 ∉ boundaryKeys := fun hk => by
  have := sub_lt_of_mem_boundaryKeys hk
  omega

theorem not_mem_of_sub_add (base n : Nat) {i count : Nat} (hi : i < count) (h : 2 ≤ base % 256) (hc : base % 256 + count ≤ 256) :
    base + n * 256 + i ∉ boundaryKeys := fun hk => by
  have := sub_lt_of_mem_boundaryKeys hk
  omega

theorem not_mem_of_row (base : Nat) {n rows : Nat} (hn : n < rows) (h : ∀ w ∈ boundaryKeys, w < base ∨ base + rows * 256 ≤ w) :
    base + n * 256 ∉ boundaryKeys := fun hk => by
  have := h _ hk
  omega

theorem not_mem_of_offset (base : Nat) {n count : Nat} (hn : n < count) (h : ∀ w ∈ boundaryKeys, w < base ∨ base + count ≤ w) :
    base + n ∉ boundaryKeys := fun hk => by
  have := h _ hk
  omega

section Boundary
variable {s t : State}

/-! ### The errors of the stacks (R297) -/

section Stacks
variable {ks : List Nat} (hks : ∀ k ∈ ks, k < 0x501000 ∨ 0x502000 ≤ k) (hev : Key.eventSeq ∉ ks)
include hks

theorem stackRow_not_mem {st : Nat} (sub : Nat) (hs : st < 16) (hb : sub < 256) : 0x501000 + sub + st * 256 ∉ ks := fun hk => by
  have := hks _ hk
  omega

theorem onDieReports_kept (h : Kept ks s t) {st : Nat} (n : Nat) (hs : st < 16) : Kept ks s (onDieReports t st n) :=
  .ite h (.flag (.add h _ _ _ (stackRow_not_mem hks 1 hs (by decide))) _ _)

include hev

theorem retireFrame_kept (h : Kept ks s t) {st : Nat} (f : Nat) (hs : st < 16) : Kept ks s (retireFrame t st f) :=
  .ite (.ite h (.event (.flag (.obj h _ _ (stackRow_not_mem hks 0 hs (by decide))) _ _) _ _ hev))
    (.flag (.obj (.same h) _ _ (stackRow_not_mem hks 3 hs (by decide))) _ _)

theorem lineCorrected_kept (h : Kept ks s t) {line : Nat} (hs : addrStack (64 * line) < 16) : Kept ks s (lineCorrected t line) := by
  have hc := Kept.flag (.count h (Key.msCorrected (addrStack (64 * line))) (stackRow_not_mem hks 1 hs (by decide))) Key.stackFlags 0
  exact .ite (retireFrame_kept hks hev (.stk hc _) _ hs) (.stk hc _)

theorem lineUncorrected_kept (h : Kept ks s t) {line : Nat} (hs : addrStack (64 * line) < 16) : Kept ks s (lineUncorrected t line) :=
  retireFrame_kept hks hev (.stk (.flag (.count h _ (stackRow_not_mem hks 2 hs (by decide))) _ _) _) _ hs

theorem meetErrors_kept (h : Kept ks s t) {st : Nat} (e : StackErrs) (hs : st < 16) : Kept ks s (meetErrors t st e) := by
  have here {ls : List Nat} {line : Nat} (hl : line ∈ ls.filter fun l => addrStack (64 * l) == st) : addrStack (64 * line) < 16 := by
    rw [beq_iff_eq.mp (List.mem_filter.mp hl).2]; exact hs
  exact onDieReports_kept hks (.foldl (.foldl h _ fun _ _ hl hu => lineCorrected_kept hks hev hu (here hl))
    _ fun _ _ hl hu => lineUncorrected_kept hks hev hu (here hl)) _ hs

theorem meetErrorsOf_kept (h : Kept ks s t) {sts : List Nat} (e : StackErrs) (hs : ∀ st ∈ sts, st < 16) : Kept ks s (meetErrorsOf t sts e) := by
  cases sts with
  | nil => exact h
  | cons st rest =>
    obtain ⟨h0, hr⟩ := List.forall_mem_cons.mp hs
    exact .foldl (meetErrors_kept hks hev h e h0) _ fun _ n hn hu => meetErrors_kept hks hev hu _ (hr n hn)

end Stacks

theorem retireFrame_beat (s : State) (st f : Nat) : (retireFrame s st f).beat = s.beat := by
  unfold retireFrame
  dsimp only
  split_ifs <;> simp

theorem lineCorrected_beat (s : State) (line : Nat) : (lineCorrected s line).beat = s.beat := by
  unfold lineCorrected
  dsimp only
  split
  · simp [retireFrame_beat]
  · simp

theorem lineUncorrected_beat (s : State) (line : Nat) : (lineUncorrected s line).beat = s.beat := by simp [lineUncorrected, retireFrame_beat]

theorem meetErrors_beat (s : State) (st : Nat) (e : StackErrs) : (meetErrors s st e).beat = s.beat := by
  have report (u : State) (n : Nat) : (onDieReports u st n).beat = u.beat := by
    unfold onDieReports
    split <;> simp
  unfold meetErrors
  rw [report]
  refine List.foldlRecOn (motive := fun u : State => u.beat = s.beat) _ lineUncorrected ?_ fun u hu l _ => (lineUncorrected_beat u l).trans hu
  exact List.foldlRecOn (motive := fun u : State => u.beat = s.beat) _ lineCorrected rfl fun u hu l _ => (lineCorrected_beat u l).trans hu

theorem meetErrorsOf_beat (s : State) (sts : List Nat) (e : StackErrs) : (meetErrorsOf s sts e).beat = s.beat := by
  cases sts with
  | nil => rfl
  | cons st rest =>
    exact List.foldlRecOn (motive := fun u : State => u.beat = s.beat) rest _ (meetErrors_beat s st e)
      fun u hu n _ => (meetErrors_beat u n _).trans hu

/-! ### Cores (R81, R109, R177, R192, R194, R196) -/

/-- The numeric flags that a core raised in the beat stay. -/
def SameBeat (c d : Core) : Prop := d.beatA = c.beatA ∧ d.beatV = c.beatV

namespace SameBeat

theorem refl {c : Core} : SameBeat c c := ⟨rfl, rfl⟩
theorem trans {c d e : Core} (h : SameBeat c d) (g : SameBeat d e) : SameBeat c e := ⟨g.1.trans h.1, g.2.trans h.2⟩

end SameBeat

theorem Kept.core {ks : List Nat} (h : Kept ks s t) (id : CoreId) {c : Core} (hc : SameBeat (getCore t id) c) : Kept ks s (setCore t id c) := by
  have same (j : CoreId) : SameBeat (getCore t j) (getCore (setCore t id c) j) := by
    by_cases hj : coreKey j = coreKey id
    · simp only [getCore, setCore, hj, amGet_ins_same]; exact hc
    · rw [getCore_setCore_other _ _ _ _ hj]; exact .refl
  exact h.trans { (Kept.refl : Kept ks t t) with objs := fun _ _ => rfl, array := fun j => (same j).1, vector := fun j => (same j).2 }

theorem Kept.cores {ks : List Nat} (h : Kept ks s t) {f : CoreId → Core → Core} (hf : ∀ id c, SameBeat c (f id c)) : Kept ks s (mapCores t f) := by
  have same (id : CoreId) : SameBeat (getCore t id) (getCore (mapCores t f) id) := by
    rw [getCore_mapCores]
    split
    · exact hf _ _
    · next hn =>
      have hd : getCore t id = Core.default := by
        have hm := amGet_map Core.default (fun _ c => c) t.cores (coreKey id)
        simp only [hn, Bool.false_eq_true, if_false, List.map_id'] at hm
        exact hm
      rw [hd]; exact .refl
  exact h.trans { (Kept.refl : Kept ks t t) with objs := fun _ _ => rfl, array := fun j => (same j).1, vector := fun j => (same j).2 }

theorem wakeCore_sameBeat (s : State) (c : Core) : SameBeat c (wakeCore s c) := by
  unfold wakeCore
  split
  · split <;> exact .refl
  · split <;> exact .refl
  · split <;> exact .refl
  · exact .refl

theorem startCore_sameBeat (c : Core) : SameBeat c (startCore c) := by
  unfold startCore
  split
  · split <;> exact .refl
  · exact .refl

theorem resumeCore_sameBeat (s : State) (c : Core) : SameBeat c (resumeCore s c) := by
  unfold resumeCore
  split
  · exact wakeCore_sameBeat s _
  · exact .refl

theorem saveContext_sameBeat (c : Core) : SameBeat c (saveContext c) := by
  obtain ⟨_, _, _, h⟩ := saveContext_sramChange c
  rw [h]
  exact ⟨rfl, rfl⟩

theorem suspendCore_sameBeat (c : Core) : SameBeat c (suspendCore c) := by
  have saved := saveContext_sameBeat c
  unfold suspendCore
  generalize saveContext c = d at saved ⊢
  split
  · exact ⟨saved.1, saved.2⟩
  · exact ⟨saved.1, saved.2⟩
  · exact .refl

theorem unparkCore_sameBeat (s : State) (c : Core) : SameBeat c (unparkCore s c) := by
  have woken (d : Core) : SameBeat d (wakeCore s (if s.stp.suspended then suspendCore d else if inRun s then startCore (resumeCore s d) else d)) := by
    refine SameBeat.trans ?_ (wakeCore_sameBeat s _)
    split
    · exact suspendCore_sameBeat d
    · split
      · exact (resumeCore_sameBeat s d).trans (startCore_sameBeat _)
      · exact .refl
  unfold unparkCore
  split
  · exact woken { { c with st := c.parkedFrom } with progressed := c.progressed || heartIdle { c with st := c.parkedFrom } }
  · exact .refl

theorem coreBoundary_sameBeat (s : State) (c : Core) : SameBeat c (coreBoundary s c) := by
  unfold coreBoundary
  refine SameBeat.trans ?_ (wakeCore_sameBeat s _)
  split <;> exact .refl

/-- From `s` and a core `c`, what the errors that the core meets leave of the two. -/
def MetKept (s : State) (c : Core) (p : State × Core) : Prop := Kept boundaryKeys s p.1 ∧ SameBeat c p.2

theorem sramError_kept {c : Core} {p : State × Core} (h : MetKept s c p) (e : SramErr) : MetKept s c (sramError p e) := by
  obtain ⟨t, d⟩ := p
  obtain ⟨hk, hc⟩ := h
  have counted (b : Nat) (hb : b < 2) : Kept boundaryKeys s (raiseNow t Key.coreFlags b) :=
    hk.flagNow _ _ (by decide) (by interval_cases b <;> decide)
  simp only [sramError]
  split
  · exact ⟨hk, hc⟩
  split
  · exact ⟨.count (counted 0 (by decide)) _ (by decide), hc⟩
  · exact ⟨.ite (counted 1 (by decide)) (.count (counted 1 (by decide)) _ (by decide)), hc⟩

theorem readErrs_kept {c : Core} {p : State × Core} (h : MetKept s c p) (a n : Nat) (errs : List SramErr) : MetKept s c (readErrs a n errs p) :=
  List.foldlRecOn (motive := MetKept s c) _ sramError h fun _ hq e _ => sramError_kept hq e

theorem syncErrs_kept {c : Core} {p : State × Core} (h : MetKept s c p) (errs : List SramErr) : MetKept s c (syncErrs errs p) := by
  unfold syncErrs
  split
  · split
    · exact readErrs_kept h _ _ _
    · exact h
  · exact h

/-! ### The frames that wait on a link (R337) -/

theorem dropReplay_kept (h : Kept boundaryKeys s t) (p : Nat) : Kept boundaryKeys s (dropReplay t p) :=
  .aelif (.aelif (.add h _ _ _ (by decide)) _) _

theorem applyBridges_kept (h : Kept boundaryKeys s t) : Kept boundaryKeys s (applyBridges t) :=
  .foldl (.obj (.obj h _ _ (by decide)) _ _ (by decide)) _ fun _ _ _ hu => .foldl hu _ fun _ _ _ hv => dropReplay_kept hv _

theorem enqueue_kept (h : Kept boundaryKeys s t) (p : Nat) (f : QFrame) : Kept boundaryKeys s (enqueue t p f) := .aelif h _

theorem holdFrames_kept (h : Kept boundaryKeys s t) (d : Nat) (fs : List QFrame) : Kept boundaryKeys s (holdFrames t d fs) := .aelif h _

theorem reassign_kept (h : Kept boundaryKeys s t) (p : Nat) : Kept boundaryKeys s (reassign t p) := by
  refine .foldl (.aelif h _) _ fun u f _ hu => ?_
  split
  · exact enqueue_kept hu _ _
  · exact holdFrames_kept hu _ _

theorem linkBoundary_kept (h : Kept boundaryKeys s t) : Kept boundaryKeys s (linkBoundary t) :=
  .foldl (.aelif (applyBridges_kept h) _) _ fun _ _ _ hu => .ite hu (.foldl hu _ fun _ _ _ hv => reassign_kept hv _)

/-! ### Fields woken (R68, R458, R460, R472) -/

theorem setFieldPower_kept (h : Kept boundaryKeys s t) {f : Nat} (st : Nat) (hf : f < 90) : Kept boundaryKeys s (setFieldPower t f st) := by
  have hp := Kept.obj h (Key.pwrFieldPowerState f) st (not_mem_of_row _ hf (by decide))
  exact .dom (.dom (.ite (.obj hp _ _ (by decide)) hp) _ _) _ _

theorem mapField_kept {ks : List Nat} (h : Kept ks s t) (f : Nat) {g : Core → Core} (hg : ∀ c, SameBeat c (g c)) : Kept ks s (mapField t f g) :=
  .foldl h _ fun _ _ _ hu => .core hu _ (hg _)

theorem unparkErrs_kept (h : Kept boundaryKeys s t) (id : CoreId) (errs : List SramErr) : Kept boundaryKeys s (unparkErrs t id errs) := by
  unfold unparkErrs
  dsimp only
  split
  · exact h
  · have start : MetKept t (getCore t id) (t, getCore t id) := ⟨.refl, .refl⟩
    have read : MetKept t (getCore t id) (if (getCore t id).parkedFrom = .suspended ∧ inRun t then
        readErrs contextBase 0x2270 errs (t, getCore t id) else (t, getCore t id)) := by
      split
      · exact readErrs_kept start _ _ _
      · exact start
    obtain ⟨hk, ha, hv⟩ := syncErrs_kept read errs
    exact h.trans (.core hk _ ⟨ha.trans (hk.array id).symm, hv.trans (hk.vector id).symm⟩)

theorem ejectVc0_kept {ks : List Nat} (h : Kept ks s t) (id : CoreId) : Kept ks s (ejectVc0 t id) := by
  refine .ite h (.foldl (.core h _ ?_) _ fun _ _ _ hu => .out hu _)
  exact ⟨rfl, rfl⟩

theorem finishWake_kept (h : Kept boundaryKeys s t) {f : Nat} (hf : f < 90) : Kept boundaryKeys s (finishWake t f) := by
  have met := Kept.foldl h (t.stp.met.filter (fun e => (fieldCores t f).contains e.1)) fun u e _ hu => unparkErrs_kept (s := s) hu e.1 e.2
  exact .foldl (setFieldPower_kept (mapField_kept met f fun c => unparkCore_sameBeat _ c) 4 hf) _ fun _ _ _ hu => ejectVc0_kept hu _

theorem settleFields_kept (h : Kept boundaryKeys s t) : Kept boundaryKeys s (settleFields t) := by
  refine .foldl h _ fun u f hm hu => ?_
  have hf : f < 90 := List.mem_range.mp hm
  exact .ite (.count (setFieldPower_kept hu _ hf) _ (not_mem_of_sub _ _ (by decide)))
    (.ite (.count (finishWake_kept hu hf) _ (not_mem_of_sub _ _ (by decide))) hu)

/-! ### Derived objects, progress and the logbook (R433, R511) -/

theorem refreshHeld_kept (h : Kept boundaryKeys s t) : Kept boundaryKeys s (refreshHeld t) := .obj h _ _ (by decide)

theorem syncDerived_kept (h : Kept boundaryKeys s t) : Kept boundaryKeys s (syncDerived t) := by
  refine .foldl (.foldl (.obj (.obj (refreshHeld_kept h) _ _ (by decide)) _ _ (by decide)) _ fun _ n hn hu => ?_) _ fun _ _ _ hu => .dom hu _ _
  exact .obj hu _ _ (not_mem_of_row _ (List.mem_range.mp hn) (by decide))

theorem boundaryProgress_kept (h : Kept boundaryKeys s t) (ps : List (Nat × Nat)) : Kept boundaryKeys s (boundaryProgress t ps) :=
  .foldl h _ fun _ _ _ hu => .ite (.ite (.obj hu _ _ (not_mem_of_sub _ _ (by decide))) hu) hu

theorem logbookFails_kept (h : Kept boundaryKeys s t) : Kept boundaryKeys s (logbookFails t) :=
  .ite h (.event (.flag (.log h _) _ _) _ _)

/-! ### The update units' queues and the exchange (R247, R257, R270 to R282, R356) -/

theorem refreshUnits_kept (h : Kept boundaryKeys s t) : Kept boundaryKeys s (refreshUnits t) :=
  .foldl h _ fun _ _ hu hk => .obj (.obj hk _ _ (not_mem_of_row _ (List.mem_range.mp hu) (by decide))) _ _
    (not_mem_of_row _ (List.mem_range.mp hu) (by decide))

theorem setGroup_kept (h : Kept boundaryKeys s t) (g : Nat) (v : GroupSt) : Kept boundaryKeys s (setGroup t g v) := .update h _

theorem stkWrite_kept {ks : List Nat} (h : Kept ks s t) (a : Nat) (bs : List Byte) (poison : Bool) : Kept ks s (stkWrite t a bs poison) := .stk h _

theorem tryUpdate_kept (h : Kept boundaryKeys s t) (g : Nat) : Kept boundaryKeys s (tryUpdate t g) := by
  unfold tryUpdate
  split
  · exact h
  · exact .ite h (.ite (refreshUnits_kept (.update (setGroup_kept h _ _) _)) (.ite (refreshUnits_kept (.update (setGroup_kept h _ _) _)) h))

theorem sendMsg_kept (h : Kept boundaryKeys s t) (dest : Nat) (m : XMsg) : Kept boundaryKeys s (sendMsg t dest m) := h.same

theorem keepMsg_kept (h : Kept boundaryKeys s t) (m : XMsg) : Kept boundaryKeys s (keepMsg t m) := .ite h (.exch h _)

theorem setAccepted_kept (h : Kept boundaryKeys s t) (m : XMsg) : Kept boundaryKeys s (setAccepted t m) := .exch h _

theorem writeGrad_kept (h : Kept boundaryKeys s t) (d : List Byte) (m : XMsg) : Kept boundaryKeys s (writeGrad t d m) :=
  .foldl h _ fun _ _ _ hu => stkWrite_kept hu _ _ _

theorem writeInbound_kept (h : Kept boundaryKeys s t) (d : List Byte) (m : XMsg) : Kept boundaryKeys s (writeInbound t d m) :=
  .foldl h _ fun _ _ _ hu => stkWrite_kept hu _ _ _

theorem gatherComplete_kept (h : Kept boundaryKeys s t) (d : List Byte) : Kept boundaryKeys s (gatherComplete t d) :=
  .ite h (tryUpdate_kept (.update (setGroup_kept h _ _) _) _)

theorem acceptGather_kept (h : Kept boundaryKeys s t) (m : XMsg) : Kept boundaryKeys s (acceptGather t m) := by
  unfold acceptGather
  split
  · exact h
  · next d _ =>
    have taken : Kept boundaryKeys s (if t.exch.accepted.any (sameMsg m) then t else setAccepted t m) := .ite h (setAccepted_kept h m)
    have written := Kept.ite (c := m.flags = 1) (taken.flag Key.exchangeFlags 5) (writeGrad_kept taken d m)
    exact gatherComplete_kept (setGroup_kept (.ite (written.flag _ _) written) _ _) d

theorem takeOwnGather_kept (h : Kept boundaryKeys s t) (m : XMsg) : Kept boundaryKeys s (takeOwnGather t m) :=
  .ite (keepMsg_kept h m) (acceptGather_kept h m)

theorem encodeWithResidual_kept (h : Kept boundaryKeys s t) (method kcode : Nat) (xs : List W32) (resAt : Nat) :
    Kept boundaryKeys s (encodeWithResidual t method kcode xs resAt).1 := by
  unfold encodeWithResidual
  extract_lets bs ds rs t₁ t₂ t₃
  have h₂ : Kept boundaryKeys s t₂ := .count (stkWrite_kept h _ _ _) _ (by decide)
  exact .add (.ite (.count h₂ _ (by decide)) h₂) _ _ _ (by decide)

theorem formGather_kept (h : Kept boundaryKeys s t) (d : List Byte) (c : Nat × Nat) : Kept boundaryKeys s (formGather d t c) := by
  unfold formGather
  extract_lets g e counts _ t₁ r
  have h₁ : Kept boundaryKeys s t₁ := .exch h _
  have hr : Kept boundaryKeys s r.1 := .foldl_fst h₁ _ fun _ _ _ hq => encodeWithResidual_kept hq _ _ _ _
  clear_value t₁ r
  split_ifs <;> refine takeOwnGather_kept (.foldl ?_ _ fun _ _ _ hu => sendMsg_kept hu _ _) _
  · exact h₁
  · exact setGroup_kept hr _ _

theorem tryOwner_kept (h : Kept boundaryKeys s t) (g : Nat) : Kept boundaryKeys s (tryOwner t g) := by
  unfold tryOwner
  split
  · exact h
  · exact .ite h (.foldl h _ fun _ c _ hu => formGather_kept hu _ c)

theorem acceptContrib_kept (h : Kept boundaryKeys s t) (m : XMsg) : Kept boundaryKeys s (acceptContrib t m) := by
  unfold acceptContrib
  split
  · exact tryOwner_kept h _
  split
  · exact h
  · exact .ite (writeInbound_kept (.exch h _) _ m) (tryOwner_kept (writeInbound_kept (setAccepted_kept h m) _ m) _)

theorem compareGroup_kept (h : Kept boundaryKeys s t) (step : Nat) (d : List Byte) : Kept boundaryKeys s (compareGroup step t d) := by
  unfold compareGroup
  extract_lets g n fs agree _ t₁ t₂ t₃ _ t₄
  have h₁ : Kept boundaryKeys s t₁ := setGroup_kept h _ _
  have h₂ : Kept boundaryKeys s t₂ := .event (.flag h₁ _ _) _ _
  have h₄ : Kept boundaryKeys s t₄ := .exch (.ite (.obj (.obj (.obj h₂ _ _ (by decide)) _ _ (by decide)) _ _ (by decide)) h₂) _
  refine .ite h₁ ?_
  split
  · exact .ite (.exch h₄ _) h₄
  · exact h₄

theorem acceptFingerprint_kept (h : Kept boundaryKeys s t) (m : XMsg) : Kept boundaryKeys s (acceptFingerprint t m) :=
  .ite (.exch h _) (.foldl (.same h) _ fun _ d _ hu => compareGroup_kept hu _ d)

theorem sendFingerprint_kept (h : Kept boundaryKeys s t) (step : Nat) (updated : List Nat) : Kept boundaryKeys s (sendFingerprint t step updated) :=
  acceptFingerprint_kept (.foldl (.dom h _ _) _ fun _ _ _ hu => sendMsg_kept hu _ _) _

theorem takeDuplicate_kept (h : Kept boundaryKeys s t) (m : XMsg) : Kept boundaryKeys s (takeDuplicate t m) := by
  have h₁ : Kept boundaryKeys s (count64 t Key.duplicatesDiscarded) := .count h _ (by decide)
  unfold takeDuplicate
  dsimp only
  split
  · exact .ite h₁ (.flag h₁ _ _)
  · exact h₁

theorem acceptMsg_kept (h : Kept boundaryKeys s t) (m : XMsg) : Kept boundaryKeys s (acceptMsg t m) := by
  unfold acceptMsg
  split
  · exact acceptContrib_kept h m
  · exact acceptGather_kept h m
  · exact acceptFingerprint_kept h m

theorem receiveMsg_kept (h : Kept boundaryKeys s t) (m : XMsg) : Kept boundaryKeys s (receiveMsg t m).1 := by
  unfold receiveMsg
  split
  · exact .count h _ (by decide)
  · exact keepMsg_kept h m
  · exact takeDuplicate_kept h m
  · exact acceptMsg_kept h m

theorem retryKept_kept (h : Kept boundaryKeys s t) : Kept boundaryKeys s (retryKept t) :=
  .foldl (.exch h _) _ fun _ m _ hu => .ite (takeOwnGather_kept hu m) (receiveMsg_kept hu m)

/-! ### The milestone (R18, R19, R251) -/

theorem activateKeys_kept (h : Kept boundaryKeys s t) : Kept boundaryKeys s (activateKeys t) := by
  refine .foldl (.foldl h _ fun _ n _ hu => .obj (.obj hu _ _ (not_mem_of_sub _ _ (by decide))) _ _ (not_mem_of_sub _ _ (by decide)))
    _ fun _ n _ hu => .foldl hu _ fun _ i hi hv => .obj hv _ _ ?_
  exact not_mem_of_sub_add _ _ (List.mem_range.mp hi) (by decide) (by decide)

theorem beginPull_kept (h : Kept boundaryKeys s t) (job group : Nat) (source : Option Nat) (all adopt : Bool) :
    Kept boundaryKeys s (beginPull t job group source all adopt) := .ite h (.out (.pulls h _) _)

theorem startRepairs_kept (h : Kept boundaryKeys s t) (repairs : List (Nat × Nat)) (ovr : Option (Nat × Nat)) (differs : Bool) :
    Kept boundaryKeys s (startRepairs t repairs ovr differs) := by
  have h₁ := Kept.foldl h repairs fun u r _ hu => beginPull_kept (s := s) (hu.flag Key.replicaFlags 2) 5 r.1 (some (peerAddr u r.2)) false false
  unfold startRepairs
  dsimp only
  split
  · exact .ite (beginPull_kept h₁ _ _ _ _ _) h₁
  · exact h₁

theorem nextGroups_kept (h : Kept boundaryKeys s t) (updated : List (List Byte)) : Kept boundaryKeys s (nextGroups t updated) :=
  .foldl h _ fun _ _ _ hu => setGroup_kept hu _ _

theorem openStep_kept (h : Kept boundaryKeys s t) : Kept boundaryKeys s (openStep t) := .obj (.same h) _ _ (by decide)

theorem openWindow_kept (h : Kept boundaryKeys s t) : Kept boundaryKeys s (openWindow t) :=
  .ite (.stp h _) (.stp (.add (.stp h _) _ _ _ (by decide)) _)

theorem milestone_kept (h : Kept boundaryKeys s t) : Kept boundaryKeys s (milestone t) := by
  unfold milestone
  extract_lets step updated pulled repairs ovr differs _ t₂ _ _ t₅ _ t₆ _ _ t₇
  have h₂ : Kept boundaryKeys s t₂ := nextGroups_kept (activateKeys_kept (.obj h _ _ (by decide))) _
  have h₅ : Kept boundaryKeys s t₅ := sendFingerprint_kept (openStep_kept (.record h₂ _ _)) _ _
  have h₆ : Kept boundaryKeys s t₆ := .dom (.exch (.exch h₅ _) _) _ _
  have h₇ : Kept boundaryKeys s t₇ := .streams (openWindow_kept (.stp h₆ _)) _
  exact refreshUnits_kept (retryKept_kept (startRepairs_kept h₇ _ _ _))

/-! ### A placement taken up, and the progress of jobs (R445, R556) -/

theorem installObjs_kept (h : Kept boundaryKeys s t) (p : Placement) : Kept boundaryKeys s (installObjs t p) := by
  refine .foldl ?_ _ fun _ _ _ hu => .dom hu _ _
  exact .dom (.dom (.obj (.obj (.dom (.dom (.obj (.dom (.obj (.obj (.dom (.obj (.dom (.obj (.dom h _ _) _ _ (by decide)) _ _) _ _ (by
    decide)) _ _) _ _ (by decide)) _ _ (by decide)) _ _) _ _ (by decide)) _ _) _ _) _ _ (by decide)) _ _ (by decide)) _ _) _ _

theorem installMapping_kept (h : Kept boundaryKeys s t) (p : Placement) : Kept boundaryKeys s (installMapping t p) := by
  unfold installMapping
  exact .obj (.obj (.obj (.obj (.dom (.obj (.obj (.obj (.obj (.obj (.obj (.obj (.obj (.obj h _ _ (by decide)) _ _ (by decide)) _ _ (by
    decide)) _ _ (by decide)) _ _ (by decide)) _ _ (by decide)) _ _ (by decide)) _ _ (by decide)) _ _ (by decide)) _ _) _ _ (by decide)) _ _
    (by decide)) _ _ (by decide)) _ _ (by decide)

theorem preview_kept (h : Kept boundaryKeys s t) (p : Placement) : Kept boundaryKeys s (preview t p) :=
  .placement (installMapping_kept (installObjs_kept h p) p) _

theorem clearWork_kept (h : Kept boundaryKeys s t) (p : Placement) : Kept boundaryKeys s (clearWork t p) := h.same

theorem loadCore_sameBeat (s : State) (id : CoreId) (c : Core) (plan : CorePlan) : SameBeat (getCore s id) (loadCore s id c plan) := by
  refine List.foldlRecOn (motive := SameBeat (getCore s id)) plan.image _ ?_ fun d hd seg _ => hd.trans ?_ 
  · exact ⟨rfl, rfl⟩
  · exact ⟨rfl, rfl⟩

theorem loadCores_kept (h : Kept boundaryKeys s t) (p : Placement) : Kept boundaryKeys s (loadCores t p) := by
  refine .foldl h _ fun u plan _ hu => ?_
  have loaded := loadCore_sameBeat u plan.core (getCore u plan.core) plan
  dsimp only
  split
  · exact hu
  · exact hu
  · exact hu
  · exact .core hu _ loaded
  · exact .core hu _ loaded
  · exact .core hu _ loaded

theorem armFrom_kept (h : Kept timeKeys s t) (se : Nat) (b : List Byte) (done : List Nat) : Kept timeKeys s (armFrom t se b done) := by
  have hk : Key.seState se ∉ timeKeys := fun hm => by
    have := (by decide : ∀ w ∈ timeKeys, w < 0x700000) _ hm
    simp only [Key.seState] at this
    omega
  exact .ite (.obj (.ite (.streams h _) (.streams (.streams h _) _)) _ _ hk) (.streams h _)

theorem armPlaced_kept (h : Kept timeKeys s t) (p : Placement) : Kept timeKeys s (armPlaced t p) :=
  .foldl (.streams h _) _ fun _ _ _ hu => .ite (armFrom_kept hu _ _ _) (.streams hu _)

theorem setSteps_kept (h : Kept boundaryKeys s t) (commit : Nat) : Kept boundaryKeys s (setSteps t commit) := .stp (.obj h _ _ (by decide)) _

theorem installPlacement_kept (h : Kept boundaryKeys s t) (p : Placement) : Kept timeKeys s (installPlacement t p) :=
  .obj (.obj (.obj (armPlaced_kept (clearWork_kept (loadCores_kept (preview_kept h p) p) p).toTime p) _ _ (by decide))
    _ _ (by decide)) _ _ (by decide)

theorem clearStore_kept (h : Kept boundaryKeys s t) : Kept boundaryKeys s (clearStore t) :=
  .foldl h _ fun _ _ _ hu => .foldl hu _ fun _ _ _ hv => .stk (.stk hv _) _

theorem ksetK_not_mem {n i : Nat} (hn : n < 64) (hi : i < 12) : Key.ksetK n i ∉ boundaryKeys := by
  rw [Key.ksetK, Nat.add_assoc]
  exact not_mem_of_offset _ (count := 0x4000) (by omega) (by decide)

/-- The keys and constants of every index written, as at a job's start and from the last milestone. -/
theorem keys_kept (h : Kept boundaryKeys s t) (lo hi : Nat → Nat) (const : Nat → Nat → Nat) : Kept boundaryKeys s
    ((List.range 64).foldl (fun s n => (List.range 12).foldl (fun s i =>
        setN (setN s (Key.ksetK n i) (const n i)) (Key.ksetKActive n i) (const n i)) s)
      ((List.range 16).foldl (fun s n =>
        setN (setN (setN (setN s (Key.keyLo n) (lo n)) (Key.keyHi n) (hi n)) (Key.keyActiveLo n) (lo n)) (Key.keyActiveHi n) (hi n)) t)) := by
  refine .foldl (.foldl h _ fun u n hn hu => ?_) _ fun _ n hn hu => .foldl hu _ fun v i hi hv => ?_
  · have hn := List.mem_range.mp hn
    exact .obj (.obj (.obj (.obj hu _ _ (not_mem_of_row _ hn (by decide))) _ _ (not_mem_of_sub _ _ (by decide))) _ _
      (not_mem_of_sub _ _ (by decide))) _ _ (not_mem_of_sub _ _ (by decide))
  · have hi := List.mem_range.mp hi
    exact .obj (.obj hv _ _ (ksetK_not_mem (List.mem_range.mp hn) hi)) _ _ (not_mem_of_sub_add _ _ hi (by decide) (by decide))

theorem beginJob_kept (h : Kept boundaryKeys s t) : Kept boundaryKeys s (beginJob t) := by
  unfold beginJob defaultKeys
  exact keys_kept (setSteps_kept h _) (fun _ => 0) (fun _ => 0) fun _ _ => 0

theorem restoreFrom_kept (h : Kept boundaryKeys s t) (rs : List JRec) : Kept boundaryKeys s (restoreFrom t rs) := by
  unfold restoreFrom
  split
  · exact h
  · next r _ =>
    refine .foldl ?_ _ fun _ _ _ hu => setGroup_kept hu _ _
    unfold restoreKeys
    exact keys_kept (setSteps_kept h _) (fun n => field r.body (8 + 16 * n) 8) (fun n => field r.body (16 + 16 * n) 8)
      fun n i => field r.body (264 + 48 * n + 4 * i) 4

theorem putJob_kept (h : Kept boundaryKeys s t) (j : JobSt) : Kept boundaryKeys s (putJob t j) := .jobs h _

theorem setJobState_kept (h : Kept boundaryKeys s t) {n : Nat} (st : Nat) (hn : n < 16) : Kept boundaryKeys s (setJobState t n st) :=
  .record (.obj h _ _ (not_mem_of_row _ hn (by decide))) _ _

theorem endJob_kept (h : Kept boundaryKeys s t) {n : Nat} (st status place index : Nat) (rest : List Byte) (hn : n < 16) :
    Kept boundaryKeys s (endJob t n st status place index rest) := by
  refine setJobState_kept (putJob_kept (.obj (.dom (.obj h _ _ ?_) _ _) _ _ ?_) _) _ hn
  · exact not_mem_of_sub _ _ (by decide)
  · exact not_mem_of_sub _ _ (by decide)

theorem applyPlacement_kept (h : Kept boundaryKeys s t) (p : Placement) : Kept timeKeys s (applyPlacement t p) := by
  have store : Kept timeKeys s (clearStore (installPlacement t p)) := (installPlacement_kept h p).trans (clearStore_kept .refl).toTime
  have started (u : State) : Kept boundaryKeys u (beginJob u) := beginJob_kept .refl
  unfold applyPlacement
  dsimp only
  split
  · split
    · exact store.trans (started _).toTime
    · exact store.trans (restoreFrom_kept .refl _).toTime
  · exact store.trans (beginJob_kept (.record .refl _ _)).toTime

theorem finishLoad_kept (h : Kept boundaryKeys s t) : Kept timeKeys s (finishLoad t) := by
  unfold finishLoad
  split
  · exact h.toTime
  · exact (applyPlacement_kept h _).trans (endJob_kept (.obj .refl _ _ (by decide)) _ _ _ _ _ (by decide)).toTime

/-! ### Windows, resharding and the handover (R22, R385, R390, R391) -/

theorem windowBoundary_kept (h : Kept boundaryKeys s t) (old : Nat) : Kept boundaryKeys s (windowBoundary t old) := by
  unfold windowBoundary
  split
  · exact h
  · next e _ =>
    have counted : Kept boundaryKeys s (if e ≤ old then count64 (overrunCause t 2) Key.evalExtendedBeats else t) :=
      .ite (.count (.stp h _) _ (by decide)) h
    exact .ite (.count (.stp counted _) _ (by decide)) counted

theorem lateMilestone_kept (h : Kept boundaryKeys s t) : Kept boundaryKeys s (lateMilestone t) := by
  have noted : Kept boundaryKeys s (if (groupDescs t).any (fun d => sweepOwed t d t.stp.step) then raise t Key.updateFlags 1 else t) :=
    .ite (.flag h _ _) h
  exact .ite h (.ite noted (.flag noted _ _))

theorem writeRest_kept (h : Kept boundaryKeys s t) (d : List Byte) (b slot : Nat) (v : BlockVals) : Kept boundaryKeys s (writeRest d t b slot v) :=
  stkWrite_kept (.foldl (.ite (stkWrite_kept h _ _ _) h) _ fun _ _ _ hu => stkWrite_kept hu _ _ _) _ _ _

theorem writeBlock_kept (h : Kept boundaryKeys s t) (d : List Byte) (b slot : Nat) (v : BlockVals) : Kept boundaryKeys s (writeBlock t d b slot v) :=
  .foldl (.stk h _) _ fun _ _ _ hu => writeRest_kept hu _ _ _ _

theorem writeResharded_kept (h : Kept boundaryKeys s t) (d : List Byte) (b : BlockData) (number : Nat) :
    Kept boundaryKeys s (writeResharded t d b number).1 := by
  have written := writeBlock_kept h d b.block 0 (blockVals d b false)
  exact stkWrite_kept (.ite (stkWrite_kept (stkWrite_kept (stkWrite_kept written _ _ _) _ _ _) _ _ _) written) _ _ _

theorem takeResharded_kept (h : Kept boundaryKeys s t) (d : List Byte) (p : Pull) (b : BlockData) (number : Nat) :
    Kept boundaryKeys s (takeResharded t d p b number).1 := by
  have written := writeResharded_kept h d b number
  exact .ite (.count (.count (.pulls written _) _ (by decide)) _ (by decide)) written

theorem copyOwn_kept (h : Kept boundaryKeys s t) (p : Placement) (e : ReshardEntry) (i : Nat) : Kept boundaryKeys s (copyOwn p e t i) := by
  unfold copyOwn
  split
  · exact takeResharded_kept (.count h _ (by decide)) _ _ _ _
  · exact h

theorem enterCopying_kept (h : Kept boundaryKeys s t) : Kept boundaryKeys s (enterCopying t) := by
  have entered := Kept.obj (.obj h Key.drainStep (getN t Key.commitStep) (by decide)) Key.reshardPhase 2 (by decide)
  unfold enterCopying
  dsimp only
  split
  · exact entered
  · exact .foldl (.foldl (.stk entered _) _ fun _ _ _ hu => .pulls hu _) _ fun _ _ _ hu =>
      .ite (.foldl hu _ fun _ _ _ hv => copyOwn_kept hv _ _ _) (.out hu _)

theorem endDraining_kept (h : Kept boundaryKeys s t) : Kept boundaryKeys s (endDraining t) := .ite (enterCopying_kept h) h

theorem failReshard_kept (h : Kept boundaryKeys s t) (status place index : Nat) : Kept boundaryKeys s (failReshard t status place index) :=
  endJob_kept (.obj (.pulls (.flag h _ _) _) _ _ (by decide)) _ _ _ _ _ (by decide)

theorem beginHandover_kept (h : Kept boundaryKeys s t) : Kept boundaryKeys s (beginHandover t) :=
  .ite (.mgmt h _) (.ite h (.event (.flag (.mgmt (.record h _ _) _) _ _) _ _))

theorem settleHandover_kept (h : Kept boundaryKeys s t) : Kept boundaryKeys s (settleHandover t) := by
  have settled : Kept boundaryKeys s (if t.mgmt.handover ≠ 4 then t else
      if getN { t with mgmt := { t.mgmt with handover := 1 } } Key.reshardPhase = 2 then
        failReshard { t with mgmt := { t.mgmt with handover := 1 } } stInterrupted 0 0
      else { t with mgmt := { t.mgmt with handover := 1 } }) :=
    .ite h (.ite (failReshard_kept (.mgmt h _) _ _ _) (.mgmt h _))
  exact .ite (beginHandover_kept settled) settled

/-! ### The number of the beat (R395, R399, R403) -/

theorem refreshSource_kept {ks : List Nat} (h : Kept ks s t) (hk : Key.beatSource ∉ ks) : Kept ks s (refreshSource t) := .obj h _ _ hk

theorem noteSkip_kept {ks : List Nat} (h : Kept ks s t) (n : Nat) (place : Nat × Nat) : Kept ks s (noteSkip t n place) := .ite h (.beat h _)

theorem rootStretch_kept (h : Kept boundaryKeys s t) : Kept boundaryKeys s (rootStretch t) :=
  .ite h (.ite (.beat (.flag (.count h _ (by decide)) _ _) _) (.beat h _))

/-- What follows the number of the beat leaves it. -/
theorem numberBoundary_kept (s : State) (ptpTimeNs : Nat) :
    Kept boundaryKeys (setN (refreshSource s) Key.beatNumber ((nextNumber (refreshSource s) ptpTimeNs).1 % 2 ^ 64)) (numberBoundary s ptpTimeNs) := by
  unfold numberBoundary
  extract_lets u old wasRun n place began t₁ t₂ t₃ t₄ t₅
  have h₂ : Kept boundaryKeys t₁ t₂ := .ite (.count .refl _ (by decide)) .refl
  have h₃ : Kept boundaryKeys t₁ t₃ := .ite (.count h₂ _ (by decide)) h₂
  have h₄ : Kept boundaryKeys t₁ t₄ := .ite (.obj h₃ _ _ (by decide)) h₃
  exact rootStretch_kept (.beat (noteSkip_kept h₄ _ _) _)

theorem sourceOf_ne_ptp (h : getN s Key.beatEpochNs = 0) : sourceOf s ≠ 1 := by
  simp only [sourceOf, h]
  split
  · decide
  · simp

/-- An engine that counts its own beats, outside a stretch, goes to the next number. -/
theorem nextNumber_own (ptpTimeNs : Nat) (ht : s.beat.tick = none) (hl : s.beat.stretchLen = 0) (he : getN s Key.beatEpochNs = 0) :
    (nextNumber (refreshSource s) ptpTimeNs).1 = beatNow s + 1 := by
  have hb : (refreshSource s).beat = s.beat := by simp [refreshSource]
  have hs : getN (refreshSource s) Key.beatSource ≠ 1 := by rw [refreshSource, getN_setN_same]; exact sourceOf_ne_ptp he
  have hn : beatNow (refreshSource s) = beatNow s := getN_setN_other _ _ _ _ (by decide)
  simp [nextNumber, ownNumber, hb, ht, hl, hs, hn]

theorem numberBoundary_number (ptpTimeNs : Nat) (ht : s.beat.tick = none) (hl : s.beat.stretchLen = 0) (he : getN s Key.beatEpochNs = 0) :
    getN (numberBoundary s ptpTimeNs) Key.beatNumber = (beatNow s + 1) % 2 ^ 64 := by
  rw [(numberBoundary_kept s ptpTimeNs).objs _ (by decide), getN_setN_same, nextNumber_own ptpTimeNs ht hl he]

theorem numberBoundary_lease (s : State) (ptpTimeNs : Nat) : Kept [Key.hostLeaseBeats] s (numberBoundary s ptpTimeNs) :=
  (Kept.obj (refreshSource_kept .refl (by decide)) _ _ (by decide)).trans ((numberBoundary_kept s ptpTimeNs).mono (by decide))

theorem openBoundary_kept (env : BoundaryEnv) (s : State) : Kept timeKeys (numberBoundary s env.ptpTimeNs) (openBoundary env s).1 := by
  unfold openBoundary
  extract_lets old t₁ t₂ t₃ step due cs t₄
  have h₁ : Kept boundaryKeys (numberBoundary s env.ptpTimeNs) t₁ := settleFields_kept (linkBoundary_kept (syncDerived_kept .refl))
  have h₃ : Kept boundaryKeys (finishLoad t₁) t₃ :=
    .ite (logbookFails_kept (boundaryProgress_kept .refl _)) (boundaryProgress_kept .refl _)
  have h₄ : Kept boundaryKeys (finishLoad t₁) t₄ := windowBoundary_kept (.ite (milestone_kept h₃) (lateMilestone_kept h₃)) _
  exact (finishLoad_kept h₁).trans (settleHandover_kept (endDraining_kept h₄)).toTime

/-! ### The lease, the transactions and the cores' snapshot (R107, R407, R437, R439) -/

theorem decideAll_kept (h : Kept boundaryKeys s t) (hd : t.par.due = []) : Kept boundaryKeys s (decideAll t) := by
  rw [decideAll, hd]
  exact .par h _ hd.symm

theorem lapseLease_kept (h : Kept boundaryKeys s t) : Kept boundaryKeys s (lapseLease t) := by
  refine .ite h (.flag (.beat h _ ?_ ?_) _ _)
  · rfl
  · exact fun _ => rfl

theorem lapseLease_lapsed (h : getN t Key.hostLeaseBeats ≠ 0) (hl : getN t Key.hostLeaseBeats ≤ t.beat.leaseBeat) :
    (lapseLease t).beat.lapsed = true := by
  unfold lapseLease
  dsimp only
  split
  · next hc =>
    rcases hc with hc | hc | hc
    · exact absurd hc h
    · exact hc
    · omega
  · rfl

theorem expireTxn_kept (h : Kept boundaryKeys s t) (x : Txn) : Kept boundaryKeys s (expireTxn t x) :=
  .dom (.obj (.obj (.flag (.count (.par (.par h _) _) _ (by decide)) _ _) _ _ (by decide)) _ _ (by decide)) _ _

theorem ageTxns_kept (h : Kept boundaryKeys s t) : Kept boundaryKeys s (ageTxns t) := .foldl (.par h _) _ fun _ _ _ hu => expireTxn_kept hu _

theorem countStates_kept (h : Kept boundaryKeys s t) (snap : Store) : Kept boundaryKeys s (countStates t snap) :=
  .foldl h _ fun _ _ hn hu => .obj hu _ _ (not_mem_of_offset _ (List.mem_range.mp hn) (by decide))

theorem snapshotCores_kept (h : Kept boundaryKeys s t) : Kept boundaryKeys s (snapshotCores t) := by
  unfold snapshotCores
  extract_lets snap u v
  have hu : Kept boundaryKeys s u := countStates_kept (.obj h _ _ (by decide)) _
  clear_value u
  exact .ite hu (.seen hu _ _ _)

theorem raiseHoldover_kept (h : Kept boundaryKeys s t) : Kept boundaryKeys s (raiseHoldover t) := .ite (.flag h _ _) h

/-! ### The flags gathered (R157, R214) -/

theorem countBits_kept {ks : List Nat} (h : Kept ks s t) (base ev n : Nat) (hk : ∀ i < n, base + i ∉ ks) : Kept ks s (countBits t base ev n) := by
  induction n with
  | zero => exact h
  | succ n ih =>
    have hn := ih fun i hi => hk i (by omega)
    exact .ite (.add hn _ _ _ (hk n (by omega))) hn

theorem gatherWord_kept {ks : List Nat} (h : Kept ks s t) (key ev : Nat) (hk : ∀ i < 5, key + i ∉ ks) : Kept ks s (gatherWord t key ev) :=
  .obj (countBits_kept h _ _ _ fun i hi => by rw [Nat.add_assoc]; exact hk _ (by omega)) _ _ (hk 0 (by omega))

theorem gatherFlag_kept {ks : List Nat} (h : Kept ks s t) (key n : Nat) (hk : ∀ i ≤ n, key + i ∉ ks) : Kept ks s (gatherFlag t key n) :=
  .obj (countBits_kept h _ _ _ fun i hi => by rw [Nat.add_assoc]; exact hk _ (by omega)) _ _ (hk 0 (by omega))

theorem bit_gatherWord (t : State) (key ev b : Nat) (h : bit ev b = true) : bit (getN (gatherWord t key ev) key) b = true := by
  rw [gatherWord, getN_setN_same, bit_or, h, Bool.or_true]

theorem bit_gatherFlag (t : State) (key n b : Nat) (h : bit (stGet t.raised key) b = true) : bit (getN (gatherFlag t key n) key) b = true := by
  rw [gatherFlag, getN_setN_same, bit_or, h, Bool.or_true]

theorem mem_of_amGet_ne {α : Type} {d : α} {m : List (Nat × α)} {k : Nat} (h : amGet d m k ≠ d) : (k, amGet d m k) ∈ m := by
  induction m with
  | nil => exact absurd rfl h
  | cons e m ih =>
    obtain ⟨k', v⟩ := e
    by_cases hk : k = k'
    · simp [amGet, hk]
    · simp only [amGet, if_neg hk] at h ⊢
      exact List.mem_cons_of_mem _ (ih h)

theorem bit_foldl_or {α : Type} (xs : List α) (g : α → Nat) (b : Nat) :
    ∀ a : Nat, bit a b = true ∨ (∃ x ∈ xs, bit (g x) b = true) → bit (xs.foldl (fun a x => a ||| g x) a) b = true := by
  induction xs with
  | nil => exact fun a h => h.resolve_right (by simp)
  | cons x xs ih =>
    refine fun a h => ih _ ?_
    rw [bit_or, Bool.or_eq_true]
    rcases h with h | ⟨y, hy, hb⟩
    · exact .inl (.inl h)
    · rcases List.mem_cons.mp hy with rfl | hy
      · exact .inl (.inr hb)
      · exact .inr ⟨y, hy, hb⟩

/-- Every bit raised in a core enters the word of the chip. -/
theorem bit_orCores (t : State) (f : Core → BitVec 4) (hd : f Core.default = 0) (id : CoreId) {b : Nat}
    (h : (f (getCore t id)).getLsbD b = true) : bit (orCores t (fun c => (f c).toNat)) b = true := by
  have hne : getCore t id ≠ Core.default := fun e => by simp [e, hd] at h
  exact bit_foldl_or _ _ _ _ (.inr ⟨_, mem_of_amGet_ne hne, by rw [bit_eq_testBit]; exact h⟩)

/-- A word that the boundary gathers is none of the counters of another. -/
theorem gatheredWords_apart {w v : Nat × Nat} (hw : w ∈ gatheredWords) (hv : v ∈ gatheredWords) : v.1 ≤ w.1 ∨ w.1 + w.2 < v.1 := by
  have sub : ∀ w ∈ gatheredWords, w.1 % 256 < 2 ∧ w.2 < 8 := by decide
  have even : ∀ w ∈ gatheredWords, w.1 % 256 = 0 → (w.1 < 0x400000 ∨ 0x403000 ≤ w.1) ∧ w.1 ≠ 0x480000 := by decide
  have odd : ∀ w ∈ gatheredWords, w.1 % 256 = 1 → 0x400000 ≤ w.1 ∧ w.1 < 0x403000 ∨ w.1 = 0x480001 := by decide
  have := sub w hw
  have := sub v hv
  have := even w hw
  have := odd v hv
  omega

theorem gatherFlag_framed {ws : List (Nat × Nat)} (hw : ws ⊆ gatheredWords) :
    Kept (timeKeys ++ [Key.arrayNumFlags, Key.vectorNumFlags]) t (ws.foldl (fun s w => gatherFlag s w.1 w.2) t) :=
  .foldl .refl _ fun _ w hm hu => gatherFlag_kept hu _ _ fun i hi hk => by
    have := (by decide : ∀ v ∈ gatheredWords, ∀ k ∈ timeKeys ++ [Key.arrayNumFlags, Key.vectorNumFlags], k < v.1 ∨ v.1 + v.2 < k) w (hw hm) _ hk
    omega

/-- A flag raised in the beat enters its word, and the words gathered after it leave it. -/
theorem bit_foldl_gatherFlag (w : Nat × Nat) (hw : w ∈ gatheredWords) (b : Nat) {ws : List (Nat × Nat)} (hs : ws ⊆ gatheredWords) :
    ∀ t : State, bit (stGet t.raised w.1) b = true → bit (getN t w.1) b = true ∨ w ∈ ws →
      bit (getN (ws.foldl (fun s w => gatherFlag s w.1 w.2) t) w.1) b = true := by
  induction ws with
  | nil => exact fun t _ h => h.resolve_right (by simp)
  | cons v ws ih =>
    obtain ⟨hv, hs⟩ := List.cons_subset.mp hs
    refine fun t hr h => ih hs _ ?_ ?_
    · exact (gatherFlag_kept (ks := []) .refl _ _ (by simp)).raised _ _ hr
    · by_cases hk : w.1 = v.1
      · exact .inl (hk ▸ bit_gatherFlag t v.1 v.2 b (hk ▸ hr))
      · have hx : Kept [w.1] t (gatherFlag t v.1 v.2) := gatherFlag_kept .refl _ _ fun i hi hm => by
          have := gatheredWords_apart hv hw
          have := List.mem_singleton.mp hm
          omega
        rw [hx.objs _ (by simp)]
        exact h.imp_right fun hm => (List.mem_cons.mp hm).resolve_left fun e => hk (e ▸ rfl)

/-! ### The numeric flags of the units (R157, R158) -/

/-- The four words of the numeric flags, with what the units raised in the beat. -/
def numericGathered (t : State) : State :=
  gatherWord (gatherWord (gatherWord (gatherWord t Key.arrayNumFlags (orCores t (fun c => c.beatA.toNat)))
    Key.vectorNumFlags (orCores t (fun c => c.beatV.toNat))) Key.compactionNumFlags (orCores t (fun c => c.beatC.toNat)))
    Key.updateNumFlags (t.update.beatEv.foldl (fun a e => a ||| e.2) 0)

/-- The units give up the flags of the beat between the four words and the rest of the gathering. -/
theorem gatherNumeric_kept (t : State) (beat : Nat) : ∃ f, Kept boundaryKeys (mapCores (numericGathered t) f) (gatherNumeric t beat) := by
  unfold gatherNumeric
  extract_lets evA evV evC evU first flagged clrA clrV clrC clrU u₁ u₂ u₃ u₄ u₅ upd _ _ _ u₈
  refine ⟨_, (?_ : Kept boundaryKeys u₅ _)⟩
  clear_value u₅
  have h₈ : Kept boundaryKeys u₅ u₈ := .obj (.obj (.update .refl _) _ _ (by decide)) _ _ (by decide)
  clear_value u₈ first
  cases first with
  | none => exact h₈
  | some first => exact .ite (.obj (.obj (.obj (.obj h₈ _ _ (by decide)) _ _ (by decide)) _ _ (by decide)) _ _ (by decide)) h₈

theorem numericGathered_kept (t : State) : Kept timeKeys t (numericGathered t) :=
  gatherWord_kept (gatherWord_kept (gatherWord_kept (gatherWord_kept .refl _ _ (by decide)) _ _ (by decide)) _ _ (by decide)) _ _ (by decide)

theorem gatherNumeric_framed (t : State) (beat : Nat) : Framed timeKeys t (gatherNumeric t beat) := by
  obtain ⟨f, h⟩ := gatherNumeric_kept t beat
  have words : Framed timeKeys t (mapCores (numericGathered t) f) := { (numericGathered_kept t).toFramed with objs := (numericGathered_kept t).objs }
  exact words.trans h.toTime.toFramed

theorem gatherNumeric_raised (t : State) (beat : Nat) {k b : Nat} (hr : bit (stGet t.raised k) b = true) :
    bit (stGet (gatherNumeric t beat).raised k) b = true := by
  obtain ⟨f, h⟩ := gatherNumeric_kept t beat
  exact h.raised _ _ ((numericGathered_kept t).raised _ _ hr)

theorem getN_gatherNumeric (t : State) (beat : Nat) {k : Nat} (hk : k ∈ boundaryKeys) :
    getN (gatherNumeric t beat) k = getN (numericGathered t) k := by
  obtain ⟨f, h⟩ := gatherNumeric_kept t beat
  exact h.objs k hk

theorem bit_gatherNumeric_array (t : State) (beat : Nat) (id : CoreId) {b : Nat} (h : (getCore t id).beatA.getLsbD b = true) :
    bit (getN (gatherNumeric t beat) Key.arrayNumFlags) b = true := by
  have later : Kept [Key.arrayNumFlags] (gatherWord t Key.arrayNumFlags (orCores t (fun c => c.beatA.toNat))) (numericGathered t) :=
    gatherWord_kept (gatherWord_kept (gatherWord_kept .refl _ _ (by decide)) _ _ (by decide)) _ _ (by decide)
  rw [getN_gatherNumeric t beat (by decide), later.objs _ (by simp)]
  exact bit_gatherWord _ _ _ _ (bit_orCores t (fun c => c.beatA) rfl id h)

theorem bit_gatherNumeric_vector (t : State) (beat : Nat) (id : CoreId) {b : Nat} (h : (getCore t id).beatV.getLsbD b = true) :
    bit (getN (gatherNumeric t beat) Key.vectorNumFlags) b = true := by
  have later : Kept [Key.vectorNumFlags] (gatherWord (gatherWord t Key.arrayNumFlags (orCores t (fun c => c.beatA.toNat)))
      Key.vectorNumFlags (orCores t (fun c => c.beatV.toNat))) (numericGathered t) :=
    gatherWord_kept (gatherWord_kept .refl _ _ (by decide)) _ _ (by decide)
  rw [getN_gatherNumeric t beat (by decide), later.objs _ (by simp)]
  exact bit_gatherWord _ _ _ _ (bit_orCores t (fun c => c.beatV) rfl id h)

/-! ### The order of the gathering (R399, R402, R404) -/

theorem overrunCause_kept (h : Kept boundaryKeys s t) (b : Nat) : Kept boundaryKeys s (overrunCause t b) := .stp h _

theorem requestStretch_kept (h : Kept boundaryKeys s t) : Kept boundaryKeys s (requestStretch t) :=
  .ite (.ite (.beat h _) h) (.ite (.out h _) h)

theorem noteOverrun_kept (h : Kept boundaryKeys s t) (old : Nat) : Kept boundaryKeys s (noteOverrun t old) := by
  have counted := Kept.foldl (.obj (.count (.flag h Key.beatFlags 0) Key.beatsOverrun (by decide)) Key.lastOverrunBeat old (by decide)) (List.range 4)
    (f := fun u i => if bit (beatCauses t) i then count64 u (Key.overrunsByCause i) else u)
    fun _ _ hi hu => .ite (.count hu _ (not_mem_of_offset _ (List.mem_range.mp hi) (by decide))) hu
  exact .ite h (.ite (requestStretch_kept counted) counted)

theorem noteLate_kept (h : Kept boundaryKeys s t) (step : Nat) (ids : List Nat) : Kept boundaryKeys s (noteLate step t ids) := by
  have counted : Kept boundaryKeys s (addN (overrunCause t 0) Key.waypointsLate 64 ids.length) := .add (overrunCause_kept h _) _ _ _ (by decide)
  exact .ite h (.ite (.stp counted _) counted)

theorem noteWaits_kept (h : Kept boundaryKeys s t) : Kept boundaryKeys s (noteWaits t) := by
  unfold noteWaits
  split
  · exact h
  · exact .ite (overrunCause_kept h _) h

theorem noteMilestoneLate_kept (h : Kept boundaryKeys s t) : Kept boundaryKeys s (noteMilestoneLate t) := .ite (overrunCause_kept h _) h

theorem checkSchedule_kept (h : Kept boundaryKeys s t) (old step : Nat) (late : List Nat) : Kept boundaryKeys s (checkSchedule old step late t).1 :=
  noteOverrun_kept (noteMilestoneLate_kept (noteWaits_kept (noteLate_kept h _ _))) _

theorem emptyCapture_invalid_kept (h : Kept boundaryKeys s t) : Kept boundaryKeys s (emptyCapture t Key.invalidCaptureEmpty) := by
  rw [emptyCapture_eq]
  refine .obj (.foldl h _ fun _ i hi hu => .ite (.dom hu _ _) (.obj hu _ _ ?_)) _ _ (by decide)
  have hi : i < 3 := ((mem_upFrom _ _ _).mp hi).2
  exact not_mem_of_offset 0x630500 hi (by decide)

/-- The lease counts the boundary. -/
def leaseCounted (t : State) : State := { t with beat := { t.beat with leaseBeat := t.beat.leaseBeat + 1 } }

/-- The state that the flags are gathered from. -/
def flagged (t : State) : State := raiseHoldover (snapshotCores (ageTxns (lapseLease (decideAll (leaseCounted t)))))

theorem flagBoundary_kept (t : State) (old step : Nat) (late : List Nat) :
    Kept boundaryKeys (gatherFlags (gatherNumeric (flagged t) old)) (flagBoundary old step late t).1 :=
  checkSchedule_kept (.ite (emptyCapture_invalid_kept .refl) .refl) _ _ _

theorem flagged_kept (hd : t.par.due = []) : Kept boundaryKeys (leaseCounted t) (flagged t) :=
  raiseHoldover_kept (snapshotCores_kept (ageTxns_kept (lapseLease_kept (decideAll_kept .refl hd))))

theorem flagged_lapsed (hd : t.par.due = []) (hn : getN t Key.hostLeaseBeats ≠ 0) (hl : getN t Key.hostLeaseBeats ≤ t.beat.leaseBeat + 1) :
    (flagged t).beat.lapsed = true := by
  have decided : Kept boundaryKeys (leaseCounted t) (decideAll (leaseCounted t)) := decideAll_kept .refl hd
  have later : Kept boundaryKeys (lapseLease (decideAll (leaseCounted t))) (flagged t) := raiseHoldover_kept (snapshotCores_kept (ageTxns_kept .refl))
  refine later.lapsed (lapseLease_lapsed ?_ ?_)
  · rw [decided.objs _ (by decide)]
    exact hn
  · rw [decided.objs _ (by decide), decided.lease]
    exact hl

theorem gatherFlags_framed (t : State) : Framed (timeKeys ++ [Key.arrayNumFlags, Key.vectorNumFlags]) t (gatherFlags t) :=
  { (gatherFlag_framed (t := t) (List.filter_subset_self _)).toFramed with objs := (gatherFlag_framed (List.filter_subset_self _)).objs }

theorem bit_gatherFlags {t : State} {w : Nat × Nat} (hw : w ∈ gatheredWords) {b : Nat} (hr : bit (stGet t.raised w.1) b = true) :
    bit (getN (gatherFlags t) w.1) b = true := by
  refine bit_foldl_gatherFlag w hw b (List.filter_subset_self _) t hr (.inr (List.mem_filter.mpr ⟨hw, ?_⟩))
  have : stGet t.raised w.1 ≠ 0 := fun e => by simp [e, bit] at hr
  simp [this]

/-- What a boundary from `s` has written at `t`, once the flags are gathered. -/
structure Gathered (s t : State) : Prop where
  pending : t.pending = s.pending
  number : getN t Key.beatNumber = (beatNow s + 1) % 2 ^ 64
  lease : t.beat.leaseBeat = s.beat.leaseBeat + 1
  lapsed : getN s Key.hostLeaseBeats ≠ 0 → getN s Key.hostLeaseBeats ≤ s.beat.leaseBeat + 1 → t.beat.lapsed = true
  reset : t.mgmt.resetDue = s.mgmt.resetDue
  words : ∀ w ∈ gatheredWords, ∀ b, bit (stGet s.raised w.1) b = true → bit (getN t w.1) b = true
  array : ∀ id b, (getCore s id).beatA.getLsbD b = true → bit (getN t Key.arrayNumFlags) b = true
  vector : ∀ id b, (getCore s id).beatV.getLsbD b = true → bit (getN t Key.vectorNumFlags) b = true

theorem Gathered.keep {s t u : State} (h : Gathered s t) (k : Framed flagKeys t u) : Gathered s u where
  pending := k.pending.trans h.pending
  number := (k.objs _ (by decide)).trans h.number
  lease := k.lease.trans h.lease
  lapsed hn hl := k.lapsed (h.lapsed hn hl)
  reset := k.reset.trans h.reset
  words w hw b hb := by
    rw [k.objs w.1 (by simp only [flagKeys, List.mem_append]; exact .inr (List.mem_map_of_mem hw))]
    exact h.words w hw b hb
  array id b hb := by rw [k.objs _ (by decide)]; exact h.array id b hb
  vector id b hb := by rw [k.objs _ (by decide)]; exact h.vector id b hb

theorem flagBoundary_gathered {s t : State} (h : Kept [Key.hostLeaseBeats] s t) (hn : getN t Key.beatNumber = (beatNow s + 1) % 2 ^ 64)
    (hd : s.par.due = []) (old step : Nat) (late : List Nat) : Gathered s (flagBoundary old step late t).1 := by
  have due : t.par.due = [] := h.due.trans hd
  have host : getN t Key.hostLeaseBeats = getN s Key.hostLeaseBeats := h.objs _ (by simp)
  have start := flagged_kept due
  have numeric := gatherNumeric_framed (flagged t) old
  have gather := gatherFlags_framed (gatherNumeric (flagged t) old)
  have done : Gathered s (gatherFlags (gatherNumeric (flagged t) old)) :=
    { pending := ((gather.pending.trans numeric.pending).trans start.pending).trans h.pending
      number := by rw [gather.objs _ (by decide), numeric.objs _ (by decide), start.objs _ (by decide)]; exact hn
      lease := by
        rw [gather.lease, numeric.lease, start.lease, ← h.lease]
        rfl
      lapsed := fun h0 hl => gather.lapsed (numeric.lapsed (flagged_lapsed due (by rwa [host]) (by rwa [host, h.lease])))
      reset := ((gather.reset.trans numeric.reset).trans start.reset).trans h.reset
      words := fun w hw b hb => bit_gatherFlags hw (gatherNumeric_raised _ _ (start.raised _ _ (h.raised _ _ hb)))
      array := fun id b hb => by
        rw [gather.objs _ (by decide)]
        exact bit_gatherNumeric_array _ _ id (by rw [start.array]; exact (h.array id).symm ▸ hb)
      vector := fun id b hb => by
        rw [gather.objs _ (by decide)]
        exact bit_gatherNumeric_vector _ _ id (by rw [start.vector]; exact (h.vector id).symm ▸ hb) }
  exact done.keep (flagBoundary_kept t old step late).toFlags.toFramed

/-! ### Frames sent, released and landed (R332, R335, R506) -/

theorem setPort_kept (h : Kept boundaryKeys s t) (p : Nat) (r : PortRec) : Kept boundaryKeys s (setPort t p r) := .aelif h _

theorem freeFlits_kept (h : Kept boundaryKeys s t) (q : QFrame) : Kept boundaryKeys s (freeFlits t q) := by
  unfold freeFlits
  split
  · exact h
  · exact setPort_kept h _ _

theorem sendFrame_kept (h : Kept boundaryKeys s t) (p : Nat) (f : AFrame) : Kept boundaryKeys s (sendFrame t p f) := .out (setPort_kept h _ _) _

theorem sendNext_kept (h : Kept boundaryKeys s t) (p : Nat) : Kept boundaryKeys s (sendNext t p) := by
  unfold sendNext
  refine .ite h ?_
  split
  · exact h
  · exact sendFrame_kept (freeFlits_kept (.add (setPort_kept h _ _) _ _ _ (not_mem_of_sub _ _ (by decide))) _) _ _

theorem sendAll_kept (p n : Nat) : ∀ t, Kept boundaryKeys s t → Kept boundaryKeys s (sendAll t p n) := by
  induction n with
  | zero => exact fun _ h => h
  | succ n ih => exact fun _ h => ih _ (sendNext_kept h p)

theorem pumpDir_kept (h : Kept boundaryKeys s t) (d : Nat) : Kept boundaryKeys s (pumpDir t d) := .foldl h _ fun _ _ _ hu => sendAll_kept _ _ _ hu

theorem ethEnqueue_kept (h : Kept boundaryKeys s t) (dest : Nat) (encap : Bool) (bs : List Byte) : Kept boundaryKeys s (ethEnqueue t dest encap bs) :=
  .eth h _

theorem leaveBy_kept (h : Kept boundaryKeys s t) (d : Nat) (fs : List QFrame) : Kept boundaryKeys s (leaveBy t d fs) := by
  unfold leaveBy
  refine .ite (.foldl h _ fun _ _ _ hu => freeFlits_kept (ethEnqueue_kept hu _ _ _) _) ?_
  split
  · exact pumpDir_kept (.foldl h _ fun _ _ _ hu => enqueue_kept hu _ _) d
  · exact holdFrames_kept h d _

theorem missBroadcast_kept (h : Kept boundaryKeys s t) (hdr : W64) (flit : Flit) (fs : List Nat) :
    Kept boundaryKeys s (missBroadcast t hdr flit fs) := by
  unfold missBroadcast
  dsimp only
  split
  · exact h
  · exact .ite h (.ite (.mesh h _) (.mesh h _))

theorem logBroadcast_kept (h : Kept boundaryKeys s t) (p : Packet) : Kept boundaryKeys s (logBroadcast t p) := by
  unfold logBroadcast
  split
  · exact h
  · exact missBroadcast_kept (.mesh h _) _ _ _

theorem injectAt_kept (h : Kept boundaryKeys s t) (at_ : CoreId) (port : Nat) (p : Packet) : Kept boundaryKeys s (injectAt t at_ port p) :=
  .ite h (.mesh (.ite (logBroadcast_kept h p) h) _)

theorem crescentInject_kept (h : Kept boundaryKeys s t) (crescent : Nat) (src : Option Nat) (p : Packet) :
    Kept boundaryKeys s (crescentInject t crescent src p) := .ite h (injectAt_kept h _ _ _)

theorem landPacket_kept (h : Kept boundaryKeys s t) (fs : List QFrame) : Kept boundaryKeys s (landPacket t fs) := by
  unfold landPacket
  split
  · exact h
  · next q qs =>
    have freed := Kept.foldl h (q :: qs) fun _ f _ hu => freeFlits_kept (s := s) hu f
    exact .ite freed (crescentInject_kept freed _ _ _)

theorem routeFrames_kept (h : Kept boundaryKeys s t) (n : Nat) : ∀ fs, Kept boundaryKeys s (routeFrames t n fs) := by
  induction n with
  | zero => exact fun _ => holdFrames_kept h _ _
  | succ n ih =>
    intro fs
    unfold routeFrames
    split
    · exact h
    · split
      · exact landPacket_kept h _
      · exact .ite (.ite (holdFrames_kept h _ _) (ih _)) (leaveBy_kept h _ _)

theorem releaseHeld_kept (h : Kept boundaryKeys s t) : Kept boundaryKeys s (releaseHeld t) :=
  .foldl (.aelif h _) _ fun _ _ _ hu => .foldl hu _ fun _ _ _ hv => routeFrames_kept hv _ _

theorem refreshDiscovery_kept (h : Kept boundaryKeys s t) : Kept boundaryKeys s (refreshDiscovery t) :=
  .obj (.obj (.obj (.obj (.obj h _ _ (by decide)) _ _ (by decide)) _ _ (by decide)) _ _ (by decide)) _ _ (by decide)

theorem aelifBoundary_kept (h : Kept boundaryKeys s t) : Kept boundaryKeys s (aelifBoundary t) :=
  .foldl (.foldl (releaseHeld_kept (refreshDiscovery_kept h)) _ fun _ d _ hu => pumpDir_kept hu d) _
    fun _ _ _ hu => .ite (sendFrame_kept hu _ _) hu

theorem sendTicks_kept (h : Kept boundaryKeys s t) (beat runLen runPlace : Nat) : Kept boundaryKeys s (sendTicks t beat runLen runPlace) :=
  .foldl h _ fun _ _ _ hu => .out hu _

/-! ### Programs suspended, resumed and replayed (R43, R45, R81, R95) -/

theorem suspendAll_kept (h : Kept boundaryKeys s t) : Kept boundaryKeys s (suspendAll t) := .stp (.cores h fun _ c => suspendCore_sameBeat c) _

theorem contextErrs_kept (h : Kept boundaryKeys s t) (id : CoreId) (errs : List SramErr) : Kept boundaryKeys s (contextErrs t id errs) := by
  unfold contextErrs
  dsimp only
  split
  · obtain ⟨hk, ha, hv⟩ := syncErrs_kept (readErrs_kept (⟨.refl, .refl⟩ : MetKept t (getCore t id) (t, getCore t id)) contextBase 0x2270 errs) errs
    exact h.trans (.core hk _ ⟨ha.trans (hk.array id).symm, hv.trans (hk.vector id).symm⟩)
  · exact h

theorem resumeAll_kept (h : Kept boundaryKeys s t) : Kept boundaryKeys s (resumeAll t) :=
  .ite h (.stp (.cores (.foldl h _ fun _ _ _ hu => contextErrs_kept hu _ _) fun _ c => (resumeCore_sameBeat _ c).trans (startCore_sameBeat _)) _)

theorem abandon_kept (h : Kept boundaryKeys s t) (seqs : List Nat) : Kept boundaryKeys s (abandon t seqs) := .ite h h.same

theorem replayFlagged_kept (h : Kept boundaryKeys s t) (ab waiting : List Nat) : Kept boundaryKeys s (replayFlagged t ab waiting) := by
  unfold replayFlagged
  split
  · exact .flag (.gates h _) _ _
  · exact h

theorem replayNow_kept (h : Kept boundaryKeys s t) : Kept boundaryKeys s (replayNow t) := by
  by_cases hw : t.grid.deaths ≠ [] ∨ t.grid.underWay ≠ []
  · rw [replayNow_waits t hw]
    exact h
  · obtain ⟨hd, hu⟩ := not_or.mp hw
    rw [replayNow_goes t (not_not.mp hd) (not_not.mp hu)]
    exact (replayFlagged_kept (.stp (resumeAll_kept h) _) _ _).same

/-! ### Power (R460 to R463, R466, R470) -/

theorem parkField_kept (h : Kept boundaryKeys s t) {f : Nat} (cause : Nat) (hf : f < 90) : Kept boundaryKeys s (parkField t f cause) := by
  have noted : Kept boundaryKeys s (setField (setN t (Key.pwrParkCauses f) (getN t (Key.pwrParkCauses f) ||| 2 ^ cause)) f
      { getField (setN t (Key.pwrParkCauses f) (getN t (Key.pwrParkCauses f) ||| 2 ^ cause)) f with wakeWaiting := false, wakeDue := false }) :=
    .power (.obj h _ _ (not_mem_of_row _ hf (by decide))) _
  refine .ite h (.ite noted (setFieldPower_kept (mapField_kept noted _ fun c => ?_) _ hf))
  split <;> exact ⟨rfl, rfl⟩

theorem resendLog_kept (h : Kept boundaryKeys s t) (f : Nat) : Kept boundaryKeys s (resendLog t f) :=
  .mesh (.foldl h _ fun _ _ _ hu => .foldl hu _ fun _ _ _ hv => crescentInject_kept hv _ _ _) _

theorem startWake_kept (h : Kept boundaryKeys s t) {f : Nat} (hf : f < 90) : Kept boundaryKeys s (startWake t f) := by
  unfold startWake
  extract_lets u lost _ v _ w
  have hv : Kept boundaryKeys s v := .mesh (resendLog_kept h f) _
  have hw : Kept boundaryKeys s w := setFieldPower_kept (.power hv _) _ hf
  exact .ite (replayNow_kept (abandon_kept (.flag hw _ _) _)) hw

theorem beginShut_kept (h : Kept boundaryKeys s t) (f : Nat) : Kept boundaryKeys s (beginShut t f) :=
  .power (.flag (.ite (.streams (suspendAll_kept h) _) h) _ _) _

theorem fieldBoundary_kept (h : Kept boundaryKeys s t) {f : Nat} (hf : f < 90) : Kept boundaryKeys s (fieldBoundary t f) := by
  unfold fieldBoundary
  refine .ite (beginShut_kept h f) ?_
  extract_lets u v causes w
  have hu : Kept boundaryKeys s u := .power h _
  have hv : Kept boundaryKeys s v := .ite (parkField_kept hu 3 hf) hu
  have hw : Kept boundaryKeys s w := .obj hv _ _ (not_mem_of_row _ hf (by decide))
  exact .ite (.ite (.ite hw (.ite (.flag (.power hw _) _ _) (startWake_kept hw hf))) hw) hv

theorem applyClock_kept (h : Kept boundaryKeys s t) (east : Bool) (mhz : Nat) : Kept boundaryKeys s (applyClock t east mhz) := by
  cases east <;> exact .obj (.obj h _ _ (by decide)) _ _ (by decide)

theorem throttleHalf_kept (h : Kept boundaryKeys s t) (east : Bool) : Kept boundaryKeys s (throttleHalf t east) := by
  have hot : Kept boundaryKeys s (if (halfFields east).any (ranHot t) then raise t Key.thermalFlags 0 else t) := .ite (.flag h _ _) h
  exact .ite (.ite (applyClock_kept (.ite (.flag hot _ _) hot) _ _) h) (.ite (applyClock_kept h _ _) (applyClock_kept h _ _))

/-- What follows the coolant's temperatures leaves them. -/
theorem powerBoundary_kept (s : State) (coolantIn coolantOut : Int) :
    Kept boundaryKeys (setN (setN s Key.coolantInlet (unsigned 16 coolantIn)) Key.coolantOutlet (unsigned 16 coolantOut))
      (powerBoundary s coolantIn coolantOut) :=
  .power (throttleHalf_kept (throttleHalf_kept (.foldl (.ite (.flag .refl _ _) .refl) _ fun _ _ hf hu =>
    fieldBoundary_kept hu (List.mem_range.mp hf)) _) _) _

/-! ### Results, streams, pins and the frames of the Ethernet ports (R316, R356 to R358, R369, R413) -/

theorem setSlot_kept (h : Kept boundaryKeys s t) (k : Nat) (r : RSlot) : Kept boundaryKeys s (setSlot t k r) := by
  have put : Kept boundaryKeys s (if getSlot t k = r then t else
      touch { t with host := { t.host with slots := amIns r t.host.slots k } } Key.resultSlots) := .ite h h.same
  exact .obj (.obj put _ _ (by decide)) _ _ (by decide)

theorem writeCompletions_kept (h : Kept boundaryKeys s t) (step : Nat) (cs : List (Ticket × Work × Nat)) :
    Kept boundaryKeys s (writeCompletions t step cs) :=
  .foldl h _ fun _ _ _ hu => .host (.out (setSlot_kept hu _ _) _) _

theorem pulsePin_kept (h : Kept boundaryKeys s t) (n : Nat) : Kept boundaryKeys s (pulsePin t n) := by
  unfold pulsePin
  split
  · exact .ite (.beat h _) (.out (.beat h _) _)
  · exact h

theorem streamCycle_kept (h : Kept boundaryKeys s t) : Kept boundaryKeys s (streamCycle t) := by
  unfold streamCycle
  extract_lets u cyc n _ v w entries bytes x
  have hv : Kept boundaryKeys s v := .streams (.streams h _) _
  have hw : Kept boundaryKeys s w := .flag hv _ _
  have hx : Kept boundaryKeys s x := .ite (.obj (.obj (.dom hw _ _) _ _ (by decide)) _ _ (by decide)) hw
  exact .ite hv (.ite (.event hx _ _) hx)

theorem setHigh_kept (h : Kept boundaryKeys s t) (key high v : Nat) (hk : key ∉ boundaryKeys) (hh : high ∉ boundaryKeys) :
    Kept boundaryKeys s (setHigh t key high v) := .obj (.obj h _ _ hk) _ _ hh

theorem noteHeld_kept (h : Kept boundaryKeys s t) : Kept boundaryKeys s (noteHeld t) :=
  setHigh_kept (setHigh_kept (setHigh_kept (setHigh_kept h _ _ _ (by decide) (by decide)) _ _ _ (by decide) (by decide))
    _ _ _ (by decide) (by decide)) _ _ _ (by decide) (by decide)

theorem putRx_kept (h : Kept boundaryKeys s t) (f : RxFlow) : Kept boundaryKeys s (putRx t f) := .eth h _

theorem sendAck_kept (h : Kept boundaryKeys s t) (f : RxFlow) : Kept boundaryKeys s (sendAck t f) := by
  unfold sendAck
  split
  · exact putRx_kept h _
  · exact .out (.add (putRx_kept h _) _ _ _ (not_mem_of_sub _ _ (by decide))) _

theorem dropPartial_kept (h : Kept boundaryKeys s t) (p vc : Nat) : Kept boundaryKeys s (dropPartial t p vc) := setPort_kept h _ _

theorem crossFrame_kept (h : Kept boundaryKeys s t) (p : Nat) (f : AFrame) : Kept boundaryKeys s (crossFrame t p f) := by
  unfold crossFrame
  refine .ite (setPort_kept (dropPartial_kept h _ _) _ _) ?_
  split
  · exact routeFrames_kept (dropPartial_kept h _ _) _ _
  · exact routeFrames_kept (dropPartial_kept h _ _) _ _

theorem handEncap_kept (h : Kept boundaryKeys s t) (source : Nat) (m : RxMsg) : Kept boundaryKeys s (handEncap t source m) := by
  unfold handEncap
  split
  · exact h
  · exact .foldl h _ fun _ _ _ hu => crossFrame_kept hu _ _

theorem advanceCum_kept (n : Nat) : ∀ t f, Kept boundaryKeys s t → Kept boundaryKeys s (advanceCum t f n).1 := by
  induction n with
  | zero => exact fun _ _ h => h
  | succ n ih =>
    intro t f h
    unfold advanceCum
    split
    · exact h
    · exact ih _ _ (.ite (handEncap_kept h _ _) h)

theorem deliverMessage_kept (h : Kept boundaryKeys s t) (f : RxFlow) (m : RxMsg) : Kept boundaryKeys s (deliverMessage t f m) := by
  unfold deliverMessage
  dsimp only
  split
  · exact putRx_kept (.count h _ (by decide)) _
  · split
    · exact putRx_kept (receiveMsg_kept h _) _
    · exact putRx_kept h _
    · exact sendAck_kept (advanceCum_kept _ _ _ (receiveMsg_kept h _)) _

theorem retryFlows_kept (h : Kept boundaryKeys s t) : Kept boundaryKeys s (retryFlows t) := by
  refine .foldl h _ fun u e _ hu => ?_
  split
  · exact hu
  · split
    · exact hu
    · exact deliverMessage_kept hu _ _

theorem retryWork_kept (h : Kept boundaryKeys s t) : Kept boundaryKeys s (retryWork t) :=
  .foldl (retryFlows_kept (retryKept_kept h)) _ fun _ g _ hu => tryUpdate_kept hu g

/-! ### The end of the boundary (R422, R485, R497, R502, R527) -/

theorem reportTickets_kept (h : Kept boundaryKeys s t) : Kept boundaryKeys s (reportTickets t) :=
  .host (.obj (.foldl h _ fun _ _ _ hu => .host (setSlot_kept hu _ _) _) _ _ (by decide)) _

theorem parkExcluded_kept (h : Kept boundaryKeys s t) : Kept boundaryKeys s (parkExcluded t) :=
  .foldl h _ fun _ _ hf hu => parkField_kept hu _ (List.mem_range.mp (List.mem_of_mem_filter hf))

theorem recovered_kept (h : Kept boundaryKeys s t) : Kept boundaryKeys s (recovered t) := .obj h.same _ _ (by decide)

theorem enterRun_kept (h : Kept boundaryKeys s t) : Kept boundaryKeys s (enterRun t) := by
  have entered : Kept boundaryKeys s (if t.mgmt.runEntered then t else parkExcluded (reportTickets t)) :=
    .ite h (parkExcluded_kept (reportTickets_kept h))
  have run := Kept.obj (entered.mgmt { (if t.mgmt.runEntered then t else parkExcluded (reportTickets t)).mgmt with runEntered := true })
    Key.bringupPhase 7 (by decide)
  exact recovered_kept (.event (.record (resumeAll_kept run.same) _ _) _ _)

theorem dropHeld_kept (h : Kept boundaryKeys s t) : Kept boundaryKeys s (dropHeld t) := by
  refine .mesh (.cores h fun _ _ => ?_) _
  exact ⟨rfl, rfl⟩

theorem leaveRun_kept (h : Kept boundaryKeys s t) : Kept boundaryKeys s (leaveRun t) :=
  .obj (.mgmt (dropHeld_kept (reportTickets_kept (suspendAll_kept h))) _) _ _ (by decide)

theorem noteNeighbours_kept (h : Kept boundaryKeys s t) : Kept boundaryKeys s (noteNeighbours t) := by
  have noted : Kept boundaryKeys s (if inRun t || neighboursSettled t then t else raise t Key.discoveryFlags 2) := .ite h (.flag h _ _)
  exact .ite h (.ite (.flag noted _ _) noted)

theorem runBoundary_kept (h : Kept boundaryKeys s t) (leave : Bool) : Kept boundaryKeys s (runBoundary t leave) := by
  have left : Kept boundaryKeys s (if leave && inRun t && t.mgmt.handover == 2 then leaveRun t else t) := .ite (leaveRun_kept h) h
  exact noteNeighbours_kept (.obj (.ite (enterRun_kept left) left) _ _ (by decide))

theorem rewriteLive_kept (h : Kept boundaryKeys s t) : Kept boundaryKeys s (rewriteLive t) := .foldl h _ fun _ _ _ hu => .record hu _ _

theorem refreshPar_kept (h : Kept boundaryKeys s t) : Kept boundaryKeys s (refreshPar t) :=
  .dom (.obj (.obj h _ _ (by decide)) _ _ (by decide)) _ _

theorem closeSession_kept (h : Kept boundaryKeys s t) (num : Nat) : Kept boundaryKeys s (closeSession t num) :=
  refreshPar_kept (.par (.foldl h _ fun _ _ _ hu => .count (.par hu _) _ (by decide)) _)

theorem setSec_kept (h : Kept boundaryKeys s t) (f : Security → Security) : Kept boundaryKeys s (setSec t f) :=
  .obj (.obj (.obj (.sec h _) _ _ (by decide)) _ _ (by decide)) _ _ (by decide)

theorem settleSecrets_kept (h : Kept boundaryKeys s t) : Kept boundaryKeys s (settleSecrets t) :=
  .foldl (.par h _) _ fun _ _ _ hu => .foldl (.flag (setSec_kept hu _) _ _) _ fun _ _ _ hv => closeSession_kept hv _

theorem sendReply_kept (h : Kept boundaryKeys s t) (p : Path) (u : UdpEnds) (bytes : List Byte) : Kept boundaryKeys s (sendReply t p u bytes) := by
  unfold sendReply
  split
  · exact .out (.host h _) _
  · exact .out h _

theorem answerFrame_kept (h : Kept boundaryKeys s t) (num seq : Nat) : Kept boundaryKeys s (answerFrame t num seq) := by
  unfold answerFrame
  split
  · exact h
  · split
    · exact h
    · exact .foldl (sendReply_kept (.par h _) _ _ _) _ fun _ _ _ hu => sendReply_kept (.count hu _ (by decide)) _ _ _

theorem answerAll_kept (h : Kept boundaryKeys s t) : Kept boundaryKeys s (answerAll t) := .foldl h _ fun _ _ _ hu => answerFrame_kept hu _ _

theorem settleReset_of_none (h : t.mgmt.resetDue = 0) : settleReset t = t := by simp only [settleReset, h]

theorem closeBoundary_kept (h : Kept boundaryKeys s t) (hr : t.mgmt.resetDue = 0) (env : BoundaryEnv) (seq causes : Nat) (late : List Nat) :
    Kept boundaryKeys s (closeBoundary env seq causes late t) := by
  unfold closeBoundary
  extract_lets t₁ t₂ t₃ t₄ t₅ t₆ since _ t₇
  have h₂ : Kept boundaryKeys t t₂ := .log (rewriteLive_kept (.add (runBoundary_kept .refl _) _ _ _ (by decide))) _
  have h₃ : Kept boundaryKeys t t₃ := .ite (logbookFails_kept h₂) h₂
  have h₅ : Kept boundaryKeys t t₅ := .dom (refreshHeld_kept (.obj h₃ _ _ (by decide))) _ _
  have h₇ : Kept boundaryKeys t t₇ := .sec (.par (.obj h₅ _ _ (by decide)) _) _
  have done : Kept boundaryKeys t (settleSecrets (answerAll (syncDerived t₇))) := settleSecrets_kept (answerAll_kept (syncDerived_kept h₇))
  rw [settleReset_of_none (done.reset.trans hr)]
  exact h.trans done

/-! ### The boundary (R402) -/

/-- The state that a boundary's work begins from: the errors of the stacks are met. -/
def metStart (env : BoundaryEnv) (s : State) : State :=
  meetErrorsOf { s with stp := { s.stp with met := env.sramErrs } } ((List.range 16).filter (bit (stackPresent s.variant))) env.stackErrs

theorem metStart_kept (env : BoundaryEnv) (s : State) : Kept (Key.beatEpochNs :: boundaryKeys) s (metStart env s) :=
  meetErrorsOf_kept (by decide) (by decide) (.stp .refl _) _ fun _ h => List.mem_range.mp (List.mem_of_mem_filter h)

theorem metStart_beat (env : BoundaryEnv) (s : State) : (metStart env s).beat = s.beat := meetErrorsOf_beat _ _ _

/-- What the work of a boundary leaves, it leaves with the errors given to it. -/
theorem metBy_metStacks_kept {ks : List Nat} (env : BoundaryEnv) (f : State → State) (s : State) :
    Kept ks (f (metStart env s)) (metBy env.sramErrs (metStacks env.stackErrs f) s) := .stp .refl _

/-- The boundary's work on its plan: the commit of the schedule, the cores, and the power of the fields, which writes the coolant. -/
theorem workBoundary_powered (env : BoundaryEnv) (old step causes : Nat) (cs : List (Ticket × Work × Nat)) (s : State) :
    Kept flagKeys s (workBoundary env old step causes cs s) ∧
      getN (workBoundary env old step causes cs s) Key.coolantInlet = unsigned 16 env.coolantIn ∧
      getN (workBoundary env old step causes cs s) Key.coolantOutlet = unsigned 16 env.coolantOut := by
  unfold workBoundary
  extract_lets count _ t₁ t₂ t₃ t₄ t₅ t₆
  have h₃ : Kept boundaryKeys s t₃ := .cores (writeCompletions_kept (.stp .refl _) _ _) fun _ c => coreBoundary_sameBeat _ c
  have coolant : Kept flagKeys t₃ _ := .obj (.obj .refl Key.coolantInlet (unsigned 16 env.coolantIn) (by decide))
    Key.coolantOutlet (unsigned 16 env.coolantOut) (by decide)
  have h₅ := aelifBoundary_kept (powerBoundary_kept t₃ env.coolantIn env.coolantOut)
  have rest := retryWork_kept (noteHeld_kept (streamCycle_kept (pulsePin_kept (pulsePin_kept
    (Kept.ite (c := isTickRoot t₅) (sendTicks_kept h₅ (beatNow t₅) t₅.beat.stretchLen t₅.beat.stretchPlace) h₅) 0) 1)))
  refine ⟨(h₃.toFlags.trans coolant).trans rest.toFlags, ?_, ?_⟩
  · exact (rest.objs _ (by decide)).trans ((getN_setN_other _ _ _ _ (by decide)).trans (getN_setN_same _ _ _))
  · exact (rest.objs _ (by decide)).trans (getN_setN_same _ _ _)

theorem boundaryWork_gathered {t : State} (env : BoundaryEnv) (ht : t.beat.tick = none) (hl : t.beat.stretchLen = 0)
    (he : getN t Key.beatEpochNs = 0) (hd : t.par.due = []) (hr : t.mgmt.resetDue = 0) :
    Gathered t (boundaryWork env t) ∧ getN (boundaryWork env t) Key.coolantInlet = unsigned 16 env.coolantIn ∧
      getN (boundaryWork env t) Key.coolantOutlet = unsigned 16 env.coolantOut := by
  unfold boundaryWork
  extract_lets old late a b
  have opened := openBoundary_kept env t
  have number : getN a.1 Key.beatNumber = (beatNow t + 1) % 2 ^ 64 := (opened.objs _ (by decide)).trans (numberBoundary_number env.ptpTimeNs ht hl he)
  have gathered : Gathered t b.1 := flagBoundary_gathered ((numberBoundary_lease t env.ptpTimeNs).trans (opened.mono (by decide))) number hd _ _ _
  obtain ⟨worked, inlet, outlet⟩ := workBoundary_powered env old a.2.1 b.2 a.2.2 b.1
  have closed := closeBoundary_kept .refl (worked.reset.trans (gathered.reset.trans hr)) env (getN t Key.journalRecordSeq) b.2 late
  exact ⟨(gathered.keep worked.toFramed).keep closed.toFlags.toFramed, (closed.objs _ (by decide)).trans inlet,
    (closed.objs _ (by decide)).trans outlet⟩

/-- The gathering of a state whose stacks' errors were met is that of the state before. -/
theorem Gathered.of_kept {s t u : State} (k : Kept boundaryKeys s t) (h : Gathered t u) : Gathered s u where
  pending := h.pending.trans k.pending
  number := by rw [h.number, beatNow, beatNow, k.objs _ (by decide)]
  lease := by rw [h.lease, k.lease]
  lapsed hn hl := by
    rw [← k.objs _ (by decide)] at hn hl
    exact h.lapsed hn (by rwa [k.lease])
  reset := h.reset.trans k.reset
  words w hw b hb := h.words w hw b (k.raised _ _ hb)
  array id b hb := h.array id b (by rwa [k.array])
  vector id b hb := h.vector id b (by rwa [k.vector])

end Boundary

theorem exec_beatBoundary_stopped {s : State} (env : BoundaryEnv) (h : s.beat.running = false) : exec (.beatBoundary env) s = .next s := by
  show execBeatBoundary env s = _
  rw [execBeatBoundary, h]
  rfl

theorem exec_beatBoundary_running {s : State} (env : BoundaryEnv) (h : s.beat.running = true) :
    exec (.beatBoundary env) s = .next (metBy env.sramErrs (metStacks env.stackErrs (boundaryWork env)) s) := by
  show execBeatBoundary env s = _
  rw [execBeatBoundary, h]
  rfl

/-- The boundary of a running beat, the errors of the stacks and of the cores' SRAM among it. -/
theorem metBoundary_gathered {s : State} (env : BoundaryEnv) (ht : s.beat.tick = none) (hl : s.beat.stretchLen = 0)
    (he : getN s Key.beatEpochNs = 0) (hd : s.par.due = []) (hr : s.mgmt.resetDue = 0) :
    let t := metBy env.sramErrs (metStacks env.stackErrs (boundaryWork env)) s
    Gathered s t ∧ getN t Key.coolantInlet = unsigned 16 env.coolantIn ∧ getN t Key.coolantOutlet = unsigned 16 env.coolantOut := by
  intro t
  have met := metStart_kept env s
  obtain ⟨done, inlet, outlet⟩ := boundaryWork_gathered (t := metStart env s) env (by rw [metStart_beat, ht]) (by rw [metStart_beat, hl])
    ((met.objs _ (by simp)).trans he) (met.due.trans hd) (met.reset.trans hr)
  have left : Kept boundaryKeys (boundaryWork env (metStart env s)) t := metBy_metStacks_kept env _ s
  exact ⟨(done.of_kept (met.mono (List.subset_cons_self _ _))).keep left.toFlags.toFramed,
    (left.objs _ (by decide)).trans inlet, (left.objs _ (by decide)).trans outlet⟩

/-- Settles O45: what the flags' gathering writes stays to the end of the boundary, part by part. -/
theorem beatBoundaryNumbersAndGathers : Obligations.BeatBoundaryNumbersAndGathers := by
  unfold Obligations.BeatBoundaryNumbersAndGathers
  refine ⟨fun s env h => exec_beatBoundary_stopped env h, fun s env h ht hl he hd hr => ⟨_, exec_beatBoundary_running env h, ?_⟩⟩
  obtain ⟨gathered, inlet, outlet⟩ := metBoundary_gathered env ht hl he hd hr
  exact ⟨gathered.number, gathered.lease, gathered.pending, gathered.lapsed, fun w hw b _ => gathered.words w hw b, fun id b _ => gathered.array id b,
    fun id b _ => gathered.vector id b, inlet, outlet⟩

end Sys2Proof.Machine

/-! SUPPORT. What an instruction leaves at issue (07_tile_programs.md R165 to R169, R174, R177): the engine by what the instruction's body answers,
and what a body gives where no exception is raised. -/

namespace Sys2Proof.Machine

/-! ### The answers of a body -/

/-- A RUNNING core waits for nothing. -/
theorem issueCore_wait {s : State} {i : Issue} (h : Issues s i) : (issueCore s i).wait = none := if_pos h.running

section Answers
variable {s : State} {i : Issue} {word : Nat} {mine : Wait → Bool} {body : Core → State → TOut}
  (h : Issues s i) (hw : spells (fetchWord (issueCore s i)) word = true)
include h hw

/-- An instruction that stays at issue changes nothing. -/
theorem tileIssue_hold (hb : body (issueCore s i) s = .hold) : tileIssue i word mine body s = s := by
  rw [tileIssue_of h.inGrid (takesIssue_running h.running) h.clean h.fetch hw, hb]

theorem tileIssue_wait {s2 : State} {c2 : Core} {w : Wait} (hb : body (issueCore s i) s = .wait s2 c2 w) :
    tileIssue i word mine body s = setCore s2 i.core { c2 with st := .waiting, wait := some w } := by
  rw [tileIssue_of h.inGrid (takesIssue_running h.running) h.clean h.fetch hw, hb]

theorem tileIssue_halt {s2 : State} {c2 : Core} (hb : body (issueCore s i) s = .halt s2 c2) :
    tileIssue i word mine body s = setCore s2 i.core { c2 with st := .halted, wait := none, pc := (issueCore s i).pc + 1 } := by
  rw [tileIssue_of h.inGrid (takesIssue_running h.running) h.clean h.fetch hw, hb]

end Answers

/-- An instruction completes at the next program counter where its effect leaves the program counter alone. -/
theorem TOut.next_eq {s : State} {c d : Core} (h : d.pc = c.pc) : TOut.next s d = .done s d (c.pc + 1) := by rw [TOut.next, h]

/-- The first condition, where it holds, gives the exception (R169). -/
theorem unlessExc_first {b : Bool} (hb : b = true) (code : Nat) (conds : List (Bool × Nat)) (k : TOut) :
    unlessExc ((b, code) :: conds) k = .exc code := by
  rw [hb]
  rfl

/-- An instruction at the program counter, none of whose conditions for an exception holds, completes with its effect. -/
theorem tileIssue_unlessExc {s s2 : State} {i : Issue} {o : Instr} {word : Nat} {mine : Wait → Bool} {body : Core → State → TOut}
    {conds : List (Bool × Nat)} {d : Core} (h : Issues s i) (hs : Stands s i o) (hw : instrWord o = some word)
    (hb : body (issueCore s i) s = unlessExc conds (.next s2 d)) (hc : ∀ e ∈ conds, e.1 = false) (hd : d.pc = (issueCore s i).pc) :
    (Host.Outcome.next (tileIssue i word mine body s) : Host.Outcome State Fault Refusal) =
      .next (completed s2 i d ((issueCore s i).pc + 1)) :=
  tileIssue_next h (hs.spells hw) (by rw [hb, unlessExc_of (firstExc_none hc), TOut.next_eq hd])

/-- An instruction at the program counter that writes a value to XD and completes. -/
theorem tileIssue_xset {s : State} {i : Issue} {o : Instr} {word : Nat} {mine : Wait → Bool} {body : Core → State → TOut} {d : Core}
    {xd : BitVec 5} {v : W32} (h : Issues s i) (hs : Stands s i o) (hw : instrWord o = some word)
    (hb : body (issueCore s i) s = .next s (xset d xd v)) (hd : d.pc = (issueCore s i).pc) :
    (Host.Outcome.next (tileIssue i word mine body s) : Host.Outcome State Fault Refusal) =
      .next (completed s i (xset d xd v) ((issueCore s i).pc + 1)) :=
  tileIssue_next h (hs.spells hw) (hb.trans (TOut.next_eq ((xset_pc ..).trans hd)))

/-! ### What a body gives (R94, R168, R177) -/

/-- What a body leaves of the engine and of its core meets `P`; that it stays at issue, `held`. An exception meets anything. -/
def TOut.Gives (P : State → Core → Prop) (held : Prop) : TOut → Prop
  | .exc _ => True
  | .hold => held
  | .wait s c _ => P s c
  | .done s c _ => P s c
  | .late _ _ _ _ => True
  | .halt s c => P s c

theorem TOut.Gives.unlessExc {P : State → Core → Prop} {held : Prop} {k : TOut} (h : k.Gives P held) (conds : List (Bool × Nat)) :
    (unlessExc conds k).Gives P held := by
  unfold Machine.unlessExc
  split
  · trivial
  · exact h

theorem TOut.Gives.ite {P : State → Core → Prop} {held p : Prop} [Decidable p] {x y : TOut} (hx : x.Gives P held) (hy : y.Gives P held) :
    (if p then x else y).Gives P held := by
  split
  · exact hx
  · exact hy

theorem TOut.Gives.mono {P Q : State → Core → Prop} {held : Prop} {out : TOut} (h : out.Gives P held) (hpq : ∀ s c, P s c → Q s c) :
    out.Gives Q held := by
  cases out with
  | exc | late => trivial
  | hold => exact h
  | wait | done | halt => exact hpq _ _ h

theorem faulted_takeException (s : State) (id : CoreId) (c : Core) (code pc chunkPc : Nat) (report : List Nat) :
    (getCore (takeException s id c code pc chunkPc report) id).st = .faulted := by
  rw [getCore_takeException]
  exact (faultCore_fields c code pc).1

/-- An instruction that leaves its core not FAULTED stays at issue, or leaves what its body gives, in some state of the core. -/
theorem tileIssue_gives {s : State} {i : Issue} {word : Nat} {mine : Wait → Bool} {body : Core → State → TOut} {P : State → Core → Prop}
    {held : Prop} (h : Issues s i) (hw : spells (fetchWord (issueCore s i)) word = true) (hb : (body (issueCore s i) s).Gives P held)
    (hf : (getCore (tileIssue i word mine body s) i.core).st ≠ .faulted) :
    (held ∧ tileIssue i word mine body s = s) ∨
      ∃ s2 d st w pc, P s2 d ∧ tileIssue i word mine body s = setCore s2 i.core { d with st := st, wait := w, pc := pc } := by
  rw [tileIssue_of h.inGrid (takesIssue_running h.running) h.clean h.fetch hw] at hf ⊢
  cases ho : body (issueCore s i) s <;> rw [ho] at hb hf
  case exc => exact absurd (faulted_takeException ..) hf
  case late => exact absurd (faulted_takeException ..) hf
  case hold => exact .inl ⟨hb, rfl⟩
  case wait s2 c2 w => exact .inr ⟨s2, c2, .waiting, some w, c2.pc, hb, rfl⟩
  case done s2 c2 pc => exact .inr ⟨s2, c2, .running, none, pc, hb, rfl⟩
  case halt s2 c2 => exact .inr ⟨s2, c2, .halted, none, _, hb, rfl⟩

/-! ### Illegal operands (R162, R168) -/

/-- An instruction that raises ILLEGAL_OPERAND leaves its core FAULTED with that cause. -/
theorem illegalOperand_taken {s : State} {i : Issue} {o : Instr} {word : Nat} {mine : Wait → Bool} {body : Core → State → TOut} (h : Issues s i)
    (hs : Stands s i o) (hw : instrWord o = some word) (he : exec o s = .next (tileIssue i word mine body s))
    (hb : body (issueCore s i) s = .exc excIllegalOperand) :
    ∃ t, exec o s = .next t ∧ (getCore t i.core).st = .faulted ∧ (getCore t i.core).excCause = excIllegalOperand := by
  obtain ⟨hst, hcause, -, -, -, -⟩ := faultCore_fields (issueCore s i) excIllegalOperand (issueCore s i).pc
  refine ⟨_, he, ?_⟩
  rw [tileIssue_exc h (hs.spells hw) hb, getCore_takeException]
  exact ⟨hst, hcause⟩

end Sys2Proof.Machine

/-! SUPPORT and PROOFS. The X registers and their pairs (07_tile_programs.md R162, R168), and O5. -/

namespace Sys2Proof.Machine

/-- A pair's value is that of its odd register above that of its even one (R162). -/
theorem toNat_xpair (c : Core) (n : BitVec 5) : (xpair c n).toNat = (xget c (n + 1)).toNat * 2 ^ 32 + (xget c n).toNat := by
  have hhigh : ((xget c (n + 1)).setWidth 64 <<< 32).toNat = (xget c (n + 1)).toNat <<< 32 := by
    have := (xget c (n + 1)).isLt
    rw [BitVec.toNat_shiftLeft, BitVec.toNat_setWidth, Nat.shiftLeft_eq, Nat.shiftLeft_eq]
    omega
  have hlow : ((xget c n).setWidth 64).toNat = (xget c n).toNat := BitVec.toNat_setWidth_of_le (by decide)
  rw [xpair, BitVec.toNat_or, hhigh, hlow, ← Nat.shiftLeft_add_eq_or_of_lt (xget c n).isLt, Nat.shiftLeft_eq]

/-- Settles O5: registers as a vector that is read and set, and the pair fields by the first condition of each instruction. -/
theorem registerFileReadsBack : Obligations.RegisterFileReadsBack := by
  unfold Obligations.RegisterFileReadsBack
  refine ⟨fun c n v => ⟨xget_zero c, xset_zero c v, xget_xset_same c n v, fun m hm => xget_xset_other c n m v hm, fun _ => toNat_xpair c n⟩,
    fun s i n h hodd => ?_⟩
  exact ⟨fun an post flits vc trailer xq hs => illegalOperand_taken h hs rfl rfl (unlessExc_first (by simp [hodd]) ..),
    fun ad post key src xs form count hs => illegalOperand_taken h hs rfl rfl (unlessExc_first (by simp [hodd]) ..),
    fun ad post key src xi form count hs => illegalOperand_taken h hs rfl rfl (unlessExc_first (by simp [hodd]) ..),
    fun f hf hs => illegalOperand_taken h hs rfl rfl (unlessExc_first (by simp [hf, hodd]) ..),
    fun f hf hs => illegalOperand_taken h hs rfl rfl (unlessExc_first (by simp [hf, hodd]) ..)⟩

end Sys2Proof.Machine

/-! SUPPORT and PROOFS. The control and scalar instructions (07_tile_programs.md R170, R178, R183, R189, R195): what each leaves where it issues, O6,
O7 and O8. -/

namespace Sys2Proof.Machine

section Control
variable {s : State} {i : Issue} (h : Issues s i)
include h

/-- A BR goes to TARGET where its condition holds, and else to the next instruction. -/
theorem exec_br {cond : BitVec 3} {xa xb : BitVec 5} {target : BitVec 13} {p : Prop} [Decidable p]
    (hp : brHolds cond (xget (issueCore s i) xa) (xget (issueCore s i) xb) = some (decide p)) (hs : Stands s i (.br i cond xa xb target)) :
    exec (.br i cond xa xb target) s =
      .next (completed s i (issueCore s i) (if p then target.toNat else (issueCore s i).pc + 1)) := by
  refine tileIssue_next h (hs.spells rfl) ?_
  rw [hp]
  by_cases hq : p <;> simp [hq, TOut.next]

/-- AGSET of a value that its field takes. -/
theorem exec_agset {an fld : BitVec 3} {src : Bool} {xs : BitVec 5} {imm : BitVec 20} {g : Ag}
    (hg : agSetField (agGet (issueCore s i) an) fld (if src then xget (issueCore s i) xs else imm.setWidth 32) = some g)
    (hs : Stands s i (.agset i an fld src xs imm)) :
    exec (.agset i an fld src xs imm) s = .next (completed s i (agPut (issueCore s i) an g) ((issueCore s i).pc + 1)) := by
  refine tileIssue_next h (hs.spells rfl) ?_
  rw [hg]
  rfl

theorem exec_xop_special {xd xa xb : BitVec 5} {immb : Bool} {imm v : W32}
    (hv : xopSpecial s i.core (if immb then imm else xget (issueCore s i) xb) = some v) (hs : Stands s i (.xop i xd xa xb 11 immb imm)) :
    exec (.xop i xd xa xb 11 immb imm) s = .next (completed s i (xset (issueCore s i) xd v) ((issueCore s i).pc + 1)) := by
  refine tileIssue_xset h hs rfl ?_ rfl
  dsimp only
  rw [if_pos (by decide), hv]

/-- XOP of an arithmetic function. -/
theorem exec_xop {xd xa xb : BitVec 5} {func : BitVec 4} {immb : Bool} {imm v : W32} (hf : func.toNat < 11)
    (hv : xopFunc func (xget (issueCore s i) xa) (if immb then imm else xget (issueCore s i) xb) = some v)
    (hs : Stands s i (.xop i xd xa xb func immb imm)) :
    exec (.xop i xd xa xb func immb imm) s = .next (completed s i (xset (issueCore s i) xd v) ((issueCore s i).pc + 1)) := by
  refine tileIssue_xset h hs rfl ?_ rfl
  dsimp only
  rw [if_neg hf.ne, if_neg (by omega), hv]

/-- AGREAD of one of the eight generators draws a free value (assumption log 15). -/
theorem exec_xop_agread {xd xa xb : BitVec 5} {immb : Bool} {imm : W32}
    (hb : (if immb then imm else xget (issueCore s i) xb).toNat < 8) (hs : Stands s i (.xop i xd xa xb 12 immb imm)) :
    exec (.xop i xd xa xb 12 immb imm) s = .next (completed (drawFree s).2 i
      (xset (issueCore s i) xd (BitVec.ofNat 32 (drawFree s).1)) ((issueCore s i).pc + 1)) := by
  refine tileIssue_next h (hs.spells rfl) ?_
  dsimp only
  rw [if_neg (by decide), if_pos (by decide), if_neg (Nat.not_le.mpr hb)]
  exact TOut.next_eq (xset_pc ..)

end Control

/-! ### The functions of XOP as numbers and integers (R170) -/

theorem sub_eq_ofInt (a b : W32) : a - b = BitVec.ofInt 32 ((a.toNat : Int) - b.toNat) := by
  refine BitVec.eq_of_toInt_eq ?_
  rw [BitVec.toInt_sub, BitVec.toInt_ofInt, BitVec.toInt_eq_toNat_bmod, BitVec.toInt_eq_toNat_bmod, Int.sub_bmod_bmod, Int.bmod_sub_bmod]

theorem shiftLeft_eq_ofNat (a : W32) (k : Nat) : a <<< k = BitVec.ofNat 32 (a.toNat * 2 ^ k) := by
  rw [← Nat.shiftLeft_eq]
  rfl

theorem shiftRight_eq_ofNat (a : W32) (k : Nat) : a >>> k = BitVec.ofNat 32 (a.toNat / 2 ^ k) := by
  rw [← Nat.shiftRight_eq_div_pow, ← BitVec.toNat_ushiftRight, BitVec.ofNat_toNat, BitVec.setWidth_eq]

theorem sshiftRight_eq_ofInt (a : W32) (k : Nat) : a.sshiftRight k = BitVec.ofInt 32 (a.toInt / 2 ^ k) := by
  rw [BitVec.sshiftRight, Int.shiftRight_eq_div_pow]
  norm_cast

theorem signedMin_eq_ofInt (a b : W32) : (if a.slt b then a else b) = BitVec.ofInt 32 (min a.toInt b.toInt) := by
  simp only [min_def_lt, BitVec.slt_iff_toInt_lt]
  split <;> rw [BitVec.ofInt_toInt]

theorem signedMax_eq_ofInt (a b : W32) : (if a.slt b then b else a) = BitVec.ofInt 32 (max a.toInt b.toInt) := by
  simp only [max_def_lt, BitVec.slt_iff_toInt_lt]
  split <;> rw [BitVec.ofInt_toInt]

/-- Settles O6: each instruction by its body's answer, BR by the value of its condition. -/
theorem controlInstructionsComplete : Obligations.ControlInstructionsComplete := by
  unfold Obligations.ControlInstructionsComplete
  intro s i h
  refine ⟨fun hs => tileIssue_next h (hs.spells rfl) rfl, fun h0 hs => ?_, fun h0 hs => ?_,
    fun ln target hl hs => tileIssue_next h (hs.spells rfl) (if_pos hl),
    fun ln target hl hs => tileIssue_next h (hs.spells rfl) (if_neg (Nat.not_lt.mpr hl)),
    fun ln src xs imm hs => tileIssue_next h (hs.spells rfl) rfl, fun xa xb target => ?_⟩
  · exact congrArg Host.Outcome.next (tileIssue_halt h (hs.spells rfl) (if_pos h0))
  · exact congrArg Host.Outcome.next (tileIssue_hold h (hs.spells rfl) (if_neg h0.ne'))
  · refine ⟨exec_br h rfl, exec_br h rfl, exec_br h ?_, exec_br h rfl, exec_br h ?_, exec_br h rfl, exec_br h ?_⟩
    · simp [brHolds, bne, beq_eq_decide]
    · simp [brHolds, BitVec.slt, ← decide_not]
    · simp [brHolds, BitVec.ult, ← decide_not]

/-- Settles O7: AGSET by the field that it sets, FLG by the unit that it names, the others by their body's answer. -/
theorem scalarInstructionsComplete : Obligations.ScalarInstructionsComplete := by
  unfold Obligations.ScalarInstructionsComplete
  intro s i h
  refine ⟨fun xd imm hs => tileIssue_xset h hs rfl rfl rfl, fun an src xs imm => ?_, fun group => ?_,
    fun xd clear => ?_, fun w => ⟨fun hs => tileIssue_next h (hs.spells rfl) rfl, fun hr hs => ?_⟩⟩
  · exact ⟨fun hv => exec_agset h (if_neg (Nat.not_lt.mpr hv)), fun h0 hv => exec_agset h (if_neg (by omega)), exec_agset h rfl,
      exec_agset h rfl, exec_agset h rfl⟩
  · exact ⟨fun hs => tileIssue_next h (hs.spells rfl) rfl, fun hs => tileIssue_next h (hs.spells rfl) rfl,
      fun hs => tileIssue_next h (hs.spells rfl) rfl, fun hs => tileIssue_next h (hs.spells rfl) rfl⟩
  · exact ⟨fun hs => tileIssue_xset h hs rfl rfl rfl,
      fun hs => tileIssue_xset h hs rfl rfl rfl,
      fun hv hs => tileIssue_xset h hs rfl (by dsimp only; rw [hv]; rfl) rfl,
      fun hv hs => tileIssue_xset h hs rfl (by dsimp only; rw [hv]; rfl) rfl,
      fun hv hs => tileIssue_xset h hs rfl (by dsimp only; rw [hv]; rfl) rfl⟩
  · refine tileIssue_next h (hs.spells rfl) ?_
    dsimp only
    rw [if_pos rfl, if_neg (Nat.not_le.mpr hr)]
    rfl

/-- Settles O8: the arithmetic functions on numbers and integers, the SPECIAL values by their number, and AGREAD by its draw. -/
theorem xopComputes : Obligations.XopComputes := by
  unfold Obligations.XopComputes
  intro s i xd xa xb immb imm h c a b gives
  have arith (func : BitVec 4) {v w : W32} (hf : func.toNat < 11) (hv : xopFunc func a b = some v) (hw : v = w) : gives func w :=
    fun hs => exec_xop h hf (hv.trans (congrArg some hw)) hs
  have special (n : W32) {v : W32} (hv : xopSpecial s i.core n = some v) (hn : b = n) : gives 11 v :=
    fun hs => exec_xop_special h ((congrArg (xopSpecial s i.core) hn).trans hv) hs
  refine ⟨arith 0 (by decide) rfl (by simp [BitVec.ofNat_add]), arith 1 (by decide) rfl (sub_eq_ofInt a b), arith 2 (by decide) rfl rfl,
    arith 3 (by decide) rfl rfl, arith 4 (by decide) rfl rfl, arith 5 (by decide) rfl (shiftLeft_eq_ofNat a _),
    arith 6 (by decide) rfl (shiftRight_eq_ofNat a _), arith 7 (by decide) rfl (sshiftRight_eq_ofInt a _),
    arith 8 (by decide) rfl (by simp [BitVec.ofNat_mul]), arith 9 (by decide) rfl (signedMin_eq_ofInt a b),
    arith 10 (by decide) rfl (signedMax_eq_ofInt a b), special 0 rfl, special 1 rfl, special 2 rfl, special 3 rfl, special 4 rfl,
    special 5 rfl, special 6 rfl, special 7 rfl, fun hb hs =>
      ⟨BitVec.ofNat 32 (drawFree s).1, _, exec_xop_agread h hb hs, getCore_setCore_same ..⟩⟩

end Sys2Proof.Machine

/-! SUPPORT and PROOFS. What the control, scalar, flag and wait instructions leave alone (07_tile_programs.md R161, R178, R183, R189, R194, R195), and
O16. -/

namespace Sys2Proof.Machine

/-! ### The core of a register instruction -/

/-- A core after changes of registers alone, of the X registers at most `xd`. -/
structure RegisterChange (xd : BitVec 5) (c d : Core) : Prop where
  data : SameData c d
  regs : ∀ n, n ≠ xd → xget d n = xget c n

/-- The program counter, the loop counters, the generators, the flag words, the waypoint and the membership bits are registers beside X. -/
theorem scalars_registerChange (xd : BitVec 5) (c : Core) (st : CoreState) (wait : Option Wait) (pc : Nat) (loops : Vector W32 4)
    (ag : Vector Ag 8) (sa sv sc : BitVec 4) (wp : BitVec 12) (reports : List WpReport) (rows cols : BitVec 64) :
    RegisterChange xd c { c with
      st := st, wait := wait, pc := pc, loops := loops, ag := ag, stickyA := sa, stickyV := sv, stickyC := sc, waypoint := wp
      reports := reports, rowGroups := rows, colGroups := cols } :=
  ⟨⟨rfl, rfl, rfl, rfl, rfl, rfl, rfl, rfl, rfl, rfl⟩, fun _ _ => rfl⟩

theorem RegisterChange.refl (xd : BitVec 5) (c : Core) : RegisterChange xd c c := scalars_registerChange ..

theorem xset_registerChange (xd : BitVec 5) (c : Core) (v : W32) : RegisterChange xd c (xset c xd v) where
  data := by
    unfold xset
    split <;> exact ⟨rfl, rfl, rfl, rfl, rfl, rfl, rfl, rfl, rfl, rfl⟩
  regs n hn := xget_xset_other c xd n v hn

theorem RegisterChange.trans {xd : BitVec 5} {c d e : Core} (h : RegisterChange xd c d) (h' : RegisterChange xd d e) : RegisterChange xd c e where
  data :=
    { sram := h'.data.sram.trans h.data.sram
      poisonLines := h'.data.poisonLines.trans h.data.poisonLines
      acc := h'.data.acc.trans h.data.acc
      stg := h'.data.stg.trans h.data.stg
      ringWr := h'.data.ringWr.trans h.data.ringWr
      ringRd := h'.data.ringRd.trans h.data.ringRd
      ix := h'.data.ix.trans h.data.ix
      ex32 := h'.data.ex32.trans h.data.ex32
      cfg := h'.data.cfg.trans h.data.cfg
      lanes := h'.data.lanes.trans h.data.lanes }
  regs n hn := (h'.regs n hn).trans (h.regs n hn)

/-! ### The engine beside the core -/

/-- An engine after draws of free values (assumption log 9). -/
def FreeDrawn (s t : State) : Prop := ∃ f, t = { s with free := f }

/-- An engine after draws of free values and counts of late waits. -/
structure LateCounted (s t : State) : Prop where
  rest : ∃ o n m f, t = { s with objs := o, change := n, changes := m, free := f }
  objs : ∀ k, k ≠ Key.waitbLate → getN t k = getN s k

theorem FreeDrawn.refl (s : State) : FreeDrawn s s := ⟨_, rfl⟩

theorem FreeDrawn.lateCounted {s t : State} (h : FreeDrawn s t) : LateCounted s t := by
  obtain ⟨f, rfl⟩ := h
  exact ⟨⟨_, _, _, f, rfl⟩, fun _ _ => rfl⟩

theorem count64_lateCounted (s : State) : LateCounted s (count64 s Key.waitbLate) := by
  obtain ⟨o, n, m, h⟩ := setN_eq s Key.waitbLate (satAdd 64 (getN s Key.waitbLate) 1)
  exact ⟨⟨o, n, m, s.free, h⟩, fun k hk => getN_count64_other s _ k hk⟩

/-- A late wait is counted where the target beat has passed. -/
theorem lateCounted_ite (s : State) (p : Prop) [Decidable p] : LateCounted s (if p then count64 s Key.waitbLate else s) := by
  split
  · exact count64_lateCounted s
  · exact (FreeDrawn.refl s).lateCounted

/-! ### The frame -/

/-- What a register instruction leaves alone: the data of its core, every X register but `xd`, every other core, and of the engine all but
the count of late waits and the free values. -/
structure RegisterFrame (s : State) (i : Issue) (xd : BitVec 5) (t : State) : Prop where
  core : RegisterChange xd (issueCore s i) (getCore t i.core)
  others : ∀ k, coreKey k ≠ coreKey i.core → getCore t k = getCore s k
  objs : ∀ k, k ≠ Key.waitbLate → getN t k = getN s k
  rest : t = { s with cores := t.cores, objs := t.objs, change := t.change, changes := t.changes, free := t.free }

section Frame
variable {s t : State} {i : Issue} {o : Instr} {word : Nat} {mine : Wait → Bool} {body : Core → State → TOut} {xd : BitVec 5}
  (h : Issues s i) (hs : Stands s i o) (hw : instrWord o = some word) (he : exec o s = .next (tileIssue i word mine body s))
  (ht : exec o s = .next t) (hf : (getCore t i.core).st ≠ .faulted)
include h hs hw he ht hf

/-- An instruction that does not stay at issue, and raises no exception, leaves what its body gives. -/
theorem left_of_gives {P : State → Core → Prop} (hb : (body (issueCore s i) s).Gives P False) :
    ∃ s2 d st w pc, P s2 d ∧ t = setCore s2 i.core { d with st := st, wait := w, pc := pc } := by
  obtain rfl : tileIssue i word mine body s = t := Host.Outcome.next.inj (he.symm.trans ht)
  exact (tileIssue_gives h (hs.spells hw) hb hf).resolve_left fun hh => hh.1

theorem registerFrame_of (hb : (body (issueCore s i) s).Gives (fun s2 d => LateCounted s s2 ∧ RegisterChange xd (issueCore s i) d) False) :
    RegisterFrame s i xd t := by
  obtain ⟨s2, d, st, w, pc, ⟨⟨⟨o, n, m, f, rfl⟩, hobjs⟩, hcore⟩, rfl⟩ := left_of_gives h hs hw he ht hf hb
  exact
    { core := by
        rw [getCore_setCore_same]
        exact hcore.trans (scalars_registerChange ..)
      others := fun k hk => getCore_setCore_other _ _ _ _ hk
      objs := fun k hk => hobjs k hk
      rest := rfl }

/-- No object changes where only free values are drawn. -/
theorem registerFrame_still (hb : (body (issueCore s i) s).Gives (fun s2 d => FreeDrawn s s2 ∧ RegisterChange xd (issueCore s i) d) False) :
    t.objs = s.objs ∧ t.changes = s.changes := by
  obtain ⟨s2, d, st, w, pc, ⟨⟨f, rfl⟩, -⟩, rfl⟩ := left_of_gives h hs hw he ht hf hb
  exact ⟨rfl, rfl⟩

end Frame

/-! ### What each instruction gives -/

/-- What a body gives where it draws free values at most. -/
def DrawsOnly (s : State) (c : Core) (xd : BitVec 5) (out : TOut) : Prop :=
  out.Gives (fun s2 d => FreeDrawn s s2 ∧ RegisterChange xd c d) False

/-- What a body gives where it may count a late wait. -/
def CountsLate (s : State) (c : Core) (xd : BitVec 5) (out : TOut) : Prop :=
  out.Gives (fun s2 d => LateCounted s s2 ∧ RegisterChange xd c d) False

theorem DrawsOnly.countsLate {s : State} {c : Core} {xd : BitVec 5} {out : TOut} (h : DrawsOnly s c xd out) : CountsLate s c xd out :=
  h.mono fun _ _ ⟨hs, hc⟩ => ⟨hs.lateCounted, hc⟩

/-- Where only registers change. -/
theorem drawsOnly_next {s : State} {c d : Core} {xd : BitVec 5} (h : RegisterChange xd c d) : DrawsOnly s c xd (.next s d) := ⟨.refl s, h⟩

/-- An XLI, XOP or FLG that gives a value. -/
theorem drawsOnly_xset {s : State} {c d : Core} {xd : BitVec 5} (h : RegisterChange xd c d) (v : W32) : DrawsOnly s c xd (.next s (xset d xd v)) :=
  drawsOnly_next (h.trans (xset_registerChange xd d v))

/-- Settles O16: what each body gives is its core with registers changed, on the same engine but for a late wait counted or a value drawn. -/
theorem registerInstructionsKeepData : Obligations.RegisterInstructionsKeepData := by
  unfold Obligations.RegisterInstructionsKeepData
  intro s t i h c d keeps still
  have frame {o : Instr} {word : Nat} {mine : Wait → Bool} {body : Core → State → TOut} {xd : BitVec 5} (hw : instrWord o = some word)
      (he : exec o s = .next (tileIssue i word mine body s)) (hb : CountsLate s c xd (body c s)) : keeps o xd := fun hs ht hf =>
    have hframe := registerFrame_of h hs hw he ht hf hb
    ⟨hframe.core.data, hframe.core.regs, hframe.others, hframe.objs, hframe.rest⟩
  have both {o : Instr} {word : Nat} {mine : Wait → Bool} {body : Core → State → TOut} {xd : BitVec 5} (hw : instrWord o = some word)
      (he : exec o s = .next (tileIssue i word mine body s)) (hb : DrawsOnly s c xd (body c s)) : keeps o xd ∧ still o :=
    ⟨frame hw he hb.countsLate, fun hs ht hf => registerFrame_still h hs hw he ht hf hb⟩
  refine ⟨frame rfl rfl (drawsOnly_next (.refl 0 c)).countsLate, fun h0 => frame rfl rfl ?_, fun ln target => frame rfl rfl ?_,
    fun ln src xs imm => frame rfl rfl (drawsOnly_next (scalars_registerChange ..)).countsLate, fun cond xa xb target => frame rfl rfl ?_,
    fun rel xs count => frame rfl rfl ?_, fun report w hr => both rfl rfl ?_,
    fun xd imm => both rfl rfl (drawsOnly_xset (.refl xd c) imm), fun xd xa xb func immb imm => both rfl rfl ?_,
    fun an fld src xs imm => both rfl rfl ?_, fun column group join => both rfl rfl ?_,
    fun unit xd clear => both rfl rfl (drawsOnly_xset (scalars_registerChange ..) _)⟩
  · show CountsLate s c 0 (if sendsHeld s i.core = 0 then .halt s c else .hold)
    rw [if_pos h0]
    exact ⟨(FreeDrawn.refl s).lateCounted, .refl 0 c⟩
  · exact DrawsOnly.countsLate (TOut.Gives.ite ⟨.refl s, scalars_registerChange ..⟩ (drawsOnly_next (scalars_registerChange ..)))
  · split
    · trivial
    · exact ⟨(FreeDrawn.refl s).lateCounted, .refl 0 c⟩
    · exact (drawsOnly_next (.refl 0 c)).countsLate
  · have hwait : c.wait = none := issueCore_wait h
    dsimp only
    rw [hwait]
    exact TOut.Gives.ite trivial (TOut.Gives.ite ⟨lateCounted_ite s _, .refl 0 c⟩ ⟨(FreeDrawn.refl s).lateCounted, .refl 0 c⟩)
  · cases report
    · exact drawsOnly_next (scalars_registerChange ..)
    · show DrawsOnly s c 0 (if 4 ≤ c.reports.length then .hold else _)
      rw [if_neg (Nat.not_le.mpr (hr rfl))]
      exact drawsOnly_next (scalars_registerChange ..)
  · dsimp only
    split
    · split
      · exact drawsOnly_xset (.refl xd c) _
      · trivial
    · split
      · exact TOut.Gives.ite trivial ⟨⟨_, rfl⟩, xset_registerChange ..⟩
      · split
        · exact drawsOnly_xset (.refl xd c) _
        · trivial
  · split
    · exact drawsOnly_next (scalars_registerChange ..)
    · trivial
  · cases column
    · exact drawsOnly_next (scalars_registerChange ..)
    · exact drawsOnly_next (scalars_registerChange ..)

end Sys2Proof.Machine

/-! SUPPORT and PROOFS. The bytes that storing instructions write (07_tile_programs.md R171, R179, R185, R186, R192, R206; 04_core.md R78, R82), and
O17. -/

namespace Sys2Proof.Machine

/-! ### Bytes stored -/

/-- A byte that none of the strings covers, each given by its address and its length. -/
def Outside (stored : List (Nat × Nat)) (a : Nat) : Prop := ∀ e ∈ stored, a < e.1 ∨ e.1 + e.2 ≤ a

/-- A core whose SRAM changed within the bytes stored, and whose X registers did not. -/
structure Stores (stored : List (Nat × Nat)) (c d : Core) : Prop where
  bytes : ∀ a, Outside stored a → memRead d.sram a = memRead c.sram a
  x : d.x = c.x

namespace Stores
variable {xs ys : List (Nat × Nat)} {c d e : Core}

theorem of_same (hm : d.sram = c.sram) (hx : d.x = c.x) : Stores xs c d := ⟨fun a _ => by rw [hm], hx⟩

theorem refl (xs : List (Nat × Nat)) (c : Core) : Stores xs c c := of_same rfl rfl

theorem trans (h : Stores xs c d) (h' : Stores xs d e) : Stores xs c e :=
  ⟨fun a ha => (h'.bytes a ha).trans (h.bytes a ha), h'.x.trans h.x⟩

theorem mono (h : Stores xs c d) (hs : xs ⊆ ys) : Stores ys c d := ⟨fun a ha => h.bytes a fun e he => ha e (hs he), h.x⟩

theorem sramWrite (a : Nat) (bs : List Byte) (p : Bool) (n : Nat) (hn : bs.length = n) : Stores [(a, n)] c (sramWrite c a bs p) where
  bytes b hb := by rw [sramWrite_sram, memRead_store_other _ _ _ _ (hn ▸ hb (a, n) (List.mem_singleton_self _))]
  x := rfl

/-- A result written with its flags raised, of data that may be poisoned. -/
theorem result (pois p : Bool) (f a : Nat) (bs : List Byte) (n : Nat) (hn : bs.length = n) :
    Stores [(a, n)] c (Machine.sramWrite (flagVector (consume c pois) f) a bs p) :=
  .trans (of_same (flagged_sram rfl pois f) (consume_x c pois)) (.sramWrite a bs p n hn)

/-- Things done one after the other, each storing `n` bytes at its own address. -/
theorem foldl {α : Type} {f : Core → α → Core} {at_ : α → Nat} {n : Nat} {es : List α}
    (hf : ∀ d, ∀ e ∈ es, Stores [(at_ e, n)] d (f d e)) (h : Stores (es.map fun e => (at_ e, n)) c d) :
    Stores (es.map fun e => (at_ e, n)) c (es.foldl f d) :=
  List.foldlRecOn (motive := Stores (es.map fun e => (at_ e, n)) c) es f h fun d hd e he =>
    hd.trans ((hf d e he).mono (List.cons_subset.mpr ⟨List.mem_map_of_mem he, List.nil_subset _⟩))

end Stores

/-! ### What each operation stores -/

/-- What is made of the addresses of an access by their numbers. -/
theorem map_getD_range {α : Type} (g : Nat → α) (as : List Nat) : (List.range as.length).map (fun k => g (as.getD k 0)) = as.map g :=
  List.ext_getElem (by simp) fun k _ hk => by
    rw [List.length_map] at hk
    simp [hk]

theorem writeSegs_stores {c d : Core} (as : List Nat) (seg : Nat → List Byte × Bool) (hn : ∀ k, (seg k).1.length = 64) (hd : Stores [] c d) :
    Stores (as.map fun a => (a, 64)) c (writeSegs d as seg) := by
  rw [← map_getD_range]
  exact .foldl (fun d k _ => .sramWrite _ _ _ _ (hn k)) (hd.mono (List.nil_subset _))

theorem agVectors_stores (xs : List (Nat × Nat)) (fields : List (BitVec 3)) (us : List AgUse) (n : Nat) (c : Core) :
    Stores xs c (agVectors fields us n c).2 := by
  obtain ⟨g, h⟩ := agVectors_agChange fields us n c
  rw [h]
  exact .of_same rfl rfl

/-- The vectors that an instruction writes, each at the address of its first generator. -/
def vectorsAt (v : List (List Nat)) (n : Nat) : List (Nat × Nat) := v.map fun as => (as.getD 0 0, n)

theorem vopVector_stores (func : Nat) (useB useC : Bool) (x : W32) (d : Core) (as : List Nat) :
    Stores [(as.getD 0 0, 64)] d (vopVector func useB useC x d as) := .result _ _ _ _ _ _ (by simp [length_vecBytes])

theorem vredOne_stores (func : BitVec 2) (d : Core) (as : List Nat) : Stores [(as.getD 0 0, 4)] d (vredOne func d as) :=
  .result _ _ _ _ _ _ (length_leBytes ..)

theorem vcvtOne_stores (f : VcvtFields) (draw : Nat → Nat → W32) (d : Core) (e : List Nat × Nat) :
    Stores [(e.1.getD 0 0, vecLen f.dstf.toNat)] d (vcvtOne f draw d e) := .result _ _ _ _ _ _ (length_leBytes ..)

/-- Numbered vectors store what the vectors store. -/
theorem map_zipIdx_vectorsAt (v : List (List Nat)) (n : Nat) : (v.zipIdx.map fun e => (e.1.getD 0 0, n)) = vectorsAt v n :=
  calc (v.zipIdx.map fun e => (e.1.getD 0 0, n)) = vectorsAt (v.zipIdx.map Prod.fst) n := by rw [vectorsAt, List.map_map]; rfl
    _ = vectorsAt v n := by rw [List.zipIdx_map_fst]

theorem writeSamples_stores {c d : Core} (form : Bool) (v : List (List Nat)) (draw : Nat → Nat → W32) (h : Stores (vectorsAt v 64) c d) :
    Stores (vectorsAt v 64) c (writeSamples d form v draw) := by
  rw [← map_zipIdx_vectorsAt] at h ⊢
  exact .foldl (fun d e _ => .sramWrite _ _ _ _ (by simp [sampleBytes, length_vecBytes])) h

theorem readParity_stores (xs : List (Nat × Nat)) (s : State) (c : Core) (acc : BitVec 2) (parity : Bool) (words : Nat) :
    Stores xs c (readParity s c acc parity words).2 := by
  unfold readParity
  split <;> exact .of_same rfl rfl

theorem readParity_cores (s : State) (c : Core) (acc : BitVec 2) (parity : Bool) (words : Nat) :
    (readParity s c acc parity words).1.cores = s.cores := by
  obtain ⟨o, n, m, r, p, h⟩ := (readParity_countedIn s c acc parity words).rest
  rw [h]

/-! ### Packets that enter the mesh leave every core (R55, R192) -/

theorem enterPort_meshMoves (s : State) (c : CoreId) (port : Nat) (m : MFlit) : MeshMoves s (enterPort s c port m) := enterLane_meshMoves ..

theorem fillLocal_meshMoves (c : CoreId) (q n : Nat) : ∀ s, MeshMoves s (fillLocal s c q n) := by
  induction n with
  | zero => exact MeshMoves.refl
  | succ n ih =>
    intro s
    unfold fillLocal
    split
    · exact .refl s
    · split
      · exact ((mesh_meshMoves s _).trans (enterPort_meshMoves _ c 4 _)).trans (ih _)
      · exact .refl s

theorem inject_meshMoves (s : State) (id : CoreId) (p : Packet) : MeshMoves s (inject s id p) :=
  (injectAt_meshMoves s id 4 p).trans (fillLocal_meshMoves id _ 8 _)

theorem releasesSent_meshMoves (s : State) (id : CoreId) (c : Core) (a : Nat) : MeshMoves s (releasesSent s id c a) :=
  List.foldlRecOn (motive := MeshMoves s) _ _ (.refl s) fun _ h _ _ => h.trans (inject_meshMoves ..)

/-- A word judged: its ARRIVED may be stored, and releases may leave. -/
theorem judgeBarrier_stores (s : State) (id : CoreId) (c : Core) (a : Nat) :
    (judgeBarrier s id c a).1.cores = s.cores ∧ Stores [(a, 2)] c (judgeBarrier s id c a).2 := by
  by_cases h : expectedAt c a = 0 ∨ arrivedAt c a < expectedAt c a
  · rw [judgeBarrier_waits h]
    exact ⟨rfl, .refl _ c⟩
  · rw [judgeBarrier_releases h]
    exact ⟨(releasesSent_meshMoves ..).cores, .sramWrite _ _ _ _ (length_leBytes ..)⟩

/-! ### The frame -/

/-- What an instruction at issue gives that stores, on the same cores, where it raises no exception. -/
def StoresIn (stored : List (Nat × Nat)) (s : State) (c : Core) (out : TOut) : Prop :=
  out.Gives (fun s2 d => s2.cores = s.cores ∧ Stores stored c d) True

theorem storesIn_next {stored : List (Nat × Nat)} {s s2 : State} {c d : Core} {conds : List (Bool × Nat)} (hs : s2.cores = s.cores)
    (hd : Stores stored c d) : StoresIn stored s c (unlessExc conds (.next s2 d)) := by
  refine TOut.Gives.unlessExc ?_ conds
  exact ⟨hs, hd⟩

theorem storesIn_wait {stored : List (Nat × Nat)} {s s2 : State} {c d : Core} {w : Wait} {conds : List (Bool × Nat)} (hs : s2.cores = s.cores)
    (hd : Stores stored c d) : StoresIn stored s c (unlessExc conds (.wait s2 d w)) := by
  refine TOut.Gives.unlessExc ?_ conds
  exact ⟨hs, hd⟩

/-- What a storing instruction leaves, where it raises no exception: it stays at issue, or its body stores. -/
theorem storing_frame {s t : State} {i : Issue} {o : Instr} {word : Nat} {mine : Wait → Bool} {body : Core → State → TOut}
    {stored : List (Nat × Nat)} (h : Issues s i) (hs : Stands s i o) (hw : instrWord o = some word)
    (he : exec o s = .next (tileIssue i word mine body s)) (ht : exec o s = .next t) (hf : (getCore t i.core).st ≠ .faulted)
    (hb : StoresIn stored s (issueCore s i) (body (issueCore s i) s)) :
    Stores stored (issueCore s i) (getCore t i.core) ∧ ∀ k, coreKey k ≠ coreKey i.core → getCore t k = getCore s k := by
  obtain rfl : tileIssue i word mine body s = t := Host.Outcome.next.inj (he.symm.trans ht)
  rcases tileIssue_gives h (hs.spells hw) hb hf with ⟨-, hheld⟩ | ⟨s2, d, st, w, pc, ⟨hcores, hd⟩, hleft⟩
  · rw [hheld]
    exact ⟨.of_same rfl rfl, fun _ _ => rfl⟩
  · rw [hleft, getCore_setCore_same]
    exact ⟨hd.trans (.of_same rfl rfl), fun k hk => (getCore_setCore_other _ _ _ _ hk).trans (getCore_eq _ _ _ hcores)⟩

/-- Settles O17: each body stores at its addresses, in the order of the model, and every other operation of it leaves the SRAM and X. -/
theorem storingInstructionsTouchOnlyTheirBytes : Obligations.StoringInstructionsTouchOnlyTheirBytes := by
  unfold Obligations.StoringInstructionsTouchOnlyTheirBytes
  intro s t i h c d keeps at_ vectors
  have frame {o : Instr} {word : Nat} {mine : Wait → Bool} {body : Core → State → TOut} {stored : List (Nat × Nat)}
      (hw : instrWord o = some word) (he : exec o s = .next (tileIssue i word mine body s))
      (hb : StoresIn stored s c (body c s)) : keeps o stored := fun hs ht hf =>
    have ⟨hd, hothers⟩ := storing_frame h hs hw he ht hf hb
    ⟨hd.bytes, hd.x, hothers⟩
  have taken {xs : List (Nat × Nat)} (n : BitVec 3) (post : Bool) : Stores xs c (agTake c n post).2 := .of_same rfl rfl
  refine ⟨fun an post xs => frame rfl rfl ?_, fun src an post xs hsrc => frame rfl rfl ?_, fun acc ad post xs parity => frame rfl rfl ?_,
    fun asel ad post => frame rfl rfl ?_, fun func ad aa ab ac scalb xb post count ra rb rc hr => frame rfl rfl ?_,
    fun func ad aa pd pa count => frame rfl rfl ?_, fun f => frame rfl rfl ?_,
    fun ad post key src xs xi form count => ⟨frame rfl rfl ?_, frame rfl rfl ?_⟩,
    fun b xr word expected => ⟨frame rfl rfl ?_, frame rfl rfl ?_⟩⟩
  · exact storesIn_next rfl ((taken an post).trans (.sramWrite _ _ _ _ (length_leBytes ..)))
  · have hne : src.toNat ≠ 4 := fun e => hsrc (BitVec.eq_of_toNat_eq e)
    dsimp only
    rw [if_neg hne]
    exact storesIn_next rfl (writeSegs_stores _ _ (fun k => length_slice ..) (taken an post))
  · refine storesIn_next (readParity_cores ..) ?_
    have hseg (k : Nat) (t : AccTile) : ((List.range 16).flatMap fun w => leBytes 4 (t.words[16 * k + w]?.getD 0).toNat).length = 64 := by
      rw [length_flatMap_of_length fun _ => length_leBytes 4 _, List.length_range]
    exact (writeSegs_stores _ _ (fun k => hseg k _) ((taken ad post).trans (readParity_stores ..))).trans (.of_same (consume_sram ..) (consume_x ..))
  · exact storesIn_next rfl ((taken ad post).trans (.sramWrite _ _ _ _ (length_leBytes ..)))
  · dsimp only
    rw [hr]
    exact storesIn_next rfl (.foldl (fun d as _ => vopVector_stores _ _ _ _ d as) (agVectors_stores ..))
  · exact storesIn_next rfl (.foldl (fun d as _ => vredOne_stores func d as) (agVectors_stores ..))
  · refine storesIn_next rfl ?_
    show Stores (vectorsAt _ _) _ _
    rw [← map_zipIdx_vectorsAt]
    exact .foldl (fun d e _ => vcvtOne_stores f _ d e) (agVectors_stores ..)
  · exact storesIn_next rfl (writeSamples_stores _ _ _ (agVectors_stores ..))
  · exact storesIn_next rfl (writeSamples_stores _ _ _ (agVectors_stores ..))
  · obtain ⟨hcores, hword⟩ := judgeBarrier_stores s i.core (sramWrite c (word.toNat + 2) (leBytes 2 expected.toNat) false) word.toNat
    have hexp : Stores [(word.toNat + 2, 2)] c (sramWrite c (word.toNat + 2) (leBytes 2 expected.toNat) false) :=
      .sramWrite _ _ _ _ (length_leBytes ..)
    exact storesIn_next hcores ((hexp.mono (by simp)).trans (hword.mono (by simp)))
  · have hwait : c.wait = none := issueCore_wait h
    dsimp only
    rw [hwait]
    exact storesIn_wait (inject_meshMoves ..).cores (.trans (.sramWrite _ _ false _ rfl) (.of_same rfl rfl))

end Sys2Proof.Machine

/-! SUPPORT and PROOFS. WAITB and the instructions of barriers (07_tile_programs.md R177, R191, R192, R194): a wait begun and a wait that ends, and
O9. -/

namespace Sys2Proof.Machine

/-! ### A wait that ends (R177) -/

/-- An instruction in which its core waits, re-evaluated, that completes. -/
theorem tileIssue_resumed {s s2 : State} {i : Issue} {o : Instr} {word : Nat} {mine : Wait → Bool} {body : Core → State → TOut} {w : Wait}
    {d : Core} (hg : inGrid s i.core = true) (he : i.errs = []) (hf : fetchExc (issueCore s i) = none) (hst : (issueCore s i).st = .waiting)
    (hwait : (issueCore s i).wait = some w) (hm : mine w = true) (hs : Stands s i o) (hw : instrWord o = some word)
    (hb : body (issueCore s i) s = .next s2 d) (hd : d.pc = (issueCore s i).pc) :
    (Host.Outcome.next (tileIssue i word mine body s) : Host.Outcome State Fault Refusal) =
      .next (completed s2 i d ((issueCore s i).pc + 1)) := by
  have hst' : (getCore s i.core).st = .waiting := hst
  have hwait' : (getCore s i.core).wait = some w := by rw [← hwait, issueCore, if_neg (by rw [hst']; decide)]
  have ht : takesIssue (getCore s i.core) mine = true := by rw [takesIssue, hst', hwait']; exact hm
  rw [tileIssue_of hg ht he hf (hs.spells hw), hb, TOut.next_eq hd]
  rfl

/-! ### WAITB (R194) -/

section Waitb
variable {s : State} {i : Issue} (h : Issues s i) {rel : Bool} {xs : BitVec 5} {count : BitVec 16} {target : W32}
  (hn : (rel && count == 0) = false)
  (ht : (if rel then BitVec.ofNat 32 (beatNow s) + count.setWidth 32 else xget (issueCore s i) xs) = target)
include h hn ht

/-- A WAITB whose target beat has come proceeds, counted where an absolute one has passed. -/
theorem exec_waitb_reached (hr : 0 ≤ (BitVec.ofNat 32 (beatNow s) - target).toInt) {s2 : State}
    (hl : (if !rel && BitVec.ofNat 32 (beatNow s) != target then count64 s Key.waitbLate else s) = s2)
    (hs : Stands s i (.waitb i rel xs count)) :
    exec (.waitb i rel xs count) s = .next (completed s2 i (issueCore s i) ((issueCore s i).pc + 1)) := by
  refine tileIssue_next h (hs.spells rfl) ?_
  dsimp only
  rw [issueCore_wait h]
  dsimp only
  rw [hn, ht, if_neg Bool.false_ne_true, if_pos (show beatReached s target = true from decide_eq_true hr), hl]
  rfl

/-- A WAITB whose target beat is to come waits for it. -/
theorem exec_waitb_waits (hr : (BitVec.ofNat 32 (beatNow s) - target).toInt < 0) (hs : Stands s i (.waitb i rel xs count)) :
    exec (.waitb i rel xs count) s =
      .next (setCore s i.core { issueCore s i with st := .waiting, wait := some (.beat target) }) := by
  refine congrArg Host.Outcome.next (tileIssue_wait h (hs.spells rfl) ?_)
  dsimp only
  rw [issueCore_wait h]
  dsimp only
  rw [hn, ht, if_neg Bool.false_ne_true, if_neg (by simpa [beatReached] using hr)]

end Waitb

/-- A beat that is `count` ahead is still to come. -/
theorem toInt_sub_add_neg (now : W32) {count : BitVec 16} (h : count ≠ 0) : (now - (now + count.setWidth 32)).toInt < 0 := by
  have hc : (count.setWidth 32).toNat = count.toNat := BitVec.toNat_setWidth_of_le (by decide)
  have h0 : count.toNat ≠ 0 := fun e => h (BitVec.eq_of_toNat_eq e)
  have hlt := count.isLt
  have hnow := now.isLt
  rw [BitVec.toInt_eq_toNat_cond, BitVec.toNat_sub, BitVec.toNat_add, hc]
  split <;> omega

/-! ### Barriers (R191, R192) -/

/-- The root that X[XR] names. -/
theorem syncRoot_eq {r : Nat} (h : r < 2 ^ 18) : (⟨bits r 8 0, bits r 17 9⟩ : CoreId) = ⟨r % 512, r / 512⟩ := by
  have : r / 512 % 512 = r / 512 := Nat.mod_eq_of_lt (by omega)
  simp [bits, this]

/-- A core that begins to wait in SYNC: the epoch in the barrier word raised, no beat waited yet. -/
def epochRaised (c : Core) (word : BitVec 19) : Core :=
  { sramWrite c (word.toNat + 4) [memRead c.sram (word.toNat + 4) + 1] false with syncBeats := 0 }

section Sync
variable {s : State} {i : Issue} (h : Issues s i) {b : BitVec 4} {xr : BitVec 5} {word : BitVec 19}
  (hr : (xget (issueCore s i) xr).toNat < 2 ^ 18)
  (hg : inGrid s ⟨(xget (issueCore s i) xr).toNat % 512, (xget (issueCore s i) xr).toNat / 512⟩ = true)
  (ha : word.toNat % 8 = 0) (hlo : stageEnd (issueCore s i) ≤ word.toNat) (hhi : word.toNat + 8 ≤ contextBase)
include hr hg ha hlo hhi

/-- No condition of SYNC holds for a root in the grid and an aligned word of the data region. -/
theorem syncConds_false {bad : Bool} (hb : bad = false) : ∀ e ∈ syncConds s (issueCore s i) xr word bad, e.1 = false := by
  unfold syncConds
  dsimp only
  rw [syncRoot_eq hr, hg, hb, decide_eq_false (Nat.not_le.mpr hr)]
  simp [ha, hlo, hhi]

include h

/-- SYNC INIT of a word whose arrivals are fewer than EXPECTED. -/
theorem exec_syncInit {expected : BitVec 16} (he : expected ≠ 0) (hl : leNat (sramRead (issueCore s i) word.toNat 2) < expected.toNat)
    (hs : Stands s i (.syncInit i b xr word expected)) : exec (.syncInit i b xr word expected) s = .next (completed s i
      (sramWrite (issueCore s i) (word.toNat + 2) (leBytes 2 expected.toNat) false) ((issueCore s i).pc + 1)) := by
  have hexpected : expectedAt (sramWrite (issueCore s i) (word.toNat + 2) (leBytes 2 expected.toNat) false) word.toNat = expected.toNat :=
    leNat_sramWrite_same _ _ _ _ expected.isLt
  have harrived : arrivedAt (sramWrite (issueCore s i) (word.toNat + 2) (leBytes 2 expected.toNat) false) word.toNat =
      leNat (sramRead (issueCore s i) word.toNat 2) :=
    congrArg leNat (memBytes_congr fun x _ hx => memRead_sramWrite_other _ _ _ _ _ (.inl hx))
  have hjudge := judgeBarrier_waits (s := s) (id := i.core) (.inr (by rwa [harrived, hexpected]))
  refine tileIssue_next h (hs.spells rfl) ?_
  dsimp only
  rw [hjudge, unlessExc_of (firstExc_none (syncConds_false hr hg ha hlo hhi (beq_eq_false_iff_ne.mpr he)))]
  rfl

/-- SYNC WAIT raises its epoch, sends its arrival and waits. -/
theorem exec_syncWait (hs : Stands s i (.syncWait i b xr word)) : exec (.syncWait i b xr word) s = .next
    (setCore (inject s i.core (arrivalPacket ⟨(xget (issueCore s i) xr).toNat % 512, (xget (issueCore s i) xr).toNat / 512⟩ b
        (memRead (issueCore s i).sram (word.toNat + 4) + 1) word)) i.core
      { epochRaised (issueCore s i) word with
        st := .waiting, wait := some (.sync b (memRead (issueCore s i).sram (word.toNat + 4) + 1) word) }) := by
  refine congrArg Host.Outcome.next (tileIssue_wait (c2 := epochRaised (issueCore s i) word) h (hs.spells rfl) ?_)
  dsimp only
  rw [issueCore_wait h, ← syncRoot_eq hr]
  exact unlessExc_of (firstExc_none (syncConds_false hr hg ha hlo hhi rfl))

end Sync

/-- Settles O9: WAITB by where BEAT stands to its target, SYNC by its conditions and the root's word, and a wait that ends by what it waits for. -/
theorem waitsAndBarriers : Obligations.WaitsAndBarriers := by
  unfold Obligations.WaitsAndBarriers
  intro s i hg he hf c now
  have issues (hr : c.st = .running) : Issues s i := ⟨hg, hr, he, hf⟩
  refine ⟨fun hr => ⟨fun xs count hx hs => ?_, fun xs count hx hs => ?_,
    fun xs count hx => exec_waitb_waits (target := xget c xs) (issues hr) rfl rfl hx,
      fun xs count hc => exec_waitb_waits (target := now + count.setWidth 32) (issues hr) (by simpa using hc) rfl (toInt_sub_add_neg now hc)⟩,
    fun rel xs count target hst hwait hx hs => ?_, fun b xr word expected hr => ?_,
    fun b xr e word word' hst hwait hbit hs => ?_⟩
  · have hreached : 0 ≤ (now - xget c xs).toInt := by rw [hx, BitVec.sub_self, BitVec.toInt_zero]
    exact exec_waitb_reached (target := xget c xs) (issues hr) rfl rfl hreached (if_neg (by simp [← hx, now])) hs
  · have hne : now ≠ xget c xs := fun e => by simp [e] at hx
    exact exec_waitb_reached (target := xget c xs) (issues hr) rfl rfl hx.le (if_pos (by simpa using hne)) hs
  · refine tileIssue_resumed hg he hf hst hwait rfl hs rfl ?_ rfl
    dsimp only
    rw [show (issueCore s i).wait = _ from hwait]
    exact if_pos (decide_eq_true hx)
  · intro r hr18 hroot ha hlo hhi
    exact ⟨exec_syncInit (issues hr) hr18 hroot ha hlo hhi, exec_syncWait (issues hr) hr18 hroot ha hlo hhi⟩
  · refine tileIssue_resumed hg he hf hst hwait (beq_self_eq_true b) hs rfl ?_ rfl
    dsimp only
    rw [show (issueCore s i).wait = _ from hwait]
    exact if_pos hbit

end Sys2Proof.Machine

/-! SUPPORT and PROOFS. LDA and LDAT (07_tile_programs.md R150, R164, R171, R176, R179, R180): rows gathered, elements scattered into a tile, and
O10. -/

namespace Sys2Proof.Machine

/-! ### Places in rows -/

/-- A place in rows of `m` names its row and its offset. -/
theorem place_inj {m a a' b b' : Nat} (hb : b < m) (hb' : b' < m) (h : a * m + b = a' * m + b') : a = a' ∧ b = b' := by
  have ha := congrArg (· / m) h
  simp only [Nat.mul_comm _ m, Nat.mul_add_div (Nat.zero_lt_of_lt hb), Nat.div_eq_of_lt hb, Nat.div_eq_of_lt hb', Nat.add_zero] at ha
  subst ha
  exact ⟨rfl, Nat.add_left_cancel h⟩

theorem place_lt {m n a b : Nat} (ha : a < n) (hb : b < m) : a * m + b < n * m := by
  have := Nat.mul_le_mul_right m (Nat.succ_le_of_lt ha)
  rw [Nat.succ_mul] at this
  omega

/-! ### Rows gathered (R171, R179) -/

/-- A tile's rows take its 1,024 bytes whole. -/
theorem rowCode_mul {rows : BitVec 3} {r : Nat} (h : rowCode rows = some r) : r * (1024 / r) = 1024 :=
  (by decide : ∀ n : BitVec 3, ∀ k ∈ rowCode n, k * (1024 / k) = 1024) rows r h

/-- Byte `x` of row `n` of rows of one length, put one after the other. -/
theorem getD_flatMap_rows {f : Nat → List Byte} {len : Nat} (hf : ∀ a, (f a).length = len) (as : List Nat) {n x : Nat} (hn : n < as.length)
    (hx : x < len) : (as.flatMap f).getD (n * len + x) 0 = (f (as.getD n 0)).getD x 0 := by
  induction as generalizing n with
  | nil => exact absurd hn (Nat.not_lt_zero n)
  | cons a as ih =>
    rw [List.flatMap_cons]
    cases n with
    | zero => rw [Nat.zero_mul, Nat.zero_add, List.getD_append _ _ _ _ (by rwa [hf])]; rfl
    | succ n =>
      rw [List.getD_append_right _ _ _ _ (by rw [hf, Nat.succ_mul]; omega), hf, Nat.succ_mul, Nat.add_right_comm, Nat.add_sub_cancel]
      exact ih (Nat.lt_of_succ_lt_succ hn)

/-- The bytes of rows gathered. -/
theorem map_fst_gatherRows (c : Core) (as : List Nat) (len : Nat) :
    (gatherRows c as len).map Prod.fst = as.flatMap fun a => (List.range len).map fun x => memRead c.sram (a + x) := by
  simp [gatherRows, List.map_flatMap, Function.comp_def]

@[simp] theorem length_rowAddrs (base : Nat) (pitch : W32) (n : Nat) : (rowAddrs base pitch n).length = n := by simp [rowAddrs]

/-- A tile that is not expanded holds its rows byte for byte, whatever stands where a parameter flit would (R150). -/
theorem expandTile_plain (c : Core) (as : List Nat) {r : Nat} (hr : r * (1024 / r) = 1024) (has : as.length = r) (param : List Byte) (whole : Bool)
    (tab : List Byte) (pois : List Bool) :
    (expandTile 0 param whole tab ((gatherRows c as (1024 / r)).map Prod.fst) pois).1.length = 1024 ∧ ∀ n x, n < r → x < 1024 / r →
      (expandTile 0 param whole tab ((gatherRows c as (1024 / r)).map Prod.fst) pois).1[n * (1024 / r) + x]? =
        some (memRead c.sram (as.getD n 0 + x)) := by
  have he : (expandTile 0 param whole tab ((gatherRows c as (1024 / r)).map Prod.fst) pois).1 =
      slice ((gatherRows c as (1024 / r)).map Prod.fst) 0 1024 := rfl
  rw [he]
  refine ⟨length_slice .., fun n x hn hx => ?_⟩
  have hlt : n * (1024 / r) + x < 1024 := (place_lt hn hx).trans_eq hr
  have hget := getD_flatMap_rows (f := fun a => (List.range (1024 / r)).map fun x => memRead c.sram (a + x)) (by simp) as (has ▸ hn) hx
  rw [slice_eq_map_range, List.getElem?_map, List.getElem?_range hlt, Option.map_some, Nat.zero_add, map_fst_gatherRows, hget]
  simp [hx]

/-! ### LDA -/

@[simp] theorem agUse_fst (g : Ag) (post : Bool) : (agUse g post).1 = g.cursor.toNat := rfl

/-- A tile that no open EX32 chunk reads is filled where no condition holds (R136). -/
theorem fill_done {s : State} {c d : Core} {conds : List (Bool × Nat)} {k : Nat} (hc : ∀ e ∈ conds, e.1 = false) (hbusy : tileBusy c k = false)
    (hd : d.pc = c.pc) : unlessExc conds (if tileBusy c k then .hold else .next s d) = .done s d (c.pc + 1) := by
  rw [unlessExc_of (firstExc_none hc), hbusy]
  exact TOut.next_eq hd

section Lda
variable {s : State} {i : Issue} (h : Issues s i) {an : BitVec 3} {post : Bool} {exp rows : BitVec 3} {xs : BitVec 5} {ap : BitVec 3} {ppost : Bool}
include h

/-- LDA of XREG. -/
theorem exec_lda_xreg (ha : (agGet (issueCore s i) an).cursor.toNat % 4 = 0)
    (hm : mayRead (issueCore s i) (agGet (issueCore s i) an).cursor.toNat 4 = true) (hs : Stands s i (.lda i 4 an post exp rows xs ap ppost)) :
    exec (.lda i 4 an post exp rows xs ap ppost) s = .next (completed s i
      (xset (consume (agTake (issueCore s i) an post).2 (sramPoisoned (issueCore s i) (agGet (issueCore s i) an).cursor.toNat 4)) xs
        (BitVec.ofNat 32 (leNat (sramRead (issueCore s i) (agGet (issueCore s i) an).cursor.toNat 4)))) ((issueCore s i).pc + 1)) := by
  refine tileIssue_unlessExc h hs rfl (if_pos rfl) ?_ (by simp)
  simp [ha, hm]

/-- LDA of a tile. -/
theorem exec_lda_tile {dst : BitVec 4} {r : Nat} {c1 : Core} {pa : Nat} (hc1 : (agTake (issueCore s i) an post).2 = c1)
    (hpa : (agGet c1 ap).cursor.toNat = pa) {as : List Nat} (has : rowAddrs (agGet (issueCore s i) an).cursor.toNat (xget (issueCore s i) xs) r = as)
    (hdst : dst.toNat < 4) (hr : rowCode rows = some r) (hbad : expandBad (issueCore s i) exp rows = false) (ha : misaligned 8 as = false)
    (hm : ∀ a ∈ as, mayRead (issueCore s i) a (packedSize exp.toNat / r) = true)
    (hp : exp ≠ 0 → pa % 64 = 0 ∧ mayRead (issueCore s i) pa 64 = true) (hbusy : tileBusy (issueCore s i) dst.toNat = false)
    (hs : Stands s i (.lda i dst an post exp rows xs ap ppost)) {d : List (Byte × Bool)} {t : List Byte × List Bool × List Byte}
    (hd : gatherRows (issueCore s i) as (packedSize exp.toNat / r) = d)
    (ht : expandTile exp.toNat (sramRead (issueCore s i) pa 64) (wholePoison (issueCore s i) exp (sramPoisoned (issueCore s i) pa 64))
      (tables (issueCore s i)) (d.map Prod.fst) (d.map Prod.snd) = t) :
    exec (.lda i dst an post exp rows xs ap ppost) s = .next (completed s i
      (stgFill (consume (if exp = 0 then c1 else (agTake c1 ap ppost).2) (t.2.1.any id)) dst.toNat t.1 t.2.1 t.2.2) ((issueCore s i).pc + 1)) := by
  refine tileIssue_next h (hs.spells rfl) ?_
  dsimp only
  have hread : (as.any fun a => !mayRead (issueCore s i) a (packedSize exp.toNat / r)) = false := by simpa using hm
  have hdst5 : ¬5 ≤ dst.toNat := by omega
  rw [if_neg hdst.ne, hr]
  dsimp only
  by_cases he : exp = 0
  · have hplain : expandTile exp.toNat (sramRead (issueCore s i) 0 64) (wholePoison (issueCore s i) exp (sramPoisoned (issueCore s i) 0 64))
        (tables (issueCore s i)) (d.map Prod.fst) (d.map Prod.snd) = t := by
      rw [← ht, he]
      rfl
    rw [if_pos he, if_pos he]
    dsimp only
    rw [agTake_fst, has, hd, hc1, hplain]
    exact fill_done (by simpa [hdst5, hbad, ha, hread] using fun hne => absurd he hne) hbusy (by simp [← hc1])
  · obtain ⟨hp1, hp2⟩ := hp he
    rw [if_neg he, if_neg he, agTake_fst, agTake_fst, hc1, has, hd, hpa, ht]
    exact fill_done (by simp [hdst5, hbad, ha, hread, hp1, hp2]) hbusy (by simp [← hc1])

end Lda

/-! ### Elements scattered into a tile (R179) -/

section Scatter
variable {α β : Type} (at_ : β → Nat) (val : β → α)

theorem length_modifyAt (f : α → α) (xs : List α) (i : Nat) : (modifyAt f xs i).length = xs.length := by
  induction xs generalizing i with
  | nil => rfl
  | cons x xs ih => cases i <;> simp [modifyAt, ih]

theorem getElem?_setAt_same {xs : List α} {i : Nat} (v : α) (h : i < xs.length) : (setAt v xs i)[i]? = some v := by
  unfold setAt
  induction xs generalizing i with
  | nil => exact absurd h (Nat.not_lt_zero i)
  | cons x xs ih =>
    cases i with
    | zero => rfl
    | succ i => exact ih (Nat.lt_of_succ_lt_succ h)

theorem getElem?_setAt_other (xs : List α) {i p : Nat} (v : α) (h : p ≠ i) : (setAt v xs i)[p]? = xs[p]? := by
  unfold setAt
  induction xs generalizing i p with
  | nil => rfl
  | cons x xs ih =>
    cases i with
    | zero =>
      cases p with
      | zero => exact absurd rfl h
      | succ p => rfl
    | succ i =>
      cases p with
      | zero => rfl
      | succ p => exact ih fun e => h (e ▸ rfl)

/-- The list after values set one after the other. -/
def scatter (ms : List β) (xs : List α) : List α := ms.foldl (fun ys m => setAt (val m) ys (at_ m)) xs

@[simp] theorem length_scatter (ms : List β) (xs : List α) : (scatter at_ val ms xs).length = xs.length :=
  List.foldlRecOn (motive := fun ys : List α => ys.length = xs.length) ms _ rfl fun _ h _ _ => (length_modifyAt ..).trans h

/-- A place that no value is set at keeps its element. -/
theorem getElem?_scatter_other {ms : List β} (xs : List α) {p : Nat} (h : ∀ m ∈ ms, p ≠ at_ m) : (scatter at_ val ms xs)[p]? = xs[p]? :=
  List.foldlRecOn (motive := fun ys : List α => ys[p]? = xs[p]?) ms _ rfl fun ys hys m hm => (getElem?_setAt_other ys _ (h m hm)).trans hys

/-- A place where every value set is `v` holds `v`. -/
theorem getElem?_scatter_same {ms : List β} {xs : List α} {p : Nat} {v : α} (hp : p < xs.length) (hm : ∃ m ∈ ms, at_ m = p)
    (hv : ∀ m ∈ ms, at_ m = p → val m = v) : (scatter at_ val ms xs)[p]? = some v := by
  induction ms generalizing xs with
  | nil => exact absurd hm (by simp)
  | cons m ms ih =>
    have hv' : ∀ k ∈ ms, at_ k = p → val k = v := fun k hk => hv k (List.mem_cons_of_mem _ hk)
    show (scatter at_ val ms (setAt (val m) xs (at_ m)))[p]? = some v
    by_cases hlater : ∃ k ∈ ms, at_ k = p
    · exact ih (by rwa [setAt, length_modifyAt]) hlater hv'
    · obtain ⟨k, hk, hkp⟩ := hm
      rcases List.mem_cons.mp hk with rfl | hk
      · rw [getElem?_scatter_other _ _ _ fun j hj e => hlater ⟨j, hj, e.symm⟩, hkp, getElem?_setAt_same _ hp, hv k (List.mem_cons_self ..) hkp]
      · exact absurd ⟨k, hk, hkp⟩ hlater

end Scatter

/-! ### LDAT -/

theorem mem_ldatMoves {r w n : Nat} {m : Nat × Nat × Nat} :
    m ∈ ldatMoves r w n ↔ ∃ k j b, k < n ∧ j < r ∧ b < w ∧ m = (j * (1024 / r) + k * w + b, k, j * w + b) := by
  simp only [ldatMoves, List.mem_flatMap, List.mem_map, List.mem_range]
  constructor
  · rintro ⟨k, hk, j, hj, b, hb, rfl⟩
    exact ⟨k, j, b, hk, hj, hb, rfl⟩
  · rintro ⟨k, j, b, hk, hj, hb, rfl⟩
    exact ⟨k, hk, j, hj, b, hb, rfl⟩


/-- What LDAT makes of a tile's bytes. -/
def transposed (c : Core) (as : List Nat) (r w n : Nat) (old : List Byte) : List Byte :=
  scatter (fun m : Nat × Nat × Nat => m.1) (fun m => memRead c.sram (as.getD m.2.1 0 + m.2.2)) (ldatMoves r w n) old

/-- What LDAT makes of a tile's poison: a segment written whole from clean data loses it (assumption log 16). -/
def transposedPoison (c : Core) (as : List Nat) (r w n : Nat) (t : Staging) : List Bool :=
  (List.range 16).map fun g =>
    let ms := (ldatMoves r w n).filter fun m => m.1 / 64 == g
    ms.any (fun m => sramPoisoned c (as.getD m.2.1 0 + m.2.2) 1) || (t.poison[g]?.getD false && decide (ms.length < 64))

section Transposed
variable (c : Core) (as : List Nat) {r w n : Nat} {old : List Byte} (hlen : old.length = 1024) (hr : r * (1024 / r) = 1024)
  (hn : n * w ≤ 1024 / r)

theorem getElem?_transposed_other {p : Nat} (hp : ∀ k j b, k < n → j < r → b < w → p ≠ j * (1024 / r) + k * w + b) :
    (transposed c as r w n old)[p]? = old[p]? :=
  getElem?_scatter_other _ _ _ fun m hm => by
    obtain ⟨k, j, b, hk, hj, hb, rfl⟩ := mem_ldatMoves.mp hm
    exact hp k j b hk hj hb

include hlen hr hn

/-- Each element goes to a place of its own. -/
theorem getElem?_transposed {k j b : Nat} (hk : k < n) (hj : j < r) (hb : b < w) :
    (transposed c as r w n old)[j * (1024 / r) + k * w + b]? = some (memRead c.sram (as.getD k 0 + j * w + b)) := by
  have hrow {k b : Nat} (hk : k < n) (hb : b < w) : k * w + b < 1024 / r := (place_lt hk hb).trans_le hn
  have hp : j * (1024 / r) + k * w + b < old.length := by
    rw [hlen, Nat.add_assoc]
    exact (place_lt hj (hrow hk hb)).trans_eq hr
  refine getElem?_scatter_same _ _ hp ⟨_, mem_ldatMoves.mpr ⟨k, j, b, hk, hj, hb, rfl⟩, rfl⟩ fun m hm he => ?_
  obtain ⟨k', j', b', hk', hj', hb', rfl⟩ := mem_ldatMoves.mp hm
  dsimp only at he
  rw [Nat.add_assoc, Nat.add_assoc] at he
  obtain ⟨rfl, hplace⟩ := place_inj (hrow hk' hb') (hrow hk hb) he
  obtain ⟨rfl, rfl⟩ := place_inj hb' hb hplace
  exact congrArg (memRead c.sram) (Nat.add_assoc ..).symm

end Transposed

/-- A tile filled. -/
theorem stgGet_stgFill (c : Core) {k : Nat} (hk : k < 4) (bytes : List Byte) (poison : List Bool) (scales : List Byte) :
    stgGet (stgFill c k bytes poison scales) k = ⟨vecOf 1024 (fun n => bytes.getD n 0), vecOf 16 (fun n => poison.getD n false),
      vecOf 32 (fun n => scales.getD n 0), (stgGet c k).fill + 1⟩ := by
  simp [stgGet, stgFill, hk]

theorem getElem?_vecOf_getD {n : Nat} {bs : List Byte} (h : bs.length = n) (p : Nat) : (vecOf n fun k => bs.getD k 0)[p]? = bs[p]? := by
  by_cases hp : p < n
  · simp [hp, h]
  · simp [hp, h]

theorem vecOf_toList {n : Nat} (v : Vector Byte n) : (vecOf n fun k => v.toList.getD k 0) = v := vecOf_eq fun k hk => by simp [hk]

/-- The tile that LDAT leaves. -/
def ldatCore (c : Core) (an : BitVec 3) (post : Bool) (as : List Nat) (k r w n : Nat) : Core :=
  let seg := transposedPoison c as r w n (stgGet c k)
  stgFill (consume (agTake c an post).2 (seg.any id)) k (transposed c as r w n (stgGet c k).bytes.toList) seg (stgGet c k).scales.toList

section LdatCore
variable (c : Core) (an : BitVec 3) (post : Bool) (as : List Nat) {k r w n : Nat}

@[simp] theorem ldatCore_pc : (ldatCore c an post as k r w n).pc = c.pc := by simp [ldatCore]
@[simp] theorem ldatCore_sram : (ldatCore c an post as k r w n).sram = c.sram := by simp [ldatCore]
@[simp] theorem ldatCore_x : (ldatCore c an post as k r w n).x = c.x := consume_x _ _

theorem stgGet_ldatCore (hk : k < 4) : stgGet (ldatCore c an post as k r w n) k =
    ⟨vecOf 1024 (fun p => (transposed c as r w n (stgGet c k).bytes.toList).getD p 0),
      vecOf 16 (fun g => (transposedPoison c as r w n (stgGet c k)).getD g false), (stgGet c k).scales, (stgGet c k).fill + 1⟩ := by
  rw [ldatCore, stgGet_stgFill _ hk, vecOf_toList]
  simp only [stgGet, consume_stg, agTake_stg]

theorem getElem?_bytes_ldatCore (hk : k < 4) (p : Nat) : (stgGet (ldatCore c an post as k r w n) k).bytes[p]? =
    (transposed c as r w n (stgGet c k).bytes.toList)[p]? := by
  rw [stgGet_ldatCore c an post as hk]
  exact getElem?_vecOf_getD (by simp [transposed]) p

end LdatCore

theorem exec_ldat {s : State} {i : Issue} {dst : BitVec 4} {an : BitVec 3} {post : Bool} {rows : BitVec 3} {xs : BitVec 5} {width : BitVec 2}
    {m1 : BitVec 6} {r : Nat} {as : List Nat} (h : Issues s i)
    (has : rowAddrs (agGet (issueCore s i) an).cursor.toNat (xget (issueCore s i) xs) (m1.toNat + 1) = as)
    (hdst : dst.toNat < 4) (hr : rowCode rows = some r) (hw : width ≠ 3) (hn : m1.toNat + 1 ≤ 1024 / (r * 2 ^ width.toNat))
    (ha : misaligned 8 as = false) (hm : ∀ a ∈ as, mayRead (issueCore s i) a (r * 2 ^ width.toNat) = true)
    (hbusy : tileBusy (issueCore s i) dst.toNat = false) (hs : Stands s i (.ldat i dst an post rows xs width m1)) :
    exec (.ldat i dst an post rows xs width m1) s = .next (completed s i
      (ldatCore (issueCore s i) an post as dst.toNat r (2 ^ width.toNat) (m1.toNat + 1)) ((issueCore s i).pc + 1)) := by
  refine tileIssue_next h (hs.spells rfl) ?_
  have hread : (as.any fun a => !mayRead (issueCore s i) a (r * 2 ^ width.toNat)) = false := by simpa using hm
  have hdst4 : ¬4 ≤ dst.toNat := by omega
  dsimp only
  rw [hr]
  dsimp only
  rw [agTake_fst, has]
  exact fill_done (d := ldatCore ..) (by simpa [hdst4, ha, hread] using ⟨hw, hn⟩) hbusy (ldatCore_pc ..)

/-- Settles O10: a load fills its register or its tile, and what the tile then holds is read row by row. -/
theorem loadsFillRegistersAndTiles : Obligations.LoadsFillRegistersAndTiles := by
  unfold Obligations.LoadsFillRegistersAndTiles
  intro s i h
  refine ⟨fun an post exp rows xs ap ppost => exec_lda_xreg h, fun dst an post exp rows xs ap ppost r => ?_,
    fun dst an post rows xs width m1 r => ?_⟩
  · intro c1 pa as len d t hdst hr hbad ha hm hp hbusy
    refine ⟨fun hs => exec_lda_tile h rfl rfl rfl hdst hr hbad ha hm hp hbusy hs rfl rfl, ?_⟩
    rintro rfl
    exact expandTile_plain (issueCore s i) as (rowCode_mul hr) (length_rowAddrs ..) _ _ _ _
  · intro w n as old hdst hr hw hn ha hm hbusy hs
    have hfit : n * w ≤ 1024 / r := by
      rwa [← Nat.div_div_eq_div_mul, Nat.le_div_iff_mul_le (Nat.two_pow_pos _)] at hn
    refine ⟨_, exec_ldat h rfl hdst hr hw hn ha hm hbusy hs, ldatCore_sram .., ldatCore_x .., ?_, ?_, fun k j b hk hj hb => ?_, fun p hp => ?_⟩
    · rw [stgGet_ldatCore _ _ _ _ hdst]
    · rw [stgGet_ldatCore _ _ _ _ hdst]
    · rw [getElem?_bytes_ldatCore _ _ _ _ hdst]
      exact getElem?_transposed _ _ (Vector.length_toList ..) (rowCode_mul hr) hfit hk hj hb
    · rw [getElem?_bytes_ldatCore _ _ _ _ hdst, getElem?_transposed_other _ _ hp]
      exact Vector.getElem?_toList ..

end Sys2Proof.Machine

/-! SUPPORT and PROOFS. STV, ACCOUT, INDEX_2_4 and ZERO_MAP (07_tile_programs.md R171, R172, R179; 05_matrix_array.md R133; 08_activation_sparsity.md
R199, R206): where each completes, the bits of a zero map, and O11. -/

namespace Sys2Proof.Machine

/-! ### Bits of a mask -/

theorem maskOf_succ (n : Nat) (p : Nat → Bool) : maskOf (n + 1) p = if p n then maskOf n p + 2 ^ n else maskOf n p := by
  simp [maskOf, List.range_succ]

theorem maskOf_lt (n : Nat) (p : Nat → Bool) : maskOf n p < 2 ^ n := by
  induction n with
  | zero => exact Nat.one_pos
  | succ n ih =>
    rw [maskOf_succ, Nat.pow_succ]
    split <;> omega

theorem testBit_maskOf (n : Nat) (p : Nat → Bool) {j : Nat} (hj : j < n) : (maskOf n p).testBit j = p j := by
  induction n with
  | zero => exact absurd hj (Nat.not_lt_zero j)
  | succ n ih =>
    have hlt := maskOf_lt n p
    rw [maskOf_succ]
    rcases Nat.lt_succ_iff_lt_or_eq.mp hj with hj | rfl
    · rw [← ih hj]
      split
      · rw [Nat.add_comm, Nat.testBit_two_pow_add_gt hj]
      · rfl
    · cases hp : p j
      · simp [Nat.testBit_lt_two_pow hlt]
      · rw [if_pos rfl, Nat.add_comm, Nat.testBit_two_pow_add_eq, Nat.testBit_lt_two_pow hlt]
        rfl

theorem zeroMapOf_lt (t : Staging) : zeroMapOf t < 256 ^ 8 := by
  unfold zeroMapOf
  split
  · decide
  · exact (maskOf_lt 64 _).trans_eq (by norm_num)

/-- Bit `j` of a zero map (R206). -/
theorem testBit_zeroMapOf (t : Staging) {j : Nat} (hj : j < 64) : (zeroMapOf t).testBit j = true ↔
    (∃ g, g < 16 ∧ t.bytes[64 * g + j]?.getD 0 ≠ 0) ∨ true ∈ t.poison.toList := by
  have hany : t.poison.toList.any id = true ↔ true ∈ t.poison.toList := by
    rw [List.any_eq_true]
    exact ⟨fun ⟨x, hx, he⟩ => (show x = true from he) ▸ hx, fun ht => ⟨true, ht, rfl⟩⟩
  unfold zeroMapOf
  by_cases hp : true ∈ t.poison.toList
  · rw [if_pos (hany.mpr hp), Nat.testBit_two_pow_sub_one, decide_eq_true hj]
    exact iff_of_true rfl (.inr hp)
  · rw [if_neg (hp ∘ hany.mp), testBit_maskOf _ _ hj, or_iff_left hp, List.any_eq_true]
    simp

/-! ### Where each completes -/

@[simp] theorem writeSegs_pc (c : Core) (as : List Nat) (seg : Nat → List Byte × Bool) : (writeSegs c as seg).pc = c.pc :=
  List.foldlRecOn (motive := fun d : Core => d.pc = c.pc) (List.range as.length) _ rfl fun _ h _ _ => h

section Stores
variable {s : State} {i : Issue} (h : Issues s i)
include h

theorem exec_stv_xreg {an : BitVec 3} {post : Bool} {xs : BitVec 5} (ha : (agGet (issueCore s i) an).cursor.toNat % 4 = 0)
    (hm : mayWrite (issueCore s i) (agGet (issueCore s i) an).cursor.toNat 4 = true) (hs : Stands s i (.stv i 4 an post xs)) :
    exec (.stv i 4 an post xs) s = .next (completed s i (sramWrite (agTake (issueCore s i) an post).2
      (agGet (issueCore s i) an).cursor.toNat (leBytes 4 (xget (issueCore s i) xs).toNat) false) ((issueCore s i).pc + 1)) := by
  refine tileIssue_unlessExc h hs rfl (if_pos rfl) ?_ rfl
  simp [ha, hm]

section Segments
variable {xs : BitVec 5} {as : List Nat} (hal : misaligned 64 as = false) (hm : ∀ a ∈ as, mayWrite (issueCore s i) a 64 = true)
include hal hm

/-- STV of a tile. -/
theorem exec_stv_tile {src : BitVec 4} {an : BitVec 3} {post : Bool}
    (has : rowAddrs (agGet (issueCore s i) an).cursor.toNat (xget (issueCore s i) xs) 16 = as) (hsrc : src.toNat < 4)
    (hs : Stands s i (.stv i src an post xs)) : exec (.stv i src an post xs) s = .next (completed s i
      (writeSegs (agTake (issueCore s i) an post).2 as fun k => (slice (stgGet (issueCore s i) src.toNat).bytes.toList (64 * k) 64,
        (stgGet (issueCore s i) src.toNat).poison[k]?.getD false)) ((issueCore s i).pc + 1)) := by
  have hsrc5 : ¬5 ≤ src.toNat := by omega
  refine tileIssue_next h (hs.spells rfl) ?_
  dsimp only
  rw [if_neg hsrc.ne, agTake_fst, has, unlessExc_of (firstExc_none (by simpa [hsrc5, hal] using hm))]
  exact TOut.next_eq (writeSegs_pc ..)

/-- ACCOUT of words that agree with their parity bits (R133). -/
theorem exec_accout {acc : BitVec 2} {ad : BitVec 3} {post : Bool}
    (has : rowAddrs (agGet (issueCore s i) ad).cursor.toNat (xget (issueCore s i) xs) 16 = as) (ho : namesOpen (issueCore s i) acc = false)
    (hp : parityBad (accGet (issueCore s i) acc) 256 = false) (hs : Stands s i (.accout i acc ad post xs false)) :
    exec (.accout i acc ad post xs false) s = .next (completed s i
      (consume (writeSegs (agTake (issueCore s i) ad post).2 as fun k =>
        ((List.range 16).flatMap (fun w => leBytes 4 ((accGet (issueCore s i) acc).words[16 * k + w]?.getD 0).toNat),
          (accGet (issueCore s i) acc).poison)) (accGet (issueCore s i) acc).poison) ((issueCore s i).pc + 1)) := by
  have hread := readParity_of_good s (agTake (issueCore s i) ad post).2 acc 256 hp
  refine tileIssue_next h (hs.spells rfl) ?_
  dsimp only
  rw [agTake_fst, has, hread, unlessExc_of (firstExc_none (by simpa [ho, hal] using hm))]
  exact TOut.next_eq ((consume_pc ..).trans (writeSegs_pc ..))

end Segments

/-- INDEX_2_4 on an engine with compaction engines (R199). -/
theorem exec_index24 (hv : s.variant = .x) {asel ixsel : Bool} (hs : Stands s i (.index24 i asel ixsel)) :
    exec (.index24 i asel ixsel) s = .next (completed s i (ixPut (issueCore s i) ixsel (buildIndex (issueCore s i) asel))
      ((issueCore s i).pc + 1)) :=
  tileIssue_unlessExc h hs rfl rfl (by simp [hv]) rfl

section ZeroMap
variable (hv : s.variant = .x) {asel : Bool} {ad : BitVec 3} {post : Bool} {a : Nat} (hat : (agGet (issueCore s i) ad).cursor.toNat / 8 * 8 = a)
  (hs : Stands s i (.zeroMap i asel ad post))
include hv hat hs

theorem exec_zeroMap (hm : mayWrite (issueCore s i) a 8 = true) : exec (.zeroMap i asel ad post) s = .next (completed s i
    (sramWrite (agTake (issueCore s i) ad post).2 a (leBytes 8 (zeroMapOf (stgGet (issueCore s i) (if asel then 1 else 0)))) false)
      ((issueCore s i).pc + 1)) := by
  subst hat
  exact tileIssue_unlessExc h hs rfl rfl (by simp [hv, hm]) rfl

/-- A ZERO_MAP that may not write at its address raises SRAM_REGION. -/
theorem exec_zeroMap_region (hm : mayWrite (issueCore s i) a 8 = false) : exec (.zeroMap i asel ad post) s =
    .next (takeException s i.core (issueCore s i) excSramRegion (issueCore s i).pc 0 []) := by
  subst hat
  refine congrArg Host.Outcome.next (tileIssue_exc h (hs.spells rfl) ?_)
  dsimp only
  rw [hv, agTake_fst, hm]
  rfl

end ZeroMap

end Stores

/-- Without compaction engines, their instructions raise UNIT_ABSENT before all else (R3, R169). -/
theorem unitAbsent_taken {s : State} {i : Issue} {o : Instr} {word : Nat} {mine : Wait → Bool} {body : Core → State → TOut}
    {conds : List (Bool × Nat)} {k : TOut} (h : Issues s i) (hv : s.variant = .l) (hw : instrWord o = some word)
    (hb : body (issueCore s i) s = unlessExc ((s.variant == .l, excUnitAbsent) :: conds) k) (hs : Stands s i o) :
    (Host.Outcome.next (tileIssue i word mine body s) : Host.Outcome State Fault Refusal) =
      .next (takeException s i.core (issueCore s i) excUnitAbsent (issueCore s i).pc 0 []) :=
  congrArg Host.Outcome.next (tileIssue_exc h (hs.spells hw) (hb.trans (unlessExc_first (by rw [hv]; rfl) ..)))

/-- Settles O11: each store completes with its writes, and a zero map is a mask of 64 bits stored whole. -/
theorem storesWriteSegments : Obligations.StoresWriteSegments := by
  unfold Obligations.StoresWriteSegments
  refine ⟨fun s i h => ⟨fun an post xs => exec_stv_xreg h, fun src an post xs => ?_, fun acc ad post xs => ?_, fun hv => ?_, fun hv => ?_⟩,
    fun s i asel ad post h hv => ⟨fun hm hs => exec_zeroMap_region h hv rfl hs hm, fun hm hs => ?_⟩⟩
  · exact fun hsrc hal hm => exec_stv_tile h hal hm rfl hsrc
  · exact fun ho hp hal hm => exec_accout h hal hm rfl ho hp
  · exact ⟨fun asel ixsel => exec_index24 h hv, fun asel ad post hm hs => exec_zeroMap h hv rfl hs hm⟩
  · exact fun asel ixsel ad post m drop f => ⟨unitAbsent_taken h hv rfl rfl, unitAbsent_taken h hv rfl rfl, unitAbsent_taken h hv rfl rfl⟩
  · refine ⟨_, exec_zeroMap h hv rfl hs hm, fun j hj => ?_, fun b hb => ?_, rfl, rfl, rfl, rfl⟩
    · rw [sramRead_sramWrite_of_length _ _ _ _ _ (length_leBytes ..), leNat_leBytes, Nat.mod_eq_of_lt (zeroMapOf_lt _)]
      exact testBit_zeroMapOf _ hj
    · exact memRead_store_other _ _ _ _ (by rwa [length_leBytes])

end Sys2Proof.Machine

/-! SUPPORT and PROOFS. SEND, RECV and CHK (07_tile_programs.md R171, R173, R174, R177, R181, R182, R188): where each completes, holds or waits, and
O12. -/

namespace Sys2Proof.Machine

/-! ### SEND (R174, R181) -/

/-- The flits of a block of SRAM, and the check trailer where one is asked. -/
def sendData (c : Core) (a n : Nat) : List Flit := (List.range n).map fun k => ⟨sramRead c (a + 64 * k) 64, sramPoisoned c (a + 64 * k) 64⟩

def sendTail (c : Core) (trailer : Bool) (xq : BitVec 5) (a n : Nat) : List Flit :=
  if trailer then [⟨trailerOf (xget c xq) (sramRead c a (64 * n)), false⟩] else []

section Send
variable {s : State} {i : Issue} {m1 : BitVec 6} {vc : BitVec 2} {trailer : Bool} {xq xh : BitVec 5} {a : Nat} {hdr : W64}
  (hvc : vc ≠ 0) (hodd : xodd xh = false) (hlen : m1.toNat + 1 + b2n trailer ≤ 64) (ha : a % 64 = 0)
  (hm : mayRead (issueCore s i) a (64 * (m1.toNat + 1)) = true) (hh : headerRefused s hdr vc.toNat = false)
include hvc hodd hlen ha hm hh

/-- A SEND on VC1 to VC3 of an aligned, readable block with an accepted header raises no exception. -/
theorem unlessExc_send (k : TOut) : unlessExc
    [(vc == 0 || xodd xh || decide (64 < m1.toNat + 1 + b2n trailer), excIllegalOperand), (a % 64 != 0, excAlignment),
      (!mayRead (issueCore s i) a (64 * (m1.toNat + 1)), excSramRegion), (headerRefused s hdr vc.toNat, excSendRefused)] k = k :=
  unlessExc_of (firstExc_none (by simpa [hodd, hlen, ha, hm, hh] using hvc))

variable (h : Issues s i) {an : BitVec 3} {post : Bool} (hat : (agGet (issueCore s i) an).cursor.toNat = a)
  (hhdr : withLength (xpair (issueCore s i) xh) (m1.toNat + 1 + b2n trailer) = hdr) (hs : Stands s i (.send i an post m1 vc trailer xq xh))
include h hat hhdr hs

/-- SEND stays at issue while the send port holds a packet behind the one that it sends. -/
theorem exec_send_hold (hp : 2 ≤ sendsHeld s i.core) : exec (.send i an post m1 vc trailer xq xh) s = .next s := by
  subst hat hhdr
  exact congrArg Host.Outcome.next (tileIssue_hold h (hs.spells rfl) ((unlessExc_send hvc hodd hlen ha hm hh _).trans (if_pos hp)))

theorem exec_send (hp : sendsHeld s i.core < 2) : exec (.send i an post m1 vc trailer xq xh) s = .next (completed
    (inject s i.core ⟨hdr, vc, sendData (issueCore s i) a (m1.toNat + 1) ++ sendTail (issueCore s i) trailer xq a (m1.toNat + 1)⟩) i
      (consume (agTake (issueCore s i) an post).2 (anyPoison (sendData (issueCore s i) a (m1.toNat + 1)))) ((issueCore s i).pc + 1)) := by
  subst hat hhdr
  exact tileIssue_next h (hs.spells rfl)
    ((unlessExc_send hvc hodd hlen ha hm hh _).trans ((if_neg (Nat.not_le.mpr hp)).trans (TOut.next_eq (consume_pc ..))))

end Send

/-! ### RECV (R182) -/

section Recv
variable {s : State} {i : Issue} (h : Issues s i) {ring dst exp rows : BitVec 3} {m1 : BitVec 6}
  (hring : ringPages (issueCore s i) ring.toNat ≠ 0)
include h hring

/-- RECV SKIP leaves the flits out (R182). -/
theorem exec_recv_skip (hheld : m1.toNat + 1 ≤ ringHeld (issueCore s i) ring.toNat) (hs : Stands s i (.recv i ring 4 exp rows m1)) :
    exec (.recv i ring 4 exp rows m1) s =
      .next (completed s i (ringAdvance (issueCore s i) ring.toNat (m1.toNat + 1)) ((issueCore s i).pc + 1)) := by
  refine tileIssue_next h (hs.spells rfl) ((unlessExc_of (firstExc_none ?_)).trans ((if_neg (Nat.not_lt.mpr hheld)).trans (if_pos rfl)))
  simp [hring]

theorem exec_recv_skip_waits (hheld : ringHeld (issueCore s i) ring.toNat < m1.toNat + 1) (hs : Stands s i (.recv i ring 4 exp rows m1)) :
    exec (.recv i ring 4 exp rows m1) s =
      .next (setCore s i.core { issueCore s i with st := .waiting, wait := some (.ring ring.toNat (m1.toNat + 1)) }) := by
  refine congrArg Host.Outcome.next (tileIssue_wait h (hs.spells rfl) ((unlessExc_of (firstExc_none ?_)).trans (if_pos hheld)))
  simp [hring]

/-- RECV into a tile takes the flits at the read pointer. -/
theorem exec_recv_tile {need : Nat} (hneed : packedSize exp.toNat / 64 + b2n (exp != 0) = need) (hdst : dst.toNat < 4) (hrows : rowCode rows ≠ none)
    (hbad : expandBad (issueCore s i) exp rows = false) (hheld : need ≤ ringHeld (issueCore s i) ring.toNat)
    (hbusy : tileBusy (issueCore s i) dst.toNat = false) (hs : Stands s i (.recv i ring dst exp rows 0))
    {fs data : List (List Byte × Bool)} {param : List Byte × Bool} {t : List Byte × List Bool × List Byte}
    (hfs : ringFlits (issueCore s i) ring.toNat need = fs) (hparam : (if exp = 0 then ([], false) else fs.headD ([], false)) = param)
    (hdata : (if exp = 0 then fs else fs.drop 1) = data)
    (ht : expandTile exp.toNat param.1 (wholePoison (issueCore s i) exp param.2) (tables (issueCore s i)) (data.flatMap Prod.fst)
      (data.flatMap fun f => List.replicate 64 f.2) = t) :
    exec (.recv i ring dst exp rows 0) s = .next (completed s i
      (stgFill (consume (ringAdvance (issueCore s i) ring.toNat need) (t.2.1.any id)) dst.toNat t.1 t.2.1 t.2.2) ((issueCore s i).pc + 1)) := by
  subst hneed hfs hparam hdata ht
  have hskip : (dst.toNat == 4) = false := beq_eq_false_iff_ne.mpr hdst.ne
  have hdst5 : ¬5 ≤ dst.toNat := by omega
  refine tileIssue_next h (hs.spells rfl) ?_
  dsimp only
  rw [hskip]
  refine (unlessExc_of (firstExc_none ?_)).trans ((if_neg (Nat.not_lt.mpr hheld)).trans ((if_neg Bool.false_ne_true).trans ?_))
  · simpa [hring, hdst5, hbad] using Option.isSome_iff_ne_none.mpr hrows
  · rw [hbusy]
    exact TOut.next_eq (consume_pc ..)

end Recv

/-! ### CHK (R188) -/

/-- The payload of a block of `n` lines and a trailer. -/
def chkPayload (c : Core) (ls : List Nat) (n : Nat) : List Byte := (ls.take n).flatMap fun l => sramRead c l 64

/-- What CHK of the lines `ls` makes of the core `d`, reading `c`: 2 on poison, else 0 where the trailer holds, else 1 with its poison. -/
def chkCore (c d : Core) (ls : List Nat) (n : Nat) (xq xd : BitVec 5) (poison : Bool) : Core :=
  if ls.any (fun l => sramPoisoned c l 64) then xset (consume d true) xd 2
  else if crc32c (leBytes 4 (xget c xq).toNat ++ chkPayload c ls n) = field (sramRead c (ls.getD n 0) 64) 0 4 then xset d xd 0
  else xset (if poison then { d with poisonLines := (ls.take n).foldl (fun ps l => nsIns (l / 64) ps) d.poisonLines } else d) xd 1

section ChkCore
variable (c d : Core) (ls : List Nat) (n : Nat) (xq xd : BitVec 5) (poison : Bool)

/-- A register written, poison noted, and lines poisoned leave the program counter, the rings and the SRAM. -/
theorem chkCore_same : (chkCore c d ls n xq xd poison).pc = d.pc ∧ (chkCore c d ls n xq xd poison).ringRd = d.ringRd ∧
    (chkCore c d ls n xq xd poison).ringWr = d.ringWr ∧ (chkCore c d ls n xq xd poison).sram = d.sram := by
  have hx (e : Core) (v : W32) : (xset e xd v).pc = e.pc ∧ (xset e xd v).ringRd = e.ringRd ∧ (xset e xd v).ringWr = e.ringWr ∧
      (xset e xd v).sram = e.sram := by
    unfold xset
    split <;> exact ⟨rfl, rfl, rfl, rfl⟩
  unfold chkCore
  split
  · exact hx _ 2
  · split
    · exact hx d 0
    · cases poison
      · exact hx d 1
      · exact hx _ 1

/-- The answer of CHK's body on lines that it may read. -/
theorem chk_answers (s : State) {bad : Bool} (hbad : ls.any (fun l => sramPoisoned c l 64) = bad) :
    (if bad then TOut.next s (xset (consume d bad) xd 2)
    else if crc32c (leBytes 4 (xget c xq).toNat ++ chkPayload c ls n) = field (sramRead c (ls.getD n 0) 64) 0 4 then
      .next s (xset (consume d bad) xd 0)
    else if poison then
      .next s (xset { consume d bad with poisonLines := (ls.take n).foldl (fun ps l => nsIns (l / 64) ps) (consume d bad).poisonLines } xd 1)
    else .next s (xset (consume d bad) xd 1)) = .next s (chkCore c d ls n xq xd poison) := by
  unfold chkCore
  rw [hbad]
  cases bad
  · rw [if_neg Bool.false_ne_true, if_neg Bool.false_ne_true]
    split
    · rfl
    · cases poison <;> rfl
  · rfl

end ChkCore

section Chk
variable {s : State} {i : Issue} (h : Issues s i) {q : BitVec 3} {post : Bool} {m1 : BitVec 6} {xq xd : BitVec 5} {poison : Bool}
include h

theorem exec_chk_sram (ha : (agGet (issueCore s i) q).cursor.toNat % 64 = 0)
    (hm : mayRead (issueCore s i) (agGet (issueCore s i) q).cursor.toNat (64 * (m1.toNat + 1 + 1)) = true)
    (hs : Stands s i (.chk i false q post m1 xq xd poison)) : exec (.chk i false q post m1 xq xd poison) s = .next (completed s i
      (chkCore (issueCore s i) (agTake (issueCore s i) q post).2
        ((List.range (m1.toNat + 1 + 1)).map fun k => (agGet (issueCore s i) q).cursor.toNat + 64 * k) (m1.toNat + 1) xq xd poison)
      ((issueCore s i).pc + 1)) := by
  refine tileIssue_next h (hs.spells rfl) ((unlessExc_of (firstExc_none ?_)).trans
    ((if_neg Bool.false_ne_true).trans ((chk_answers _ _ _ _ _ _ _ s rfl).trans (TOut.next_eq (chkCore_same ..).1))))
  simp [ha, hm]

section Ring
variable (hring : ringPages (issueCore s i) q.toNat ≠ 0)
include hring

theorem exec_chk_ring (hheld : m1.toNat + 1 + 1 ≤ ringHeld (issueCore s i) q.toNat) (hs : Stands s i (.chk i true q post m1 xq xd poison)) :
    exec (.chk i true q post m1 xq xd poison) s = .next (completed s i
      (chkCore (issueCore s i) (issueCore s i) (chkLines (issueCore s i) true q.toNat 0 (m1.toNat + 1)) (m1.toNat + 1) xq xd poison)
      ((issueCore s i).pc + 1)) := by
  refine tileIssue_next h (hs.spells rfl) ((unlessExc_of (firstExc_none ?_)).trans
    ((if_neg ?_).trans ((chk_answers _ _ _ _ _ _ _ s rfl).trans (TOut.next_eq (chkCore_same ..).1))))
  · simp [hring]
  · simpa using hheld

/-- CHK of a ring that holds too few flits waits for them (R177). -/
theorem exec_chk_ring_waits (hheld : ringHeld (issueCore s i) q.toNat < m1.toNat + 1 + 1) (hs : Stands s i (.chk i true q post m1 xq xd poison)) :
    exec (.chk i true q post m1 xq xd poison) s =
      .next (setCore s i.core { issueCore s i with st := .waiting, wait := some (.ring q.toNat (m1.toNat + 1 + 1)) }) := by
  refine congrArg Host.Outcome.next (tileIssue_wait h (hs.spells rfl) ((unlessExc_of (firstExc_none ?_)).trans (if_pos ?_)))
  · simp [hring]
  · simpa using hheld

end Ring

end Chk

/-- Settles O12: SEND by what its send port holds, RECV and CHK by what their ring holds, and CHK of SRAM by poison and the check value. -/
theorem sendReceiveCheckComplete : Obligations.SendReceiveCheckComplete := by
  unfold Obligations.SendReceiveCheckComplete
  intro s i h
  refine ⟨fun an post m1 vc trailer xq xh => ?_, fun ring exp rows m1 hring hheld => exec_recv_skip h hring hheld,
    fun ring exp rows m1 hring hheld => exec_recv_skip_waits h hring hheld, fun ring dst exp rows => ?_,
    fun an post m1 xq xd poison => ?_, fun ring post m1 xq xd poison => ?_⟩
  · intro a n hdr data tail hvc hodd hlen ha hm hh
    exact ⟨fun hp hs => exec_send_hold hvc hodd hlen ha hm hh h rfl rfl hs hp, fun hp hs => exec_send hvc hodd hlen ha hm hh h rfl rfl hs hp⟩
  · intro need fs param data t hring hdst hrows hbad hheld hbusy hs
    exact exec_recv_tile h hring rfl hdst hrows hbad hheld hbusy hs rfl rfl rfl rfl
  · intro a n c1 ls payload good ha hm
    have hexec := fun hs => exec_chk_sram (xq := xq) (xd := xd) (poison := poison) (post := post) h ha hm hs
    have htrailer : ls.getD n 0 = a + 64 * n := by simp [ls]
    refine ⟨fun hp hs => ?_, fun hp hg hs => ?_, fun hp hg hs => ?_⟩
    · rw [hexec hs, chkCore, if_pos hp]
    · rw [hexec hs, chkCore, if_neg (by rw [hp]; decide), if_pos]
      rw [htrailer]
      exact hg
    · rw [hexec hs, chkCore, if_neg (by rw [hp]; decide), if_neg]
      rw [htrailer]
      exact hg
  · intro n hring
    obtain ⟨-, hrd, hwr, hsram⟩ := chkCore_same (issueCore s i) (issueCore s i) (chkLines (issueCore s i) true ring.toNat 0 n) n xq xd poison
    exact ⟨fun hheld => exec_chk_ring_waits h hring hheld, fun hheld hs => ⟨_, exec_chk_ring h hring hheld hs, hrd, hwr, hsram⟩⟩

end Sys2Proof.Machine


/-! PROOFS. The trimmed streams (08_activation_sparsity.md R209, R215; 12_streams_memory.md R294, R297), and O47 refuted: the statement takes
TRIMMED_TILE_SEND at every number of a stream engine, and what a read of stack 5,120 counts has the key of what the tile counts. -/

namespace Sys2Proof.Machine

/-- FRAMES_RETIRED of a stack number beyond the dictionary's sixteen has the key of a sparse layer entry's ROWS_TOTAL. -/
theorem msFramesRetired_eq_layerRowsTotal : Key.msFramesRetired 5120 = Key.layerRowsTotal 0 := rfl

/-- A trimmed descriptor of layer entry 0, its one run of one flit granted. -/
def strayTile : Desc :=
  ⟨leBytes 14 0x1000 ++ leBytes 2 1 ++ leBytes 8 0 ++ leBytes 4 64 ++ leBytes 4 1 ++ leBytes 32 0, 0, 1, [], 0, 0, false, false, 0⟩

/-- The engine at reset with that descriptor in queue 0 of stream engine 10,240, which would stand at stack 5,120. -/
def strayStream : State := setQueue State.reset 10240 0 { Queue.default with current := some strayTile }

/-- An uncorrectable error of the first line of stack 5,120. -/
def strayErrors : StackErrs := ⟨[], [5120 * 2 ^ 31], 0⟩

theorem strayStream_ready : tileReady strayStream 10240 0 = some strayTile := by decide +kernel

/-- The frame that the error retires is counted under the key that then counts the row sent. -/
theorem strayStream_framesRetired {t : State} (h : exec (.trimmedTileSend 10240 0 0 strayErrors) strayStream = .next t) :
    getN t (Key.msFramesRetired 5120) = 2 := by
  obtain rfl := Host.Outcome.next.inj h
  decide +kernel

/-- Refutes O47: a tile of one row sent while its read meets an uncorrectable error adds two to ROWS_TOTAL of its entry, at a stream engine whose
stack counts its retired frames under that key. -/
theorem not_grantsTrimsAndScrubs : ¬ Obligations.GrantsTrimsAndScrubs := by
  unfold Obligations.GrantsTrimsAndScrubs
  rintro ⟨-, -, hsend, -⟩
  obtain ⟨t, ht, -, htotal, -⟩ := (hsend strayStream 10240 0 0 strayErrors strayTile strayStream_ready).1 (by decide +kernel)
  have hone : getN t (Key.layerRowsTotal 0) = 1 := htotal.trans (by decide +kernel)
  have htwo := strayStream_framesRetired ht
  rw [msFramesRetired_eq_layerRowsTotal, hone] at htwo
  exact absurd htwo (by decide)

end Sys2Proof.Machine


/-! SUPPORT. The stream queues (12_streams_memory.md R306, R310, R317, R318): what an arm, a completion and an inbound run leave of them. -/

namespace Sys2Proof.Machine

/-! ### One queue written (R317) -/

section Queues
variable {s t : State} {se q : Nat} {v : Queue}

theorem getQueue_of_queues (h : t.streams.queues = s.streams.queues) (i j : Nat) : getQueue t i j = getQueue s i j := by
  rw [getQueue, h, getQueue]

@[simp] theorem getQueue_setQueue_same (s : State) (se q : Nat) (v : Queue) : getQueue (setQueue s se q v) se q = v := amGet_put_same ..

theorem getQueue_setQueue_other {e : Nat} (h : e ≠ q) : getQueue (setQueue s se q v) se e = getQueue s se e :=
  amGet_put_other _ _ _ _ _ (by simp only [queueKey]; omega)

@[simp] theorem setQueue_stk (s : State) (se q : Nat) (v : Queue) : (setQueue s se q v).stk = s.stk := rfl
@[simp] theorem setQueue_stp (s : State) (se q : Nat) (v : Queue) : (setQueue s se q v).stp = s.stp := rfl

@[simp] theorem getQueue_refreshSe (s : State) (se i j : Nat) : getQueue (refreshSe s se) i j = getQueue s i j :=
  getQueue_of_queues (by simp [refreshSe]) i j
@[simp] theorem refreshSe_stk (s : State) (se : Nat) : (refreshSe s se).stk = s.stk := by simp [refreshSe]
@[simp] theorem refreshSe_stp (s : State) (se : Nat) : (refreshSe s se).stp = s.stp := by simp [refreshSe]
@[simp] theorem refreshSe_out (s : State) (se : Nat) : (refreshSe s se).out = s.out := by simp [refreshSe]

/-- A stream engine with a CURRENT in one of its queues is busy (R324). -/
theorem getN_refreshSe_busy (hq : q < 32) (h : (getQueue s se q).current.isSome = true) : getN (refreshSe s se) (Key.seState se) = 1 := by
  have hany : (List.range 32).any (fun q => (getQueue s se q).current.isSome) = true := List.any_eq_true.mpr ⟨q, List.mem_range.mpr hq, h⟩
  rw [refreshSe, getN_setN_same, hany]
  rfl

@[simp] theorem getQueue_beginTrim (s : State) (se : Nat) (d : Desc) (i j : Nat) : getQueue (beginTrim s se d) i j = getQueue s i j := by
  unfold beginTrim; split <;> rfl
@[simp] theorem beginTrim_stk (s : State) (se : Nat) (d : Desc) : (beginTrim s se d).stk = s.stk := by unfold beginTrim; split <;> rfl
@[simp] theorem beginTrim_out (s : State) (se : Nat) (d : Desc) : (beginTrim s se d).out = s.out := by unfold beginTrim; split <;> rfl

end Queues

/-! ### An arm (R317) -/

theorem dsQueue_lt (b : List Byte) : dsQueue b < 32 := Nat.mod_lt _ (by decide)

/-- What an accepted arm leaves: the descriptor as CURRENT, or as SHADOW while CURRENT is held, and the other queues of the engine. -/
def Armed (s : State) (se : Nat) (b : List Byte) (t : State) : Prop :=
  let q := getQueue s se (dsQueue b)
  (q.current = none → getQueue t se (dsQueue b) = { q with current := some (newDesc b (q.gen + 1)), gen := q.gen + 1, tile := 0 } ∧
    getN t (Key.seState se) = 1) ∧
  (q.current ≠ none → getQueue t se (dsQueue b) = { q with shadow := some (newDesc b (q.gen + 1)), gen := q.gen + 1 }) ∧
  (∀ e, e ≠ dsQueue b → e < 32 → getQueue t se e = getQueue s se e) ∧ t.stk = s.stk

section Arm
variable {s : State} {se : Nat} {b : List Byte} (done : List Nat)

theorem armFrom_free (h : (getQueue s se (dsQueue b)).current = none) :
    let q := getQueue s se (dsQueue b)
    let d := { newDesc b (q.gen + 1) with done := done }
    armFrom s se b done = refreshSe (beginTrim (setQueue s se (dsQueue b) { q with current := some d, gen := q.gen + 1, tile := 0 }) se d) se := by
  simp [armFrom, h]

theorem armFrom_held (h : (getQueue s se (dsQueue b)).current ≠ none) :
    let q := getQueue s se (dsQueue b)
    armFrom s se b done = setQueue s se (dsQueue b) { q with shadow := some { newDesc b (q.gen + 1) with done := done }, gen := q.gen + 1 } := by
  simp [armFrom, h]

theorem armed_armDesc (s : State) (se : Nat) (b : List Byte) : Armed s se b (armDesc s se b) := by
  by_cases hc : (getQueue s se (dsQueue b)).current = none
  · rw [armDesc, armFrom_free [] hc]
    refine ⟨fun _ => ⟨?_, getN_refreshSe_busy (dsQueue_lt b) ?_⟩, fun h => absurd hc h, fun e he _ => ?_, ?_⟩
    · simp [newDesc]
    · simp
    · simp [getQueue_setQueue_other he]
    · simp
  · rw [armDesc, armFrom_held [] hc]
    exact ⟨fun h => absurd h hc, fun _ => getQueue_setQueue_same .., fun e he _ => getQueue_setQueue_other he, rfl⟩

theorem armFrom_out (s : State) (se : Nat) (b : List Byte) : (armFrom s se b done).out = s.out := by
  by_cases hc : (getQueue s se (dsQueue b)).current = none
  · simp [armFrom_free done hc, setQueue]
  · rw [armFrom_held done hc]
    rfl

theorem armCheck_ok (hv : descOk s se b = true) (hr : canArm s se b = true) : armCheck se s b = stOk := by simp [armCheck, hv, hr]
theorem armCheck_full (hv : descOk s se b = true) (hr : canArm s se b = false) : armCheck se s b = stQueueFull := by simp [armCheck, hv, hr]
theorem armCheck_bad (hv : descOk s se b = false) : armCheck se s b = stBadValue := by simp [armCheck, hv]

end Arm

section ArmWrite
variable {s : State} {se : Nat} {w : DReq} (hs : se < 32) (ha : AcceptedDom s (Key.seArm se) w)
include hs

theorem exec_arm : exec (.arm se w) s = .next (ownWriteDom s (Key.seArm se) w (armCheck se) fun s b => armDesc s se b) :=
  congrArg Host.Outcome.next (if_neg (Nat.not_le.mpr hs))

include ha

theorem exec_arm_done (h : armCheck se s w.bytes = stOk) :
    exec (.arm se w) s = .next (emit (armDesc s se w.bytes) (.objStatus (Key.seArm se) stOk)) := by
  rw [exec_arm hs, ownWriteDom_done ha h]

theorem exec_arm_refused {st : Nat} (h : armCheck se s w.bytes = st) (hst : st ≠ stOk) :
    exec (.arm se w) s = .next (emit s (.objStatus (Key.seArm se) st)) := by
  rw [exec_arm hs, ownWriteDom_refused ha h hst]

end ArmWrite

/-! ### ARM_PACKET (R306, R317) and CANCEL (R318) -/

/-- An ARM_PACKET that its engine takes: one clean flit that holds a valid descriptor, and room in its queue. -/
def ArmPacketGood (s : State) (se : Nat) (p : Packet) : Prop :=
  p.flits.length = 1 ∧ anyPoison p.flits = false ∧ descOk s se (flitBytes p.flits) = true ∧ canArm s se (flitBytes p.flits) = true

section ArmPacket
variable {s : State} {crescent endpoint se : Nat} {p : Packet} (he : endpointSe 0 crescent endpoint = some se) (hl : seLive s se = true)
include he hl

theorem exec_armPacket_good (h : ArmPacketGood s se p) : exec (.armPacket ⟨crescent, endpoint⟩ p) s = .next (armDesc s se (flitBytes p.flits)) := by
  obtain ⟨hn, hp, hv, hr⟩ := h
  change execArmPacket _ _ _ = _
  simp [execArmPacket, he, hl, hn, hp, hv, hr]

theorem exec_armPacket_bad (h : ¬ArmPacketGood s se p) :
    exec (.armPacket ⟨crescent, endpoint⟩ p) s = .next (raise (count64 s (Key.seArmsRefused se)) Key.streamFlags 1) := by
  have hbad : (p.flits.length != 1 || anyPoison p.flits || !descOk s se (flitBytes p.flits) || !canArm s se (flitBytes p.flits)) = true := by
    by_contra hc
    refine h ?_
    simpa [ArmPacketGood, and_assoc] using hc
  change execArmPacket _ _ _ = _
  simp only [execArmPacket, he, hl, hbad, Bool.not_true, if_true, if_false, Bool.false_eq_true]

end ArmPacket

theorem exec_cancel_done {s : State} {se : Nat} {w : WReq} (hs : se < 32) (ha : Accepted s (Key.seCancel se) w) :
    exec (.cancel se w) s = .next (emit (cancelEffect se s w.val) (.objStatus (Key.seCancel se) stOk)) :=
  congrArg Host.Outcome.next ((if_neg (Nat.not_le.mpr hs)).trans (ownWrite_done ha rfl))

/-! ### Completion (R311, R317): what is armed again leaves every completion word -/

/-- The stacks and the completion words stay. -/
structure WordsKept (s t : State) : Prop where
  stk : t.stk = s.stk
  word : ∀ i j, (getQueue t i j).completion = (getQueue s i j).completion

namespace WordsKept
variable {s t u : State} {se q : Nat}

theorem refl (s : State) : WordsKept s s := ⟨rfl, fun _ _ => rfl⟩

theorem trans (h : WordsKept s t) (g : WordsKept t u) : WordsKept s u := ⟨g.stk.trans h.stk, fun i j => (g.word i j).trans (h.word i j)⟩

theorem setQueue {v : Queue} (hv : v.completion = (getQueue s se q).completion) : WordsKept s (setQueue s se q v) where
  stk := rfl
  word i j := by
    by_cases hk : queueKey i j = queueKey se q
    · have hs : getQueue s i j = getQueue s se q := congrArg _ hk
      have ht : getQueue (Machine.setQueue s se q v) i j = v := by rw [getQueue, hk]; exact getQueue_setQueue_same s se q v
      rw [hs, ht, hv]
    · exact congrArg Queue.completion (amGet_put_other _ _ _ _ _ hk)

theorem beginTrim (s : State) (se : Nat) (d : Desc) : WordsKept s (beginTrim s se d) := ⟨by simp, by simp⟩

theorem refreshSe (s : State) (se : Nat) : WordsKept s (refreshSe s se) := ⟨by simp, by simp⟩

theorem armFrom (s : State) (se : Nat) (b : List Byte) (done : List Nat) : WordsKept s (armFrom s se b done) := by
  by_cases hc : (getQueue s se (dsQueue b)).current = none
  · rw [armFrom_free done hc]
    refine ((WordsKept.setQueue ?_).trans (.beginTrim _ _ _)).trans (.refreshSe _ _)
    rfl
  · rw [armFrom_held done hc]
    refine .setQueue ?_
    rfl

theorem armScheduled (s : State) (se : Nat) (b : List Byte) (done : List Nat) : WordsKept s (armScheduled s se b done) := by
  unfold Machine.armScheduled
  split
  · exact .armFrom _ _ _ _
  · exact ⟨rfl, fun _ _ => rfl⟩

theorem rearmReplayed (s : State) : WordsKept s (rearmReplayed s) := by
  unfold Machine.rearmReplayed
  exact List.foldlRecOn (motive := WordsKept s) _ _ ⟨rfl, fun _ _ => rfl⟩ fun _ ht _ _ => ht.trans (.armScheduled _ _ _ _)

end WordsKept

theorem getQueue_rearmReplayed_of_nil {s : State} (h : s.streams.rearm = []) (i j : Nat) : getQueue (rearmReplayed s) i j = getQueue s i j :=
  getQueue_of_queues (by simp [rearmReplayed, h]) i j

/-- The trimmed sets of a SHADOW that becomes CURRENT begun (R209, R211). -/
def shadowBegun (t : State) (se : Nat) : Option Desc → State
  | some n => beginTrim t se n
  | none => t

theorem shadowBegun_wordsKept (t : State) (se : Nat) (o : Option Desc) : WordsKept t (shadowBegun t se o) := by
  cases o with
  | none => exact .refl t
  | some n => exact .beginTrim t se n

@[simp] theorem getQueue_shadowBegun (t : State) (se : Nat) (o : Option Desc) (i j : Nat) : getQueue (shadowBegun t se o) i j = getQueue t i j := by
  cases o <;> simp [shadowBegun]

@[simp] theorem shadowBegun_stp (t : State) (se : Nat) (o : Option Desc) : (shadowBegun t se o).stp = t.stp := by
  cases o <;> simp [shadowBegun]

@[simp] theorem shadowBegun_rearm (t : State) (se : Nat) (o : Option Desc) : (shadowBegun t se o).streams.rearm = t.streams.rearm := by
  cases o with
  | none => rfl
  | some n => simp only [shadowBegun, beginTrim]; split <;> rfl

section NoteServed
variable (s : State) (se queue : Nat) (d : Desc)

@[simp] theorem noteServed_stk : (noteServed s se queue d).stk = s.stk := by simp only [noteServed]; split_ifs <;> rfl
@[simp] theorem noteServed_rearm : (noteServed s se queue d).streams.rearm = s.streams.rearm := by simp only [noteServed]; split_ifs <;> rfl

end NoteServed

/-- A mesh-to-stack descriptor of output gradients that ran to its end counts for its micro-batch (R227). -/
theorem mem_outGrads_noteServed {s : State} {se queue : Nat} {d : Desc} {p : Placement} {g : Nat × Nat × Nat} (hp : s.placement = some p)
    (hg : g ∈ p.gradients) (hse : g.1 = se) (hq : g.2.1 = queue) (hdir : dsDir d.bytes = 1) (hc : d.cancelled = false) :
    (queueKey se queue, dsSequence d.bytes) ∈ (noteServed s se queue d).stp.outGrads := by
  have hnamed : s.placement.any (fun p => p.gradients.any fun g => g.1 == se && g.2.1 == queue) = true := by
    rw [hp]
    exact List.any_eq_true.mpr ⟨g, hg, by simp [hse, hq]⟩
  simp [noteServed, hc, hdir, hnamed]

/-- The completion word of CURRENT written, and SHADOW in its place. -/
def descEnded (s : State) (se queue : Nat) (d : Desc) : State :=
  let q := getQueue s se queue
  setQueue (noteServed s se queue d) se queue { q with current := q.shadow, shadow := none, completion := completionWord s d, tile := 0 }

/-- The state after a DESCRIPTOR_COMPLETE of a CURRENT whose work is over. -/
def descCompleted (s : State) (se queue : Nat) (d : Desc) : State :=
  refreshSe (rearmReplayed (shadowBegun (descEnded s se queue d) se (getQueue s se queue).shadow)) se

section Complete
variable {s : State} {se queue : Nat} {d : Desc}

theorem exec_descriptorComplete_over (hd : (getQueue s se queue).current = some d) (ho : descOver s se queue d = true) :
    exec (.descriptorComplete se queue) s = .next (descCompleted s se queue d) := by
  change execDescriptorComplete _ _ _ = _
  simp only [execDescriptorComplete, descCompleted, hd, ho, Bool.not_true, Bool.false_eq_true, if_false]
  cases hq : (getQueue s se queue).shadow <;> simp only [descEnded, shadowBegun, hq]

theorem exec_descriptorComplete_running (hd : (getQueue s se queue).current = some d) (ho : descOver s se queue d = false) :
    exec (.descriptorComplete se queue) s = .next s := by
  change execDescriptorComplete _ _ _ = _
  simp [execDescriptorComplete, hd, ho]

theorem descEnded_wordsKept (s : State) (se queue : Nat) (d : Desc) : WordsKept (descEnded s se queue d) (descCompleted s se queue d) :=
  ((shadowBegun_wordsKept _ _ _).trans (.rearmReplayed _)).trans (.refreshSe _ _)

theorem descCompleted_stk (s : State) (se queue : Nat) (d : Desc) : (descCompleted s se queue d).stk = s.stk :=
  (descEnded_wordsKept s se queue d).stk.trans (by simp [descEnded])

theorem completion_descCompleted (s : State) (se queue : Nat) (d : Desc) :
    (getQueue (descCompleted s se queue d) se queue).completion = completionWord s d :=
  ((descEnded_wordsKept s se queue d).word se queue).trans (by simp [descEnded])

theorem getQueue_descCompleted (hr : s.streams.rearm = []) : getQueue (descCompleted s se queue d) se queue =
    { getQueue s se queue with current := (getQueue s se queue).shadow, shadow := none, tile := 0, completion := completionWord s d } := by
  have hrearm : (shadowBegun (descEnded s se queue d) se (getQueue s se queue).shadow).streams.rearm = [] := by
    simp [descEnded, setQueue, hr]
  rw [descCompleted, getQueue_refreshSe, getQueue_rearmReplayed_of_nil hrearm, getQueue_shadowBegun, descEnded, getQueue_setQueue_same]

theorem descCompleted_stp (s : State) (se queue : Nat) (d : Desc) : (descCompleted s se queue d).stp = (noteServed s se queue d).stp := by
  simp [descCompleted, descEnded]

end Complete

/-! ### The lines of an inbound run (R295, R310) -/

/-- Line `i` of a run at `a` written. -/
def lineTaken (fs : List Flit) (a : Nat) (s : State) (i : Nat) : State :=
  match fs[i]? with
  | some f => stkWrite s (a + 64 * i) (slice f.data 0 64) f.poison
  | none => s

/-- The first `k` lines of a run written. -/
def linesTaken (fs : List Flit) (a k : Nat) (s : State) : State := (List.range k).foldl (lineTaken fs a) s

section Lines
variable {fs : List Flit} {a i : Nat} {f : Flit}

theorem lineTaken_some (hf : fs[i]? = some f) (s : State) : lineTaken fs a s i = stkWrite s (a + 64 * i) (slice f.data 0 64) f.poison := by
  simp [lineTaken, hf]

theorem lineTaken_eq (fs : List Flit) (a i : Nat) (s : State) : ∃ x, lineTaken fs a s i = { s with stk := x } := by
  unfold lineTaken
  split <;> exact ⟨_, rfl⟩

theorem linesTaken_eq (fs : List Flit) (a k : Nat) (s : State) : ∃ x, linesTaken fs a k s = { s with stk := x } :=
  List.foldlRecOn (motive := fun t : State => ∃ x, t = { s with stk := x }) _ _ ⟨_, rfl⟩ fun t ht i _ => by
    obtain ⟨x, rfl⟩ := ht
    obtain ⟨y, hy⟩ := lineTaken_eq fs a i { s with stk := x }
    exact ⟨y, hy⟩

theorem linesTaken_succ (fs : List Flit) (a k : Nat) (s : State) : linesTaken fs a (k + 1) s = lineTaken fs a (linesTaken fs a k s) k := by
  rw [linesTaken, List.range_succ, List.foldl_append]
  rfl

theorem memRead_lineTaken {x : Nat} (s : State) (hx : x < a + 64 * i ∨ a + 64 * i + 64 ≤ x) :
    memRead (lineTaken fs a s i).stk.mem x = memRead s.stk.mem x := by
  unfold lineTaken
  split
  · exact memRead_store_other _ _ _ _ (by rwa [length_slice])
  · rfl

theorem memRead_linesTaken {k x : Nat} (s : State) (hx : x < a ∨ a + 64 * k ≤ x) :
    memRead (linesTaken fs a k s).stk.mem x = memRead s.stk.mem x := by
  induction k with
  | zero => rfl
  | succ k ih => rw [linesTaken_succ, memRead_lineTaken _ (by omega), ih (by omega)]

theorem holdsBytes_linesTaken {k : Nat} (s : State) (hi : i < k) (hf : fs[i]? = some f) :
    HoldsBytes (linesTaken fs a k s).stk.mem (a + 64 * i) (slice f.data 0 64) := by
  induction k with
  | zero => exact absurd hi (Nat.not_lt_zero i)
  | succ k ih =>
    rw [linesTaken_succ]
    rcases Nat.lt_succ_iff_lt_or_eq.mp hi with hlt | rfl
    · refine (ih hlt).congr fun x _ hx => memRead_lineTaken _ (.inl ?_)
      rw [length_slice] at hx
      omega
    · rw [lineTaken_some hf]
      exact holdsBytes_memStore ..

theorem stkRead_linesTaken {k : Nat} (s : State) (hi : i < k) (hf : fs[i]? = some f) :
    stkRead (linesTaken fs a k s) (a + 64 * i) 64 = slice f.data 0 64 := by
  have h := holdsBytes_linesTaken (a := a) s hi hf
  rwa [HoldsBytes, length_slice] at h

end Lines

/-! ### What is counted with an inbound run (R305, R311, R319) -/

/-- A run delivered after its need time counted. -/
def lateCounted (s : State) (se : Nat) (late : Bool) : State := if late then raise (count64 s (Key.seLateRuns se)) Key.streamFlags 2 else s

section Counts
variable (s : State) (se seq a n : Nat) (late : Bool)

@[simp] theorem lateCounted_stk : (lateCounted s se late).stk = s.stk := by unfold lateCounted; split <;> simp
@[simp] theorem lateCounted_streams : (lateCounted s se late).streams = s.streams := by unfold lateCounted; split <;> simp
@[simp] theorem writeLayby_stk : (writeLayby s seq a n).stk = s.stk := by unfold writeLayby; split <;> simp
@[simp] theorem writeLayby_streams : (writeLayby s seq a n).streams = s.streams := by unfold writeLayby; split <;> simp
@[simp] theorem countPoison_stk : (countPoison s se n).stk = s.stk := by unfold countPoison; split <;> simp
@[simp] theorem countPoison_streams : (countPoison s se n).streams = s.streams := by unfold countPoison; split <;> simp

theorem writeLayby_kept : Kept [Key.seLateRuns se] s (writeLayby s seq a n) :=
  .ite (.stp (.add .refl Key.laybyStackBytes 64 n fun h => by
    simp only [Key.laybyStackBytes, Key.seLateRuns, List.mem_singleton] at h; omega) _) .refl

theorem countPoison_kept : Kept [Key.seLateRuns se] s (countPoison s se n) :=
  .ite .refl (.flag (.add .refl (Key.seFlitsPoisoned se) 64 n fun h => by
    simp only [Key.seFlitsPoisoned, Key.seLateRuns, List.mem_singleton] at h; omega) _ _)

end Counts

theorem anyPoison_eq_length (fs : List Flit) : anyPoison fs = ((fs.filter fun f => f.poison).length != 0) := by
  rw [Bool.eq_iff_iff]
  simp [anyPoison]

/-! ### An inbound packet (R306, R310) -/

section Inbound
variable {s : State} {se queue j : Nat} {d : Desc} {p : Packet} {late : Bool}

/-- The queue after run `j`, its CURRENT with the run done. -/
def runDone (q : Queue) (d : Desc) (j : Nat) (fs : List Flit) (late : Bool) : Queue :=
  { q with
    moved := true
    current := some { d with
      done := nsIns j d.done
      poisoned := d.poisoned || (fs.filter (fun f => f.poison)).length != 0
      late := d.late + b2n late } }

/-- Run `j` written: its lines at its address, its queue after it. -/
def runWritten (s : State) (se queue j : Nat) (d : Desc) (p : Packet) (late : Bool) : State :=
  let fs := p.flits.take (dsRunBytes d.bytes / 64)
  setQueue (linesTaken fs (runAt d.bytes (dsDest d.bytes) j).toNat (dsRunBytes d.bytes / 64) s) se queue
    (runDone (getQueue s se queue) d j fs late)

section Accepted
variable (s : State) (se queue j : Nat) (d : Desc) (p : Packet) (late : Bool)

theorem getN_runWritten (k : Nat) : getN (runWritten s se queue j d p late) k = getN s k := by
  obtain ⟨x, hx⟩ := linesTaken_eq (p.flits.take (dsRunBytes d.bytes / 64)) (runAt d.bytes (dsDest d.bytes) j).toNat (dsRunBytes d.bytes / 64) s
  rw [runWritten, hx]
  rfl

theorem acceptInbound_eq : acceptInbound s se queue j d p late =
    countPoison (writeLayby (lateCounted (runWritten s se queue j d p late) se late) (dsSequence d.bytes)
        (runAt d.bytes (dsDest d.bytes) j).toNat (64 * (dsRunBytes d.bytes / 64)))
      se ((p.flits.take (dsRunBytes d.bytes / 64)).filter fun f => f.poison).length := rfl

theorem acceptInbound_stk : (acceptInbound s se queue j d p late).stk =
    (linesTaken (p.flits.take (dsRunBytes d.bytes / 64)) (runAt d.bytes (dsDest d.bytes) j).toNat (dsRunBytes d.bytes / 64) s).stk := by
  simp [acceptInbound_eq, runWritten]

theorem current_acceptInbound : (getQueue (acceptInbound s se queue j d p late) se queue).current = some { d with
      done := nsIns j d.done
      poisoned := d.poisoned || anyPoison (p.flits.take (dsRunBytes d.bytes / 64))
      late := d.late + b2n late } := by
  rw [getQueue_of_queues (s := runWritten s se queue j d p late) (by simp [acceptInbound_eq]), runWritten, getQueue_setQueue_same, anyPoison_eq_length]
  rfl

/-- What a run counts after its lateness leaves LATE_RUNS and the flags. -/
theorem acceptInbound_kept :
    Kept [Key.seLateRuns se] (lateCounted (runWritten s se queue j d p late) se late) (acceptInbound s se queue j d p late) :=
  (writeLayby_kept _ se _ _ _).trans (countPoison_kept _ se _)

theorem acceptInbound_late : getN (acceptInbound s se queue j d p true) (Key.seLateRuns se) = satAdd 64 (getN s (Key.seLateRuns se)) 1 ∧
    bit (stGet (acceptInbound s se queue j d p true).raised Key.streamFlags) 2 = true := by
  have hkept := acceptInbound_kept s se queue j d p true
  refine ⟨(hkept.objs _ (List.mem_singleton_self _)).trans ?_, hkept.raised _ _ (bit_raised_raise _ _ _)⟩
  rw [lateCounted, if_pos rfl, getN_raise, getN_count64_same, getN_runWritten]

end Accepted

theorem inboundAt_accepts (hd : (getQueue s se queue).current = some d) (hdir : dsDir d.bytes = 1) (hc : d.cancelled = false)
    (hj : inboundRun d p = some j) (hn : d.done.contains j = false) :
    inboundAt s se queue p late = acceptInbound s se queue j d p late := by
  simp only [inboundAt, hd, hdir, hc, hj, hn, ne_eq, not_true_eq_false, Bool.false_eq_true, or_self, if_false]

/-- A packet is discarded unless CURRENT is an inbound stream of which it brings a run not yet written. -/
theorem inboundAt_discards (h : ∀ d, (getQueue s se queue).current = some d → dsDir d.bytes = 1 → d.cancelled = false →
    ∀ j, inboundRun d p = some j → d.done.contains j = true) : inboundAt s se queue p late = discardInbound s se := by
  unfold inboundAt
  split
  · rfl
  · next d hd =>
    split
    · rfl
    · next hopen =>
      obtain ⟨hdir, hc⟩ := not_or.mp hopen
      split
      · rfl
      · next j hj => exact if_pos (h d hd (not_not.mp hdir) (Bool.eq_false_iff.mpr hc) j hj)

theorem exec_inboundPacket_live {crescent i : Nat} (hcr : crescent < 4) (hi : i < 8) (hq : queue < 16) (hl : seLive s (8 * crescent + i) = true) :
    exec (.inboundPacket crescent (0x80 + 16 * i + queue) ⟨p, late⟩) s = .next (inboundAt s (8 * crescent + i) queue p late) := by
  have hdiv : (0x80 + 16 * i + queue - 0x80) / 16 = i := by omega
  have hmod : (0x80 + 16 * i + queue - 0x80) % 16 = queue := by omega
  have hrange : ¬(4 ≤ crescent ∨ 0x80 + 16 * i + queue < 0x80 ∨ 256 ≤ 0x80 + 16 * i + queue) := by omega
  change execInboundPacket _ _ _ _ = _
  simp only [execInboundPacket, hdiv, hmod]
  rw [if_neg]
  simpa [hl, or_assoc] using hrange

end Inbound

end Sys2Proof.Machine


/-! PROOFS. The streams' commands (12_streams_memory.md R306 to R311, R317 to R319, R324; 09_backward_pass.md R227), and O46. -/

namespace Sys2Proof.Machine

/-- Settles O46: an arm by the check of its descriptor, a completion by whether the work is over, an inbound packet by whether its run is new. -/
theorem streamsArmTakeAndComplete : Obligations.StreamsArmTakeAndComplete := by
  unfold Obligations.StreamsArmTakeAndComplete
  refine ⟨fun s se w hs ha => ⟨fun hv hr => ?_, fun hv hr => ?_, fun hv => ?_⟩, fun s crescent endpoint se p he hl => ⟨fun hg => ?_, fun hb => ?_⟩,
    fun s se w hs ha => ?_, fun s se queue d hd => ⟨fun ho => ?_, exec_descriptorComplete_running hd⟩,
    fun s crescent i queue p late hcr hi hq hl => ⟨fun d hd hdir hc => ⟨fun j hj hn => ?_, fun hno => ?_⟩, fun hno => ?_⟩⟩
  · exact ⟨_, exec_arm_done hs ha (armCheck_ok hv hr), armed_armDesc s se w.bytes, congrArg (· ++ _) (armFrom_out [] s se w.bytes)⟩
  · exact exec_arm_refused hs ha (armCheck_full hv hr) (by decide)
  · exact exec_arm_refused hs ha (armCheck_bad hv) (by decide)
  · exact ⟨_, exec_armPacket_good he hl hg, armed_armDesc s se (flitBytes p.flits)⟩
  · exact exec_armPacket_bad he hl hb
  · exact ⟨_, exec_cancel_done hs ha, getQueue_setQueue_same s se w.val _, rfl, rfl⟩
  · refine ⟨_, exec_descriptorComplete_over hd ho, descCompleted_stk s se queue d, completion_descCompleted s se queue d, getQueue_descCompleted,
      fun p g hp hg hse hqn hdir hc => ?_⟩
    rw [descCompleted_stp]
    exact mem_outGrads_noteServed hp hg hse hqn hdir hc
  · refine ⟨_, _, (exec_inboundPacket_live hcr hi hq hl).trans (congrArg _ (inboundAt_accepts hd hdir hc hj hn)), current_acceptInbound .., rfl, rfl,
      ?_, rfl, fun l f hlk hf => ?_, fun x hx => ?_⟩
    · rintro rfl
      exact acceptInbound_late ..
    · rw [stkRead, acceptInbound_stk]
      exact stkRead_linesTaken s hlk (by rwa [List.getElem?_take_of_lt hlk])
    · rw [acceptInbound_stk]
      exact memRead_linesTaken s hx
  · refine (exec_inboundPacket_live hcr hi hq hl).trans (congrArg _ (inboundAt_discards fun d' hd' _ _ j hj => ?_))
    obtain rfl := Option.some.inj (hd.symm.trans hd')
    rcases hno with hnone | ⟨j', hj', hdone⟩
    · exact absurd (hnone.symm.trans hj) (by simp)
    · exact Option.some.inj (hj'.symm.trans hj) ▸ hdone
  · refine (exec_inboundPacket_live hcr hi hq hl).trans (congrArg _ (inboundAt_discards fun d hd hdir hc => ?_))
    rcases hno with hnone | ⟨d', hd', hout⟩
    · exact absurd (hnone.symm.trans hd) (by simp)
    · obtain rfl := Option.some.inj (hd'.symm.trans hd)
      exact hout.elim (absurd hdir) (by simp [hc])

end Sys2Proof.Machine
